-- ==== Sys2Proof/Word.lean ====
section
/-! DEFINITION. The word types of the Filxus OL9 and their plainest readings. -/

namespace Sys2Proof

/-- A scalar register's value (R25). -/
abbrev Word := BitVec 64

/-- A byte of memory. -/
abbrev Byte := BitVec 8

/-- A virtual code address (R26). -/
abbrev Addr := BitVec 52

/-- A mask register: 4,096 bits (R25, R30). -/
abbrev MaskBits := BitVec 4096

/-- A value with its tarnish bit (R315). -/
structure TWord where
  val  : Word
  tarn : Bool
  deriving DecidableEq, Repr

/-- Zero, untarnished. -/
def TWord.zero : TWord := { val := 0, tarn := false }

/-- A value, untarnished. -/
def TWord.of (v : Word) : TWord := { val := v, tarn := false }

end Sys2Proof
end

