-- ==== Sys2Proof/Config.lean ====
section
/-! DEFINITION. What the spec leaves open: constants without a body, so that nothing can be proved of a particular value.
A `Nat` argument named `k` is the counter `State.fresh`, which the step reads and advances. -/

namespace Sys2Proof.Config

/-- Arithmetic-clock cycles since device reset when the model has taken `k` steps (R33 CYCLE; timing is not modelled). Log 3. -/
opaque cycles (k : Nat) : Nat

/-- A free choice among alternatives that the spec allows: the old or the new word of a fetch after an unfenced store (R111),
a cached or a fresh translation (R303), a guest copy still in the L1 or not (R308), the byte of one or
the other of two commands that overlap (R233). Log 4. -/
opaque pick (k : Nat) : Nat

/-- The result bits of a restarted instruction whose destination purse was written before the restart (R144). Log 5. -/
opaque restartBits (k : Nat) : Nat

/-- Nanoseconds since the last cold reset when the model has taken `k` steps (R428 TIME, R348). Log 3. -/
opaque nanos (k : Nat) : Nat

/-- The home slice of a 256-byte block among the partition's slices of its die: a fixed function that a program cannot observe (R290). Log 4. -/
opaque homeSlice (part block : Nat) : Nat

/-- What the decoder of R346 gives for a unit with more erroneous bytes than its code corrects, from the data as written and as held: nothing, or
512 other bytes. No rule says. Log 26. -/
opaque decodeBeyond (wrote held : List Byte) : Option (List Byte)

/-- Packet bytes of a heartbeat flit (R429), which no rule gives. Log 9. -/
opaque heartbeatByte (link i : Nat) : Byte

/-- The context area that the runtime assigns to a strand at launch (R148): a physical address. Log 8. -/
opaque contextArea (launch flat : Nat) : Nat

/-- Packet bytes of a DEVFAIL flit that names a device, and of a fatal-error flit (R429), which no rule gives. Log 9. -/
opaque devfailByte (link dev i : Nat) : Byte
opaque fatalByte (link i : Nat) : Byte

/-- The device's private identity key, which never leaves it (R424), and the secret number that a signature over a digest takes. Log 9. -/
opaque identityKey : Nat
opaque signSecret (digest : Nat) : Nat

/-- The Swisol public key whose hash is fused into the device (R423): its point's coordinates. Log 9. -/
opaque publicKey : Nat × Nat

/-- What an SPDM signature is over (R424): the standard's transcript of a function's requests and of the reply up to its signature, with the nonces of
both sides, for a request with `nonce`. Log 9. -/
opaque spdmTranscript (fn : Nat) (nonce content : List Byte) : List Byte

/-- The nonce of an SPDM reply (R424). Log 9. -/
opaque spdmNonce (n : Nat) : List Byte

/-- What the measurement block of an empty slot holds for hash and version (R424). Log 9. -/
opaque emptyMeasure (comp slot : Nat) : List Byte

/-- The device's certificate chain (R424). Log 9. -/
opaque certificateChain : List Byte

/-- The fused minimum security version of a component (R423). Log 9. -/
opaque fusedMinimum (comp : Nat) : Nat

/-- The target device refuses an access outside partition `rpart`'s ranges there (R396): another device's descriptors. Log 10. -/
opaque remoteRefuses (dev rpart addr : Nat) : Bool

/-- What the counters LBSTAT (R343) and SLCAP.SLOTS (R292) have come to: they depend on lanes and caches, which no rule fixes. Log 13. -/
opaque counter (k : Nat) (addr : Nat) : Nat

end Sys2Proof.Config
end

