-- ==== Sys2Proof/Machine/Num.lean ====
section
/-! DEFINITION. Exact values and their rounding (R18, R19, R52, R53, R56, R175): a value is a NaN, an infinity, or a sign and a
magnitude `m × 2^e`. A result that no `m × 2^e` equals (a quotient, a root, an exponential or a logarithm) is held as its
leading bits, at least 250 of them, with `more = true`: it lies strictly between `m × 2^e` and `(m + 1) × 2^e`. -/

namespace Sys2Proof.Machine

/-- An exact value. -/
inductive Ex where
  /-- NaN; `sig` says that encoding it raises NV: a signalling NaN, or the result of an invalid operation (R175). -/
  | nan (sig : Bool)
  /-- An infinity with its sign. -/
  | inf (neg : Bool)
  /-- The value `m × 2^e`, or (with `more`) one strictly between `m × 2^e` and `(m + 1) × 2^e`, with its sign. -/
  | fin (neg : Bool) (m : Nat) (e : Int) (more : Bool)
  /-- The largest magnitude the destination can hold, from a division by zero or a special function (R56, R175). -/
  | largest (neg : Bool)
  deriving DecidableEq, Repr

/-- Rounding modes (R31, R52). -/
inductive Rnd where
  | rne | rtz | rup | rdn | rna | sr
  deriving DecidableEq, Repr

/-- The mode an RM field names; 6 and 7 are invalid and never reach a rounding (R42). -/
def Rnd.ofField : Nat → Rnd
  | 0 => .rne | 1 => .rtz | 2 => .rup | 3 => .rdn | 4 => .rna | _ => .sr

/-- Arithmetic flags, NV in bit 0 up to NX in bit 4 (R58). -/
abbrev Flags := BitVec 5

def Flags.nv : Flags := 1
def Flags.dz : Flags := 2
def Flags.of : Flags := 4
def Flags.uf : Flags := 8
def Flags.nx : Flags := 16

/-- Flags raised when a condition holds. -/
def Flags.when (c : Bool) (f : Flags) : Flags := if c then f else 0

/-- The counter generator of R19. -/
def rng64 (seed srb : Word) (i : Nat) : Word :=
  let x := seed + (srb + BitVec.ofNat 64 i) * 0x9E3779B97F4A7C15
  let x := (x ^^^ (x >>> 30)) * 0xBF58476D1CE4E5B9
  let x := (x ^^^ (x >>> 27)) * 0x94D049BB133111EB
  x ^^^ (x >>> 31)

/-- What a rounding draws on: the mode, and SEED and SRB for the stochastic mode (R52, R53). -/
structure Draw where
  mode : Rnd
  seed : Word
  srb  : Word
  deriving DecidableEq, Repr

/-- Number of trailing zero bits, with `fuel` at least the number of bits. -/
def ctzAux : Nat → Nat → Nat
  | 0, _ => 0
  | fuel + 1, m => if m % 2 = 1 then 0 else 1 + ctzAux fuel (m / 2)

/-- Number of trailing zero bits of a positive number; 0 for 0. -/
def ctz (m : Nat) : Nat := if m = 0 then 0 else ctzAux (Nat.log2 m + 1) m

/-- Integer square root by digits: `k` more bits to decide below `r`. -/
def isqrtAux (n : Nat) : Nat → Nat → Nat
  | 0, r => r
  | k + 1, r => let c := r + 2 ^ k; if c * c ≤ n then isqrtAux n k c else isqrtAux n k r

/-- `floor (sqrt n)`. -/
def isqrt (n : Nat) : Nat := isqrtAux n (Nat.log2 n / 2 + 1) 0

/-- `round_to` of R52 on the positive magnitude `m × 2^e` (`more` as in `Ex.fin`): the rounded magnitude and whether it is inexact.
`i` is the index of R53. -/
def roundTo (dr : Draw) (i : Nat) (neg : Bool) (m : Nat) (e : Int) (more : Bool) (p : Int) : Nat × Int × Bool :=
  if m = 0 then (0, 0, false)
  else
    let lg := Nat.log2 m
    if (lg : Int) - p ≤ 0 then (m, e, more)
    else
      let k := ((lg : Int) - p).toNat
      let far := decide (lg + 66 < k)
      let lo := if far then 0 else m / 2 ^ k
      let rem := if far then 1 else m % 2 ^ k
      let half := if far then 2 else 2 ^ (k - 1)
      if rem = 0 && !more then (lo, e + k, false)
      else
        let up : Bool :=
          match dr.mode with
          | .rne => decide (half < rem) || (decide (rem = half) && (more || decide (lo % 2 = 1)))
          | .rna => decide (half ≤ rem)
          | .rtz => false
          | .rup => !neg
          | .rdn => neg
          | .sr =>
            if far then false
            else
              let d := if more then 64 else min 64 (k - ctz rem)
              let t := rem * 2 ^ d / 2 ^ k
              let q := (rng64 dr.seed dr.srb i).toNat / 2 ^ (64 - d)
              decide (2 ^ d ≤ t + q)
        (if up then lo + 1 else lo, e + k, true)

/-! ## Exact arithmetic (R175) -/

/-- The sign and magnitude of an integer as an exact value. -/
def Ex.ofInt (x : Int) : Ex := .fin (decide (x < 0)) x.natAbs 0 false

/-- Zero with a sign. -/
def Ex.zero (neg : Bool) : Ex := .fin neg 0 0 false

/-- The value is a signalling NaN. -/
def Ex.isSig : Ex → Bool
  | .nan s => s
  | _ => false

/-- The value is a NaN. -/
def Ex.isNan : Ex → Bool
  | .nan _ => true
  | _ => false

/-- The value is zero. -/
def Ex.isZero : Ex → Bool
  | .fin _ m _ _ => decide (m = 0)
  | _ => false

/-- The signed numerator of `m × 2^e` over `2^base`, for `base ≤ e`. -/
def scaledInt (neg : Bool) (m : Nat) (e base : Int) : Int :=
  let v : Int := m * 2 ^ (e - base).toNat
  if neg then -v else v

/-- Order of two values neither of which is NaN; −0 and +0 are equal. -/
def Ex.cmp (x y : Ex) : Ordering :=
  match x, y with
  | .fin n1 m1 e1 _, .fin n2 m2 e2 _ =>
    let b := min e1 e2
    compare (scaledInt n1 m1 e1 b) (scaledInt n2 m2 e2 b)
  | .inf n1, .inf n2 => compare (if n1 then (0 : Nat) else 1) (if n2 then 0 else 1)
  | .inf n, _ => if n then .lt else .gt
  | _, .inf n => if n then .gt else .lt
  | _, _ => .eq

/-- Negation; a NaN stays NaN (R183). -/
def Ex.neg : Ex → Ex
  | .nan s => .nan s
  | .inf n => .inf (!n)
  | .fin n m e k => .fin (!n) m e k
  | .largest n => .largest (!n)

/-- Absolute value (R183). -/
def Ex.abs : Ex → Ex
  | .nan s => .nan s
  | .inf _ => .inf false
  | .fin _ m e k => .fin false m e k
  | .largest _ => .largest false

/-- Exact sum. A NaN operand gives NaN, which raises NV when an operand is signalling; ∞ − ∞ is invalid; an exact sum of opposite
values is +0, or −0 under RDN (R175). -/
def Ex.add (rdn : Bool) (x y : Ex) : Ex :=
  match x, y with
  | .nan s, .nan t => .nan (s || t)
  | .nan s, _ => .nan s
  | _, .nan t => .nan t
  | .inf n1, .inf n2 => if n1 = n2 then .inf n1 else .nan true
  | .inf n, _ => .inf n
  | _, .inf n => .inf n
  | .fin n1 m1 e1 _, .fin n2 m2 e2 _ =>
    if m1 = 0 && m2 = 0 then .fin (if n1 = n2 then n1 else rdn) 0 0 false
    else
      let b := min e1 e2
      let v := scaledInt n1 m1 e1 b + scaledInt n2 m2 e2 b
      if v = 0 then .fin rdn 0 0 false else .fin (decide (v < 0)) v.natAbs b false
  | .largest n, _ => .largest n
  | _, .largest n => .largest n

/-- Exact product (R175). -/
def Ex.mul (x y : Ex) : Ex :=
  match x, y with
  | .nan s, .nan t => .nan (s || t)
  | .nan s, _ => .nan s
  | _, .nan t => .nan t
  | .inf n1, .inf n2 => .inf (n1 != n2)
  | .inf n1, .fin n2 m _ _ => if m = 0 then .nan true else .inf (n1 != n2)
  | .fin n1 m _ _, .inf n2 => if m = 0 then .nan true else .inf (n1 != n2)
  | .fin n1 m1 e1 _, .fin n2 m2 e2 _ => .fin (n1 != n2) (m1 * m2) (if m1 * m2 = 0 then 0 else e1 + e2) false
  | .largest n, _ => .largest n
  | _, .largest n => .largest n

/-- Quotient to its leading bits, exact when it ends (R175). -/
def quotient (neg : Bool) (m1 : Nat) (e1 : Int) (m2 : Nat) (e2 : Int) : Ex :=
  let k := 320 + Nat.log2 m2 + (e1 - e2).toNat
  let n := m1 * 2 ^ k
  .fin neg (n / m2) (e1 - e2 - k) (decide (n % m2 ≠ 0))

/-- Exact quotient with the special cases of R175. -/
def Ex.div (x y : Ex) : Ex :=
  match x, y with
  | .nan s, .nan t => .nan (s || t)
  | .nan s, _ => .nan s
  | _, .nan t => .nan t
  | .inf _, .inf _ => .nan true
  | .inf n1, .fin n2 _ _ _ => .inf (n1 != n2)
  | .fin n1 _ _ _, .inf n2 => .fin (n1 != n2) 0 0 false
  | .fin n1 m1 e1 _, .fin n2 m2 e2 _ =>
    if m2 = 0 then (if m1 = 0 then .nan true else .largest (n1 != n2))
    else if m1 = 0 then .fin (n1 != n2) 0 0 false
    else quotient (n1 != n2) m1 e1 m2 e2
  | .largest n, _ => .largest n
  | _, .largest n => .largest n

/-- `a × b + c` with the product's sign and the addend's sign given; 0 × ∞ raises NV even when the addend is NaN (R182). -/
def Ex.fma (rdn : Bool) (negProd negAdd : Bool) (a b c : Ex) : Ex :=
  let p := Ex.mul a b
  let p := if negProd then p.neg else p
  let c := if negAdd then c.neg else c
  Ex.add rdn p c

/-- Multiply by a power of two. -/
def Ex.scale (x : Ex) (c : Int) : Ex :=
  match x with
  | .fin n m e k => .fin n m (if m = 0 then 0 else e + c) k
  | y => y

/-- Minimum (`wantMax = false`) or maximum under R183: one NaN gives the other operand, −0 below +0, NV for a signalling operand. -/
def Ex.pick (wantMax : Bool) (x y : Ex) : Ex × Bool :=
  let nv := x.isSig || y.isSig
  match x, y with
  | .nan _, .nan _ => (.nan nv, nv)
  | .nan _, _ => (y, nv)
  | _, .nan _ => (x, nv)
  | _, _ =>
    let first : Bool :=
      match Ex.cmp x y with
      | .lt => !wantMax
      | .gt => wantMax
      | .eq =>
        match x, y with
        | .fin true 0 _ _, .fin false 0 _ _ => !wantMax
        | .fin false 0 _ _, .fin true 0 _ _ => wantMax
        | _, _ => true
    (if first then x else y, nv)

/-- The exact integer an integer code holds; 0 for what is no integer. -/
def Ex.toInt : Ex → Int
  | .fin n m e _ => scaledInt n m (max e 0) 0
  | _ => 0

/-! ## Special functions (R56) -/

/-- The square root of a positive `m × 2^e`, to its leading bits. -/
def sqrtPos (m : Nat) (e : Int) : Ex :=
  let j : Nat := 640 + (if e % 2 = 0 then 0 else 1)
  let n := m * 2 ^ j
  let r := isqrt n
  .fin false r ((e - j) / 2) (decide (r * r ≠ n))

/-- The reciprocal square root of a positive `m × 2^e`, to its leading bits. -/
def rsqrtPos (m : Nat) (e : Int) : Ex :=
  let j : Nat := 1280 + 2 * Nat.log2 m + (if e % 2 = 0 then 0 else 1)
  let q := 2 ^ j / m
  let r := isqrt q
  .fin false r ((-e - j) / 2) (decide (2 ^ j % m ≠ 0) || decide (r * r ≠ q))

/-- Fixed-point bits kept by `exp2Pos` and `log2Pos`. -/
def workBits : Nat := 1024

/-- The product of the roots `2^(2^-i)` over the set bits of a fraction, from its highest bit down. `c` is the last root. -/
def exp2Frac (frac : Nat) : Nat → Nat → Nat → Nat
  | 0, _, acc => acc
  | k + 1, c, acc =>
    let c := isqrt (c * 2 ^ workBits)
    exp2Frac frac k c (if frac / 2 ^ k % 2 = 1 then acc * c / 2 ^ workBits else acc)

/-- The exponent of a power of two, held within ±65536. Every code lies far inside that range, so a power beyond it encodes as the
power at its end does. The bound keeps the model's numbers small. -/
def powerExp (i : Int) : Int := max (-65536) (min 65536 i)

/-- 2 to the power of a dyadic number. -/
def exp2Ex (neg : Bool) (m : Nat) (e : Int) : Ex :=
  if 0 ≤ e then .fin false 1 (powerExp (scaledInt neg m e 0)) false
  else
    let k := (-e).toNat
    let x : Int := if neg then -(m : Int) else m
    let ip := x / 2 ^ k
    let frac := (x % 2 ^ k).toNat
    if frac = 0 then .fin false 1 (powerExp ip) false
    else
      let acc := exp2Frac frac k (2 * 2 ^ workBits) (2 ^ workBits)
      .fin false (acc / 2 ^ 512) (powerExp ip - 512) true

/-- The leading binary digits of the logarithm of a fraction in [1, 2), by repeated squaring. -/
def log2Frac : Nat → Nat → Nat → Nat
  | 0, _, acc => acc
  | k + 1, y, acc =>
    let y := y * y / 2 ^ workBits
    if 2 ^ (workBits + 1) ≤ y then log2Frac k (y / 2) (2 * acc + 1) else log2Frac k y (2 * acc)

/-- The base-2 logarithm of a positive dyadic number. -/
def log2Pos (m : Nat) (e : Int) : Ex :=
  let lg := Nat.log2 m
  let ip : Int := lg + e
  if m = 2 ^ lg then Ex.ofInt ip
  else
    let frac := log2Frac 320 (m * 2 ^ (workBits - lg)) 0
    let v : Int := ip * 2 ^ 320 + frac
    if v < 0 then .fin true (v.natAbs - 1) (-320) true else .fin false v.natAbs (-320) true

/-- The functions of major 0x23. -/
inductive Special where
  | sqrt | rsqrt | recip | exp2 | log2
  deriving DecidableEq, Repr

/-- The exact function of an operand, with the special cases of R56's table. -/
def Special.apply (f : Special) (x : Ex) : Ex :=
  match x with
  | .nan s => .nan s
  | .largest n => .largest n
  | .inf n =>
    match f with
    | .sqrt => if n then .nan true else .inf false
    | .rsqrt => if n then .nan true else .zero false
    | .recip => .zero n
    | .exp2 => if n then .zero false else .inf false
    | .log2 => if n then .nan true else .inf false
  | .fin n m e _ =>
    if m = 0 then
      match f with
      | .sqrt => .zero n
      | .rsqrt => .largest false
      | .recip => .largest n
      | .exp2 => .fin false 1 0 false
      | .log2 => .largest true
    else
      match f with
      | .sqrt => if n then .nan true else sqrtPos m e
      | .rsqrt => if n then .nan true else rsqrtPos m e
      | .recip => quotient n 1 0 m e
      | .exp2 => exp2Ex n m e
      | .log2 => if n then .nan true else log2Pos m e

end Sys2Proof.Machine
end

