-- ==== Sys2Proof/Machine/Codes.lean ====
section
/-! DEFINITION. Number codes to the last bit (R31, R41 to R51, R54): what each bit pattern stands for (`decode_code`) and how an
exact value becomes bits (`encode_code`). A stream of codes is a number whose bit k is stream bit k (R41). -/

namespace Sys2Proof.Machine

/-- The fields of a code register (R31). -/
structure Code where
  kind : Nat
  wid  : Nat
  p    : Nat
  rm   : Nat
  sat  : Bool
  scm  : Bool
  deriving DecidableEq, Repr

/-- Read a code-register image (R31). -/
def Code.ofWord (w : Word) : Code :=
  { kind := (w.extractLsb' 60 4).toNat, wid := (w.extractLsb' 56 4).toNat, p := (w.extractLsb' 51 5).toNat,
    rm := (w.extractLsb' 48 3).toNat, sat := w.getLsbD 47, scm := w.getLsbD 46 }

/-- MXFP4 or BFP. -/
def Code.isBlock (c : Code) : Bool := c.kind == 7 || c.kind == 8

/-- VI and the integers (R174). -/
def Code.isInteger (c : Code) : Bool := c.kind == 0 || c.kind == 9 || c.kind == 10

/-- Every field passes R42; an MXFP4 or BFP code with SCM = 1 does too (a matrix operand). -/
def Code.valid (c : Code) : Bool :=
  decide (c.rm ≤ 5) &&
  match c.kind with
  | 0 => true
  | 1 => decide (c.wid ≤ 7) && decide (2 ≤ c.p) && decide (c.p ≤ 20)
  | 8 => decide (2 ≤ c.wid) && decide (c.wid ≤ 8)
  | 9 | 10 => decide (c.wid ≤ 3)
  | k => decide (k ≤ 7)

/-- A code a purse operand of the vector unit may carry: valid, and no block code with scales in scale memory (R42). -/
def Code.vectorOk (c : Code) : Bool := c.valid && !(c.isBlock && c.scm)

/-- Bits of one code of constant length (R41); 0 for the other kinds. -/
def Code.fixedBits (c : Code) : Nat :=
  match c.kind with
  | 2 => 32 | 3 => 16 | 4 => 16 | 5 => 8 | 6 => 8
  | 9 | 10 => 8 * 2 ^ c.wid
  | _ => 0

/-- Kinds 2 to 6, 9 and 10 (R211). -/
def Code.isFixed (c : Code) : Bool := decide (c.fixedBits ≠ 0)

/-- Class limit L of a variable code (R42). -/
def Code.limit (c : Code) : Nat :=
  if c.kind = 0 then (if c.wid = 0 then 15 else c.wid) else (if c.wid = 0 then 7 else c.wid)

/-- Bits of one element of a block code (R41). -/
def Code.elemBits (c : Code) : Nat := if c.kind = 7 then 4 else c.wid

/-- Bits of a block of `n` elements, with its X when it stands in the stream, padded to a quantum (R41, R49). -/
def Code.blockBits (c : Code) (n : Nat) : Nat := (8 + n * c.elemBits + 3) / 4 * 4

/-- The rounding a code register asks for (R52). -/
def Code.draw (c : Code) (seed srb : Word) : Draw := { mode := Rnd.ofField c.rm, seed := seed, srb := srb }

/-- `n` stream bits from offset `o` (R41). -/
def bitsAt (s o n : Nat) : Nat := s / 2 ^ o % 2 ^ n

/-- A field of `n` bits read as two's complement. -/
def signed (n x : Nat) : Int := if 2 ^ n ≤ 2 * (x % 2 ^ n) then (x % 2 ^ n : Nat) - (2 ^ n : Nat) else (x % 2 ^ n : Nat)

/-- An integer as `n` bits of two's complement. -/
def toBits (n : Nat) (y : Int) : Nat := (y % (2 ^ n : Nat)).toNat

/-! ## Fixed floating codes (R47, R48) -/

/-- The parameters of a binary floating format. -/
structure Fmt where
  ebits  : Nat
  mbits  : Nat
  bias   : Int
  /-- Exponent of the largest finite value. -/
  emax   : Int
  /-- Its significand, `mbits + 1` bits. -/
  maxSig : Nat
  hasInf : Bool
  hasNan : Bool
  /-- The NaN the format produces. -/
  nanBits : Nat
  deriving DecidableEq, Repr

def Fmt.fp32 : Fmt := ⟨8, 23, 127, 127, 2 ^ 24 - 1, true, true, 0x7FC00000⟩
def Fmt.fp64 : Fmt := ⟨11, 52, 1023, 1023, 2 ^ 53 - 1, true, true, 0x7FF8000000000000⟩
def Fmt.bf16 : Fmt := ⟨8, 7, 127, 127, 2 ^ 8 - 1, true, true, 0x7FC0⟩
def Fmt.fp16 : Fmt := ⟨5, 10, 15, 15, 2 ^ 11 - 1, true, true, 0x7E00⟩
def Fmt.e4m3 : Fmt := ⟨4, 3, 7, 8, 14, false, true, 0x7F⟩
def Fmt.e5m2 : Fmt := ⟨5, 2, 15, 15, 2 ^ 3 - 1, true, true, 0x7E⟩
def Fmt.e2m1 : Fmt := ⟨2, 1, 1, 2, 3, false, false, 0⟩

/-- Bits of a value of the format. -/
def Fmt.bits (f : Fmt) : Nat := 1 + f.ebits + f.mbits

/-- Exponent of the smallest normal value. -/
def Fmt.emin (f : Fmt) : Int := 1 - f.bias

/-- The value of a pattern (R47). E4M3 keeps only S.1111.111 for NaN; E2M1 has none; every FP8 NaN reads as quiet. -/
def Fmt.decode (f : Fmt) (x : Nat) : Ex :=
  let man := x % 2 ^ f.mbits
  let ex := x / 2 ^ f.mbits % 2 ^ f.ebits
  let s := decide (x / 2 ^ (f.mbits + f.ebits) % 2 = 1)
  let top := decide (ex = 2 ^ f.ebits - 1)
  if top && f.hasInf then
    if man = 0 then .inf s
    else .nan (decide (f.mbits ≥ 7) && decide (man / 2 ^ (f.mbits - 1) = 0))
  else if top && f.hasNan && decide (man = 2 ^ f.mbits - 1) then .nan false
  else if ex = 0 then .fin s man (if man = 0 then 0 else f.emin - f.mbits) false
  else .fin s (2 ^ f.mbits + man) (f.emin + (ex - 1) - f.mbits) false

/-- The largest finite pattern, without sign. -/
def Fmt.maxBits (f : Fmt) : Nat := (f.emax + f.bias).toNat * 2 ^ f.mbits + (f.maxSig - 2 ^ f.mbits)

/-- The pattern of infinity, without sign. -/
def Fmt.infBits (f : Fmt) : Nat := (2 ^ f.ebits - 1) * 2 ^ f.mbits

/-- The sign bit in place. -/
def Fmt.signBit (f : Fmt) (neg : Bool) : Nat := if neg then 2 ^ (f.ebits + f.mbits) else 0

/-- The pattern of a magnitude the format holds exactly. -/
def Fmt.place (f : Fmt) (m : Nat) (e : Int) : Nat :=
  if m = 0 then 0
  else
    let x := (Nat.log2 m : Int) + e
    if x < f.emin then m * 2 ^ (e - (f.emin - f.mbits)).toNat / 2 ^ (f.emin - f.mbits - e).toNat
    else
      let sig := m * 2 ^ ((f.mbits : Int) - Nat.log2 m).toNat / 2 ^ ((Nat.log2 m : Int) - f.mbits).toNat
      (x + f.bias).toNat * 2 ^ f.mbits + (sig - 2 ^ f.mbits)

/-- A magnitude lies above the largest finite value. -/
def Fmt.tooBig (f : Fmt) (m : Nat) (e : Int) : Bool := Ex.cmp (.fin false m e false) (.fin false f.maxSig (f.emax - f.mbits) false) == .gt

/-- What an overflow gives (R48's table): the largest, an infinity, or the code's NaN. -/
def Fmt.overflow (f : Fmt) (mode : Rnd) (sat neg : Bool) : Nat :=
  let toLargest : Bool :=
    sat || match mode with
      | .rtz => true
      | .rup => neg
      | .rdn => !neg
      | _ => false
  if toLargest then f.signBit neg + f.maxBits
  else if f.hasInf then f.signBit neg + f.infBits
  else f.nanBits

/-- `encode_code` into a format of R47 (R48). -/
def Fmt.encode (f : Fmt) (dr : Draw) (sat : Bool) (i : Nat) (x : Ex) : Nat × Flags :=
  match x with
  | .nan s => (f.nanBits, .when s .nv)
  | .inf n =>
    if f.hasInf then (f.signBit n + f.infBits, 0)
    else if f.hasNan then (f.nanBits, .nv)
    else (f.signBit n + f.maxBits, .nv)
  | .largest n => (f.signBit n + (if f.hasInf then f.infBits else f.maxBits), .dz)
  | .fin n m e more =>
    if m = 0 then (f.signBit n, 0)
    else
      let x := (Nat.log2 m : Int) + e
      let (m', e', inx) := roundTo dr i n m e more (f.mbits - max 0 (f.emin - x))
      if m' ≠ 0 && f.tooBig m' e' then
        if f.hasNan then (f.overflow dr.mode sat n, .of ||| .nx) else (f.signBit n + f.maxBits, .nx)
      else
        let tiny := decide (m' = 0) || decide ((Nat.log2 m' : Int) + e' < f.emin)
        (f.signBit n + f.place m' e', .when inx .nx ||| .when (inx && tiny) .uf)

/-- The format of a fixed floating kind. -/
def Code.fmt (c : Code) : Fmt :=
  match c.kind with
  | 2 => .fp32 | 3 => .bf16 | 4 => .fp16 | 5 => .e4m3 | _ => .e5m2

/-! ## Integers (R51) and VI (R43, R44) -/

/-- The integer a finite value rounds to, and whether that is inexact. -/
def roundInt (dr : Draw) (i : Nat) (n : Bool) (m : Nat) (e : Int) (more : Bool) : Int × Bool :=
  let (m', e', inx) := roundTo dr i n m e more ((Nat.log2 m : Int) + e)
  (scaledInt n m' (max e' 0) 0, inx)

/-- Bring an integer into a range by saturation or by wrapping to `w` bits. -/
def narrow (sat : Bool) (lo hi : Int) (w : Nat) (isSigned : Bool) (y : Int) : Int :=
  if lo ≤ y ∧ y ≤ hi then y
  else if sat then (if y < lo then lo else hi)
  else if isSigned then signed w (toBits w y) else (toBits w y : Nat)

/-- Integer encoding with a range: the integer deposited and its flags (R44, R51). -/
def encodeInt (dr : Draw) (sat : Bool) (lo hi : Int) (w : Nat) (isSigned : Bool) (i : Nat) (x : Ex) : Int × Flags :=
  match x with
  | .nan _ => (0, .nv)
  | .inf n => (if n then lo else hi, .nv)
  | .largest n => (if n then lo else hi, .dz)
  | .fin n m e more =>
    let (y, inx) := roundInt dr i n m e more
    (narrow sat lo hi w isSigned y, .when inx .nx ||| .when (!decide (lo ≤ y ∧ y ≤ hi)) .of)

/-- Quanta a VI value needs: the smallest `n` with y in 4n bits of two's complement; 0 only for 0 (R44). -/
def viClassAux (y : Int) : Nat → Nat → Nat
  | 0, n => n
  | fuel + 1, n => if -(2 ^ (4 * n - 1) : Int) ≤ y ∧ y ≤ 2 ^ (4 * n - 1) - 1 then n else viClassAux y fuel (n + 1)

def viClass (y : Int) : Nat := if y = 0 then 0 else viClassAux y 15 1

/-- The canonical VI code of an integer (R43, R44): bits and length. -/
def viBits (y : Int) : Nat × Nat :=
  let n := viClass y
  (n + 16 * toBits (4 * n) y, 4 + 4 * n)

/-! ## VF (R45, R46) -/

def vfE (n : Nat) : Nat := n + 1
def vfF (n : Nat) : Nat := 3 * n - 1
def vfEmin (n : Nat) : Int := -(2 ^ (vfE n - 1) : Nat)
def vfEmax (n : Nat) : Int := (2 ^ (vfE n - 1) : Nat) - 1

/-- The value of a VF code's header and payload (R45). -/
def vfDecode (h payload : Nat) : Ex :=
  let s := decide (h / 8 % 2 = 1)
  let n := h % 8
  if n = 0 then (if s then .nan false else .zero false)
  else
    let e := signed (vfE n) payload
    let f := payload / 2 ^ vfE n % 2 ^ vfF n
    .fin s (2 ^ vfF n + f) (e - vfF n) false

/-- The smallest class that holds exponent `e` and `t` fraction bits. -/
def vfClassAux (e : Int) (t : Nat) : Nat → Nat → Nat
  | 0, n => n
  | fuel + 1, n => if vfEmin n ≤ e ∧ e ≤ vfEmax n ∧ t ≤ vfF n then n else vfClassAux e t fuel (n + 1)

/-- A VF code from its parts. -/
def vfBits (s : Bool) (n : Nat) (e : Int) (f : Nat) : Nat × Nat :=
  ((if s then 8 else 0) + n + 16 * (f * 2 ^ vfE n + toBits (vfE n) e), 4 + 4 * n)

/-- `encode_vf` of R46. -/
def vfEncode (dr : Draw) (limit prec : Nat) (i : Nat) (x : Ex) : Nat × Nat × Flags :=
  match x with
  | .nan s => (8, 4, .when s .nv)
  | .inf _ => (8, 4, .nv)
  | .largest n =>
    let (b, l) := vfBits n limit (vfEmax limit) (2 ^ vfF limit - 1)
    (b, l, .dz)
  | .fin n m e more =>
    if m = 0 then (0, 4, 0)
    else
      let (m', e', inx) := roundTo dr i n m e more (min prec (vfF limit))
      let lg := Nat.log2 m'
      let x := (lg : Int) + e'
      let fl := Flags.when inx .nx
      if vfEmax limit < x then
        let (b, l) := vfBits n limit (vfEmax limit) (2 ^ vfF limit - 1)
        (b, l, fl ||| .of ||| .nx)
      else if x < vfEmin limit then (0, 4, fl ||| .uf ||| .nx)
      else
        let z := ctz m'
        let t := lg - z
        let k := vfClassAux x t 6 1
        let f := (m' / 2 ^ z - 2 ^ t) * 2 ^ (vfF k - t)
        let (b, l) := vfBits n k x f
        (b, l, fl)

/-! ## One code -/

/-- The value of one code of `len` bits of a kind other than a block code (`decode_code`, R18). -/
def Code.decodeBits (c : Code) (len raw : Nat) : Ex :=
  match c.kind with
  | 0 => Ex.ofInt (if len ≤ 4 then 0 else signed (len - 4) (raw / 16))
  | 1 => vfDecode (raw % 16) (raw / 16)
  | 9 => Ex.ofInt (signed len raw)
  | 10 => Ex.ofInt (raw % 2 ^ len : Nat)
  | _ => c.fmt.decode (raw % 2 ^ len)

/-- `encode_code` into a kind other than a block code: bits, length, flags (R44, R46, R48, R51). -/
def Code.encodeElem (c : Code) (dr : Draw) (i : Nat) (x : Ex) : Nat × Nat × Flags :=
  match c.kind with
  | 0 =>
    let l := 4 * c.limit
    let (y, fl) := encodeInt dr c.sat (-(2 ^ (l - 1) : Nat)) ((2 ^ (l - 1) : Nat) - 1) l true i x
    let (b, n) := viBits y
    (b, n, fl)
  | 1 => vfEncode dr c.limit c.p i x
  | 9 =>
    let w := c.fixedBits
    let (y, fl) := encodeInt dr c.sat (-(2 ^ (w - 1) : Nat)) ((2 ^ (w - 1) : Nat) - 1) w true i x
    (toBits w y, w, fl)
  | 10 =>
    let w := c.fixedBits
    let (y, fl) := encodeInt dr c.sat 0 ((2 ^ w : Nat) - 1) w false i x
    (toBits w y, w, fl)
  | _ =>
    let (b, fl) := c.fmt.encode dr c.sat i x
    (b, c.fixedBits, fl)

/-- Length of the whole code at `off` of a stream with `fill` bits, when the header and the length it gives lie below the fill (R156). -/
def Code.lenAt (c : Code) (s fill off : Nat) : Option Nat :=
  if c.isFixed then (if off + c.fixedBits ≤ fill then some c.fixedBits else none)
  else if off + 4 ≤ fill then
    let h := bitsAt s off 4
    let l := 4 + 4 * (if c.kind = 0 then h else h % 8)
    if off + l ≤ fill then some l else none
  else none

/-! ## Blocks (R49, R50) -/

/-- The value of one element of a block with shared byte `x` (R49). -/
def Code.blockElem (c : Code) (x raw : Nat) : Ex :=
  if x = 255 then .nan false
  else if c.kind = 7 then (Fmt.e2m1.decode (raw % 16)).scale ((x : Int) - 127)
  else
    let m := signed c.elemBits raw
    if m = 0 then .zero false else .fin (decide (m < 0)) m.natAbs ((x : Int) - 127 - (c.elemBits - 1)) false

/-- The elements of a block whose first element's bits stand at `off`. -/
def Code.blockElems (c : Code) (s x off : Nat) : Nat → List Ex
  | 0 => []
  | n + 1 => c.blockElem x (bitsAt s off c.elemBits) :: c.blockElems s x (off + c.elemBits) n

/-- Elements of the block at `off`: 32, or for a short last block the largest count whose block fits below the fill (R49). -/
def Code.blockCountAux (c : Code) (room : Nat) : Nat → Nat
  | 0 => 0
  | n + 1 => if c.blockBits (n + 1) ≤ room then n + 1 else c.blockCountAux room n

def Code.blockCount (c : Code) (fill off : Nat) : Nat := c.blockCountAux (fill - off) 32

/-- The magnitude a value contributes to `amax` of a block: finite nonzero values, and ±largest as R50 gives. -/
def Code.blockMag (c : Code) (x : Ex) : Option (Nat × Int) :=
  match x with
  | .fin _ m e _ => if m = 0 then none else some (m, e)
  | .largest _ => if c.kind = 7 then some (3, 128) else some (2 ^ (c.elemBits - 1) - 1, 128 - (c.elemBits : Int))
  | _ => none

/-- Exponent of the largest finite nonzero magnitude, if there is one. -/
def Code.blockExp (c : Code) : List Ex → Option Int
  | [] => none
  | x :: xs =>
    match c.blockMag x, c.blockExp xs with
    | none, r => r
    | some (m, e), none => some ((Nat.log2 m : Int) + e)
    | some (m, e), some r => some (max ((Nat.log2 m : Int) + e) r)

/-- A block element as a finite value: ±largest takes the largest magnitude a block element can hold (R50). -/
def Code.blockFin (c : Code) (x : Ex) : Ex :=
  match x with
  | .largest n => match c.blockMag x with | some (m, e) => .fin n m e false | none => .zero n
  | y => y

/-- One element's field and flags under X. `low` says that X would have fallen below 0. Of the elements then too small, every inexact one of a BFP
block raises UF, and of an MXFP4 block every inexact one that R48 calls tiny (R50; DESIGN CHOICE, log 45). -/
def Code.encodeBlockElem (c : Code) (dr : Draw) (x : Nat) (low : Bool) (i : Nat) (v : Ex) : Nat × Flags :=
  let dz := match v with | .largest _ => true | _ => false
  let (b, fl) : Nat × Flags :=
    if c.kind = 7 then Fmt.e2m1.encode dr false i ((c.blockFin v).scale (127 - (x : Int)))
    else
      match (c.blockFin v).scale (127 + (c.elemBits - 1) - (x : Int)) with
      | .fin n m e more =>
        let (y, inx) := roundInt dr i n m e more
        let lo : Int := -(2 ^ (c.elemBits - 1) : Nat)
        let hi : Int := (2 ^ (c.elemBits - 1) : Nat) - 1
        let lim := !decide (lo ≤ y ∧ y ≤ hi)
        (toBits c.elemBits (max lo (min hi y)), .when (inx || lim) .nx ||| .when (inx && low) .uf)
      | _ => (0, 0)
  if dz then (b, .dz) else (b, fl)

/-- The fields of a block's elements laid side by side, and their flags with their indices. -/
def Code.encodeBlockElems (c : Code) (dr : Draw) (x : Nat) (low : Bool) : Nat → List Ex → Nat × List (Nat × Flags)
  | _, [] => (0, [])
  | i, v :: vs =>
    let (b, fl) := c.encodeBlockElem dr x low i v
    let (bs, fls) := c.encodeBlockElems dr x low (i + 1) vs
    (b + bs * 2 ^ c.elemBits, (i, fl) :: fls)

/-- `encode_code` into a block, its X chosen from the whole block (R50): bits, length, and each element's flags. A block of zeros alone has every
field 0, a -0 among them too (DESIGN CHOICE, log 45). -/
def Code.encodeBlock (c : Code) (dr : Draw) (i : Nat) (vs : List Ex) : Nat × Nat × List (Nat × Flags) :=
  let len := c.blockBits vs.length
  let special : Ex → Bool := fun v => match v with | .nan _ => true | .inf _ => true | _ => false
  if vs.any special then
    let fl : Ex → Flags := fun v => match v with | .nan s => .when s .nv | .inf _ => .nv | .largest _ => .dz | _ => 0
    (255, len, (List.range vs.length).zip (vs.map fl) |>.map fun (k, f) => (i + k, f))
  else
    match c.blockExp vs with
    | none => (0, len, [])
    | some ex =>
      let x0 : Int := if c.kind = 7 then ex - 2 + 127 else ex + 128
      let x := (max 0 (min 254 x0)).toNat
      let (b, fls) := c.encodeBlockElems dr x (decide (x0 < 0)) i vs
      (x + 256 * b, len, (if 254 < x0 then [(i, Flags.of)] else []) ++ fls)

/-! ## A purse's stream as items: one code, or one block -/

/-- One code or one block of a stream: its values, its bits, and where it stands. -/
structure Item where
  xs  : List Ex
  raw : Nat
  len : Nat
  off : Nat
  deriving DecidableEq, Repr

/-- The whole codes or blocks of a stream from `off`, at most `fuel` of them. A last code cut short by the fill is left out (R156). -/
def Code.items (c : Code) (s fill : Nat) : Nat → Nat → List Item
  | 0, _ => []
  | fuel + 1, off =>
    if c.isBlock then
      let n := c.blockCount fill off
      if n = 0 then []
      else
        let len := c.blockBits n
        { xs := c.blockElems s (bitsAt s off 8) (off + 8) n, raw := bitsAt s off len, len := len, off := off } ::
          (if n = 32 then c.items s fill fuel (off + len) else [])
    else
      match c.lenAt s fill off with
      | none => []
      | some len =>
        let raw := bitsAt s off len
        { xs := [c.decodeBits len raw], raw := raw, len := len, off := off } :: c.items s fill fuel (off + len)

/-- At most 4,096 codes, or 128 blocks (R151). -/
def Code.maxItems (c : Code) : Nat := if c.isBlock then 128 else 4096

/-- The element values of a list of items, in order. -/
def itemValues (l : List Item) : List Ex := l.flatMap (·.xs)

end Sys2Proof.Machine
end

