-- ==== Sys2Proof/Syntax.lean ====
section
/-! DEFINITION. The instructions of the Filxus OL9: the ONE inductive, one constructor per row of spec/opcode_table.json.
The first 225 are encoded in one 32-bit word (R60 to R79); a field that the row fixes is no argument.
The other 84 are the steps of the device's other agents (95_what_each_step_holds.md); they have no encoding, and their arguments
say which unit acts and what reaches it from outside. -/

namespace Sys2Proof

/-- One constructor per row of the opcode table, in its order. -/
inductive Instr where
  | add (d : BitVec 7) (a : BitVec 7) (b : BitVec 7)
  | sub (d : BitVec 7) (a : BitVec 7) (b : BitVec 7)
  | and (d : BitVec 7) (a : BitVec 7) (b : BitVec 7)
  | or (d : BitVec 7) (a : BitVec 7) (b : BitVec 7)
  | xor (d : BitVec 7) (a : BitVec 7) (b : BitVec 7)
  | andn (d : BitVec 7) (a : BitVec 7) (b : BitVec 7)
  | orn (d : BitVec 7) (a : BitVec 7) (b : BitVec 7)
  | xnor (d : BitVec 7) (a : BitVec 7) (b : BitVec 7)
  | sll (d : BitVec 7) (a : BitVec 7) (b : BitVec 7)
  | srl (d : BitVec 7) (a : BitVec 7) (b : BitVec 7)
  | sra (d : BitVec 7) (a : BitVec 7) (b : BitVec 7)
  | rol (d : BitVec 7) (a : BitVec 7) (b : BitVec 7)
  | ror (d : BitVec 7) (a : BitVec 7) (b : BitVec 7)
  | slt (d : BitVec 7) (a : BitVec 7) (b : BitVec 7)
  | sltu (d : BitVec 7) (a : BitVec 7) (b : BitVec 7)
  | seq (d : BitVec 7) (a : BitVec 7) (b : BitVec 7)
  | sne (d : BitVec 7) (a : BitVec 7) (b : BitVec 7)
  | min (d : BitVec 7) (a : BitVec 7) (b : BitVec 7)
  | max (d : BitVec 7) (a : BitVec 7) (b : BitVec 7)
  | minu (d : BitVec 7) (a : BitVec 7) (b : BitVec 7)
  | maxu (d : BitVec 7) (a : BitVec 7) (b : BitVec 7)
  | mul (d : BitVec 7) (a : BitVec 7) (b : BitVec 7)
  | mulh (d : BitVec 7) (a : BitVec 7) (b : BitVec 7)
  | mulhu (d : BitVec 7) (a : BitVec 7) (b : BitVec 7)
  | mulhsu (d : BitVec 7) (a : BitVec 7) (b : BitVec 7)
  | div (d : BitVec 7) (a : BitVec 7) (b : BitVec 7)
  | divu (d : BitVec 7) (a : BitVec 7) (b : BitVec 7)
  | rem (d : BitVec 7) (a : BitVec 7) (b : BitVec 7)
  | remu (d : BitVec 7) (a : BitVec 7) (b : BitVec 7)
  | clz (d : BitVec 7) (a : BitVec 7)
  | ctz (d : BitVec 7) (a : BitVec 7)
  | popc (d : BitVec 7) (a : BitVec 7)
  | brev (d : BitVec 7) (a : BitVec 7)
  | bswap (d : BitVec 7) (a : BitVec 7)
  | sextb (d : BitVec 7) (a : BitVec 7)
  | sexth (d : BitVec 7) (a : BitVec 7)
  | sextw (d : BitVec 7) (a : BitVec 7)
  | addi (d : BitVec 7) (a : BitVec 7) (imm : BitVec 12)
  | andi (d : BitVec 7) (a : BitVec 7) (imm : BitVec 12)
  | ori (d : BitVec 7) (a : BitVec 7) (imm : BitVec 12)
  | xori (d : BitVec 7) (a : BitVec 7) (imm : BitVec 12)
  | slti (d : BitVec 7) (a : BitVec 7) (imm : BitVec 12)
  | sltui (d : BitVec 7) (a : BitVec 7) (imm : BitVec 12)
  | slli (d : BitVec 7) (a : BitVec 7) (amt : BitVec 6)
  | srli (d : BitVec 7) (a : BitVec 7) (amt : BitVec 6)
  | srai (d : BitVec 7) (a : BitVec 7) (amt : BitVec 6)
  | rori (d : BitVec 7) (a : BitVec 7) (amt : BitVec 6)
  | lih (d : BitVec 7) (imm : BitVec 19)
  | pcadd (d : BitVec 7) (imm : BitVec 19)
  | ldb (d : BitVec 7) (a : BitVec 7) (off : BitVec 9)
  | ldh (d : BitVec 7) (a : BitVec 7) (off : BitVec 9)
  | ldw (d : BitVec 7) (a : BitVec 7) (off : BitVec 9)
  | ldd (d : BitVec 7) (a : BitVec 7) (off : BitVec 9)
  | ldbu (d : BitVec 7) (a : BitVec 7) (off : BitVec 9)
  | ldhu (d : BitVec 7) (a : BitVec 7) (off : BitVec 9)
  | ldwu (d : BitVec 7) (a : BitVec 7) (off : BitVec 9)
  | stb (b : BitVec 7) (a : BitVec 7) (off : BitVec 9)
  | sth (b : BitVec 7) (a : BitVec 7) (off : BitVec 9)
  | stw (b : BitVec 7) (a : BitVec 7) (off : BitVec 9)
  | std (b : BitVec 7) (a : BitVec 7) (off : BitVec 9)
  | ldab (d : BitVec 7) (a : BitVec 7) (sc : BitVec 3) (off : BitVec 6)
  | ldah (d : BitVec 7) (a : BitVec 7) (sc : BitVec 3) (off : BitVec 6)
  | ldaw (d : BitVec 7) (a : BitVec 7) (sc : BitVec 3) (off : BitVec 6)
  | ldad (d : BitVec 7) (a : BitVec 7) (sc : BitVec 3) (off : BitVec 6)
  | stlb (b : BitVec 7) (a : BitVec 7) (sc : BitVec 3) (off : BitVec 6)
  | stlh (b : BitVec 7) (a : BitVec 7) (sc : BitVec 3) (off : BitVec 6)
  | stlw (b : BitVec 7) (a : BitVec 7) (sc : BitVec 3) (off : BitVec 6)
  | stld (b : BitVec 7) (a : BitVec 7) (sc : BitVec 3) (off : BitVec 6)
  | amoadd (d : BitVec 7) (a : BitVec 7) (b : BitVec 7)
  | amoand (d : BitVec 7) (a : BitVec 7) (b : BitVec 7)
  | amoor (d : BitVec 7) (a : BitVec 7) (b : BitVec 7)
  | amoxor (d : BitVec 7) (a : BitVec 7) (b : BitVec 7)
  | amomin (d : BitVec 7) (a : BitVec 7) (b : BitVec 7)
  | amomax (d : BitVec 7) (a : BitVec 7) (b : BitVec 7)
  | amominu (d : BitVec 7) (a : BitVec 7) (b : BitVec 7)
  | amomaxu (d : BitVec 7) (a : BitVec 7) (b : BitVec 7)
  | amoswap (d : BitVec 7) (a : BitVec 7) (b : BitVec 7)
  | amocas (d : BitVec 7) (a : BitVec 7) (b : BitVec 7)
  | amofadd32 (d : BitVec 7) (a : BitVec 7) (b : BitVec 7)
  | amofadd64 (d : BitVec 7) (a : BitVec 7) (b : BitVec 7)
  | amoaddO (d : BitVec 7) (a : BitVec 7) (b : BitVec 7)
  | amoandO (d : BitVec 7) (a : BitVec 7) (b : BitVec 7)
  | amoorO (d : BitVec 7) (a : BitVec 7) (b : BitVec 7)
  | amoxorO (d : BitVec 7) (a : BitVec 7) (b : BitVec 7)
  | amominO (d : BitVec 7) (a : BitVec 7) (b : BitVec 7)
  | amomaxO (d : BitVec 7) (a : BitVec 7) (b : BitVec 7)
  | amominuO (d : BitVec 7) (a : BitVec 7) (b : BitVec 7)
  | amomaxuO (d : BitVec 7) (a : BitVec 7) (b : BitVec 7)
  | amoswapO (d : BitVec 7) (a : BitVec 7) (b : BitVec 7)
  | amocasO (d : BitVec 7) (a : BitVec 7) (b : BitVec 7)
  | amofadd32O (d : BitVec 7) (a : BitVec 7) (b : BitVec 7)
  | amofadd64O (d : BitVec 7) (a : BitVec 7) (b : BitVec 7)
  | beq (a : BitVec 7) (b : BitVec 7) (off : BitVec 12)
  | bne (a : BitVec 7) (b : BitVec 7) (off : BitVec 12)
  | blt (a : BitVec 7) (b : BitVec 7) (off : BitVec 12)
  | bge (a : BitVec 7) (b : BitVec 7) (off : BitVec 12)
  | bltu (a : BitVec 7) (b : BitVec 7) (off : BitVec 12)
  | bgeu (a : BitVec 7) (b : BitVec 7) (off : BitVec 12)
  | loopr (off : BitVec 12)
  | j (off : BitVec 26)
  | call (off : BitVec 26)
  | jr (d : BitVec 7) (a : BitVec 7) (imm : BitVec 12)
  | trap (n : BitVec 7)
  | tret
  | exit (a : BitVec 7)
  | fence (n : BitVec 7)
  | winb (n : BitVec 7)
  | rcpt (d : BitVec 7)
  | addrc (d : BitVec 7) (a : BitVec 7) (n : BitVec 7)
  | nop
  | crd (d : BitVec 7) (imm : BitVec 12)
  | cwr (a : BitVec 7) (imm : BitVec 12)
  | cset (a : BitVec 7) (imm : BitVec 12)
  | cclr (a : BitVec 7) (imm : BitVec 12)
  | illegalInstruction (w : BitVec 32)
  | vadd (d : BitVec 7) (a : BitVec 7) (b : BitVec 7) (ca : Bool) (cb : Bool) (mk : Bool)
  | vsub (d : BitVec 7) (a : BitVec 7) (b : BitVec 7) (ca : Bool) (cb : Bool) (mk : Bool)
  | vmul (d : BitVec 7) (a : BitVec 7) (b : BitVec 7) (ca : Bool) (cb : Bool) (mk : Bool)
  | vdiv (d : BitVec 7) (a : BitVec 7) (b : BitVec 7) (ca : Bool) (cb : Bool) (mk : Bool)
  | vfma (d : BitVec 7) (a : BitVec 7) (b : BitVec 7) (ca : Bool) (cb : Bool) (mk : Bool)
  | vfms (d : BitVec 7) (a : BitVec 7) (b : BitVec 7) (ca : Bool) (cb : Bool) (mk : Bool)
  | vfnma (d : BitVec 7) (a : BitVec 7) (b : BitVec 7) (ca : Bool) (cb : Bool) (mk : Bool)
  | vfnms (d : BitVec 7) (a : BitVec 7) (b : BitVec 7) (ca : Bool) (cb : Bool) (mk : Bool)
  | vmin (d : BitVec 7) (a : BitVec 7) (b : BitVec 7) (ca : Bool) (cb : Bool) (mk : Bool)
  | vmax (d : BitVec 7) (a : BitVec 7) (b : BitVec 7) (ca : Bool) (cb : Bool) (mk : Bool)
  | vabs (d : BitVec 7) (a : BitVec 7) (ca : Bool) (mk : Bool)
  | vneg (d : BitVec 7) (a : BitVec 7) (ca : Bool) (mk : Bool)
  | vsqrt (d : BitVec 7) (a : BitVec 7) (ca : Bool) (mk : Bool)
  | vrsqrt (d : BitVec 7) (a : BitVec 7) (ca : Bool) (mk : Bool)
  | vrecip (d : BitVec 7) (a : BitVec 7) (ca : Bool) (mk : Bool)
  | vexp2 (d : BitVec 7) (a : BitVec 7) (ca : Bool) (mk : Bool)
  | vlog2 (d : BitVec 7) (a : BitVec 7) (ca : Bool) (mk : Bool)
  | vand (d : BitVec 7) (a : BitVec 7) (b : BitVec 7) (ca : Bool) (cb : Bool) (mk : Bool)
  | vor (d : BitVec 7) (a : BitVec 7) (b : BitVec 7) (ca : Bool) (cb : Bool) (mk : Bool)
  | vxor (d : BitVec 7) (a : BitVec 7) (b : BitVec 7) (ca : Bool) (cb : Bool) (mk : Bool)
  | vshift (d : BitVec 7) (a : BitVec 7) (b : BitVec 7) (ca : Bool) (cb : Bool) (mk : Bool)
  | vcmpeq (d : BitVec 7) (a : BitVec 7) (b : BitVec 7) (ca : Bool) (cb : Bool) (mk : Bool)
  | vcmplt (d : BitVec 7) (a : BitVec 7) (b : BitVec 7) (ca : Bool) (cb : Bool) (mk : Bool)
  | vcmple (d : BitVec 7) (a : BitVec 7) (b : BitVec 7) (ca : Bool) (cb : Bool) (mk : Bool)
  | vcmpne (d : BitVec 7) (a : BitVec 7) (b : BitVec 7) (ca : Bool) (cb : Bool) (mk : Bool)
  | vsel (d : BitVec 7) (a : BitVec 7) (b : BitVec 7) (ca : Bool) (cb : Bool)
  | vcvt (d : BitVec 7) (a : BitVec 7) (ca : Bool) (mk : Bool)
  | vcode (d : BitVec 7) (n : BitVec 7)
  | vbcast (d : BitVec 7) (a : BitVec 7) (b : BitVec 7) (mk : Bool)
  | vredsum (d : BitVec 7) (a : BitVec 7) (ca : Bool) (mk : Bool)
  | vredmax (d : BitVec 7) (a : BitVec 7) (ca : Bool) (mk : Bool)
  | vredmin (d : BitVec 7) (a : BitVec 7) (ca : Bool) (mk : Bool)
  | vscan (d : BitVec 7) (a : BitVec 7) (ca : Bool) (mk : Bool)
  | vgathr (d : BitVec 7) (a : BitVec 7) (b : BitVec 7) (ca : Bool) (cb : Bool) (mk : Bool)
  | vslide (d : BitVec 7) (a : BitVec 7) (b : BitVec 7) (ca : Bool) (mk : Bool)
  | vcomp (d : BitVec 7) (a : BitVec 7) (b : BitVec 7) (ca : Bool)
  | vexpd (d : BitVec 7) (a : BitVec 7) (b : BitVec 7) (ca : Bool)
  | vid (d : BitVec 7) (a : BitVec 7) (mk : Bool)
  | vrand (d : BitVec 7) (a : BitVec 7) (mk : Bool)
  | voffs (d : BitVec 7) (a : BitVec 7) (ca : Bool)
  | vlens (d : BitVec 7) (a : BitVec 7) (ca : Bool)
  | vadds (d : BitVec 7) (a : BitVec 7) (b : BitVec 7) (ca : Bool) (mk : Bool)
  | vmuls (d : BitVec 7) (a : BitVec 7) (b : BitVec 7) (ca : Bool) (mk : Bool)
  | vshls (d : BitVec 7) (a : BitVec 7) (b : BitVec 7) (ca : Bool) (mk : Bool)
  | vshrs (d : BitVec 7) (a : BitVec 7) (b : BitVec 7) (ca : Bool) (mk : Bool)
  | vands (d : BitVec 7) (a : BitVec 7) (b : BitVec 7) (ca : Bool) (mk : Bool)
  | vfmas (d : BitVec 7) (a : BitVec 7) (b : BitVec 7) (ca : Bool) (mk : Bool)
  | vmaxs (d : BitVec 7) (a : BitVec 7) (b : BitVec 7) (ca : Bool) (mk : Bool)
  | vmins (d : BitVec 7) (a : BitVec 7) (b : BitVec 7) (ca : Bool) (mk : Bool)
  | kand (d : BitVec 7) (a : BitVec 7) (b : BitVec 7)
  | kor (d : BitVec 7) (a : BitVec 7) (b : BitVec 7)
  | kxor (d : BitVec 7) (a : BitVec 7) (b : BitVec 7)
  | kcnt (d : BitVec 7) (a : BitVec 7)
  | knot (d : BitVec 7) (a : BitVec 7)
  | kfirst (d : BitVec 7) (a : BitVec 7)
  | setvl (d : BitVec 7) (a : BitVec 7) (b : BitVec 7)
  | getvl (d : BitVec 7)
  | vframe (d : BitVec 7)
  | setmask (n : BitVec 7)
  | vspill (d : BitVec 7) (a : BitVec 7)
  | vfill (d : BitVec 7) (a : BitVec 7)
  | vxch (d : BitVec 7) (a : BitVec 7) (b : BitVec 7) (ca : Bool) (mk : Bool)
  | vappend (a : BitVec 7) (b : BitVec 7)
  | vld (d : BitVec 7) (a : BitVec 7) (mk : Bool)
  | vst (d : BitVec 7) (a : BitVec 7) (mk : Bool)
  | vlds (d : BitVec 7) (a : BitVec 7) (b : BitVec 7) (mk : Bool)
  | vsts (d : BitVec 7) (a : BitVec 7) (b : BitVec 7) (mk : Bool)
  | vldc (d : BitVec 7) (a : BitVec 7)
  | vldcf (d : BitVec 7) (a : BitVec 7)
  | vstc (d : BitVec 7) (a : BitVec 7)
  | vpref (a : BitVec 7) (b : BitVec 7)
  | vgth (d : BitVec 7) (a : BitVec 7) (b : BitVec 7) (cb : Bool) (mk : Bool)
  | vsct (d : BitVec 7) (a : BitVec 7) (b : BitVec 7) (cb : Bool) (mk : Bool)
  | vgl (d : BitVec 7) (a : BitVec 7) (b : BitVec 7) (cb : Bool) (mk : Bool)
  | vsc (d : BitVec 7) (a : BitVec 7) (b : BitVec 7) (cb : Bool)
  | vamoadd (d : BitVec 7) (a : BitVec 7) (b : BitVec 7) (cb : Bool) (mk : Bool)
  | vamomin (d : BitVec 7) (a : BitVec 7) (b : BitVec 7) (cb : Bool) (mk : Bool)
  | vamomax (d : BitVec 7) (a : BitVec 7) (b : BitVec 7) (cb : Bool) (mk : Bool)
  | vamoxch (d : BitVec 7) (a : BitVec 7) (b : BitVec 7) (cb : Bool) (mk : Bool)
  | vamoand (d : BitVec 7) (a : BitVec 7) (b : BitVec 7) (cb : Bool) (mk : Bool)
  | vamoor (d : BitVec 7) (a : BitVec 7) (b : BitVec 7) (cb : Bool) (mk : Bool)
  | vamoxor (d : BitVec 7) (a : BitVec 7) (b : BitVec 7) (cb : Bool) (mk : Bool)
  | vamoo (d : BitVec 7) (a : BitVec 7) (b : BitVec 7) (cb : Bool) (mk : Bool)
  | cmdb (d : BitVec 7) (a : BitVec 7) (ca : Bool) (mk : Bool)
  | cwait (a : BitVec 7) (b : BitVec 7)
  | ctok (d : BitVec 7) (a : BitVec 7)
  | scbq (d : BitVec 7) (a : BitVec 7) (b : BitVec 7)
  | bar (n : BitVec 7)
  | bara (n : BitVec 7)
  | barw (n : BitVec 7)
  | bari (n : BitVec 7) (b : BitVec 7)
  | acq (n : BitVec 7)
  | rel (n : BitVec 7)
  | cflush (a : BitVec 7) (b : BitVec 7)
  | cinv (a : BitVec 7) (b : BitVec 7)
  | tshape (d : BitVec 7) (a : BitVec 7)
  | tzero (d : BitVec 7)
  | tmma (d : BitVec 7) (a : BitVec 7) (b : BitVec 7)
  | tlru (d : BitVec 7) (a : BitVec 7) (b : BitVec 7) (ca : Bool) (cb : Bool)
  | tmmal (d : BitVec 7) (a : BitVec 7) (b : BitVec 7)
  | tadd (d : BitVec 7) (a : BitVec 7)
  | trecomp (d : BitVec 7)
  | tdense (d : BitVec 7) (a : BitVec 7)
  | trank (d : BitVec 7) (a : BitVec 7)
  | tscale (a : BitVec 7)
  | tdup (d : BitVec 7) (a : BitVec 7)
  | tcvt (d : BitVec 7) (a : BitVec 7)
  | ewin (a : BitVec 7) (b : BitVec 7)
  | ersv (a : BitVec 7) (b : BitVec 7) (ca : Bool) (mk : Bool)
  | echk (d : BitVec 7) (a : BitVec 7) (b : BitVec 7) (ca : Bool) (mk : Bool)
  | eadv (a : BitVec 7) (b : BitVec 7)
  | issueSlot (core : Nat) (ready : BitVec 4) (chain : Option Nat)
  | levelBarrierRelease (launch : Nat) (level : Nat) (group : Nat)
  | copy (die : Nat) (eng : Nat)
  | fill (die : Nat) (eng : Nat)
  | scales (die : Nat) (eng : Nat)
  | convert (die : Nat) (eng : Nat)
  | hostCopy (die : Nat) (eng : Nat)
  | exchFill (die : Nat) (eng : Nat)
  | reduce (stack : Nat)
  | search (stack : Nat)
  | listRequest (stack : Nat) (ctx : Nat) (node : Nat)
  | distanceRequest (stack : Nat) (ctx : Nat) (node : Nat)
  | answer (stack : Nat) (ctx : Nat) (node : Nat)
  | engineCompletion (cmd : Nat)
  | orderedAtomicArrival (n : Nat)
  | orderedAtomicApply (die : Nat) (slice : Nat) (id : Nat)
  | dirtyFifoDrain (core : Nat)
  | l1Writeback (line : Nat) (metaLost : Bool)
  | relayout (die : Nat) (slice : Nat) (page : Nat) (chunks : Nat) (part : Nat)
  | stalledWriteResume (die : Nat) (part : Nat) (chunks : Nat)
  | patrolScrub (unit : Nat) (failing : BitVec 8) (correctable : Bool)
  | pageMigration (old : Nat) (new : Nat) (entry : Nat) (part : Nat)
  | trefiExpiry (stack : Nat) (pch : Nat)
  | refresh (stack : Nat) (pch : Nat)
  | selfRefreshEntry (stack : Nat) (pch : Nat)
  | selfRefreshExit (stack : Nat) (pch : Nat)
  | pchRetrain (stack : Nat) (pch : Nat) (on : Bool)
  | preemption (place : Nat)
  | restore (place : Nat)
  | clusterDrain (die : Nat) (cluster : Nat) (bnf : Bool)
  | clusterRetire (die : Nat) (cluster : Nat) (target : Option Nat)
  | lgenWrite (core : Nat) (v : BitVec 64)
  | trootWrite (part : Nat) (v : BitVec 64)
  | tlbinvAll (part : Nat)
  | tlbinvRange (part : Nat) (v : BitVec 64)
  | gAppend (part : Nat) (tail : BitVec 32)
  | kernel (part : Nat) (node : Nat) (places : List Nat) (tops : List Nat)
  | copyNode (part : Nat) (node : Nat)
  | convertNode (part : Nat) (node : Nat)
  | reduceNode (part : Nat) (node : Nat)
  | hostCopyNode (part : Nat) (node : Nat)
  | searchBatch (part : Nat) (node : Nat)
  | compress (part : Nat) (node : Nat)
  | decompress (part : Nat) (node : Nat)
  | signal (part : Nat) (node : Nat)
  | wait (part : Nat) (node : Nat)
  | join (part : Nat) (node : Nat)
  | nodeEnd (part : Nat) (node : Nat)
  | hostWrite (part : Nat) (addr : Nat) (data : List (BitVec 8))
  | fabricRequest (part : Nat) (addr : Nat) (op : Nat) (data : List (BitVec 8))
  | flit (link : Nat) (data : List (BitVec 8))
  | flitReplay (link : Nat) (seq : BitVec 12)
  | heartbeat (link : Nat)
  | heartbeatTimeout (dev : Nat)
  | fatalErrorFlit (dev : Nat)
  | devFail (dev : Nat)
  | linkRecalibration (link : Nat) (lane : Option Nat)
  | create (part : Nat)
  | resize (part : Nat)
  | destroy (part : Nat)
  | release (part : Nat)
  | resumeStrand (part : Nat) (seq : Nat)
  | kill (part : Nat) (seq : Nat)
  | fwLoad (comp : Nat)
  | fwSwitch (comp : Nat) (starts : Bool)
  | chrExp
  | getCertificate (fn : Nat)
  | challenge (fn : Nat) (nonce : List (BitVec 8))
  | getMeasurements (fn : Nat)
  | srtBaseWrite (stack : Nat) (v : BitVec 64)
  | debugRead (part : Nat) (addr : Nat) (len : Nat)
  | registerWrite (addr : Nat) (v : BitVec 64)
  | thermalThrottle
  | fatalShutdown
  | powerUp
  | coldReset
  | warmReset
  | fqHeadWrite (part : Nat) (v : BitVec 32)
  | hostRead (part : Nat) (addr : Nat) (len : Nat)
  | pcieCompletion (cmd : Nat)
  | hot (stack : Nat) (on : Bool)
  | cont
  | killedByTheHost (part : Nat) (node : Nat)
  deriving DecidableEq, Repr

end Sys2Proof
end

