-- ==== Sys2Proof/Machine/State.lean ====
section
/-! DEFINITION. The state of an OL9: the acting strand, the other live strands, the cores, the dies' memories and engines, the hub,
and the state after device reset. Plain data only. Units are numbered through the package: a strand's place is its STRANDID (R37),
a core is place / 4, a cluster place / 32, a die place / 256. -/

namespace Sys2Proof.Machine

/-! ## The strand (R25) -/

/-- A purse: fill bits of a stream, a code tag, a tarnish bit and a tile header of two words (R151, R244). -/
structure Purse where
  bits : Nat
  fill : Nat
  tag  : BitVec 3
  tarn : Bool
  hdr0 : Word
  hdr1 : Word
  deriving DecidableEq, Repr

/-- A mask register with its tarnish bit (R30). -/
structure KMask where
  bits : MaskBits
  tarn : Bool
  deriving DecidableEq, Repr

/-- The control registers that hold a value of their own, each with its tarnish bit (R33, R132). STATUS, STRANDID, CYCLE, LVID and
LVCNT are read from other fields. -/
structure Ctl where
  mode   : TWord
  winb   : TWord
  ring   : TWord
  laps   : TWord
  amr    : TWord
  tvec   : TWord
  tpc    : TWord
  tcause : TWord
  telem  : TWord
  taddr  : TWord
  resume : TWord
  flags  : TWord
  firstx : TWord
  amax   : TWord
  seed   : TWord
  srb    : TWord
  tol    : TWord
  tmode  : TWord
  ordtag : TWord
  rc     : TWord
  grant  : TWord
  share  : TWord
  lanes  : TWord
  vregs  : TWord
  tarnr  : TWord
  codes  : Vector TWord 8
  deriving DecidableEq, Repr

/-- STATUS fields (R34). -/
structure Status where
  span : Bool
  rgp  : Bool
  tr   : Bool
  d    : Bool
  m    : Bool
  /-- Its tarnish bit (R132). -/
  tarn : Bool
  deriving DecidableEq, Repr

/-- Whether a strand runs, waits or has stopped (R39, R126, R135, R237). -/
inductive Run where
  /-- No strand stands in the slot. -/
  | vacant
  /-- It can execute its next instruction. -/
  | ready
  /-- It has arrived at a barrier and waits in BAR or BARW for the round. -/
  | waitBar (bar : Nat)
  /-- It waits in BAR or BARA for the end of a round in which it has an arrival already (R237). -/
  | waitFree (bar : Nat)
  /-- It waits in BARW until PEND of its instance is 0 (R237). -/
  | waitPend (bar : Nat)
  /-- It waits in CWAIT until the word at a key has come to a bound (R234). -/
  | waitWord (key : Nat) (unc : Bool) (bound : Nat)
  /-- It waits for an ordered atomic that its stream's slice holds (R117). -/
  | waitOrd
  /-- Stopped with a record on the fault queue; the record's sequence number (R142). -/
  | suspended (seq : Nat)
  /-- Stopped for inspection; the record's sequence number (R142). -/
  | frozen (seq : Nat)
  /-- It has exited or was killed. -/
  | ended
  deriving DecidableEq, Repr

/-- What a stopped instruction may still need of the state before it (R144, R146): the former content and tarnish of its destination
purse, and for a VSC the tarnish of its mask. -/
structure Residue where
  /-- The instruction's address. -/
  pc    : Addr
  /-- The destination purse; 128 where there is none. -/
  purse : Nat
  bits  : Nat
  fill  : Nat
  tarn  : Bool
  mask  : Bool
  /-- The purse was written after the stop, so the restarted result is undefined (R144). -/
  dirty : Bool
  /-- The instruction stopped at element 0, so that its restart point is 0. -/
  first : Bool
  deriving DecidableEq, Repr

/-- A strand (R25). -/
structure Strand where
  /-- STRANDID [9:0] (R37). -/
  place  : Nat
  part   : Nat
  launch : Nat
  /-- Flat index in the launch (R37). -/
  flat   : Nat
  run    : Run
  /-- The PC at the save of a pre-empted strand (R147). -/
  saved  : Option Addr
  /-- A pre-emption is due: it waits for commands that name one of the strand's masks (R147). -/
  due    : Bool
  pc     : Addr
  /-- The instruction word being executed, for records of R142. -/
  word   : BitVec 32
  sregs  : Vector TWord 256
  purses : Vector Purse 128
  masks  : Vector KMask 16
  ctl    : Ctl
  st     : Status
  /-- LVID0–7 and LVCNT0–7 (R36). -/
  lvid   : Vector Word 8
  lvcnt  : Vector Word 8
  /-- Armed restart point: the address it is armed for and the point (R145). -/
  armed  : Option (Addr × Word)
  /-- The residue of the last stop, and while a handler runs that of the stop it handles (R144, R146). -/
  residue : Option Residue
  outer   : Option Residue
  /-- Lines linked by VGL (R221). -/
  links  : List Nat
  /-- Barriers of the core in whose current round the strand has an arrival (R237). -/
  arrivals : List Nat
  /-- The barrier in whose BAR or BARW the strand was waiting when it was suspended: a resume goes on with that wait (R288, R289, R310). -/
  barHeld : Option Nat
  /-- The strand was suspended while it waited for its ordered atomic: a resume goes on with that wait. -/
  ordHeld : Bool
  /-- The launch record chose the trap policy (R317). -/
  trapPolicy : Bool
  /-- Clean ranges as (slot, first byte, length) (R317, R397). -/
  clean  : List (Nat × Nat × Nat)
  /-- Places of the segments of a span strand, segment 0 first (R351); its segment grants follow from GRANT. -/
  segs   : List Nat
  /-- Banks reserved at launch (R154) and banks borrowed (R153): 0–11 the L1's, 12 + 3i to 14 + 3i slot i's. -/
  reserve  : Nat
  /-- Core × 24 + bank of each borrowed bank. -/
  borrowed : List Nat
  /-- Lane groups and segments the hub prepared for the next SETVL (R149, R159, R352). -/
  prepLanes : Option Word
  prepSegs  : Option (List Nat)
  deriving DecidableEq, Repr

/-! ## Memory beside the bytes -/

/-- A cached translation (R303): the leaf as last read or set, and where the entry stands. -/
structure TlbEntry where
  part : Nat
  /-- First virtual address of the page. -/
  base : Nat
  size : Nat
  leaf : Word
  addr : Nat
  deriving DecidableEq, Repr

/-- A guest copy of a line homed on another die, on another device or at the host (R308, R395, R396). -/
structure Guest where
  core  : Nat
  line  : Nat
  data  : List Byte
  tarn  : Bool
  /-- Poison travels with the line (R347). -/
  poison : Bool
  deriving DecidableEq, Repr

/-- Bytes of code that one store of a strand replaced, from a key on, and how far the order of R111 has come since: the scopes at which the writer has
released the store, the bytes that the writer has stored behind a release (with its scope), those of them that a core's guest copies hold, the
places that have observed a release (with its scope), and the places whose FENCE has made the new bytes certain. -/
structure OldCode where
  key      : Nat
  old      : List Byte
  writer   : Nat
  released : List Nat
  carriers : List (Nat × Nat)
  /-- Core, key and scope of a carrying byte in a guest copy. -/
  copies   : List (Nat × Nat × Nat)
  observed : List (Nat × Nat)
  fenced   : List Nat
  deriving DecidableEq, Repr

/-- The kind of an access for the assay rule (R119, R311). -/
inductive AccessKind where
  | plain
  | unordered
  | ordered (stream : Nat)
  deriving DecidableEq, Repr

/-- The last writer of a granule (R311). -/
structure Writer where
  flat   : Nat
  phases : List Nat
  kind   : AccessKind
  deriving DecidableEq, Repr

/-- The readers of a granule since its last write (R311). -/
structure Readers where
  first  : Nat
  level  : Nat
  phases : List Nat
  /-- Every reader so far is the first one. -/
  alone  : Bool
  deriving DecidableEq, Repr

/-- An assay tag (R311). -/
structure AssayTag where
  launch  : Nat
  granule : Nat
  writer  : Option Writer
  readers : Option Readers
  /-- An error in the spilled tag made every later access conflict (R319). -/
  lost    : Bool
  deriving DecidableEq, Repr

/-- A reservation tag of a cell (R322), with its tarnish (R329); after an error in the spilled tag it stays slot 0's iteration for the rest of its
window (R333). -/
structure ResTag where
  launch : Nat
  cell   : Nat
  window : Nat
  iter   : Nat
  tarn   : Bool
  lost   : Bool
  deriving DecidableEq, Repr

/-- Round states of an escrow context (R323). -/
inductive Round where
  | closed | opening | reserve | clearing | settled
  deriving DecidableEq, Repr

/-- An escrow context (R320). -/
structure Escrow where
  launch : Nat
  st     : Round
  wn     : BitVec 32
  qw     : Word
  h0     : Word
  next   : BitVec 32
  ns     : Nat
  mr     : Nat
  cur    : Nat
  deriving DecidableEq, Repr

/-! ## Cores -/

/-- One barrier instance (R167): of a group of a level of a launch, or of an unbound barrier (`owner = none`). -/
structure Barrier where
  core  : Nat
  bar   : Nat
  /-- Launch, level and group. -/
  owner : Option (Nat × Nat × Nat)
  count : Nat
  arr   : Nat
  /-- Permanent arrivals of ended members (R126). -/
  gone  : Nat
  pend  : Nat
  deriving DecidableEq, Repr

/-- A range of local memory that a transfer in flight writes (R166). -/
structure ScoreEntry where
  cmd : Nat
  lo  : Nat
  hi  : Nat
  deriving DecidableEq, Repr

/-- A store waiting in a dirty FIFO: its bytes from a key on, with the line's tarnish (R308). -/
structure FifoEntry where
  place : Nat
  key  : Nat
  data : List Byte
  tarn : Bool
  deriving DecidableEq, Repr

/-- What a core keeps beside its strands (R160, R166, R171, R308). -/
structure CoreSt where
  core    : Nat
  ages    : List Nat
  last    : Nat
  score   : List ScoreEntry
  /-- The dirty FIFO, oldest first. -/
  fifo    : List FifoEntry
  deriving DecidableEq, Repr

/-! ## Engines -/

/-- How far an accepted command has come (R232, R406, R434). -/
inductive CmdPhase where
  | queued
  /-- Stopped on a translation or protection fault; the engine record's number. -/
  | faulted (seq : Nat)
  /-- Its host traffic is out and not completed (R406). -/
  | awaitHost
  /-- A started search (R369). -/
  | running
  /-- Every byte performed; the completion not yet signalled. -/
  | performed
  /-- Completion signalled. -/
  | signalled
  /-- Stopped for good; it owes its issuer a trap (R434). -/
  | owes (cause sub : Nat) (addr : Word)
  /-- It will signal nothing: its trap was taken, or it was dropped (R422, R434). -/
  | dropped
  deriving DecidableEq, Repr

/-- An accepted engine command (R227 to R232). Queues: 4·die + engine for the copy engines, 16 + stack for the reduction engines,
24 + stack for the search engines. -/
structure Cmd where
  id     : Nat
  place  : Nat
  flat   : Nat
  part   : Nat
  launch : Nat
  node   : Option Nat
  queue  : Nat
  /-- The 512 bits of the command (R228). -/
  bits   : Nat
  /-- tarn(v[a]) of the CMDB. -/
  tarn   : Bool
  /-- Issued in mode S, and in a D context. -/
  sup    : Bool
  det    : Bool
  seed   : Word
  srb    : Word
  nseg   : Nat
  /-- Group of the barrier instance counted (CK 0). -/
  group  : Option (Nat × Nat × Nat)
  phase  : CmdPhase
  /-- Every byte had been performed when the command stopped, so that only its completion is left to be done again. -/
  whole  : Bool
  /-- Destination: by key (`true`) or by virtual address, first byte and length. -/
  dest   : Bool × Nat × Nat
  /-- Command address for an engine record: the bit offset in the command purse, or the virtual address in the graph (R419). -/
  addr   : Word
  /-- Flat indices of the strands that have observed the completion (R109). -/
  seenBy : List Nat
  /-- Chunks that the issuer's predicated instructions have observed in a D context (R313). -/
  seenChunks : List Nat
  /-- Chunks whose mask bits have become 1 (R229). -/
  told : List Nat
  /-- A poison record has been posted (R232). -/
  noted  : Bool
  /-- Destination bytes written, and the source bytes as they stood when read, with their tarnish and poison (R230, R232). -/
  done   : Nat
  snap   : List (Byte × Bool × Bool)
  /-- Ranges of keys written, each within a line: first byte and length. -/
  wrote  : List (Nat × Nat)
  /-- The key of the token word while this command's token is the word's last write (R234). -/
  tokKey : Option Nat
  /-- Commands before which this one was accepted although nothing orders the two: each had not been observed then (R40, R233). -/
  racing : List Nat
  /-- Failures that engines have met in its work (R361, R373). -/
  fails  : Nat
  deriving DecidableEq, Repr

/-- An ordered atomic on its way or in the buffer of its slice (R307). -/
structure OrdEntry where
  id     : Nat
  place  : Nat
  launch : Nat
  die    : Nat
  slice  : Nat
  stream : Nat
  tag    : BitVec 32
  /-- The atomic it performs. -/
  instr  : Instr
  inBuffer : Bool
  /-- ORDTAG's tarnish before the atomic was issued: a rejection or a trap restores the register (R117). -/
  tagTarn : Bool
  deriving DecidableEq, Repr

/-- A stream state of an ordering slice (R306). -/
structure OrdStream where
  launch : Nat
  die    : Nat
  slice  : Nat
  stream : Nat
  next   : BitVec 32
  deriving DecidableEq, Repr

/-- A request of a query to another stack (R370). -/
structure SearchReq where
  stack  : Nat
  node   : Nat
  isList : Bool
  /-- The answer, when the other stack has served it: whether a read returned poison, and the distance's encoding or DEG and the list. -/
  answer : Option (Bool × List Nat)
  /-- It has arrived at the origin. -/
  arrived : Bool
  deriving DecidableEq, Repr

/-- A heap key: distance and id (R368). -/
structure SearchKey where
  dist : Nat
  id   : Nat
  deriving DecidableEq, Repr

/-- A running query (R362, R369). -/
structure Query where
  stack : Nat
  ctx   : Nat
  cmd   : Nat
  /-- The descriptor's 192 bytes as read at the start (R364), and the query vector; `none` until read. -/
  desc  : Option (List Byte)
  vec   : Option (List Byte)
  cands : List SearchKey
  best  : List SearchKey
  seen  : List Nat
  expanded : Nat
  /-- The popped node whose list is being worked on, and what is left of the list once it is in. -/
  popped : Option Nat
  rest   : Option (List Nat)
  /-- The status the query has ended with (R371). -/
  status : Option Nat
  reqs  : List SearchReq
  /-- Tarnish of the lines read (R374). -/
  tarn  : Bool
  deriving DecidableEq, Repr

/-! ## Launches, graphs and records -/

/-- A live launch (R397). -/
structure Launch where
  id     : Nat
  part   : Nat
  node   : Nat
  /-- LVCNT images of its levels, LEVEL0 first. -/
  levels : List Word
  det    : Bool
  esc    : Option Nat
  fpol   : Bool
  /-- Address of STATARR, or 0. -/
  statarr : Word
  gkey   : Word
  fidx   : Nat
  ndev   : Nat
  /-- Device ids of DEVTAB (R401); empty for a launch on one device. -/
  devs   : List Nat
  /-- Flat index and place of each strand. -/
  strands : List (Nat × Nat)
  /-- Flat indices of the ended strands, with the TCAUSE of a kill. -/
  ended  : List (Nat × Option Word)
  /-- SEEN and RANGE ORed and COUNT added over the ended strands (R402). -/
  tarns  : Word
  /-- Killed by the host or by a JOIN's policy, with its NERR. -/
  killed : Option Nat
  quiesced : Bool
  deriving DecidableEq, Repr

/-- Where a node of a partition's graph stands (R403). -/
inductive NodePhase where
  | appended | dispatched | running | ended
  deriving DecidableEq, Repr

/-- A task-graph node (R400, R403). -/
structure Node where
  part    : Nat
  index   : Nat
  bytes   : List Byte
  counter : Nat
  /-- Commands of a SEARCHBATCH issued so far. -/
  issued  : Nat
  phase   : NodePhase
  /-- STATE and NERR of its end (R402). -/
  state   : Nat
  nerr    : Nat
  deriving DecidableEq, Repr

/-- A fault record that no FACT has acted on, or that waits for room in its ring (R419, R420). Ring 32 is the PF's. -/
structure Record where
  ring   : Nat
  seq    : Nat
  kind   : Nat
  words  : List Word
  /-- The strand or the command it stops. -/
  place  : Option Nat
  cmd    : Option Nat
  /-- It stands in the ring. -/
  posted : Bool
  pending : Bool
  deriving DecidableEq, Repr

/-- A write held up by an empty chunk pool, or queued behind the page lock (R294, R295). -/
structure Stalled where
  die   : Nat
  slice : Nat
  part  : Nat
  /-- The page's first 4 KiB frame, and how many it has. -/
  page  : Nat
  frames : Nat
  /-- Chunks it waits for. -/
  need  : Nat
  /-- It lays the page out again; else it is a first write to a block. -/
  relay : Bool
  deriving DecidableEq, Repr

/-- A device link (R407, R427). -/
structure Link where
  id       : Nat
  /-- SEQ of the next flit to send. -/
  next     : BitVec 12
  /-- Last good SEQ received. -/
  good     : BitVec 12
  replay   : List (List Byte)
  /-- Packets that wait for room in the replay buffer, oldest first. -/
  waiting  : List (List Byte)
  recal    : Option Nat
  /-- Packet bytes delivered, oldest first. -/
  received : List (List Byte)
  beats    : Nat
  deriving DecidableEq, Repr

/-- A verified firmware image in a slot (R423, R425). Slot 0 is A. -/
structure FwImage where
  comp    : Nat
  slot    : Nat
  version : Nat
  svn     : Nat
  hash    : List Byte
  deriving DecidableEq, Repr

/-- A chronograph entry (R428). -/
structure ChronEntry where
  time   : Nat
  source : Nat
  part   : Nat
  cause  : Nat
  addr0  : Word
  addr1  : Word
  deriving DecidableEq, Repr

/-- A cell of HBM whose bits have flipped: its name (the address of a data byte, or a name of Machine/Hbm.lean), the byte written into it, and the byte it
holds. Once another byte has been written there it says nothing any more. -/
structure Flip where
  cell  : Nat
  wrote : Byte
  holds : Byte
  deriving DecidableEq, Repr

/-- The machine. -/
structure State where
  /-- The strand whose instructions `step` executes. -/
  strand  : Strand
  /-- The other strands. -/
  parked  : List Strand
  /-- Device steps that happen before the acting strand's next instruction: the schedule as plain data. The MODEL'S own. Log 1. -/
  agenda  : List Instr
  /-- Counter of free values. The MODEL'S own. Log 1. -/
  fresh   : Nat
  /-- Steps taken: the argument of `Config.cycles`. The MODEL'S own. Log 3. -/
  ticks   : Nat
  /-- `ticks` at the last reset and at the last cold reset: CYCLE and the counters count from the one, TIME from the other. The MODEL'S own. Log 3. -/
  resetAt : Nat
  coldAt  : Nat
  /-- Every byte of every memory, by the key of `Ops.lean`. -/
  mem     : List Host.Cell
  /-- Tarnished 64-byte lines (R315) and poisoned sectors (R345), sorted. -/
  tarn    : List Nat
  poison  : List Nat
  /-- Device registers that differ from their reset value, by physical address, sorted. -/
  dev     : List (Nat × Word)
  oldCode : List OldCode
  tlb     : List TlbEntry
  guests  : List Guest
  assay   : List AssayTag
  resv    : List ResTag
  escrow  : List Escrow
  /-- Phase counters that differ from 0: launch, level, group (R310). -/
  phases  : List ((Nat × Nat × Nat) × Nat)
  barriers : List Barrier
  cores   : List CoreSt
  cmds    : List Cmd
  nextCmd : Nat
  /-- Frozen engine queues (R232, R305, R373). -/
  frozenQ : List Nat
  /-- Launch and 8-byte word number of every word whose last write in that launch's D context was no token (R234). -/
  stored  : List (Nat × Nat)
  ordStreams : List OrdStream
  ordEntries : List OrdEntry
  queries : List Query
  launches : List Launch
  nodes   : List Node
  /-- Decrements held for nodes not yet appended: partition, index, number (R403). -/
  held    : List ((Nat × Nat) × Nat)
  records : List Record
  /-- Bytes that the hub owes the host through a frozen VF: partition, key and byte, oldest first (R421). -/
  hostHeld : List (Nat × Nat × Byte)
  /-- MSI-X messages sent: function (partition, or 32 for the PF) and vector, oldest first. -/
  msix    : List (Nat × Nat)
  /-- Messages held back while the function's VF is stopped (R421). -/
  msixHeld : List (Nat × Nat)
  /-- Chip-scratchpad units that partitions hold, each partition's in window order: unit number (64 · die + unit) and partition (R297). -/
  chipUnits : List (Nat × Nat)
  /-- Words of local memory (key / 8) whose parity has failed, sorted (R171, R281). -/
  parity  : List Nat
  /-- Hardware failures that the next operation of a unit meets: the unit (a place; 1024 + queue for an engine; 4096 + 24 · core + bank for
  vector storage) and how often its check fails. The MODEL'S own, an input from outside. Log 26. -/
  upsets  : List (Nat × Nat)
  /-- Cells of HBM whose bits have flipped (R345 to R347). The MODEL'S own, an input from outside. Log 26. -/
  flips   : List Flip
  /-- Parity errors met in clean L1 lines: core and number (R171). -/
  l1Errors : List (Nat × Nat)
  /-- Residue failures so far: core, launch, number (R172). -/
  failures : List ((Nat × Nat) × Nat)
  /-- 4 KiB frames with a compressed layout (R293, R301), locked pages (R294), stalled writes (R295), queued and retired frames (R348), and
  the time of each correction in a frame (R348). -/
  compressed : List Nat
  locked  : List Nat
  stalled : List Stalled
  migrate : List Nat
  retired : List Nat
  /-- Bands of HBM whose pseudo-channel has failed: 16 · die + band (R427). -/
  badBands : List Nat
  scrubs  : List (Nat × Nat)
  links   : List Link
  failed  : List Nat
  /-- Devices named by a DEVFAIL that came during a FWSWITCH (R431). -/
  devfail : List Nat
  fw      : List FwImage
  /-- Units of the component that have switched in the FWSWITCH in progress (R425). -/
  switched : List Nat
  chron   : List ChronEntry
  /-- Rails up, clock steps taken off, shut down (R430). -/
  powered  : Bool
  throttle : Nat
  down     : Bool
  /-- kendb's breakpoints, whether it holds the strand, and the strands (place and pc) whose next instruction has been continued or has begun already
  (R24, R432). -/
  breaks  : List Addr
  halted  : Bool
  goOn    : List (Nat × Addr)
  /-- Bytes last returned to the host, the debugger or an SPDM requester; `none` prints as unmapped (R424, R432). -/
  reply   : List (Option Byte)
  /-- LINKCFG's stored bit (R426). -/
  nonVolatile : Bool
  deriving DecidableEq, Repr

/-! ## Faults and refusals -/

/-- Why the machine stops. -/
inductive Fault where
  /-- Raised by `step` when the device has shut itself down (R430) and no step of the outside world is on the agenda: nothing
  can run. Safe: the model stops where the device is off. -/
  | shutDown
  deriving DecidableEq, Repr

/-- Why an instruction has no meaning in the model. -/
inductive Refusal where
  /-- Raised by `exec` for an instruction whose meaning is not written. Safe: the model stops where the device goes on. -/
  | notModelled (mnemonic : String)
  deriving DecidableEq, Repr

/-! ## Reset -/

/-- An empty purse: fill 0, code tag 0, dense empty header (R38). -/
def Purse.empty : Purse := { bits := 0, fill := 0, tag := 0, tarn := false, hdr0 := 0, hdr1 := 0 }

/-- A mask of zeros. -/
def KMask.zero : KMask := { bits := 0, tarn := false }

/-- Control registers at launch (R33); GRANT, LANES and VREGS hold what log 1 names until a launch sets them. -/
def Ctl.reset : Ctl :=
  { mode := .zero, winb := .zero, ring := .zero, laps := .zero, amr := .zero, tvec := .zero, tpc := .zero, tcause := .zero,
    telem := .zero, taddr := .zero, resume := .zero, flags := .zero, firstx := .zero, amax := .zero, seed := .zero,
    srb := .zero, tol := .zero, tmode := .zero, ordtag := .zero, rc := .zero, grant := .of 512, share := .of 786432,
    lanes := .of 0xFF0000, vregs := .of 128, tarnr := .zero, codes := Vector.replicate 8 .zero }

/-- An empty strand slot; a launch fills it in (R38). -/
def Strand.reset : Strand :=
  { place := 0, part := 0, launch := 0, flat := 0, run := .vacant, saved := none, due := false, pc := 0, word := 0,
    sregs := Vector.replicate 256 .zero, purses := Vector.replicate 128 .empty, masks := Vector.replicate 16 .zero,
    ctl := .reset, st := { span := false, rgp := false, tr := false, d := false, m := false, tarn := false },
    lvid := Vector.replicate 8 0, lvcnt := Vector.replicate 8 1, armed := none, residue := none, outer := none, links := [], arrivals := [],
    barHeld := none, ordHeld := false, trapPolicy := false, clean := [], segs := [], reserve := 0, borrowed := [], prepLanes := none, prepSegs := none }

/-- The device after a cold reset: no strand lives, every memory and register at its reset value. -/
def State.reset : State :=
  { strand := .reset, parked := [], agenda := [], fresh := 0, ticks := 0, resetAt := 0, coldAt := 0, mem := [], tarn := [], poison := [], dev := [],
    oldCode := [], tlb := [], guests := [], assay := [], resv := [], escrow := [], phases := [], barriers := [], cores := [],
    cmds := [], nextCmd := 0, frozenQ := [], stored := [], ordStreams := [], ordEntries := [], queries := [], launches := [], nodes := [],
    held := [], records := [], hostHeld := [], msix := [], msixHeld := [], chipUnits := [], parity := [], upsets := [], flips := [], l1Errors := [], failures := [], compressed := [], locked := [], stalled := [], migrate := [], retired := [],
    badBands := [],
    scrubs := [], links := [], failed := [], devfail := [], fw := [], switched := [], chron := [], powered := false, throttle := 0, down := false,
    breaks := [], halted := false, goOn := [], reply := [], nonVolatile := false }

end Sys2Proof.Machine
end

