-- ==== Sys2Proof/Machine/Memory.lean ====
section
/-! DEFINITION. Bytes of memory by key, sorted sets, the regions of the physical map, device registers and the device's time. -/

namespace Sys2Proof.Machine

/-! ## Sorted lists -/

/-- Insert into a strictly rising list. -/
def setInsert (a : Nat) : List Nat → List Nat
  | [] => [a]
  | x :: xs => if a < x then a :: x :: xs else if a = x then x :: xs else x :: setInsert a xs

/-- Remove from a list. -/
def setErase (a : Nat) (l : List Nat) : List Nat := l.filter (· ≠ a)

/-- Insert when a condition holds, else remove. -/
def setPut (a : Nat) (c : Bool) (l : List Nat) : List Nat := if c then setInsert a l else setErase a l

/-! ## Bytes of memory

One list holds every memory, by key. Below 2^48 a key is a physical address (R298). The other stores follow:
the core scratchpads (R164), the lane slices (R164), the cluster memories (R278), the scale memories (R256), and the memories of
other OL9s (R396). -/

/-- What an unlisted address reads as. DESIGN CHOICE: the spec gives no power-on contents of HBM. Log 2. -/
def Mem.unlisted : Byte := 0

/-- The byte at a key. -/
def Mem.read : List Host.Cell → Nat → Byte
  | [], _ => Mem.unlisted
  | (k, b) :: xs, a => if a < k then Mem.unlisted else if a = k then b else Mem.read xs a

/-- Store a byte; the canonical form is kept: keys rise strictly and no entry holds what an unlisted key reads as. -/
def Mem.write : List Host.Cell → Nat → Byte → List Host.Cell
  | [], a, v => if v = Mem.unlisted then [] else [(a, v)]
  | (k, b) :: xs, a, v =>
    if a < k then (if v = Mem.unlisted then (k, b) :: xs else (a, v) :: (k, b) :: xs)
    else if a = k then (if v = Mem.unlisted then xs else (a, v) :: xs)
    else (k, b) :: Mem.write xs a v

/-- Every key of the list lies above `lo` and the list is canonical. -/
def Mem.wfFrom : Option Nat → List Host.Cell → Bool
  | _, [] => true
  | lo, (k, b) :: xs => (match lo with | none => true | some l => decide (l < k)) && decide (b ≠ Mem.unlisted) && Mem.wfFrom (some k) xs

/-- The canonical form of a memory. -/
def Memory.wf (m : List Host.Cell) : Bool := Mem.wfFrom none m

/-- `n` bytes from a key, as a little-endian number (R13). -/
def Mem.readLE (m : List Host.Cell) (a : Nat) : Nat → Nat
  | 0 => 0
  | n + 1 => (Mem.read m a).toNat + 256 * Mem.readLE m (a + 1) n

/-- Store a number as `n` little-endian bytes. -/
def Mem.writeLE (m : List Host.Cell) (a : Nat) : Nat → Nat → List Host.Cell
  | 0, _ => m
  | n + 1, v => Mem.writeLE (Mem.write m a (BitVec.ofNat 8 v)) (a + 1) n (v / 256)

/-- `n` bytes from a key. -/
def Mem.bytes (m : List Host.Cell) (a n : Nat) : List Byte := (List.range n).map fun i => Mem.read m (a + i)

/-- Store a list of bytes. -/
def Mem.put (m : List Host.Cell) : Nat → List Byte → List Host.Cell
  | _, [] => m
  | a, b :: bs => Mem.put (Mem.write m a b) (a + 1) bs

/-- A list of bytes as a little-endian number. -/
def leNat : List Byte → Nat
  | [] => 0
  | b :: bs => b.toNat + 256 * leNat bs

/-- A number as `n` little-endian bytes. -/
def leBytes : Nat → Nat → List Byte
  | 0, _ => []
  | n + 1, v => BitVec.ofNat 8 v :: leBytes n (v / 256)

/-! ## Keys and regions (R298) -/

def scratchKey (core off : Nat) : Nat := 2 ^ 48 + core * 2 ^ 20 + off
def laneKey (core off : Nat) : Nat := 2 ^ 48 + 2 ^ 32 + core * 2 ^ 20 + off
def clusterKey (cluster off : Nat) : Nat := 2 ^ 48 + 2 ^ 33 + cluster * 2 ^ 24 + off
def scaleKey (core off : Nat) : Nat := 2 ^ 48 + 2 ^ 34 + core * 2 ^ 17 + off
def remoteKey (dev pa : Nat) : Nat := (dev + 4) * 2 ^ 48 + pa

/-- HBM of one die and one band (R341). -/
def hbmDie : Nat := 0x1E00000000
def hbmBand : Nat := 0x1E0000000
def hbmEnd : Nat := 0x7800000000
def chipBase : Nat := 0x10000000000
def chipDie : Nat := 0x4000000
def ctlBase : Nat := 0x20000000000
def stackBase : Nat := 0x20010000000
def apertureTable : Nat := 0x20020000000
def descBase : Nat := 0x20030000000
def vfBase : Nat := 0x20040000000
/-- The PF's register page; R298 gives it no physical address, so the model gives it one past the VF pages. DESIGN CHOICE, log 12. -/
def pfBase : Nat := vfBase + 32 * 0x10000
def fabricBase : Nat := 0x400000000000
def hostBase : Nat := 0x800000000000

/-- The regions of the physical map. -/
inductive Region where
  | hbm (die : Nat)
  | chip (die : Nat)
  | die (die : Nat)
  | stack (k : Nat)
  | aperture (part : Nat)
  | desc (part : Nat)
  | vf (part : Nat)
  | fabric
  | host
  /-- Core scratchpads, lane slices, cluster memories and scale memories: no physical address. -/
  | localMem
  /-- Memory of another OL9. -/
  | remote (dev : Nat)
  | nowhere
  deriving DecidableEq, Repr

/-- The region of a key (R298). -/
def regionOf (k : Nat) : Region :=
  if k < hbmEnd then .hbm (k / hbmDie)
  else if 2 ^ 50 ≤ k then .remote (k / 2 ^ 48 - 4)
  else if 2 ^ 48 ≤ k then .localMem
  else if hostBase ≤ k then .host
  else if fabricBase ≤ k then .fabric
  else if vfBase + 32 * 0x10000 ≤ k then .nowhere
  else if vfBase ≤ k then .vf ((k - vfBase) / 0x10000)
  else if descBase + 32 * 0x100 ≤ k then .nowhere
  else if descBase ≤ k then .desc ((k - descBase) / 0x100)
  else if apertureTable + 32 * 0x20000 ≤ k then .nowhere
  else if apertureTable ≤ k then .aperture ((k - apertureTable) / 0x20000)
  else if stackBase + 8 * 0x100000 ≤ k then .nowhere
  else if stackBase ≤ k then .stack ((k - stackBase) / 0x100000)
  else if ctlBase + 4 * 0x1000000 ≤ k then .nowhere
  else if ctlBase ≤ k then .die ((k - ctlBase) / 0x1000000)
  else if chipBase + 4 * chipDie ≤ k then .nowhere
  else if chipBase ≤ k then .chip ((k - chipBase) / chipDie)
  else .nowhere

/-- A control block: registers and no memory. -/
def Region.isCtl : Region → Bool
  | .die _ | .stack _ | .aperture _ | .desc _ | .vf _ => true
  | _ => false

def coreOf (place : Nat) : Nat := place / 4
def clusterOf (place : Nat) : Nat := place / 32
def dieOf (place : Nat) : Nat := place / 256

/-! ## Device registers -/

/-- Reset value of a device register: 0 but for LGEN.EN (R159). -/
def devReset (a : Nat) : Word :=
  if ctlBase ≤ a ∧ a < ctlBase + 4 * 0x1000000 ∧ a % 0x1000000 < 0x800000 ∧ a % 0x100000 < 0x80000 ∧ a % 0x10000 = 0x40 then 0xFF
  else 0

/-- A stored device register. -/
def devGet (l : List (Nat × Word)) (a : Nat) : Word :=
  match l with
  | [] => devReset a
  | (k, v) :: xs => if a = k then v else devGet xs a

/-- Store a value that is not the register's reset value. -/
def devPut (l : List (Nat × Word)) (a : Nat) (v : Word) : List (Nat × Word) :=
  match l with
  | [] => [(a, v)]
  | (k, x) :: xs => if a < k then (a, v) :: (k, x) :: xs else if a = k then (a, v) :: xs else (k, x) :: devPut xs a v

/-- Store a device register; a register at its reset value is not listed. -/
def devSet (l : List (Nat × Word)) (a : Nat) (v : Word) : List (Nat × Word) :=
  if v = devReset a then l.filter fun x => decide (x.1 ≠ a) else devPut l a v

def State.reg64 (s : State) (a : Nat) : Word := devGet s.dev a
def State.setReg64 (s : State) (a : Nat) (v : Word) : State := { s with dev := devSet s.dev a v }

/-- Replace bits `[lo + n - 1 : lo]` of a word. -/
def setBits (w : Word) (lo n : Nat) (v : Nat) : Word :=
  let m : Word := BitVec.ofNat 64 ((2 ^ n - 1) * 2 ^ lo)
  (w &&& ~~~m) ||| (BitVec.ofNat 64 (v * 2 ^ lo) &&& m)

/-- Bits `[lo + n - 1 : lo]` of a word. -/
def getBits (w : Word) (lo n : Nat) : Nat := w.toNat / 2 ^ lo % 2 ^ n

def descAddr (part off : Nat) : Nat := descBase + part * 0x100 + off
def vfAddr (part off : Nat) : Nat := if part = 32 then pfBase + off else vfBase + part * 0x10000 + off
def coreCtl (core : Nat) : Nat := ctlBase + core / 64 * 0x1000000 + core / 8 % 8 * 0x100000 + core % 8 * 0x10000
def clusterCtl (cluster : Nat) : Nat := ctlBase + cluster / 8 * 0x1000000 + cluster % 8 * 0x100000 + 0x80000
def dieCtl (die : Nat) : Nat := ctlBase + die * 0x1000000 + 0x800000
def stackCtl (k : Nat) : Nat := stackBase + k * 0x100000

/-- Replace a field of a device register. -/
def State.setField (s : State) (a lo n v : Nat) : State := s.setReg64 a (setBits (s.reg64 a) lo n v)

/-- The sector or line of a key (64 bytes). -/
def lineOf (k : Nat) : Nat := k / 64

/-! ## Time -/

/-- CYCLE (R33). -/
def State.cycle (s : State) : Word := BitVec.ofNat 64 (Config.cycles (s.ticks - s.resetAt))

/-- The device's time: nanoseconds since the last cold reset (R428). -/
def State.nanos (s : State) : Nat := Config.nanos (s.ticks - s.coldAt)

end Sys2Proof.Machine
end

