-- ==== Sys2Proof/Machine/Hbm.lean ====
section
/-! DEFINITION. HBM as its stacks hold it: the pseudo-channels with their refresh (R341, R349, R350), the sideband bits of a sector with their CRC
(R345), the correction region (R346), and a read whose CRC check fails (R347, R348). -/

namespace Sys2Proof.Machine

/-! ## Pseudo-channels (R341, R344, R349, R350) -/

/-- Stack and PCH of a byte of HBM (R341). -/
def pchOf (k : Nat) : Nat × Nat :=
  let o := k % hbmDie
  let p := 16 * (o / hbmBand) + o % hbmBand / 256 % 16
  (2 * (k / hbmDie) + p / 128, p % 128)

def refrec (stack pch : Nat) : Nat := stackCtl stack + 0x10000 + pch * 0x20
def pcherr (stack pch : Nat) : Nat := stackCtl stack + 0x10008 + pch * 0x20

/-- REC, as a signed number. -/
def State.refreshRec (s : State) (stack pch : Nat) : Int := signed 5 (getBits (s.reg64 (refrec stack pch)) 0 5)

def State.setRec (s : State) (stack pch : Nat) (v : Int) : State := s.setField (refrec stack pch) 0 5 (v % 32).toNat

/-- RETR and SR. -/
def State.retraining (s : State) (stack pch : Nat) : Bool := (s.reg64 (refrec stack pch)).getLsbD 11
def State.selfRefresh (s : State) (stack pch : Nat) : Bool := (s.reg64 (refrec stack pch)).getLsbD 10

/-- A request reaches the PCH of a byte: it leaves self-refresh first, and at REC = −8 it is refreshed first (R349, R350). -/
def State.request (s : State) (k : Nat) : State :=
  let (stack, pch) := pchOf k
  let s1 := if s.selfRefresh stack pch then s.setField (refrec stack pch) 10 1 0 else s
  if s1.refreshRec stack pch = -8 then s1.setRec stack pch (-7) else s1

/-! ## Counts and corrections (R344, R347, R348) -/

/-- CE + 1 and UE + 1 of the PCH of a byte, saturating. -/
def State.countCorrected (s : State) (k : Nat) : State :=
  let a := pcherr (pchOf k).1 (pchOf k).2
  s.setField a 0 32 (min (getBits (s.reg64 a) 0 32 + 1) (2 ^ 32 - 1))
def State.countFailed (s : State) (k : Nat) : State :=
  let a := pcherr (pchOf k).1 (pchOf k).2
  s.setField a 32 16 (min (getBits (s.reg64 a) 32 16 + 1) 0xFFFF)

/-- 24 hours in nanoseconds. -/
def dayNanos : Nat := 86400 * 10 ^ 9

/-- The third correction in a frame within 24 hours queues it for migration (R348). -/
def State.noteCorrection (s : State) (frame : Nat) : State :=
  let now := s.nanos
  let l := s.scrubs ++ [(frame, now)]
  let recent := (l.filter fun x => x.1 = frame && decide (now < x.2 + dayNanos)).length
  { s with scrubs := l, migrate := if 3 ≤ recent then setInsert frame s.migrate else s.migrate }

/-! ## What the cells hold (R345, R346) -/

/-- Names of the cells that no address reaches: byte `i` of a sector's sideband bits, and check byte `j` of a unit. -/
def sideCell (line i : Nat) : Nat := 2 ^ 40 + 4 * line + i
def eccCell (unit j : Nat) : Nat := 2 ^ 41 + 32 * unit + j

/-- The byte that a cell holds into which `b` has been written: another one where its bits have flipped since (log 26). -/
def State.heldByte (s : State) (cell : Nat) (b : Byte) : Byte :=
  match s.flips.find? (·.cell = cell) with
  | some f => if f.wrote = b then f.holds else b
  | none => b

/-- One bit of the CRC of R345: polynomial 0x5D6DCB, the bit that comes next against the highest. -/
def crc24Bit (c : BitVec 24) (b : Bool) : BitVec 24 := if c.getLsbD 23 = b then c <<< 1 else (c <<< 1) ^^^ 0x5D6DCB

/-- The CRC of a sector: its data bits in address order, the lowest bit of a byte first (log 24), then its tarnish bit and its poison bit. -/
def sectorCrc (data : List Byte) (tarn poison : Bool) : BitVec 24 :=
  ((data.flatMap fun b => (List.range 8).map b.getLsbD) ++ [tarn, poison]).foldl crc24Bit 0xFFFFFF

/-- A sector's data as written. -/
def State.sectorData (s : State) (line : Nat) : List Byte := Mem.bytes s.mem (64 * line) 64

/-- A sector's 32 sideband bits as written: the CRC, the tarnish bit, the poison bit, and 6 reserved bits of zero (R345). -/
def State.sideband (s : State) (line : Nat) : BitVec 32 :=
  let t := s.tarn.contains line
  let p := s.poison.contains line
  BitVec.ofNat 32 ((sectorCrc (s.sectorData line) t p).toNat + (if t then 2 ^ 24 else 0) + (if p then 2 ^ 25 else 0))

/-- What the cells of a sector hold. -/
def State.heldData (s : State) (line : Nat) : List Byte := (s.sectorData line).mapIdx fun i b => s.heldByte (64 * line + i) b
def State.heldSide (s : State) (line : Nat) : BitVec 32 :=
  BitVec.ofNat 32 (leNat ((List.range 4).map fun i => s.heldByte (sideCell line i) ((s.sideband line).extractLsb' (8 * i) 8)))

/-- Data pass the CRC check against the sideband bits that the sector's cells hold. -/
def State.passes (s : State) (line : Nat) (data : List Byte) : Bool :=
  let w := s.heldSide line
  decide (sectorCrc data (w.getLsbD 24) (w.getLsbD 25) = w.extractLsb' 0 24)

/-- A unit's data: as written, and as its cells hold it. -/
def State.unitData (s : State) (unit : Nat) : List Byte := (List.range 8).flatMap fun i => s.sectorData (8 * unit + i)
def State.heldUnit (s : State) (unit : Nat) : List Byte := (List.range 8).flatMap fun i => s.heldData (8 * unit + i)

/-- Erroneous bytes of codeword `c` of a unit: data bytes, and check bytes that have flipped (R346). -/
def State.wrongBytes (s : State) (unit c : Nat) : Nat :=
  (((s.unitData unit).zip (s.heldUnit unit)).zipIdx.filter fun x => x.2 % 4 = c && x.1.1 ≠ x.1.2).length +
    (s.flips.filter fun f => f.cell / 32 = eccCell unit 0 / 32 && f.cell % 4 = c && f.holds ≠ f.wrote).length

/-- What the four codewords of a unit decode to (R346): the data as written while each has at most 4 erroneous bytes. Beyond that the code promises
nothing, and what its decoder gives is free (log 26). -/
def State.decodeUnit (s : State) (unit : Nat) : Option (List Byte) :=
  if (List.range 4).all fun c => decide (s.wrongBytes unit c ≤ 4) then some (s.unitData unit)
  else Config.decodeBeyond (s.unitData unit) (s.heldUnit unit)

/-- Sector `i` of a unit's 512 bytes. -/
def sectorOf (data : List Byte) (i : Nat) : List Byte := (List.range 64).map fun j => data.getD (64 * i + j) 0

/-! ## Reads of HBM (R347) -/

/-- A sector is written again with `data`: its cells hold what they are meant to. -/
def State.putSector (s : State) (line : Nat) (data : List Byte) : State :=
  { s with
    mem := if data = s.sectorData line then s.mem else Mem.put s.mem (64 * line) data,
    flips := s.flips.filter fun f => !(decide (f.cell / 64 = line) || decide (f.cell / 4 = sideCell line 0 / 4)) }

/-- A whole unit is written again with its check bytes. -/
def State.putUnit (s : State) (unit : Nat) (data : List Byte) : State :=
  let s1 := (List.range 8).foldl (fun u i => u.putSector (8 * unit + i) (sectorOf data i)) s
  { s1 with flips := s1.flips.filter fun f => decide (f.cell / 32 ≠ eccCell unit 0 / 32) }

/-- A read of a sector that fails its CRC check (R347): its unit is corrected, or every sector that still fails is poisoned, and the read returns poison,
which stays with the line in the L2 (log 26). A sector keeps its tarnish bit. Unit `u` covers the physical bytes 512u to 512u + 511 (log 12). -/
def State.handleUnit (s : State) (line : Nat) : State :=
  let unit := line / 8
  let held := s.heldUnit unit
  let data := (s.decodeUnit unit).getD held
  let fails := fun (x : List Byte) => (List.range 8).filter fun i => !s.passes (8 * unit + i) (sectorOf x i)
  let k := unit * 512 + (fails held).headD 0 * 64
  if (s.decodeUnit unit).isSome && (fails data).isEmpty then ((s.putUnit unit data).countCorrected k).noteCorrection (k / 4096)
  else
    let s1 := (fails data).foldl (fun u i => u.putSector (8 * unit + i) (sectorOf data i)) s
    { s1.countFailed k with
      poison := (fails data).foldl (fun l i => setInsert (unit * 8 + i) l) (setInsert line s1.poison), migrate := setInsert (k / 4096) s1.migrate }

/-- A sector is read from HBM and its CRC checked (R345, R347). Flipped bits that pass the check are what the sector holds from now on. -/
def State.readSector (s : State) (line : Nat) : State :=
  if !s.flips.any fun f => f.cell / 64 = line || f.cell / 4 = sideCell line 0 / 4 then s
  else if s.passes line (s.heldData line) then
    { s.putSector line (s.heldData line) with
      tarn := setPut line ((s.heldSide line).getLsbD 24) s.tarn, poison := setPut line ((s.heldSide line).getLsbD 25) s.poison }
  else s.handleUnit line

/-- A bit of a cell flips into which `b` has been written. -/
def Flip.at (cell : Nat) (b : Byte) : Flip := { cell := cell, wrote := b, holds := b ^^^ 1 }

/-- A bit flips in each of some sectors of a unit: in a data byte, each codeword having at most two of them, which R346 corrects; or in the CRC, which
no codeword covers. An input from outside (log 26). -/
def State.strike (s : State) (unit : Nat) (failing : BitVec 8) (correctable : Bool) : State :=
  let new := ((List.range 8).filter fun i => failing.getLsbD i).map fun i =>
    let line := 8 * unit + i
    if correctable then Flip.at (64 * line + i % 4) (Mem.read s.mem (64 * line + i % 4))
    else Flip.at (sideCell line 0) ((s.sideband line).extractLsb' 0 8)
  { s with flips := (s.flips.filter fun f => new.all fun g => decide (g.cell ≠ f.cell)) ++ new }

/-- Something awaits a request to the PCH of a byte: self-refresh, a refresh that is due, or flipped bits. -/
def State.pchStirs (s : State) (k : Nat) : Bool :=
  let (stack, pch) := pchOf k
  s.flips ≠ [] || s.selfRefresh stack pch || decide (s.refreshRec stack pch = -8)

/-- No access to HBM can show: no bit has flipped, and every register of the stacks stands at its reset value. -/
def State.hbmQuiet (s : State) : Bool := s.flips = [] && s.dev.all fun r => decide (r.1 < stackBase) || decide (apertureTable ≤ r.1)

/-- An access to a byte's line: by a free choice an L1 or an L2 slice answers, or it reaches HBM, where a request comes to the PCH and, unless
the access writes the sector whole, the sector is read (R347, R349, R350; log 36). -/
def State.reachHbm (s : State) (k : Nat) (whole : Bool) : State :=
  if !(decide (k < hbmEnd) && s.pchStirs k) then s
  else
    let u := { s with fresh := s.fresh + 1 }
    if Config.pick s.fresh % 2 = 0 then u else if whole then u.request k else (u.request k).readSector (lineOf k)

/-- An access to each line of `n` bytes: the lines that it writes whole are not read. -/
def State.reachRange (s : State) (k n : Nat) (write : Bool) : State :=
  if n = 0 || s.hbmQuiet then s
  else
    (List.range ((k + n - 1) / 64 - k / 64 + 1)).foldl (fun u i =>
      let l := (k / 64 + i) * 64
      u.reachHbm l (write && decide (k ≤ l) && decide (l + 64 ≤ k + n))) s

/-- Bytes are written into cells of HBM: what had flipped in them is over, and the sideband bits of their sectors and the check bytes of their units are
written with them (R345, R346). -/
def State.writeCells (s : State) (k n : Nat) : State :=
  if s.flips = [] || n = 0 then s
  else
    { s with flips := s.flips.filter fun f =>
        !(decide (k ≤ f.cell) && decide (f.cell < k + n)) &&
          !(decide (sideCell (k / 64) 0 ≤ f.cell) && decide (f.cell < sideCell ((k + n + 63) / 64) 0)) &&
          !(decide (eccCell (k / 512) 0 ≤ f.cell) && decide (f.cell < eccCell ((k + n + 511) / 512) 0)) }

end Sys2Proof.Machine
end

