-- ==== Sys2Proof/Machine/Ops.lean ====
section
/-! DEFINITION. The named operations every meaning shares: scalar registers, control registers, partitions and their ranges, translation, fault
records, taking a trap and returning from one. -/

namespace Sys2Proof.Machine

/-! ## Strands -/

def State.mapStrand (s : State) (f : Strand → Strand) : State := { s with strand := f s.strand }

/-- Every strand, the acting one first. -/
def State.strands (s : State) : List Strand := s.strand :: s.parked

/-- The live strand at a place. -/
def State.strandAt (s : State) (place : Nat) : Option Strand :=
  s.strands.find? fun t => t.place = place && t.run ≠ .vacant && t.run ≠ .ended

/-- Change the live strand at a place, wherever it is held. -/
def State.updateAt (s : State) (place : Nat) (f : Strand → Strand) : State :=
  let g := fun (t : Strand) => if t.place = place && t.run ≠ .vacant && t.run ≠ .ended then f t else t
  { s with strand := g s.strand, parked := s.parked.map g }

/-! ## Scalar registers (R27) -/

/-- Physical position of a field. -/
def physReg (winb : Nat) (f : BitVec 7) : Fin 256 :=
  if f.toNat < 16 then ⟨f.toNat % 256, by omega⟩
  else ⟨(16 + (f.toNat - 16 + 16 * winb) % 240) % 256, by omega⟩

/-- The register a field names; field 0 reads as zero, untarnished. -/
def Strand.reg (t : Strand) (f : BitVec 7) : TWord :=
  if f = 0 then .zero else t.sregs[physReg t.ctl.winb.val.toNat f]

/-- TARN.SEEN: the strand has written a tarnished value (R318). -/
def Ctl.seen (c : Ctl) (t : Bool) : Ctl :=
  if t then { c with tarnr := { c.tarnr with val := c.tarnr.val ||| 0x10000000000 } } else c

def Strand.seen (t : Strand) (b : Bool) : Strand := { t with ctl := t.ctl.seen b }

/-- Write the register a field names; a write to field 0 is discarded. -/
def Strand.setReg (t : Strand) (f : BitVec 7) (v : TWord) : Strand :=
  if f = 0 then t
  else { t with sregs := t.sregs.set (physReg t.ctl.winb.val.toNat f) v, ctl := t.ctl.seen v.tarn }

/-- Sequential execution (R26): the pc advances, and an armed restart point is disarmed (R145). -/
def Strand.advance (t : Strand) : Strand := { t with pc := t.pc + 4, armed := none }

/-- The strand goes on at an address. -/
def Strand.jump (t : Strand) (a : Addr) : Strand := { t with pc := a, armed := none }

/-! ## Purses and masks (R29, R30) -/

/-- RING.TURN, RING.DEPTH and MODE.ROT. -/
def Strand.turn (t : Strand) : Nat := getBits t.ctl.ring.val 0 6
def Strand.depth (t : Strand) : Nat := getBits t.ctl.ring.val 8 3
def Strand.rot (t : Strand) : Bool := t.ctl.mode.val.getLsbD 0

/-- The purse a field names, after rotation (R29). -/
def Strand.purseName (t : Strand) (f : BitVec 7) : Nat :=
  if t.rot && decide (64 ≤ f.toNat) then 64 + (f.toNat - 64 + t.turn) % 64 else f.toNat

def Strand.purse (t : Strand) (n : Nat) : Purse := t.purses.getD n .empty
/-- Put a purse's content in place; a restart residue of that purse no longer stands behind it (R144). -/
def Strand.placePurse (t : Strand) (n : Nat) (p : Purse) : Strand :=
  let f := fun (r : Residue) => if r.purse = n then { r with dirty := true } else r
  { t with purses := t.purses.setIfInBounds n p, residue := t.residue.map f, outer := t.outer.map f }

/-- Write a purse: TARN.SEEN records a tarnished one (R318). -/
def Strand.setPurse (t : Strand) (n : Nat) (p : Purse) : Strand := (t.placePurse n p).seen p.tarn

/-- All 4,096 bits of k0. -/
def KMask.ones : KMask := { bits := BitVec.allOnes 4096, tarn := false }

def Strand.mask (t : Strand) (n : Nat) : KMask := if n = 0 then .ones else t.masks.getD n .zero
def Strand.setMask (t : Strand) (n : Nat) (m : KMask) : Strand :=
  if n = 0 then t else { t with masks := t.masks.setIfInBounds n m, ctl := t.ctl.seen m.tarn }

/-- AMR[3:0]. -/
def Strand.amr (t : Strand) : Nat := getBits t.ctl.amr.val 0 4

def Strand.grant (t : Strand) : Nat := t.ctl.grant.val.toNat
def Strand.vregs (t : Strand) : Nat := t.ctl.vregs.val.toNat

/-- The code a tag names (R31). -/
def Strand.codeOf (t : Strand) (tag : BitVec 3) : Code := Code.ofWord (t.ctl.codes[tag.toFin]).val

/-! ## Control registers (R33, R131) -/

/-- STATUS as CRD reads it (R34). -/
def Status.word (x : Status) : Word :=
  BitVec.ofNat 64 ((if x.span then 16 else 0) + (if x.rgp then 8 else 0) + (if x.tr then 4 else 0) + (if x.d then 2 else 0) +
    (if x.m then 1 else 0))

/-- The value of the control register of a number; `none` for a number R33 does not assign. CYCLE is given. -/
def Strand.ctlRead (t : Strand) (cycle : Word) (n : Nat) : Option TWord :=
  match n with
  | 0x000 => some { val := t.st.word, tarn := t.st.tarn }
  | 0x001 => some t.ctl.mode
  | 0x002 => some t.ctl.winb
  | 0x003 => some t.ctl.ring
  | 0x004 => some t.ctl.laps
  | 0x005 => some t.ctl.amr
  | 0x008 => some t.ctl.tvec
  | 0x009 => some t.ctl.tpc
  | 0x00A => some t.ctl.tcause
  | 0x00B => some t.ctl.telem
  | 0x00C => some t.ctl.taddr
  | 0x00D => some t.ctl.resume
  | 0x010 => some t.ctl.flags
  | 0x011 => some t.ctl.firstx
  | 0x012 => some t.ctl.amax
  | 0x013 => some t.ctl.seed
  | 0x014 => some t.ctl.srb
  | 0x015 => some t.ctl.tol
  | 0x016 => some t.ctl.tmode
  | 0x017 => some t.ctl.ordtag
  | 0x018 => some t.ctl.rc
  | 0x020 => some t.ctl.grant
  | 0x021 => some t.ctl.share
  | 0x022 => some t.ctl.lanes
  | 0x023 => some t.ctl.vregs
  | 0x030 => some { val := BitVec.ofNat 64 (t.place % 1024), tarn := t.st.d }
  | 0x031 => some { val := cycle, tarn := true }
  | 0x032 => some t.ctl.tarnr
  | n =>
    if 0x40 ≤ n ∧ n < 0x48 then some (t.ctl.codes.getD (n - 0x40) .zero)
    else if 0x80 ≤ n ∧ n < 0x88 then some (.of (t.lvid.getD (n - 0x80) 0))
    else if 0x88 ≤ n ∧ n < 0x90 then some (.of (t.lvcnt.getD (n - 0x88) 0))
    else none

/-- Store a value whole into the control register of a number (the fields a write keeps have been chosen). RO registers and
unassigned numbers: nothing. -/
def Ctl.put (c : Ctl) (n : Nat) (v : TWord) : Ctl :=
  match n with
  | 0x001 => { c with mode := v }
  | 0x002 => { c with winb := v }
  | 0x003 => { c with ring := v }
  | 0x004 => { c with laps := v }
  | 0x005 => { c with amr := v }
  | 0x008 => { c with tvec := v }
  | 0x009 => { c with tpc := v }
  | 0x00A => { c with tcause := v }
  | 0x00B => { c with telem := v }
  | 0x00C => { c with taddr := v }
  | 0x00D => { c with resume := v }
  | 0x010 => { c with flags := v }
  | 0x011 => { c with firstx := v }
  | 0x012 => { c with amax := v }
  | 0x013 => { c with seed := v }
  | 0x014 => { c with srb := v }
  | 0x015 => { c with tol := v }
  | 0x016 => { c with tmode := v }
  | 0x017 => { c with ordtag := v }
  | 0x018 => { c with rc := v }
  | n => if 0x40 ≤ n ∧ n < 0x48 then { c with codes := c.codes.setIfInBounds (n - 0x40) v } else c

/-- The bits of a control register that a CWR, CSET or CCLR writes (R33, R131); 0 for an RO register. -/
def ctlMask (n : Nat) : Word :=
  match n with
  | 0x001 => 0x1
  | 0x002 => 0xFFFFFFFFFFFFFFFF
  | 0x003 => 0x73F
  | 0x004 => 0xFFFFFFFF
  | 0x005 => 0xF
  | 0x008 => 0xFFFFFFFFFFFFFFFF
  | 0x009 => 0xFFFFFFFFFFFFFFFF
  | 0x00A => 0xFFFCFF
  | 0x00B => 0x1FFF
  | 0x00C => 0xFFFFFFFFFFFFFFFF
  | 0x00D => 0xFFFFFFFFFFFFFFFF
  | 0x010 => 0x1F1F
  | 0x011 => 0xFFFFFFFFFFFFFFF
  | 0x012 => 0x1FFFFFFFF
  | 0x013 => 0xFFFFFFFFFFFFFFFF
  | 0x014 => 0xFFFFFFFFFFFFFFFF
  | 0x015 => 0xFFFFFFFFFFFFFFFF
  | 0x016 => 0x3FFFFFFFFFFFF
  | 0x017 => 0xFFFFFFFFFFFF
  | 0x018 => 0xFFFFFFFFFFFFFFFF
  | n => if 0x40 ≤ n ∧ n < 0x48 then 0xFFFFC00000000000 else 0

/-! ## Partitions and their ranges (R413, R415) -/

/-- Cluster `cluster` belongs to the partition (PCLUS). -/
def State.ownsCluster (s : State) (part cluster : Nat) : Bool := (s.reg64 (descAddr part 0x08)).getLsbD cluster

/-- Band `b` of die `d` belongs to the partition (PBAND). -/
def State.ownsBand (s : State) (part d b : Nat) : Bool := (s.reg64 (descAddr part 0x10)).getLsbD (16 * d + b)

/-- L2 slices of a die that the partition owns (PSLC0, PSLC1), lowest first. -/
def State.slices (s : State) (part d : Nat) : List Nat :=
  let w := s.reg64 (descAddr part (if d < 2 then 0x18 else 0x20))
  (List.range 32).filter fun i => w.getLsbD (32 * (d % 2) + i)

/-- Chip-scratchpad units of 1 MiB that the partition has on a die (PSCR). -/
def State.units (s : State) (part d : Nat) : Nat := getBits (s.reg64 (descAddr part 0x28)) (8 * d) 7

/-- Units of the partition on a die, in the order of its window (R297). -/
def State.unitsOn (s : State) (part d : Nat) : List Nat :=
  (s.chipUnits.filter fun u => u.2 = part && u.1 / 64 = d).map (·.1 % 64)

/-- The byte lies in the partition's translated memory: HBM of its bands (R299, R415). -/
def State.inBands (s : State) (part k : Nat) : Bool :=
  match regionOf k with
  | .hbm d => s.ownsBand part d (k % hbmDie / hbmBand)
  | _ => false

/-- The byte lies in the partition's ranges (R415). Die and stack control blocks lie in none: only the PF reaches them. -/
def State.inRanges (s : State) (part k : Nat) : Bool :=
  match regionOf k with
  | .hbm d => s.ownsBand part d (k % hbmDie / hbmBand)
  | .chip d =>
    (s.unitsOn part d).contains ((k - chipBase) % chipDie / 0x100000)
  | .die d =>
    let o := (k - ctlBase) % 0x1000000
    decide (o < 0x800000) && s.ownsCluster part (8 * d + o / 0x100000)
  | .stack _ => false
  | .aperture p => decide (p = part)
  | .desc p => decide (p = part)
  | .vf p => decide (p = part)
  | .fabric => true
  | .host => true
  | .localMem => true
  | .remote _ => true
  | .nowhere => false

/-! ## Translation (R298 to R303) -/

/-- What an access does (R108, R137). -/
inductive Access where
  | read | write | both | fetch
  deriving DecidableEq, Repr

/-- The access writes. -/
def Access.writes : Access → Bool
  | .write | .both => true
  | _ => false

/-- The access reads. -/
def Access.reads : Access → Bool
  | .read | .both => true
  | _ => false

/-- ACC of TCAUSE: 1 read, 2 write (including atomics), 3 fetch (R137). -/
def Access.acc : Access → Nat
  | .read => 1 | .write | .both => 2 | .fetch => 3

/-- SUB of a PROTECTION: 0 read, 1 write, 2 execute (R137). -/
def Access.sub : Access → Nat
  | .read => 0 | .write | .both => 1 | .fetch => 2

/-- Why a translation fails: TRANSLATION, PROTECTION or PARTITION with SUB (R136, R137). -/
structure XFault where
  cause : Nat
  sub   : Nat
  deriving DecidableEq, Repr

/-- A translated address: the key of the byte, and whether the page is uncached (R300 K). -/
structure Xl where
  key : Nat
  unc : Bool
  deriving DecidableEq, Repr

/-- Who translates: a partition, a mode, and the strand's place for the windows (R298). -/
structure Party where
  part  : Nat
  sup   : Bool
  place : Nat
  deriving DecidableEq, Repr

def Strand.party (t : Strand) : Party := { part := t.part, sup := t.st.m, place := t.place }

/-- The place of the hub, which is on no core: no window is its (R278, R297). -/
def hubPlace : Nat := 1024

/-- The hub as a party that translates for a partition in mode S. -/
def hubParty (part : Nat) : Party := { part := part, sup := true, place := hubPlace }

/-- A fixed window (R164, R278, R297, R298). -/
def State.window (s : State) (q : Party) (va : Nat) (a : Access) : Except XFault Xl :=
  let bad : Except XFault Xl := .error { cause := 0x11, sub := a.sub }
  let top := va / 2 ^ 40
  let off := va % 2 ^ 40
  let core := coreOf q.place
  if a = .fetch || decide (hubPlace ≤ q.place) then bad
  else if top = 0xFFC then
    match (s.unitsOn q.part (dieOf q.place))[off / 0x100000]? with
    | some u => .ok { key := chipBase + dieOf q.place * chipDie + u * 0x100000 + off % 0x100000, unc := false }
    | none => bad
  else if top = 0xFFD then
    if off < 0x800000 then .ok { key := clusterKey (clusterOf q.place) off, unc := false } else bad
  else if top = 0xFFE then
    if off < 0x80000 then .ok { key := scratchKey core off, unc := false } else bad
  else if top = 0xFFF then
    let held := match s.strandAt q.place with | some t => t.ctl.lanes.val.getLsbD (off / 0x8000) | none => false
    if off < 0x40000 && held then .ok { key := laneKey core off, unc := false } else bad
  else bad

/-- Page size code to (level, entries in its run) (R301). -/
def pageLevel (size : Nat) : Option (Nat × Nat) :=
  match size with
  | 0 => some (0, 1) | 1 => some (0, 4) | 2 => some (0, 16) | 3 => some (0, 64)
  | 4 => some (1, 1) | 5 => some (1, 2) | 6 => some (1, 4) | 7 => some (1, 16) | 8 => some (1, 64)
  | 9 => some (2, 1) | 10 => some (2, 4) | 11 => some (2, 16) | 12 => some (3, 1)
  | _ => none

/-- Bytes of a page of a size code; codes 13 to 15 act as 12 where they are a range (R303). -/
def pageBytes (size : Nat) : Nat :=
  match pageLevel size with
  | some (l, n) => n * 2 ^ (8 * l + 12)
  | none => 2 ^ 36

/-- Fields of a leaf (R300). -/
def leafSize (e : Word) : Nat := getBits e 60 4
def leafPa (e : Word) : Nat := getBits e 12 36 * 2 ^ 12
/-- The leaf without its A and D bits. -/
def leafKey (e : Word) : Word := e &&& ~~~(0xC00 : Word)

/-- The row of R298's table that a region belongs to. -/
def Region.row : Region → Nat
  | .hbm _ => 0 | .chip _ => 1 | .die _ => 2 | .stack _ => 3 | .aperture _ => 4 | .desc _ => 5 | .vf _ => 6 | .fabric => 7 | .host => 8
  | .localMem => 9 | .remote _ => 10 | .nowhere => 11

/-- A leaf found at a level is malformed (R301); `compressed` is the layout the hub keeps for the page. -/
def State.badLeaf (s : State) (l : Nat) (e : Word) : Bool :=
  let n := pageBytes (leafSize e)
  let pa := leafPa e
  match pageLevel (leafSize e) with
  | none => true
  | some (lv, _) =>
    decide (lv ≠ l) || decide (pa % n ≠ 0) || decide (getBits e 48 9 ≠ 0) || decide ((regionOf pa).row ≠ (regionOf (pa + n - 1)).row) ||
      (match regionOf pa with
        | .hbm _ => decide (pa % hbmDie / hbmBand ≠ (pa + n - 1) % hbmDie / hbmBand) || decide (leafSize e = 12)
        | .fabric | .host => false
        | _ => decide (leafSize e = 12)) ||
      decide (e.getLsbD 7 ≠ s.compressed.contains (pa / 4096))

/-- What a walk ends in: a leaf, its level and its address, or a fault (R299). -/
def State.walkFrom (s : State) (part va : Nat) : Nat → Nat → Except XFault (Nat × Word × Nat)
  | 0, _ => .error { cause := 0x10, sub := 5 }
  | fuel + 1, t =>
    let l := fuel
    if !s.inBands part t then .error { cause := 0x10, sub := 5 }
    else
      let a := t + 8 * (va / 2 ^ (8 * l + 12) % 256)
      let e : Word := BitVec.ofNat 64 (Mem.readLE s.mem a 8)
      if s.poison.contains (lineOf a) then .error { cause := 0x10, sub := 6 }
      else if !e.getLsbD 0 then .error { cause := 0x10, sub := l }
      else if e.getLsbD 1 then
        (if s.badLeaf l e then .error { cause := 0x10, sub := 5 } else .ok (l, e, a))
      else if l = 0 || decide (getBits e 48 16 ≠ 0) || decide (getBits e 2 9 ≠ 0) then .error { cause := 0x10, sub := 5 }
      else s.walkFrom part va fuel (getBits e 11 37 * 2 ^ 11)

/-- The entries that a walk reads are read from HBM where no slice answers (R345, R349, R350). -/
def State.touchTables (s : State) (part va : Nat) : Nat → Nat → State
  | 0, _ => s
  | fuel + 1, t =>
    let a := t + 8 * (va / 2 ^ (8 * fuel + 12) % 256)
    if !s.inBands part t then s
    else
      let u := s.reachHbm a false
      let e : Word := BitVec.ofNat 64 (Mem.readLE u.mem a 8)
      if u.poison.contains (lineOf a) || !e.getLsbD 0 || e.getLsbD 1 then u else u.touchTables part va fuel (getBits e 11 37 * 2 ^ 11)

/-- What a walk of an address leaves before it is translated. -/
def State.touchWalk (s : State) (part va : Nat) : State :=
  let root := s.reg64 (descAddr part 0x30)
  if s.hbmQuiet || !root.getLsbD 0 then s else s.touchTables part va 5 (getBits root 11 37 * 2 ^ 11)

/-- The five-level walk from TROOT (R299). -/
def State.walk (s : State) (part va : Nat) : Except XFault (Nat × Word × Nat) :=
  let root := s.reg64 (descAddr part 0x30)
  if !root.getLsbD 0 then .error { cause := 0x10, sub := 4 }
  else s.walkFrom part va 5 (getBits root 11 37 * 2 ^ 11)

/-- The unit in which a region is handed to partitions, for a page that may hold several; 0 where a unit is smaller than any page. -/
def Region.unit : Region → Nat
  | .chip _ | .die _ => 2 ^ 20
  | .aperture _ => 2 ^ 17
  | .vf _ => 2 ^ 16
  | _ => 0

/-- The page of a leaf lies in the partition's ranges (R302, R415). An HBM page lies in one band (R301). Descriptors are smaller than any
page, so the byte decides there (log 39). -/
def State.pageInRanges (s : State) (part : Nat) (e : Word) (pa : Nat) : Bool :=
  let u := (regionOf pa).unit
  if u = 0 then s.inRanges part pa
  else s.inRanges part pa && (List.range (pageBytes (leafSize e) / u)).all fun i => s.inRanges part (leafPa e + i * u)

/-- The checks of a leaf against an access (R302). A mode-U access to a control block takes PROTECTION with
SUB 3 whatever the entry says (R159); an aperture entry is checked here too (R396). -/
def State.leafCheck (s : State) (q : Party) (e : Word) (pa : Nat) (a : Access) : Except XFault Nat :=
  let prot : Nat → Except XFault Nat := fun n => .error { cause := 0x11, sub := n }
  if !q.sup && (!e.getLsbD 5 || (regionOf pa).isCtl) then prot 3
  else if a = .read && !e.getLsbD 2 then prot 0
  else if a = .fetch && !e.getLsbD 4 then prot 2
  else if a.writes && !e.getLsbD 3 then prot 1
  else if a = .both && !e.getLsbD 2 then prot 0
  else if !s.pageInRanges q.part e pa then .error { cause := 0x20, sub := 0 }
  else if regionOf pa = .fabric then
    let ent := s.reg64 (apertureTable + q.part * 0x20000 + (pa - fabricBase) / 2 ^ 32 * 8)
    let target := getBits ent 0 16 * 2 ^ 32 + pa % 2 ^ 32
    let dev := getBits ent 16 14
    if !ent.getLsbD 63 then prot a.sub
    else if a.writes && !ent.getLsbD 62 then prot 1
    else if Config.remoteRefuses dev (getBits ent 30 5) target then .error { cause := 0x20, sub := 0 }
    else .ok (remoteKey dev target)
  else .ok pa

/-- The bits an access sets in a leaf (R302): A, and D for a write. -/
def Access.marks (a : Access) : Word := if a.writes then 0xC00 else 0x400

/-- A cached leaf is no copy of the entry the walk finds: another field differs, or a mark stands only in the cache. -/
def TlbEntry.stale (t : TlbEntry) (fresh : Option Word) : Bool :=
  match fresh with
  | none => true
  | some e => leafKey t.leaf ≠ leafKey e || (t.leaf &&& ~~~e &&& 0xC00) ≠ 0

/-- Cached leaves of an address that differ from `fresh`: each may be used until a TLBINV drops it (R303). -/
def State.staleLeaves (s : State) (part va : Nat) (fresh : Option Word) : List TlbEntry :=
  s.tlb.filter fun t => t.part = part && t.base ≤ va && va < t.base + pageBytes t.size && t.stale fresh

/-- Cache a leaf that stands at `addr`; a cached copy of it takes its marks. -/
def State.cacheLeaf (s : State) (part va : Nat) (e : Word) (addr : Nat) : State :=
  let n := pageBytes (leafSize e)
  let t : TlbEntry := { part := part, base := va / n * n, size := leafSize e, leaf := e, addr := addr }
  let same := fun (x : TlbEntry) => x.part = part && x.base = t.base && x.addr = addr && leafKey x.leaf = leafKey e
  if s.tlb.any same then { s with tlb := s.tlb.map fun x => if same x then { x with leaf := x.leaf ||| e } else x }
  else { s with tlb := t :: s.tlb }

/-- Use a leaf for an access. -/
def State.useLeaf (s : State) (q : Party) (e : Word) (va : Nat) (a : Access) : Except XFault Xl :=
  match s.leafCheck q e (leafPa e + va % pageBytes (leafSize e)) a with
  | .error f => .error f
  | .ok k => .ok { key := k, unc := e.getLsbD 6 }

/-- The indivisible OR on an entry at `addr`, when the leaf `e` that the access uses lacks a mark it needs (R302). -/
def State.setAD (s : State) (addr : Nat) (e : Word) (a : Access) : State :=
  if e ||| a.marks = e then s
  else { s with mem := Mem.writeLE s.mem addr 8 (BitVec.ofNat 64 (Mem.readLE s.mem addr 8) ||| a.marks).toNat }.writeCells addr 8

/-- `translate` of R18 and R299 for a party, from the tables as a walk finds them: the state it leaves (A and D set, the leaf cached) and the address or
the fault. `va` has been checked to lie below 2^52. The PF has no tables: its addresses are physical (log 40), and those from 2^48 on name nothing. -/
def State.translateNow (s : State) (q : Party) (va : Nat) (a : Access) : State × Except XFault Xl :=
  if q.part = 32 then (s, if va < 2 ^ 48 then .ok { key := va, unc := true } else .error { cause := 0x20, sub := 0 })
  else if 0xFFC0000000000 ≤ va then (s, s.window q va a)
  else
    let w := s.walk q.part va
    let fresh := match w with | .ok (_, e, _) => some e | .error _ => none
    let use := fun (u : State) (e : Word) (addr : Nat) =>
      match u.useLeaf q e va a with
      | .error f => (u, .error f)
      | .ok x => ((u.setAD addr e a).cacheLeaf q.part va (e ||| a.marks) addr, .ok x)
    let walked := fun (u : State) =>
      match w with
      | .error f => (u, .error f)
      | .ok (_, e, addr) => use u e addr
    match s.staleLeaves q.part va fresh with
    | [] => walked s
    | stale =>
      let u := { s with fresh := s.fresh + 1 }
      match stale[Config.pick s.fresh % (stale.length + 1)]? with
      | some t => use u t.leaf t.addr
      | none => walked u

/-- `translate` of R18 and R299: the walk reads the tables, and the address is translated by them. -/
def State.translate (s : State) (q : Party) (va : Nat) (a : Access) : State × Except XFault Xl :=
  (if q.part = 32 || decide (0xFFC0000000000 ≤ va) then s else s.touchWalk q.part va).translateNow q va a

/-! ## Fault records (R419) -/

/-- Entries of a fault ring: FQBASE.LOG2 (R418). -/
def State.ringSize (s : State) (ring : Nat) : Nat := 2 ^ (getBits (s.reg64 (vfAddr ring 0x40)) 0 4 + 4)

/-- A write to a line breaks the links every other party's strands hold on it (R221); `by_` is the writing strand's place. -/
def State.breakLinks (s : State) (by_ : Option Nat) (line : Nat) : State :=
  let g := fun (t : Strand) => if by_ = some t.place || !t.links.contains line then t else { t with links := t.links.filter (· ≠ line) }
  { s with strand := g s.strand, parked := s.parked.map g }

/-- The 8-byte words of a range are last written by something that is no token (R234): a token that stood there stands no longer, and
the words are noted for every D launch that lives, the launch `det` of the writer among them. -/
def State.noteStore (s : State) (det : Option Nat) (k n : Nat) : State :=
  let ws := if n = 0 then [] else (List.range ((k + n - 1) / 8 - k / 8 + 1)).map (k / 8 + ·)
  { s with
    cmds := s.cmds.map fun c => match c.tokKey with
      | some t => if ws.contains (t / 8) then { c with tokKey := none } else c
      | none => c,
    stored := ((s.launches.filter fun l => l.det && some l.id ≠ det).map (·.id) ++ det.toList).foldl
      (fun old l => (ws.filter fun w => !old.contains (l, w)).map (fun w => (l, w)) ++ old) s.stored }

/-- The partition's VF is frozen: device-initiated traffic of the partition to its host has stopped (R421). -/
def State.vfStopped (s : State) (part : Nat) : Bool := decide (part < 32) && getBits (s.reg64 (descAddr part 0)) 16 2 = 3

/-- Bytes of the hub at a key: to memory, or held back for the host while the VF is stopped (R421). -/
def State.hubPut (s : State) (part k : Nat) (bs : List Byte) : State :=
  if regionOf k = Region.host && s.vfStopped part then { s with hostHeld := s.hostHeld ++ bs.mapIdx fun i b => (part, k + i, b) }
  else
    let u := s.reachRange k bs.length true
    (List.range ((k + bs.length - 1) / 64 - k / 64 + 1)).foldl (fun v i => v.breakLinks none (k / 64 + i))
      ((({ u with mem := Mem.put u.mem k bs }).writeCells k bs.length).noteStore none k bs.length)

/-- Write bytes at a virtual address of a partition as the hub does, each page translated once; bytes of pages that do not translate are not
written. -/
def State.hubBytes (s : State) (part : Nat) : Nat → Nat → List Byte → State
  | 0, _, _ => s
  | _, _, [] => s
  | fuel + 1, va, bs =>
    let n := min bs.length (4096 - va % 4096)
    let (s1, r) := s.translate (hubParty part) va .write
    (match r with
      | .ok x => s1.hubPut part x.key (bs.take n)
      | .error _ => s1).hubBytes part fuel (va + n) (bs.drop n)

/-- A write of the hub; a line that it covers whole is poisoned no longer (R347). -/
def State.hubWrite (s : State) (part va : Nat) (bs : List Byte) : State :=
  let lines := (List.range (bs.length / 64 + 1)).filter fun i => decide ((va + 63) / 64 * 64 + i * 64 + 64 ≤ va + bs.length)
  lines.foldl (fun u i =>
    match (u.translate (hubParty part) ((va + 63) / 64 * 64 + i * 64) .write).2 with
    | .ok x => { u with poison := setErase (lineOf x.key) u.poison }
    | .error _ => u) (s.hubBytes part (bs.length / 4096 + 2) va bs)

/-- The hub may write a range for a partition now: every byte of it translates, and none lies in a locked page or at the host behind a stopped VF (R294,
R421). -/
def State.hubReach (s : State) (part va n : Nat) : Bool :=
  (List.range n).all fun i =>
    match (s.translate (hubParty part) (va + i) .write).2 with
    | .ok x => !(regionOf x.key = Region.host && s.vfStopped part) && !s.locked.contains (x.key / 4096)
    | .error _ => false

/-- A function sends an MSI-X message, which stays back while its VF is stopped (R419, R421). -/
def State.interrupt (s : State) (fn vec : Nat) : State :=
  if s.vfStopped fn then { s with msixHeld := s.msixHeld ++ [(fn, vec)] } else { s with msix := s.msix ++ [(fn, vec)] }

/-- FQHEAD, FQTAIL, and where the next record of a ring is written (R418). -/
def State.ringHead (s : State) (ring : Nat) : Nat := getBits (s.reg64 (vfAddr ring 0x48)) 0 32
def State.ringTail (s : State) (ring : Nat) : Nat := getBits (s.reg64 (vfAddr ring 0x50)) 0 32
def State.ringEntry (s : State) (ring : Nat) : Nat :=
  getBits (s.reg64 (vfAddr ring 0x40)) 6 46 * 64 + s.ringTail ring % s.ringSize ring * 64

/-- A record can be entered now: TAIL − HEAD is below the ring's size, and the entry can be written, as TAIL never covers an unwritten
record (R419; log 40). -/
def State.ringOpen (s : State) (ring : Nat) : Bool :=
  decide ((s.ringTail ring + 2 ^ 32 - s.ringHead ring) % 2 ^ 32 < s.ringSize ring) && s.hubReach ring (s.ringEntry ring) 64

/-- Enter a record into its ring: the 64 bytes at entry TAIL mod size, then TAIL + 1 (R419). -/
def State.enterRecord (s : State) (ring : Nat) (words : List Word) : State :=
  let head := s.ringHead ring
  let tail := s.ringTail ring
  let s1 := s.hubWrite ring (s.ringEntry ring) (words.flatMap fun w => leBytes 8 w.toNat)
  let s2 := s1.setField (vfAddr ring 0x50) 0 32 (tail + 1)
  if tail = head then s2.interrupt ring 0 else s2

/-- Add an event to the chronograph's ring, unless a fatal error has frozen it; the ring keeps the last 16,384 (R428). -/
def State.chronicle (s : State) (source part cause : Nat) (a0 a1 : Word) : State :=
  if (s.reg64 (vfAddr 32 0x1000)).getLsbD 4 then s
  else
    let e : ChronEntry := { time := s.nanos, source := source, part := part, cause := cause, addr0 := a0, addr1 := a1 }
    { s with chron := (s.chron ++ [e]).drop (s.chron.length + 1 - 16384) }

/-- A hub event's SOURCE (R428). -/
def hubSource : Nat := 2 * 2 ^ 14

/-- SOURCE of a record's event: the strand's die, the engine's die or stack, else the hub (R428; log 24). -/
def State.recordSource (s : State) (place cmd : Option Nat) : Nat :=
  match place, s.cmds.find? fun c => some c.id = cmd with
  | some p, _ => dieOf p
  | none, some c => if c.queue < 16 then c.queue / 4 else 2 ^ 14 + c.queue % 8
  | none, none => hubSource

/-- Chronicle a record's event: CAUSE is a fault's cause, or the record's kind (R428; log 24). -/
def State.chronicleRecord (s : State) (ring kind : Nat) (words : List Word) (place cmd : Option Nat) : State :=
  let w := fun (i : Nat) => words.getD i 0
  let src := s.recordSource place cmd
  let part := if ring = 32 then 0xFFFF else ring
  if kind = 0 then s.chronicle src part (getBits (w 2) 0 8) (w 3) (w 1)
  else if kind = 1 ∨ kind = 8 then s.chronicle src part (getBits (w 2) 0 8) (w 1) 0
  else s.chronicle src part kind (w 1) (w 2)

/-- Post a record of a kind to a ring. Its sequence number is the TAIL at which it is posted; while it cannot be entered the source waits, and
the record keeps its place behind those that wait already (R419). -/
def State.postRecord (s : State) (ring kind : Nat) (words : List Word) (place cmd : Option Nat) : State × Nat :=
  let waiting := (s.records.filter fun r => r.ring = ring && !r.posted).length
  let seq := (s.ringTail ring + waiting) % 2 ^ 32
  let full := !s.ringOpen ring || decide (waiting ≠ 0)
  let w0 := (words.getD 0 0) ||| BitVec.ofNat 64 (kind * 2 ^ 56)
  let ws := w0 :: (words.drop 1) ++ List.replicate (7 - words.length) 0
  let ws := if ws.length = 8 then ws else ws.take 7 ++ [s.cycle]
  let r : Record := { ring := ring, seq := seq, kind := kind, words := ws.take 7 ++ [s.cycle], place := place, cmd := cmd,
                      posted := !full, pending := true }
  let s1 := { s.chronicleRecord ring kind words place cmd with records := s.records ++ [r] }
  (if full then s1 else s1.enterRecord ring r.words, seq)

/-! ## Traps (R135 to R142) -/

/-- A trap about to be taken: what `raise_fault` carries. -/
structure Trap where
  cause  : Nat
  sub    : Nat
  acc    : Nat
  elem   : Nat
  addr   : Word
  /-- Restart point of an element-precise stop (R143, R144). -/
  resume : Option Word
  deriving DecidableEq, Repr

/-- Routes (R136): 0 Own, 1 Suspend, 2 Freeze. -/
def routeOf (cause : Nat) : Nat := if cause < 0x10 then 0 else if cause < 0x20 then 1 else 2

/-- TCAUSE of R137. -/
def causeWord (t : Trap) (route : Nat) (nest vec : Bool) : Word :=
  BitVec.ofNat 64 (t.sub * 2 ^ 16 + route * 2 ^ 14 + (if nest then 2 ^ 13 else 0) + (if vec then 2 ^ 12 else 0) + t.acc * 2 ^ 10 + t.cause)

/-- TVEC is usable (R140). -/
def Strand.tvecOk (t : Strand) : Bool := decide (t.ctl.tvec.val ≠ 0) && decide (t.ctl.tvec.val.extractLsb' 0 2 = 0)

/-- Write the trap registers of R138, untarnished: taking a trap is no instruction's result (log 14). -/
def Ctl.trapRegs (c : Ctl) (tpc cause : Word) (t : Trap) : Ctl :=
  { c with
    tpc := .of tpc, tcause := .of cause, telem := .of (BitVec.ofNat 64 t.elem), taddr := .of t.addr,
    resume := .of (t.resume.getD 0) }

/-- The residue that a stop leaves: that of the instruction at the pc, when the stop records a restart point. -/
def Strand.stopResidue (t : Strand) (x : Trap) : Option Residue := if x.resume.isSome then t.residue.filter (·.pc = t.pc) else none

/-- Entering the handler (R138): the saved pc, cause, element, address and restart point, STATUS.TR, and the pc at TVEC, of which bits above 51
fall away (log 41). The residue of the stop is kept beside the handler's own (R146). -/
def Strand.enter (t : Strand) (vec : Bool) (tpc : Word) (x : Trap) : Strand :=
  { t with ctl := t.ctl.trapRegs tpc (causeWord x 0 false vec) x, st := { t.st with tr := true, tarn := false },
           pc := t.ctl.tvec.val.setWidth 52, armed := none, outer := t.stopResidue x, residue := none }

/-- The restart point armed for the instruction at the pc (R145). -/
def Strand.armedHere (t : Strand) : Option Word :=
  match t.armed with
  | some (a, p) => if a = t.pc then some p else none
  | none => none

/-- The words of a strand's fault record (R142) but its last; `w` is the instruction word. -/
def Strand.faultWords (t : Strand) (w : BitVec 32) (cause : Word) (x : Trap) : List Word :=
  [BitVec.ofNat 64 (t.place % 1024), t.pc.setWidth 64, cause, x.addr, BitVec.ofNat 64 x.elem, x.resume.getD 0,
   BitVec.ofNat 64 (w.toNat + t.launch % 2 ^ 32 * 2 ^ 32)]

/-- Stop with a record on the fault queue (R142); a restart point that the stop recorded is that of the instruction at the pc. -/
def State.stopStrand (s : State) (route : Nat) (nest vec : Bool) (x : Trap) : State :=
  let t := s.strand
  let (s1, seq) := s.postRecord t.part 0 (t.faultWords t.word (causeWord x route nest vec) x) (some t.place) none
  s1.mapStrand fun u => { u with run := if route = 2 then .frozen seq else .suspended seq, armed := x.resume.map fun p => (u.pc, p),
                                 residue := u.stopResidue x }

/-- Taking an exception (R135 to R142): the ONE operation every trap goes through. `vec` says that its major lies in 0x20 to 0x3F, `next` is the address TPC receives. -/
def State.takeTrap (s : State) (vec : Bool) (next : Addr) (x : Trap) : State :=
  let route := routeOf x.cause
  if route ≠ 0 then s.stopStrand route false vec x
  else if s.strand.st.tr then s.stopStrand 1 true vec x
  else if s.strand.tvecOk then s.mapStrand fun t => t.enter vec (next.setWidth 64) x
  else
    (s.stopStrand 1 true vec x).mapStrand fun t =>
      { t with ctl := t.ctl.trapRegs (next.setWidth 64) (causeWord x 1 true vec) x }

/-- The residue with which the handler returns: that of the stop it handles, when it returns to that instruction with the stop's restart pending. The
point of a stop at element 0 is 0, so such a stop's restart is pending with RESUME = 0 (R144, R146; log 16). -/
def Strand.leaveResidue (t : Strand) : Option Residue :=
  if t.st.tr then t.outer.filter fun r => decide (r.pc = t.ctl.tpc.val.setWidth 52) && (decide (t.ctl.resume.val ≠ 0) || r.first) else none

/-- Returning from one (R125): the pc is TPC, of which bits above 51 fall away (log 41), STATUS.TR is 0, and a RESUME that is not 0 is armed for that
address (R145), or a 0 whose restart is pending (log 16). TPC has been checked to be word aligned. -/
def Strand.leave (t : Strand) : Strand :=
  let a : Addr := t.ctl.tpc.val.setWidth 52
  { t with pc := a, st := { t.st with tr := false, tarn := t.ctl.tpc.tarn || t.ctl.resume.tarn }, residue := t.leaveResidue, outer := none,
           armed := if t.ctl.resume.val = 0 && t.leaveResidue.isNone then none else some (a, t.ctl.resume.val) }

/-! ## Meanings that can trap or wait -/

/-- How an instruction ends before its last effect: a trap (R17 `raise_fault`), or it waits and will be executed again. -/
inductive Stop where
  | trap (x : Trap)
  | wait
  /-- The slice's tag area has no room for the granule's tag: the access stalls (R311). -/
  | noTag (granule : Nat)
  deriving DecidableEq, Repr

/-- A meaning in steps: each may change the state, trap or wait. -/
abbrev M := EStateM Stop State

/-- `raise_fault`. -/
def raise {α : Type} (x : Trap) : M α := throw (.trap x)

/-- A trap with a cause and an address, at no element. -/
def Trap.at (cause : Nat) (addr : Word) : Trap := { cause := cause, sub := 0, acc := 0, elem := 0, addr := addr, resume := none }

/-- The trap a stopped command owes (R434): of TARNISH and of the assay rule's write half the access is a write, of the rule's other conflicts a
read (R137). -/
def owedTrap (cause sub : Nat) (addr : Word) : Trap :=
  { cause := cause, sub := sub, acc := if cause = 0x08 then 2 else if cause = 0x09 then (if sub = 1 then 2 else 1) else 0, elem := 0,
    addr := addr, resume := none }

/-! ## Inputs from outside (log 26) -/

/-- How often a unit's next checks fail. -/
def State.upsetOf (s : State) (unit : Nat) : Nat := ((s.upsets.find? (·.1 = unit)).map (·.2)).getD 0

/-- One failure of a unit has been met. -/
def State.useUpset (s : State) (unit : Nat) : State :=
  { s with upsets := (s.upsets.map fun u => if u.1 = unit then (unit, u.2 - 1) else u).filter (·.2 ≠ 0) }

/-- Unit numbers of the tag area of a slice, of a spilled assay tag, of a spilled reservation tag, and of an L1 line of a core (log 26). -/
def tagAreaUnit (die slice : Nat) : Nat := 2 ^ 20 + 32 * die + slice
def assayTagUnit (granule : Nat) : Nat := 2 ^ 56 + granule
def resTagUnit (cell : Nat) : Nat := 2 ^ 57 + cell
def l1LineUnit (core line : Nat) : Nat := 2 ^ 58 + core * 2 ^ 46 + line

/-- Unit numbers of a pseudo-channel, and of the metadata of a compressed block (log 26). -/
def pchUnit (stack pch : Nat) : Nat := 2 ^ 21 + 128 * stack + pch
def metaUnit (block : Nat) : Nat := 2 ^ 60 + block

/-- The slice that homes a granule for a partition: the fixed function of R290. -/
def State.sliceOf (s : State) (part granule : Nat) : Nat × Nat :=
  let die := match regionOf (granule * 256) with | .hbm d | .chip d => d | _ => 0
  let l := s.slices part die
  (die, l.getD (Config.homeSlice part granule % max 1 l.length) 0)

/-- An access has stalled for want of tag space: a failure of the slice's tag area is met, and a TAG_AREA record is posted unless one stands
for the granule (R311, R322, R419). -/
def State.tagStall (s : State) (part granule : Nat) : State :=
  let u := s.sliceOf part granule
  let s1 := s.useUpset (tagAreaUnit u.1 u.2)
  if s1.records.any fun r => r.ring = part && r.kind = 5 && r.pending && r.words.getD 1 0 = BitVec.ofNat 64 (granule * 256) then s1
  else (s1.postRecord part 5 [0, BitVec.ofNat 64 (granule * 256)] none none).1

/-- The acting strand's instruction waits: it will be executed again, and a breakpoint at it has been passed (R432). -/
def State.waits (s : State) : State :=
  let here := (s.strand.place, s.strand.pc)
  if s.goOn.contains here then s else { s with goOn := here :: s.goOn }

/-- A restarted instruction that faults again before its first element records the point it was to start from (R145); so does one that takes its faults
before any effect, when a point stands armed for it, although it has none of its own (R144, R179, R249; DESIGN CHOICE, log 51). -/
def Strand.keepPoint (t : Strand) (x : Trap) : Trap := { x with resume := x.resume.orElse fun _ => t.armedHere }

/-- Run a meaning of the acting strand. A trap keeps the effects before it (R17); a wait has none. A meaning that completes has set the pc
itself. -/
def runM (vec : Bool) (m : M Unit) (s : State) : Host.Outcome State Fault Refusal :=
  match m s with
  | .ok _ t => .next t
  | .error (.trap x) t => .next (t.takeTrap vec s.strand.pc (if vec then s.strand.keepPoint x else x))
  | .error .wait _ => .next s.waits
  | .error (.noTag g) _ => .next (s.waits.tagStall s.strand.part g)

/-- The meaning of an instruction that ends by falling through to the next word. -/
def runStep (vec : Bool) (m : M Unit) (s : State) : Host.Outcome State Fault Refusal :=
  runM vec (do m; modify fun t => t.mapStrand Strand.advance) s

/-- Change the acting strand. -/
def modS (f : Strand → Strand) : M Unit := modify fun s => s.mapStrand f

/-- The acting strand. -/
def getS : M Strand := do return (← get).strand

end Sys2Proof.Machine
end

