-- ==== Sys2Proof/Machine/Lines.lean ====
section
/-! DEFINITION. Lines of memory: tarnish, poison and links (R221, R315, R347), guest copies and the dirty FIFO (R308), what a
release and an acquire do at a scope (R113), and the assay rule (R310 to R313). -/

namespace Sys2Proof.Machine

/-! ## Writes at the home of a line -/

/-- One line's tarnish becomes its own OR `t`. -/
def State.orTarn (s : State) (line : Nat) (t : Bool) : State := if t then { s with tarn := setInsert line s.tarn } else s

/-- The launch of the live strand at a place, when it is a D context. -/
def State.detAt (s : State) (place : Nat) : Option Nat :=
  match s.strandAt place with
  | some t => if t.st.d then some t.launch else none
  | none => none

/-! ## Code that a store replaced (R111) -/

/-- Two places lie in one group of a scope (R21). -/
def sameScope (scope x y : Nat) : Bool :=
  match scope with
  | 0 => x = y
  | 1 => coreOf x = coreOf y
  | 2 => clusterOf x = clusterOf y
  | 3 => dieOf x = dieOf y
  | _ => true

/-- The writer at a place has released its earlier stores at a scope. -/
def State.codeRelease (s : State) (place scope : Nat) : State :=
  { s with oldCode := s.oldCode.map fun e =>
      if e.writer = place && !e.released.contains scope then { e with released := scope :: e.released } else e }

/-- A store of `n` bytes at a key: behind releases of its strand it carries them to whoever reads it. -/
def State.codeCarry (s : State) (place k n : Nat) : State :=
  { s with oldCode := s.oldCode.map fun e =>
      if e.writer = place then { e with carriers := (List.range n).flatMap (fun i => e.released.map (k + i, ·)) ++ e.carriers } else e }

/-- A store of the writer to the byte waits in its core's FIFO, so that the home does not yet hold it. -/
def State.codeWaits (s : State) (writer k : Nat) : Bool :=
  s.cores.any fun c => c.core = coreOf writer && c.fifo.any fun e => e.place = writer && decide (e.key ≤ k) && decide (k < e.key + e.data.length)

/-- The strand at a place has read some of a store's carrying bytes (key and scope): it observes the releases that they carry, as far as the scope
holds both strands. -/
def OldCode.observeAt (e : OldCode) (place k n : Nat) (carried : List (Nat × Nat)) : OldCode :=
  { e with observed := ((carried.filter fun c => decide (k ≤ c.1) && decide (c.1 < k + n) && sameScope c.2 e.writer place &&
      !e.observed.contains (place, c.2)).map fun c => (place, c.2)) ++ e.observed }

/-- The strand at a place has read `n` bytes at their home. -/
def State.codeObserve (s : State) (place k n : Nat) : State :=
  { s with oldCode := s.oldCode.map fun e => e.observeAt place k n (e.carriers.filter fun c => !s.codeWaits e.writer c.1) }

/-- The strand at a place has read `n` bytes in its core's guest copy. -/
def State.codeObserveCopy (s : State) (place k n : Nat) : State :=
  { s with oldCode := s.oldCode.map fun e =>
      e.observeAt place k n ((e.copies.filter fun c => c.1 = coreOf place).map (·.2)) }

/-- A core has filled a line: its copy holds what the home holds now. -/
def State.codeFill (s : State) (core line : Nat) : State :=
  { s with oldCode := s.oldCode.map fun e =>
      { e with copies := (e.carriers.filter fun c => lineOf c.1 = line && !s.codeWaits e.writer c.1).map (fun c => (core, c)) ++
          e.copies.filter fun c => !(c.1 = core && lineOf c.2.1 = line) } }

/-- The completion of a barrier at a scope: every member observes every other's release (R168). -/
def State.codeJoin (s : State) (places : List Nat) (scope : Nat) : State :=
  { s with oldCode := s.oldCode.map fun e => if places.contains e.writer then { e with observed := places.map (·, scope) ++ e.observed } else e }

/-- A FENCE of the strand at a place: it fetches its own earlier stores from then on, and those of another strand when it has observed a release
of theirs at a scope that the FENCE has (R111). -/
def State.codeFence (s : State) (place scope : Nat) : State :=
  { s with oldCode := s.oldCode.map fun e =>
      if !e.fenced.contains place && (e.writer = place || e.observed.any fun o => o.1 = place && decide (o.2 ≤ scope))
      then { e with fenced := place :: e.fenced } else e }

/-- Bytes stored at their home by a strand, which never clears a line's tarnish bit (R110); they lie in one line. -/
def State.homeStore (s : State) (place : Nat) (k : Nat) (bs : List Byte) (t : Bool) : State :=
  let s1 := (({ s with mem := Mem.put s.mem k bs }).writeCells k bs.length).noteStore (s.detAt place) k bs.length
  (s1.orTarn (lineOf k) t).breakLinks (some place) (lineOf k)

/-- The lines that a range of bytes touches. -/
def linesOf (k n : Nat) : List Nat :=
  if n = 0 then [] else (List.range ((k + n - 1) / 64 - k / 64 + 1)).map (k / 64 + ·)

/-- One line's marks after a write of `[k, k + n)` by an engine or the host with a tarnish and a poison of the data: covering all
64 bytes, the line takes them; else they are added (R315, R347). -/
def State.markLine (s : State) (k n line : Nat) (t p : Bool) : State :=
  let whole := decide (k ≤ line * 64) && decide (line * 64 + 64 ≤ k + n)
  { s with tarn := if whole then setPut line t s.tarn else (if t then setInsert line s.tarn else s.tarn),
           poison := if whole then setPut line p s.poison else (if p then setInsert line s.poison else s.poison) }

/-- Words of local memory that a write of `n` bytes at a key covers whole are bad no longer (R171, R281). -/
def clearParity (l : List Nat) (k n : Nat) : List Nat := l.filter fun w => !(decide (k ≤ w * 8) && decide (w * 8 + 8 ≤ k + n))

/-- Bytes written at their home by an engine, a base die, the hub or the host, all of one tarnish and one poison; `det` is the D launch
whose engine writes. -/
def State.engineStore (s : State) (det : Option Nat) (k : Nat) (bs : List Byte) (t p : Bool) : State :=
  let s1 := (({ s with mem := Mem.put s.mem k bs, parity := clearParity s.parity k bs.length }).writeCells k bs.length).noteStore det k bs.length
  (linesOf k bs.length).foldl (fun u l => (u.markLine k bs.length l t p).breakLinks none l) s1

/-! ## Cores -/

/-- A core that has done nothing yet: ages 0, the last winner such that slot 0 comes first (log 1). -/
def CoreSt.fresh (core : Nat) : CoreSt := { core := core, ages := [0, 0, 0, 0], last := 3, score := [], fifo := [] }

def State.core (s : State) (core : Nat) : CoreSt := (s.cores.find? (·.core = core)).getD (.fresh core)

/-- Replace a core's state. -/
def State.setCore (s : State) (c : CoreSt) : State :=
  { s with cores := if s.cores.any (·.core = c.core) then s.cores.map (fun x => if x.core = c.core then c else x) else s.cores ++ [c] }

/-! ## Guest copies (R308) -/

/-- Link 1 runs CXL (DEVST[3], R426). -/
def State.cxl (s : State) : Bool := (s.reg64 (vfAddr 32 0x1000)).getLsbD 3

/-- The scope whose acquire drops a core's copy of the byte's line: 4 for another die's lines, 5 for other devices', 6 for lines
cached from the host over CXL; `none` for a line that is never a guest (R113, R308, R395, R396). -/
def State.guestScope (s : State) (place k : Nat) (unc : Bool) : Option Nat :=
  if unc then none
  else
    match regionOf k with
    | .hbm d | .chip d => if d = dieOf place then none else some 4
    | .remote _ => some 5
    | .host => if s.cxl && (k / 2 ^ 46) % 2 = 1 then some 6 else none
    | _ => none

def State.guest (s : State) (core line : Nat) : Option Guest := s.guests.find? fun g => g.core = core && g.line = line

/-- Lay stored bytes over a line's 64 bytes. -/
def overlay (line : Nat) (data : List Byte) (k : Nat) (bs : List Byte) : List Byte :=
  (List.range 64).map fun i =>
    let a := line * 64 + i
    if k ≤ a ∧ a < k + bs.length then bs.getD (a - k) 0 else data.getD i 0

/-- A copy of a line as the core fills it: the home's bytes, under the stores of its own that still wait in its FIFO. -/
def State.fillLine (s : State) (core line : Nat) : Guest :=
  let own := (s.core core).fifo.filter fun e => lineOf e.key = line
  { core := core, line := line,
    data := own.foldl (fun d e => overlay line d e.key e.data) (Mem.bytes s.mem (line * 64) 64),
    tarn := s.tarn.contains line || own.any (·.tarn), poison := s.poison.contains line }

/-- A core's copy of a guest line may have left the L1 before an access (R308), which a free choice decides where the copy and the home differ in their
poison. A line with stores in the FIFO stays. -/
def State.settlePoison (s : State) (place k : Nat) (unc : Bool) : State :=
  let line := lineOf k
  match s.guestScope place k unc, s.guest (coreOf place) line with
  | some _, some g =>
    if g.poison = s.poison.contains line || ((s.core (coreOf place)).fifo.any fun e => lineOf e.key = line) then s
    else if Config.pick s.fresh % 2 = 0 then { s with fresh := s.fresh + 1 }
    else { s with fresh := s.fresh + 1, guests := s.guests.filter fun x => !(x.core = coreOf place && x.line = line) }
  | _, _ => s

/-- The poison an access of the core at `place` finds: its guest copy's, else the home's. -/
def State.poisonFor (s : State) (place k : Nat) (unc : Bool) : Bool :=
  match s.guestScope place k unc, s.guest (coreOf place) (lineOf k) with
  | some _, some g => g.poison
  | _, _ => s.poison.contains (lineOf k)

/-- Bring a guest line into the core for an access: a copy that is there may be used or may have left the L1 (R308), which a free
choice decides; a line with stores in the FIFO stays, and so does a copy whose poison is not the home's, which the access's checks have met. Other lines:
nothing. -/
def State.touchGuest (s : State) (place k : Nat) (unc : Bool) : State :=
  match s.guestScope place k unc with
  | none => s
  | some _ =>
    let core := coreOf place
    let line := lineOf k
    let refill : State → State := fun u =>
      { u.codeFill core line with guests := u.fillLine core line :: u.guests.filter fun g => !(g.core = core && g.line = line) }
    match s.guest core line with
    | none => refill s
    | some g =>
      if ((s.core core).fifo.any fun e => lineOf e.key = line) || g.poison ≠ s.poison.contains line then s
      else
        let u := { s with fresh := s.fresh + 1 }
        if Config.pick s.fresh % 2 = 0 then u else refill u

/-- A core's copies of some lines give way to what their homes hold; a line with stores in the FIFO is filled again under them. -/
def State.dropCopies (s : State) (core : Nat) (lines : Nat → Bool) : State :=
  { s with guests := s.guests.filterMap fun g =>
      if g.core = core && lines g.line then
        (if (s.core core).fifo.any (fun e => lineOf e.key = g.line) then some (s.fillLine core g.line) else none)
      else some g }

/-- A core fills a line early, as a load that runs ahead of program order does (R360, R384): a copy of a line homed on another die, where the
core has none. -/
def State.fillEarly (s : State) (place line : Nat) : State :=
  match s.guestScope place (line * 64) false, s.guest (coreOf place) line with
  | some 4, none => { s.codeFill (coreOf place) line with guests := s.fillLine (coreOf place) line :: s.guests }
  | _, _ => s

/-- The byte an access of the core at `place` finds: its guest copy's, else the home's. -/
def State.byteFor (s : State) (place k : Nat) (unc : Bool) : Byte :=
  match s.guestScope place k unc, s.guest (coreOf place) (lineOf k) with
  | some _, some g => g.data.getD (k % 64) 0
  | _, _ => Mem.read s.mem k

/-- The tarnish bit an access of the core finds on the byte's line. -/
def State.tarnFor (s : State) (place k : Nat) (unc : Bool) : Bool :=
  match s.guestScope place k unc, s.guest (coreOf place) (lineOf k) with
  | some _, some g => g.tarn
  | _, _ => s.tarn.contains (lineOf k)

/-- The four lines of a 256-byte block are poisoned. -/
def State.poisonBlock (s : State) (k : Nat) : State :=
  { s with poison := (List.range 4).foldl (fun l i => setInsert (k / 256 * 4 + i) l) s.poison }

/-- The metadata of a byte's block of a compressed page cannot be fetched, so that no part of the block can be written (R296). -/
def State.metaGone (s : State) (k : Nat) : Bool := s.upsets ≠ [] && s.compressed.contains (k / 4096) && s.upsetOf (metaUnit (k / 256)) ≠ 0

/-- The block is poisoned, and its page queued for migration (R296). -/
def State.loseBlock (s : State) (k : Nat) : State :=
  let s1 := (s.useUpset (metaUnit (k / 256))).poisonBlock k
  { s1 with migrate := setInsert (k / 4096) s1.migrate }

/-- A write-back that needs metadata which cannot be fetched is lost, with a record (R296). -/
def State.loseWriteback (s : State) (part k : Nat) : State := ((s.loseBlock k).postRecord part 3 [0, BitVec.ofNat 64 k] none none).1

/-- The partition whose memory holds a byte. -/
def State.ownerPart (s : State) (k : Nat) : Option Nat := (List.range 32).find? fun p => s.inBands p k

/-- A FIFO entry of a core is a write to a locked page: it waits, and so does what stands behind it (R294). -/
def State.drainBlocked (s : State) (core : Nat) : Bool := s.locked ≠ [] && (s.core core).fifo.any fun e => s.locked.contains (e.key / 4096)

/-- Drain the oldest entry of a core's FIFO to its home (R308), where it waits for a locked page (R294). A write-back that meets lost metadata is lost, with
a record of its line (R296). -/
def State.drainOne (s : State) (core : Nat) : State :=
  let c := s.core core
  match c.fifo with
  | [] => s
  | e :: es =>
    if s.locked.contains (e.key / 4096) then s
    else
      let u := s.setCore { c with fifo := es }
      if u.metaGone e.key then u.loseWriteback ((u.ownerPart e.key).getD 32) (lineOf e.key * 64)
      else (u.reachHbm e.key false).homeStore e.place e.key e.data e.tarn

def State.drainN (s : State) (core : Nat) : Nat → State
  | 0 => s
  | n + 1 => (s.drainOne core).drainN core n

/-- Drain a core's whole FIFO. -/
def State.drainAll (s : State) (core : Nat) : State := s.drainN core (s.core core).fifo.length

/-- Drain until no entry is left for a line. -/
def State.drainLine (s : State) (core line : Nat) : Nat → State
  | 0 => s
  | n + 1 => if (s.core core).fifo.any fun e => lineOf e.key = line then (s.drainOne core).drainLine core line n else s

/-- The byte lies behind link 1 while that runs CXL, so that a core may cache it (R395). -/
def State.onCxl (s : State) (k : Nat) : Bool := s.cxl && regionOf k = .host && decide (k / 2 ^ 46 % 2 = 1)

/-- Drain until no entry is left that `p` holds of. -/
def State.drainWhile (s : State) (core : Nat) (p : FifoEntry → Bool) : Nat → State
  | 0 => s
  | n + 1 => if (s.core core).fifo.any p then (s.drainOne core).drainWhile core p n else s

/-- The order of one host link (R411): an access behind link 1 comes after the core's earlier stores to other lines there. -/
def State.linkOrder (s : State) (place k : Nat) : State :=
  if s.onCxl k then s.drainWhile (coreOf place) (fun e => s.onCxl e.key && lineOf e.key ≠ lineOf k) (s.core (coreOf place)).fifo.length else s

/-- A store behind link 1: the core's copies of other lines there are older than it, and loads after it use none of them (R411). -/
def State.linkStore (s : State) (place k : Nat) : State :=
  if s.onCxl k then { s with guests := s.guests.filter fun g => !(g.core = coreOf place && g.line ≠ lineOf k && s.onCxl (g.line * 64)) } else s

/-- A plain store of a core to a guest line: the copy is updated and the store enters the FIFO, which drains one entry first when it
is full (R308). The writing strand's own links stand; the home write breaks the others' when it drains. -/
def State.guestStore (s : State) (place k : Nat) (bs : List Byte) (t : Bool) (unc : Bool) : State :=
  let core := coreOf place
  let s1 := (s.linkStore place k).touchGuest place k unc
  let s2 := if 64 ≤ (s1.core core).fifo.length then s1.drainOne core else s1
  let c := s2.core core
  let s3 := s2.setCore { c with fifo := c.fifo ++ [{ place := place, key := k, data := bs, tarn := t }] }
  { s3 with guests := s3.guests.map fun g =>
      if g.core = core && g.line = lineOf k then { g with data := overlay g.line g.data k bs, tarn := g.tarn || t } else g }

/-- A strand's store has covered a whole line: its poison falls, and its tarnish when the data is untarnished (R315, R347). -/
def State.coverLine (s : State) (place line : Nat) (t : Bool) : State :=
  let core := coreOf place
  let s1 := s.drainLine core line (s.core core).fifo.length
  { s1 with poison := setErase line s1.poison, tarn := if t then s1.tarn else setErase line s1.tarn,
            guests := s1.guests.map fun g => if g.core = core && g.line = line then { g with tarn := g.tarn && t, poison := false } else g }

/-- What an STL, a REL or a FENCE does before its store at a scope (R111, R113). -/
def State.releaseAt (s : State) (place scope : Nat) : State :=
  (if 4 ≤ scope then s.drainAll (coreOf place) else s).codeRelease place scope

/-- The line is handled at its home: the core's FIFO entries for it drain first, and its copy is dropped (R111, R114, R360). -/
def State.lineHome (s : State) (place line : Nat) : State :=
  let s1 := s.drainLine (coreOf place) line (s.core (coreOf place)).fifo.length
  { s1 with guests := s1.guests.filter fun g => !(g.core = coreOf place && g.line = line) }

/-- What an LDA, an ACQ or a FENCE does after its load at a scope (R113): the core's guest copies of that scope's lines are dropped. -/
def State.acquireAt (s : State) (place scope : Nat) : State :=
  if scope < 4 then s
  else
    { s with guests := s.guests.filter fun g =>
        !(g.core = coreOf place && (match s.guestScope place (g.line * 64) false with | some c => decide (c ≤ scope) | none => true)) }

/-! ## Work groups and phases (R36, R310, R433) -/

/-- COUNT of a level image (R36). -/
def levelCount (w : Word) : Nat := getBits w 0 32
def levelDom (w : Word) : Nat := getBits w 32 3
def levelScope (w : Word) : Nat := getBits w 40 3
def levelBar (w : Word) : Nat := getBits w 48 6

/-- Strands in one group of level `n`. -/
def groupSize : List Word → Nat → Nat
  | [], _ => 1
  | w :: _, 0 => levelCount w
  | w :: ws, n + 1 => levelCount w * groupSize ws n

/-- The group of level `n` that holds a flat index. -/
def groupOf (levels : List Word) (n flat : Nat) : Nat := flat / groupSize levels n

/-- `lcl(x, y)`: the lowest level at which two flat indices lie in one group; the level count when there is none (R310). -/
def lcl (levels : List Word) (x y : Nat) : Nat :=
  if x = y then 0
  else ((List.range levels.length).find? fun n => groupOf levels n x = groupOf levels n y).getD levels.length

/-- A phase counter. -/
def State.phase (s : State) (launch level group : Nat) : Nat := ((s.phases.find? (·.1 = (launch, level, group))).map (·.2)).getD 0

/-- Add one to a phase counter. -/
def State.bumpPhase (s : State) (launch level group : Nat) : State :=
  let key := (launch, level, group)
  { s with phases := if s.phases.any (·.1 = key) then s.phases.map (fun e => if e.1 = key then (key, e.2 + 1) else e)
                     else s.phases ++ [(key, 1)] }

/-- The phase vector of a strand: one phase per level (R310). -/
def State.phasesOf (s : State) (launch : Nat) (levels : List Word) (flat : Nat) : List Nat :=
  (List.range levels.length).map fun n => s.phase launch n (groupOf levels n flat)

/-! ## The assay rule (R311 to R313) -/

/-- A pair of accesses that R119 exempts. -/
def exempt (a b : AccessKind) : Bool :=
  match a, b with
  | .unordered, .unordered => true
  | .ordered x, .ordered y => decide (x = y)
  | _, _ => false

def AssayTag.empty (launch granule : Nat) : AssayTag := { launch := launch, granule := granule, writer := none, readers := none, lost := false }

def State.assayTag (s : State) (launch granule : Nat) : AssayTag :=
  (s.assay.find? fun t => t.launch = launch && t.granule = granule).getD (.empty launch granule)

def State.setAssay (s : State) (t : AssayTag) : State :=
  { s with assay := if s.assay.any (fun x => x.launch = t.launch && x.granule = t.granule)
      then s.assay.map (fun x => if x.launch = t.launch && x.granule = t.granule then t else x) else s.assay ++ [t] }

/-- The last writer, unless it is x itself or exempt. -/
def AssayTag.rival (t : AssayTag) (x : Nat) (k : AccessKind) : Option Writer :=
  match t.writer with
  | some w => if w.flat = x || exempt w.kind k then none else some w
  | none => none

/-- The read half of the rule for strand `x` with phases `p`: the SUB of a conflict, or the tag with x among its readers when
`record` holds (R312). -/
def AssayTag.read (t : AssayTag) (levels : List Word) (x : Nat) (p : List Nat) (k : AccessKind) (record : Bool) : Except Nat AssayTag :=
  let clash := match t.rival x k with
    | some w => let n := lcl levels x w.flat; decide (p.getD n 0 = w.phases.getD n 0)
    | none => false
  if t.lost || clash then .error 0
  else if !record then .ok t
  else
    .ok { t with readers := some (match t.readers with
      | none => { first := x, level := 0, phases := p, alone := true }
      | some r => { first := r.first, level := max r.level (lcl levels r.first x), phases := List.zipWith max r.phases p,
                    alone := r.alone && r.first = x }) }

/-- The write half of the rule (R312). -/
def AssayTag.write (t : AssayTag) (levels : List Word) (x : Nat) (p : List Nat) (k : AccessKind) : Except Nat AssayTag :=
  let others := match t.readers with | some r => !(r.alone && r.first = x) | none => false
  let lr := match t.readers with | some r => max r.level (lcl levels r.first x) | none => 0
  let lw := match t.rival x k with | some w => lcl levels x w.flat | none => 0
  let l := max lr lw
  let c1 := others && (match t.readers with | some r => decide (p.getD l 0 = r.phases.getD l 0) | none => false)
  let c2 := match t.rival x k with | some w => decide (p.getD l 0 = w.phases.getD l 0) | none => false
  if t.lost || c1 || c2 then .error 1
  else .ok { t with writer := some { flat := x, phases := p, kind := k }, readers := none }

/-- Levels of a strand, LVCNT0 first. -/
def Strand.levels (t : Strand) : List Word := t.lvcnt.toList

/-- The part of `[d, d + len)` that `[a, a + n)` meets, as offset and length. -/
def meetSpan (d len a n : Nat) : List (Nat × Nat) :=
  if max a d < min (a + n) (d + len) then [(max a d - d, min (a + n) (d + len) - max a d)] else []

/-- Parts of a command's destination, as offset and length, that an access meets to `n` bytes of one page at a key and, where it is translated, a virtual
address. A virtual destination stands where its pages translate to now, so that another mapping of them meets it too. -/
def State.destSpans (s : State) (c : Cmd) (va : Option Nat) (k n : Nat) : List (Nat × Nat) :=
  let d := c.dest.2.1
  let len := c.dest.2.2
  if c.dest.1 then meetSpan d len k n
  else
    (match va with | some a => meetSpan d len a n | none => []) ++
      (List.range (if len = 0 then 0 else (d + len - 1) / 4096 + 1 - d / 4096)).flatMap fun i =>
        let page := (d / 4096 + i) * 4096
        match (s.translate { part := c.part, sup := c.sup, place := c.place } page .write).2 with
        | .ok x => if x.key / 4096 = k / 4096 then meetSpan d len (page + k % 4096) n else []
        | .error _ => []

/-- Bytes of the command from an offset, and its fields (R228). -/
def Cmd.byte (c : Cmd) (o : Nat) : Nat := c.bits / 2 ^ (8 * o) % 256
def Cmd.dword (c : Cmd) (o : Nat) : Nat := c.bits / 2 ^ (8 * o) % 2 ^ 64
def Cmd.op (c : Cmd) : Nat := c.byte 0
def Cmd.ck (c : Cmd) : Nat := c.byte 2 % 4
def Cmd.phys (c : Cmd) : Bool := decide (128 ≤ c.byte 2)
def Cmd.ca (c : Cmd) : Nat := c.byte 3
def Cmd.chunk (c : Cmd) : Nat := c.byte 4
def Cmd.esz (c : Cmd) : Nat := c.byte 5 / 16 % 4
def Cmd.scope (c : Cmd) : Nat := c.byte 5 % 8
def Cmd.first (c : Cmd) : Nat := c.bits / 2 ^ 48 % 2 ^ 16

/-- Every chunk of a command that parts of its destination lie in is among those that the instruction itself observes (R109, R313). -/
def Cmd.spansSeen (c : Cmd) (spans seen : List (Nat × Nat)) : Bool :=
  c.ck = 1 && spans.all fun x =>
    (List.range ((x.1 + x.2 - 1) / 2 ^ c.chunk + 1 - x.1 / 2 ^ c.chunk)).all fun i => seen.contains (c.id, x.1 / 2 ^ c.chunk + i)

/-- A transfer's destination that covers some of the bytes and that the strand of flat index `flat` has not observed (R109, R313).
`seen` lists (command, chunk) pairs that the instruction itself observes by its mask. -/
def State.unobserved (s : State) (launch flat : Nat) (va : Option Nat) (k n : Nat) (seen : List (Nat × Nat)) : Bool :=
  s.cmds.any fun c => c.launch = launch && c.node.isNone && !c.seenBy.contains flat &&
    (let spans := s.destSpans c va k n; spans ≠ [] && !c.spansSeen spans seen)

/-- The token word of a command holds some of the `n` bytes at a key and, where it is translated, a virtual address (R228, R229). -/
def State.tokenMeets (s : State) (c : Cmd) (va : Option Nat) (k n : Nat) : Bool :=
  c.ck = 2 && ((match va with | some a => decide (a < c.dword 56 + 8) && decide (c.dword 56 < a + n) | none => false) ||
    (match (s.translate { part := c.part, sup := c.sup, place := c.place } (c.dword 56) .write).2 with
      | .ok x => decide (k < x.key + 8) && decide (x.key < k + n)
      | .error _ => false))

/-- A command that has not completed: its completion is not signalled, and its trap, if it owes one, is not taken (R229, R434). -/
def Cmd.isOpen (c : Cmd) : Bool :=
  match c.phase with
  | .signalled | .dropped => false
  | _ => true

/-- A command that still works, or will: it is open, and no trap is owed (R434). -/
def Cmd.atWork (c : Cmd) : Bool := match c.phase with | .owes _ _ _ => false | _ => c.isOpen

/-- A mask as an instruction reads it: tarnished while a command that names it as its completion is incomplete (R229 for a D context, R316
for an F context; log 38). -/
def State.readMask (s : State) (t : Strand) (k : Nat) : KMask :=
  let m := t.mask k
  if k ≠ 0 && s.cmds.any (fun c => c.place = t.place && c.launch = t.launch && c.node.isNone && c.ck = 1 && c.ca = k && c.isOpen)
  then { m with tarn := true } else m

/-- An engine write that its issuer has not observed stands where a strand reaches `n` bytes: in the granule of a destination, or in the word
of a token (R313, R385). `seen` lists the chunks that the instruction observes by its mask, and as chunk 0 the commands whose token word it may
read (R234). -/
def State.openWrite (s : State) (t : Strand) (va : Option Nat) (k n : Nat) (seen : List (Nat × Nat)) : Bool :=
  s.cmds.any fun c => c.launch = t.launch && c.node.isNone && !c.seenBy.contains c.flat &&
    ((let spans := s.destSpans c (va.map fun a => a / 256 * 256) (k / 256 * 256) 256; spans ≠ [] && !c.spansSeen spans seen) ||
      (s.tokenMeets c va k n && !seen.contains (c.id, 0)))

/-- `assay_check` of a strand's access to `n` bytes of one granule at a key, in a D context (R18, R312, R313): the SUB of a conflict, or the
state with its tag. -/
def State.assayCheck (s : State) (t : Strand) (va : Option Nat) (k n : Nat) (a : Access) (kind : AccessKind) (seen : List (Nat × Nat)) : Except Nat State :=
  if !t.st.d then .ok s
  else if s.openWrite t va k n seen then .error 2
  else
    let p := s.phasesOf t.launch t.levels t.flat
    let tag := s.assayTag t.launch (k / 256)
    match (if a.writes then (match a with | .both => tag.read t.levels t.flat p kind false | _ => .ok tag) else tag.read t.levels t.flat p kind true) with
    | .error e => .error e
    | .ok tag1 =>
      if a.writes then
        match tag1.write t.levels t.flat p kind with
        | .error e => .error e
        | .ok tag2 => .ok (s.setAssay tag2)
      else .ok (s.setAssay tag1)

end Sys2Proof.Machine
end

