-- ==== Sys2Proof/Machine/Barriers.lean ====
section
/-! DEFINITION. Named barriers (R167, R168, R237, R284), their binding to levels (R433), what a completion observes and advances
(R310, R313, R323), and the end of a strand (R126, R142). -/

namespace Sys2Proof.Machine

/-! ## Launches -/

def State.launch? (s : State) (id : Nat) : Option Launch := s.launches.find? (·.id = id)

def State.setLaunch (s : State) (l : Launch) : State := { s with launches := s.launches.map fun x => if x.id = l.id then l else x }

/-- The level that a barrier number joins: the level of COUNT > 1 that names it, or the escrow level of a launch all of whose levels up
to it have COUNT 1 (R433). -/
def Launch.levelOf (l : Launch) (bar : Nat) : Option Nat :=
  match (List.range l.levels.length).find? fun n => decide (1 < levelCount (l.levels.getD n 0)) && levelBar (l.levels.getD n 0) = bar with
  | some n => some n
  | none =>
    match l.esc with
    | some e => if levelBar (l.levels.getD e 0) = bar && (l.levels.take (e + 1)).all (fun w => levelCount w = 1) then some e else none
    | none => none

/-- The highest of the levels of COUNT 1 that follow level `n` without a gap. -/
def topOfOnes (levels : List Word) (n : Nat) : Nat → Nat
  | 0 => n
  | fuel + 1 => if n + 1 < levels.length && levelCount (levels.getD (n + 1) 0) = 1 then topOfOnes levels (n + 1) fuel else n

/-- The highest level that the barrier of level `n` joins: with COUNT above 1 it joins the levels of COUNT 1 above it too; an escrow level's own
barrier of COUNT 1 joins no other level (R433). -/
def topJoined (levels : List Word) (n : Nat) : Nat := if levelCount (levels.getD n 0) = 1 then n else topOfOnes levels n 8

/-- The instance owner of a barrier for a strand: launch, level, group; `none` for an unbound barrier (R167). -/
def State.ownerOf (s : State) (t : Strand) (bar : Nat) : Option (Nat × Nat × Nat) :=
  match s.launch? t.launch with
  | none => none
  | some l => (l.levelOf bar).map fun n => (l.id, n, groupOf l.levels n t.flat)

/-- A live launch binds a barrier number on a core: one of its strands there belongs to a group of a level that the number joins (R167, R433). -/
def State.boundOn (s : State) (core bar : Nat) : Bool :=
  s.launches.any fun l => (l.levelOf bar).isSome && l.strands.any fun m => coreOf m.2 = core

/-- Members of a group on a core: flat index and place. -/
def Launch.members (l : Launch) (level group core : Nat) : List (Nat × Nat) :=
  l.strands.filter fun m => groupOf l.levels level m.1 = group && coreOf m.2 = core

/-- Cores that hold members of a group. -/
def Launch.coresOf (l : Launch) (level group : Nat) : List Nat :=
  (l.strands.filter fun m => groupOf l.levels level m.1 = group).map (fun m => coreOf m.2) |>.eraseDups

/-! ## Where a launch's strands stand (R37, R398, R404) -/

/-- Product of the counts of a list of levels. -/
def countProduct (l : List Word) : Nat := l.foldl (fun a w => a * levelCount w) 1

/-- Levels within the device (R399). -/
def innerLevels (levels : List Word) : List Word := levels.filter fun w => decide (levelDom w < 5)

/-- The unit of a domain or scope that a place lies in (R37). -/
def domUnit (dom place : Nat) : Nat :=
  match dom with
  | 0 => place
  | 1 => coreOf place
  | 2 => clusterOf place
  | 3 => dieOf place
  | _ => 0

/-- Each member of a level lies within one unit of its domain, the members of one group in distinct units (R398), and the group within one unit of the
level's scope, over which its barrier orders (R168, R404). -/
def levelPlaced (levels : List Word) (places : List Nat) (n : Nat) : Bool :=
  let w := levels.getD n 0
  let member := fun (i : Nat) => if n = 0 then i else i / groupSize levels (n - 1)
  let unit := fun (dom i : Nat) => domUnit dom (places.getD i 0)
  (List.range places.length).all fun i => (List.range i).all fun j =>
    i / groupSize levels n ≠ j / groupSize levels n ||
      ((member i = member j) = (unit (levelDom w) i = unit (levelDom w) j) && unit (levelScope w) i = unit (levelScope w) j)

/-- Every level within the device is placed so; `places` goes by flat index on the device. -/
def levelsPlaced (levels : List Word) (places : List Nat) : Bool :=
  (List.range (innerLevels levels).length).all (levelPlaced levels places)

/-- Segments of a span strand stand on distinct cores, in rising order, and no die holds more than two (R351). -/
def segsPlaced (segs : List Nat) : Bool :=
  decide (segs.Pairwise (· < ·)) && decide ((segs.map coreOf).Nodup) &&
    segs.all fun p => decide ((segs.filter fun q => dieOf q = dieOf p).length ≤ 2)

/-- The number is reserved on the core: it joins a level of a live launch whose group there stands on several cores (R284). -/
def State.reservedOn (s : State) (core bar : Nat) : Bool :=
  s.launches.any fun l =>
    match l.levelOf bar with
    | some n => l.strands.any fun m => coreOf m.2 = core && decide (1 < (l.coresOf n (groupOf l.levels n m.1)).length)
    | none => false

/-! ## Instances -/

/-- A barrier instance: the one kept, or one no strand has used yet (R167). -/
def State.barrier (s : State) (core bar : Nat) (owner : Option (Nat × Nat × Nat)) : Barrier :=
  match s.barriers.find? fun b => b.core = core && b.bar = bar && b.owner = owner with
  | some b => b
  | none =>
    let count := match owner with
      | none => 1
      | some (l, n, g) => match s.launch? l with | some x => (x.members n g core).length | none => 1
    { core := core, bar := bar, owner := owner, count := count, arr := 0, gone := 0, pend := 0 }

def State.setBarrier (s : State) (b : Barrier) : State :=
  let same := fun (x : Barrier) => x.core = b.core && x.bar = b.bar && x.owner = b.owner
  { s with barriers := if s.barriers.any same then s.barriers.map (fun x => if same x then b else x) else s.barriers ++ [b] }

/-- Every expected member has arrived and nothing is pending (R167). -/
def Barrier.ready (b : Barrier) : Bool := decide (b.count ≤ b.arr + b.gone) && decide (b.pend = 0)

/-! ## Observation (R109, R313) -/

/-- Check an engine's write of `len` bytes, by key (`phys`) or virtual address `lo` on, against the assay tags of its launch and record it
there, with the issuer's phases as they stand (R312, R313). With the state comes the first byte that conflicts; nothing is recorded from
its granule on (log 30). -/
def State.recordWrite (s : State) (c : Cmd) (phys : Bool) (lo len : Nat) : State × Option Nat :=
  match s.launch? c.launch with
  | none => (s, none)
  | some l =>
    let levels := l.levels ++ List.replicate (8 - l.levels.length) 1
    let p := s.phasesOf l.id levels c.flat
    let g := lo / 256
    let n := if len = 0 then 0 else (lo + len - 1) / 256 - g + 1
    (List.range n).foldl (fun (u : State × Option Nat) i =>
      if u.2.isSome then u
      else
        let key := if phys then some ((g + i) * 256)
          else match (u.1.translate { part := c.part, sup := c.sup, place := c.place } ((g + i) * 256) .write).2 with
            | .ok x => some x.key
            | .error _ => none
        match key with
        | none => u
        | some k =>
          match (u.1.assayTag c.launch (k / 256)).write levels c.flat p .plain with
          | .ok t => (u.1.setAssay t, none)
          | .error _ => (u.1, some (max lo ((g + i) * 256)))) (s, none)

/-- A conflict of an observed engine write: its issuer owes itself ASSAY (R233, R312, R434). -/
def assayOwed (byte : Nat) : CmdPhase := .owes 0x09 1 (BitVec.ofNat 64 byte)

/-- Where a strand of a launch stands. -/
def State.placeOf (s : State) (launch flat : Nat) : Option Nat :=
  match s.launch? launch with
  | some l => (l.strands.find? (·.1 = flat)).map (·.2)
  | none => none

/-- Mark a command observed by a strand. The observer's core drops its copies of the lines written, so that its later accesses follow the
transfer (R40 note 4); the issuer's first observation records the command's writes in a D context, and a conflict is a trap owed (R313). -/
def State.observe (s : State) (cmd flat : Nat) : State :=
  match s.cmds.find? (·.id = cmd) with
  | none => s
  | some c =>
    let s1 := { s with cmds := s.cmds.map fun x => if x.id = cmd && !x.seenBy.contains flat then { x with seenBy := flat :: x.seenBy } else x }
    let s2 := match s.placeOf c.launch flat with
      | none => s1
      | some p => s1.dropCopies (coreOf p) fun line => c.wrote.any fun w => lineOf w.1 = line
    if !c.det || c.flat ≠ flat || c.seenBy.contains flat then s2
    else
      let s3 := s2.recordWrite c c.dest.1 c.dest.2.1 c.dest.2.2
      let s4 := match s3.2, c.tokKey with
        | none, some k => let r := s3.1.recordWrite c true k 8; (r.1, if r.2.isSome then some (c.dword 56) else none)
        | _, _ => s3
      match s4.2 with
      | none => s4.1
      | some b => { s4.1 with cmds := s4.1.cmds.map fun x => if x.id = cmd then { x with phase := assayOwed b } else x }

/-- Performed commands that a barrier instance counted (CK 0): their every byte has left PEND. -/
def State.countedBy (s : State) (core bar : Nat) (owner : Option (Nat × Nat × Nat)) : List Nat :=
  (s.cmds.filter fun c => c.ck = 0 && c.node.isNone && coreOf c.place = core && c.ca = bar && c.group = owner &&
    (match c.phase with | .performed | .signalled => true | _ => false)).map (·.id)

/-- Observe every one of a list of commands. -/
def State.observeAll (s : State) (cmds : List Nat) (flat : Nat) : State := cmds.foldl (fun u c => u.observe c flat) s

/-! ## Completion (R167, R168, R310, R323) -/

/-- Release a member: a strand that waits goes on behind its BAR or BARW, one that waits to arrive executes its instruction now, and the arrival
is over. -/
def Strand.releaseFrom (bar : Nat) (t : Strand) : Strand :=
  let t1 := { t with arrivals := t.arrivals.filter (· ≠ bar) }
  if t.run = .waitBar bar then { t1 with run := .ready, pc := t.pc + 4 }
  else if t.run = .waitFree bar then { t1 with run := .ready } else t1

/-- The strand has arrived at the instance's current round. -/
def State.isMember (s : State) (b : Barrier) (t : Strand) : Bool :=
  coreOf t.place = b.core && t.arrivals.contains b.bar && s.ownerOf t b.bar = b.owner && t.run ≠ .vacant && t.run ≠ .ended

/-- A completion observes a command for its issuer too, which may have ended (R313). -/
def State.observeIssuer (s : State) (cmd : Nat) : State :=
  match s.cmds.find? (·.id = cmd) with
  | some c => s.observe cmd c.flat
  | none => s

/-- An instance's round ends: ARR := 0, its members and the issuers observe the transfers that the round counted, the members take the level's
release and acquire, and go on (R168). -/
def State.releaseInstance (s : State) (b : Barrier) (counted : List Nat) (scope : Nat) : State :=
  let members := s.strands.filter (s.isMember b)
  let s0 := if b.owner.isSome then counted.foldl State.observeIssuer s else s
  let s1 := members.foldl (fun u t => ((u.observeAll counted t.flat).releaseAt t.place scope)) s0
  let s2 := members.foldl (fun u t => (u.acquireAt t.place scope).updateAt t.place (Strand.releaseFrom b.bar))
    (s1.codeJoin (members.map (·.place)) scope)
  s2.setBarrier { b with arr := 0 }

/-- The escrow context after a completion of the escrow barrier (R323). -/
def Escrow.complete (e : Escrow) : Escrow :=
  { e with st := match e.st with
      | .closed => .closed | .opening => .reserve | .reserve => .clearing | .clearing => .settled | .settled => .settled }

/-- The groups of level `lev` whose phase rises when the barrier that joins level `n` completes for a group: those within it, and above `n` the one
that holds it (R310, R433). -/
def phaseGroups (levels : List Word) (n group lev : Nat) : List Nat :=
  let size := groupSize levels n
  if lev ≤ n then (List.range (size / groupSize levels lev)).map (group * (size / groupSize levels lev) + ·)
  else [groupOf levels lev (group * size)]

/-- Phases and escrow state of a completion of the barrier that joins level `n` (R310, R323, R433). -/
def State.advancePhases (s : State) (l : Launch) (n group : Nat) : State :=
  let top := topJoined l.levels n
  let s1 := if !l.det then s
    else (List.range (top + 1)).foldl (fun u lev => (phaseGroups l.levels n group lev).foldl (fun v g => v.bumpPhase l.id lev g) u) s
  match l.esc with
  | some e =>
    if n ≤ e && e ≤ top then { s1 with escrow := s1.escrow.map fun x => if x.launch = l.id then x.complete else x } else s1
  | none => s1

/-- A phase would reach 2^32 (R310). -/
def State.phaseOverflow (s : State) (l : Launch) (n group : Nat) : Bool :=
  l.det && (List.range (topJoined l.levels n + 1)).any fun lev =>
    (phaseGroups l.levels n group lev).any fun g => decide (s.phase l.id lev g = 2 ^ 32 - 1)

/-- The instruction word that a strand has at its pc: the one it executes while it waits or is stopped, else what stands in memory; 0 where nothing
can be fetched (R142; log 42). -/
def State.wordAt (s : State) (t : Strand) : BitVec 32 :=
  match t.run with
  | .ready =>
    match (s.translate t.party t.pc.toNat .fetch).2 with
    | .ok x => BitVec.ofNat 32 (Mem.readLE s.mem x.key 4)
    | .error _ => 0
  | _ => t.word

/-- Suspend or freeze a strand wherever it is held, with a cause and no address, before its next instruction (R136, R142): the record holds that
instruction's word, and the restart point armed for it, which stays armed. A wait at a barrier or for an ordered atomic goes on at a resume. -/
def State.suspendAt (s : State) (place cause elem : Nat) (route : Nat) : State :=
  match s.strandAt place with
  | none => s
  | some t =>
    let w := s.wordAt t
    let x : Trap := { cause := cause, sub := 0, acc := 0, elem := elem, addr := 0, resume := t.armedHere }
    let (s1, seq) := s.postRecord t.part 0 (t.faultWords w (causeWord x route false (w.getLsbD 31)) x) (some place) none
    s1.updateAt place fun u => { u with run := if route = 2 then .frozen seq else .suspended seq, word := w,
                                          barHeld := match u.run with | .waitBar b => some b | _ => u.barHeld,
                                          ordHeld := u.ordHeld || decide (u.run = .waitOrd), residue := u.stopResidue x }

/-- A member of an instance has a release at the scope that waits for a locked page (R168, R294). -/
def State.memberBlocked (s : State) (b : Barrier) (scope : Nat) : Bool :=
  s.locked ≠ [] && decide (4 ≤ scope) && (s.strands.filter (s.isMember b)).any fun t => s.drainBlocked (coreOf t.place)

/-- The scope of the release and acquire with which a group's round completes (R168). -/
def Launch.roundScope (l : Launch) (n : Nat) : Nat := levelScope (l.levels.getD (topJoined l.levels n) 0)

/-- Complete the barrier of a group: every instance of it on every core. With an overflowing phase nothing completes, and every
member that waits suspends with PHASE_OVERFLOW (R310). -/
def State.completeGroup (s : State) (l : Launch) (n group bar : Nat) : State :=
  let insts := (l.coresOf n group).map fun c => s.barrier c bar (some (l.id, n, group))
  if s.phaseOverflow l n group then
    let waiting := s.strands.filter fun t => (t.run = .waitBar bar || t.run = .waitFree bar) && insts.any (s.isMember · t)
    waiting.foldl (fun u t => u.suspendAt t.place 0x12 0 1) s
  else
    let scope := l.roundScope n
    let counted := insts.flatMap fun b => s.countedBy b.core b.bar b.owner
    let places := insts.flatMap fun b => (s.strands.filter (s.isMember b)).map (·.place)
    let s1 := insts.foldl (fun u b => u.releaseInstance b counted scope) s
    -- every member observes the release of the members on the other cores too
    (if insts.length ≤ 1 then s1 else s1.codeJoin places scope).advancePhases l n group

/-- Evaluate an instance. A group that stands on one core completes at once; a group over several cores, and one whose release waits for a locked page,
completes in a step of its own (R284, R294). -/
def State.evalBarrier (s : State) (b : Barrier) : State :=
  if !b.ready || b.arr = 0 then s
  else
    let counted := s.countedBy b.core b.bar b.owner
    match b.owner with
    | none => s.releaseInstance b counted 1
    | some (l, n, g) =>
      match s.launch? l with
      | none => s.releaseInstance b counted 1
      | some x =>
        if (x.coresOf n g).length ≤ 1 && levelDom (x.levels.getD n 0) < 5 && !s.memberBlocked b (x.roundScope n) then s.completeGroup x n g b.bar else s

/-- A member arrives (R237). The strand has no arrival in the current round. -/
def State.arrive (s : State) (t : Strand) (bar : Nat) : State :=
  let b := s.barrier (coreOf t.place) bar (s.ownerOf t bar)
  let b1 := { b with arr := b.arr + 1 }
  ((s.setBarrier b1).updateAt t.place fun u => { u with arrivals := bar :: u.arrivals }).evalBarrier b1

/-- Lower PEND of the instance a command counts in, and evaluate it (R167, R229). -/
def State.lowerPend (s : State) (c : Cmd) (n : Nat) : State :=
  let b := s.barrier (coreOf c.place) c.ca c.group
  let b1 := { b with pend := b.pend - n }
  (s.setBarrier b1).evalBarrier b1

/-! ## A span strand loses its first segment (R352) -/

/-- The strand's membership in an instance, and its arrival there, pass from its core to another. -/
def State.shiftBarrier (s : State) (t : Strand) (core bar : Nat) : State :=
  match s.ownerOf t bar with
  | none => s
  | some o =>
    let n := if t.arrivals.contains bar then 1 else 0
    let i := s.barrier (coreOf t.place) bar (some o)
    let j := s.barrier core bar (some o)
    (s.setBarrier { i with count := i.count - 1, arr := i.arr - n }).setBarrier { j with count := j.count + 1, arr := j.arr + n }

/-- The acting strand's scalar side, and with it STRANDID, passes to another place, that of its new segment 0 (R351). -/
def State.shiftPlace (s : State) (q : Nat) : State :=
  let t := s.strand
  let mv := fun (p : Nat) => if p = t.place then q else p
  if q = t.place then s
  else
    let s1 := if coreOf q = coreOf t.place then s else (List.range 64).foldl (fun u b => u.shiftBarrier t (coreOf q) b) (s.drainAll (coreOf t.place))
    { s1 with
      strand := { s1.strand with place := q },
      launches := s1.launches.map fun l => if l.id = t.launch then { l with strands := l.strands.map fun x => (x.1, mv x.2) } else l,
      cmds := s1.cmds.map fun c => if c.launch = t.launch then { c with place := mv c.place } else c,
      oldCode := s1.oldCode.map fun o =>
        { o with writer := mv o.writer, observed := o.observed.map fun x => (mv x.1, x.2), fenced := o.fenced.map mv } }

/-- The hub has detached segment 0 of the acting strand: at its SETVL the strand goes on at another place (R352). -/
def Strand.shifts (t : Strand) : Bool := t.st.rgp && (match t.prepSegs with | some (q :: _) => decide (q ≠ t.place) | _ => false)

/-- A command of the strand is still at work. -/
def State.cmdsAtWork (s : State) (t : Strand) : Bool := s.cmds.any fun c => c.place = t.place && c.launch = t.launch && c.node.isNone && c.atWork

/-! ## The end of a strand -/

/-- Add a strand's TARN register into its launch's (R318, R402). -/
def addTarn (acc w : Word) : Word :=
  let n := min (getBits acc 8 32 + getBits w 8 32) (2 ^ 32 - 1)
  (acc &&& 0x100000000FF) ||| (w &&& 0x100000000FF) ||| BitVec.ofNat 64 (n * 256)

/-- A strand ends, by EXIT or by KILL: it counts as arrived for good at every barrier that joins a level of its launch (R126, R142), its
status word goes to STATARR (R402), and its TARN into the launch's. `kill` is the TCAUSE of a kill. -/
def State.endStrand (s : State) (place : Nat) (status : TWord) (kill : Option Word) : State :=
  match s.strandAt place with
  | none => s
  | some t =>
    match s.launch? t.launch with
    | none => s.updateAt place fun u => { u with run := .ended, arrivals := [], links := [], borrowed := [] }
    | some l =>
      let l1 := { l with ended := l.ended ++ [(t.flat, kill)], tarns := addTarn l.tarns t.ctl.tarnr.val }
      let entry := leBytes 8 status.val.toNat ++
        leBytes 8 ((if status.tarn then 1 else 0) + (match kill with | some c => 2 + getBits c 0 24 * 2 ^ 16 | none => 0))
      let s1 := s.setLaunch l1
      let s2 := if l.statarr = 0 then s1 else s1.hubWrite t.part (l.statarr.toNat + 16 * t.flat) entry
      let bars := (List.range 64).filter fun b => (l.levelOf b).isSome
      let had := t.arrivals
      let s3 := s2.updateAt place fun u => { u with run := .ended, arrivals := [], links := [], borrowed := [] }
      bars.foldl (fun u b =>
        let i := u.barrier (coreOf place) b (s.ownerOf t b)
        let i1 := { i with gone := i.gone + 1, arr := if had.contains b then i.arr - 1 else i.arr }
        (u.setBarrier i1).evalBarrier i1) s3

end Sys2Proof.Machine
end

