-- ==== Sys2Proof/Machine/Transfers.lean ====
section
/-! DEFINITION. What the bytes of an engine command are: the codes of a CONVERT (R54, R230), the source of each destination byte (R355), and the
chunks of a mask that completes it (R229). -/

namespace Sys2Proof.Machine

def State.cmd? (s : State) (id : Nat) : Option Cmd := s.cmds.find? (·.id = id)

/-- Change a command. -/
def State.updateCmd (s : State) (id : Nat) (f : Cmd → Cmd) : State := { s with cmds := s.cmds.map fun c => if c.id = id then f c else c }

/-- Bytes a command adds to PEND, and signals to a barrier (R229): SIZE, or for CONVERT its destination bytes. -/
def Cmd.byteCount (c : Cmd) : Nat :=
  if c.op = 4 then c.dest.2.2 else if c.op ≤ 5 || c.op = 8 then c.dword 24 else 0

/-- Chunks of a command, and the mask bits that one owns (R229). -/
def Cmd.chunkCount (c : Cmd) : Nat := (c.byteCount + 2 ^ c.chunk - 1) / 2 ^ c.chunk
def Cmd.chunkBits (c : Cmd) : Nat := 2 ^ (c.chunk - c.esz)

/-- Chunks whose bits have not become 1. -/
def Cmd.untold (c : Cmd) : List Nat := (List.range c.chunkCount).filter fun i => !c.told.contains i

/-! ## CONVERT (R54, R230) -/

def Cmd.srcCode (c : Cmd) : Code := Code.ofWord (BitVec.ofNat 64 (c.dword 32))
def Cmd.dstCode (c : Cmd) : Code := Code.ofWord (BitVec.ofNat 64 (c.dword 40))

/-- Bytes that hold `n` codes at most (R41): 16 quanta a code, or whole blocks. -/
def Code.maxBytes (c : Code) (n : Nat) : Nat :=
  (if c.isBlock then (n + 31) / 32 * c.blockBits 32 else n * (if c.isFixed then c.fixedBits else 64)) / 8 + 2

/-- The bytes read, as a stream. -/
def Cmd.snapBits (c : Cmd) : Nat := leNat (c.snap.map (·.1))

/-- The elements a CONVERT decodes, each with the tarnish and poison of the source bytes that hold it. -/
def Cmd.convertElems (c : Cmd) : List (Ex × Bool × Bool) :=
  let k := c.srcCode
  let items := k.items c.snapBits (8 * c.snap.length) (if k.isBlock then (c.dword 24 + 31) / 32 else c.dword 24) (4 * (c.dword 8 % 2))
  (items.flatMap fun i =>
    let from_ := (c.snap.drop (i.off / 8)).take ((i.off + i.len + 7) / 8 - i.off / 8)
    i.xs.map fun x => (x, from_.any (·.2.1), from_.any (·.2.2))).take (c.dword 24)

/-- The destination's codes, each with its bits, its length, and the tarnish and poison it takes (R54). -/
def convertCodes (k : Code) (dr : Draw) : Nat → Nat → List (Ex × Bool × Bool) → List (Nat × Nat × Bool × Bool)
  | 0, _, _ => []
  | _, _, [] => []
  | fuel + 1, i, x :: xs =>
    if k.isBlock then
      let us := (x :: xs).take 32
      let (b, len, _) := k.encodeBlock dr i (us.map (·.1))
      (b, len, us.any (·.2.1), us.any (·.2.2)) :: convertCodes k dr fuel (i + us.length) ((x :: xs).drop 32)
    else
      let (b, len, _) := k.encodeElem dr i x.1
      (b, len, x.2.1, x.2.2) :: convertCodes k dr fuel (i + 1) xs

/-- Quanta of the destination codes, each with its tarnish and poison. -/
def convertQuanta (l : List (Nat × Nat × Bool × Bool)) : List (Nat × Bool × Bool) :=
  l.flatMap fun x => (List.range (x.2.1 / 4)).map fun j => (bitsAt x.1 (4 * j) 4, x.2.2)

/-- Quanta that a CONVERT writes. -/
def Cmd.convertOut (c : Cmd) : List (Nat × Bool × Bool) :=
  let xs := c.convertElems
  convertQuanta (convertCodes c.dstCode (c.dstCode.draw c.seed c.srb) (xs.length + 1) 0 xs)

/-- Bytes that `q` quanta from a nibble address touch. -/
def nibbleBytes (na q : Nat) : Nat := if q = 0 then 0 else (na % 2 + q + 1) / 2

/-! ## Chunks (R229) -/

/-- The source offset that a destination offset receives (R355 for EXCHFILL). -/
def Cmd.sourceOf (c : Cmd) (o : Nat) : Nat :=
  if c.op = 8 then
    let b := c.dword 24 / c.nseg
    let g := o / b
    let h := g ^^^ (c.dword 32 % 8)
    (if h < c.nseg then h else g) * b + o % b
  else o

/-- Destination bytes of a command that count as written (R167, R229): every one when it has been performed; posted writes to the host count none
before that (R406). -/
def Cmd.landed (c : Cmd) : Nat :=
  match c.phase with
  | .performed | .signalled => c.byteCount
  | _ => if c.wrote.any fun w => regionOf w.1 = .host then 0 else min c.done c.byteCount

/-- Chunks that have been written whole and whose bits have not become 1 (R229). -/
def Cmd.tellable (c : Cmd) : List Nat := c.untold.filter fun i => decide (min ((i + 1) * 2 ^ c.chunk) c.byteCount ≤ c.landed)

/-- Bits of one chunk of a command's mask. -/
def Cmd.chunkOnes (c : Cmd) (i : Nat) : MaskBits := BitVec.ofNat 4096 ((2 ^ c.chunkBits - 1) * 2 ^ (c.first + i * c.chunkBits))

/-- Change a mask register in place; a completion is no write of the strand's (R229, R318). -/
def Strand.adjustMask (t : Strand) (k : Nat) (f : KMask → KMask) : Strand :=
  if k = 0 then t else { t with masks := t.masks.setIfInBounds k (f (t.masks.getD k .zero)) }

/-- Bits FIRST to FIRST + cG − 1 of a chunk mask (R229). -/
def Cmd.chunkMask (c : Cmd) : MaskBits :=
  BitVec.ofNat 4096 ((2 ^ (c.chunkCount * c.chunkBits) - 1) * 2 ^ c.first)

/-- The tarnish of the source lines that fill chunk `i` (R229). -/
def Cmd.chunkTarn (c : Cmd) (i : Nat) : Bool :=
  let o := i * 2 ^ c.chunk
  let n := min (2 ^ c.chunk) (c.byteCount - o)
  if c.op = 4 then
    let q := 2 * o - c.dword 16 % 2
    ((c.convertOut.drop q).take (2 * (o + n) - c.dword 16 % 2 - q)).any (·.2.1)
  else (List.range n).any fun j => (c.snap.getD (c.sourceOf (o + j)) (0, false, false)).2.1

/-- The bits of some chunks of a command become 1, and the mask's tarnish bit takes the command's (R229). -/
def State.tellChunks (s : State) (c : Cmd) (is : List Nat) : State :=
  (s.updateCmd c.id fun x => { x with told := x.told ++ is }).updateAt c.place fun t =>
    if t.launch = c.launch then
      t.adjustMask c.ca fun m => { bits := is.foldl (fun b i => b ||| c.chunkOnes i) m.bits, tarn := m.tarn || (is ≠ [] && c.tarn) || is.any c.chunkTarn }
    else t

/-- One of the chunks that can be told, as a free choice: chunks complete in any order (R229). -/
def State.nextChunk (s : State) (c : Cmd) : Nat := c.tellable.getD (Config.pick s.fresh % c.tellable.length) 0

end Sys2Proof.Machine
end

