-- ==== Sys2Proof/Machine/Regs.lean ====
section
/-! DEFINITION. Device registers with what writing them does: LGEN (R159), TROOT and TLBINV (R303), the task-graph registers and
GAPPEND (R394, R403), FACT and the queues (R418 to R420), the descriptors (R413), and the control blocks (R287, R292, R305, R343,
R344, R375, R396, R426). -/

namespace Sys2Proof.Machine

/-! ## Lane groups (R157 to R159) -/

/-- HOME and HELD of LANES. -/
def Strand.home (t : Strand) : Nat := getBits t.ctl.lanes.val 8 8
def Strand.heldGroups (t : Strand) : Nat := getBits t.ctl.lanes.val 0 8

/-- The strand stands in a slot and has not ended (R157 "live"). -/
def Strand.live (t : Strand) : Bool := t.run ≠ .vacant && t.run ≠ .ended

/-- Act as the live strand at a place: it takes the acting strand's part for one change. -/
def State.actAs (s : State) (place : Nat) (f : State → State) : State :=
  if s.strand.place = place && s.strand.live then f s
  else
    match s.parked.findIdx? (fun t => t.place = place && t.live) with
    | none => s
    | some i =>
      let s1 := f { s with strand := s.parked.getD i s.strand, parked := s.parked.set i s.strand }
      { s1 with strand := s1.parked.getD i s1.strand, parked := s1.parked.set i s1.strand }

/-- Places that a strand occupies: its own, or its segments' (R351). -/
def Strand.places (t : Strand) : List Nat := if t.segs = [] then [t.place] else t.segs

/-- Live strands with a place on a core. -/
def State.onCore (s : State) (core : Nat) : List Strand := s.strands.filter fun t => t.live && t.places.any fun p => coreOf p = core

/-- The home set that a strand, or a segment of it, has on a core: as many groups as HOME has, from its slot on (R157, R351). -/
def Strand.homeOn (t : Strand) (core : Nat) : Nat :=
  if coreOf t.place = core then t.home
  else
    let n := ((List.range 8).filter t.home.testBit).length
    (t.places.filter fun p => coreOf p = core).foldl (fun w p => w ||| (2 ^ n - 1) * 2 ^ (p % 4 * n)) 0

/-- The groups that a strand holds on a core: HELD where its scalar side stands, a segment's home set elsewhere. -/
def Strand.heldOn (t : Strand) (core : Nat) : Nat := if coreOf t.place = core then t.heldGroups else t.homeOn core

/-- Zero a range of a list of cells (power-off, and memory that passes on). -/
def Mem.clear (m : List Host.Cell) (lo n : Nat) : List Host.Cell := m.filter fun c => !(decide (lo ≤ c.1) && decide (c.1 < lo + n))

/-- Clear a range of memory with all that is kept of its lines. -/
def State.zeroRange (s : State) (k n : Nat) : State :=
  let out := fun (line : Nat) => !(decide (k / 64 ≤ line) && decide (line < (k + n) / 64))
  { s with mem := Mem.clear s.mem k n, tarn := s.tarn.filter out, poison := s.poison.filter out,
           parity := s.parity.filter fun w => !(decide (k / 8 ≤ w) && decide (w < (k + n) / 8)) }

/-- The slices of a lane group lose their contents with its power, and read zero once it is on again (R159). -/
def State.zeroGroup (s : State) (core g : Nat) : State := s.zeroRange (laneKey core (g * 0x8000)) 0x8000

/-- One EN bit written 0 (R159). -/
def State.groupOff (s : State) (core g : Nat) : State :=
  let a := coreCtl core + 0x40
  let here := s.onCore core
  if here.any fun t => (t.homeOn core).testBit g then s
  else
    match here.find? fun t => (t.heldOn core).testBit g with
    | some t => (s.setReg64 a (s.reg64 a ||| BitVec.ofNat 64 (2 ^ (8 + g)))).updateAt t.place fun u => { u with st := { u.st with rgp := true } }
    | none => (s.setReg64 a (s.reg64 a &&& ~~~(BitVec.ofNat 64 (2 ^ g + 2 ^ (8 + g))))).zeroGroup core g

/-- A write to LGEN's EN (R159): bits written 1 power groups on, and a power-off that was pending is dropped (log 44); bits written 0 act as the rule
says. -/
def State.writeLgen (s : State) (core : Nat) (v : Word) : State :=
  (List.range 8).foldl (fun u g =>
    if v.getLsbD g then
      (if (u.reg64 (coreCtl core + 0x40)).getLsbD g then u else u.zeroGroup core g).setReg64 (coreCtl core + 0x40) ((u.reg64 (coreCtl core + 0x40) ||| BitVec.ofNat 64 (2 ^ g)) &&& ~~~(BitVec.ofNat 64 (2 ^ (8 + g))))
    else if (u.reg64 (coreCtl core + 0x40)).getLsbD g then u.groupOff core g else u) s

/-! ## Translation registers (R303) -/

/-- Cores of the partition's clusters that hold something. -/
def State.partCores (s : State) (part : Nat) : List Nat := (s.cores.map (·.core)).filter fun c => s.ownsCluster part (c / 8)

/-- A store of one of the partition's cores waits for a locked page. -/
def State.partBlocked (s : State) (part : Nat) : Bool := s.locked ≠ [] && (s.partCores part).any s.drainBlocked

/-- A write of `n` bytes at a key reaches TROOT or TLBINV of a partition with such a store: it waits (R294, R303). -/
def State.regWaits (s : State) (k n : Nat) : Bool :=
  s.locked ≠ [] && (List.range n).any fun i =>
    match regionOf (k + i) with
    | .desc p => decide (0x30 ≤ (k + i - descBase) % 0x100) && decide ((k + i - descBase) % 0x100 < 0x40) && s.partBlocked p
    | _ => false

/-- Every access that the partition's translations have translated already is performed: what waits in its cores' FIFOs. -/
def State.drainPart (s : State) (part : Nat) : State := (s.partCores part).foldl State.drainAll s

/-- A write to TROOT: the root and the enable, and every cached translation of the partition is dropped, after the accesses translated by them. -/
def State.writeTroot (s : State) (part : Nat) (v : Word) : State :=
  let u := s.drainPart part
  { u.setReg64 (descAddr part 0x30) (v &&& 0xFFFFFFFFF801) with tlb := u.tlb.filter (·.part ≠ part) }

/-- A write to TLBINV: with ALL every non-global translation, else every translation of an address in the range; the accesses translated already are
performed first. -/
def State.writeTlbinv (s : State) (part : Nat) (v : Word) : State :=
  let s := s.drainPart part
  let n := pageBytes (min (getBits v 1 4) 12)
  let lo := getBits v 12 40 * 4096 / n * n
  { s with tlb := s.tlb.filter fun t =>
      decide (t.part ≠ part) ||
      (if v.getLsbD 0 then t.leaf.getLsbD 9 else decide (t.base + pageBytes t.size ≤ lo) || decide (lo + n ≤ t.base)) }

/-! ## The task graph's registers (R394, R403) -/

/-- GERR takes the first error (R394). -/
def State.graphError (s : State) (part code index : Nat) : State :=
  let a := vfAddr part 0x20
  if (s.reg64 a).getLsbD 40 then s else s.setReg64 a (BitVec.ofNat 64 (2 ^ 40 + code * 2 ^ 32 + index % 2 ^ 32))

/-- `n` bytes of the node from an offset, and of its BODY, as numbers (R400). -/
def Node.field (x : Node) (off n : Nat) : Nat := leNat ((x.bytes.drop off).take n)
def Node.body (x : Node) (off n : Nat) : Nat := x.field (48 + off) n

def State.node? (s : State) (part index : Nat) : Option Node := s.nodes.find? fun n => n.part = part && n.index = index

def State.setNode (s : State) (n : Node) : State :=
  { s with nodes := s.nodes.map fun x => if x.part = n.part && x.index = n.index then n else x }

/-- Bytes at a virtual address as the hub reads them, in mode S; `none` when a byte does not translate or is poisoned. -/
def State.hubRead (s : State) (part va : Nat) : Nat → Option (List Byte)
  | 0 => some []
  | n + 1 =>
    match (s.translate (hubParty part) va .read).2 with
    | .error _ => none
    | .ok x =>
      if s.poison.contains (lineOf x.key) then none
      else (s.hubRead part (va + 1) n).map (Mem.read s.mem x.key :: ·)

/-- What the hub's reads of `n` bytes leave: the A bits of the pages (R302), and of HBM what a read there does (R345, R347, R349, R350). -/
def State.hubTouch (s : State) (part va n : Nat) : State :=
  (List.range ((va % 4096 + n + 4095) / 4096)).foldl (fun u i =>
    let a := if i = 0 then va else (va / 4096 + i) * 4096
    match u.translate (hubParty part) a .read with
    | (v, .ok x) => v.reachRange x.key (min (va + n - a) (4096 - a % 4096)) false
    | (v, .error _) => v) s

/-- Some byte that the hub would write lies in a locked page: the write waits (R294). -/
def State.hubLocked (s : State) (part va n : Nat) : Bool :=
  s.locked ≠ [] && (List.range n).any fun i =>
    match (s.translate (hubParty part) (va + i) .write).2 with
    | .ok x => s.locked.contains (x.key / 4096)
    | .error _ => false

/-- Some byte that the hub would read lies at the host behind a frozen VF, or in a locked page: the read waits (R294, R421). -/
def State.hubStopped (s : State) (part va n : Nat) : Bool :=
  (s.vfStopped part || s.locked ≠ []) && (List.range n).any fun i =>
    match (s.translate (hubParty part) (va + i) .read).2 with
    | .ok x => (regionOf x.key = Region.host && s.vfStopped part) || s.locked.contains (x.key / 4096)
    | .error _ => false

/-- The partition's graph size lets nodes be dispatched (R394). -/
def State.dispatches (s : State) (part : Nat) : Bool :=
  let lg := getBits (s.reg64 (vfAddr part 0x08)) 0 5
  decide (4 ≤ lg ∧ lg ≤ 16)

/-- The virtual address of the slot of node `i` in the graph buffer (R403). -/
def State.slotAddr (s : State) (part i : Nat) : Nat :=
  getBits (s.reg64 (vfAddr part 0x00)) 7 45 * 128 + i % 2 ^ getBits (s.reg64 (vfAddr part 0x08)) 0 5 * 128

/-- Append one node: it is read, its held decrements are applied, and it is dispatched at 0 (R403), unless GSIZE stops dispatch (R394). -/
def State.appendNode (s : State) (part i : Nat) : State :=
  let s := s.hubTouch part (s.slotAddr part i) 128
  let bytes := (s.hubRead part (s.slotAddr part i) 128).getD []
  let dep := leNat (bytes.drop 2 |>.take 2)
  let held := ((s.held.find? (·.1 = (part, i))).map (·.2)).getD 0
  let s1 := if dep < held then s.graphError part 2 i else s
  let c := dep - held
  { s1 with
    nodes := s1.nodes.filter (fun n => !(n.part = part && n.index = i)) ++
      [{ part := part, index := i, bytes := bytes, counter := c, issued := 0,
         phase := if c = 0 && s.dispatches part then .dispatched else .appended, state := 0, nerr := 0 }],
    held := s1.held.filter (·.1 ≠ (part, i)) }

/-- A write of GAPPEND (R403). While the VF is frozen and the buffer lies at the host the nodes cannot be read: their number waits in the register's
upper half, which reads as zero, until RELEASE (R421, R422). -/
def State.gappend (s : State) (part tail1 : Nat) : State :=
  let tail := getBits (s.reg64 (vfAddr part 0x10)) 0 32
  let done := getBits (s.reg64 (vfAddr part 0x18)) 0 32
  let lg := getBits (s.reg64 (vfAddr part 0x08)) 0 5
  let n := (tail1 + 2 ^ 32 - tail) % 2 ^ 32
  if 2 ^ 31 ≤ n || 2 ^ lg < (tail1 + 2 ^ 32 - done) % 2 ^ 32 then s.graphError part 1 tail
  else if (List.range n).any fun k => s.hubStopped part (s.slotAddr part ((tail + k) % 2 ^ 32)) 128 then s.setField (vfAddr part 0x10) 32 32 n
  else ((List.range n).foldl (fun u k => u.appendNode part ((tail + k) % 2 ^ 32)) s).setReg64 (vfAddr part 0x10) (BitVec.ofNat 64 (tail1 % 2 ^ 32))

/-- An append that waited for the VF goes on. -/
def State.appendHeld (s : State) (part : Nat) : State :=
  let w := s.reg64 (vfAddr part 0x10)
  if getBits w 32 32 = 0 then s else (s.setField (vfAddr part 0x10) 32 32 0).gappend part ((getBits w 0 32 + getBits w 32 32) % 2 ^ 32)

/-! ## Fault actions (R418 to R422) -/

/-- Records that wait for room are entered as far as they fit, in order (R419). -/
def State.flushRecords (s : State) (ring : Nat) : Nat → State
  | 0 => s
  | n + 1 =>
    match s.records.find? fun r => r.ring = ring && !r.posted with
    | none => s
    | some r =>
      if !s.ringOpen ring then s
      else
        ({ s.enterRecord ring r.words with
           records := s.records.map fun (x : Record) => if x.ring = ring && x.seq = r.seq && !x.posted then { x with posted := true } else x }).flushRecords ring n

/-- A write to FQHEAD (R418, R419). -/
def State.writeFqHead (s : State) (ring : Nat) (v : Nat) : State :=
  (s.setField (vfAddr ring 0x48) 0 32 v).flushRecords ring s.records.length

/-- A strand goes on at the record's instruction and restart point (R142, R145). One that was suspended while it waited at a barrier goes on with that
wait, or behind it when the round has completed meanwhile (R288, R289); one that waited for an ordered atomic goes on waiting for it. -/
def Strand.resumeAt (t : Strand) (point : Word) : Strand :=
  match t.barHeld with
  | some b =>
    if t.arrivals.contains b then { t with run := .waitBar b, barHeld := none }
    else { t with run := .ready, barHeld := none, pc := t.pc + 4, armed := none }
  | none =>
    if t.ordHeld then { t with run := .waitOrd, ordHeld := false }
    else { t with run := .ready, armed := some (t.pc, point) }

def State.setCmd (s : State) (c : Cmd) : State := { s with cmds := s.cmds.map fun x => if x.id = c.id then c else x }

/-- A command stops for good (R434): its unwritten bytes leave PEND, the bits of the chunks that it has written whole become 1, its scoreboard entry is
retired, and a search frees its context. -/
def State.stopCmd (s : State) (c : Cmd) (ph : CmdPhase) : State :=
  let told := if c.ck = 1 && c.node.isNone then c.tellable else []
  let s0 := (if told = [] then s else s.tellChunks c told).setCmd { c with phase := ph, told := c.told ++ told }
  let s1 := { s0 with queries := s0.queries.filter (·.cmd ≠ c.id) }
  let k := s1.core (coreOf c.place)
  let s2 := if k.score.any (·.cmd = c.id) then s1.setCore { k with score := k.score.filter (·.cmd ≠ c.id) } else s1
  if c.ck = 0 && c.node.isNone then s2.lowerPend c (c.byteCount - c.landed) else s2

/-- A node ends: remembered until NODE_END writes its status (R402). -/
def State.markNode (s : State) (part : Nat) (node : Option Nat) (state nerr : Nat) : State :=
  match node with
  | none => s
  | some i => match s.node? part i with
    | some n => s.setNode { n with state := state, nerr := nerr }
    | none => s

/-- FERR := 1 (R418). -/
def State.factError (s : State) (part : Nat) : State := s.setReg64 (vfAddr part 0x60) 1

/-- The pending record of a ring and sequence number: it stands in the ring and no FACT has acted on it (R420). -/
def State.pendingRecord (s : State) (ring seq : Nat) : Option Record := s.records.find? fun r => r.ring = ring && r.seq = seq && r.pending && r.posted

/-- The command has frozen its queue (R421). -/
def State.froze (s : State) (c : Cmd) : Bool :=
  match c.phase with
  | .faulted seq => s.records.any fun r => r.ring = c.part && r.seq = seq && r.kind = 7 && r.cmd = some c.id
  | _ => false

/-- The record is acted on. -/
def State.clearRecord (s : State) (ring seq : Nat) : State :=
  { s with records := s.records.map fun (x : Record) => if x.ring = ring && x.seq = seq then { x with pending := false } else x }

/-- Where a stopped command goes on: it completes when nothing else was left, else its queue works on it again. -/
def Cmd.resumed (c : Cmd) : Cmd := { c with phase := if c.whole then .performed else if c.queue < 24 then .queued else .running, whole := false }

/-- FACT RESUME-STRAND (R420): a kind-0 record of route Suspend, or a kind-1 record. -/
def State.factResume (s : State) (part seq : Nat) : State :=
  match s.pendingRecord part seq with
  | none => s.factError part
  | some r =>
    if r.kind = 0 then
      match r.place.bind s.strandAt with
      | none => s.factError part
      | some t =>
        if t.run = .suspended seq then (s.clearRecord part seq).updateAt t.place (Strand.resumeAt · (r.words.getD 5 0)) else s.factError part
    else if r.kind = 1 then
      match s.cmds.find? fun c => some c.id = r.cmd && c.phase = .faulted seq with
      | none => s.factError part
      | some c => (s.clearRecord part seq).setCmd c.resumed
    else s.factError part

/-- FACT KILL (R420): ends the strand, whose core's stores drain first (R403), or ends the command, whose node then ends with NERR 5. -/
def State.factKill (s : State) (part seq : Nat) : State :=
  match s.pendingRecord part seq with
  | none => s.factError part
  | some r =>
    if r.kind = 0 then
      match r.place.bind s.strandAt with
      | none => s.factError part
      | some t =>
        if t.run = .suspended seq then ((s.clearRecord part seq).drainAll (coreOf t.place)).endStrand t.place .zero (some (r.words.getD 2 0))
        else s.factError part
    else if r.kind = 1 then
      match s.cmds.find? fun c => some c.id = r.cmd && c.phase = .faulted seq with
      | none => s.factError part
      | some c => ((s.clearRecord part seq).stopCmd c .dropped).markNode part c.node 2 5
    else s.factError part

/-- A write to FACT (R418, R420). -/
def State.writeFact (s : State) (part : Nat) (v : Word) : State :=
  if getBits v 0 2 = 1 then s.factResume part (getBits v 32 32)
  else if getBits v 0 2 = 2 then s.factKill part (getBits v 32 32)
  else s.factError part

/-! ## Plain register writes (R15) -/

/-- Writable bits, and bits cleared by writing 1, of the device register at an address; `none` where no register lies. -/
def regMasks (a : Nat) : Option (Word × Word) :=
  match regionOf a with
  | .die _ =>
    let o := (a - ctlBase) % 0x1000000
    if o < 0x800000 then
      if o % 0x100000 < 0x80000 then
        if o % 0x10000 = 0x40 then some (0xFF, 0) else if o % 0x10000 = 0x48 then some (0xFFFFFFFFFFFFFFFF, 0) else none
      else if o % 0x100000 = 0x80000 then some (0, 1) else none
    else
      let q := o - 0x800000
      if 0x1000 ≤ q ∧ q < 0x1400 ∧ q % 0x20 = 0 then some (0xFFFFFFFF, 0)
      else if 0x2000 ≤ q ∧ q < 0x2080 ∧ q % 0x20 = 0 then some (0, 0)
      else if 0x3000 ≤ q ∧ q < 0x3100 ∧ q % 8 = 0 then some (0, 0)
      else none
  | .stack _ =>
    let o := (a - stackBase) % 0x100000
    if 0x10000 ≤ o ∧ o < 0x11000 ∧ o % 0x20 = 0 then some (0, 0)
    else if 0x10000 ≤ o ∧ o < 0x11000 ∧ o % 0x20 = 8 then some (0xFFFFFFFFFFFF, 0)
    else if o = 0x20000 then some (0xFFFFFFFFF01F, 0)
    else if o = 0x20008 then some (0xFFFFFFFF, 0)
    else if o = 0x20010 then some (0, 0)
    else none
  | .aperture _ => if a % 8 = 0 then some (0xC0000007FFFFFFFF, 0) else none
  | .desc _ =>
    let o := (a - descBase) % 0x100
    if o = 0 then some (0, 0x80000)
    else if o ≤ 0x28 ∧ o % 8 = 0 then some (0, 0)
    else if o = 0x30 then some (0xFFFFFFFFF801, 0)
    else if o = 0x38 ∨ o = 0x78 then some (0, 0)
    else if o = 0x80 then some (0x7F, 0)
    else if o = 0x88 then some (0xFFFFFFFF, 0)
    else if o = 0x90 ∨ o = 0x98 ∨ o = 0xA0 then some (0xFFFFFFFFFFFFFFFF, 0)
    else if o = 0xA8 then some (0x7F7F7F7F, 0)
    else none
  | _ =>
    if vfBase ≤ a ∧ a < pfBase + 0x10000 then
      let o := (a - vfBase) % 0x10000
      if o = 0x00 then some (0xFFFFFFFFFFF80, 0)
      else if o = 0x08 then some (0x1F, 0)
      else if o = 0x10 then some (0xFFFFFFFF, 0)
      else if o = 0x18 then some (0, 0)
      else if o = 0x20 then some (0, 0x10000000000)
      else if o = 0x40 then some (0xFFFFFFFFFFFCF, 0)
      else if o = 0x48 then some (0xFFFFFFFF, 0)
      else if o = 0x50 then some (0, 0)
      else if o = 0x58 then some (0, 0)
      else if o = 0x60 then some (0, 1)
      else if o = 0x68 then some (0xFFFFFFFFFFFFF, 0)
      else if o = 0x70 then some (0xFFFFFFFF, 0)
      else if o = 0x78 then some (0, 0)
      else if pfBase ≤ a ∧ o = 0x1008 then some (1, 0)
      else if pfBase ≤ a ∧ o = 0x1018 then some (0xFFFFFFFFFFFFFFFF, 0)
      else if pfBase ≤ a ∧ o = 0x1020 then some (0xFFFFFFFF, 0)
      else if pfBase ≤ a ∧ o = 0x1028 then some (0, 2)
      else if pfBase ≤ a ∧ (o = 0x1000 ∨ o = 0x1010) then some (0, 0)
      else none
    else none

/-- The register's value after a write of the bytes that `bytes` selects (R15). -/
def regUpdate (old v bytes rw w1c : Word) : Word := ((old &&& ~~~(rw &&& bytes)) ||| (v &&& rw &&& bytes)) &&& ~~~(v &&& w1c &&& bytes)

/-- A byte lies in one of the ranges that R415 gives a partition. -/
def State.ownRange (s : State) (part k : Nat) : Bool := decide (k < 2 ^ 48) && regionOf k ≠ .fabric && s.inRanges part k

/-- SRTBASE after a write: EN falls when the buffer does not lie in one partition's ranges, first and last byte of each 4 KiB of it (R375, R415). -/
def State.srtFix (s : State) (v : Word) : Word :=
  let lo := getBits v 12 36 * 4096
  let n := 2 ^ min (getBits v 1 4) 12
  if (List.range 32).any fun p => (List.range n).all fun i => s.ownRange p (lo + 4096 * i) && s.ownRange p (lo + 4096 * i + 4095) then v
  else v &&& ~~~(1 : Word)

/-- What lanes have added to a count since reset: a free number a step (log 13). -/
def State.grown (s : State) (a : Nat) : Nat := (List.range (s.ticks - s.resetAt)).foldl (fun n i => n + Config.counter (s.resetAt + i) a) 0

/-- LBSTAT of a core as it reads (R343): what was written last, with what has been counted since. -/
def State.lbstat (s : State) (a : Nat) : Word :=
  let w := s.reg64 a
  BitVec.ofNat 64 ((getBits w 0 32 + s.grown a) % 2 ^ 32 + (getBits w 32 32 + s.grown (a + 4)) % 2 ^ 32 * 2 ^ 32)

/-- A write of LBSTAT, kept as what it will read less what has been counted. -/
def State.writeLbstat (s : State) (a : Nat) (v : Word) : State :=
  let less := fun (x g : Nat) => (x + 2 ^ 32 - g % 2 ^ 32) % 2 ^ 32
  s.setReg64 a (BitVec.ofNat 64 (less (getBits v 0 32) (s.grown a) + less (getBits v 32 32) (s.grown (a + 4)) * 2 ^ 32))

/-- A RESIZE has begun to move the partition to NEXT (R417). -/
def State.resizing (s : State) (part : Nat) : Bool :=
  (s.reg64 (descAddr part 0)).getLsbD 18 && decide (getBits (s.reg64 (descAddr part 0x78)) 0 3 = 2) && (s.reg64 (descAddr part 0x78)).getLsbD 6

/-- A write of PCMD (R413). While a RESIZE is in progress a RELEASE or a DESTROY is still taken (R431): it stands beside it. -/
def State.writePcmd (s : State) (a : Nat) (part op : Nat) : State :=
  if op = 0 || 4 < op then s
  else if !(s.reg64 (descAddr part 0)).getLsbD 18 then (s.setField (descAddr part 0) 18 1 1).setReg64 a (BitVec.ofNat 64 op)
  else if 3 ≤ op && getBits (s.reg64 a) 0 3 = 2 && getBits (s.reg64 a) 3 3 = 0 then s.setField a 3 3 op
  else s

/-- Write a device register: the selected bytes of a 64-bit value. `full` says that all eight bytes are written. -/
def State.regWrite (s : State) (a : Nat) (v bytes : Word) : State :=
  match regMasks a with
  | none => s
  | some (rw, w1c) =>
    let old := s.reg64 a
    let new := regUpdate old v bytes rw w1c
    let w := (old &&& ~~~bytes) ||| (v &&& bytes)
    match regionOf a with
    | .die d =>
      let o := (a - ctlBase) % 0x1000000
      if o < 0x800000 && o % 0x100000 < 0x80000 && o % 0x10000 = 0x40 then
        (if bytes.getLsbD 0 then s.writeLgen (d * 64 + o / 0x100000 * 8 + o % 0x100000 / 0x10000) w else s)
      else if o < 0x800000 && o % 0x100000 < 0x80000 && o % 0x10000 = 0x48 then s.writeLbstat a (regUpdate (s.lbstat a) v bytes rw w1c)
      else s.setReg64 a new
    | .stack _ => if (a - stackBase) % 0x100000 = 0x20000 then s.setReg64 a (s.srtFix new) else s.setReg64 a new
    | .desc p =>
      let o := (a - descBase) % 0x100
      if o = 0x30 then s.writeTroot p w
      else if o = 0x38 then s.writeTlbinv p (v &&& bytes)
      else if o = 0x78 then s.writePcmd a p (getBits (v &&& bytes) 0 3)
      else s.setReg64 a new
    | _ =>
      if vfBase ≤ a ∧ a < pfBase + 0x10000 then
        let p := (a - vfBase) / 0x10000
        let o := (a - vfBase) % 0x10000
        if o = 0x00 ∨ o = 0x08 then
          (if getBits (s.reg64 (vfAddr p 0x10)) 0 32 = getBits (s.reg64 (vfAddr p 0x18)) 0 32 then s.setReg64 a new else s)
        else if o = 0x10 then s.gappend p (getBits new 0 32)
        else if o = 0x48 then s.writeFqHead p (getBits new 0 32)
        else if o = 0x40 then (s.setReg64 a new).flushRecords p s.records.length
        else if o = 0x58 then s.writeFact p (v &&& bytes)
        else if o = 0x1008 then (if bytes.getLsbD 0 then { s with nonVolatile := new.getLsbD 0 } else s)
        else if o = 0x1010 then
          (if (s.reg64 (vfAddr 32 0x1028)).getLsbD 0 then s
           else if 1 ≤ getBits (v &&& bytes) 0 4 && getBits (v &&& bytes) 0 4 ≤ 3 then
             (s.setField (vfAddr 32 0x1028) 0 1 1).setReg64 a (v &&& bytes &&& 0xF0F)
           else s)
        else s.setReg64 a new
      else s.setReg64 a new

/-- The value a read of a device register gives (R15): WO registers read zero, and the counts of queues are those of the queues. -/
def State.regRead (s : State) (a : Nat) : Word :=
  match regMasks a with
  | none => 0
  | some _ =>
    match regionOf a with
    | .die d =>
      let o := (a - ctlBase) % 0x1000000
      if o < 0x800000 then
        (if o % 0x100000 < 0x80000 && o % 0x10000 = 0x48 then s.lbstat a else s.reg64 a)
      else
        let q := o - 0x800000
        if q < 0x1400 then setBits (s.reg64 a) 32 17 (if s.ticks = s.resetAt then 0 else Config.counter s.ticks a % 65537)
        else if q < 0x2080 then
          let e := 4 * d + (q - 0x2000) / 0x20
          let n := (s.cmds.filter fun c => c.queue = e && (match c.phase with | .signalled | .owes _ _ _ | .dropped => false | _ => true)).length
          BitVec.ofNat 64 (n + (if s.frozenQ.contains e then 2 ^ 15 else 0))
        else s.reg64 a
    | .stack k =>
      if (a - stackBase) % 0x100000 = 0x20010 then
        let mine := s.cmds.filter (·.queue = 24 + k)
        let act := (mine.filter fun c => match c.phase with | .running | .performed | .faulted _ => true | _ => false).length
        let q := (mine.filter fun c => c.phase = .queued).length
        BitVec.ofNat 64 (q + act * 2 ^ 16)
      else s.reg64 a
    | .desc _ => if (a - descBase) % 0x100 = 0x38 ∨ (a - descBase) % 0x100 = 0x78 then 0 else s.reg64 a
    | _ =>
      let o := (a - vfBase) % 0x10000
      if o = 0x58 ∨ o = 0x1010 then 0
      else if o = 0x10 then BitVec.ofNat 64 (getBits (s.reg64 a) 0 32)
      else if o = 0x1008 then (if s.nonVolatile then 1 else 0)
      else s.reg64 a

/-- A strand may write only TROOT and TLBINV of its descriptor (R413). -/
def strandMayWrite (a : Nat) : Bool :=
  match regionOf a with
  | .desc _ => decide ((a - descBase) % 0x100 = 0x30) || decide ((a - descBase) % 0x100 = 0x38)
  | _ => true

/-- The byte a strand's load finds at a control-block address. -/
def State.regByte (s : State) (a : Nat) : Byte := (s.regRead (a / 8 * 8)).extractLsb' (a % 8 * 8) 8

/-- Bytes a strand stores at a control-block address, within one register. -/
def State.regStore (s : State) (a : Nat) (bs : List Byte) : State :=
  let w := a / 8 * 8
  let sh := a % 8 * 8
  if strandMayWrite w then
    s.regWrite w (BitVec.ofNat 64 (leNat bs * 2 ^ sh)) (BitVec.ofNat 64 ((2 ^ (8 * bs.length) - 1) * 2 ^ sh))
  else s

end Sys2Proof.Machine
end

