-- ==== Sys2Proof/Machine/Access.lean ====
section
/-! DEFINITION. A strand's accesses to memory: the checks of R108 in their order, loads (R109), acquire loads (R112, R113), stores
(R110), the read-modify-write of an atomic (R114), observation by a token (R109, R234), and instruction fetch (R111). -/

namespace Sys2Proof.Machine

/-- Which targets an access allows (R118, R225, R326, R396). -/
inductive Target where
  /-- A plain access. -/
  | any
  /-- An unordered AMO; `host` for ADD, SWAP and CAS. -/
  | amo (host : Bool)
  /-- An ordered AMO or VAMOO: translated HBM memory only. -/
  | ordered
  /-- An unordered VAMO. -/
  | vamo
  /-- A cell of the escrow engine: translated HBM memory of the package. -/
  | cell
  deriving DecidableEq, Repr

/-- The target is allowed. -/
def Target.ok (g : Target) (k : Nat) : Bool :=
  match regionOf k, g with
  | _, .any => true
  | .hbm _, _ => true
  | .chip _, .amo _ | .chip _, .vamo | .localMem, .amo _ | .localMem, .vamo => true
  | .host, .amo h => h
  | .remote _, .amo _ => true
  | _, _ => false

/-- One access of an instruction. -/
structure Acc where
  mode   : Access
  kind   : AccessKind
  target : Target
  /-- `assay_check` applies; the poison check applies. -/
  assay  : Bool
  poison : Bool
  /-- Transfers the instruction observes by its mask, as command and chunk, and commands whose token it reads as its issuer's CWAIT or CTOK
  (R109, R234, R313). -/
  seen   : List (Nat × Nat)
  deriving DecidableEq, Repr

def Acc.read : Acc := { mode := .read, kind := .plain, target := .any, assay := true, poison := true, seen := [] }
def Acc.write : Acc := { mode := .write, kind := .plain, target := .any, assay := true, poison := true, seen := [] }

/-- A trap of an access at `va`. -/
def Acc.trap (o : Acc) (cause sub : Nat) (va : Nat) : Trap :=
  { cause := cause, sub := sub, acc := o.mode.acc, elem := 0, addr := BitVec.ofNat 64 va, resume := none }

/-- The core's counter of errors in clean L1 lines rises (R171). -/
def State.countL1 (s : State) (core : Nat) : State :=
  { s with l1Errors := (core, ((s.l1Errors.find? (·.1 = core)).map (·.2)).getD 0 + 1) :: s.l1Errors.filter (·.1 ≠ core) }

/-- A failure of an L1 line of the core is met: a clean line is fetched again and counted, and of a dirty one the stores that wait are lost and the line
is poisoned at its home (R171). A unit that fails twice holds a dirty line (log 26). Of the chronograph's entry R428 gives no CAUSE for a clean
line; the model writes 0 (DESIGN CHOICE, log 24). -/
def State.meetL1 (s : State) (t : Strand) (k : Nat) : State :=
  let core := coreOf t.place
  let line := lineOf k
  let u := l1LineUnit core line
  let n := s.upsetOf u
  if n = 0 then s
  else
    let c := s.core core
    let s1 := { s with upsets := s.upsets.filter (·.1 ≠ u), guests := s.guests.filter fun g => !(g.core = core && g.line = line) }
    let s2 := if n = 1 then s1.countL1 core
      else { s1.setCore { c with fifo := c.fifo.filter fun e => lineOf e.key ≠ line } with poison := setInsert line s1.poison }
    s2.chronicle (dieOf t.place) t.part (if n = 1 then 0 else 0x0B) (BitVec.ofNat 64 (line * 64)) 0

/-- A failure of the granule's spilled assay tag is met: every later access conflicts, and a record is posted (R319). -/
def State.meetTag (s : State) (t : Strand) (k : Nat) : State :=
  let g := k / 256
  if !t.st.d || s.upsetOf (assayTagUnit g) = 0 then s
  else
    let s1 := (s.useUpset (assayTagUnit g)).setAssay { s.assayTag t.launch g with lost := true }
    (s1.postRecord t.part 8 [0, BitVec.ofNat 64 (g * 256), 0x09] none none).1

/-- Failures that an access of a strand meets (log 26). -/
def State.meetUpsets (s : State) (t : Strand) (k : Nat) : State :=
  if s.upsets = [] || (regionOf k).isCtl then s else (s.meetL1 t k).meetTag t k

/-- The slice has no room for the tag that a D context's access to a granule takes (R311). -/
def State.noTagRoom (s : State) (t : Strand) (k : Nat) : Bool :=
  s.upsets ≠ [] && t.st.d && (match regionOf k with | .hbm _ | .chip _ => true | _ => false) &&
    !(s.assay.any fun x => x.launch = t.launch && x.granule = k / 256) &&
    s.upsetOf (tagAreaUnit (s.sliceOf t.part (k / 256)).1 (s.sliceOf t.part (k / 256)).2) ≠ 0

/-- A write to a block of a compressed page cannot be performed, because the block's metadata cannot be fetched (R296). -/
def State.metaLost (s : State) (o : Acc) (k : Nat) : Bool := s.metaGone k && (o.assay || o.poison) && o.mode.writes

/-- The checks of R108 after alignment, for `n` bytes that lie in one line: the state they leave, and the key or the trap. -/
def State.check (s : State) (t : Strand) (o : Acc) (va n : Nat) : State × Except Trap Xl :=
  if 2 ^ 52 ≤ va then (s, .error (o.trap 0x10 7 va))
  else
    match s.translate t.party va o.mode with
    | (s1, .error f) => (s1, .error (o.trap f.cause f.sub va))
    | (s0, .ok x) =>
      if !o.target.ok x.key then (s0, .error (o.trap 0x0A 0 va))
      else
        let s1 := s0.meetUpsets t x.key
        match (if o.assay && !(regionOf x.key).isCtl then s1.assayCheck t (some va) x.key n o.mode o.kind o.seen else .ok s1) with
        | .error sub => (s1, .error (o.trap 0x09 sub va))
        | .ok s2a =>
          let s2 := if o.poison then (s2a.reachHbm x.key (o.mode = .write && n = 64)).settlePoison t.place x.key x.unc else s2a
          if o.poison && s2.poisonFor t.place x.key (x.unc || o.mode = .both) then (s2, .error (o.trap 0x0B 0 va))
          else if s2.metaLost o x.key then (s2.loseBlock x.key, .error (o.trap 0x0B 0 va))
          else (s2, .ok x)

/-- The bytes lie in a range that the core's scoreboard holds, in a locked page, or at the host behind a frozen VF: the access waits (R166,
R294, R421). -/
def State.blocked (s : State) (t : Strand) (k n : Nat) : Bool :=
  (s.core (coreOf t.place)).score.any (fun e => decide (e.lo < k + n) && decide (k < e.hi)) || s.locked.contains (k / 4096) ||
    (regionOf k = .host && s.vfStopped t.part)

/-- The access has the core's FIFO drain first, or joins it, while a write there waits for a locked page: it waits too (R294, R308). A write to TROOT or
TLBINV waits for every core of its partition (R303). -/
def State.drainWaits (s : State) (t : Strand) (o : Acc) (x : Xl) : Bool :=
  s.locked ≠ [] &&
    (if (regionOf x.key).isCtl then o.mode.writes && s.partBlocked t.part
     else s.drainBlocked (coreOf t.place) && (x.unc || s.onCxl x.key || o.mode = .both || (o.mode = .write && (s.guestScope t.place x.key x.unc).isSome)))

/-- The first word of local memory with a parity error that an access of `n` bytes reads; a store that covers the word whole reads nothing, and one that
covers a part of it reads the word (R171, R281; DESIGN CHOICE, log 53). -/
def State.badWord (s : State) (a : Access) (k n : Nat) : Option Nat :=
  if regionOf k ≠ .localMem then none
  else s.parity.find? fun w => decide (w * 8 < k + n) && decide (k < w * 8 + 8) && !(a = .write && decide (k ≤ w * 8) && decide (w * 8 + 8 ≤ k + n))

/-- CLSTAT.MPE of the cluster whose memory holds a key (R287). -/
def State.noteParity (s : State) (k : Nat) : State :=
  if clusterKey 0 0 ≤ k ∧ k < scaleKey 0 0 then
    let a := clusterCtl ((k - clusterKey 0 0) / 2 ^ 24)
    s.setReg64 a (s.reg64 a ||| 1)
  else s

/-- A read of `n` bytes has met a word of local memory that has failed: CLSTAT.MPE, and an event (R171, R287). -/
def State.badRead (s : State) (die part va k n : Nat) : State :=
  match s.badWord .read k n with
  | some w => (s.noteParity k).chronicle die part 0x0B (BitVec.ofNat 64 (va + w * 8 - k)) 0
  | none => s

/-- The checks of R108 after alignment for bytes of one line, and the wait of R166 and R294 behind them. -/
def checkBytes (o : Acc) (va : Word) (n : Nat) : M Xl := do
  let s ← get
  match s.check s.strand o va.toNat n with
  | (s1, .error x) => set s1; raise x
  | (s1, .ok x) =>
    if s1.blocked s1.strand x.key n || s1.drainWaits s1.strand o x then throw .wait
    if o.assay && s.noTagRoom s.strand x.key then throw (.noTag (x.key / 256))
    match s1.badWord o.mode x.key n with
    | some w =>
      set ((s1.noteParity x.key).chronicle (dieOf s1.strand.place) s1.strand.part 0x0B (BitVec.ofNat 64 (va.toNat + w * 8 - x.key)) 0)
      raise (o.trap 0x0B 0 (va.toNat + w * 8 - x.key))
    | none => pure ()
    set s1
    return x

/-- `access_check` of R108 for `z` aligned bytes. -/
def accessCheck (o : Acc) (va : Word) (z : Nat) : M Xl := do
  if va.toNat % z ≠ 0 then raise (o.trap 0x05 0 va.toNat)
  checkBytes o va z

/-- Read `n` bytes of one line: their value, and the tarnish a load takes from the line and from an unobserved transfer (R109). -/
def State.loadLine (s : State) (t : Strand) (x : Xl) (va n : Nat) (seen : List (Nat × Nat)) : State × Nat × Bool :=
  if (regionOf x.key).isCtl then (s, leNat ((List.range n).map fun i => s.regByte (x.key + i)), false)
  else
    let s0 := s.linkOrder t.place x.key
    let s1 := (if x.unc then s0.lineHome t.place (lineOf x.key) else s0.touchGuest t.place x.key x.unc)
    let s1 := if (s1.guestScope t.place x.key x.unc).isNone then s1.codeObserve t.place x.key n else s1.codeObserveCopy t.place x.key n
    (s1, leNat ((List.range n).map fun i => s1.byteFor t.place (x.key + i) x.unc),
      s1.tarnFor t.place x.key x.unc || (!t.st.d && s1.unobserved t.launch t.flat (some va) x.key n seen))

/-- A load's value (R109). -/
def loadBytes (x : Xl) (va : Word) (n : Nat) (seen : List (Nat × Nat)) : M (Nat × Bool) := do
  let s ← get
  let (s1, v, t) := s.loadLine s.strand x va.toNat n seen
  set s1
  return (v, t)

/-- Commands of a launch whose token a read of `v` at a key has read: CK 2, signalled, TOKVAL = `v`, and the word's last write (R109, R234). -/
def State.tokensRead (s : State) (launch k : Nat) (v : Nat) : List Nat :=
  (s.cmds.filter fun c => c.launch = launch && c.ck = 2 && c.node.isNone && c.phase = .signalled && c.dword 48 = v && c.tokKey = some k).map (·.id)

/-- The load of an LDA at a scope (R112, R113): the FIFO's entries for the line drain, the line is read at its home, the core's copies of
that scope's lines are dropped, and at package scope or wider the transfers whose token value was read are observed. -/
def loadAcquire (x : Xl) (va : Word) (n scope : Nat) : M (Nat × Bool) := do
  if scope < 4 then loadBytes x va n []
  else
    let s ← get
    if s.drainBlocked (coreOf s.strand.place) then throw .wait
    if s.poison.contains (lineOf x.key) then raise (Acc.read.trap 0x0B 0 va.toNat)
    let t := s.strand
    let (s3, v, b) := s.loadLine t { x with unc := true } va.toNat n []
    let s4 := s3.observeAll (s3.tokensRead t.launch x.key v) t.flat
    set (s4.acquireAt t.place scope)
    return (v, b)

/-- Clean ranges of the launch that a write of `n` bytes at `va` touches, by number (R317, R397). -/
def cleanHit (clean : List (Nat × Nat × Nat)) (va n : Nat) : List Nat :=
  (clean.filter fun c => decide (0 < c.2.2) && decide (c.2.1 / 64 ≤ (va + n - 1) / 64) && decide (va / 64 ≤ (c.2.1 + c.2.2 - 1) / 64)).map (·.1)

/-- TARN records a tarnished write into clean ranges (R317, R318). -/
def Strand.recordClean (t : Strand) (hits : List Nat) : Strand :=
  if hits = [] then t
  else
    let w := t.ctl.tarnr.val
    let n := min (getBits w 8 32 + 1) (2 ^ 32 - 1)
    let r := hits.foldl (fun a i => a ||| 2 ^ i) (getBits w 0 8)
    { t with ctl := { t.ctl with tarnr := { t.ctl.tarnr with val := setBits (setBits w 8 32 n) 0 8 r } } }

/-- The policy of R110 and R317 for a store of `n` bytes of tarnish `b`: TARNISH under the trap policy. -/
def cleanCheck (va n : Nat) (b : Bool) : M Unit := do
  let t ← getS
  if b && t.trapPolicy && cleanHit t.clean va n ≠ [] then
    raise { cause := 0x08, sub := 0, acc := 2, elem := 0, addr := BitVec.ofNat 64 va, resume := none }

/-- A byte as the strand at a place stands to it: its own last store that still waits in the FIFO, else the home's. -/
def State.codeByte (s : State) (place k : Nat) : Byte :=
  match ((s.core (coreOf place)).fifo.filter fun e => e.place = place && decide (e.key ≤ k) && decide (k < e.key + e.data.length)).getLast? with
  | some e => e.data.getD (k - e.key) 0
  | none => Mem.read s.mem k

/-- The bytes a store replaces are what a fetch may still execute until the order of R111 excludes it. -/
def State.rememberCode (s : State) (place k n : Nat) : State :=
  let s1 := s.codeCarry place k n
  { s1 with oldCode :=
      { key := k, old := (List.range n).map fun i => s.codeByte place (k + i), writer := place, released := [], carriers := [], copies := [],
        observed := [], fenced := [] } :: s1.oldCode }

/-- A word of code as it stood before the newest `n` of a list of stores, newest first, for the strand at a place: a byte whose store a FENCE of the
strand has made certain stands. -/
def codeBefore (place : Nat) : Nat → List OldCode → List (Nat × Byte × Bool) → List Byte
  | 0, _, w | _, [], w => w.map (·.2.1)
  | n + 1, e :: es, w =>
    codeBefore place n es (w.map fun x =>
      if x.2.2 || x.1 < e.key || e.key + e.old.length ≤ x.1 then x
      else if e.fenced.contains place then (x.1, x.2.1, true) else (x.1, e.old.getD (x.1 - e.key) 0, false))

/-- Store bytes of one line for a strand, with a tarnish: to the home, to the guest copy and the FIFO, or to a device register. -/
def State.storeLine (s : State) (t : Strand) (x : Xl) (bs : List Byte) (b : Bool) : State :=
  if (regionOf x.key).isCtl then s.regStore x.key bs
  else
    let s0 := if x.unc then ((s.linkOrder t.place x.key).linkStore t.place x.key).lineHome t.place (lineOf x.key) else s
    let s1 := { s0.rememberCode t.place x.key bs.length with
      parity := clearParity s.parity x.key bs.length }
    match s.guestScope t.place x.key x.unc with
    | some _ => s1.guestStore t.place x.key bs b x.unc
    | none => s1.homeStore t.place x.key bs b

/-- A store of `n` bytes (R110): the bytes, the line's tarnish, and what TARN records. -/
def storeBytes (x : Xl) (va : Word) (n v : Nat) (b : Bool) : M Unit := do
  let s ← get
  let s1 := s.storeLine s.strand x (leBytes n v) b
  set (s1.mapStrand fun t => (t.seen b).recordClean (if b then cleanHit t.clean va.toNat n else []))

/-- The acting strand's release at a scope waits while a write of its core that it has drain waits for a locked page (R113, R294). -/
def State.releaseBlocked (s : State) (scope : Nat) : Bool := decide (4 ≤ scope) && s.drainBlocked (coreOf s.strand.place)

/-- The acting strand's release at a scope. -/
def releaseHere (scope : Nat) : M Unit := do
  let s ← get
  if s.releaseBlocked scope then throw .wait
  set (s.releaseAt s.strand.place scope)

/-- The home copy of bytes for an atomic (R114), which reads them. -/
def atHome (x : Xl) (n : Nat) : M Unit := modify fun s =>
  (((s.linkOrder s.strand.place x.key).linkStore s.strand.place x.key).lineHome s.strand.place (lineOf x.key)).codeObserve s.strand.place x.key n

/-- The word at the acting strand's pc lies in a locked page, or at the host behind a stopped VF: the fetch waits (R294, R421). -/
def State.fetchBlocked (s : State) : Bool :=
  match (s.translate s.strand.party s.strand.pc.toNat .fetch).2 with
  | .ok x => s.locked.contains (x.key / 4096) || (regionOf x.key = .host && s.vfStopped s.strand.part)
  | .error _ => false

/-- Fetch the word at the acting strand's pc (R26, R111): until a FENCE has made a store certain the word may still be the one before it, or before
earlier ones too, which a free choice decides for the whole word. -/
def State.fetch (s : State) : State × Except Trap (BitVec 32) :=
  let t := s.strand
  let va := t.pc.toNat
  let o : Acc := { mode := .fetch, kind := .plain, target := .any, assay := false, poison := true, seen := [] }
  if t.pc.extractLsb' 0 2 ≠ 0 then (s, .error { o.trap 0x04 0 va with acc := 3 })
  else
    match s.check t o va 4 with
    | (s1, .error x) => (s1, .error x)
    | (s1, .ok x) =>
      let new := (List.range 4).map fun i => s1.codeByte t.place (x.key + i)
      let olds := s1.oldCode.filter fun e => decide (e.key < x.key + 4) && decide (x.key < e.key + e.old.length)
      if olds.any fun e => !e.fenced.contains t.place then
        let w := codeBefore t.place (Config.pick s1.fresh % (olds.length + 1)) olds ((new.zipIdx).map fun b => (x.key + b.2, b.1, false))
        ({ s1 with fresh := s1.fresh + 1 }, .ok (BitVec.ofNat 32 (leNat w)))
      else (s1, .ok (BitVec.ofNat 32 (leNat new)))

end Sys2Proof.Machine
end

