-- ==== Sys2Proof/Machine/Flags.lean ====
section
/-! DEFINITION. FLAGS, FIRSTX and AMAX (R58, R59, R100), and the receipt (R32). -/

namespace Sys2Proof.Machine

/-- A scalar instruction raises flags: the sticky bits FLAGS[4:0] only (R100); the register's tarnish is the sources' (R132). -/
def Ctl.sticky (c : Ctl) (f : Flags) (src : Bool) : Ctl :=
  if f = 0 then c else ({ c with flags := { val := c.flags.val ||| f.setWidth 64, tarn := src } }).seen src

def Strand.sticky (t : Strand) (f : Flags) (src : Bool) : Strand := { t with ctl := t.ctl.sticky f src }

/-- A receipt field saturates at the largest value it can hold (R32). -/
def satField (n v : Nat) : Nat := min v (2 ^ n - 1)

/-- The receipt's image (R32). -/
def receiptWord (e a b d : Nat) : Word :=
  BitVec.ofNat 64 (satField 13 e + satField 17 a * 2 ^ 13 + satField 17 b * 2 ^ 30 + satField 17 d * 2 ^ 47)

/-- `set_receipt` (R18); RC's tarnish is the instruction's sources' (R132). -/
def Strand.setReceipt (t : Strand) (e a b d : Nat) (src : Bool) : Strand :=
  { t with ctl := ({ t.ctl with rc := { val := receiptWord e a b d, tarn := src } }).seen src }

end Sys2Proof.Machine
end

