-- ==== Sys2Proof/Machine/Operands.lean ====
section
/-! DEFINITION. Operand forms: immediates and offsets (R62), effective addresses (R109, R110, R112), and relative targets (R120,
R122). -/

namespace Sys2Proof.Machine

/-- imm12, sign-extended (R62). -/
def simm (i : BitVec 12) : Word := i.signExtend 64

/-- imm19, sign-extended, times 2^12 (R107). -/
def upper (i : BitVec 19) : Word := i.signExtend 64 <<< 12

/-- The address of a load or store of `2^lz` bytes: s[a] + sext(off9) × z (R109, R110). -/
def Strand.ea (t : Strand) (a : BitVec 7) (off : BitVec 9) (lz : Nat) : Word := (t.reg a).val + (off.signExtend 64 <<< lz)

/-- The address of an LDA or STL: s[a] + off9[5:0] × z, unsigned (R112). -/
def Strand.eaScoped (t : Strand) (a : BitVec 7) (off : BitVec 6) (lz : Nat) : Word := (t.reg a).val + (off.setWidth 64 <<< lz)

/-- A branch target: the branch's own address plus sext(off12) × 4 (R120). -/
def relative12 (pc : Addr) (off : BitVec 12) : Addr := pc + (off.signExtend 52 <<< 2)

/-- A jump target (R122). -/
def relative26 (pc : Addr) (off : BitVec 26) : Addr := pc + (off.signExtend 52 <<< 2)

/-- A value read as `n` bytes and sign-extended to 64 bits. -/
def signExtBytes (n v : Nat) : Word := BitVec.ofInt 64 (signed (8 * n) v)

end Sys2Proof.Machine
end

