-- ==== Sys2Proof/Machine/Atomics.lean ====
section
/-! DEFINITION. Scalar atomics: major 0x10 (R114 to R119). The ordered forms, whose place in their stream decides when they are
performed, stand in Ordered.lean over the same core. -/

namespace Sys2Proof.Machine

/-- Operations of R115. -/
inductive AmoOp where
  | add | and | or | xor | min | max | minu | maxu | swap | cas | fadd32 | fadd64
  deriving DecidableEq, Repr

/-- Operand bytes (R114). -/
def AmoOp.size : AmoOp → Nat
  | .fadd32 => 4
  | _ => 8

/-- `fadd` of R116: binary32 or binary64, RNE, one NaN. -/
def fadd (f : Fmt) (x y : Nat) : Nat × Flags :=
  f.encode { mode := .rne, seed := 0, srb := 0 } false 0 (Ex.add false (f.decode x) (f.decode y))

/-- The new value of memory and the flags raised: m at the target, o = s[b], c = s[d] before (R115). -/
def AmoOp.apply (f : AmoOp) (m o c : Word) : Word × Flags :=
  match f with
  | .add => (m + o, 0)
  | .and => (m &&& o, 0)
  | .or => (m ||| o, 0)
  | .xor => (m ^^^ o, 0)
  | .min => (if m.sle o then m else o, 0)
  | .max => (if o.sle m then m else o, 0)
  | .minu => (if m.ule o then m else o, 0)
  | .maxu => (if o.ule m then m else o, 0)
  | .swap => (o, 0)
  | .cas => (if m = c then o else m, 0)
  | .fadd32 => let r := fadd .fp32 m.toNat (o.toNat % 2 ^ 32); (BitVec.ofNat 64 r.1, r.2)
  | .fadd64 => let r := fadd .fp64 m.toNat o.toNat; (BitVec.ofNat 64 r.1, r.2)

/-- The access of an AMO: both, of its kind, with its targets (R118). -/
def AmoOp.acc (f : AmoOp) (kind : AccessKind) : Acc :=
  { mode := .both, kind := kind,
    target := match kind with | .ordered _ => .ordered | _ => .amo (f = .add || f = .swap || f = .cas),
    assay := true, poison := true, seen := [] }

/-- The one event of an AMO (R114, R115): the old value to s[d], the new one to memory, also when it is the same. It answers the
tarnish of the sources, the line read among them. -/
def amoEvent (f : AmoOp) (kind : AccessKind) (d a b : BitVec 7) : M Bool := do
  let t ← getS
  let va := (t.reg a).val
  let x ← accessCheck (f.acc kind) va f.size
  let src := (t.reg a).tarn || (t.reg b).tarn || (f = .cas && (t.reg d).tarn)
  let w := src || kind = .unordered
  cleanCheck va.toNat f.size w
  atHome x f.size
  let s ← get
  let home : Xl := { x with unc := true }
  let m := Mem.readLE s.mem x.key f.size
  let line := s.tarn.contains (lineOf x.key)
  let r := f.apply (BitVec.ofNat 64 m) (t.reg b).val (t.reg d).val
  storeBytes home va f.size r.1.toNat w
  modS fun u => (u.sticky r.2 (src || line)).setReg d { val := BitVec.ofNat 64 m, tarn := w || line }
  return src || line

/-- An unordered AMO. -/
def amo (f : AmoOp) (d a b : BitVec 7) : M Unit := do let _ ← amoEvent f .unordered d a b

/-- AMOADD (R115). -/
def execAmoadd (d a b : BitVec 7) (s : State) : Host.Outcome State Fault Refusal :=
  runStep false (amo .add d a b) s

/-- AMOAND (R115). -/
def execAmoand (d a b : BitVec 7) (s : State) : Host.Outcome State Fault Refusal :=
  runStep false (amo .and d a b) s

/-- AMOOR (R115). -/
def execAmoor (d a b : BitVec 7) (s : State) : Host.Outcome State Fault Refusal :=
  runStep false (amo .or d a b) s

/-- AMOXOR (R115). -/
def execAmoxor (d a b : BitVec 7) (s : State) : Host.Outcome State Fault Refusal :=
  runStep false (amo .xor d a b) s

/-- AMOMIN (R115). -/
def execAmomin (d a b : BitVec 7) (s : State) : Host.Outcome State Fault Refusal :=
  runStep false (amo .min d a b) s

/-- AMOMAX (R115). -/
def execAmomax (d a b : BitVec 7) (s : State) : Host.Outcome State Fault Refusal :=
  runStep false (amo .max d a b) s

/-- AMOMINU (R115). -/
def execAmominu (d a b : BitVec 7) (s : State) : Host.Outcome State Fault Refusal :=
  runStep false (amo .minu d a b) s

/-- AMOMAXU (R115). -/
def execAmomaxu (d a b : BitVec 7) (s : State) : Host.Outcome State Fault Refusal :=
  runStep false (amo .maxu d a b) s

/-- AMOSWAP (R115). -/
def execAmoswap (d a b : BitVec 7) (s : State) : Host.Outcome State Fault Refusal :=
  runStep false (amo .swap d a b) s

/-- AMOCAS (R115). -/
def execAmocas (d a b : BitVec 7) (s : State) : Host.Outcome State Fault Refusal :=
  runStep false (amo .cas d a b) s

/-- AMOFADD32 (R115). -/
def execAmofadd32 (d a b : BitVec 7) (s : State) : Host.Outcome State Fault Refusal :=
  runStep false (amo .fadd32 d a b) s

/-- AMOFADD64 (R115). -/
def execAmofadd64 (d a b : BitVec 7) (s : State) : Host.Outcome State Fault Refusal :=
  runStep false (amo .fadd64 d a b) s

end Sys2Proof.Machine
end

