-- ==== Sys2Proof/WellFormed.lean ====
section
/-! DEFINITION. Well-formed instructions: the ranges of R63, R70, R74 and R76 for encoded fields, and the units that exist
(R3, R6, R8, R304, R418) for the arguments of the device's other steps. -/

namespace Sys2Proof

/-- A mask register or literal field is at most `n` (R63, R74). -/
def fieldLe (f : BitVec w) (n : Nat) : Bool := decide (f.toNat ≤ n)

/-- Every field in its range. Fields whose every value is legal (scalar registers, purses, immediates) are not tested. -/
def Instr.wf : Instr → Bool
  | .add _ _ _ => true
  | .sub _ _ _ => true
  | .and _ _ _ => true
  | .or _ _ _ => true
  | .xor _ _ _ => true
  | .andn _ _ _ => true
  | .orn _ _ _ => true
  | .xnor _ _ _ => true
  | .sll _ _ _ => true
  | .srl _ _ _ => true
  | .sra _ _ _ => true
  | .rol _ _ _ => true
  | .ror _ _ _ => true
  | .slt _ _ _ => true
  | .sltu _ _ _ => true
  | .seq _ _ _ => true
  | .sne _ _ _ => true
  | .min _ _ _ => true
  | .max _ _ _ => true
  | .minu _ _ _ => true
  | .maxu _ _ _ => true
  | .mul _ _ _ => true
  | .mulh _ _ _ => true
  | .mulhu _ _ _ => true
  | .mulhsu _ _ _ => true
  | .div _ _ _ => true
  | .divu _ _ _ => true
  | .rem _ _ _ => true
  | .remu _ _ _ => true
  | .clz _ _ => true
  | .ctz _ _ => true
  | .popc _ _ => true
  | .brev _ _ => true
  | .bswap _ _ => true
  | .sextb _ _ => true
  | .sexth _ _ => true
  | .sextw _ _ => true
  | .addi _ _ _ => true
  | .andi _ _ _ => true
  | .ori _ _ _ => true
  | .xori _ _ _ => true
  | .slti _ _ _ => true
  | .sltui _ _ _ => true
  | .slli _ _ _ => true
  | .srli _ _ _ => true
  | .srai _ _ _ => true
  | .rori _ _ _ => true
  | .lih _ _ => true
  | .pcadd _ _ => true
  | .ldb _ _ _ => true
  | .ldh _ _ _ => true
  | .ldw _ _ _ => true
  | .ldd _ _ _ => true
  | .ldbu _ _ _ => true
  | .ldhu _ _ _ => true
  | .ldwu _ _ _ => true
  | .stb _ _ _ => true
  | .sth _ _ _ => true
  | .stw _ _ _ => true
  | .std _ _ _ => true
  | .ldab _ _ sc _ => fieldLe sc 6
  | .ldah _ _ sc _ => fieldLe sc 6
  | .ldaw _ _ sc _ => fieldLe sc 6
  | .ldad _ _ sc _ => fieldLe sc 6
  | .stlb _ _ sc _ => fieldLe sc 6
  | .stlh _ _ sc _ => fieldLe sc 6
  | .stlw _ _ sc _ => fieldLe sc 6
  | .stld _ _ sc _ => fieldLe sc 6
  | .amoadd _ _ _ => true
  | .amoand _ _ _ => true
  | .amoor _ _ _ => true
  | .amoxor _ _ _ => true
  | .amomin _ _ _ => true
  | .amomax _ _ _ => true
  | .amominu _ _ _ => true
  | .amomaxu _ _ _ => true
  | .amoswap _ _ _ => true
  | .amocas _ _ _ => true
  | .amofadd32 _ _ _ => true
  | .amofadd64 _ _ _ => true
  | .amoaddO _ _ _ => true
  | .amoandO _ _ _ => true
  | .amoorO _ _ _ => true
  | .amoxorO _ _ _ => true
  | .amominO _ _ _ => true
  | .amomaxO _ _ _ => true
  | .amominuO _ _ _ => true
  | .amomaxuO _ _ _ => true
  | .amoswapO _ _ _ => true
  | .amocasO _ _ _ => true
  | .amofadd32O _ _ _ => true
  | .amofadd64O _ _ _ => true
  | .beq _ _ _ => true
  | .bne _ _ _ => true
  | .blt _ _ _ => true
  | .bge _ _ _ => true
  | .bltu _ _ _ => true
  | .bgeu _ _ _ => true
  | .loopr _ => true
  | .j _ => true
  | .call _ => true
  | .jr _ _ _ => true
  | .trap _ => true
  | .tret => true
  | .exit _ => true
  | .fence n => fieldLe n 6
  | .winb n => fieldLe n 14
  | .rcpt _ => true
  | .addrc _ _ n => fieldLe n 6
  | .nop => true
  | .crd _ _ => true
  | .cwr _ _ => true
  | .cset _ _ => true
  | .cclr _ _ => true
  | .illegalInstruction _ => true
  | .vadd _ _ _ _ _ _ => true
  | .vsub _ _ _ _ _ _ => true
  | .vmul _ _ _ _ _ _ => true
  | .vdiv _ _ _ _ _ _ => true
  | .vfma _ _ _ _ _ _ => true
  | .vfms _ _ _ _ _ _ => true
  | .vfnma _ _ _ _ _ _ => true
  | .vfnms _ _ _ _ _ _ => true
  | .vmin _ _ _ _ _ _ => true
  | .vmax _ _ _ _ _ _ => true
  | .vabs _ _ _ _ => true
  | .vneg _ _ _ _ => true
  | .vsqrt _ _ _ _ => true
  | .vrsqrt _ _ _ _ => true
  | .vrecip _ _ _ _ => true
  | .vexp2 _ _ _ _ => true
  | .vlog2 _ _ _ _ => true
  | .vand _ _ _ _ _ _ => true
  | .vor _ _ _ _ _ _ => true
  | .vxor _ _ _ _ _ _ => true
  | .vshift _ _ _ _ _ _ => true
  | .vcmpeq d _ _ _ _ _ => fieldLe d 15
  | .vcmplt d _ _ _ _ _ => fieldLe d 15
  | .vcmple d _ _ _ _ _ => fieldLe d 15
  | .vcmpne d _ _ _ _ _ => fieldLe d 15
  | .vsel _ _ _ _ _ => true
  | .vcvt _ _ _ _ => true
  | .vcode _ n => fieldLe n 7
  | .vbcast _ _ _ _ => true
  | .vredsum _ _ _ _ => true
  | .vredmax _ _ _ _ => true
  | .vredmin _ _ _ _ => true
  | .vscan _ _ _ _ => true
  | .vgathr _ _ _ _ _ _ => true
  | .vslide _ _ _ _ _ => true
  | .vcomp _ _ b _ => fieldLe b 15
  | .vexpd _ _ b _ => fieldLe b 15
  | .vid _ _ _ => true
  | .vrand _ _ _ => true
  | .voffs _ _ _ => true
  | .vlens _ _ _ => true
  | .vadds _ _ _ _ _ => true
  | .vmuls _ _ _ _ _ => true
  | .vshls _ _ _ _ _ => true
  | .vshrs _ _ _ _ _ => true
  | .vands _ _ _ _ _ => true
  | .vfmas _ _ _ _ _ => true
  | .vmaxs _ _ _ _ _ => true
  | .vmins _ _ _ _ _ => true
  | .kand d a b => fieldLe d 15 && fieldLe a 15 && fieldLe b 15
  | .kor d a b => fieldLe d 15 && fieldLe a 15 && fieldLe b 15
  | .kxor d a b => fieldLe d 15 && fieldLe a 15 && fieldLe b 15
  | .kcnt _ a => fieldLe a 15
  | .knot d a => fieldLe d 15 && fieldLe a 15
  | .kfirst _ a => fieldLe a 15
  | .setvl _ _ _ => true
  | .getvl _ => true
  | .vframe _ => true
  | .setmask n => fieldLe n 15
  | .vspill _ _ => true
  | .vfill _ _ => true
  | .vxch _ _ _ _ _ => true
  | .vappend _ b => fieldLe b 15
  | .vld _ _ _ => true
  | .vst _ _ _ => true
  | .vlds _ _ _ _ => true
  | .vsts _ _ _ _ => true
  | .vldc _ _ => true
  | .vldcf _ _ => true
  | .vstc _ _ => true
  | .vpref _ _ => true
  | .vgth _ _ _ _ _ => true
  | .vsct _ _ _ _ _ => true
  | .vgl _ _ _ _ _ => true
  | .vsc _ _ _ _ => true
  | .vamoadd _ _ _ _ _ => true
  | .vamomin _ _ _ _ _ => true
  | .vamomax _ _ _ _ _ => true
  | .vamoxch _ _ _ _ _ => true
  | .vamoand _ _ _ _ _ => true
  | .vamoor _ _ _ _ _ => true
  | .vamoxor _ _ _ _ _ => true
  | .vamoo _ _ _ _ _ => true
  | .cmdb d _ _ _ => fieldLe d 15
  | .cwait _ _ => true
  | .ctok _ _ => true
  | .scbq _ _ _ => true
  | .bar n => fieldLe n 63
  | .bara n => fieldLe n 63
  | .barw n => fieldLe n 63
  | .bari n _ => fieldLe n 63
  | .acq n => fieldLe n 6
  | .rel n => fieldLe n 6
  | .cflush _ _ => true
  | .cinv _ _ => true
  | .tshape _ _ => true
  | .tzero _ => true
  | .tmma _ _ _ => true
  | .tlru _ _ _ _ _ => true
  | .tmmal _ _ _ => true
  | .tadd _ _ => true
  | .trecomp _ => true
  | .tdense _ _ => true
  | .trank _ _ => true
  | .tscale _ => true
  | .tdup _ _ => true
  | .tcvt _ _ => true
  | .ewin _ _ => true
  | .ersv _ _ _ _ => true
  | .echk d _ _ _ _ => fieldLe d 15
  | .eadv _ b => fieldLe b 15
  | .issueSlot core _ chain => decide (core < 256) && (match chain with | none => true | some i => decide (i < 4))
  | .levelBarrierRelease _ level _ => decide (level < 8)
  | .copy die eng => decide (die < 4) && decide (eng < 4)
  | .fill die eng => decide (die < 4) && decide (eng < 4)
  | .scales die eng => decide (die < 4) && decide (eng < 4)
  | .convert die eng => decide (die < 4) && decide (eng < 4)
  | .hostCopy die eng => decide (die < 4) && decide (eng < 4)
  | .exchFill die eng => decide (die < 4) && decide (eng < 4)
  | .reduce stack => decide (stack < 8)
  | .search stack => decide (stack < 8)
  | .listRequest stack ctx _ => decide (stack < 8) && decide (ctx < 64)
  | .distanceRequest stack ctx _ => decide (stack < 8) && decide (ctx < 64)
  | .answer stack ctx _ => decide (stack < 8) && decide (ctx < 64)
  | .engineCompletion _ => true
  | .orderedAtomicArrival _ => true
  | .orderedAtomicApply die slice id => decide (die < 4) && decide (slice < 32) && decide (id < 256)
  | .dirtyFifoDrain core => decide (core < 256)
  | .l1Writeback _ _ => true
  | .relayout die slice _ _ part => decide (die < 4) && decide (slice < 32) && decide (part < 32)
  | .stalledWriteResume die part _ => decide (die < 4) && decide (part < 32)
  | .patrolScrub _ _ _ => true
  | .pageMigration _ _ _ part => decide (part < 32)
  | .trefiExpiry stack pch => decide (stack < 8) && decide (pch < 128)
  | .refresh stack pch => decide (stack < 8) && decide (pch < 128)
  | .selfRefreshEntry stack pch => decide (stack < 8) && decide (pch < 128)
  | .selfRefreshExit stack pch => decide (stack < 8) && decide (pch < 128)
  | .pchRetrain stack pch _ => decide (stack < 8) && decide (pch < 128)
  | .preemption place => decide (place < 1024)
  | .restore place => decide (place < 1024)
  | .clusterDrain die cluster _ => decide (die < 4) && decide (cluster < 8)
  | .clusterRetire die cluster target => decide (die < 4) && decide (cluster < 8) && (match target with | none => true | some i => decide (i < 32))
  | .lgenWrite core _ => decide (core < 256)
  | .trootWrite part _ => decide (part < 32)
  | .tlbinvAll part => decide (part < 32)
  | .tlbinvRange part _ => decide (part < 32)
  | .gAppend part _ => decide (part < 32)
  | .kernel part _ _ _ => decide (part < 32)
  | .copyNode part _ => decide (part < 32)
  | .convertNode part _ => decide (part < 32)
  | .reduceNode part _ => decide (part < 32)
  | .hostCopyNode part _ => decide (part < 32)
  | .searchBatch part _ => decide (part < 32)
  | .compress part _ => decide (part < 32)
  | .decompress part _ => decide (part < 32)
  | .signal part _ => decide (part < 32)
  | .wait part _ => decide (part < 32)
  | .join part _ => decide (part < 32)
  | .nodeEnd part _ => decide (part < 32)
  | .hostWrite part _ _ => decide (part ≤ 32)
  | .fabricRequest part _ op _ => decide (part < 32) && decide (op < 14)
  | .flit link data => decide (link < 16) && decide (data.length = 256)
  | .flitReplay link _ => decide (link < 16)
  | .heartbeat link => decide (link < 16)
  | .heartbeatTimeout dev => decide (dev < 16384)
  | .fatalErrorFlit dev => decide (dev < 16384)
  | .devFail dev => decide (dev < 16384)
  | .linkRecalibration link lane => decide (link < 16) && (match lane with | none => true | some i => decide (i < 8))
  | .create part => decide (part < 32)
  | .resize part => decide (part < 32)
  | .destroy part => decide (part < 32)
  | .release part => decide (part < 32)
  | .resumeStrand part _ => decide (part < 32)
  | .kill part _ => decide (part < 32)
  | .fwLoad comp => (decide (1 ≤ comp) && decide (comp ≤ 4))
  | .fwSwitch comp _ => (decide (1 ≤ comp) && decide (comp ≤ 4))
  | .chrExp => true
  | .getCertificate fn => decide (fn ≤ 32)
  | .challenge fn _ => decide (fn ≤ 32)
  | .getMeasurements fn => decide (fn ≤ 32)
  | .srtBaseWrite stack _ => decide (stack < 8)
  | .debugRead part _ _ => decide (part / 64 ≤ 2) && decide (part % 64 ≤ 32)
  | .registerWrite _ _ => true
  | .thermalThrottle => true
  | .fatalShutdown => true
  | .powerUp => true
  | .coldReset => true
  | .warmReset => true
  | .fqHeadWrite part _ => decide (part ≤ 32)
  | .hostRead part _ _ => decide (part ≤ 32)
  | .pcieCompletion _ => true
  | .hot stack _ => decide (stack < 8)
  | .cont => true
  | .killedByTheHost part _ => decide (part < 32)

end Sys2Proof
end

