-- ==== Sys2Proof/Decode.lean ====
section
/-! DEFINITION. The decoder, total on every word and on every list of bytes, which refuses by name (R60 to R78); and after it
the encoder, written from the same encoding tables (R61, R67 to R75, R180, R210, R248, R324). -/

namespace Sys2Proof

/-- Why a word encodes no instruction: the cases of R76. Every one of them is the same trap, ILLEGAL_INSTRUCTION. -/
inductive Reject where
  /-- The bytes are fewer than one word. -/
  | shortBytes
  /-- An unallocated or reserved major opcode (R66, R76). -/
  | majorUnallocated
  /-- An unallocated function, sub-function, sz or AMO operation (R67 to R73). -/
  | functionUnallocated
  /-- A field marked – or a reserved bit is not zero (R76). -/
  | reservedNonzero
  /-- A chain or mask bit the instruction does not permit, or mk = 0 where 1 is required (R75). -/
  | bitNotPermitted
  /-- A mask, code-register, literal or scope field out of its range (R63, R70, R74). -/
  | fieldRange
  deriving DecidableEq, Repr

/-! ## Fields of a word (R61) -/

/-- Major opcode, bits [31:26]. -/
def opF (w : BitVec 32) : BitVec 6 := w.extractLsb' 26 6
/-- Bits [25:19]. -/
def dF (w : BitVec 32) : BitVec 7 := w.extractLsb' 19 7
/-- Bits [18:12]. -/
def aF (w : BitVec 32) : BitVec 7 := w.extractLsb' 12 7
/-- Bits [11:5]. -/
def bF (w : BitVec 32) : BitVec 7 := w.extractLsb' 5 7
/-- Function of format R, bits [4:0]. -/
def fnF (w : BitVec 32) : BitVec 5 := w.extractLsb' 0 5
/-- Chain bit ca, bit [4]. -/
def caF (w : BitVec 32) : Bool := w.getLsbD 4
/-- Chain bit cb, bit [3]. -/
def cbF (w : BitVec 32) : Bool := w.getLsbD 3
/-- Mask bit mk, bit [2]. -/
def mkF (w : BitVec 32) : Bool := w.getLsbD 2
/-- Function of format V, bits [1:0]. -/
def vfF (w : BitVec 32) : BitVec 2 := w.extractLsb' 0 2
/-- imm12 and off12, bits [11:0]. -/
def immF (w : BitVec 32) : BitVec 12 := w.extractLsb' 0 12
/-- imm19, bits [18:0]. -/
def imm19F (w : BitVec 32) : BitVec 19 := w.extractLsb' 0 19
/-- off26, bits [25:0]. -/
def off26F (w : BitVec 32) : BitVec 26 := w.extractLsb' 0 26
/-- sz of format M, bits [11:9]. -/
def szF (w : BitVec 32) : BitVec 3 := w.extractLsb' 9 3
/-- off9 of format M, bits [8:0]. -/
def off9F (w : BitVec 32) : BitVec 9 := w.extractLsb' 0 9
/-- Scope of major 0x0F, off9[8:6]. -/
def scF (w : BitVec 32) : BitVec 3 := w.extractLsb' 6 3
/-- Unsigned offset of major 0x0F, off9[5:0]. -/
def off6F (w : BitVec 32) : BitVec 6 := w.extractLsb' 0 6
/-- Selector of SHI, imm12[11:10]. -/
def shSelF (w : BitVec 32) : BitVec 2 := w.extractLsb' 10 2
/-- Reserved bits of SHI, imm12[9:6]. -/
def shResF (w : BitVec 32) : BitVec 4 := w.extractLsb' 6 4
/-- Amount of SHI, imm12[5:0]. -/
def amtF (w : BitVec 32) : BitVec 6 := w.extractLsb' 0 6

/-! ## One decoder per group of majors -/

/-- Refuse a word whose reserved fields are not zero, then one whose permitted bits are wrong, then one whose field is out of range. -/
def checked (reserved bits range : Bool) (i : Instr) : Except Reject Instr :=
  if reserved then if bits then if range then .ok i else .error .fieldRange else .error .bitNotPermitted
  else .error .reservedNonzero

/-- Major 0x01 (R67 to R70). -/
def decode01 (w : BitVec 32) : Except Reject Instr :=
  match (fnF w).toNat with
  | 0 => checked true true true (.add (dF w) (aF w) (bF w))
  | 1 => checked true true true (.sub (dF w) (aF w) (bF w))
  | 2 => checked true true true (.and (dF w) (aF w) (bF w))
  | 3 => checked true true true (.or (dF w) (aF w) (bF w))
  | 4 => checked true true true (.xor (dF w) (aF w) (bF w))
  | 5 => checked true true true (.andn (dF w) (aF w) (bF w))
  | 6 => checked true true true (.orn (dF w) (aF w) (bF w))
  | 7 => checked true true true (.xnor (dF w) (aF w) (bF w))
  | 8 => checked true true true (.sll (dF w) (aF w) (bF w))
  | 9 => checked true true true (.srl (dF w) (aF w) (bF w))
  | 10 => checked true true true (.sra (dF w) (aF w) (bF w))
  | 11 => checked true true true (.rol (dF w) (aF w) (bF w))
  | 12 => checked true true true (.ror (dF w) (aF w) (bF w))
  | 13 => checked true true true (.slt (dF w) (aF w) (bF w))
  | 14 => checked true true true (.sltu (dF w) (aF w) (bF w))
  | 15 => checked true true true (.seq (dF w) (aF w) (bF w))
  | 16 => checked true true true (.sne (dF w) (aF w) (bF w))
  | 17 => checked true true true (.min (dF w) (aF w) (bF w))
  | 18 => checked true true true (.max (dF w) (aF w) (bF w))
  | 19 => checked true true true (.minu (dF w) (aF w) (bF w))
  | 20 => checked true true true (.maxu (dF w) (aF w) (bF w))
  | _ => .error .functionUnallocated

/-- Major 0x02 (R67 to R70). -/
def decode02 (w : BitVec 32) : Except Reject Instr :=
  match (fnF w).toNat with
  | 0 => checked true true true (.mul (dF w) (aF w) (bF w))
  | 1 => checked true true true (.mulh (dF w) (aF w) (bF w))
  | 2 => checked true true true (.mulhu (dF w) (aF w) (bF w))
  | 3 => checked true true true (.mulhsu (dF w) (aF w) (bF w))
  | 4 => checked true true true (.div (dF w) (aF w) (bF w))
  | 5 => checked true true true (.divu (dF w) (aF w) (bF w))
  | 6 => checked true true true (.rem (dF w) (aF w) (bF w))
  | 7 => checked true true true (.remu (dF w) (aF w) (bF w))
  | _ => .error .functionUnallocated

/-- Major 0x03 (R67 to R70). -/
def decode03 (w : BitVec 32) : Except Reject Instr :=
  match (fnF w).toNat with
  | 0 => checked ((bF w == 0)) true true (.clz (dF w) (aF w))
  | 1 => checked ((bF w == 0)) true true (.ctz (dF w) (aF w))
  | 2 => checked ((bF w == 0)) true true (.popc (dF w) (aF w))
  | 3 => checked ((bF w == 0)) true true (.brev (dF w) (aF w))
  | 4 => checked ((bF w == 0)) true true (.bswap (dF w) (aF w))
  | 5 => checked ((bF w == 0)) true true (.sextb (dF w) (aF w))
  | 6 => checked ((bF w == 0)) true true (.sexth (dF w) (aF w))
  | 7 => checked ((bF w == 0)) true true (.sextw (dF w) (aF w))
  | _ => .error .functionUnallocated

/-- Major 0x04 (R67 to R70). -/
def decode04 (w : BitVec 32) : Except Reject Instr :=
  checked true true true (.addi (dF w) (aF w) (immF w))

/-- Major 0x05 (R67 to R70). -/
def decode05 (w : BitVec 32) : Except Reject Instr :=
  checked true true true (.andi (dF w) (aF w) (immF w))

/-- Major 0x06 (R67 to R70). -/
def decode06 (w : BitVec 32) : Except Reject Instr :=
  checked true true true (.ori (dF w) (aF w) (immF w))

/-- Major 0x07 (R67 to R70). -/
def decode07 (w : BitVec 32) : Except Reject Instr :=
  checked true true true (.xori (dF w) (aF w) (immF w))

/-- Major 0x08 (R67 to R70). -/
def decode08 (w : BitVec 32) : Except Reject Instr :=
  checked true true true (.slti (dF w) (aF w) (immF w))

/-- Major 0x09 (R67 to R70). -/
def decode09 (w : BitVec 32) : Except Reject Instr :=
  checked true true true (.sltui (dF w) (aF w) (immF w))

/-- Major 0x0A (R67 to R70). -/
def decode0A (w : BitVec 32) : Except Reject Instr :=
  match (shSelF w).toNat with
  | 0 => checked ((shResF w == 0)) true true (.slli (dF w) (aF w) (amtF w))
  | 1 => checked ((shResF w == 0)) true true (.srli (dF w) (aF w) (amtF w))
  | 2 => checked ((shResF w == 0)) true true (.srai (dF w) (aF w) (amtF w))
  | _ => checked ((shResF w == 0)) true true (.rori (dF w) (aF w) (amtF w))

/-- Major 0x0B (R67 to R70). -/
def decode0B (w : BitVec 32) : Except Reject Instr :=
  checked true true true (.lih (dF w) (imm19F w))

/-- Major 0x0C (R67 to R70). -/
def decode0C (w : BitVec 32) : Except Reject Instr :=
  checked true true true (.pcadd (dF w) (imm19F w))

/-- Major 0x0D (R67 to R70). -/
def decode0D (w : BitVec 32) : Except Reject Instr :=
  match (szF w).toNat with
  | 0 => checked true true true (.ldb (dF w) (aF w) (off9F w))
  | 1 => checked true true true (.ldh (dF w) (aF w) (off9F w))
  | 2 => checked true true true (.ldw (dF w) (aF w) (off9F w))
  | 3 => checked true true true (.ldd (dF w) (aF w) (off9F w))
  | 4 => checked true true true (.ldbu (dF w) (aF w) (off9F w))
  | 5 => checked true true true (.ldhu (dF w) (aF w) (off9F w))
  | 6 => checked true true true (.ldwu (dF w) (aF w) (off9F w))
  | _ => .error .functionUnallocated

/-- Major 0x0E (R67 to R70). -/
def decode0E (w : BitVec 32) : Except Reject Instr :=
  match (szF w).toNat with
  | 0 => checked true true true (.stb (dF w) (aF w) (off9F w))
  | 1 => checked true true true (.sth (dF w) (aF w) (off9F w))
  | 2 => checked true true true (.stw (dF w) (aF w) (off9F w))
  | 3 => checked true true true (.std (dF w) (aF w) (off9F w))
  | _ => .error .functionUnallocated

/-- Major 0x0F (R67 to R70). -/
def decode0F (w : BitVec 32) : Except Reject Instr :=
  match (szF w).toNat with
  | 0 => checked true true (fieldLe (scF w) 6) (.ldab (dF w) (aF w) (scF w) (off6F w))
  | 1 => checked true true (fieldLe (scF w) 6) (.ldah (dF w) (aF w) (scF w) (off6F w))
  | 2 => checked true true (fieldLe (scF w) 6) (.ldaw (dF w) (aF w) (scF w) (off6F w))
  | 3 => checked true true (fieldLe (scF w) 6) (.ldad (dF w) (aF w) (scF w) (off6F w))
  | 4 => checked true true (fieldLe (scF w) 6) (.stlb (dF w) (aF w) (scF w) (off6F w))
  | 5 => checked true true (fieldLe (scF w) 6) (.stlh (dF w) (aF w) (scF w) (off6F w))
  | 6 => checked true true (fieldLe (scF w) 6) (.stlw (dF w) (aF w) (scF w) (off6F w))
  | 7 => checked true true (fieldLe (scF w) 6) (.stld (dF w) (aF w) (scF w) (off6F w))
  | _ => .error .functionUnallocated

/-- Major 0x10 (R67 to R70). -/
def decode10 (w : BitVec 32) : Except Reject Instr :=
  match (fnF w).toNat with
  | 0 => checked true true true (.amoadd (dF w) (aF w) (bF w))
  | 1 => checked true true true (.amoand (dF w) (aF w) (bF w))
  | 2 => checked true true true (.amoor (dF w) (aF w) (bF w))
  | 3 => checked true true true (.amoxor (dF w) (aF w) (bF w))
  | 4 => checked true true true (.amomin (dF w) (aF w) (bF w))
  | 5 => checked true true true (.amomax (dF w) (aF w) (bF w))
  | 6 => checked true true true (.amominu (dF w) (aF w) (bF w))
  | 7 => checked true true true (.amomaxu (dF w) (aF w) (bF w))
  | 8 => checked true true true (.amoswap (dF w) (aF w) (bF w))
  | 9 => checked true true true (.amocas (dF w) (aF w) (bF w))
  | 10 => checked true true true (.amofadd32 (dF w) (aF w) (bF w))
  | 11 => checked true true true (.amofadd64 (dF w) (aF w) (bF w))
  | 16 => checked true true true (.amoaddO (dF w) (aF w) (bF w))
  | 17 => checked true true true (.amoandO (dF w) (aF w) (bF w))
  | 18 => checked true true true (.amoorO (dF w) (aF w) (bF w))
  | 19 => checked true true true (.amoxorO (dF w) (aF w) (bF w))
  | 20 => checked true true true (.amominO (dF w) (aF w) (bF w))
  | 21 => checked true true true (.amomaxO (dF w) (aF w) (bF w))
  | 22 => checked true true true (.amominuO (dF w) (aF w) (bF w))
  | 23 => checked true true true (.amomaxuO (dF w) (aF w) (bF w))
  | 24 => checked true true true (.amoswapO (dF w) (aF w) (bF w))
  | 25 => checked true true true (.amocasO (dF w) (aF w) (bF w))
  | 26 => checked true true true (.amofadd32O (dF w) (aF w) (bF w))
  | 27 => checked true true true (.amofadd64O (dF w) (aF w) (bF w))
  | _ => .error .functionUnallocated

/-- Major 0x11 (R67 to R70). -/
def decode11 (w : BitVec 32) : Except Reject Instr :=
  checked true true true (.beq (dF w) (aF w) (immF w))

/-- Major 0x12 (R67 to R70). -/
def decode12 (w : BitVec 32) : Except Reject Instr :=
  checked true true true (.bne (dF w) (aF w) (immF w))

/-- Major 0x13 (R67 to R70). -/
def decode13 (w : BitVec 32) : Except Reject Instr :=
  checked true true true (.blt (dF w) (aF w) (immF w))

/-- Major 0x14 (R67 to R70). -/
def decode14 (w : BitVec 32) : Except Reject Instr :=
  checked true true true (.bge (dF w) (aF w) (immF w))

/-- Major 0x15 (R67 to R70). -/
def decode15 (w : BitVec 32) : Except Reject Instr :=
  checked true true true (.bltu (dF w) (aF w) (immF w))

/-- Major 0x16 (R67 to R70). -/
def decode16 (w : BitVec 32) : Except Reject Instr :=
  checked true true true (.bgeu (dF w) (aF w) (immF w))

/-- Major 0x17 (R67 to R70). -/
def decode17 (w : BitVec 32) : Except Reject Instr :=
  checked ((dF w == 0) && (aF w == 0)) true true (.loopr (immF w))

/-- Major 0x18 (R67 to R70). -/
def decode18 (w : BitVec 32) : Except Reject Instr :=
  checked true true true (.j (off26F w))

/-- Major 0x19 (R67 to R70). -/
def decode19 (w : BitVec 32) : Except Reject Instr :=
  checked true true true (.call (off26F w))

/-- Major 0x1A (R67 to R70). -/
def decode1A (w : BitVec 32) : Except Reject Instr :=
  checked true true true (.jr (dF w) (aF w) (immF w))

/-- Major 0x1B (R67 to R70). -/
def decode1B (w : BitVec 32) : Except Reject Instr :=
  match (fnF w).toNat with
  | 0 => checked ((dF w == 0) && (aF w == 0)) true true (.trap (bF w))
  | 1 => checked ((dF w == 0) && (aF w == 0) && (bF w == 0)) true true (.tret)
  | 2 => checked ((dF w == 0) && (bF w == 0)) true true (.exit (aF w))
  | 3 => checked ((dF w == 0) && (bF w == 0)) true (fieldLe (aF w) 6) (.fence (aF w))
  | 4 => checked ((dF w == 0) && (bF w == 0)) true (fieldLe (aF w) 14) (.winb (aF w))
  | 5 => checked ((aF w == 0) && (bF w == 0)) true true (.rcpt (dF w))
  | 6 => checked true true (fieldLe (bF w) 6) (.addrc (dF w) (aF w) (bF w))
  | 7 => checked ((dF w == 0) && (aF w == 0) && (bF w == 0)) true true (.nop)
  | _ => .error .functionUnallocated

/-- Major 0x1C (R67 to R70). -/
def decode1C (w : BitVec 32) : Except Reject Instr :=
  checked ((aF w == 0)) true true (.crd (dF w) (immF w))

/-- Major 0x1D (R67 to R70). -/
def decode1D (w : BitVec 32) : Except Reject Instr :=
  checked ((dF w == 0)) true true (.cwr (aF w) (immF w))

/-- Major 0x1E (R67 to R70). -/
def decode1E (w : BitVec 32) : Except Reject Instr :=
  checked ((dF w == 0)) true true (.cset (aF w) (immF w))

/-- Major 0x1F (R67 to R70). -/
def decode1F (w : BitVec 32) : Except Reject Instr :=
  checked ((dF w == 0)) true true (.cclr (aF w) (immF w))

/-- Major 0x20 (R71 to R75). -/
def decode20 (w : BitVec 32) : Except Reject Instr :=
  match (vfF w).toNat with
  | 0 => checked true true true (.vadd (dF w) (aF w) (bF w) (caF w) (cbF w) (mkF w))
  | 1 => checked true true true (.vsub (dF w) (aF w) (bF w) (caF w) (cbF w) (mkF w))
  | 2 => checked true true true (.vmul (dF w) (aF w) (bF w) (caF w) (cbF w) (mkF w))
  | _ => checked true true true (.vdiv (dF w) (aF w) (bF w) (caF w) (cbF w) (mkF w))

/-- Major 0x21 (R71 to R75). -/
def decode21 (w : BitVec 32) : Except Reject Instr :=
  match (vfF w).toNat with
  | 0 => checked true true true (.vfma (dF w) (aF w) (bF w) (caF w) (cbF w) (mkF w))
  | 1 => checked true true true (.vfms (dF w) (aF w) (bF w) (caF w) (cbF w) (mkF w))
  | 2 => checked true true true (.vfnma (dF w) (aF w) (bF w) (caF w) (cbF w) (mkF w))
  | _ => checked true true true (.vfnms (dF w) (aF w) (bF w) (caF w) (cbF w) (mkF w))

/-- Major 0x22 (R71 to R75). -/
def decode22 (w : BitVec 32) : Except Reject Instr :=
  match (vfF w).toNat with
  | 0 => checked true true true (.vmin (dF w) (aF w) (bF w) (caF w) (cbF w) (mkF w))
  | 1 => checked true true true (.vmax (dF w) (aF w) (bF w) (caF w) (cbF w) (mkF w))
  | 2 => checked ((bF w == 0)) (!(cbF w)) true (.vabs (dF w) (aF w) (caF w) (mkF w))
  | _ => checked ((bF w == 0)) (!(cbF w)) true (.vneg (dF w) (aF w) (caF w) (mkF w))

/-- Major 0x23 (R71 to R75). -/
def decode23 (w : BitVec 32) : Except Reject Instr :=
  match (vfF w).toNat with
  | 0 =>
    match (bF w).toNat with
    | 0 => checked true (!(cbF w)) true (.vsqrt (dF w) (aF w) (caF w) (mkF w))
    | 1 => checked true (!(cbF w)) true (.vrsqrt (dF w) (aF w) (caF w) (mkF w))
    | _ => .error .functionUnallocated
  | 1 => checked ((bF w == 0)) (!(cbF w)) true (.vrecip (dF w) (aF w) (caF w) (mkF w))
  | 2 => checked ((bF w == 0)) (!(cbF w)) true (.vexp2 (dF w) (aF w) (caF w) (mkF w))
  | _ => checked ((bF w == 0)) (!(cbF w)) true (.vlog2 (dF w) (aF w) (caF w) (mkF w))

/-- Major 0x24 (R71 to R75). -/
def decode24 (w : BitVec 32) : Except Reject Instr :=
  match (vfF w).toNat with
  | 0 => checked true true true (.vand (dF w) (aF w) (bF w) (caF w) (cbF w) (mkF w))
  | 1 => checked true true true (.vor (dF w) (aF w) (bF w) (caF w) (cbF w) (mkF w))
  | 2 => checked true true true (.vxor (dF w) (aF w) (bF w) (caF w) (cbF w) (mkF w))
  | _ => checked true true true (.vshift (dF w) (aF w) (bF w) (caF w) (cbF w) (mkF w))

/-- Major 0x25 (R71 to R75). -/
def decode25 (w : BitVec 32) : Except Reject Instr :=
  match (vfF w).toNat with
  | 0 => checked true true (fieldLe (dF w) 15) (.vcmpeq (dF w) (aF w) (bF w) (caF w) (cbF w) (mkF w))
  | 1 => checked true true (fieldLe (dF w) 15) (.vcmplt (dF w) (aF w) (bF w) (caF w) (cbF w) (mkF w))
  | 2 => checked true true (fieldLe (dF w) 15) (.vcmple (dF w) (aF w) (bF w) (caF w) (cbF w) (mkF w))
  | _ => checked true true (fieldLe (dF w) 15) (.vcmpne (dF w) (aF w) (bF w) (caF w) (cbF w) (mkF w))

/-- Major 0x26 (R71 to R75). -/
def decode26 (w : BitVec 32) : Except Reject Instr :=
  match (vfF w).toNat with
  | 0 => checked true ((mkF w)) true (.vsel (dF w) (aF w) (bF w) (caF w) (cbF w))
  | 1 => checked ((bF w == 0)) (!(cbF w)) true (.vcvt (dF w) (aF w) (caF w) (mkF w))
  | 2 => checked ((bF w == 0)) (!(caF w) && !(cbF w) && !(mkF w)) (fieldLe (aF w) 7) (.vcode (dF w) (aF w))
  | _ => checked true (!(caF w) && !(cbF w)) true (.vbcast (dF w) (aF w) (bF w) (mkF w))

/-- Major 0x27 (R71 to R75). -/
def decode27 (w : BitVec 32) : Except Reject Instr :=
  match (vfF w).toNat with
  | 0 => checked ((bF w == 0)) (!(cbF w)) true (.vredsum (dF w) (aF w) (caF w) (mkF w))
  | 1 => checked ((bF w == 0)) (!(cbF w)) true (.vredmax (dF w) (aF w) (caF w) (mkF w))
  | 2 => checked ((bF w == 0)) (!(cbF w)) true (.vredmin (dF w) (aF w) (caF w) (mkF w))
  | _ => checked ((bF w == 0)) (!(cbF w)) true (.vscan (dF w) (aF w) (caF w) (mkF w))

/-- Major 0x28 (R71 to R75). -/
def decode28 (w : BitVec 32) : Except Reject Instr :=
  match (vfF w).toNat with
  | 0 => checked true true true (.vgathr (dF w) (aF w) (bF w) (caF w) (cbF w) (mkF w))
  | 1 => checked true (!(cbF w)) true (.vslide (dF w) (aF w) (bF w) (caF w) (mkF w))
  | 2 => checked true (!(cbF w) && !(mkF w)) (fieldLe (bF w) 15) (.vcomp (dF w) (aF w) (bF w) (caF w))
  | _ => checked true (!(cbF w) && !(mkF w)) (fieldLe (bF w) 15) (.vexpd (dF w) (aF w) (bF w) (caF w))

/-- Major 0x29 (R71 to R75). -/
def decode29 (w : BitVec 32) : Except Reject Instr :=
  match (vfF w).toNat with
  | 0 => checked ((bF w == 0)) (!(caF w) && !(cbF w)) true (.vid (dF w) (aF w) (mkF w))
  | 1 => checked ((bF w == 0)) (!(caF w) && !(cbF w)) true (.vrand (dF w) (aF w) (mkF w))
  | 2 => checked ((bF w == 0)) (!(cbF w) && !(mkF w)) true (.voffs (dF w) (aF w) (caF w))
  | _ => checked ((bF w == 0)) (!(cbF w) && !(mkF w)) true (.vlens (dF w) (aF w) (caF w))

/-- Major 0x2A (R71 to R75). -/
def decode2A (w : BitVec 32) : Except Reject Instr :=
  match (vfF w).toNat with
  | 0 => checked true (!(cbF w)) true (.vadds (dF w) (aF w) (bF w) (caF w) (mkF w))
  | 1 => checked true (!(cbF w)) true (.vmuls (dF w) (aF w) (bF w) (caF w) (mkF w))
  | 2 => checked true (!(cbF w)) true (.vshls (dF w) (aF w) (bF w) (caF w) (mkF w))
  | _ => checked true (!(cbF w)) true (.vshrs (dF w) (aF w) (bF w) (caF w) (mkF w))

/-- Major 0x2B (R71 to R75). -/
def decode2B (w : BitVec 32) : Except Reject Instr :=
  match (vfF w).toNat with
  | 0 => checked true (!(cbF w)) true (.vands (dF w) (aF w) (bF w) (caF w) (mkF w))
  | 1 => checked true (!(cbF w)) true (.vfmas (dF w) (aF w) (bF w) (caF w) (mkF w))
  | 2 => checked true (!(cbF w)) true (.vmaxs (dF w) (aF w) (bF w) (caF w) (mkF w))
  | _ => checked true (!(cbF w)) true (.vmins (dF w) (aF w) (bF w) (caF w) (mkF w))

/-- Major 0x2C (R71 to R75). -/
def decode2C (w : BitVec 32) : Except Reject Instr :=
  match (vfF w).toNat with
  | 0 => checked true (!(caF w) && !(cbF w) && !(mkF w)) (fieldLe (dF w) 15 && fieldLe (aF w) 15 && fieldLe (bF w) 15) (.kand (dF w) (aF w) (bF w))
  | 1 => checked true (!(caF w) && !(cbF w) && !(mkF w)) (fieldLe (dF w) 15 && fieldLe (aF w) 15 && fieldLe (bF w) 15) (.kor (dF w) (aF w) (bF w))
  | 2 => checked true (!(caF w) && !(cbF w) && !(mkF w)) (fieldLe (dF w) 15 && fieldLe (aF w) 15 && fieldLe (bF w) 15) (.kxor (dF w) (aF w) (bF w))
  | _ =>
    match (bF w).toNat with
    | 0 => checked true (!(caF w) && !(cbF w) && !(mkF w)) (fieldLe (aF w) 15) (.kcnt (dF w) (aF w))
    | 1 => checked true (!(caF w) && !(cbF w) && !(mkF w)) (fieldLe (dF w) 15 && fieldLe (aF w) 15) (.knot (dF w) (aF w))
    | 2 => checked true (!(caF w) && !(cbF w) && !(mkF w)) (fieldLe (aF w) 15) (.kfirst (dF w) (aF w))
    | _ => .error .functionUnallocated

/-- Major 0x2D (R71 to R75). -/
def decode2D (w : BitVec 32) : Except Reject Instr :=
  match (vfF w).toNat with
  | 0 => checked true (!(caF w) && !(cbF w) && !(mkF w)) true (.setvl (dF w) (aF w) (bF w))
  | 1 => checked ((aF w == 0) && (bF w == 0)) (!(caF w) && !(cbF w) && !(mkF w)) true (.getvl (dF w))
  | 2 => checked ((aF w == 0) && (bF w == 0)) (!(caF w) && !(cbF w) && !(mkF w)) true (.vframe (dF w))
  | _ => checked ((dF w == 0) && (bF w == 0)) (!(caF w) && !(cbF w) && !(mkF w)) (fieldLe (aF w) 15) (.setmask (aF w))

/-- Major 0x2E (R71 to R75). -/
def decode2E (w : BitVec 32) : Except Reject Instr :=
  match (vfF w).toNat with
  | 0 => checked ((bF w == 0)) (!(caF w) && !(cbF w) && !(mkF w)) true (.vspill (dF w) (aF w))
  | 1 => checked ((bF w == 0)) (!(caF w) && !(cbF w) && !(mkF w)) true (.vfill (dF w) (aF w))
  | 2 => checked true (!(cbF w)) true (.vxch (dF w) (aF w) (bF w) (caF w) (mkF w))
  | _ => checked ((dF w == 0)) (!(caF w) && !(cbF w) && !(mkF w)) (fieldLe (bF w) 15) (.vappend (aF w) (bF w))

/-- Major 0x30 (R71 to R75). -/
def decode30 (w : BitVec 32) : Except Reject Instr :=
  match (vfF w).toNat with
  | 0 => checked ((bF w == 0)) (!(caF w) && !(cbF w)) true (.vld (dF w) (aF w) (mkF w))
  | 1 => checked ((bF w == 0)) (!(caF w) && !(cbF w)) true (.vst (dF w) (aF w) (mkF w))
  | 2 => checked true (!(caF w) && !(cbF w)) true (.vlds (dF w) (aF w) (bF w) (mkF w))
  | _ => checked true (!(caF w) && !(cbF w)) true (.vsts (dF w) (aF w) (bF w) (mkF w))

/-- Major 0x31 (R71 to R75). -/
def decode31 (w : BitVec 32) : Except Reject Instr :=
  match (vfF w).toNat with
  | 0 => checked ((bF w == 0)) (!(caF w) && !(cbF w) && !(mkF w)) true (.vldc (dF w) (aF w))
  | 1 => checked ((bF w == 0)) (!(caF w) && !(cbF w) && !(mkF w)) true (.vldcf (dF w) (aF w))
  | 2 => checked ((bF w == 0)) (!(caF w) && !(cbF w) && !(mkF w)) true (.vstc (dF w) (aF w))
  | _ => checked ((dF w == 0)) (!(caF w) && !(cbF w) && !(mkF w)) true (.vpref (aF w) (bF w))

/-- Major 0x32 (R71 to R75). -/
def decode32 (w : BitVec 32) : Except Reject Instr :=
  match (vfF w).toNat with
  | 0 => checked true (!(caF w)) true (.vgth (dF w) (aF w) (bF w) (cbF w) (mkF w))
  | 1 => checked true (!(caF w)) true (.vsct (dF w) (aF w) (bF w) (cbF w) (mkF w))
  | 2 => checked true (!(caF w)) true (.vgl (dF w) (aF w) (bF w) (cbF w) (mkF w))
  | _ => checked true (!(caF w) && (mkF w)) true (.vsc (dF w) (aF w) (bF w) (cbF w))

/-- Major 0x33 (R71 to R75). -/
def decode33 (w : BitVec 32) : Except Reject Instr :=
  match (vfF w).toNat with
  | 0 => checked true (!(caF w)) true (.vamoadd (dF w) (aF w) (bF w) (cbF w) (mkF w))
  | 1 => checked true (!(caF w)) true (.vamomin (dF w) (aF w) (bF w) (cbF w) (mkF w))
  | 2 => checked true (!(caF w)) true (.vamomax (dF w) (aF w) (bF w) (cbF w) (mkF w))
  | _ => checked true (!(caF w)) true (.vamoxch (dF w) (aF w) (bF w) (cbF w) (mkF w))

/-- Major 0x34 (R71 to R75). -/
def decode34 (w : BitVec 32) : Except Reject Instr :=
  match (vfF w).toNat with
  | 0 => checked true (!(caF w)) true (.vamoand (dF w) (aF w) (bF w) (cbF w) (mkF w))
  | 1 => checked true (!(caF w)) true (.vamoor (dF w) (aF w) (bF w) (cbF w) (mkF w))
  | 2 => checked true (!(caF w)) true (.vamoxor (dF w) (aF w) (bF w) (cbF w) (mkF w))
  | _ => checked true (!(caF w)) true (.vamoo (dF w) (aF w) (bF w) (cbF w) (mkF w))

/-- Major 0x35 (R71 to R75). -/
def decode35 (w : BitVec 32) : Except Reject Instr :=
  match (vfF w).toNat with
  | 0 => checked ((bF w == 0)) (!(cbF w)) (fieldLe (dF w) 15) (.cmdb (dF w) (aF w) (caF w) (mkF w))
  | 1 => checked ((dF w == 0)) (!(caF w) && !(cbF w) && !(mkF w)) true (.cwait (aF w) (bF w))
  | 2 => checked ((bF w == 0)) (!(caF w) && !(cbF w) && !(mkF w)) true (.ctok (dF w) (aF w))
  | _ => checked true (!(caF w) && !(cbF w) && !(mkF w)) true (.scbq (dF w) (aF w) (bF w))

/-- Major 0x36 (R71 to R75). -/
def decode36 (w : BitVec 32) : Except Reject Instr :=
  match (vfF w).toNat with
  | 0 => checked ((dF w == 0) && (bF w == 0)) (!(caF w) && !(cbF w) && !(mkF w)) (fieldLe (aF w) 63) (.bar (aF w))
  | 1 => checked ((dF w == 0) && (bF w == 0)) (!(caF w) && !(cbF w) && !(mkF w)) (fieldLe (aF w) 63) (.bara (aF w))
  | 2 => checked ((dF w == 0) && (bF w == 0)) (!(caF w) && !(cbF w) && !(mkF w)) (fieldLe (aF w) 63) (.barw (aF w))
  | _ => checked ((dF w == 0)) (!(caF w) && !(cbF w) && !(mkF w)) (fieldLe (aF w) 63) (.bari (aF w) (bF w))

/-- Major 0x37 (R71 to R75). -/
def decode37 (w : BitVec 32) : Except Reject Instr :=
  match (vfF w).toNat with
  | 0 => checked ((dF w == 0) && (bF w == 0)) (!(caF w) && !(cbF w) && !(mkF w)) (fieldLe (aF w) 6) (.acq (aF w))
  | 1 => checked ((dF w == 0) && (bF w == 0)) (!(caF w) && !(cbF w) && !(mkF w)) (fieldLe (aF w) 6) (.rel (aF w))
  | 2 => checked ((dF w == 0)) (!(caF w) && !(cbF w) && !(mkF w)) true (.cflush (aF w) (bF w))
  | _ => checked ((dF w == 0)) (!(caF w) && !(cbF w) && !(mkF w)) true (.cinv (aF w) (bF w))

/-- Major 0x38 (R71 to R75). -/
def decode38 (w : BitVec 32) : Except Reject Instr :=
  match (vfF w).toNat with
  | 0 => checked ((bF w == 0)) (!(caF w) && !(cbF w) && !(mkF w)) true (.tshape (dF w) (aF w))
  | 1 => checked ((aF w == 0) && (bF w == 0)) (!(caF w) && !(cbF w) && !(mkF w)) true (.tzero (dF w))
  | 2 => checked true (!(caF w) && !(cbF w) && !(mkF w)) true (.tmma (dF w) (aF w) (bF w))
  | _ => checked true (!(mkF w)) true (.tlru (dF w) (aF w) (bF w) (caF w) (cbF w))

/-- Major 0x39 (R71 to R75). -/
def decode39 (w : BitVec 32) : Except Reject Instr :=
  match (vfF w).toNat with
  | 0 => checked true (!(caF w) && !(cbF w) && !(mkF w)) true (.tmmal (dF w) (aF w) (bF w))
  | 1 => checked ((bF w == 0)) (!(caF w) && !(cbF w) && !(mkF w)) true (.tadd (dF w) (aF w))
  | 2 => checked ((aF w == 0) && (bF w == 0)) (!(caF w) && !(cbF w) && !(mkF w)) true (.trecomp (dF w))
  | _ => checked ((bF w == 0)) (!(caF w) && !(cbF w) && !(mkF w)) true (.tdense (dF w) (aF w))

/-- Major 0x3A (R71 to R75). -/
def decode3A (w : BitVec 32) : Except Reject Instr :=
  match (vfF w).toNat with
  | 0 => checked ((bF w == 0)) (!(caF w) && !(cbF w) && !(mkF w)) true (.trank (dF w) (aF w))
  | 1 => checked ((dF w == 0) && (bF w == 0)) (!(caF w) && !(cbF w) && !(mkF w)) true (.tscale (aF w))
  | 2 => checked ((bF w == 0)) (!(caF w) && !(cbF w) && !(mkF w)) true (.tdup (dF w) (aF w))
  | _ => checked ((bF w == 0)) (!(caF w) && !(cbF w) && !(mkF w)) true (.tcvt (dF w) (aF w))

/-- Major 0x3C (R71 to R75). -/
def decode3C (w : BitVec 32) : Except Reject Instr :=
  match (vfF w).toNat with
  | 0 => checked ((dF w == 0)) (!(caF w) && !(cbF w) && !(mkF w)) true (.ewin (aF w) (bF w))
  | 1 => checked ((dF w == 0)) (!(cbF w)) true (.ersv (aF w) (bF w) (caF w) (mkF w))
  | 2 => checked true (!(cbF w)) (fieldLe (dF w) 15) (.echk (dF w) (aF w) (bF w) (caF w) (mkF w))
  | _ => checked ((dF w == 0)) (!(caF w) && !(cbF w) && !(mkF w)) (fieldLe (bF w) 15) (.eadv (aF w) (bF w))

/-- The instruction a word encodes, or why it encodes none (R60, R66, R76). -/
def decodeWord (w : BitVec 32) : Except Reject Instr :=
  match (opF w).toNat with
  | 1 => decode01 w
  | 2 => decode02 w
  | 3 => decode03 w
  | 4 => decode04 w
  | 5 => decode05 w
  | 6 => decode06 w
  | 7 => decode07 w
  | 8 => decode08 w
  | 9 => decode09 w
  | 10 => decode0A w
  | 11 => decode0B w
  | 12 => decode0C w
  | 13 => decode0D w
  | 14 => decode0E w
  | 15 => decode0F w
  | 16 => decode10 w
  | 17 => decode11 w
  | 18 => decode12 w
  | 19 => decode13 w
  | 20 => decode14 w
  | 21 => decode15 w
  | 22 => decode16 w
  | 23 => decode17 w
  | 24 => decode18 w
  | 25 => decode19 w
  | 26 => decode1A w
  | 27 => decode1B w
  | 28 => decode1C w
  | 29 => decode1D w
  | 30 => decode1E w
  | 31 => decode1F w
  | 32 => decode20 w
  | 33 => decode21 w
  | 34 => decode22 w
  | 35 => decode23 w
  | 36 => decode24 w
  | 37 => decode25 w
  | 38 => decode26 w
  | 39 => decode27 w
  | 40 => decode28 w
  | 41 => decode29 w
  | 42 => decode2A w
  | 43 => decode2B w
  | 44 => decode2C w
  | 45 => decode2D w
  | 46 => decode2E w
  | 48 => decode30 w
  | 49 => decode31 w
  | 50 => decode32 w
  | 51 => decode33 w
  | 52 => decode34 w
  | 53 => decode35 w
  | 54 => decode36 w
  | 55 => decode37 w
  | 56 => decode38 w
  | 57 => decode39 w
  | 58 => decode3A w
  | 60 => decode3C w
  | _ => .error .majorUnallocated

/-- A word's four bytes in memory order, the low byte first (R13, R60). -/
def wordBytes (w : BitVec 32) : List Byte :=
  [w.extractLsb' 0 8, w.extractLsb' 8 8, w.extractLsb' 16 8, w.extractLsb' 24 8]

/-- Decode the first word of a list of bytes; the rest of the list is what follows it. -/
def decode : List Byte → Except Reject (Instr × List Byte)
  | b0 :: b1 :: b2 :: b3 :: rest =>
    match decodeWord (b3 ++ b2 ++ b1 ++ b0) with
    | .ok i => .ok (i, rest)
    | .error r => .error r
  | _ => .error .shortBytes

/-- The decoder on a table row's bits: bit 0 is the least significant bit of the one word an instruction has. -/
def decodeTableWord (nbits w : Nat) : Option Instr :=
  match decode (wordBytes (BitVec.ofNat 32 (w % 2 ^ nbits))) with
  | .ok (i, _) => some i
  | .error _ => none

/-! ## The encoder -/

/-- Format R. -/
def packR (op : BitVec 6) (d a b : BitVec 7) (fn : BitVec 5) : BitVec 32 := op ++ d ++ a ++ b ++ fn
/-- Format I. -/
def packI (op : BitVec 6) (d a : BitVec 7) (imm : BitVec 12) : BitVec 32 := op ++ d ++ a ++ imm
/-- Major 0x0A. -/
def packS (op : BitVec 6) (d a : BitVec 7) (sel : BitVec 2) (amt : BitVec 6) : BitVec 32 := op ++ d ++ a ++ sel ++ (0 : BitVec 4) ++ amt
/-- Format U. -/
def packU (op : BitVec 6) (d : BitVec 7) (imm : BitVec 19) : BitVec 32 := op ++ d ++ imm
/-- Format M. -/
def packM (op : BitVec 6) (d a : BitVec 7) (sz : BitVec 3) (off : BitVec 9) : BitVec 32 := op ++ d ++ a ++ sz ++ off
/-- Major 0x0F: format M with its offset split into scope and offset. -/
def packA (op : BitVec 6) (d a : BitVec 7) (sz sc : BitVec 3) (off : BitVec 6) : BitVec 32 := op ++ d ++ a ++ sz ++ sc ++ off
/-- Format J. -/
def packJ (op : BitVec 6) (off : BitVec 26) : BitVec 32 := op ++ off
/-- Format V. -/
def packV (op : BitVec 6) (d a b : BitVec 7) (ca cb mk : Bool) (fn : BitVec 2) : BitVec 32 :=
  op ++ d ++ a ++ b ++ BitVec.ofBool ca ++ BitVec.ofBool cb ++ BitVec.ofBool mk ++ fn

/-- The word of an encoded instruction; none for a step of the device, which has no word. -/
def encode : Instr → Option (BitVec 32)
  | .add d a b => some (packR 0x01 d a b 0)
  | .sub d a b => some (packR 0x01 d a b 1)
  | .and d a b => some (packR 0x01 d a b 2)
  | .or d a b => some (packR 0x01 d a b 3)
  | .xor d a b => some (packR 0x01 d a b 4)
  | .andn d a b => some (packR 0x01 d a b 5)
  | .orn d a b => some (packR 0x01 d a b 6)
  | .xnor d a b => some (packR 0x01 d a b 7)
  | .sll d a b => some (packR 0x01 d a b 8)
  | .srl d a b => some (packR 0x01 d a b 9)
  | .sra d a b => some (packR 0x01 d a b 10)
  | .rol d a b => some (packR 0x01 d a b 11)
  | .ror d a b => some (packR 0x01 d a b 12)
  | .slt d a b => some (packR 0x01 d a b 13)
  | .sltu d a b => some (packR 0x01 d a b 14)
  | .seq d a b => some (packR 0x01 d a b 15)
  | .sne d a b => some (packR 0x01 d a b 16)
  | .min d a b => some (packR 0x01 d a b 17)
  | .max d a b => some (packR 0x01 d a b 18)
  | .minu d a b => some (packR 0x01 d a b 19)
  | .maxu d a b => some (packR 0x01 d a b 20)
  | .mul d a b => some (packR 0x02 d a b 0)
  | .mulh d a b => some (packR 0x02 d a b 1)
  | .mulhu d a b => some (packR 0x02 d a b 2)
  | .mulhsu d a b => some (packR 0x02 d a b 3)
  | .div d a b => some (packR 0x02 d a b 4)
  | .divu d a b => some (packR 0x02 d a b 5)
  | .rem d a b => some (packR 0x02 d a b 6)
  | .remu d a b => some (packR 0x02 d a b 7)
  | .clz d a => some (packR 0x03 d a 0 0)
  | .ctz d a => some (packR 0x03 d a 0 1)
  | .popc d a => some (packR 0x03 d a 0 2)
  | .brev d a => some (packR 0x03 d a 0 3)
  | .bswap d a => some (packR 0x03 d a 0 4)
  | .sextb d a => some (packR 0x03 d a 0 5)
  | .sexth d a => some (packR 0x03 d a 0 6)
  | .sextw d a => some (packR 0x03 d a 0 7)
  | .addi d a imm => some (packI 0x04 d a imm)
  | .andi d a imm => some (packI 0x05 d a imm)
  | .ori d a imm => some (packI 0x06 d a imm)
  | .xori d a imm => some (packI 0x07 d a imm)
  | .slti d a imm => some (packI 0x08 d a imm)
  | .sltui d a imm => some (packI 0x09 d a imm)
  | .slli d a amt => some (packS 0x0a d a 0 amt)
  | .srli d a amt => some (packS 0x0a d a 1 amt)
  | .srai d a amt => some (packS 0x0a d a 2 amt)
  | .rori d a amt => some (packS 0x0a d a 3 amt)
  | .lih d imm => some (packU 0x0b d imm)
  | .pcadd d imm => some (packU 0x0c d imm)
  | .ldb d a off => some (packM 0x0d d a 0 off)
  | .ldh d a off => some (packM 0x0d d a 1 off)
  | .ldw d a off => some (packM 0x0d d a 2 off)
  | .ldd d a off => some (packM 0x0d d a 3 off)
  | .ldbu d a off => some (packM 0x0d d a 4 off)
  | .ldhu d a off => some (packM 0x0d d a 5 off)
  | .ldwu d a off => some (packM 0x0d d a 6 off)
  | .stb b a off => some (packM 0x0e b a 0 off)
  | .sth b a off => some (packM 0x0e b a 1 off)
  | .stw b a off => some (packM 0x0e b a 2 off)
  | .std b a off => some (packM 0x0e b a 3 off)
  | .ldab d a sc off => some (packA 0x0f d a 0 sc off)
  | .ldah d a sc off => some (packA 0x0f d a 1 sc off)
  | .ldaw d a sc off => some (packA 0x0f d a 2 sc off)
  | .ldad d a sc off => some (packA 0x0f d a 3 sc off)
  | .stlb b a sc off => some (packA 0x0f b a 4 sc off)
  | .stlh b a sc off => some (packA 0x0f b a 5 sc off)
  | .stlw b a sc off => some (packA 0x0f b a 6 sc off)
  | .stld b a sc off => some (packA 0x0f b a 7 sc off)
  | .amoadd d a b => some (packR 0x10 d a b 0)
  | .amoand d a b => some (packR 0x10 d a b 1)
  | .amoor d a b => some (packR 0x10 d a b 2)
  | .amoxor d a b => some (packR 0x10 d a b 3)
  | .amomin d a b => some (packR 0x10 d a b 4)
  | .amomax d a b => some (packR 0x10 d a b 5)
  | .amominu d a b => some (packR 0x10 d a b 6)
  | .amomaxu d a b => some (packR 0x10 d a b 7)
  | .amoswap d a b => some (packR 0x10 d a b 8)
  | .amocas d a b => some (packR 0x10 d a b 9)
  | .amofadd32 d a b => some (packR 0x10 d a b 10)
  | .amofadd64 d a b => some (packR 0x10 d a b 11)
  | .amoaddO d a b => some (packR 0x10 d a b 16)
  | .amoandO d a b => some (packR 0x10 d a b 17)
  | .amoorO d a b => some (packR 0x10 d a b 18)
  | .amoxorO d a b => some (packR 0x10 d a b 19)
  | .amominO d a b => some (packR 0x10 d a b 20)
  | .amomaxO d a b => some (packR 0x10 d a b 21)
  | .amominuO d a b => some (packR 0x10 d a b 22)
  | .amomaxuO d a b => some (packR 0x10 d a b 23)
  | .amoswapO d a b => some (packR 0x10 d a b 24)
  | .amocasO d a b => some (packR 0x10 d a b 25)
  | .amofadd32O d a b => some (packR 0x10 d a b 26)
  | .amofadd64O d a b => some (packR 0x10 d a b 27)
  | .beq a b off => some (packI 0x11 a b off)
  | .bne a b off => some (packI 0x12 a b off)
  | .blt a b off => some (packI 0x13 a b off)
  | .bge a b off => some (packI 0x14 a b off)
  | .bltu a b off => some (packI 0x15 a b off)
  | .bgeu a b off => some (packI 0x16 a b off)
  | .loopr off => some (packI 0x17 0 0 off)
  | .j off => some (packJ 0x18 off)
  | .call off => some (packJ 0x19 off)
  | .jr d a imm => some (packI 0x1a d a imm)
  | .trap n => some (packR 0x1b 0 0 n 0)
  | .tret => some (packR 0x1b 0 0 0 1)
  | .exit a => some (packR 0x1b 0 a 0 2)
  | .fence n => some (packR 0x1b 0 n 0 3)
  | .winb n => some (packR 0x1b 0 n 0 4)
  | .rcpt d => some (packR 0x1b d 0 0 5)
  | .addrc d a n => some (packR 0x1b d a n 6)
  | .nop => some (packR 0x1b 0 0 0 7)
  | .crd d imm => some (packI 0x1c d 0 imm)
  | .cwr a imm => some (packI 0x1d 0 a imm)
  | .cset a imm => some (packI 0x1e 0 a imm)
  | .cclr a imm => some (packI 0x1f 0 a imm)
  | .illegalInstruction _ => none
  | .vadd d a b ca cb mk => some (packV 0x20 d a b ca cb mk 0)
  | .vsub d a b ca cb mk => some (packV 0x20 d a b ca cb mk 1)
  | .vmul d a b ca cb mk => some (packV 0x20 d a b ca cb mk 2)
  | .vdiv d a b ca cb mk => some (packV 0x20 d a b ca cb mk 3)
  | .vfma d a b ca cb mk => some (packV 0x21 d a b ca cb mk 0)
  | .vfms d a b ca cb mk => some (packV 0x21 d a b ca cb mk 1)
  | .vfnma d a b ca cb mk => some (packV 0x21 d a b ca cb mk 2)
  | .vfnms d a b ca cb mk => some (packV 0x21 d a b ca cb mk 3)
  | .vmin d a b ca cb mk => some (packV 0x22 d a b ca cb mk 0)
  | .vmax d a b ca cb mk => some (packV 0x22 d a b ca cb mk 1)
  | .vabs d a ca mk => some (packV 0x22 d a 0 ca false mk 2)
  | .vneg d a ca mk => some (packV 0x22 d a 0 ca false mk 3)
  | .vsqrt d a ca mk => some (packV 0x23 d a 0 ca false mk 0)
  | .vrsqrt d a ca mk => some (packV 0x23 d a 1 ca false mk 0)
  | .vrecip d a ca mk => some (packV 0x23 d a 0 ca false mk 1)
  | .vexp2 d a ca mk => some (packV 0x23 d a 0 ca false mk 2)
  | .vlog2 d a ca mk => some (packV 0x23 d a 0 ca false mk 3)
  | .vand d a b ca cb mk => some (packV 0x24 d a b ca cb mk 0)
  | .vor d a b ca cb mk => some (packV 0x24 d a b ca cb mk 1)
  | .vxor d a b ca cb mk => some (packV 0x24 d a b ca cb mk 2)
  | .vshift d a b ca cb mk => some (packV 0x24 d a b ca cb mk 3)
  | .vcmpeq d a b ca cb mk => some (packV 0x25 d a b ca cb mk 0)
  | .vcmplt d a b ca cb mk => some (packV 0x25 d a b ca cb mk 1)
  | .vcmple d a b ca cb mk => some (packV 0x25 d a b ca cb mk 2)
  | .vcmpne d a b ca cb mk => some (packV 0x25 d a b ca cb mk 3)
  | .vsel d a b ca cb => some (packV 0x26 d a b ca cb true 0)
  | .vcvt d a ca mk => some (packV 0x26 d a 0 ca false mk 1)
  | .vcode d n => some (packV 0x26 d n 0 false false false 2)
  | .vbcast d a b mk => some (packV 0x26 d a b false false mk 3)
  | .vredsum d a ca mk => some (packV 0x27 d a 0 ca false mk 0)
  | .vredmax d a ca mk => some (packV 0x27 d a 0 ca false mk 1)
  | .vredmin d a ca mk => some (packV 0x27 d a 0 ca false mk 2)
  | .vscan d a ca mk => some (packV 0x27 d a 0 ca false mk 3)
  | .vgathr d a b ca cb mk => some (packV 0x28 d a b ca cb mk 0)
  | .vslide d a b ca mk => some (packV 0x28 d a b ca false mk 1)
  | .vcomp d a b ca => some (packV 0x28 d a b ca false false 2)
  | .vexpd d a b ca => some (packV 0x28 d a b ca false false 3)
  | .vid d a mk => some (packV 0x29 d a 0 false false mk 0)
  | .vrand d a mk => some (packV 0x29 d a 0 false false mk 1)
  | .voffs d a ca => some (packV 0x29 d a 0 ca false false 2)
  | .vlens d a ca => some (packV 0x29 d a 0 ca false false 3)
  | .vadds d a b ca mk => some (packV 0x2a d a b ca false mk 0)
  | .vmuls d a b ca mk => some (packV 0x2a d a b ca false mk 1)
  | .vshls d a b ca mk => some (packV 0x2a d a b ca false mk 2)
  | .vshrs d a b ca mk => some (packV 0x2a d a b ca false mk 3)
  | .vands d a b ca mk => some (packV 0x2b d a b ca false mk 0)
  | .vfmas d a b ca mk => some (packV 0x2b d a b ca false mk 1)
  | .vmaxs d a b ca mk => some (packV 0x2b d a b ca false mk 2)
  | .vmins d a b ca mk => some (packV 0x2b d a b ca false mk 3)
  | .kand d a b => some (packV 0x2c d a b false false false 0)
  | .kor d a b => some (packV 0x2c d a b false false false 1)
  | .kxor d a b => some (packV 0x2c d a b false false false 2)
  | .kcnt d a => some (packV 0x2c d a 0 false false false 3)
  | .knot d a => some (packV 0x2c d a 1 false false false 3)
  | .kfirst d a => some (packV 0x2c d a 2 false false false 3)
  | .setvl d a b => some (packV 0x2d d a b false false false 0)
  | .getvl d => some (packV 0x2d d 0 0 false false false 1)
  | .vframe d => some (packV 0x2d d 0 0 false false false 2)
  | .setmask n => some (packV 0x2d 0 n 0 false false false 3)
  | .vspill d a => some (packV 0x2e d a 0 false false false 0)
  | .vfill d a => some (packV 0x2e d a 0 false false false 1)
  | .vxch d a b ca mk => some (packV 0x2e d a b ca false mk 2)
  | .vappend a b => some (packV 0x2e 0 a b false false false 3)
  | .vld d a mk => some (packV 0x30 d a 0 false false mk 0)
  | .vst d a mk => some (packV 0x30 d a 0 false false mk 1)
  | .vlds d a b mk => some (packV 0x30 d a b false false mk 2)
  | .vsts d a b mk => some (packV 0x30 d a b false false mk 3)
  | .vldc d a => some (packV 0x31 d a 0 false false false 0)
  | .vldcf d a => some (packV 0x31 d a 0 false false false 1)
  | .vstc d a => some (packV 0x31 d a 0 false false false 2)
  | .vpref a b => some (packV 0x31 0 a b false false false 3)
  | .vgth d a b cb mk => some (packV 0x32 d a b false cb mk 0)
  | .vsct d a b cb mk => some (packV 0x32 d a b false cb mk 1)
  | .vgl d a b cb mk => some (packV 0x32 d a b false cb mk 2)
  | .vsc d a b cb => some (packV 0x32 d a b false cb true 3)
  | .vamoadd d a b cb mk => some (packV 0x33 d a b false cb mk 0)
  | .vamomin d a b cb mk => some (packV 0x33 d a b false cb mk 1)
  | .vamomax d a b cb mk => some (packV 0x33 d a b false cb mk 2)
  | .vamoxch d a b cb mk => some (packV 0x33 d a b false cb mk 3)
  | .vamoand d a b cb mk => some (packV 0x34 d a b false cb mk 0)
  | .vamoor d a b cb mk => some (packV 0x34 d a b false cb mk 1)
  | .vamoxor d a b cb mk => some (packV 0x34 d a b false cb mk 2)
  | .vamoo d a b cb mk => some (packV 0x34 d a b false cb mk 3)
  | .cmdb d a ca mk => some (packV 0x35 d a 0 ca false mk 0)
  | .cwait a b => some (packV 0x35 0 a b false false false 1)
  | .ctok d a => some (packV 0x35 d a 0 false false false 2)
  | .scbq d a b => some (packV 0x35 d a b false false false 3)
  | .bar n => some (packV 0x36 0 n 0 false false false 0)
  | .bara n => some (packV 0x36 0 n 0 false false false 1)
  | .barw n => some (packV 0x36 0 n 0 false false false 2)
  | .bari n b => some (packV 0x36 0 n b false false false 3)
  | .acq n => some (packV 0x37 0 n 0 false false false 0)
  | .rel n => some (packV 0x37 0 n 0 false false false 1)
  | .cflush a b => some (packV 0x37 0 a b false false false 2)
  | .cinv a b => some (packV 0x37 0 a b false false false 3)
  | .tshape d a => some (packV 0x38 d a 0 false false false 0)
  | .tzero d => some (packV 0x38 d 0 0 false false false 1)
  | .tmma d a b => some (packV 0x38 d a b false false false 2)
  | .tlru d a b ca cb => some (packV 0x38 d a b ca cb false 3)
  | .tmmal d a b => some (packV 0x39 d a b false false false 0)
  | .tadd d a => some (packV 0x39 d a 0 false false false 1)
  | .trecomp d => some (packV 0x39 d 0 0 false false false 2)
  | .tdense d a => some (packV 0x39 d a 0 false false false 3)
  | .trank d a => some (packV 0x3a d a 0 false false false 0)
  | .tscale a => some (packV 0x3a 0 a 0 false false false 1)
  | .tdup d a => some (packV 0x3a d a 0 false false false 2)
  | .tcvt d a => some (packV 0x3a d a 0 false false false 3)
  | .ewin a b => some (packV 0x3c 0 a b false false false 0)
  | .ersv a b ca mk => some (packV 0x3c 0 a b ca false mk 1)
  | .echk d a b ca mk => some (packV 0x3c d a b ca false mk 2)
  | .eadv a b => some (packV 0x3c 0 a b false false false 3)
  | .issueSlot _ _ _ => none
  | .levelBarrierRelease _ _ _ => none
  | .copy _ _ => none
  | .fill _ _ => none
  | .scales _ _ => none
  | .convert _ _ => none
  | .hostCopy _ _ => none
  | .exchFill _ _ => none
  | .reduce _ => none
  | .search _ => none
  | .listRequest _ _ _ => none
  | .distanceRequest _ _ _ => none
  | .answer _ _ _ => none
  | .engineCompletion _ => none
  | .orderedAtomicArrival _ => none
  | .orderedAtomicApply _ _ _ => none
  | .dirtyFifoDrain _ => none
  | .l1Writeback _ _ => none
  | .relayout _ _ _ _ _ => none
  | .stalledWriteResume _ _ _ => none
  | .patrolScrub _ _ _ => none
  | .pageMigration _ _ _ _ => none
  | .trefiExpiry _ _ => none
  | .refresh _ _ => none
  | .selfRefreshEntry _ _ => none
  | .selfRefreshExit _ _ => none
  | .pchRetrain _ _ _ => none
  | .preemption _ => none
  | .restore _ => none
  | .clusterDrain _ _ _ => none
  | .clusterRetire _ _ _ => none
  | .lgenWrite _ _ => none
  | .trootWrite _ _ => none
  | .tlbinvAll _ => none
  | .tlbinvRange _ _ => none
  | .gAppend _ _ => none
  | .kernel _ _ _ _ => none
  | .copyNode _ _ => none
  | .convertNode _ _ => none
  | .reduceNode _ _ => none
  | .hostCopyNode _ _ => none
  | .searchBatch _ _ => none
  | .compress _ _ => none
  | .decompress _ _ => none
  | .signal _ _ => none
  | .wait _ _ => none
  | .join _ _ => none
  | .nodeEnd _ _ => none
  | .hostWrite _ _ _ => none
  | .fabricRequest _ _ _ _ => none
  | .flit _ _ => none
  | .flitReplay _ _ => none
  | .heartbeat _ => none
  | .heartbeatTimeout _ => none
  | .fatalErrorFlit _ => none
  | .devFail _ => none
  | .linkRecalibration _ _ => none
  | .create _ => none
  | .resize _ => none
  | .destroy _ => none
  | .release _ => none
  | .resumeStrand _ _ => none
  | .kill _ _ => none
  | .fwLoad _ => none
  | .fwSwitch _ _ => none
  | .chrExp => none
  | .getCertificate _ => none
  | .challenge _ _ => none
  | .getMeasurements _ => none
  | .srtBaseWrite _ _ => none
  | .debugRead _ _ _ => none
  | .registerWrite _ _ => none
  | .thermalThrottle => none
  | .fatalShutdown => none
  | .powerUp => none
  | .coldReset => none
  | .warmReset => none
  | .fqHeadWrite _ _ => none
  | .hostRead _ _ _ => none
  | .pcieCompletion _ => none
  | .hot _ _ => none
  | .cont => none
  | .killedByTheHost _ _ => none

end Sys2Proof
end

