-- ==== Sys2Proof/Machine/Engines.lean ====
section
/-! DEFINITION. Engine accesses and the copy engines: COPY, FILL, SCALES, CONVERT, EXCHFILL and HOSTCOPY (R227 to R233, R304, R355, R406), how
a command stops (R232, R434) and how it completes (R229). An event performs one whole command, or as much of it as a fault allows. -/

namespace Sys2Proof.Machine

/-! ## Stops of a command -/

/-- How an engine's work ends before its last byte. -/
inductive EngStop where
  /-- A translation, protection or partition fault (R232). -/
  | fault (cause sub acc va : Nat)
  /-- The command stops for good and owes its issuer a trap (R434). -/
  | owe (cause sub : Nat) (addr : Word)
  /-- A locked page or a frozen VF holds it up (R294, R421). -/
  | wait
  deriving DecidableEq, Repr

/-- An engine's work: effects before a stop stand. -/
abbrev E := EStateM EngStop State

/-- A waiting BAR's own arrival is withdrawn (R434). -/
def State.withdraw (s : State) (t : Strand) (bar : Nat) : State :=
  match decodeWord t.word with
  | .ok (.bar _) =>
    let b := s.barrier (coreOf t.place) bar (s.ownerOf t bar)
    (s.setBarrier { b with arr := b.arr - 1 }).updateAt t.place fun u => { u with arrivals := u.arrivals.filter (· ≠ bar) }
  | _ => s

/-- The strand waits in an instruction that waits on the command's completion, or was suspended there (R434). -/
def Strand.waitsOn (t : Strand) (c : Cmd) : Bool :=
  match t.run with
  | .waitBar b | .waitPend b => c.ck = 0 && c.ca = b
  | .waitFree b => c.ck = 0 && c.ca = b && (match decodeWord t.word with | .ok (.bar _) => true | _ => false)
  | .waitWord _ _ _ => c.ck = 2 && (match decodeWord t.word with | .ok (.cwait a _) => (t.reg a).val.toNat = c.dword 56 | _ => false)
  | .suspended _ | .frozen _ => c.ck = 0 && t.barHeld = some c.ca
  | _ => false

/-- A command owes the strand a trap that the wait it stands in takes (R434). -/
def State.owedTo (s : State) (t : Strand) : Bool :=
  s.cmds.any fun c => c.place = t.place && c.launch = t.launch && c.node.isNone && t.waitsOn c &&
    (match c.phase with | .owes _ _ _ => true | _ => false)

/-- The wait of a strand on a stopped command ends: a waiting BAR's arrival is withdrawn, and the strand stands before its instruction (R434). -/
def State.endWait (s : State) (t : Strand) (bar : Nat) : State :=
  let s1 := match t.run with
    | .waitBar _ | .suspended _ | .frozen _ => s.withdraw t bar
    | _ => s
  s1.updateAt t.place fun u =>
    { u with barHeld := none, run := match u.run with | .suspended n => .suspended n | .frozen n => .frozen n | _ => .ready }

/-- A command stops and owes its issuer a trap (R434). The wait of an issuer in an instruction that waits on the command ends, and it takes the trap
there at once; one that is saved or suspended takes it when it executes the instruction again. A node's command ends its node. -/
def State.stopOwing (s : State) (c : Cmd) (cause sub : Nat) (addr : Word) : State :=
  match c.node with
  | some _ => (s.stopCmd c .dropped).markNode c.part c.node 2 4
  | none =>
    match (s.strandAt c.place).filter fun t => t.launch = c.launch && t.waitsOn c with
    | none => s.stopCmd c (.owes cause sub addr)
    | some t =>
      let s1 := s.endWait t c.ca
      if t.saved.isSome || (match t.run with | .suspended _ | .frozen _ => true | _ => false) then s1.stopCmd c (.owes cause sub addr)
      else (s1.stopCmd c .dropped).actAs c.place fun u => u.takeTrap true u.strand.pc (owedTrap cause sub addr)

/-- Word 0 of an engine's record: its queue's number, and its die or stack (R419). -/
def queueWord (q : Nat) : Word :=
  if q < 16 then BitVec.ofNat 64 (q % 4 + q / 4 * 256)
  else if q < 24 then BitVec.ofNat 64 (q - 16 + (q - 16) * 256)
  else BitVec.ofNat 64 (q - 24 + (q - 24) * 256)

/-- What a stop leaves: a record and a stopped command, with a frozen queue after a partition violation (R232, R305, R421), or an owed
trap. -/
def State.engineStop (s : State) (id : Nat) (x : EngStop) : State :=
  match s.cmd? id with
  | none => s
  | some c =>
    match x with
    | .wait => s
    | .owe cause sub addr => s.stopOwing c cause sub addr
    | .fault cause sub acc va =>
      if cause = 0x20 then
        let (s1, seq) := s.postRecord c.part 7 [1, BitVec.ofNat 64 va] none (some id)
        ({ s1 with frozenQ := setInsert c.queue s1.frozenQ }).updateCmd id fun c => { c with phase := .faulted seq, whole := c.phase = CmdPhase.performed }
      else
        let (s1, seq) := s.postRecord c.part 1
          [queueWord c.queue, BitVec.ofNat 64 va, BitVec.ofNat 64 (sub * 2 ^ 16 + 2 ^ 14 + acc * 2 ^ 10 + cause), c.addr] none (some id)
        s1.updateCmd id fun c => { c with phase := .faulted seq, whole := c.phase = CmdPhase.performed }

/-! ## Accesses -/

/-- The strand that an engine access counts as: the issuer (R232). -/
def State.actor (s : State) (c : Cmd) : Strand :=
  let levels := match s.launch? c.launch with | some l => l.levels | none => []
  { Strand.reset with
    place := c.place, part := c.part, launch := c.launch, flat := c.flat,
    st := { span := false, rgp := false, tr := false, d := c.det && c.node.isNone, m := c.sup, tarn := false },
    lvcnt := Vector.ofFn fun i : Fin 8 => levels.getD i.val 1 }

/-- Translate an engine's address as its issuer's would be, or check a physical one (R230, R415). -/
def State.engineXlate (s : State) (c : Cmd) (phys : Bool) (va : Nat) (a : Access) : State × Except XFault Xl :=
  if phys then
    (s, if 2 ^ 48 ≤ va then .error { cause := 0x20, sub := 0 }
        else (s.leafCheck { part := c.part, sup := true, place := c.place } 0x3C va a).map fun k => { key := k, unc := true })
  else if 2 ^ 52 ≤ va then (s, .error { cause := 0x10, sub := 7 })
  else s.translate { part := c.part, sup := c.sup, place := c.place } va a

/-- Reach a byte: its key, or the stop. The issuer's stores to the line that still wait go first (R40 note 1, R360 note 3); a sector of HBM that is read
has its CRC checked (R347). -/
def engineReach (c : Cmd) (phys : Bool) (va : Nat) (a : Access) : E Xl := do
  let s ← get
  match s.engineXlate c phys va a with
  | (s1, .error f) => do set s1; throw (.fault f.cause f.sub a.acc va)
  | (s1, .ok x) => do
    if s1.locked.contains (x.key / 4096) || (regionOf x.key = Region.host && s1.vfStopped c.part) || (a = .write && s1.regWaits x.key (64 - x.key % 64)) then throw .wait
    if s1.drainBlocked (coreOf c.place) && ((s1.core (coreOf c.place)).fifo.any fun e => lineOf e.key = lineOf x.key) then throw .wait
    set ((s1.drainLine (coreOf c.place) (lineOf x.key) (s1.core (coreOf c.place)).fifo.length).reachHbm x.key (a = .write))
    return x

/-- An engine reads where an unobserved write of another command stands: in a granule that a command of another queue writes (R313), or, of two queries
of one search queue, in the bytes themselves (R377, R392). The commands of one copy queue follow each other (R232; log 30). -/
def State.engineMeets (s : State) (c : Cmd) (t : Strand) (va : Option Nat) (k n : Nat) : Bool :=
  ({ s with cmds := s.cmds.filter (·.queue ≠ c.queue) }).openWrite t va k n [] ||
    (decide (24 ≤ c.queue) && s.cmds.any fun o =>
      decide (o.queue = c.queue ∧ o.id ≠ c.id ∧ o.launch = c.launch) && o.node.isNone && !o.seenBy.contains o.flat && s.destSpans o va k n ≠ [])

/-- `assay_check` of an engine's read in a D context. A write is checked and recorded when it is observed (R232, R312, R313; log 30). -/
def State.engineAssay (s : State) (c : Cmd) (va : Option Nat) (k n : Nat) : Except Nat State :=
  if !c.det || c.node.isSome then .ok s
  else
    let t := s.actor c
    if s.engineMeets c t va k n then .error 2
    else
      let p := s.phasesOf t.launch t.levels t.flat
      let tag := s.assayTag t.launch (k / 256)
      (tag.read t.levels t.flat p .plain true).map s.setAssay

/-- A D context's engine access stalls while the slice has no room for the granule's tag, with a record (R311). -/
def engineTagRoom (c : Cmd) (k : Nat) : E Unit := do
  let s ← get
  if s.noTagRoom (s.actor c) k then
    set (s.tagStall c.part (k / 256))
    throw .wait

/-- The assay rule of an engine's read at a key: by its virtual address too, unless that is physical (R313, R317). -/
def engineAssayCheck (c : Cmd) (phys : Bool) (va k n : Nat) : E Unit := do
  match (← get).engineAssay c (if phys then none else some va) k n with
  | .error sub => throw (.owe 0x09 sub (BitVec.ofNat 64 va))
  | .ok s =>
    engineTagRoom c k
    set s

/-- One kind-8 record for the first poisoned source byte of a command (R232, R361, R373). -/
def State.notePoison (s : State) (id va : Nat) : State :=
  match s.cmd? id with
  | some c =>
    if c.noted then s
    else ((s.postRecord c.part 8 [0, BitVec.ofNat 64 va, 0x0B] none none).1).updateCmd id fun c => { c with noted := true }
  | none => s

/-- Read bytes of one line: each with the line's tarnish and poison. -/
def engineRead (c : Cmd) (phys : Bool) (va n : Nat) : E (List (Byte × Bool × Bool)) := do
  let x ← engineReach c phys va .read
  if (regionOf x.key).isCtl then
    let s ← get
    return (List.range n).map fun i => (s.regByte (x.key + i), false, false)
  engineAssayCheck c phys va x.key n
  let s ← get
  let bad := fun (k : Nat) => s.poison.contains (lineOf k) || (s.badWord .read k 1).isSome
  modify fun s => if (List.range n).any fun i => bad (x.key + i) then s.notePoison c.id va else s
  modify fun s => if (s.badWord .read x.key n).isSome then s.badRead (dieOf c.place) c.part va x.key n else s
  let s ← get
  return (List.range n).map fun i => (Mem.read s.mem (x.key + i), s.tarn.contains (lineOf x.key), bad (x.key + i))

/-- What commands that race with a command have written of the bytes (R233): of two racing ones the later had been accepted before the earlier was
observed, whichever of them writes first. -/
def State.rivals (s : State) (c : Cmd) (k n : Nat) : List (Nat × Nat) :=
  (s.cmds.filter fun o => c.racing.contains o.id || o.racing.contains c.id).flatMap
    fun o => o.wrote.filter fun w => decide (w.1 < k + n) && decide (k < w.1 + w.2)

/-- Bytes that two commands write: each ends with one command's value, a free choice (R233, log 6). -/
def mergeBytes (rivals : List (Nat × Nat)) (old : List Byte) (k f : Nat) (bs : List Byte) : List Byte :=
  (List.range bs.length).map fun i =>
    if (rivals.any fun w => decide (w.1 ≤ k + i) && decide (k + i < w.1 + w.2)) && Config.pick (f + i) % 2 = 1 then old.getD i 0
    else bs.getD i 0

/-- A launch's TARN records a tarnished write into clean ranges: its strand's, or, when that has ended, what the launch has added up (R317, R318). -/
def State.recordEngine (s : State) (c : Cmd) (hits : List Nat) : State :=
  if (s.strandAt c.place).any fun t => t.launch = c.launch then s.updateAt c.place fun u => u.recordClean hits
  else
    { s with launches := s.launches.map fun l =>
        if l.id = c.launch then { l with tarns := addTarn l.tarns (Strand.reset.recordClean hits).ctl.tarnr.val } else l }

/-- The clean-range policy for an engine's tarnished write (R317): it stops the command, or TARN records it. The ranges are the launch's, and stand
with each of its strands. -/
def engineClean (c : Cmd) (va n : Nat) : E Unit := do
  let s ← get
  match s.strands.find? fun t => t.launch = c.launch && t.run ≠ .vacant with
  | none => return ()
  | some t =>
    let hits := cleanHit t.clean va n
    if hits ≠ [] && t.trapPolicy then throw (.owe 0x08 0 (BitVec.ofNat 64 va))
    set (s.recordEngine c hits)

/-- Scale memory carries one tarnish bit a 256-byte granule (R256): a SCALES that covers the granule sets it to the data's, with the
granule's first byte, and its other pieces, like any other SCALES, add to it. -/
def State.scaleTarn (s old : State) (c : Cmd) (k : Nat) (t : Bool) : State :=
  let first := k / 256 * 4
  let lines := (List.range 4).map (first + ·)
  let whole := decide (c.dest.2.1 ≤ k / 256 * 256) && decide (k / 256 * 256 + 256 ≤ c.dest.2.1 + c.dest.2.2)
  let b := t || (!(whole && decide (k % 256 = 0)) && lines.any old.tarn.contains)
  { s with tarn := lines.foldl (fun l i => setPut i b l) s.tarn }

/-- The command writes the whole 256-byte block of a destination byte, so that nothing of the block is needed before (R296). -/
def Cmd.wholeBlock (c : Cmd) (va k : Nat) : Bool :=
  let a := (if c.dest.1 then k else va) / 256 * 256
  decide (c.dest.2.1 ≤ a) && decide (a + 256 ≤ c.dest.2.1 + c.dest.2.2)

/-- Write bytes of one line at a key. A write to part of a block whose metadata is lost is not performed (R296). `va` is their address; with `phys`, and in scale memory, no clean range is touched (R317). -/
def engineWriteAt (c : Cmd) (phys : Bool) (va k : Nat) (data : List (Byte × Bool × Bool)) : E Unit := do
  let bs := data.map (·.1)
  let n := bs.length
  if (regionOf k).isCtl then modify fun s => s.regStore k bs
  else if (← get).metaGone k && !c.wholeBlock va k then modify fun s => s.loseBlock k
  else
    let s ← get
    let rivals := s.rivals c k n
    match rivals with
    | w :: _ => if c.det && c.node.isNone then throw (.owe 0x09 1 (BitVec.ofNat 64 (va + (w.1 - k))))
    | [] => pure ()
    engineTagRoom c k
    let t := c.tarn || rivals ≠ [] || data.any (·.2.1)
    if t && !phys && c.op ≠ 3 && c.node.isNone then engineClean c va n
    modify fun s =>
      let s1 := { s with fresh := if rivals = [] then s.fresh else s.fresh + n }
      let s2 := s1.engineStore (if c.det && c.node.isNone then some c.launch else none) k (mergeBytes rivals (Mem.bytes s.mem k n) k s.fresh bs) t
        (data.any (·.2.2))
      if c.op = 3 then s2.scaleTarn s c k t else s2

/-- Bytes up to the end of a line. -/
def lineRoom (a : Nat) : Nat := 64 - a % 64

/-! ## Reading the source -/

/-- Source bytes of a command whose source has a known length (R230). -/
def Cmd.sourceLen (c : Cmd) : Nat := if c.op = 2 then 0 else c.dword 24

/-- Read the source from where it has been read to. -/
def readSource (id : Nat) : Nat → E Unit
  | 0 => return ()
  | fuel + 1 => do
    match (← get).cmd? id with
    | none => return ()
    | some c =>
      if c.sourceLen ≤ c.snap.length then return ()
      let a := (c.dword 8 + c.snap.length) % 2 ^ 64
      let bs ← engineRead c c.phys a (min (lineRoom a) (c.sourceLen - c.snap.length))
      modify fun s => s.updateCmd id fun c => { c with snap := c.snap ++ bs }
      readSource id fuel

/-! ## CONVERT (R54, R230) -/

/-- The bit at which the `n`-th code from `off` on ends, when so many lie below the fill. -/
def Code.endOf (c : Code) (s fill : Nat) : Nat → Nat → Option Nat
  | 0, off => some off
  | n + 1, off => match c.lenAt s fill off with | some l => c.endOf s fill n (off + l) | none => none

/-- Bits from the start of the first source byte to the end of the last source code, when they have been read. Blocks in memory are whole (R49). -/
def sourceEnd (c : Code) (s fill start count : Nat) : Option Nat :=
  let fixed : Option Nat :=
    if c.isBlock then some (start + (count + 31) / 32 * c.blockBits 32)
    else if c.isFixed then some (start + count * c.fixedBits)
    else none
  match fixed with
  | some e => if e ≤ fill then some e else none
  | none => c.endOf s fill count start

/-- Read source bytes one by one until every element is in. -/
def readCodes (id : Nat) : Nat → E Unit
  | 0 => return ()
  | fuel + 1 => do
    match (← get).cmd? id with
    | none => return ()
    | some c =>
      let start := 4 * (c.dword 8 % 2)
      if (sourceEnd c.srcCode c.snapBits (8 * c.snap.length) start (c.dword 24)).isSome then return ()
      let bs ← engineRead c c.phys ((c.dword 8 / 2 + c.snap.length) % 2 ^ 64) 1
      modify fun s => s.updateCmd id fun c => { c with snap := c.snap ++ bs }
      readCodes id fuel

/-- A byte of the destination: its quanta, low nibble first, where a quantum that is not written keeps the byte's old one. -/
def convertByte (na : Nat) (qs : List (Nat × Bool × Bool)) (o : Nat) (old : Byte) : Byte × Bool × Bool :=
  let lo := if na % 2 = 0 then qs[2 * o]? else if o = 0 then none else qs[2 * o - 1]?
  let hi := if na % 2 = 0 then qs[2 * o + 1]? else qs[2 * o]?
  let v := (match lo with | some q => q.1 | none => old.toNat % 16) + 16 * (match hi with | some q => q.1 | none => old.toNat / 16)
  let any := fun (f : Nat × Bool × Bool → Bool) => lo.any f || hi.any f
  (BitVec.ofNat 8 v, any (·.2.1), any (·.2.2))

/-! ## Writing the destination -/

/-- Destination bytes of a transfer. -/
def Cmd.destLen (c : Cmd) : Nat := c.dest.2.2

/-- The destination's first address: a byte address, of the engine's own address space for SCALES (R256). -/
def Cmd.destAt (c : Cmd) : Nat := if c.op = 4 then c.dword 16 / 2 else c.dword 16

/-- `n` destination bytes from an offset. -/
def Cmd.image (c : Cmd) (qs : List (Nat × Bool × Bool)) (o : Nat) (old : List Byte) : List (Byte × Bool × Bool) :=
  (List.range old.length).map fun i =>
    if c.op = 2 then (BitVec.ofNat 8 (c.byte (32 + (o + i) % 8)), false, false)
    else if c.op = 4 then convertByte (c.dword 16) qs (o + i) (old.getD i 0)
    else
      let x := c.snap.getD (c.sourceOf (o + i)) (0, false, false)
      if c.op = 3 then (x.1, false, x.2.2) else x

/-- Reach the destination byte: scale memory of the issuer's core has no address (R256). -/
def engineDest (c : Cmd) (va : Nat) : E Xl :=
  if c.op = 3 then return { key := scaleKey (coreOf c.place) va, unc := true } else engineReach c c.phys va .write

/-- Write the destination from where it has been written to. -/
def writeDest (id total : Nat) (qs : List (Nat × Bool × Bool)) : Nat → E Unit
  | 0 => return ()
  | fuel + 1 => do
    match (← get).cmd? id with
    | none => return ()
    | some c =>
      if total ≤ c.done then return ()
      let a := (c.destAt + c.done) % 2 ^ 64
      let n := min (lineRoom a) (total - c.done)
      let x ← engineDest c a
      engineWriteAt c c.phys a x.key (c.image qs c.done (Mem.bytes (← get).mem x.key n))
      modify fun s => s.updateCmd id fun c => { c with done := c.done + n, wrote := c.wrote ++ [(x.key, n)] }
      writeDest id total qs fuel

/-! ## The commands -/

/-- COPY, FILL, SCALES and EXCHFILL (R230, R355). -/
def performCopy (c : Cmd) : E CmdPhase := do
  readSource c.id c.sourceLen
  writeDest c.id (c.dword 24) [] (c.dword 24)
  return .performed

/-- CONVERT (R54, R230). -/
def performConvert (c : Cmd) : E CmdPhase := do
  readCodes c.id (17 * c.dword 24 * 64 + 1)
  match (← get).cmd? c.id with
  | none => return .performed
  | some c =>
    let qs := c.convertOut
    let n := nibbleBytes (c.dword 16) qs.length
    writeDest c.id n qs n
    return .performed

/-- A key lies in the host window. -/
def isHost (k : Nat) : Bool := regionOf k = .host

/-- The link test of R406 for a host-side address. -/
def linkOk (c : Cmd) (k : Nat) : Bool := c.dword 32 = 0 || c.dword 32 = k / 2 ^ 46 % 2 + 1

/-- A HOSTCOPY keeps to the link of its first host byte, as if it had asked for it (R406). -/
def Cmd.onLink (c : Cmd) (k : Nat) : Cmd :=
  if c.dword 32 = 0 then { c with bits := c.bits + (k / 2 ^ 46 % 2 + 1) * 2 ^ 256 } else c

/-- What HOSTCOPY's engine finds malformed (R406). -/
def hostBad (c : Cmd) : EngStop := .owe 0x21 2 (BitVec.ofNat 64 (c.dword 8))

/-- The first bytes of SRC and DST: exactly one lies at the host, on the link asked for (R406). It answers whether SRC does. -/
def hostSides (c : Cmd) : E Bool := do
  let x ← engineReach c c.phys (c.dword 8) .read
  let y ← engineReach c c.phys (c.dword 16) .write
  if isHost x.key = isHost y.key then throw (hostBad c)
  let k := if isHost x.key then x.key else y.key
  if !linkOk c k then throw (hostBad c)
  modify fun s => s.updateCmd c.id (Cmd.onLink · k)
  return isHost x.key

/-- Move the bytes of a HOSTCOPY from where it has come to, each page of both sides tested as the engine reaches it, and the host side's against the one
link that the command uses (R406). -/
def moveHost (id : Nat) (host : Bool) : Nat → E Unit
  | 0 => return ()
  | fuel + 1 => do
    match (← get).cmd? id with
    | none => return ()
    | some c =>
      if c.dword 24 ≤ c.done then return ()
      let a := (c.dword 8 + c.done) % 2 ^ 64
      let b := (c.dword 16 + c.done) % 2 ^ 64
      let n := min (lineRoom a) (min (lineRoom b) (c.dword 24 - c.done))
      let x ← engineReach c c.phys a .read
      if isHost x.key ≠ host then throw (hostBad c)
      let y ← engineReach c c.phys b .write
      if isHost y.key = host || !linkOk c (if host then x.key else y.key) then throw (hostBad c)
      let bs ← engineRead c c.phys a n
      engineWriteAt c c.phys b y.key bs
      modify fun s => s.updateCmd id fun c => { c with snap := c.snap ++ bs, done := c.done + n, wrote := c.wrote ++ [(y.key, n)] }
      moveHost id host fuel

/-- HOSTCOPY as it starts (R406): its checks, and the posted writes of a transfer to the host. What it then waits for from the host arrives in
PCIE_COMPLETION. -/
def performHostCopy (c : Cmd) : E CmdPhase := do
  if c.dword 24 = 0 && c.phys then return .awaitHost
  let fromHost ← hostSides c
  if fromHost then return .awaitHost
  moveHost c.id false (c.dword 24)
  return .awaitHost

/-- What a completion from the host brings: the bytes read are written to the device, or the zero-length read ends (R406). -/
def performCompletion (c : Cmd) : E CmdPhase := do
  if c.done < c.dword 24 then moveHost c.id true (c.dword 24)
  return .performed

/-! ## Events -/

/-- The earliest command of a queue that waits to be worked on. -/
def State.nextQueued (s : State) (queue : Nat) : Option Cmd := s.cmds.find? fun c => c.queue = queue && c.phase = .queued

/-- Ranges overlap, or their address spaces differ so that it cannot be told. -/
def rangesMeet (p : Bool) (a n : Nat) (q : Bool) (b m : Nat) : Bool :=
  if p = q then decide (a < b + m) && decide (b < a + n) else decide (n ≠ 0 ∧ m ≠ 0)

/-- Source bytes that a command may read: for a CONVERT as many as its codes can take (R230, R304). -/
def Cmd.sourceSpan (c : Cmd) : Nat × Nat :=
  if c.op = 2 then (c.dword 8, 0) else if c.op = 4 then (c.dword 8 / 2, c.srcCode.maxBytes (c.dword 24)) else (c.dword 8, c.dword 24)

/-- A command may start: at most four at once, and none in progress whose ranges meet its own (R304). -/
def State.mayStart (s : State) (c : Cmd) : Bool :=
  let busy := s.cmds.filter fun o => o.queue = c.queue && o.id ≠ c.id && (match o.phase with | .faulted _ | .awaitHost => true | _ => false)
  decide (busy.length < 4) && busy.all fun o =>
    !rangesMeet c.dest.1 c.dest.2.1 c.dest.2.2 o.dest.1 o.dest.2.1 o.dest.2.2 &&
    !rangesMeet c.phys c.sourceSpan.1 c.sourceSpan.2 o.dest.1 o.dest.2.1 o.dest.2.2

/-- What a command has written since it had landed `before` bytes leaves PEND of its barrier (R167, R229). -/
def State.fallPend (s : State) (id before : Nat) : State :=
  match s.cmd? id with
  | some c => if c.ck = 0 && c.node.isNone && decide (before < c.landed) then s.lowerPend c (c.landed - before) else s
  | none => s

/-- Let an engine's work run on a command and set the phase it ends in. -/
def State.work (s : State) (c : Cmd) (m : Cmd → E CmdPhase) : State :=
  match m c s with
  | .ok ph s1 => (s1.updateCmd c.id fun x => { x with phase := ph }).fallPend c.id c.landed
  | .error x s1 => (s1.fallPend c.id c.landed).engineStop c.id x

/-- The failures of a unit have been met. -/
def State.clearUpset (s : State) (unit : Nat) : State := { s with upsets := s.upsets.filter (·.1 ≠ unit) }

/-- The base-die engine of a queue works on a command. One residue failure makes it run the command again, which nothing shows; a second one of the
command, whichever engine meets it, stops it with MACHINE_CHECK owed (R361, R373). -/
def State.workOn (s : State) (queue : Nat) (c : Cmd) (m : Cmd → E CmdPhase) : State :=
  let n := c.fails + s.upsetOf (1024 + queue)
  let s1 := (s.clearUpset (1024 + queue)).updateCmd c.id fun x => { x with fails := n }
  if 2 ≤ n then (s1.chronicle (2 ^ 14 + queue % 8) c.part 0x18 0 0).stopOwing c 0x18 0 0 else s1.work c m

/-- The engine of a command's own queue works on it. -/
def State.workChecked (s : State) (c : Cmd) (m : Cmd → E CmdPhase) : State := s.workOn c.queue c m

/-- One event of a copy engine: its next command, if it is of this kind. -/
def State.copyEvent (s : State) (die eng op : Nat) (m : Cmd → E CmdPhase) : State :=
  let q := 4 * die + eng
  if 4 ≤ die || 4 ≤ eng || s.frozenQ.contains q then s
  else
    match s.nextQueued q with
    | some c => if c.op = op && s.mayStart c then s.work c m else s
    | none => s

/-- COPY (R230). -/
def execCopy (die eng : Nat) (s : State) : Host.Outcome State Fault Refusal := .next (s.copyEvent die eng 1 performCopy)

/-- FILL (R230). -/
def execFill (die eng : Nat) (s : State) : Host.Outcome State Fault Refusal := .next (s.copyEvent die eng 2 performCopy)

/-- SCALES (R230, R256). -/
def execScales (die eng : Nat) (s : State) : Host.Outcome State Fault Refusal := .next (s.copyEvent die eng 3 performCopy)

/-- CONVERT (R54, R230). -/
def execConvert (die eng : Nat) (s : State) : Host.Outcome State Fault Refusal := .next (s.copyEvent die eng 4 performConvert)

/-- HOSTCOPY (R406). -/
def execHostCopy (die eng : Nat) (s : State) : Host.Outcome State Fault Refusal := .next (s.copyEvent die eng 5 performHostCopy)

/-- EXCHFILL (R355). -/
def execExchFill (die eng : Nat) (s : State) : Host.Outcome State Fault Refusal := .next (s.copyEvent die eng 8 performCopy)

/-- PCIE_COMPLETION (R406): completions for a command's host traffic have arrived. -/
def execPcieCompletion (cmd : Nat) (s : State) : Host.Outcome State Fault Refusal :=
  match s.cmd? cmd with
  | some c => .next (if c.phase = .awaitHost && !s.frozenQ.contains c.queue then s.work c performCompletion else s)
  | none => .next s

/-! ## Completion (R229, R232) -/

/-- Every earlier command of a queue that signals in queue order has signalled or stopped for good. -/
def State.inOrder (s : State) (c : Cmd) : Bool :=
  decide (24 ≤ c.queue) || s.cmds.all fun o =>
    !(o.queue = c.queue && decide (o.id < c.id)) || (match o.phase with | .signalled | .owes _ _ _ | .dropped => true | _ => false)

/-- The token's write: TOKVAL as one 8-byte release (R229). That of a command with PHYS = 1 is never checked against clean ranges (R317). -/
def writeToken (c : Cmd) : E Unit := do
  let va := c.dword 56
  let x ← engineReach c false va .write
  engineWriteAt c c.phys va x.key ((leBytes 8 (c.dword 48)).map fun b => (b, false, false))
  modify fun s =>
    { s with stored := s.stored.filter (fun w => w ≠ (c.launch, x.key / 8)),
             cmds := s.cmds.map fun o => if o.id = c.id then { o with tokKey := some x.key } else o }

/-- A SEARCHBATCH ends when it has issued all its commands and every one has signalled (R401). -/
def State.batchDone (s : State) (part : Nat) (node : Option Nat) : State :=
  match node.bind (s.node? part) with
  | none => s
  | some n =>
    if n.issued = n.body 8 4 && (s.cmds.all fun c => !(c.part = part && c.node = node) || c.phase = .signalled) then s.markNode part node 1 0
    else s

/-- The command has signalled: its scoreboard entry and its search context are free, and a node of one command ends (R166, R362, R401). -/
def State.signalled (s : State) (c : Cmd) : State :=
  let s0 := { s.updateCmd c.id fun x => { x with phase := .signalled } with queries := s.queries.filter (·.cmd ≠ c.id) }
  let k := s0.core (coreOf c.place)
  let s1 := if k.score.any (·.cmd = c.id) then s0.setCore { k with score := k.score.filter (·.cmd ≠ c.id) } else s0
  if c.node.isNone then s1 else if c.op = 7 then s1.batchDone c.part c.node else s1.markNode c.part c.node 1 0

/-- The completion of a command whose every byte is performed (R229): its token is written, or the bits of its last chunk become 1; its bytes have left
PEND as they were written. A command whose token cannot be written yet has not signalled (R372). Of the nodes' commands only a SEARCHBATCH's write
tokens (R401). -/
def State.complete (s : State) (c : Cmd) : State :=
  if c.ck = 2 && (c.node.isNone || c.op = 7) then
    match writeToken c s with
    | .ok _ s1 => s1.signalled c
    | .error x s1 => s1.engineStop c.id x
  else if c.ck = 1 && c.node.isNone then (s.tellChunks c c.untold).signalled c
  else (if c.node.isNone then s.lowerPend c 0 else s).signalled c

/-- The command can signal: every byte is performed, its turn in its queue has come, and the queue is not frozen (R229, R232, R305). -/
def State.canSignal (s : State) (c : Cmd) : Bool := c.phase = .performed && s.inOrder c && !s.frozenQ.contains c.queue

/-- ENGINE_COMPLETION (R229): a command signals. Of a chunk-mask command each event tells one chunk that has been written whole, the last one with
the command. -/
def execEngineCompletion (cmd : Nat) (s : State) : Host.Outcome State Fault Refusal :=
  match s.cmd? cmd with
  | none => .next s
  | some c => .next (
      if c.ck = 1 && c.node.isNone && c.isOpen && !s.frozenQ.contains c.queue && c.tellable ≠ [] && !(s.canSignal c && decide (c.untold.length ≤ 1))
      then { s with fresh := s.fresh + 1 }.tellChunks c [s.nextChunk c]
      else if s.canSignal c then s.complete c
      else s)

end Sys2Proof.Machine
end

