-- ==== Sys2Proof/Machine/Control.lean ====
section
/-! DEFINITION. Control flow, system instructions and control-register access: majors 0x11 to 0x1F (R101, R120 to R133), and the
illegal word (R76 to R78). -/

namespace Sys2Proof.Machine

/-- A tarnished deciding operand: in a D context under the trap policy a precise TARNISH before any effect (R101). -/
def decide_ (b : Bool) : M Unit := do
  let t ← getS
  if b && t.st.d && t.trapPolicy then raise (Trap.at 0x08 0)

/-- A conditional branch on s[a] and s[b] (R120). -/
def branch (f : Word → Word → Bool) (a b : BitVec 7) (off : BitVec 12) : M Unit := do
  let t ← getS
  let x := t.reg a
  let y := t.reg b
  decide_ (x.tarn || y.tarn)
  modS fun u => u.jump (if f x.val y.val then relative12 u.pc off else u.pc + 4)

/-- BEQ (R120). -/
def execBeq (a b : BitVec 7) (off : BitVec 12) (s : State) : Host.Outcome State Fault Refusal :=
  runM false (branch (fun a b => a == b) a b off) s

/-- BNE (R120). -/
def execBne (a b : BitVec 7) (off : BitVec 12) (s : State) : Host.Outcome State Fault Refusal :=
  runM false (branch (fun a b => a != b) a b off) s

/-- BLT (R120). -/
def execBlt (a b : BitVec 7) (off : BitVec 12) (s : State) : Host.Outcome State Fault Refusal :=
  runM false (branch (fun a b => a.slt b) a b off) s

/-- BGE (R120). -/
def execBge (a b : BitVec 7) (off : BitVec 12) (s : State) : Host.Outcome State Fault Refusal :=
  runM false (branch (fun a b => b.sle a) a b off) s

/-- BLTU (R120). -/
def execBltu (a b : BitVec 7) (off : BitVec 12) (s : State) : Host.Outcome State Fault Refusal :=
  runM false (branch (fun a b => a.ult b) a b off) s

/-- BGEU (R120). -/
def execBgeu (a b : BitVec 7) (off : BitVec 12) (s : State) : Host.Outcome State Fault Refusal :=
  runM false (branch (fun a b => b.ule a) a b off) s

/-- The window of masks k8 to k(8 + w) after one shift, with k8 ones or zeros (R121). -/
def shiftMasks (masks : Vector KMask 16) (w : Nat) (first : KMask) : Vector KMask 16 :=
  Vector.ofFn fun i : Fin 16 =>
    if i.val = 8 then first
    else if 8 < i.val ∧ i.val ≤ 8 + w then masks.getD (i.val - 1) .zero
    else masks[i]

/-- The masks of the window read tarnished (R229), or one of their bits is 1. -/
def State.windowTarn (s : State) (w : Nat) : Bool := (List.range (w + 1)).any fun j => (s.readMask s.strand (8 + j)).tarn
def Strand.windowAny (t : Strand) (w : Nat) : Bool := (List.range (w + 1)).any fun j => (t.mask (8 + j)).bits ≠ 0

/-- LOOPR's effect on LAPS, RING and the masks (R121). That a deciding operand is tarnished tarnishes nothing (R101): each register keeps the
tarnish of the value that its new one comes from (log 48). -/
def Strand.loopTurn (t : Strand) : Strand :=
  let old := getBits t.ctl.laps.val 0 32
  let w := t.depth
  { t with
    masks := shiftMasks t.masks w (if 1 < old then .ones else .zero),
    ctl := ({ t.ctl with
      laps := { t.ctl.laps with val := setBits t.ctl.laps.val 0 32 (old - 1) },
      ring := { t.ctl.ring with val := setBits t.ctl.ring.val 0 6 (t.turn + 1) } }).seen (t.ctl.laps.tarn || t.ctl.ring.tarn) }

/-- LOOPR (R121). -/
def loopStep (off : BitVec 12) : M Unit := do
  let t ← getS
  let w := t.depth
  decide_ (t.ctl.laps.tarn || (← get).windowTarn w)
  modS fun u =>
    let v := u.loopTurn
    v.jump (if v.windowAny w then relative12 u.pc off else u.pc + 4)

/-- LOOPR (R121). -/
def execLoopr (off : BitVec 12) (s : State) : Host.Outcome State Fault Refusal :=
  runM false (loopStep off) s

/-- J (R122). -/
def execJ (off : BitVec 26) (s : State) : Host.Outcome State Fault Refusal :=
  .next (s.mapStrand fun t => t.jump (relative26 t.pc off))

/-- CALL: s1 receives the address of the next word, untarnished (R122). -/
def execCall (off : BitVec 26) (s : State) : Host.Outcome State Fault Refusal :=
  .next (s.mapStrand fun t => (t.setReg 1 (.of ((t.pc + 4).setWidth 64))).jump (relative26 t.pc off))

/-- JR: the base is read before the link is written; a misaligned target leaves s[d] unchanged (R26, R123). -/
def jumpRegister (d a : BitVec 7) (imm : BitVec 12) : M Unit := do
  let t ← getS
  let x := t.reg a
  decide_ x.tarn
  let target : Addr := (x.val + simm imm).setWidth 52
  if target.extractLsb' 0 2 ≠ 0 then raise { Trap.at 0x04 (target.setWidth 64) with acc := 3 }
  modS fun u => (u.setReg d (.of ((u.pc + 4).setWidth 64))).jump target

/-- JR (R123). -/
def execJr (d a : BitVec 7) (imm : BitVec 12) (s : State) : Host.Outcome State Fault Refusal :=
  runM false (jumpRegister d a imm) s

/-- TRAP: a software trap with code n; TPC receives the address of the next word (R124). -/
def execTrap (n : BitVec 7) (s : State) : Host.Outcome State Fault Refusal :=
  .next (s.takeTrap false (s.strand.pc + 4) { Trap.at 0x06 (n.setWidth 64) with sub := n.toNat })

/-- TRET (R125). -/
def trapReturn : M Unit := do
  let t ← getS
  if t.ctl.tpc.val.extractLsb' 0 2 ≠ 0 then raise { Trap.at 0x04 t.ctl.tpc.val with acc := 3 }
  modS Strand.leave

/-- TRET (R125). -/
def execTret (s : State) : Host.Outcome State Fault Refusal :=
  runM false trapReturn s

/-- At an instruction that waits on commands: the trap owed on the earliest of them is taken, and the instruction has no effect (R434). -/
def takeOwed (waitsOn : Cmd → Bool) : M Unit := do
  let s ← get
  let t := s.strand
  match s.cmds.find? fun c => c.place = t.place && c.launch = t.launch && c.node.isNone && waitsOn c &&
      (match c.phase with | .owes _ _ _ => true | _ => false) with
  | some c =>
    match c.phase with
    | .owes cause sub addr =>
      set (s.setCmd { c with phase := .dropped })
      raise (owedTrap cause sub addr)
    | _ => pure ()
  | none => pure ()

/-- A command still works or waits to signal. -/
def Cmd.busy (c : Cmd) : Bool :=
  match c.phase with
  | .queued | .faulted _ | .awaitHost | .running | .performed => true
  | _ => false

/-- The strand's status word lies in a locked page (R294, R402). -/
def State.statusLocked (s : State) (t : Strand) : Bool :=
  match s.launch? t.launch with
  | some l => l.statarr ≠ 0 && s.hubLocked t.part (l.statarr.toNat + 16 * t.flat) 16
  | none => false

/-- EXIT: waits for the strand's commands, and for what must be written to a locked page, then ends the strand with status word s[a] (R126). -/
def exitStrand (a : BitVec 7) : M Unit := do
  takeOwed fun _ => true
  let s ← get
  let t := s.strand
  if s.cmds.any fun c => c.place = t.place && c.launch = t.launch && c.node.isNone && c.busy then throw .wait
  if s.drainBlocked (coreOf t.place) || s.statusLocked t then throw .wait
  set ((s.drainAll (coreOf t.place)).endStrand t.place (t.reg a) none)

/-- EXIT (R126). -/
def execExit (a : BitVec 7) (s : State) : Host.Outcome State Fault Refusal :=
  runM false (exitStrand a) s

/-- What a FENCE orders (R127): the release and the acquire of its scope, and later fetches as R111 says. -/
def State.fence (s : State) (scope : Nat) : State :=
  ((s.releaseAt s.strand.place scope).acquireAt s.strand.place scope).codeFence s.strand.place scope

/-- FENCE (R127). -/
def execFence (n : BitVec 7) (s : State) : Host.Outcome State Fault Refusal :=
  .next (if s.releaseBlocked n.toNat then s.waits else (s.fence n.toNat).mapStrand Strand.advance)

/-- WINB (R128). -/
def execWinb (n : BitVec 7) (s : State) : Host.Outcome State Fault Refusal :=
  .next (s.mapStrand fun t => { t with ctl := { t.ctl with winb := .of (n.setWidth 64) } }.advance)

/-- RCPT (R129). -/
def execRcpt (d : BitVec 7) (s : State) : Host.Outcome State Fault Refusal :=
  .next (s.mapStrand fun t => (t.setReg d t.ctl.rc).advance)

/-- A quantity of the receipt by selector (R129). -/
def receiptField (rc : Word) (sel : Nat) : Nat :=
  match sel with
  | 0 => getBits rc 0 13
  | 1 => getBits rc 13 17
  | 2 => getBits rc 30 17
  | 3 => getBits rc 47 17
  | 4 => getBits rc 13 17 / 4
  | 5 => getBits rc 30 17 / 4
  | _ => getBits rc 47 17 / 4

/-- ADDRC (R129). -/
def execAddrc (d a n : BitVec 7) (s : State) : Host.Outcome State Fault Refusal :=
  .next (s.mapStrand fun t =>
    (t.setReg d { val := (t.reg a).val + BitVec.ofNat 64 (receiptField t.ctl.rc.val n.toNat), tarn := (t.reg a).tarn || t.ctl.rc.tarn }).advance)

/-- NOP (R130). -/
def execNop (s : State) : Host.Outcome State Fault Refusal :=
  .next (s.mapStrand Strand.advance)

/-- The illegal-instruction trap of a word: TADDR is the word, VEC says its major lies in 0x20 to 0x3F (R76, R78, R137). -/
def State.illegal (s : State) (w : BitVec 32) : State := s.takeTrap (w.getLsbD 31) s.strand.pc (Trap.at 0x01 (w.setWidth 64))

/-- A word that encodes no instruction (R76). -/
def execIllegalInstruction (w : BitVec 32) (s : State) : Host.Outcome State Fault Refusal :=
  .next (s.illegal w)

/-- The word an instruction stands in. -/
def wordOf (i : Instr) : BitVec 32 := (encode i).getD 0

/-- CRD (R131, R132). -/
def execCrd (d : BitVec 7) (imm : BitVec 12) (s : State) : Host.Outcome State Fault Refusal :=
  match s.strand.ctlRead s.cycle imm.toNat with
  | none => .next (s.illegal (wordOf (.crd d imm)))
  | some v => .next (s.mapStrand fun t => (t.setReg d v).advance)

/-- Write a control register: the RW fields take w's bits; an RO register keeps its value; a WINB of 15 or more traps (R27, R131).
`b` is the tarnish the write gives (R132). -/
def State.ctlWrite (s : State) (word : BitVec 32) (n : Nat) (old w : Word) (b : Bool) : State :=
  let m := ctlMask n
  if n = 0x002 && decide (15 ≤ w.toNat) then s.illegal word
  else if m = 0 then s.mapStrand Strand.advance
  else s.mapStrand fun t => { t with ctl := (t.ctl.put n { val := (old &&& ~~~m) ||| (w &&& m), tarn := b }).seen b }.advance

/-- CWR (R131, R132). -/
def execCwr (a : BitVec 7) (imm : BitVec 12) (s : State) : Host.Outcome State Fault Refusal :=
  match s.strand.ctlRead s.cycle imm.toNat with
  | none => .next (s.illegal (wordOf (.cwr a imm)))
  | some v => .next (s.ctlWrite (wordOf (.cwr a imm)) imm.toNat v.val (s.strand.reg a).val (s.strand.reg a).tarn)

/-- CSET (R131, R132). -/
def execCset (a : BitVec 7) (imm : BitVec 12) (s : State) : Host.Outcome State Fault Refusal :=
  match s.strand.ctlRead s.cycle imm.toNat with
  | none => .next (s.illegal (wordOf (.cset a imm)))
  | some v => .next (s.ctlWrite (wordOf (.cset a imm)) imm.toNat v.val (v.val ||| (s.strand.reg a).val) (v.tarn || (s.strand.reg a).tarn))

/-- CCLR (R131, R132). -/
def execCclr (a : BitVec 7) (imm : BitVec 12) (s : State) : Host.Outcome State Fault Refusal :=
  match s.strand.ctlRead s.cycle imm.toNat with
  | none => .next (s.illegal (wordOf (.cclr a imm)))
  | some v => .next (s.ctlWrite (wordOf (.cclr a imm)) imm.toNat v.val (v.val &&& ~~~(s.strand.reg a).val) (v.tarn || (s.strand.reg a).tarn))

end Sys2Proof.Machine
end

