-- ==== Sys2Proof/Machine/Walk.lean ====
section
/-! DEFINITION. What vector instructions share: their operand checks (R77, R174), the mask that governs them (R65, R229, R434), a purse as
a list of elements (R49, R156), segments of a span strand (R353), the element walk (R156, R178), restart points (R143 to R145), and
FLAGS, FIRSTX and AMAX (R58, R59). -/

namespace Sys2Proof.Machine

/-! ## Checks before any element -/

/-- The purse-range check: the lowest purse at or above VREGS that a field names (R77, R136). -/
def useRegs (fs : List (BitVec 7)) : M Unit := do
  let t ← getS
  let bad := (fs.map t.purseName).filter fun n => decide (t.vregs ≤ n)
  match bad.min? with
  | some n => raise (Trap.at 0x02 (BitVec.ofNat 64 n))
  | none => pure ()

/-- The code of a purse operand, which must be valid and of an accepted kind (R42, R174, R211). -/
def useCode (f : BitVec 7) (ok : Code → Bool) : M Code := do
  let t ← getS
  let tag := (t.purse (t.purseName f)).tag
  let c := t.codeOf tag
  if c.vectorOk && ok c then return c else raise (Trap.at 0x03 (tag.setWidth 64))

/-- Operand classes of R174. -/
def anyCode (_ : Code) : Bool := true
def integerCode (c : Code) : Bool := c.isInteger
def floatingCode (c : Code) : Bool := !c.isInteger

/-! ## Faults before any effect -/

/-- The assay tags stand as before, but for those that an error has lost. -/
def State.undoAssay (s : State) (old : List AssayTag) : State :=
  if s.assay = old then s
  else { s with assay := old.filter (fun t => !(s.assay.any fun x => x.lost && x.launch = t.launch && x.granule = t.granule)) ++ s.assay.filter (·.lost) }

/-- An instruction that takes every fault before any effect (R144): after a trap no access of its has been performed, so that none stands in an assay
tag. -/
def faultsFirst (m : M Unit) : M Unit := fun s =>
  match m s with
  | .error (.trap x) s1 => .error (.trap x) (s1.undoAssay s.assay)
  | r => r

/-! ## The governing mask -/

/-- Some bit of chunk `i` reads as 1. -/
def Cmd.chunkRead (c : Cmd) (m : MaskBits) (i : Nat) : Bool := m.extractLsb' (c.first + i * c.chunkBits) c.chunkBits ≠ 0

/-- Written chunks that the acting strand observes through mask `k`: command and chunk (R40 note 4, R109). -/
def State.chunksRead (s : State) (k : Nat) (m : MaskBits) : List (Nat × Nat) :=
  (s.cmds.filter fun c => c.place = s.strand.place && c.launch = s.strand.launch && c.node.isNone && c.ck = 1 && c.ca = k).flatMap
    fun c => ((List.range c.chunkCount).filter fun i => c.told.contains i && c.chunkRead m i).map fun i => (c.id, i)

/-- A line holds bytes of a chunk of a command's destination. -/
def State.chunkHolds (s : State) (c : Cmd) (i line : Nat) : Bool :=
  (s.destSpans c none (line * 64) 64).any fun x => decide (x.1 / 2 ^ c.chunk ≤ i) && decide (i ≤ (x.1 + x.2 - 1) / 2 ^ c.chunk)

/-- A predicated instruction follows the transfer of a chunk that it observes: its core's copies of the chunk's lines give way to the home's (R40 note
4). In a D context the observation is recorded; a conflict stops the command (R233, R313). -/
def State.observeChunk (s : State) (x : Nat × Nat) : State :=
  match s.cmds.find? (·.id = x.1) with
  | none => s
  | some c =>
    let s0 := s.dropCopies (coreOf s.strand.place) (s.chunkHolds c x.2)
    if !c.det || c.seenBy.contains c.flat || c.seenChunks.contains x.2 then s0
    else
      let c1 := { c with seenChunks := x.2 :: c.seenChunks }
      match (s0.setCmd c1).recordWrite c1 c.dest.1 (c.dest.2.1 + x.2 * 2 ^ c.chunk) (min (2 ^ c.chunk) (c.dest.2.2 - x.2 * 2 ^ c.chunk)) with
      | (s1, none) => s1
      | (s1, some b) => s1.stopCmd c1 (assayOwed b)

/-- The mask that governs an instruction: its bits, its tarnish, and the chunks the instruction observes by it. -/
structure Gov where
  bits : MaskBits
  tarn : Bool
  seen : List (Nat × Nat)
  deriving DecidableEq, Repr

/-- The mask of an instruction with `mk`: k[AMR], or all ones (R65, R162). A trap owed on a command of that mask comes first, and one that
the observation itself makes owed is taken too (R312, R434). -/
def govern (mk : Bool) : M Gov := do
  if !mk then return { bits := BitVec.allOnes 4096, tarn := false, seen := [] }
  let k := (← getS).amr
  takeOwed fun c => c.ck = 1 && c.ca = k
  let s ← get
  let m := s.readMask s.strand k
  let seen := s.chunksRead k m.bits
  set (seen.foldl State.observeChunk s)
  takeOwed fun c => c.ck = 1 && c.ca = k
  return { bits := m.bits, tarn := m.tarn, seen := seen }

/-- Mask bit `j`. -/
def Gov.on (g : Gov) (j : Nat) : Bool := g.bits.getLsbD j

/-! ## Segments (R351, R353) -/

/-- Where a purse's codes go: `segs` segments of `size` bits, one of GRANT bits for a strand without the span attribute. -/
structure Room where
  segs : Nat
  size : Nat
  deriving DecidableEq, Repr

def Strand.room (t : Strand) : Room :=
  if t.st.span && t.segs ≠ [] then { segs := t.segs.length, size := t.grant / t.segs.length } else { segs := 1, size := t.grant }

/-- Deposit one code or block of `len` bits behind segment and bit `at_`; `none` when it does not fit in the last segment (R353). -/
def Room.put (r : Room) (at_ : Nat × Nat) (len : Nat) : Option (Nat × Nat) :=
  if at_.2 + len ≤ r.size then some (at_.1, at_.2 + len)
  else if at_.1 + 1 < r.segs && len ≤ r.size then some (at_.1 + 1, len)
  else none

def Room.putAll (r : Room) : Nat × Nat → List Nat → Option (Nat × Nat)
  | p, [] => some p
  | p, l :: ls => match r.put p l with | some q => r.putAll q ls | none => none

/-! ## Elements -/

/-- An element of a stream: its value, its own bits' offset and length (R201), the bits its walk takes when it is reached (its item's, at
the item's first element), and its segment. -/
structure Elem where
  x   : Ex
  off : Nat
  own : Nat
  adv : Nat
  seg : Nat
  deriving DecidableEq, Repr

/-- The elements of an item. -/
def Item.elems (c : Code) (seg : Nat) (i : Item) : List Elem :=
  if c.isBlock then
    (List.range i.xs.length).map fun q =>
      { x := i.xs.getD q (.zero false), off := i.off + 8 + q * c.elemBits, own := c.elemBits, adv := if q = 0 then i.len else 0, seg := seg }
  else i.xs.map fun x => { x := x, off := i.off, own := i.len, adv := i.len, seg := seg }

/-- The elements of items, each with the segment its item stands in. -/
def elemsIn (c : Code) (r : Room) : Nat × Nat → List Item → List Elem
  | _, [] => []
  | p, i :: is => let q := (r.put p i.len).getD p; i.elems c q.1 ++ elemsIn c r q is

/-- The elements of a purse from a bit offset on, at most 4,096. -/
def Purse.elems (p : Purse) (c : Code) (r : Room) (start : Nat) : List Elem :=
  let at_ := if r.segs = 1 then some (0, start)
    else r.putAll (0, 0) (((c.items p.bits p.fill c.maxItems 0).filter fun i => i.off < start).map (·.len))
  (elemsIn c r (at_.getD (0, start)) (c.items p.bits p.fill c.maxItems start)).take 4096

/-- Bits that a walk over a prefix takes. -/
def advOf (l : List Elem) : Nat := (l.map (·.adv)).sum

/-! ## The destination -/

/-- What an element becomes: a value with flags of its own, or nothing, so that the old code is kept. -/
abbrev Cell := Option (Ex × Flags)

/-- Zero of a code, alone (R156). -/
def Code.zeroBits (c : Code) : Nat × Nat := (0, if c.isFixed then c.fixedBits else 4)

/-- The codes that a run of cells deposits into a destination without blocks, and their flags; `old` starts at the first cell. -/
def encodeCells (c : Code) (dr : Draw) : Nat → List (Nat × Nat) → List Cell → List (Nat × Nat) × List (Nat × Flags)
  | _, _, [] => ([], [])
  | j, old, u :: us =>
    let rest := encodeCells c dr (j + 1) (old.drop 1) us
    match u with
    | some (x, f) =>
      let (b, len, fl) := c.encodeElem dr j x
      ((b, len) :: rest.1, (j, fl ||| f) :: rest.2)
    | none => (old.headD c.zeroBits :: rest.1, rest.2)

/-- The codes that one unit of work deposits (R49): for a block destination one block, kept whole when its first element is masked. An old short
block that is kept before further blocks keeps its own length, and the next block stands right behind it (DESIGN CHOICE, log 45). -/
def encodeUnit (c : Code) (dr : Draw) (j : Nat) (old : List (Nat × Nat)) (us : List Cell) : List (Nat × Nat) × List (Nat × Flags) :=
  if c.isBlock then
    match us.headD none with
    | some _ =>
      let (b, len, fl) := c.encodeBlock dr j (us.map fun u => match u with | some (x, _) => x | none => .zero false)
      ([(b, len)], fl ++ (List.range us.length).filterMap fun q => match us.getD q none with | some (_, f) => some (j + q, f) | none => none)
    | none => ([(old.drop (j / 32)).headD (0, c.blockBits us.length)], [])
  else encodeCells c dr j (old.drop j) us

/-- Lay codes side by side from bit `od`. -/
def layCodes : Nat → List (Nat × Nat) → Nat × Nat
  | od, [] => (od, 0)
  | od, (b, len) :: cs => let r := layCodes (od + len) cs; (r.1, b % 2 ^ len * 2 ^ od + r.2)

/-- A destination being written. -/
structure Dest where
  c    : Code
  dr   : Draw
  room : Room
  /-- Old codes or blocks from element 0. -/
  old  : List (Nat × Nat)
  /-- The old codes follow the deposited ones (R178). -/
  acc  : Bool
  deriving DecidableEq, Repr

/-- How far a destination has come. -/
structure Put where
  e     : Nat
  od    : Nat
  bits  : Nat
  pos   : Nat × Nat
  flags : List (Nat × Flags)
  deriving DecidableEq, Repr

/-- Old codes from element `m` on. -/
def Dest.tail (d : Dest) (m : Nat) : List (Nat × Nat) := d.old.drop (if d.c.isBlock then (m + 31) / 32 else m)

/-- Deposit cells unit by unit until one does not fit: the continuation rule (R156, R178). Where a source without blocks ends inside a block of
another source, the unit it has begun is deposited as far as it goes (DESIGN CHOICE, log 45). -/
def depositLoop (d : Dest) (g : Nat) : Nat → List Cell → Put → Put
  | 0, _, p => p
  | fuel + 1, cells, p =>
    if cells = [] then p
    else
      let us := cells.take (g - p.e % g)
      let (codes, fls) := encodeUnit d.c d.dr p.e d.old us
      match d.room.putAll p.pos (codes.map (·.2)) with
      | none => p
      | some pos =>
        if d.acc && (d.room.putAll pos ((d.tail (p.e + us.length)).map (·.2))).isNone then p
        else
          let (od, bits) := layCodes p.od codes
          depositLoop d g fuel (cells.drop us.length)
            { e := p.e + us.length, od := od, bits := p.bits + bits, pos := pos, flags := p.flags ++ fls }

/-! ## FLAGS, FIRSTX and AMAX -/

/-- One raised flag (R58): the pair is FLAGS and FIRSTX. -/
def creditBit (j : Nat) (w : Word × Word) (f : Nat) : Word × Word :=
  let first := !w.1.getLsbD (8 + f) || decide (j < getBits w.2 (12 * f) 12)
  (w.1 ||| BitVec.ofNat 64 (2 ^ f + 2 ^ (8 + f)), if first then setBits w.2 (12 * f) 12 j else w.2)

/-- The flags of one element. -/
def creditElem (w : Word × Word) (x : Nat × Flags) : Word × Word :=
  ((List.range 5).filter fun f => x.2.getLsbD f).foldl (creditBit x.1) w

/-- A flag-reporting vector instruction's update (R58): FLAGS[12:8] falls when it begins at element 0, then each element is credited.
`src` is the instruction's source tarnish (R132). -/
def Strand.credit (t : Strand) (fresh : Bool) (l : List (Nat × Flags)) (src : Bool) : Strand :=
  let f0 := if fresh then t.ctl.flags.val &&& ~~~(0x1F00 : Word) else t.ctl.flags.val
  let r := l.foldl creditElem (f0, t.ctl.firstx.val)
  let raised := l.any (·.2 ≠ 0)
  { t with ctl := ({ t.ctl with
      flags := if fresh || raised then { val := r.1, tarn := src } else t.ctl.flags,
      firstx := if raised then { val := r.2, tarn := src } else t.ctl.firstx }).seen (src && (fresh || raised)) }

/-- `amax_update` of R59; nothing is greater than a NaN. -/
def amaxUpdate (w : Word) (x : Ex) : Word :=
  match x with
  | .nan _ => w ||| 0x100000000
  | x =>
    let m := (Fmt.fp32.encode { mode := .rup, seed := 0, srb := 0 } false 0 x.abs).1
    match Fmt.fp32.decode (getBits w 0 32) with
    | .nan _ => w
    | y => if Ex.cmp (Fmt.fp32.decode m) y = .gt then setBits w 0 32 m else w

def Strand.amaxOver (t : Strand) (l : List Ex) (src : Bool) : Strand :=
  if l = [] then t
  else { t with ctl := ({ t.ctl with amax := { val := l.foldl amaxUpdate t.ctl.amax.val, tarn := src } }).seen src }

/-! ## Restart points (R143 to R145) -/

/-- A restart point's fields. -/
structure Point where
  j  : Nat
  oa : Nat
  ob : Nat
  od : Nat
  deriving DecidableEq, Repr

def Point.ofWord (w : Word) : Point := { j := getBits w 0 13, oa := getBits w 13 17, ob := getBits w 30 17, od := getBits w 47 17 }

def Point.start : Point := { j := 0, oa := 0, ob := 0, od := 0 }

/-- The point armed for the instruction at the pc (R145). -/
def Strand.point (t : Strand) : Option Point := t.armedHere.map Point.ofWord

/-- The residue that the restart of the instruction at the pc uses. -/
def Strand.residueHere (t : Strand) : Option Residue := if t.armedHere.isNone then none else t.residue.filter (·.pc = t.pc)

/-- The old content of a destination with its tarnish: the restart residue on a restart, else what the purse holds (R144, R156). -/
def Strand.oldContent (t : Strand) (n : Nat) : Nat × Nat × Bool :=
  match t.residueHere.filter (·.purse = n) with
  | some r => (r.bits, r.fill, r.tarn)
  | none => ((t.purse n).bits, (t.purse n).fill, (t.purse n).tarn)

/-- The old content's bits and fill. -/
def Strand.oldPurse (t : Strand) (n : Nat) : Nat × Nat := ((t.oldContent n).1, (t.oldContent n).2.1)

/-- The old content's tarnish. -/
def Strand.oldTarn (t : Strand) (n : Nat) : Bool := (t.oldContent n).2.2

/-- A restart keeps `od` bits that the stopped instruction left in purse `n`: their tarnish. -/
def Strand.partTarn (t : Strand) (n od : Nat) : Bool := od ≠ 0 && (t.purse n).tarn

/-- The residue of purse `n` was overwritten before the restart: the result is undefined from element j on (R144). -/
def Strand.stale (t : Strand) (n : Nat) : Bool := t.residueHere.any fun r => r.purse = n && r.dirty

/-- What a restarted instruction clears when it completes or stops by itself: RESUME, unless a handler runs (R145), with the tarnish of the
instruction's sources (R132), and the residue. -/
def Strand.endRestart (t : Strand) (src : Bool) : Strand :=
  if t.point.isNone then t
  else { t with residue := none, ctl := if t.st.tr then t.ctl else ({ t.ctl with resume := { val := 0, tarn := src } }).seen src }

/-- Write a destination purse with its new stream; its tag and tile header stay (R152, R179). A stale restart's result above the bits
that stood is a free value (R144; log 5). -/
def writePurse (n bits fill : Nat) (tarn : Bool) : M Nat := do
  let s ← get
  let t := s.strand
  let p := t.purse n
  if t.stale n then
    let od := ((t.point.getD .start).od)
    let f := od + Config.restartBits s.fresh % ((t.grant - od) / 4 + 1) * 4
    let b := bits % 2 ^ od + Config.restartBits (s.fresh + 1) % 2 ^ (f - od) * 2 ^ od
    set { s with fresh := s.fresh + 2, strand := t.setPurse n { p with bits := b, fill := f, tarn := tarn } }
    return f
  else
    set { s with strand := t.setPurse n { p with bits := bits, fill := fill, tarn := tarn } }
    return fill

/-! ## The walk -/

/-- Where an instruction with a restart point starts to deposit. -/
def Dest.begin (d : Dest) (p : Point) (bits : Nat) : Put :=
  let b := bits % 2 ^ p.od
  let pos := if d.room.segs = 1 then some (0, p.od) else d.room.putAll (0, 0) ((d.c.items b p.od d.c.maxItems 0).map (·.len))
  { e := p.j, od := p.od, bits := b, pos := pos.getD (0, p.od), flags := [] }

/-- Which code or block of a stream holds element `j` (R49). -/
def Code.unitOf (c : Code) (j : Nat) : Nat := if c.isBlock then j / 32 else j

/-- What a walk leaves: elements, destination bits, and the tarnish of all it read. -/
structure Walked where
  e    : Nat
  od   : Nat
  tarn : Bool
  deriving DecidableEq, Repr

/-- Options of a walk. -/
structure Mode where
  /-- The accumulator walk of R178. -/
  acc   : Bool
  /-- AMAX over the values deposited (R59). -/
  amax  : Bool
  /-- No flag is raised and nothing is tarnished (R200). -/
  quiet : Bool
  deriving DecidableEq, Repr

def Mode.plain : Mode := { acc := false, amax := false, quiet := false }

/-- Deposit cells, the first of them at the restart point's element, into the purse that field `f` names (R156, R178), with the flags that
follow. `c` is the code they are encoded in, `block` says that a source is a block code, `old` holds the codes or blocks that positions keep,
from element 0, `src` is the tarnish of what the instruction reads beside the old destination, and `again` marks the cells that are made anew of an
old one. The old destination is read for every cell that is examined, the one that does not fit among them (R152, R156). -/
def depositOver (m : Mode) (f : BitVec 7) (c : Code) (block : Bool) (old : List (Option (Nat × Nat))) (cells : List Cell) (src : Bool)
    (again : List Bool := []) : M Walked := do
  let t ← getS
  let n := t.purseName f
  let pt := t.point.getD .start
  let d : Dest := { c := c, dr := c.draw t.ctl.seed.val t.ctl.srb.val, room := t.room, old := old.map (·.getD c.zeroBits), acc := m.acc }
  let g := if block || c.isBlock then 32 else 1
  let r := depositLoop d g (cells.length + 1) cells (d.begin pt (t.purse n).bits)
  let tail := if m.acc then d.tail r.e else []
  let (fill, bits) := layCodes r.od tail
  let kept := (List.range (min cells.length (r.e - pt.j + g))).any fun k =>
    ((cells.getD k none).isNone && (old.getD (c.unitOf (pt.j + k)) none).isSome) || again.getD k false
  let tarn := if m.quiet then false else src || t.partTarn n pt.od || (t.oldTarn n && (m.acc || kept))
  let w ← writePurse n (r.bits + bits) fill tarn
  modS fun u => (u.credit (pt.j = 0) (if m.quiet then [] else r.flags) tarn)
  if m.amax then
    modS fun u => u.amaxOver ((cells.take (r.e - pt.j)).filterMap fun x => x.map (·.1)) tarn
  return { e := r.e, od := if t.stale n then w else r.od, tarn := tarn }

/-- `depositOver` where a position keeps the destination purse's own code or block of that position (R156, R178). -/
def depositCells (m : Mode) (f : BitVec 7) (c : Code) (block : Bool) (cells : List Cell) (src : Bool) : M Walked := do
  let t ← getS
  let (bits, fill) := t.oldPurse (t.purseName f)
  depositOver m f c block ((c.items bits fill c.maxItems 0).map fun i => some (i.raw, i.len)) cells src

/-- The receipt, and the end of a restart (R145, R177). -/
def receipt (e a b d : Nat) (src : Bool) : M Unit := modS fun t => (t.setReceipt e a b d src).endRestart src

/-- The elements of a source purse from an offset on, and its tarnish. -/
def source (f : BitVec 7) (c : Code) (start : Nat) : M (List Elem × Bool) := do
  let t ← getS
  let p := t.purse (t.purseName f)
  return (p.elems c t.room start, p.tarn)

/-- Mask bit of element `j`: with a block code in the walk the bit of the block's first element governs the whole block (R49). -/
def Gov.active (g : Gov) (block : Bool) (j : Nat) : Bool := g.on (if block then j / 32 * 32 else j)

/-- Cells of `n` elements from `j` on by a rule over the element index. -/
def cellsOf (g : Gov) (block : Bool) (j n : Nat) (rule : Nat → Ex × Flags) : List Cell :=
  (List.range n).map fun k => if g.active block (j + k) then some (rule (j + k)) else none

/-- Cells of a list of values from element `j` on. -/
def cellsFrom (g : Gov) (block : Bool) (rule : Nat → Ex → Ex × Flags) : Nat → List Ex → List Cell
  | _, [] => []
  | j, x :: xs => (if g.active block j then some (rule j x) else none) :: cellsFrom g block rule (j + 1) xs

/-- Cells of two lists of values in lockstep. -/
def cellsFrom2 (g : Gov) (block : Bool) (rule : Nat → Ex → Ex → Ex × Flags) : Nat → List Ex → List Ex → List Cell
  | j, x :: xs, y :: ys => (if g.active block j then some (rule j x y) else none) :: cellsFrom2 g block rule (j + 1) xs ys
  | _, _, _ => []

/-- Cells of three lists of values in lockstep. -/
def cellsFrom3 (g : Gov) (block : Bool) (rule : Nat → Ex → Ex → Ex → Ex × Flags) : Nat → List Ex → List Ex → List Ex → List Cell
  | j, x :: xs, y :: ys, z :: zs => (if g.active block j then some (rule j x y z) else none) :: cellsFrom3 g block rule (j + 1) xs ys zs
  | _, _, _, _ => []

/-- The old destination's values from element `j` on: the accumulator (R178). -/
def accumulator (f : BitVec 7) (c : Code) (j : Nat) : M (List Ex) := do
  let t ← getS
  let (bits, fill) := t.oldPurse (t.purseName f)
  return (itemValues (c.items bits fill c.maxItems 0)).drop j

/-- Cells of an accumulator walk: into a block accumulator that goes on, whole blocks only, so that no old element is lost (R49, R178;
log 17). `n` is the number of old elements from the first cell on. -/
def wholeBlocks (cd : Code) (n : Nat) (cells : List Cell) : List Cell :=
  if cd.isBlock && decide (cells.length < n) then cells.take (cells.length / 32 * 32) else cells

/-- A walk over one source (R156, R177). -/
def walk1 (m : Mode) (cd ca : Code) (g : Gov) (d a : BitVec 7) (extra : Bool) (rule : Nat → Ex → Ex × Flags) : M Unit := do
  let pt := (← getS).point.getD .start
  let (xs, ta) ← source a ca pt.oa
  let block := cd.isBlock || ca.isBlock
  let xs := xs.take (4096 - pt.j)
  let r ← depositCells m d cd block (cellsFrom g block rule pt.j (xs.map (·.x))) (extra || ta || g.tarn)
  receipt r.e (pt.oa + advOf (xs.take (r.e - pt.j))) 0 r.od r.tarn

/-- A walk over one source and the accumulator (R178). -/
def walk1Acc (cd ca : Code) (g : Gov) (d a : BitVec 7) (extra : Bool) (rule : Nat → Ex → Ex → Ex × Flags) : M Unit := do
  let pt := (← getS).point.getD .start
  let (xs, ta) ← source a ca pt.oa
  let acc ← accumulator d cd pt.j
  let block := cd.isBlock || ca.isBlock
  let xs := xs.take (4096 - pt.j)
  let r ← depositCells { Mode.plain with acc := true } d cd block (wholeBlocks cd acc.length (cellsFrom2 g block rule pt.j (xs.map (·.x)) acc)) (extra || ta || g.tarn)
  receipt r.e (pt.oa + advOf (xs.take (r.e - pt.j))) 0 r.od r.tarn

/-- A walk over two sources (R156, R177). -/
def walk2 (cd ca cb : Code) (g : Gov) (d a b : BitVec 7) (rule : Nat → Ex → Ex → Ex × Flags) : M Unit := do
  let pt := (← getS).point.getD .start
  let (xs, ta) ← source a ca pt.oa
  let (ys, tb) ← source b cb pt.ob
  let block := cd.isBlock || ca.isBlock || cb.isBlock
  let xs := xs.take (4096 - pt.j)
  let r ← depositCells .plain d cd block (cellsFrom2 g block rule pt.j (xs.map (·.x)) (ys.map (·.x))) (ta || tb || g.tarn)
  receipt r.e (pt.oa + advOf (xs.take (r.e - pt.j))) (pt.ob + advOf (ys.take (r.e - pt.j))) r.od r.tarn

/-- A walk over two sources and the accumulator (R178). -/
def walk2Acc (cd ca cb : Code) (g : Gov) (d a b : BitVec 7) (rule : Nat → Ex → Ex → Ex → Ex × Flags) : M Unit := do
  let pt := (← getS).point.getD .start
  let (xs, ta) ← source a ca pt.oa
  let (ys, tb) ← source b cb pt.ob
  let acc ← accumulator d cd pt.j
  let block := cd.isBlock || ca.isBlock || cb.isBlock
  let xs := xs.take (4096 - pt.j)
  let r ← depositCells { Mode.plain with acc := true } d cd block (wholeBlocks cd acc.length (cellsFrom3 g block rule pt.j (xs.map (·.x)) (ys.map (·.x)) acc)) (ta || tb || g.tarn)
  receipt r.e (pt.oa + advOf (xs.take (r.e - pt.j))) (pt.ob + advOf (ys.take (r.e - pt.j))) r.od r.tarn

/-- A walk of a count of its own (R191, R199, R200): `n` is at most 4,096. -/
def walk0 (m : Mode) (cd : Code) (g : Gov) (d : BitVec 7) (n : Nat) (src : Bool) (rule : Nat → Ex × Flags) : M Unit := do
  let pt := (← getS).point.getD .start
  let r ← depositCells m d cd cd.isBlock (cellsOf g cd.isBlock pt.j (n - pt.j) rule) (src || g.tarn)
  receipt r.e 0 0 r.od r.tarn

end Sys2Proof.Machine
end

