-- ==== Sys2Proof/Machine/Commands.lean ====
section
/-! DEFINITION. Major 0x35: CMDB with the checks and the acceptance of commands (R227 to R231), CWAIT, CTOK and SCBQ (R234 to R236). -/

namespace Sys2Proof.Machine

/-! ## Well-formed commands (R228 to R230) -/

/-- A code image of a CONVERT: no reserved bit, and a code a stream can have (R31, R42). -/
def codeImageOk (w : Nat) : Bool := decide (w % 2 ^ 46 = 0) && (Code.ofWord (BitVec.ofNat 64 w)).vectorOk

/-- The body's rules (R230, R355, R356, R366, R406). -/
def Cmd.bodyOk (c : Cmd) : Bool :=
  let z := fun (o : Nat) => decide (c.dword o = 0)
  match c.op with
  | 1 => z 32 && z 40
  | 2 => z 8 && z 40
  | 3 => decide (c.dword 16 ≤ 65535) && decide (c.dword 24 ≤ 65536 - c.dword 16) && z 32 && z 40
  | 4 => decide (c.dword 24 < 2 ^ 32) && codeImageOk (c.dword 32) && codeImageOk (c.dword 40)
  | 5 =>
    decide (c.dword 32 ≤ 2) && z 40 &&
      (!c.phys || (isHost (c.dword 8) != isHost (c.dword 16) && linkOk c (if isHost (c.dword 8) then c.dword 8 else c.dword 16)))
  | 6 => decide (c.dword 8 % 256 = 0) && z 16 && z 24 && z 32 && z 40
  | 7 =>
    let k := c.byte 36
    let ef := c.byte 38 + 256 * c.byte 39
    decide (c.dword 8 % 64 = 0) && decide (c.dword 24 % 8 = 0) && decide (1 ≤ k ∧ k ≤ 64) && decide (8 ≤ c.byte 37 ∧ c.byte 37 ≤ 16) &&
      decide (k ≤ ef ∧ ef ≤ 256) && decide (c.dword 40 ≤ 1)
  | 8 => decide (c.dword 32 < 8) && z 40 && decide (c.dword 24 % (4 * c.nseg) = 0)
  | _ => false

/-- The layout's rules (R228), and room for the chunk bits (R229). -/
def Cmd.layoutOk (c : Cmd) : Bool :=
  decide (1 ≤ c.op ∧ c.op ≤ 8) && decide (c.byte 1 < (if c.op = 6 ∨ c.op = 7 then 8 else 4)) && decide (c.ck ≠ 3) &&
    decide (c.byte 2 / 4 % 32 = 0) && decide (c.byte 5 / 8 % 2 = 0) && decide (c.byte 5 / 64 = 0) && decide (c.scope ≤ 6) &&
    (match c.ck with
      | 0 => decide (c.ca < 64)
      | 1 => decide (1 ≤ c.ca ∧ c.ca ≤ 15)
      | _ => decide (c.ca = 0)) &&
    (if c.ck = 1 then
       decide (8 ≤ c.chunk ∧ c.chunk ≤ 20) && decide (c.first ≤ 4095) &&
         decide (c.first + (c.byteCount + 2 ^ c.chunk - 1) / 2 ^ c.chunk * 2 ^ (c.chunk - c.esz) ≤ 4096)
     else decide (c.chunk = 0) && decide (c.first = 0)) &&
    (if c.ck = 2 then decide (c.dword 56 % 8 = 0) else decide (c.dword 48 = 0) && decide (c.dword 56 = 0)) &&
    (decide (c.ck = 2) || decide (c.op ≠ 6 ∧ c.op ≠ 7))

/-- The command passes R228 to R230. -/
def Cmd.wellFormed (c : Cmd) : Bool := c.layoutOk && c.bodyOk

/-! ## The destination -/

/-- The source bytes of a CONVERT as they stand, as far as they translate; what does not translate reads as zero (log 19). -/
def State.peek (s : State) (c : Cmd) (va : Nat) : Nat → List (Byte × Bool × Bool)
  | 0 => []
  | n + 1 =>
    (match (s.engineXlate c c.phys va .read).2 with
     | .ok x => (Mem.read s.mem x.key, false, false)
     | .error _ => (0, false, false)) :: s.peek c (va + 1) n

/-- Destination bytes of a CONVERT, which its completion counts (R229): of the codes as they stand now when their length depends on the
values (log 19). -/
def State.convertLen (s : State) (c : Cmd) : Nat :=
  let d := c.dstCode
  let n := c.dword 24
  let quanta :=
    if d.isFixed then n * d.fixedBits / 4
    else if d.isBlock then (n / 32 * d.blockBits 32 + (if n % 32 = 0 then 0 else d.blockBits (n % 32))) / 4
    else ({ c with snap := s.peek c (c.dword 8 / 2) (c.srcCode.maxBytes n) }).convertOut.length
  nibbleBytes (c.dword 16) quanta

/-- DST and LEN of a parameter block that reads so now (R356). -/
def State.peekReduce (s : State) (c : Cmd) : Nat × Nat :=
  let b := (s.peek c (c.dword 8) 24).map (·.1)
  (leNat ((b.drop 16).take 8), leNat ((b.drop 8).take 8))

/-- The destination of a command: by key when its address is physical or lies in a window, else by virtual address (R313). A physical address of 2^48 or
more names no byte. -/
def State.destOf (s : State) (c : Cmd) : Bool × Nat × Nat :=
  let at_ := fun (a n : Nat) =>
    if c.phys then (true, if a < 2 ^ 48 then a else 2 ^ 80 + a, n)
    else if 0xFFC0000000000 ≤ a ∧ a < 2 ^ 52 then
      match (s.engineXlate c false a .write).2 with
      | .ok x => (true, x.key, n)
      | .error _ => (false, a, n)
    else (false, a, n)
  match c.op with
  | 3 => (true, scaleKey (coreOf c.place) (c.dword 16), c.dword 24)
  | 4 => at_ (c.dword 16 / 2) (s.convertLen c)
  | 6 => let r := s.peekReduce c; at_ r.1 r.2
  | 7 => at_ (c.dword 24) (16 + 8 * c.byte 36)
  | _ => at_ (c.dword 16) (c.dword 24)

/-! ## Acceptance (R229, R231) -/

/-- Commands that take up a queue's 64 places: accepted and not completed, or for a search queue accepted and not started (R231, R305, R375). -/
def State.depth (s : State) (queue : Nat) : Nat :=
  (s.cmds.filter fun c => c.queue = queue &&
    (if 24 ≤ queue then c.phase = .queued else match c.phase with | .signalled | .owes _ _ _ | .dropped => false | _ => true)).length

/-- The destination lies in the issuing core's scratchpad or lane slices: the range its scoreboard entry records, in whole lines (R166).
A command of no bytes takes no entry, and is accepted with all 32 in use (DESIGN CHOICE, log 53). -/
def Cmd.scoreRange (c : Cmd) : Option (Nat × Nat) :=
  let (k, lo, n) := c.dest
  if c.op = 3 || !k || n = 0 then none
  else if (scratchKey 0 0 ≤ lo ∧ lo < clusterKey 0 0) then some (lo / 64 * 64, (lo + n + 63) / 64 * 64)
  else none

/-- R231: the command is refused. -/
def State.refuses (s : State) (c : Cmd) : Bool :=
  s.frozenQ.contains c.queue || decide (64 ≤ s.depth c.queue) ||
    (c.ck = 0 && c.node.isNone && decide (2 ^ 28 - 1 < (s.barrier (coreOf c.place) c.ca c.group).pend + c.byteCount)) ||
    (c.scoreRange.isSome && decide (32 ≤ (s.core (coreOf c.place)).score.length))

/-- Commands that nothing orders before a command accepted now: those of other queues, and queries of its own search queue, which complete in any order
(R372), whose issuer has not observed them (R40, R233); of other launches and of nodes those that are open. -/
def State.unordered (s : State) (c : Cmd) : List Nat :=
  (s.cmds.filter fun o => (o.queue ≠ c.queue || decide (24 ≤ c.queue)) &&
      (if o.launch = c.launch && o.node.isNone && c.node.isNone then !o.seenBy.contains o.flat else o.isOpen)).map (·.id)

/-- Acceptance: the command enters its queue with its completion set up (R229). -/
def State.accept (s : State) (c : Cmd) : State :=
  let s1 := { s with cmds := s.cmds ++ [{ c with racing := s.unordered c }], nextCmd := s.nextCmd + 1 }
  let s2 := match c.scoreRange with
    | some (lo, hi) =>
      let k := s1.core (coreOf c.place)
      s1.setCore { k with score := k.score ++ [{ cmd := c.id, lo := lo, hi := hi }] }
    | none => s1
  if c.node.isSome then s2
  else if c.ck = 0 then
    let b := s2.barrier (coreOf c.place) c.ca c.group
    s2.setBarrier { b with pend := b.pend + c.byteCount }
  else if c.ck = 1 then
    s2.updateAt c.place fun t => t.adjustMask c.ca fun m => { m with bits := m.bits &&& ~~~c.chunkMask }
  else s2

/-- The command that 512 bits of a purse make for the acting strand. -/
def State.makeCmd (s : State) (bits : Nat) (tarn : Bool) (i : Nat) : Cmd :=
  let t := s.strand
  let op := bits % 256
  let q := bits / 256 % 256
  let c : Cmd :=
    { id := s.nextCmd, place := t.place, flat := t.flat, part := t.part, launch := t.launch, node := none,
      queue := if op = 6 then 16 + q else if op = 7 then 24 + q else 4 * dieOf t.place + q,
      bits := bits, tarn := tarn, sup := t.st.m, det := t.st.d, seed := t.ctl.seed.val, srb := t.ctl.srb.val,
      nseg := t.places.length, group := none, phase := .queued, whole := false, dest := (false, 0, 0), addr := BitVec.ofNat 64 (512 * i),
      seenBy := [], seenChunks := [], told := [], noted := false, done := 0, snap := [], wrote := [], tokKey := none, racing := [], fails := 0 }
  { c with group := if c.ck = 0 then s.ownerOf t c.ca else none }

/-- CMDB's check of one command: its cause when it fails (R136, R227). -/
def State.cmdFault (s : State) (c : Cmd) : Option Nat :=
  let d := if c.op = 4 && c.bodyOk then { c with dest := s.destOf c } else c
  if !d.wellFormed then some 0x21 else if c.phys && !c.sup then some 0x22 else none

/-- Accept the issued commands in order; a refusal refuses what follows on its queue (R231). The result mask. -/
def acceptAll (tarn : Bool) (bits : Nat) : List Nat → List Nat → M Nat
  | _, [] => return 0
  | refused, i :: is => do
    let s ← get
    let c := s.makeCmd (bitsAt bits (512 * i) 512) tarn i
    let c := { c with dest := s.destOf c }
    if refused.contains c.queue || s.refuses c then acceptAll tarn bits (c.queue :: refused) is
    else
      set (s.accept c)
      return 2 ^ i + (← acceptAll tarn bits refused is)

/-- CMDB (R227). -/
def commandBatch (d a : BitVec 7) (mk : Bool) : M Unit := do
  useRegs [a]
  let g ← govern mk
  let s ← get
  let t := s.strand
  let p := t.purse (t.purseName a)
  let issued := (List.range (min 128 (p.fill / 512))).filter g.on
  match issued.find? fun i => (s.cmdFault (s.makeCmd (bitsAt p.bits (512 * i) 512) p.tarn i)).isSome with
  | some i =>
    let cause := (s.cmdFault (s.makeCmd (bitsAt p.bits (512 * i) 512) p.tarn i)).getD 0x21
    raise { Trap.at cause (BitVec.ofNat 64 (512 * i)) with elem := i }
  | none => pure ()
  let m ← acceptAll p.tarn p.bits [] issued
  modS fun u => u.setMask (d.toNat % 16) { bits := BitVec.ofNat 4096 m, tarn := p.tarn || g.tarn }

/-- CMDB (R227). -/
def execCmdb (d a : BitVec 7) (_ca mk : Bool) (s : State) : Host.Outcome State Fault Refusal :=
  runStep true (commandBatch d a mk) s

/-! ## Waiting on commands -/

/-- Commands of the same strand on the same copy queue that have signalled before a command (R109, R232; log 20). -/
def State.coveredBy (s : State) (id : Nat) : List Nat :=
  match s.cmd? id with
  | none => []
  | some c =>
    if 16 ≤ c.queue then []
    else (s.cmds.filter fun o => o.queue = c.queue && decide (o.id < c.id) && o.place = c.place && o.launch = c.launch && o.node.isNone &&
      o.phase = .signalled).map (·.id)

/-- In a D context a word whose last write was not a token of the waiting strand's (R234). -/
def State.strangeToken (s : State) (t : Strand) (k : Nat) : Bool :=
  match s.cmds.find? fun c => c.tokKey = some k with
  | some c => !(c.launch = t.launch && c.flat = t.flat && c.node.isNone)
  | none => s.stored.contains (t.launch, k / 8)

/-- The strand's commands whose token word lies at a virtual address (R234). -/
def State.ownTokens (s : State) (t : Strand) (va : Nat) : List (Nat × Nat) :=
  (s.cmds.filter fun c => c.launch = t.launch && c.flat = t.flat && c.node.isNone && c.ck = 2 && c.dword 56 = va).map fun c => (c.id, 0)

/-- The 8-byte word at a key as a strand's acquire would find it now (R112). -/
def State.wordNow (s : State) (t : Strand) (key : Nat) : Nat := (s.loadLine t { key := key, unc := true } 0 8 []).2.1

/-- The checks of CWAIT and CTOK on the token word at s[a] (R108, R234, R235); a trap owed on a command of that word comes first. -/
def checkToken (va : Word) : M Xl := do
  takeOwed fun c => c.ck = 2 && c.dword 56 = va.toNat
  let s ← get
  accessCheck { Acc.read with seen := s.ownTokens s.strand va.toNat } va 8

/-- The read itself: an LDAD at package scope, which observes the transfers whose token it reads (R234). In a D context the word's last write must be a
token of the strand's own; an observation that finds a conflict takes its trap here (R312, R434). -/
def takeWord (x : Xl) (va : Word) : M (Word × Bool) := do
  let s ← get
  let t := s.strand
  if t.st.d && s.strangeToken t x.key then raise (Acc.read.trap 0x09 0 va.toNat)
  let toks := s.tokensRead t.launch x.key (s.wordNow t x.key)
  let done := toks ++ toks.flatMap s.coveredBy
  let (v, b) ← loadAcquire x va 8 4
  modify fun u => u.observeAll done t.flat
  takeOwed fun c => done.contains c.id
  return (BitVec.ofNat 64 v, b)

/-- CWAIT (R234, R239): it completes when the word has come to the bound; until then the strand waits, with its checks behind it. -/
def waitToken (a b : BitVec 7) : M Unit := do
  let t ← getS
  let va := (t.reg a).val
  let bound := (t.reg b).val.toNat
  let x ← checkToken va
  if (← get).wordNow t x.key < bound then modS fun u => { u with run := .waitWord x.key x.unc bound, armed := none }
  else
    let _ ← takeWord x va
    modS Strand.advance

/-- CWAIT (R234). -/
def execCwait (a b : BitVec 7) (s : State) : Host.Outcome State Fault Refusal :=
  runM true (waitToken a b) s

/-- The end of CWAIT's wait: the word has come to the bound, or a command of it owes a trap (R234, R434). -/
def finishToken (key : Nat) (unc : Bool) : M Unit := do
  modS fun u => { u with run := .ready }
  let t ← getS
  match decodeWord t.word with
  | .ok (.cwait a _) =>
    let va := (t.reg a).val
    takeOwed fun c => c.ck = 2 && c.dword 56 = va.toNat
    let _ ← takeWord { key := key, unc := unc } va
    modS Strand.advance
  | _ => pure ()

/-- CTOK (R235). -/
def takeToken (d a : BitVec 7) : M Unit := do
  let t ← getS
  let va := (t.reg a).val
  let x ← checkToken va
  let (v, b) ← takeWord x va
  modS fun u => u.setReg d { val := v, tarn := (t.reg a).tarn || b || t.st.d }

/-- CTOK (R235). -/
def execCtok (d a : BitVec 7) (s : State) : Host.Outcome State Fault Refusal :=
  runStep true (takeToken d a) s

/-- The scoreboard of the strand's core holds part of the range of `n` bytes from a window address (R166, R236). -/
def State.scoreHit (s : State) (t : Strand) (va n : Nat) : Bool :=
  let core := coreOf t.place
  let lo := fun (k : Nat) => if 2 ^ 48 + 2 ^ 32 ≤ k then 0xFFF0000000000 + (k - laneKey core 0) else 0xFFE0000000000 + (k - scratchKey core 0)
  decide (n ≠ 0) && (s.core core).score.any fun e => decide (lo e.lo < va + n) && decide (va < lo e.lo + (e.hi - e.lo))

/-- SCBQ (R236). -/
def execScbq (d a b : BitVec 7) (s : State) : Host.Outcome State Fault Refusal :=
  .next (s.mapStrand fun t =>
    (t.setReg d { val := if s.scoreHit t (t.reg a).val.toNat (t.reg b).val.toNat then 1 else 0, tarn := true }).advance)

end Sys2Proof.Machine
end

