-- ==== Sys2Proof/Machine/Device.lean ====
section
/-! DEFINITION. Steps of the dies and stacks: the escapement (R160), level barriers over several cores (R284), the dirty FIFO (R308), write-backs,
relayouts and chunk pools of compressed pages (R293 to R296), scrubbing and migration (R347, R348), refresh, self-refresh and retraining (R344,
R349, R350, R427). A step that cannot happen in a state leaves it as it is. -/

namespace Sys2Proof.Machine

/-! ## The escapement (R160) -/

/-- Slots from the one after the last winner on. -/
def slotOrder (last : Nat) : List Nat := [(last + 1) % 4, (last + 2) % 4, (last + 3) % 4, last % 4]

/-- The first slot of a list with the greatest age. -/
def eldest (ages : List Nat) : List Nat → Option Nat
  | [] => none
  | i :: is => match eldest ages is with
    | none => some i
    | some j => if ages.getD j 0 ≤ ages.getD i 0 then some i else some j

/-- The slot that wins: an age of 9 or more, then a consumer in its chain slot, then the first ready one. -/
def CoreSt.winner (c : CoreSt) (ready : List Nat) (chain : Option Nat) : Option Nat :=
  let order := (slotOrder c.last).filter ready.contains
  match eldest c.ages (order.filter fun i => decide (9 ≤ c.ages.getD i 0)) with
  | some i => some i
  | none => match chain.filter ready.contains with
    | some i => some i
    | none => order.head?

/-- One issue slot: the winner's age becomes 0, every other ready strand's rises, a strand that is not ready has age 0. Without a ready strand
nothing is granted. -/
def CoreSt.grantSlot (c : CoreSt) (ready : List Nat) (chain : Option Nat) : CoreSt :=
  match c.winner ready chain with
  | none => { c with ages := [0, 0, 0, 0] }
  | some w =>
    { c with ages := (List.range 4).map fun i => if i = w || !ready.contains i then 0 else c.ages.getD i 0 + 1, last := w }

/-- The strand can execute an instruction. -/
def Strand.canRun (t : Strand) : Bool := t.run = .ready && t.saved.isNone && !t.due

/-- Slots of a core that a ready strand holds. -/
def State.readySlots (s : State) (core : Nat) (ready : BitVec 4) : List Nat :=
  (List.range 4).filter fun i => ready.getLsbD i && s.strands.any fun t => t.canRun && t.places.contains (4 * core + i)

/-- The first parked strand that `p` picks becomes the acting one, and the acting one is parked behind the others. -/
def State.giveTurn (s : State) (p : Strand → Bool) : State :=
  match s.parked.find? p with
  | none => s
  | some t => { s with strand := t, parked := s.parked.eraseP p ++ [s.strand] }

/-- The strand in a slot acts next. -/
def State.actIn (s : State) (place : Nat) : State :=
  let p := fun (t : Strand) => t.canRun && t.places.contains place
  if p s.strand then s else s.giveTurn p

/-- Loads that run ahead (R360, R384): by a free choice the core fills a line of another die early. -/
def State.runAhead (s : State) (core : Nat) : State :=
  let u := { s with fresh := s.fresh + 2 }
  if Config.pick s.fresh % 2 = 0 then u else u.fillEarly (4 * core) (Config.pick (s.fresh + 1))

/-- The slot that has won its core's issue slot, if one has. -/
def State.issueTo (s : State) (core : Nat) (ready : List Nat) (chain : Option Nat) : State :=
  let s1 := (s.runAhead core).setCore ((s.core core).grantSlot ready chain)
  match (s.core core).winner ready chain with
  | none => s1
  | some w => s1.actIn (4 * core + w)

/-- ISSUE_SLOT (R160): `ready` names the slots whose oldest vector instruction is ready, `chain` a consumer in its chain slot (R161). The winner's
strand acts next, so that the agenda can give every interleaving of strands (log 36). -/
def execIssueSlot (core : Nat) (ready : BitVec 4) (chain : Option Nat) (s : State) : Host.Outcome State Fault Refusal :=
  .next (if 256 ≤ core then s else s.issueTo core (s.readySlots core ready) chain)

/-! ## Level barriers (R284) -/

/-- CLSTAT.BNF of a core's cluster: its barrier network has failed (R287). -/
def State.netFailed (s : State) (core : Nat) : Bool := (s.reg64 (clusterCtl (core / 8))).getLsbD 1

/-- Every core's part of a group's round is complete, and the round has an arrival; a network that has failed completes no round over several cores
(R289), and a level between devices waits for them all (R399, R412). -/
def State.groupReady (s : State) (l : Launch) (level group bar : Nat) : Bool :=
  let cores := l.coresOf level group
  let insts := cores.map fun c => s.barrier c bar (some (l.id, level, group))
  insts.all Barrier.ready && !insts.any (s.memberBlocked · (l.roundScope level)) && insts.any (fun b => b.arr ≠ 0) && (decide (cores.length ≤ 1) || !cores.any s.netFailed) &&
    !(l.quiesced && 5 ≤ levelDom (l.levels.getD level 0))

/-- LEVEL_BARRIER_RELEASE (R284). At a level between devices it stands for the arrival of the other devices' parts as well (R399). -/
def execLevelBarrierRelease (launch level group : Nat) (s : State) : Host.Outcome State Fault Refusal :=
  match s.launch? launch with
  | none => .next s
  | some l =>
    let bar := levelBar (l.levels.getD level 0)
    .next (if l.levelOf bar = some level && s.groupReady l level group bar then s.completeGroup l level group bar else s)

/-! ## The dirty FIFO (R308) -/

/-- DIRTY_FIFO_DRAIN (R308). -/
def execDirtyFifoDrain (core : Nat) (s : State) : Host.Outcome State Fault Refusal := .next (s.drainOne core)

/-! ## Compressed pages (R293 to R296) -/

/-- SLCAP of a slice and POOLST of a partition (R292, R295). -/
def slcap (die slice : Nat) : Nat := dieCtl die + 0x1000 + slice * 0x20
def poolst (die part : Nat) : Nat := dieCtl die + 0x3000 + part * 8

/-- Chunks free in a pool. -/
def State.freeChunks (s : State) (die part : Nat) : Nat := getBits (s.reg64 (poolst die part)) 0 32

/-- A table's entry. -/
def State.tableWord (s : State) (t i : Nat) : Word := BitVec.ofNat 64 (Mem.readLE s.mem (t + 8 * i) 8)

/-- The page of a table and those below it that holds a physical byte: its base and size (R301). -/
def State.findLeaf (s : State) (k : Nat) : Nat → Nat → Option (Nat × Nat)
  | 0, _ => none
  | fuel + 1, t =>
    (List.range 256).findSome? fun i =>
      let e := s.tableWord t i
      let n := pageBytes (leafSize e)
      if !e.getLsbD 0 then none
      else if e.getLsbD 1 then (if leafPa e ≤ k ∧ k < leafPa e + n then some (leafPa e, n) else none)
      else s.findLeaf k fuel (getBits e 11 37 * 2 ^ 11)

/-- The partition's page that holds a physical byte: first frame and number of frames. -/
def State.pageOf (s : State) (part k : Nat) : Nat × Nat :=
  let root := s.reg64 (descAddr part 0x30)
  match (if root.getLsbD 0 then s.findLeaf k 5 (getBits root 11 37 * 2 ^ 11) else none) with
  | some (a, n) => (a / 4096, n / 4096)
  | none => (k / 4096, 1)

/-- A write takes `need` chunks of the pool and is performed: a relayout shows in RELAY. -/
def State.takeChunks (s : State) (die slice part need : Nat) (relay : Bool) : State :=
  let s1 := s.setField (poolst die part) 0 32 (s.freeChunks die part - need)
  if relay then s1.setField (slcap die slice) 0 32 (getBits (s1.reg64 (slcap die slice)) 0 32 + 1) else s1

/-- A write to a block that needs `need` chunks: a relayout of its page, or the first write to the block. With too few it stalls under the lock of the
whole page, with a POOL_EMPTY record of the page's address (R294, R295). -/
def State.layOut (s : State) (die slice part page need : Nat) (relay : Bool) : State :=
  if need ≤ s.freeChunks die part then s.takeChunks die slice part need relay
  else
    let (first, n) := s.pageOf part (page * 4096)
    let s1 := (s.postRecord part 2 [0, BitVec.ofNat 64 (first * 4096)] none none).1
    { s1.setField (poolst die part) 32 1 1 with
      locked := (List.range n).foldl (fun l i => setInsert (first + i) l) s1.locked,
      stalled := s1.stalled ++ [{ die := die, slice := slice, part := part, page := first, frames := n, need := need, relay := relay }] }

/-- The page is one of the partition's on a die, compressed and not locked, and the slice is the home of one of its blocks (R290, R294). -/
def State.mayLayOut (s : State) (die slice part page : Nat) : Bool :=
  s.compressed.contains page && !s.locked.contains page && s.inBands part (page * 4096) && decide (page * 4096 / hbmDie = die) &&
    (s.slices part die).contains slice && (List.range 16).any fun b => (s.sliceOf part (16 * page + b)).2 = slice

/-- RELAYOUT (R294). No step of the model leaves a line pinned: a TMMA is one step. -/
def execRelayout (die slice page chunks part : Nat) (s : State) : Host.Outcome State Fault Refusal :=
  .next (if s.mayLayOut die slice part page then s.layOut die slice part page chunks true else s)

/-- A write-back of the partition's memory: lost, or by a free choice the first write to its block, which takes a chunk (R295). The bytes stand at their
home already, where a strand's store goes when it is performed (R282). -/
def State.writeBack (s : State) (part k : Nat) (metaLost : Bool) : State :=
  if s.locked.contains (k / 4096) || !s.compressed.contains (k / 4096) then s
  else if metaLost then s.loseWriteback part k
  else
    let u := { s with fresh := s.fresh + 1 }
    let (die, slice) := s.sliceOf part (k / 256)
    if Config.pick s.fresh % 2 = 0 then u else u.layOut die slice part (k / 4096) 1 false

/-- L1_WRITEBACK (R295, R296). -/
def execL1Writeback (line : Nat) (metaLost : Bool) (s : State) : Host.Outcome State Fault Refusal :=
  .next (match s.ownerPart (line * 64) with | some p => s.writeBack p (line * 64) metaLost | none => s)

/-- A page of the partition is locked no longer: what the hub owes it goes on, an append of nodes and the records that wait (R294, R403, R419). -/
def State.unlocked (s : State) (part : Nat) : State := (s.appendHeld part).flushRecords part s.records.length

/-- The stalled writes of a pool go on, oldest first, as far as chunks suffice. -/
def State.resumeStalled (s : State) (die part : Nat) : Nat → State
  | 0 => s
  | n + 1 =>
    match s.stalled.find? fun x => x.die = die && x.part = part with
    | none => s.setField (poolst die part) 32 1 0
    | some x =>
      if s.freeChunks die part < x.need then s
      else
        let s1 := { s with
          stalled := s.stalled.filter (· ≠ x), locked := s.locked.filter fun f => !(decide (x.page ≤ f) && decide (f < x.page + x.frames)) }
        ((s1.takeChunks die x.slice part x.need x.relay).unlocked part).resumeStalled die part n

/-- STALLED_WRITE_RESUME (R295): `chunks` have been added to the pool. -/
def execStalledWriteResume (die part chunks : Nat) (s : State) : Host.Outcome State Fault Refusal :=
  .next (if 4 ≤ die ∨ 32 ≤ part then s
    else (s.setField (poolst die part) 0 32 (s.freeChunks die part + chunks)).resumeStalled die part (s.stalled.length + 1))

/-! ## Scrubbing and migration (R347, R348) -/

/-- PATROL_SCRUB (R347, R348): every sector of the unit is read, each by a request to its own PCH (R341, R349, R350). `failing` names sectors in which a bit has flipped just before, `correctable` says
where (log 26). -/
def execPatrolScrub (unit : Nat) (failing : BitVec 8) (correctable : Bool) (s : State) : Host.Outcome State Fault Refusal :=
  .next (if unit * 512 < hbmEnd then
      (List.range 8).foldl (fun u i => (u.request (unit * 512 + 64 * i)).readSector (unit * 8 + i)) (s.strike unit failing correctable)
    else s)

/-- Where a byte of a page goes that moves from `a` to `b`. -/
def moveKey (a b n k : Nat) : Nat := if a ≤ k ∧ k < a + n then k - a + b else k

/-- The marks of the lines of `[a, a + n)`, or of its words, carried to those from `b` on; `unit` is how many bytes a mark is of. -/
def moveMarks (unit a b n : Nat) (l : List Nat) : List Nat :=
  let kept := l.filter fun x => !(decide (b / unit ≤ x) && decide (x < (b + n) / unit))
  (l.filter fun x => decide (a / unit ≤ x) && decide (x < (a + n) / unit)).foldl (fun m x => setInsert (x - a / unit + b / unit) m) kept

/-- Bytes carried from a page to another. -/
def Mem.move (m : List Host.Cell) (a b n : Nat) : List Host.Cell :=
  (m.filter fun c => decide (a ≤ c.1) && decide (c.1 < a + n)).foldl (fun m c => Mem.write m (c.1 - a + b) c.2) (Mem.clear m b n)

/-- What a strand holds of a page that moves: its links, and the word that a CWAIT waits for. -/
def Strand.followPage (t : Strand) (mv : Nat → Nat) : Strand :=
  { t with links := t.links.map (fun l => mv (l * 64) / 64),
           run := match t.run with | .waitWord k unc bound => .waitWord (mv k) unc bound | r => r }

/-- What a command holds of a page that moves: the ranges written, its token, and a destination by key that lies in the page. -/
def Cmd.followPage (c : Cmd) (mv : Nat → Nat) : Cmd :=
  { c with wrote := c.wrote.map fun w => (mv w.1, w.2), tokKey := c.tokKey.map mv,
           dest := (c.dest.1, if c.dest.1 then mv c.dest.2.1 else c.dest.2.1, c.dest.2.2) }

/-- A page's content moves to a new frame with its tarnish, poison and tags (R322, R348, R417). Stores that wait for the old frame drain first, and
copies of its lines are dropped. Of local memory the words that have failed go along, as they were not read right (R281). -/
def State.movePage (s : State) (a b n : Nat) : State :=
  let inA := fun (line : Nat) => decide (a / 64 ≤ line) && decide (line < (a + n) / 64)
  let s0 := s.cores.foldl (fun u c => c.fifo.foldl (fun v e => if inA (lineOf e.key) then v.drainLine c.core (lineOf e.key) (v.core c.core).fifo.length else v) u) s
  let s1 := ((s0.reachRange a n false).reachRange b n true).writeCells b n
  let mv := moveKey a b n
  { s1 with
    mem := Mem.move s1.mem a b n, tarn := moveMarks 64 a b n s1.tarn, poison := moveMarks 64 a b n s1.poison, parity := moveMarks 8 a b n s1.parity,
    guests := s1.guests.filter fun g => !inA g.line,
    assay := s1.assay.map fun t => { t with granule := mv (t.granule * 256) / 256 },
    resv := s1.resv.map fun t => { t with cell := mv t.cell },
    oldCode := s1.oldCode.map fun o => { o with key := mv o.key, carriers := o.carriers.map fun x => (mv x.1, x.2) },
    strand := s1.strand.followPage mv, parked := s1.parked.map fun t => t.followPage mv,
    cores := s1.cores.map fun c => { c with score := c.score.map fun e => { e with lo := mv e.lo, hi := mv e.lo + (e.hi - e.lo) } },
    stored := s1.stored.map fun w => (w.1, mv (w.2 * 8) / 8),
    cmds := s1.cmds.map fun c => c.followPage mv,
    compressed := if s1.compressed.contains (a / 4096) then
        (List.range (n / 4096)).foldl (fun l i => setInsert (b / 4096 + i) (setErase (a / 4096 + i) l)) s1.compressed
      else s1.compressed }

/-- Number of the band of a byte of HBM: 16 · die + band (R341). -/
def bandOf (k : Nat) : Nat := 16 * (k / hbmDie) + k % hbmDie / hbmBand

/-- The frame may hold the page: in the partition's bands, neither locked nor retired, and not holding the old one. -/
def State.frameFree (s : State) (part a b n : Nat) : Bool :=
  s.inBands part b && decide (b % n = 0) && decide (b / hbmBand = (b + n - 1) / hbmBand ∨ n ≤ 4096) && (decide (b + n ≤ a) || decide (a + n ≤ b)) &&
    !s.badBands.contains (bandOf b) &&
    (List.range (n / 4096)).all fun i => !s.locked.contains (b / 4096 + i) && !s.retired.contains (b / 4096 + i)

/-- Write a leaf's new PA into every entry of its run (R301); the other fields stay. -/
def State.retarget (s : State) (entry size b : Nat) : State :=
  let run := match pageLevel size with | some (_, r) => r | none => 1
  let first := entry / (8 * run) * (8 * run)
  (List.range run).foldl (fun u i =>
    let e : Word := BitVec.ofNat 64 (Mem.readLE u.mem (first + 8 * i) 8)
    { u with mem := Mem.writeLE u.mem (first + 8 * i) 8 (setBits e 12 36 (b / 4096)).toNat }) s

/-- The page whose leaf stands at `entry` moves to the frames from `new` on; its cached translations are dropped. `none` when it cannot. -/
def State.migrate? (s : State) (old new entry part : Nat) : Option State :=
  let e : Word := BitVec.ofNat 64 (Mem.readLE s.mem entry 8)
  let a := leafPa e
  let n := pageBytes (leafSize e)
  let ok := s.inBands part entry && decide (entry % 8 = 0) && e.getLsbD 0 && e.getLsbD 1 && decide (leafSize e < 12) &&
    decide (a ≤ old * 4096 ∧ old * 4096 < a + n) && s.inBands part a && s.frameFree part a (new * 4096) n &&
    ((List.range (n / 4096)).all fun i => !s.locked.contains (a / 4096 + i)) &&
    s.cores.all fun c => !s.drainBlocked c.core || c.fifo.all fun e => !(decide (a ≤ e.key) && decide (e.key < a + n))
  if ok then
    let s1 := (s.movePage a (new * 4096) n).retarget entry (leafSize e) (new * 4096)
    some { s1 with tlb := s1.tlb.filter fun t => !(t.part = part && leafPa t.leaf = a) }
  else none

/-- A RESIZE is taking the byte's band from the partition, and keeps the band of another byte (R417). -/
def State.bandMoves (s : State) (part a b : Nat) : Bool :=
  let keeps := fun (k : Nat) => (s.reg64 (descAddr part 0x90)).getLsbD (k / hbmBand)
  s.resizing part && decide (a < hbmEnd) && s.ownsBand part (a / hbmDie) (a % hbmDie / hbmBand) && !keeps a && keeps b

/-- A table of level `fuel - 1`, or a page or table below it, lies where `p` says. -/
def State.tableMeets (s : State) (p : Nat → Bool) : Nat → Nat → Bool
  | 0, _ => false
  | fuel + 1, t =>
    p t ||
      (List.range 256).any fun i =>
        let e := s.tableWord t i
        e.getLsbD 0 && (if e.getLsbD 1 then p (leafPa e) else s.tableMeets p fuel (getBits e 11 37 * 2 ^ 11))

/-- A page or a table of the partition lies where `p` says. -/
def State.partMeets (s : State) (part : Nat) (p : Nat → Bool) : Bool :=
  let root := s.reg64 (descAddr part 0x30)
  root.getLsbD 0 && s.tableMeets p 5 (getBits root 11 37 * 2 ^ 11)

/-- A failed band leaves its partition when no page and no table of it lies there (R427). -/
def State.leaveBand (s : State) (part band : Nat) : State :=
  let a := descAddr part 0x10
  if s.badBands.contains band && (s.reg64 a).getLsbD band && !s.partMeets part (fun k => decide (k < hbmEnd) && decide (bandOf k = band))
  then s.setReg64 a (s.reg64 a &&& ~~~(BitVec.ofNat 64 (2 ^ band))) else s

/-- The frame `old` is retired: the record names its old and new address (R348). -/
def State.frameRetired (s : State) (part old new : Nat) : State :=
  let s1 := (s.postRecord part 4 [0, BitVec.ofNat 64 (old * 4096), BitVec.ofNat 64 (new * 4096)] none none).1
  { s1 with migrate := setErase old s1.migrate, retired := setInsert old s1.retired }

/-- A page of `n` frames has moved from the frames from `first` on to those from `new` on: `old` is retired, and every other of its frames that was queued
with it (R348). -/
def State.pageRetired (s : State) (part old first n new : Nat) : State :=
  (old :: s.migrate.filter fun f => f ≠ old && decide (first ≤ f) && decide (f < first + n)).foldl (fun u f => u.frameRetired part f (new + (f - first))) s

/-- PAGE_MIGRATION: the page of a queued frame moves and the old frame is retired (R348), or the page of a frame in a failed band (R427),
which leaves its partition once no page and no table lies there; or a page leaves a band that a RESIZE removes (R417). -/
def execPageMigration (old new entry part : Nat) (s : State) : Host.Outcome State Fault Refusal :=
  let band := bandOf (old * 4096)
  let failed := decide (old * 4096 < hbmEnd) && s.badBands.contains band
  if s.migrate.contains old || failed then
    match s.migrate? old new entry part with
    | some s1 =>
      let e := s.tableWord entry 0
      let s2 := s1.pageRetired part old (leafPa e / 4096) (pageBytes (leafSize e) / 4096) new
      .next (if failed then s2.leaveBand part band else s2)
    | none => .next (if failed then s.leaveBand part band else s)
  else if s.bandMoves part (old * 4096) (new * 4096) then .next ((s.migrate? old new entry part).getD s)
  else .next s

/-! ## Refresh (R344, R349, R350, R427) -/

/-- The PCH exists. -/
def pchOk (stack pch : Nat) : Bool := decide (stack < 8 ∧ pch < 128)

/-- TREFI_EXPIRY (R349): REC falls by 1. At −8 the refresh that is due has been issued first, so it stays; in self-refresh REC stays 0 (R350). -/
def execTrefiExpiry (stack pch : Nat) (s : State) : Host.Outcome State Fault Refusal :=
  .next (if pchOk stack pch && !s.selfRefresh stack pch && decide (-8 < s.refreshRec stack pch) then s.setRec stack pch (s.refreshRec stack pch - 1) else s)

/-- REFRESH (R349): pulled in only while REC < 8. -/
def execRefresh (stack pch : Nat) (s : State) : Host.Outcome State Fault Refusal :=
  .next (if pchOk stack pch && !s.selfRefresh stack pch && decide (s.refreshRec stack pch < 8) then s.setRec stack pch (s.refreshRec stack pch + 1) else s)

/-- SELF_REFRESH_ENTRY (R350): not while the PCH retrains. -/
def execSelfRefreshEntry (stack pch : Nat) (s : State) : Host.Outcome State Fault Refusal :=
  .next (if pchOk stack pch && !s.retraining stack pch then (s.setField (refrec stack pch) 10 1 1).setRec stack pch 0 else s)

/-- SELF_REFRESH_EXIT (R350). -/
def execSelfRefreshExit (stack pch : Nat) (s : State) : Host.Outcome State Fault Refusal :=
  .next (if pchOk stack pch then s.setField (refrec stack pch) 10 1 0 else s)

/-- A PCH fails: its whole band is retired, at once from a partition that has nothing there (R427). -/
def State.failPch (s : State) (stack pch : Nat) : State :=
  let band := 16 * (stack / 2) + (128 * (stack % 2) + pch) / 16
  let s1 := { s.useUpset (pchUnit stack pch) with badBands := setInsert band s.badBands }
  (List.range 32).foldl (fun u p => u.leaveBand p band) s1

/-- PCH_RETRAIN (R427): RETR while it goes on; the PCH fails when an upset of its own stands as it ends (log 26). -/
def execPchRetrain (stack pch : Nat) (on : Bool) (s : State) : Host.Outcome State Fault Refusal :=
  .next (if !pchOk stack pch then s
    else
      let s1 := s.setField (refrec stack pch) 11 1 (if on then 1 else 0)
      if !on && s1.upsetOf (pchUnit stack pch) ≠ 0 then s1.failPch stack pch else s1)

/-- HOT (R344): the stack's temperature has crossed 85 °C. -/
def execHot (stack : Nat) (on : Bool) (s : State) : Host.Outcome State Fault Refusal :=
  .next (if 8 ≤ stack then s else (List.range 128).foldl (fun u q => u.setField (refrec stack q) 12 1 (if on then 1 else 0)) s)

end Sys2Proof.Machine
end

