-- ==== Sys2Proof/Machine/Vector.lean ====
section
/-! DEFINITION. Vector arithmetic, compares, selection, conversion, reductions and generated streams: majors 0x20 to 0x27 and 0x29 to
0x2B (R173 to R193, R199 to R201). Arithmetic is exact and is encoded once (R175). Chain bits change only timing (R64). -/

namespace Sys2Proof.Machine

/-! ## Shared pieces -/

/-- A value without flags of its own: encoding it raises what it raises. -/
def pureVal (x : Ex) : Ex × Flags := (x, 0)

/-- The sign that an exact sum of opposite values takes (R175). -/
def Code.rdn (c : Code) : Bool := Rnd.ofField c.rm = .rdn

/-- A minimum or maximum with the NV of a signalling operand (R183). -/
def pickVal (wantMax : Bool) (x y : Ex) : Ex × Flags := let r := Ex.pick wantMax x y; (r.1, .when r.2 .nv)

/-- The exact value of a scalar operand under a reference code (R176). -/
def scalarVal (c : Code) (w : Word) : Ex :=
  if !c.isInteger then Fmt.fp64.decode w.toNat else if c.kind = 10 then Ex.ofInt w.toNat else Ex.ofInt w.toInt

/-- A bitwise operation on unbounded two's-complement integers, of which at most 65 bits matter (R185). -/
def bitwise (f : BitVec 72 → BitVec 72 → BitVec 72) (x y : Ex) : Ex × Flags :=
  pureVal (Ex.ofInt (f (BitVec.ofInt 72 x.toInt) (BitVec.ofInt 72 y.toInt)).toInt)

/-- a × 2^c, or floor(a / 2^-c) (R185). -/
def shiftInt (x : Int) (c : Int) : Int := if 0 ≤ c then x * 2 ^ c.toNat else x / 2 ^ (-c).toNat

/-- A register's count, at most 4,096. -/
def countOf (w : Word) : Nat := min w.toNat 4096

/-- Checks of a walk over a and b into d. -/
def codes3 (kd ka kb : Code → Bool) (d a b : BitVec 7) : M (Code × Code × Code) := do
  useRegs [d, a, b]
  let cd ← useCode d kd
  let ca ← useCode a ka
  let cb ← useCode b kb
  return (cd, ca, cb)

/-- Checks of a walk over a into d. -/
def codes2 (kd ka : Code → Bool) (d a : BitVec 7) : M (Code × Code) := do
  useRegs [d, a]
  let cd ← useCode d kd
  let ca ← useCode a ka
  return (cd, ca)

/-- A binary form: the value of element j from a[j] and b[j]; the rule sees the destination's code (R181, R183, R185). -/
def vecBinary (k : Code → Bool) (f : Code → Ex → Ex → Ex × Flags) (d a b : BitVec 7) (mk : Bool) : M Unit := do
  let (cd, ca, cb) ← codes3 k k k d a b
  let g ← govern mk
  walk2 cd ca cb g d a b fun _ x y => f cd x y

/-- A fused form (R182). -/
def vecFused (negProd negAdd : Bool) (d a b : BitVec 7) (mk : Bool) : M Unit := do
  let (cd, ca, cb) ← codes3 anyCode anyCode anyCode d a b
  let g ← govern mk
  walk2Acc cd ca cb g d a b fun _ x y z => pureVal (Ex.fma cd.rdn negProd negAdd x y z)

/-- A unary form (R183, R184). -/
def vecUnary (kd : Code → Bool) (f : Ex → Ex) (d a : BitVec 7) (mk : Bool) : M Unit := do
  let (cd, ca) ← codes2 kd anyCode d a
  let g ← govern mk
  walk1 .plain cd ca g d a false fun _ x => pureVal (f x)

/-- A vector-scalar form: the rule sees both codes and the scalar's bits (R186). -/
def vecScalar (k : Code → Bool) (f : Code → Code → Word → Ex → Ex × Flags) (d a b : BitVec 7) (mk : Bool) : M Unit := do
  let (cd, ca) ← codes2 k k d a
  let g ← govern mk
  let q := (← getS).reg b
  walk1 .plain cd ca g d a q.tarn fun _ x => f cd ca q.val x

/-- VFMAS (R186). -/
def vecFusedScalar (d a b : BitVec 7) (mk : Bool) : M Unit := do
  let (cd, ca) ← codes2 anyCode anyCode d a
  let g ← govern mk
  let q := (← getS).reg b
  walk1Acc cd ca g d a q.tarn fun _ x z => pureVal (Ex.fma cd.rdn false false x (scalarVal ca q.val) z)

/-- VSHRS on one value: the floor for an integer source, exact scaling for a floating one (R186). -/
def shiftRightVal (ca : Code) (w : Word) (x : Ex) : Ex × Flags :=
  let c := min w.toNat 127
  pureVal (if ca.isInteger then Ex.ofInt (x.toInt / 2 ^ c) else x.scale (-(c : Int)))

/-! ## Compares (R187) -/

/-- The relations of R187 on an order; `none` is an unordered pair. -/
inductive Rel where
  | eq | lt | le | ne
  deriving DecidableEq, Repr

/-- The order of two values, `none` with a NaN. -/
def Ex.order (x y : Ex) : Option Ordering := if x.isNan || y.isNan then none else some (Ex.cmp x y)

def Rel.holds (r : Rel) (o : Option Ordering) : Bool :=
  match r, o with
  | .eq, some .eq => true
  | .lt, some .lt => true
  | .le, some .lt | .le, some .eq => true
  | .ne, some .eq => false
  | .ne, _ => true
  | _, _ => false

/-- NV of a compare. -/
def Rel.nv (r : Rel) (x y : Ex) : Flags :=
  .when (x.isSig || y.isSig || ((x.isNan || y.isNan) && (r = .lt || r = .le))) .nv

/-- The mask bits and the flags of a compare over two lists; masked-off bits keep the old mask's. -/
def compareBits (r : Rel) (g : Gov) (block : Bool) (old : MaskBits) : Nat → List Ex → List Ex → Nat × List (Nat × Flags)
  | j, x :: xs, y :: ys =>
    let rest := compareBits r g block old (j + 1) xs ys
    if g.active block j then ((if r.holds (x.order y) then 2 ^ j else 0) + rest.1, (j, r.nv x y) :: rest.2)
    else ((if old.getLsbD j then 2 ^ j else 0) + rest.1, rest.2)
  | _, _, _ => (0, [])

/-- VCMPEQ, VCMPLT, VCMPLE, VCMPNE (R187). They start at the restart point's element like every walk (R145). -/
def vecCompare (r : Rel) (d a b : BitVec 7) (mk : Bool) : M Unit := do
  useRegs [a, b]
  let ca ← useCode a anyCode
  let cb ← useCode b anyCode
  let g ← govern mk
  let s ← get
  let pt := s.strand.point.getD .start
  let (xs, ta) ← source a ca pt.oa
  let (ys, tb) ← source b cb pt.ob
  let old := s.readMask s.strand d.toNat
  let block := ca.isBlock || cb.isBlock
  let xs := xs.take (4096 - pt.j)
  let n := min xs.length ys.length
  let (bits, fls) := compareBits r g block old.bits pt.j (xs.map (·.x)) (ys.map (·.x))
  let kept := decide (pt.j ≠ 0) || (List.range n).any fun k => !g.active block (pt.j + k)
  let tarn := ta || tb || g.tarn || (kept && old.tarn)
  modS fun t => (t.setMask d.toNat { bits := BitVec.ofNat 4096 (old.bits.toNat % 2 ^ pt.j + bits), tarn := tarn }).credit (pt.j = 0) fls tarn
  receipt (pt.j + n) (pt.oa + advOf (xs.take n)) (pt.ob + advOf (ys.take n)) 0 tarn

/-! ## Selection, conversion, tags, broadcast -/

/-- VSEL: the mask selects and no element is masked off (R188). -/
def vecSelect (d a b : BitVec 7) : M Unit := do
  let (cd, ca, cb) ← codes3 anyCode anyCode anyCode d a b
  let g ← govern true
  let all : Gov := { bits := BitVec.allOnes 4096, tarn := g.tarn, seen := [] }
  walk2 cd ca cb all d a b fun j x y => pureVal (if g.on j then x else y)

/-- Kinds whose conversions update AMAX (R59, R189). -/
def Code.hasAmax (c : Code) : Bool := c.kind = 5 || c.kind = 6 || c.kind = 7 || c.kind = 8

/-- VCVT (R189). -/
def vecConvert (d a : BitVec 7) (mk : Bool) : M Unit := do
  let (cd, ca) ← codes2 anyCode anyCode d a
  let g ← govern mk
  walk1 { Mode.plain with amax := cd.hasAmax } cd ca g d a false fun _ x => pureVal x

/-- VCODE: the tag alone changes (R190). The purse is written, so a restart residue of it is stale. -/
def setTag (d n : BitVec 7) : M Unit := do
  useRegs [d]
  modS fun t => let k := t.purseName d; t.placePurse k { t.purse k with tag := n.setWidth 3 }

/-- VBCAST (R191). -/
def vecBroadcast (d a b : BitVec 7) (mk : Bool) : M Unit := do
  useRegs [d]
  let cd ← useCode d anyCode
  let g ← govern mk
  let q := (← getS).reg a
  let n := (← getS).reg b
  walk0 .plain cd g d (countOf n.val) (q.tarn || n.tarn) fun _ => pureVal (scalarVal cd q.val)

/-! ## Reductions and scan (R192, R193) -/

/-- The value of `encode_code(cn, x, i)` and its flags: the tree's rounding. -/
def Code.rd (c : Code) (dr : Draw) (i : Nat) (x : Ex) : Ex × Flags :=
  if c.isBlock then
    let (b, _, fl) := c.encodeBlock dr i [x]
    (c.blockElem (b % 256) (b / 256), fl.foldl (fun f p => f ||| p.2) 0)
  else
    let (b, len, fl) := c.encodeElem dr i x
    (c.decodeBits len b, fl)

/-- A partial result of `red`: absent, an element as it stands, or a rounded sum. -/
structure Partial where
  x     : Option Ex
  added : Bool
  flags : List (Nat × Flags)
  deriving DecidableEq, Repr

/-- The largest power of two below `n`, for `n` at least 2. -/
def splitAt2 (n : Nat) : Nat := 2 ^ Nat.log2 (n - 1)

/-- Join two parts at index `m` (R53, R192). -/
def joinParts (c : Code) (dr : Draw) (m : Nat) (p q : Partial) : Partial :=
  match p.x, q.x with
  | none, _ => { q with flags := p.flags ++ q.flags }
  | _, none => { p with flags := p.flags ++ q.flags }
  | some x, some y =>
    let r := c.rd dr m (Ex.add c.rdn x y)
    { x := some r.1, added := true, flags := p.flags ++ q.flags ++ [(m, r.2)] }

/-- `red(lo, lo + n)` over cells from `lo` on, with `fuel` at least the depth of the tree. -/
def redTree (c : Code) (dr : Draw) : Nat → Nat → List (Option Ex) → Partial
  | 0, _, _ => { x := none, added := false, flags := [] }
  | fuel + 1, lo, xs =>
    match xs with
    | [] => { x := none, added := false, flags := [] }
    | [x] => { x := x, added := false, flags := [] }
    | xs =>
      let k := splitAt2 xs.length
      joinParts c dr (lo + k) (redTree c dr fuel lo (xs.take k)) (redTree c dr fuel (lo + k) (xs.drop k))

/-- Lowest active index. -/
def firstActive : Nat → List (Option Ex) → Nat
  | j, some _ :: _ => j
  | j, none :: xs => firstActive (j + 1) xs
  | j, [] => j

/-- VREDSUM's value over elements with its flags (R192). -/
def sumOf (c : Code) (dr : Draw) (xs : List (Option Ex)) : Option Ex × List (Nat × Flags) :=
  let t := redTree c dr 13 0 xs
  match t.x with
  | none => (none, [])
  | some x =>
    if t.added then (some x, t.flags)
    else
      let i := firstActive 0 xs
      let r := c.rd dr i x
      (some r.1, [(i, r.2)])

/-- VREDMAX's or VREDMIN's exact value (R192). -/
def extremeOf (wantMax : Bool) : List (Option Ex) → Option Ex
  | [] => none
  | none :: xs => extremeOf wantMax xs
  | some x :: xs => match extremeOf wantMax xs with | none => some x | some y => some (Ex.pick wantMax x y).1

/-- Lowest index of an active signalling NaN. -/
def firstSig : Nat → List (Option Ex) → Option Nat
  | _, [] => none
  | j, some x :: xs => if x.isSig then some j else firstSig (j + 1) xs
  | j, none :: xs => firstSig (j + 1) xs

/-- A NaN that has raised its NV already. -/
def Ex.quieted : Ex → Ex
  | .nan _ => .nan false
  | x => x

/-- Write the one code of a reduction: an exact value encoded at index 0, or zero of the code. -/
def Code.oneCode (c : Code) (dr : Draw) (x : Option Ex) : Nat × Nat × Flags :=
  match x with
  | none => if c.isBlock then (0, c.blockBits 1, 0) else (0, c.zeroBits.2, 0)
  | some x =>
    if c.isBlock then
      let (b, len, fl) := c.encodeBlock dr 0 [x]
      (b, len, fl.foldl (fun f p => f ||| p.2) 0)
    else c.encodeElem dr 0 x

/-- Elements of a reduction's source, absent where the mask is 0. -/
def activeVals (g : Gov) (block : Bool) (xs : List Ex) : List (Option Ex) :=
  (List.range xs.length).zip xs |>.map fun (j, x) => if g.active block j then some x else none

/-- Reductions (R192). `f` gives the value to encode, the flags credited inside, and whether the last encode's flags count. -/
def vecReduce (f : Code → Draw → List (Option Ex) → Option Ex × List (Nat × Flags) × Bool) (d a : BitVec 7) (mk : Bool) : M Unit := do
  let (cd, ca) ← codes2 anyCode anyCode d a
  let g ← govern mk
  let t ← getS
  let (es, ta) ← source a ca 0
  let xs := activeVals g ca.isBlock (es.map (·.x))
  let dr := cd.draw t.ctl.seed.val t.ctl.srb.val
  let (v, fls, last) := f cd dr xs
  let (b, len, fl) := cd.oneCode dr v
  let tarn := ta || g.tarn
  let _ ← writePurse (t.purseName d) b len tarn
  modS fun u => u.credit true (if last then fls ++ [(0, fl)] else fls) tarn
  receipt xs.length (advOf es) 0 len tarn

/-- VREDSUM's value is already one of the code, so its last encode raises nothing new. -/
def reduceSum (c : Code) (dr : Draw) (xs : List (Option Ex)) : Option Ex × List (Nat × Flags) × Bool :=
  let r := sumOf c dr xs
  (r.1, r.2, false)

/-- VREDMAX and VREDMIN: one encode at index 0, and the NV of a signalling NaN at its own lowest index. -/
def reduceExtreme (wantMax : Bool) (_ : Code) (_ : Draw) (xs : List (Option Ex)) : Option Ex × List (Nat × Flags) × Bool :=
  ((extremeOf wantMax xs).map Ex.quieted, match firstSig 0 xs with | some j => [(j, Flags.nv)] | none => [], true)

/-- VSCAN: element j is VREDSUM over elements 0 to j; what its computation raises is credited to j (R193). -/
def vecScan (d a : BitVec 7) (mk : Bool) : M Unit := do
  let (cd, ca) ← codes2 anyCode anyCode d a
  let g ← govern mk
  let t ← getS
  let dr := cd.draw t.ctl.seed.val t.ctl.srb.val
  let (all, _) ← source a ca 0
  let xs := activeVals g (cd.isBlock || ca.isBlock) (all.map (·.x))
  walk1 .plain cd ca g d a false fun j _ =>
    let r := sumOf cd dr (xs.take (j + 1))
    ((r.1.getD (.zero false)).quieted, r.2.foldl (fun f p => f ||| p.2) 0)

/-! ## Generated and measured streams (R199 to R201) -/

/-- VID (R199). -/
def vecIndex (d a : BitVec 7) (mk : Bool) : M Unit := do
  useRegs [d]
  let cd ← useCode d anyCode
  let g ← govern mk
  let n := (← getS).reg a
  walk0 .plain cd g d (countOf n.val) n.tarn fun j => pureVal (Ex.ofInt j)

/-- One value of VRAND (R200). -/
def randVal (c : Code) (seed srb : Word) (j : Nat) : Ex :=
  let r := (rng64 seed srb j).toNat
  let w := if c.kind = 0 then 4 * c.limit else c.fixedBits
  if c.isInteger then (if c.kind = 10 then Ex.ofInt (r % 2 ^ w : Nat) else Ex.ofInt (signed w r))
  else .fin false (r / 2 ^ 11) (if r / 2 ^ 11 = 0 then 0 else -53) false

/-- VRAND: no flag, no tarnish, and RTZ in place of the code's RM (R200). -/
def vecRandom (d a : BitVec 7) (mk : Bool) : M Unit := do
  useRegs [d]
  let cd ← useCode d anyCode
  let g ← govern mk
  let t ← getS
  walk0 { Mode.plain with quiet := true } (if cd.isInteger then cd else { cd with rm := 1 }) g d (countOf (t.reg a).val) false
    fun j => pureVal (randVal cd t.ctl.seed.val t.ctl.srb.val j)

/-- VOFFS and VLENS (R201). -/
def vecMeasure (f : Elem → Nat) (d a : BitVec 7) : M Unit := do
  let (cd, ca) ← codes2 anyCode anyCode d a
  let g ← govern false
  let pt := (← getS).point.getD .start
  let (es, _) ← source a ca pt.oa
  let vals := es.map f
  walk1 .plain cd ca g d a false fun j _ => pureVal (Ex.ofInt (vals.getD (j - pt.j) 0 : Nat))

/-! ## The instructions -/

/-- VADD (R181). -/
def execVadd (d a b : BitVec 7) (_ca _cb mk : Bool) (s : State) : Host.Outcome State Fault Refusal :=
  runStep true (vecBinary anyCode (fun cd x y => pureVal (Ex.add cd.rdn x y)) d a b mk) s

/-- VSUB (R181). -/
def execVsub (d a b : BitVec 7) (_ca _cb mk : Bool) (s : State) : Host.Outcome State Fault Refusal :=
  runStep true (vecBinary anyCode (fun cd x y => pureVal (Ex.add cd.rdn x y.neg)) d a b mk) s

/-- VMUL (R181). -/
def execVmul (d a b : BitVec 7) (_ca _cb mk : Bool) (s : State) : Host.Outcome State Fault Refusal :=
  runStep true (vecBinary anyCode (fun _ x y => pureVal (Ex.mul x y)) d a b mk) s

/-- VDIV (R181). -/
def execVdiv (d a b : BitVec 7) (_ca _cb mk : Bool) (s : State) : Host.Outcome State Fault Refusal :=
  runStep true (vecBinary anyCode (fun _ x y => pureVal (Ex.div x y)) d a b mk) s

/-- VFMA (R182). -/
def execVfma (d a b : BitVec 7) (_ca _cb mk : Bool) (s : State) : Host.Outcome State Fault Refusal :=
  runStep true (vecFused false false d a b mk) s

/-- VFMS (R182). -/
def execVfms (d a b : BitVec 7) (_ca _cb mk : Bool) (s : State) : Host.Outcome State Fault Refusal :=
  runStep true (vecFused false true d a b mk) s

/-- VFNMA (R182). -/
def execVfnma (d a b : BitVec 7) (_ca _cb mk : Bool) (s : State) : Host.Outcome State Fault Refusal :=
  runStep true (vecFused true true d a b mk) s

/-- VFNMS (R182). -/
def execVfnms (d a b : BitVec 7) (_ca _cb mk : Bool) (s : State) : Host.Outcome State Fault Refusal :=
  runStep true (vecFused true false d a b mk) s

/-- VMIN (R183). -/
def execVmin (d a b : BitVec 7) (_ca _cb mk : Bool) (s : State) : Host.Outcome State Fault Refusal :=
  runStep true (vecBinary anyCode (fun _ x y => pickVal false x y) d a b mk) s

/-- VMAX (R183). -/
def execVmax (d a b : BitVec 7) (_ca _cb mk : Bool) (s : State) : Host.Outcome State Fault Refusal :=
  runStep true (vecBinary anyCode (fun _ x y => pickVal true x y) d a b mk) s

/-- VABS (R183). -/
def execVabs (d a : BitVec 7) (_ca mk : Bool) (s : State) : Host.Outcome State Fault Refusal :=
  runStep true (vecUnary anyCode Ex.abs d a mk) s

/-- VNEG (R183). -/
def execVneg (d a : BitVec 7) (_ca mk : Bool) (s : State) : Host.Outcome State Fault Refusal :=
  runStep true (vecUnary anyCode Ex.neg d a mk) s

/-- VSQRT (R56, R184). -/
def execVsqrt (d a : BitVec 7) (_ca mk : Bool) (s : State) : Host.Outcome State Fault Refusal :=
  runStep true (vecUnary floatingCode (Special.apply .sqrt) d a mk) s

/-- VRSQRT (R56, R184). -/
def execVrsqrt (d a : BitVec 7) (_ca mk : Bool) (s : State) : Host.Outcome State Fault Refusal :=
  runStep true (vecUnary floatingCode (Special.apply .rsqrt) d a mk) s

/-- VRECIP (R56, R184). -/
def execVrecip (d a : BitVec 7) (_ca mk : Bool) (s : State) : Host.Outcome State Fault Refusal :=
  runStep true (vecUnary floatingCode (Special.apply .recip) d a mk) s

/-- VEXP2 (R56, R184). -/
def execVexp2 (d a : BitVec 7) (_ca mk : Bool) (s : State) : Host.Outcome State Fault Refusal :=
  runStep true (vecUnary floatingCode (Special.apply .exp2) d a mk) s

/-- VLOG2 (R56, R184). -/
def execVlog2 (d a : BitVec 7) (_ca mk : Bool) (s : State) : Host.Outcome State Fault Refusal :=
  runStep true (vecUnary floatingCode (Special.apply .log2) d a mk) s

/-- VAND (R185). -/
def execVand (d a b : BitVec 7) (_ca _cb mk : Bool) (s : State) : Host.Outcome State Fault Refusal :=
  runStep true (vecBinary integerCode (fun _ x y => bitwise (fun p q => p &&& q) x y) d a b mk) s

/-- VOR (R185). -/
def execVor (d a b : BitVec 7) (_ca _cb mk : Bool) (s : State) : Host.Outcome State Fault Refusal :=
  runStep true (vecBinary integerCode (fun _ x y => bitwise (fun p q => p ||| q) x y) d a b mk) s

/-- VXOR (R185). -/
def execVxor (d a b : BitVec 7) (_ca _cb mk : Bool) (s : State) : Host.Outcome State Fault Refusal :=
  runStep true (vecBinary integerCode (fun _ x y => bitwise (fun p q => p ^^^ q) x y) d a b mk) s

/-- VSHIFT (R185). -/
def execVshift (d a b : BitVec 7) (_ca _cb mk : Bool) (s : State) : Host.Outcome State Fault Refusal :=
  runStep true (vecBinary integerCode (fun _ x y => pureVal (Ex.ofInt (shiftInt x.toInt (max (-127) (min 127 y.toInt))))) d a b mk) s

/-- VCMPEQ (R187). -/
def execVcmpeq (d a b : BitVec 7) (_ca _cb mk : Bool) (s : State) : Host.Outcome State Fault Refusal :=
  runStep true (vecCompare .eq d a b mk) s

/-- VCMPLT (R187). -/
def execVcmplt (d a b : BitVec 7) (_ca _cb mk : Bool) (s : State) : Host.Outcome State Fault Refusal :=
  runStep true (vecCompare .lt d a b mk) s

/-- VCMPLE (R187). -/
def execVcmple (d a b : BitVec 7) (_ca _cb mk : Bool) (s : State) : Host.Outcome State Fault Refusal :=
  runStep true (vecCompare .le d a b mk) s

/-- VCMPNE (R187). -/
def execVcmpne (d a b : BitVec 7) (_ca _cb mk : Bool) (s : State) : Host.Outcome State Fault Refusal :=
  runStep true (vecCompare .ne d a b mk) s

/-- VSEL (R188). -/
def execVsel (d a b : BitVec 7) (_ca _cb : Bool) (s : State) : Host.Outcome State Fault Refusal :=
  runStep true (vecSelect d a b) s

/-- VCVT (R189). -/
def execVcvt (d a : BitVec 7) (_ca mk : Bool) (s : State) : Host.Outcome State Fault Refusal :=
  runStep true (vecConvert d a mk) s

/-- VCODE (R190). -/
def execVcode (d n : BitVec 7) (s : State) : Host.Outcome State Fault Refusal :=
  runStep true (setTag d n) s

/-- VBCAST (R191). -/
def execVbcast (d a b : BitVec 7) (mk : Bool) (s : State) : Host.Outcome State Fault Refusal :=
  runStep true (vecBroadcast d a b mk) s

/-- VREDSUM (R192). -/
def execVredsum (d a : BitVec 7) (_ca mk : Bool) (s : State) : Host.Outcome State Fault Refusal :=
  runStep true (vecReduce reduceSum d a mk) s

/-- VREDMAX (R192). -/
def execVredmax (d a : BitVec 7) (_ca mk : Bool) (s : State) : Host.Outcome State Fault Refusal :=
  runStep true (vecReduce (reduceExtreme true) d a mk) s

/-- VREDMIN (R192). -/
def execVredmin (d a : BitVec 7) (_ca mk : Bool) (s : State) : Host.Outcome State Fault Refusal :=
  runStep true (vecReduce (reduceExtreme false) d a mk) s

/-- VSCAN (R193). -/
def execVscan (d a : BitVec 7) (_ca mk : Bool) (s : State) : Host.Outcome State Fault Refusal :=
  runStep true (vecScan d a mk) s

/-- VID (R199). -/
def execVid (d a : BitVec 7) (mk : Bool) (s : State) : Host.Outcome State Fault Refusal :=
  runStep true (vecIndex d a mk) s

/-- VRAND (R200). -/
def execVrand (d a : BitVec 7) (mk : Bool) (s : State) : Host.Outcome State Fault Refusal :=
  runStep true (vecRandom d a mk) s

/-- VOFFS (R201). -/
def execVoffs (d a : BitVec 7) (_ca : Bool) (s : State) : Host.Outcome State Fault Refusal :=
  runStep true (vecMeasure (·.off) d a) s

/-- VLENS (R201). -/
def execVlens (d a : BitVec 7) (_ca : Bool) (s : State) : Host.Outcome State Fault Refusal :=
  runStep true (vecMeasure (·.own) d a) s

/-- VADDS (R186). -/
def execVadds (d a b : BitVec 7) (_ca mk : Bool) (s : State) : Host.Outcome State Fault Refusal :=
  runStep true (vecScalar anyCode (fun cd ca q x => pureVal (Ex.add cd.rdn x (scalarVal ca q))) d a b mk) s

/-- VMULS (R186). -/
def execVmuls (d a b : BitVec 7) (_ca mk : Bool) (s : State) : Host.Outcome State Fault Refusal :=
  runStep true (vecScalar anyCode (fun _ ca q x => pureVal (Ex.mul x (scalarVal ca q))) d a b mk) s

/-- VSHLS (R186). -/
def execVshls (d a b : BitVec 7) (_ca mk : Bool) (s : State) : Host.Outcome State Fault Refusal :=
  runStep true (vecScalar anyCode (fun _ _ q x => pureVal (x.scale (min q.toNat 127 : Nat))) d a b mk) s

/-- VSHRS (R186). -/
def execVshrs (d a b : BitVec 7) (_ca mk : Bool) (s : State) : Host.Outcome State Fault Refusal :=
  runStep true (vecScalar anyCode (fun _ ca q x => shiftRightVal ca q x) d a b mk) s

/-- VANDS (R186). -/
def execVands (d a b : BitVec 7) (_ca mk : Bool) (s : State) : Host.Outcome State Fault Refusal :=
  runStep true (vecScalar integerCode (fun _ ca q x => bitwise (fun p r => p &&& r) x (scalarVal ca q)) d a b mk) s

/-- VFMAS (R186). -/
def execVfmas (d a b : BitVec 7) (_ca mk : Bool) (s : State) : Host.Outcome State Fault Refusal :=
  runStep true (vecFusedScalar d a b mk) s

/-- VMAXS (R186). -/
def execVmaxs (d a b : BitVec 7) (_ca mk : Bool) (s : State) : Host.Outcome State Fault Refusal :=
  runStep true (vecScalar anyCode (fun _ ca q x => pickVal true x (scalarVal ca q)) d a b mk) s

/-- VMINS (R186). -/
def execVmins (d a b : BitVec 7) (_ca mk : Bool) (s : State) : Host.Outcome State Fault Refusal :=
  runStep true (vecScalar anyCode (fun _ ca q x => pickVal false x (scalarVal ca q)) d a b mk) s

end Sys2Proof.Machine
end

