-- ==== Sys2Proof/Machine/Moves.lean ====
section
/-! DEFINITION. Moving elements, masks, SETVL and its group, spill frames and appending: majors 0x28 and 0x2C to 0x2E (R153 to R155,
R158, R163, R169, R194 to R198, R202 to R209, R352, R354). -/

namespace Sys2Proof.Machine

/-! ## Element moves (R194 to R198, R354) -/

/-- Elements of one segment. -/
def inSeg (l : List Elem) (g : Nat) : List Elem := l.filter (·.seg = g)

/-- The element of a list at an integer index; `none` outside it. -/
def elemAt (l : List Elem) (x : Int) : Option Elem := if 0 ≤ x then l[x.toNat]? else none

/-- The value read, +0 outside (R194). -/
def readVal (o : Option Elem) : Ex := match o with | some e => e.x | none => .zero false

/-- Bits a read counts in RC.A (R177). -/
def readBits (o : Option Elem) : Nat := match o with | some e => e.own | none => 0

/-- Cells of reads: each position with its element and the governing mask. The mask bit and the old code of a position are those of its place in
the whole result: for a span strand the spec names no index of its own for them in VGATHR, VSLIDE and VXCH (R179, R354; DESIGN CHOICE, log 45). -/
def cellsOfReads (g : Gov) (block : Bool) (j : Nat) (l : List (Option Elem)) : List Cell :=
  cellsFrom g block (fun _ x => pureVal x) j (l.map readVal)

/-- Deposit a list of reads that has no streaming source (VSLIDE, VXCH), from the restart point's element on. -/
def depositReads (cd : Code) (g : Gov) (d : BitVec 7) (l : List (Option Elem)) (src : Bool) : M Unit := do
  let pt := (← getS).point.getD .start
  let l := l.take 4096
  let r ← depositCells .plain d cd cd.isBlock (cellsOfReads g cd.isBlock pt.j (l.drop pt.j)) (src || g.tarn)
  receipt r.e ((l.take r.e).map readBits).sum 0 r.od r.tarn

/-- VGATHR: the index purse is walked, and each index names an element of its own segment of a (R194, R354). -/
def vecGather (d a b : BitVec 7) (mk : Bool) : M Unit := do
  let (cd, ca, cb) ← codes3 anyCode anyCode integerCode d a b
  let g ← govern mk
  let pt := (← getS).point.getD .start
  let (xs, ta) ← source a ca 0
  let (is, tb) ← source b cb pt.ob
  let is := is.take (4096 - pt.j)
  let reads := is.map fun i => elemAt (inSeg xs i.seg) i.x.toInt
  let r ← depositCells .plain d cd cd.isBlock (cellsOfReads g cd.isBlock pt.j reads) (ta || tb || g.tarn)
  receipt r.e (pt.oa + ((reads.take (r.e - pt.j)).map readBits).sum) (pt.ob + advOf (is.take (r.e - pt.j))) r.od r.tarn

/-- VSLIDE's reads in one segment: element j reads a[j + n] (R195). -/
def slideReads (l : List Elem) (n : Int) : List (Option Elem) :=
  (List.range (min 4096 (max 0 ((l.length : Int) - n)).toNat)).map fun (j : Nat) => elemAt l ((j : Int) + n)

/-- VSLIDE (R195). -/
def vecSlide (d a b : BitVec 7) (mk : Bool) : M Unit := do
  let (cd, ca) ← codes2 anyCode anyCode d a
  let g ← govern mk
  let t ← getS
  let (xs, ta) ← source a ca 0
  depositReads cd g d ((List.range t.room.segs).flatMap fun q => slideReads (inSeg xs q) (t.reg b).val.toInt) (ta || (t.reg b).tarn)

/-- VXCH: element j of segment g reads element j xor m of segment g xor p (R198, R354). -/
def vecExchange (d a b : BitVec 7) (mk : Bool) : M Unit := do
  let (cd, ca) ← codes2 anyCode anyCode d a
  let g ← govern mk
  let t ← getS
  let (xs, ta) ← source a ca 0
  let q := (t.reg b).val
  let m := getBits q 0 12
  let p := if t.st.span then getBits q 16 3 else 0
  let reads := (List.range t.room.segs).flatMap fun k =>
    let from_ := inSeg xs (k ^^^ p)
    (List.range (inSeg xs k).length).map fun j => from_[j ^^^ m]?
  depositReads cd g d reads (ta || (t.reg b).tarn)

/-- Position of each element in its own segment (R354). -/
def segPositions (l : List Elem) : List (Nat × Elem) :=
  (List.range l.length).zip l |>.map fun (i, e) => (i - (l.takeWhile fun x => x.seg < e.seg).length, e)

/-- VCOMP's units of work: one element each, or a source block's elements together (R49); each element with its selection. -/
def compUnits (block : Bool) (sel : List (Elem × Bool)) : Nat → List (List (Elem × Bool))
  | 0 => []
  | fuel + 1 =>
    if sel = [] then []
    else if block then
      let k := 1 + ((sel.drop 1).takeWhile fun p => p.1.adv = 0).length
      sel.take k :: compUnits block (sel.drop k) fuel
    else sel.take 1 :: compUnits block (sel.drop 1) fuel

/-- Deposit units whole until one does not fit, into a destination without blocks; the position of the next element is `p.e` (R196). -/
def compLoop (d : Dest) : List (List (Elem × Bool)) → Put × Nat × Nat → Put × Nat × Nat
  | [], r => r
  | u :: us, (p, n, oa) =>
    let cells : List Cell := (u.filter (·.2)).map fun e => some (pureVal e.1.x)
    let (codes, fls) := encodeCells d.c d.dr p.e [] cells
    match d.room.putAll p.pos (codes.map (·.2)) with
    | none => (p, n, oa)
    | some pos =>
      let (od, bits) := layCodes p.od codes
      compLoop d us ({ e := p.e + cells.length, od := od, bits := p.bits + bits, pos := pos, flags := p.flags ++ fls },
        n + u.length, oa + advOf (u.map (·.1)))

/-- How many selected elements whole destination blocks take: all, or a multiple of 32 (R49). -/
def compFit (d : Dest) (total : Nat) : Nat → Nat × Nat → Nat → Nat
  | 0, _, done => done
  | fuel + 1, pos, done =>
    if done = total then done
    else
      let k := min 32 (total - done)
      match d.room.put pos (d.c.blockBits k) with
      | none => done
      | some q => compFit d total fuel q (done + k)

/-- Units consumed when the first `p` selected elements fit: the last unit is whole (R49, R196). -/
def compTake (p : Nat) : List (List (Elem × Bool)) → List (List (Elem × Bool))
  | [] => []
  | u :: us => let k := (u.filter (·.2)).length; if k ≤ p then u :: compTake (p - k) us else []

/-- What VCOMP makes of the elements with their selection: what the destination holds, how many elements are consumed, and the bits they take. -/
def compResult (dest : Dest) (ca : Code) (sel : List (Elem × Bool)) : Put × Nat × Nat :=
  let units := compUnits ca.isBlock sel (sel.length + 1)
  let p0 : Put := { e := 0, od := 0, bits := 0, pos := (0, 0), flags := [] }
  if dest.c.isBlock then
    let us := compTake (compFit dest (sel.filter (·.2)).length 129 (0, 0) 0) units
    let cells : List Cell := ((us.flatten).filter (·.2)).map fun e => some (pureVal e.1.x)
    (depositLoop dest 32 (cells.length + 1) cells p0, us.flatten.length, advOf (us.flatten.map (·.1)))
  else compLoop dest units (p0, 0, 0)

/-- VCOMP (R196). Its positions count from 0: it has no restart point of its own. -/
def vecCompress (d a b : BitVec 7) : M Unit := do
  let (cd, ca) ← codes2 anyCode anyCode d a
  let s ← get
  let t := s.strand
  let k := s.readMask t b.toNat
  let (xs, ta) ← source a ca 0
  let sel := (segPositions xs).map fun (i, e) => (e, k.bits.getLsbD i)
  let dest : Dest := { c := cd, dr := cd.draw t.ctl.seed.val t.ctl.srb.val, room := t.room, old := [], acc := false }
  let (p, n, oa) := compResult dest ca sel
  let tarn := ta || k.tarn
  let _ ← writePurse (t.purseName d) p.bits p.od tarn
  modS fun u => u.credit true p.flags tarn
  receipt n oa 0 p.od tarn

/-- VEXPD's positions in one segment: `some (some e)` takes a's next element, `some none` keeps the old one; the walk ends where a has run
out (R197). -/
def expandReads (k : MaskBits) (n : Nat) : Nat → Nat → List Elem → List (Option Elem)
  | 0, _, _ => []
  | fuel + 1, j, l =>
    if n ≤ j then []
    else if k.getLsbD j then (match l with | e :: es => some e :: expandReads k n fuel (j + 1) es | [] => [])
    else none :: expandReads k n fuel (j + 1) l

/-- The reads of one segment, each with the old element of its own position in that segment (R197, R354). -/
def withOld (l : List (Option Elem)) (old : List Elem) : List (Option Elem × Option Elem) :=
  l.zip ((old.map some) ++ List.replicate (l.length - old.length) none)

/-- One more than the highest set bit; 0 for an empty mask. -/
def maskLength (k : MaskBits) : Nat := if k = 0 then 0 else Nat.log2 k.toNat + 1

/-- VEXPD (R197). Into a block destination a kept element is encoded again with its block (R49; log 17). -/
def vecExpand (d a b : BitVec 7) : M Unit := do
  let (cd, ca) ← codes2 anyCode anyCode d a
  let s ← get
  let t := s.strand
  let pt := t.point.getD .start
  let k := s.readMask t b.toNat
  let (xs, ta) ← source a ca 0
  let (obits, ofill) := t.oldPurse (t.purseName d)
  let olds := elemsIn cd t.room (0, 0) (cd.items obits ofill cd.maxItems 0)
  let reads := ((List.range t.room.segs).flatMap fun q => withOld (expandReads k.bits (maskLength k.bits) 4096 0 (inSeg xs q)) (inSeg olds q)).take 4096
  let old := reads.map (·.2)
  let reads := reads.map (·.1)
  let olds := old.map fun o => match o with | some e => e.x | none => .zero false
  let cells : List Cell := (List.range reads.length).zip reads |>.map fun (j, o) =>
    match o with
    | some e => some (pureVal e.x)
    | none => if cd.isBlock then some (pureVal (olds.getD j (.zero false))) else none
  let again := if cd.isBlock then (List.range reads.length).map fun j => (reads.getD j none).isNone && (old.getD j none).isSome else []
  let codes := old.map fun o => o.map fun e => (obits / 2 ^ e.off % 2 ^ e.own, e.own)
  let r ← depositOver .plain d cd cd.isBlock codes (cells.drop pt.j) (ta || k.tarn) (again.drop pt.j)
  receipt r.e ((reads.take r.e).map fun o => match o with | some e => e.adv | none => 0).sum 0 r.od r.tarn

/-! ## Masks (R202) -/

/-- k[d] := f(k[a], k[b]) (R202). -/
def maskBinary (f : MaskBits → MaskBits → MaskBits) (d a b : BitVec 7) : M Unit := modify fun s =>
  let x := s.readMask s.strand a.toNat
  let y := s.readMask s.strand b.toNat
  s.mapStrand fun t => t.setMask d.toNat { bits := f x.bits y.bits, tarn := x.tarn || y.tarn }

/-- Number of ones of a mask. -/
def maskOnes (k : MaskBits) : Nat := ((List.range 4096).filter fun i => k.getLsbD i).length

/-- Lowest index of a 1, or 4,096. -/
def maskFirst (k : MaskBits) : Nat := if k = 0 then 4096 else ctzAux 4096 k.toNat

/-- s[d] := a number read from k[a] (R202). -/
def maskToScalar (f : MaskBits → Nat) (d a : BitVec 7) : M Unit := modify fun s =>
  let x := s.readMask s.strand a.toNat
  s.mapStrand fun t => t.setReg d { val := BitVec.ofNat 64 (f x.bits), tarn := x.tarn }

/-! ## SETVL (R153 to R155, R158, R203, R352) -/

def bankBits : Nat := 262144

/-- Banks of a core that strands have borrowed; a bank is core × 24 + number, the L1's first (R153). -/
def State.bankTaken (s : State) (core bank : Nat) : Bool := s.strands.any fun t => t.live && t.borrowed.contains (core * 24 + bank)

/-- Banks the L1 of a core holds: 12 less the reserves (R154) and the banks borrowed from it. -/
def State.l1Banks (s : State) (core : Nat) : Nat :=
  12 - ((s.onCore core).map (·.reserve)).sum - ((List.range 12).filter (s.bankTaken core)).length

/-- Borrowable banks of a core in the order they are taken (R153): slots without a live strand first, then L1 banks down to 4. -/
def State.borrowable (s : State) (core : Nat) : List Nat :=
  let used := (s.onCore core).flatMap fun t => (t.places.filter fun p => coreOf p = core).map (· % 4)
  let slots := (List.range 4).filter fun i => !used.contains i
  (slots.flatMap fun i => (List.range 3).map fun k => 12 + 3 * i + k).filter (fun b => !s.bankTaken core b) ++
    ((List.range 12).filter fun b => !s.bankTaken core b).take (s.l1Banks core - 4)

/-- `g` of R153: a multiple of 512 from 512 to 65,536. -/
def grantAsked (a : Nat) : Nat := max 512 (min 65536 (512 * ((a + 511) / 512)))

/-- The negotiation of R153 on one core: GRANT, SHARE and the banks borrowed. The strand's own banks have been returned. -/
def State.negotiate (s : State) (t : Strand) (core a b : Nat) : Nat × Nat × List Nat :=
  let g := grantAsked a
  let m := max 1 (min 128 b)
  let h := 3 * bankBits + bankBits * (if t.st.d then t.reserve else 0)
  let avail := if t.st.d then [] else s.borrowable core
  let banks := avail.take ((g * m - h + bankBits - 1) / bankBits)
  let share := h + bankBits * banks.length
  (if g * m ≤ share then g else max 512 (share / m / 512 * 512), share, banks.map (core * 24 + ·))

/-- Smallest of a list of numbers, `d` for an empty list. -/
def minOf (d : Nat) (l : List Nat) : Nat := (l.min?).getD d

/-- What a SETVL gives a strand: GRANT, SHARE, VREGS and the banks (R153, R352). -/
def State.setvlGrant (s : State) (t : Strand) (a b : Nat) : Nat × Nat × Nat × List Nat :=
  let rs := t.places.map fun p => s.negotiate t (coreOf p) a b
  let share := (rs.headD (512, 786432, [])).2.1
  let banks := rs.flatMap (·.2.2)
  if t.st.span && t.segs ≠ [] then
    let n := t.segs.length
    let sg := min (minOf 512 (rs.map (·.1))) (512 * (128 / n))
    (n * sg, share, minOf 128 (rs.map fun r => min 128 (r.2.1 / sg)), banks)
  else
    let g := (rs.headD (512, 786432, [])).1
    (g, share, min 128 (share / g), banks)

/-- Groups that power off at a holder's SETVL, having waited in PEND (R159). A group whose holder ended before that waits on for the SETVL of a
later holder (DESIGN CHOICE, log 44). -/
def State.powerOffPending (s : State) (core : Nat) (released : Nat) : State :=
  (List.range 8).foldl (fun u g =>
    let a := coreCtl core + 0x40
    if released.testBit g && (u.reg64 a).getLsbD (8 + g) then
      (u.setReg64 a (u.reg64 a &&& ~~~(BitVec.ofNat 64 (2 ^ g + 2 ^ (8 + g))))).zeroGroup core g
    else u) s

/-- The lane groups a strand holds after a SETVL in an F context (R158): LANES as it then reads. -/
def State.lanesAfter (s : State) (t : Strand) : Word :=
  let core := coreOf t.place
  let powered := getBits (s.reg64 (coreCtl core + 0x40)) 0 8
  let others := (s.onCore core).filter fun u => u.place ≠ t.place
  let free := (List.range 8).filter fun g =>
    powered.testBit g && !(others.any fun u => (u.homeOn core).testBit g || (u.heldOn core).testBit g)
  let held := (List.range 8).filter fun g => t.home.testBit g || free.contains g
  BitVec.ofNat 64 (powered * 2 ^ 16 + t.home * 2 ^ 8 + (held.map (2 ^ ·)).sum)

/-- Every purse emptied, its tag kept (R155). -/
def Strand.emptyPurses (t : Strand) : Strand :=
  { t with purses := t.purses.map fun p => { Purse.empty with tag := p.tag }, residue := t.residue.map fun r => { r with dirty := true },
           outer := t.outer.map fun r => { r with dirty := true } }

/-- SETVL's effect on the strand's share of the machine (R153 to R155, R158); `src` is the tarnish of its operands. -/
def State.setvl (s : State) (a b : Nat) (src : Bool) : State :=
  -- what the hub prepared is installed first (R149, R155)
  let s0 := (if s.strand.shifts then s.shiftPlace ((s.strand.prepSegs.getD []).headD s.strand.place) else s).mapStrand fun t =>
    if t.st.rgp then
      { t with segs := t.prepSegs.getD t.segs, ctl := { t.ctl with lanes := match t.prepLanes with | some l => .of l | none => t.ctl.lanes },
               prepSegs := none, prepLanes := none, st := { t.st with rgp := false } }
    else t
  -- borrowed banks go back, and groups outside HOME are released
  let s1 := s0.mapStrand fun t => { t with borrowed := [] }
  let s2 := if s1.strand.st.d then s1
    else (s1.powerOffPending (coreOf s1.strand.place) (s1.strand.heldGroups &&& (255 - s1.strand.home))).mapStrand fun t =>
      { t with ctl := { t.ctl with lanes := { t.ctl.lanes with val := setBits t.ctl.lanes.val 0 8 t.home } } }
  let t := s2.strand
  let (g, share, vregs, banks) := s2.setvlGrant t a b
  let keep := decide (t.grant = g) && decide (t.ctl.share.val.toNat = share)
  let lanes := if t.st.d then t.ctl.lanes.val else s2.lanesAfter t
  s2.mapStrand fun u =>
    let u1 := if keep then u else u.emptyPurses
    { u1 with borrowed := banks, ctl := ({ u1.ctl with
        grant := { val := BitVec.ofNat 64 g, tarn := src }, share := { val := BitVec.ofNat 64 share, tarn := src },
        vregs := { val := BitVec.ofNat 64 vregs, tarn := src }, lanes := { val := lanes, tarn := src } }).seen src }

/-- SETVL (R203). One by which a strand leaves the core of its segment 0 waits until the engines have done what it issued there (DEDUCED, log 50). -/
def setVl (d a b : BitVec 7) : M Unit := do
  let s ← get
  if s.strand.shifts && (s.cmdsAtWork s.strand || s.drainBlocked (coreOf s.strand.place)) then throw .wait
  let x := s.strand.reg a
  let y := s.strand.reg b
  let src := x.tarn || y.tarn
  set ((s.setvl x.val.toNat y.val.toNat src).mapStrand fun t => t.setReg d { val := BitVec.ofNat 64 t.grant, tarn := src })

/-- A spill frame's size (R163, R204). -/
def Strand.frame (t : Strand) : Nat := (64 + t.grant) / 8

/-! ## Spill frames (R163, R205, R206) -/

/-- A frame's header word. -/
def Purse.header (p : Purse) : Nat := p.fill + p.tag.toNat * 2 ^ 17 + (if p.tarn then 2 ^ 20 else 0)

/-- Check `n` words of 8 bytes from an address, each under R108; their translations. -/
def checkWords (o : Acc) (va : Word) : Nat → M (List (Xl × Word))
  | 0 => return []
  | n + 1 => do
    let x ← accessCheck o va 8
    return (x, va) :: (← checkWords o (va + 8) n)

/-- Store bytes over checked words, eight to a word. -/
def storeWords (b : Bool) : List (Xl × Word) → List Byte → M Unit
  | [], _ => return ()
  | (x, va) :: ws, bs => do
    let k := min 8 bs.length
    if k ≠ 0 then storeBytes x va k (leNat (bs.take k)) b
    storeWords b ws (bs.drop 8)

/-- Clean-range policy over checked words. -/
def cleanWords (b : Bool) : List (Xl × Word) → M Unit
  | [] => return ()
  | (_, va) :: ws => do cleanCheck va.toNat 8 b; cleanWords b ws

/-- VSPILL (R205). -/
def spill (d a : BitVec 7) : M Unit := do
  useRegs [d]
  let t ← getS
  let p := t.purse (t.purseName d)
  let va := (t.reg a).val
  let n := (p.fill + 7) / 8
  let b := p.tarn || (t.reg a).tarn
  let ws ← checkWords .write va (1 + (n + 7) / 8)
  cleanWords b ws
  storeWords b ws (leBytes 8 p.header ++ leBytes n (p.bits % 2 ^ p.fill))

/-- Read bytes over checked words; their value and tarnish. -/
def loadWords : List (Xl × Word) → Nat → M (List Byte × Bool)
  | [], _ => return ([], false)
  | (x, va) :: ws, n => do
    let k := min 8 n
    let (v, b) ← loadBytes x va k []
    let (bs, c) ← loadWords ws (n - k)
    return (leBytes k v ++ bs, b || c)

/-- VFILL (R206). -/
def refill (d a : BitVec 7) : M Unit := do
  useRegs [d]
  let t ← getS
  let k := t.purseName d
  let va := (t.reg a).val
  let h ← checkWords .read va 1
  let (hb, ht) ← loadWords h 8
  let w : Word := BitVec.ofNat 64 (leNat hb)
  let fill := getBits w 0 17
  if w.toNat / 2 ^ 21 ≠ 0 || t.grant < fill || fill % 4 ≠ 0 then raise (Trap.at 0x03 (BitVec.ofNat 64 (getBits w 17 3)))
  let n := (fill + 7) / 8
  let ws ← checkWords .read (va + 8) ((n + 7) / 8)
  let (bs, bt) ← loadWords ws n
  modS fun u => u.setPurse k { u.purse k with bits := leNat bs % 2 ^ fill, fill := fill, tag := BitVec.ofNat 3 (getBits w 17 3),
                                              tarn := w.getLsbD 20 || ht || bt || (t.reg a).tarn }

/-! ## VAPPEND (R169, R207 to R209) -/

/-- An access of VAPPEND, to its queue word or to an entry: in an F context an unordered atomic, and none of the three that the host window
takes (R118); in a D context a plain read and write (R209). -/
def appendAcc (d : Bool) : Acc :=
  { Acc.write with mode := .both, kind := if d then .plain else .unordered, target := if d then .any else .amo false }

/-- Check the entries of an append, each of 4 bytes. -/
def checkEntries (o : Acc) (base cap tail : Nat) : Nat → M (List (Xl × Word))
  | 0 => return []
  | n + 1 => do
    let va : Word := BitVec.ofNat 64 (base + 4 * (tail % cap))
    let x ← accessCheck o va 4
    return (x, va) :: (← checkEntries o base cap (tail + 1) n)

/-- Store the entries of an append. -/
def storeEntries (b : Bool) (ibase : Nat) : List (Xl × Word) → List Nat → M Unit
  | (x, va) :: ws, j :: js => do
    storeBytes x va 4 ((j + ibase) % 2 ^ 32) b
    storeEntries b ibase ws js
  | _, _ => return ()

/-- Check the 64 bytes of a queue word: its alignment first, then each word. -/
def checkWordsAligned (o : Acc) (va : Word) : M (List (Xl × Word)) := do
  if va.toNat % 64 ≠ 0 then raise (o.trap 0x05 0 va.toNat)
  checkWords o va 8

/-- Words of `n` bytes handled at their homes, as an atomic's are (R209, R360). -/
def homeWords (n : Nat) : List (Xl × Word) → M (List (Xl × Word))
  | [] => return []
  | (x, va) :: ws => do
    atHome x n
    return ({ x with unc := true }, va) :: (← homeWords n ws)

/-- Clean-range policy over entries of 4 bytes. -/
def cleanEntries (b : Bool) : List (Xl × Word) → M Unit
  | [] => return ()
  | (_, va) :: ws => do cleanCheck va.toNat 4 b; cleanEntries b ws

/-- VAPPEND (R208). The arrival is a BARA's: a strand with an arrival in the current round waits first (R237). The spec gives the TARNISH of a clean range
(R110, R317) no place among the checks of R108: the model meets it after all of them, of the entries in order and then of the queue word
(DESIGN CHOICE, log 51). -/
def append (a b : BitVec 7) : M Unit := do
  let s ← get
  let t := s.strand
  let q := t.reg a
  let k := s.readMask t b.toNat
  let acc := appendAcc t.st.d
  let ws ← checkWordsAligned acc q.val
  let ws ← homeWords 8 ws
  let (bytes, lt) ← loadWords ws 64
  let fld := fun (o n : Nat) => leNat ((bytes.drop o).take n)
  let base := fld 0 8
  if base % 4 ≠ 0 then raise { acc.trap 0x05 0 base with addr := BitVec.ofNat 64 base }
  let js := (List.range 4096).filter fun j => k.bits.getLsbD j
  let n := js.length
  let cap := fld 8 8
  let head := fld 16 8
  let tail := fld 24 8
  let src := q.tarn || k.tarn || lt
  if n = 0 || cap = 0 || ((cap : Int) < tail + n - head) then
    receipt 0 0 0 0 src
  else
    let es ← checkEntries acc base cap tail n
    let es ← homeWords 4 es
    let w := src || !t.st.d
    cleanEntries w es
    cleanCheck q.val.toNat 64 w
    let arrives := decide ((t.grant / 32 : Nat) ≤ ((tail : Int) + n - fld 32 8))
    let bar := fld 44 1 % 64
    if arrives && t.arrivals.contains bar then throw .wait
    storeEntries w (fld 40 4) es js
    let tail1 := (tail + n) % 2 ^ 64
    storeWords w ((ws.drop 3).take 1) (leBytes 8 tail1)
    if arrives then
      storeWords w ((ws.drop 4).take 1) (leBytes 8 tail1)
      modify fun u => u.arrive u.strand bar
    receipt n 0 0 (min (32 * n) 131071) src

/-! ## The instructions -/

/-- VGATHR (R194). -/
def execVgathr (d a b : BitVec 7) (_ca _cb mk : Bool) (s : State) : Host.Outcome State Fault Refusal :=
  runStep true (vecGather d a b mk) s

/-- VSLIDE (R195). -/
def execVslide (d a b : BitVec 7) (_ca mk : Bool) (s : State) : Host.Outcome State Fault Refusal :=
  runStep true (vecSlide d a b mk) s

/-- VCOMP (R196). -/
def execVcomp (d a b : BitVec 7) (_ca : Bool) (s : State) : Host.Outcome State Fault Refusal :=
  runStep true (vecCompress d a b) s

/-- VEXPD (R197). -/
def execVexpd (d a b : BitVec 7) (_ca : Bool) (s : State) : Host.Outcome State Fault Refusal :=
  runStep true (vecExpand d a b) s

/-- KAND (R202). -/
def execKand (d a b : BitVec 7) (s : State) : Host.Outcome State Fault Refusal :=
  runStep true (maskBinary (fun p q => p &&& q) d a b) s

/-- KOR (R202). -/
def execKor (d a b : BitVec 7) (s : State) : Host.Outcome State Fault Refusal :=
  runStep true (maskBinary (fun p q => p ||| q) d a b) s

/-- KXOR (R202). -/
def execKxor (d a b : BitVec 7) (s : State) : Host.Outcome State Fault Refusal :=
  runStep true (maskBinary (fun p q => p ^^^ q) d a b) s

/-- KNOT (R202). -/
def execKnot (d a : BitVec 7) (s : State) : Host.Outcome State Fault Refusal :=
  runStep true (maskBinary (fun p _ => ~~~p) d a 0) s

/-- KCNT (R202). -/
def execKcnt (d a : BitVec 7) (s : State) : Host.Outcome State Fault Refusal :=
  runStep true (maskToScalar maskOnes d a) s

/-- KFIRST (R202). -/
def execKfirst (d a : BitVec 7) (s : State) : Host.Outcome State Fault Refusal :=
  runStep true (maskToScalar maskFirst d a) s

/-- SETVL (R203). -/
def execSetvl (d a b : BitVec 7) (s : State) : Host.Outcome State Fault Refusal :=
  runStep true (setVl d a b) s

/-- GETVL (R204). -/
def execGetvl (d : BitVec 7) (s : State) : Host.Outcome State Fault Refusal :=
  runStep true (modS fun t => t.setReg d (.of (BitVec.ofNat 64 t.grant))) s

/-- VFRAME (R204). -/
def execVframe (d : BitVec 7) (s : State) : Host.Outcome State Fault Refusal :=
  runStep true (modS fun t => t.setReg d (.of (BitVec.ofNat 64 t.frame))) s

/-- SETMASK (R204). -/
def execSetmask (n : BitVec 7) (s : State) : Host.Outcome State Fault Refusal :=
  runStep true (modS fun t => { t with ctl := { t.ctl with amr := .of (n.setWidth 64) } }) s

/-- VSPILL (R205). -/
def execVspill (d a : BitVec 7) (s : State) : Host.Outcome State Fault Refusal :=
  runStep true (faultsFirst (spill d a)) s

/-- VFILL (R206). -/
def execVfill (d a : BitVec 7) (s : State) : Host.Outcome State Fault Refusal :=
  runStep true (faultsFirst (refill d a)) s

/-- VXCH (R198). -/
def execVxch (d a b : BitVec 7) (_ca mk : Bool) (s : State) : Host.Outcome State Fault Refusal :=
  runStep true (vecExchange d a b mk) s

/-- VAPPEND (R208). -/
def execVappend (a b : BitVec 7) (s : State) : Host.Outcome State Fault Refusal :=
  runStep true (faultsFirst (append a b)) s

end Sys2Proof.Machine
end

