-- ==== Sys2Proof/Machine/Image.lean ====
section
/-! DEFINITION. The context image of a strand: what a pre-emption writes, and the strand that a restore makes of it (R147 to R150). -/

namespace Sys2Proof.Machine

/-! ## The context image (R148) -/

/-- Control registers in the order of R33: the slots of an image. -/
def ctlOrder : List Nat :=
  [0, 1, 2, 3, 4, 5, 8, 9, 10, 11, 12, 13, 16, 17, 18, 19, 20, 21, 22, 23, 24, 32, 33, 34, 35, 48, 49, 50, 64, 65, 66, 67, 68, 69, 70, 71] ++
  [0x80, 0x81, 0x82, 0x83, 0x84, 0x85, 0x86, 0x87, 0x88, 0x89, 0x8A, 0x8B, 0x8C, 0x8D, 0x8E, 0x8F]

/-- A list of flags as a little-endian number, the first lowest. -/
def flagBits : List Bool → Nat
  | [] => 0
  | b :: bs => (if b then 1 else 0) + 2 * flagBits bs

/-- Where a strand's image lies (R148). -/
def Strand.area (t : Strand) : Nat := Config.contextArea t.launch t.flat

/-- The strand is suspended. -/
def Strand.isSuspended (t : Strand) : Bool := match t.run with | .suspended _ => true | _ => false

/-- Bytes of the image. -/
def Strand.imageSize (t : Strand) : Nat := 0x5340 + t.vregs * t.frame

/-- The header and the register parts of the image: offset and bytes of each part. -/
def Strand.imageParts (t : Strand) (cycle : Word) : List (Nat × List Byte) :=
  let slots := ctlOrder.map fun n => (t.ctlRead cycle n).getD .zero
  let regs := (List.range 256).map fun i => if i = 0 then TWord.zero else t.sregs.toList.getD i .zero
  let masks := (List.range 16).map fun k => if k = 0 then KMask.zero else t.masks.toList.getD k .zero
  let (count, old) := match t.residue with | some r => (r.fill, r.bits) | none => (0, 0)
  [ (0x0000, leBytes 8 (1 + (if t.isSuspended then 2 ^ 16 else 0) + (if t.armedHere.isSome then 2 ^ 17 else 0))),
    (0x0008, leBytes 8 t.pc.toNat),
    (0x0010, leBytes 8 (t.armedHere.getD 0).toNat),
    (0x0018, leBytes 8 t.imageSize),
    (0x0020, leBytes 32 0),
    (0x0040, slots.flatMap (fun w => leBytes 8 w.val.toNat) ++ leBytes 96 0),
    (0x0240, leBytes 64 (flagBits (slots.map (·.tarn)))),
    (0x0280, regs.flatMap fun w => leBytes 8 w.val.toNat),
    (0x0A80, leBytes 64 (flagBits (regs.map (·.tarn)))),
    (0x0AC0, masks.flatMap fun k => leBytes 512 k.bits.toNat),
    (0x2AC0, leBytes 64 (flagBits (masks.map (·.tarn)))),
    (0x2B00, t.purses.toList.flatMap fun p => leBytes 8 p.hdr0.toNat ++ leBytes 8 p.hdr1.toNat),
    (0x3300, leBytes 8 count ++ leBytes ((count + 7) / 8) (old % 2 ^ count)) ]

/-- A purse's frame in the image. -/
def Strand.framePart (t : Strand) (i : Nat) : Nat × List Byte :=
  let p := t.purse i
  (0x5340 + i * t.frame, leBytes 8 p.header ++ leBytes ((p.fill + 7) / 8) (p.bits % 2 ^ p.fill))

/-- Write the image into the strand's context area. -/
def State.writeImage (s : State) (t : Strand) : State :=
  (t.imageParts s.cycle ++ (List.range t.vregs).map t.framePart).foldl (fun u x => u.engineStore none (t.area + x.1) x.2 false false) s

/-- The strand stands saved in its image as it is now; its links break (R221). -/
def State.save (s : State) (t : Strand) : State :=
  (s.writeImage t).updateAt t.place fun u => { u with saved := some u.pc, due := false, links := [] }

/-! ## Restore (R149) -/

/-- Bytes of the image as a number. -/
def State.imageField (s : State) (t : Strand) (off n : Nat) : Nat := Mem.readLE s.mem (t.area + off) n

/-- Put a saved value into the control register of a number, RO ones included. STATUS, STRANDID, CYCLE, LVID and LVCNT are no fields of `Ctl`, and
TARN stays: the strand's commands may have added to it since the save. -/
def Ctl.load (c : Ctl) (n : Nat) (v : TWord) : Ctl :=
  match n with
  | 0x020 => { c with grant := v }
  | 0x021 => { c with share := v }
  | 0x022 => { c with lanes := v }
  | 0x023 => { c with vregs := v }
  | 0x032 => c
  | _ => c.put n v

/-- Slot `i` of the image with its tarnish. -/
def State.imageSlot (s : State) (t : Strand) (i : Nat) : TWord :=
  { val := BitVec.ofNat 64 (s.imageField t (0x40 + 8 * i) 8), tarn := (s.imageField t 0x240 8).testBit i }

/-- The control registers of the image. -/
def State.imageCtl (s : State) (t : Strand) : Ctl :=
  (List.range ctlOrder.length).foldl (fun c i => c.load (ctlOrder.getD i 0) (s.imageSlot t i)) t.ctl

/-- A purse of the image: its frame and its header. -/
def State.imagePurse (s : State) (t : Strand) (grant i : Nat) : Purse :=
  let at_ := 0x5340 + i * ((64 + grant) / 8)
  let h := s.imageField t at_ 8
  let fill := h % 2 ^ 17
  { bits := s.imageField t (at_ + 8) ((fill + 7) / 8) % 2 ^ fill, fill := fill, tag := BitVec.ofNat 3 (h / 2 ^ 17), tarn := h.testBit 20,
    hdr0 := BitVec.ofNat 64 (s.imageField t (0x2B00 + 16 * i) 8), hdr1 := BitVec.ofNat 64 (s.imageField t (0x2B08 + 16 * i) 8) }

/-- The strand that the image holds. What has happened to it meanwhile stands: a barrier that has released it, a resume, and a regrant (R149,
R150). -/
def State.loadImage (s : State) (t : Strand) : Strand :=
  let ctl := s.imageCtl t
  let w := (s.imageSlot t 0).val
  let flags := s.imageField t 0 8
  let pc : Addr := BitVec.ofNat 52 (s.imageField t 8 8)
  let count := s.imageField t 0x3300 8
  let vregs := ctl.vregs.val.toNat
  { t with
    saved := none,
    pc := pc + (t.pc - t.saved.getD t.pc),
    armed := if flags.testBit 16 && !t.isSuspended then t.armed
      else if flags.testBit 17 then some (pc, BitVec.ofNat 64 (s.imageField t 0x10 8)) else none,
    ctl := ctl,
    st := { m := w.getLsbD 0, d := w.getLsbD 1, tr := w.getLsbD 2, rgp := w.getLsbD 3 || t.st.rgp, span := w.getLsbD 4,
            tarn := (s.imageSlot t 0).tarn },
    lvid := Vector.ofFn fun i : Fin 8 => (s.imageSlot t (36 + i.val)).val,
    lvcnt := Vector.ofFn fun i : Fin 8 => (s.imageSlot t (44 + i.val)).val,
    sregs := Vector.ofFn fun i : Fin 256 =>
      if i.val = 0 then .zero
      else { val := BitVec.ofNat 64 (s.imageField t (0x280 + 8 * i.val) 8), tarn := (s.imageField t 0xA80 32).testBit i.val },
    masks := Vector.ofFn fun i : Fin 16 =>
      if i.val = 0 then .zero
      else { bits := BitVec.ofNat 4096 (s.imageField t (0xAC0 + 512 * i.val) 512), tarn := (s.imageField t 0x2AC0 2).testBit i.val },
    purses := Vector.ofFn fun i : Fin 128 => if i.val < vregs then s.imagePurse t ctl.grant.val.toNat i.val else t.purses[i],
    residue := t.residue.map fun r => { r with fill := count, bits := s.imageField t 0x3308 ((count + 7) / 8) % 2 ^ count } }

/-- A line of the image is poisoned: the restore meets a machine check (R150). -/
def State.imageBad (s : State) (t : Strand) : Bool := (linesOf t.area t.imageSize).any s.poison.contains

end Sys2Proof.Machine
end

