-- ==== Sys2Proof/Machine/VectorMem.lean ====
section
/-! DEFINITION. Vector memory and vector atomics: majors 0x30 to 0x34 (R210 to R226), with element-precise stops (R144). VAMOO's event stands
here; its place in its stream is decided in Ordered.lean. -/

namespace Sys2Proof.Machine

/-! ## Stops at an element -/

/-- Run an element's part of a meaning and catch its trap: the element has had no effect, so that no access of its stands in an assay tag (R144). A wait
goes on outwards. -/
def attempt {α : Type} (m : M α) : M (Except Trap α) := fun s =>
  match m s with
  | .ok a s1 => .ok (.ok a) s1
  | .error (.trap x) s1 => .ok (.error x) (s1.undoAssay s.assay)
  | .error .wait s1 => .error .wait s1
  | .error (.noTag g) s1 => .error (.noTag g) s1

/-- A restart point as a RESUME image (R143). -/
def Point.word (p : Point) : Word := receiptWord p.j p.oa p.ob p.od

/-- What a pre-emption raises at an element: no trap of R136 (R147). -/
def preemptStop : Trap := Trap.at 0x100 0

/-- A pre-emption stops the instruction at the first element from `cut` on (R147). -/
def stopAt (cut : Option Nat) (j : Nat) : M Unit :=
  match cut with
  | some k => if k ≤ j then raise preemptStop else pure ()
  | none => pure ()

/-! ## Bytes of an element -/

/-- The parts of `n` bytes that lie in one line each; `n` is at most 64. -/
def pieces (va : Word) (n : Nat) : List (Word × Nat) :=
  let k := 64 - va.toNat % 64
  if n ≤ k then [(va, n)] else [(va, k), (va + BitVec.ofNat 64 k, n - k)]

/-- Check the bytes of an element, lowest first (R212); the access may differ from line to line. -/
def checkPieces (o : Word → Acc) : List (Word × Nat) → M (List (Xl × Word × Nat))
  | [] => return []
  | (va, n) :: ps => do
    let x ← checkBytes (o va) va n
    return (x, va, n) :: (← checkPieces o ps)

/-- Read checked bytes, as a little-endian number, with their tarnish (R109). -/
def loadPieces (seen : List (Nat × Nat)) : List (Xl × Word × Nat) → M (Nat × Bool)
  | [] => return (0, false)
  | (x, va, n) :: ps => do
    let (v, b) ← loadBytes x va n seen
    let (w, c) ← loadPieces seen ps
    return (v + w * 2 ^ (8 * n), b || c)

/-- Clean-range policy over checked bytes (R110, R212). -/
def cleanPieces (b : Bool) : List (Xl × Word × Nat) → M Unit
  | [] => return ()
  | (_, va, n) :: ps => do cleanCheck va.toNat n b; cleanPieces b ps

/-- Store a number over checked bytes. -/
def storePieces (b : Bool) : List (Xl × Word × Nat) → Nat → M Unit
  | [], _ => return ()
  | (x, va, n) :: ps, v => do
    storeBytes x va n (v % 2 ^ (8 * n)) b
    storePieces b ps (v / 2 ^ (8 * n))

/-- Checked bytes handled at their homes. -/
def homePieces : List (Xl × Word × Nat) → M (List (Xl × Word × Nat))
  | [] => return []
  | (x, r) :: ps => do
    atHome x r.2
    return ({ x with unc := true }, r) :: (← homePieces ps)

/-! ## Element loads (R212, R214, R215, R220, R221) -/

/-- What an element load does: units of `w` bits, `n` of them, each at an address. -/
structure LoadPlan where
  w     : Nat
  n     : Nat
  /-- Elements to a unit: 1, or 32 for a block. -/
  g     : Nat
  addr  : Nat → Word
  gov   : Gov
  /-- The line of each active element is linked (R221). -/
  link  : Bool
  /-- The destination's code and former content. -/
  code  : Code
  old   : Nat × Nat
  /-- The element a pre-emption stops at (R147). -/
  cut   : Option Nat

/-- The old unit `u`, its bits and length; a short last block counts as it stands (R49). -/
def LoadPlan.oldUnit (p : LoadPlan) (u : Nat) : Option (Nat × Nat) :=
  if p.g = 1 then (if (u + 1) * p.w ≤ p.old.2 then some (bitsAt p.old.1 (u * p.w) p.w, p.w) else none)
  else ((p.code.items p.old.1 p.old.2 p.code.maxItems 0)[u]?).map fun i => (i.raw, i.len)

/-- How far a load has come. -/
structure LoadState where
  u    : Nat
  pos  : Nat × Nat
  od   : Nat
  bits : Nat
  tarn : Bool
  /-- An old code was read, to be kept if there is room (R156). -/
  kept : Bool
  deriving DecidableEq, Repr

/-- Load one unit: its bits and tarnish. -/
def loadUnit (p : LoadPlan) (u : Nat) : M (Nat × Bool) := do
  let va := p.addr u
  let o : Acc := { Acc.read with seen := p.gov.seen }
  if p.g = 1 && va.toNat % (p.w / 8) ≠ 0 then raise (o.trap 0x05 0 va.toNat)
  let ps ← checkPieces (fun _ => o) (pieces va (p.w / 8))
  let ps ← if p.link then homePieces ps else pure ps
  let r ← loadPieces p.gov.seen ps
  if p.link then modS fun t => { t with links := ps.foldl (fun l x => setInsert (lineOf x.1.key) l) t.links }
  return r

/-- The units of a load in order, until the count, the room or a fault ends them. A unit that is masked off keeps the old one, or is zero. -/
def loadLoop (p : LoadPlan) (room : Room) : Nat → LoadState → M (LoadState × Option Trap)
  | 0, st => return (st, none)
  | fuel + 1, st =>
    if p.gov.on (st.u * p.g) then
      match room.put st.pos p.w with
      | none => return (st, none)
      | some pos => do
        match ← attempt (do stopAt p.cut (st.u * p.g); loadUnit p st.u) with
        | .error x => return (st, some x)
        | .ok (v, b) =>
          loadLoop p room fuel { st with u := st.u + 1, pos := pos, od := st.od + p.w, bits := st.bits + v * 2 ^ st.od, tarn := st.tarn || b }
    else
      let (v, len) := (p.oldUnit st.u).getD (0, p.w)
      let st := { st with kept := st.kept || (p.oldUnit st.u).isSome }
      match room.put st.pos len with
      | none => return (st, none)
      | some pos =>
        loadLoop p room fuel { st with u := st.u + 1, pos := pos, od := st.od + len, bits := st.bits + v % 2 ^ len * 2 ^ st.od }

/-- The end of a load, by itself or at a fault (R144, R213). `spans` gives RC.A and RC.B after `u` units. -/
def endLoad (k : Nat) (bits od e a b : Nat) (tarn : Bool) (x : Option Trap) : M Unit := do
  let t ← getS
  let old := t.oldContent k
  let dirty := t.stale k
  let fill ← writePurse k bits od tarn
  match x with
  | some x =>
    modS fun u => { u with residue := some { pc := t.pc, purse := k, bits := old.1, fill := old.2.1, tarn := old.2.2, mask := false, dirty := dirty, first := e = 0 } }
    raise { x with elem := e, resume := some (Point.word { j := e, oa := a, ob := b, od := od }) }
  | none => receipt e a b fill tarn

/-- A load by units into v[d] (R212). `src` is the tarnish of its registers and index purse; `spans` gives RC.A and RC.B after `u` units. -/
def loadElements (d : BitVec 7) (p : LoadPlan) (src : Bool) (spans : Nat → Nat × Nat) : M Unit := do
  let t ← getS
  let k := t.purseName d
  let pt := t.point.getD .start
  let room := t.room
  let bits := (t.purse k).bits % 2 ^ pt.od
  let start : LoadState :=
    { u := pt.j / p.g, od := pt.od, bits := bits,
      pos := if room.segs = 1 then (0, pt.od)
        else (room.putAll (0, 0) ((p.code.items bits pt.od p.code.maxItems 0).map (·.len))).getD (0, pt.od),
      tarn := src || p.gov.tarn || t.partTarn k pt.od, kept := false }
  let (st, x) ← loadLoop p room (p.n - start.u) start
  let tarn := st.tarn || (st.kept && t.oldTarn k)
  endLoad k st.bits st.od (min (st.u * p.g) 4096) (spans st.u).1 (spans st.u).2 tarn x

/-- Bits of one unit: a fixed code, or a whole block with its X (R49). -/
def Code.unitBits (c : Code) : Nat := if c.isBlock then c.blockBits 32 else c.fixedBits

/-- Elements of one unit. -/
def Code.unitElems (c : Code) : Nat := if c.isBlock then 32 else 1

/-- Kinds that VLD and VST accept (R211). -/
def fixedOrBlock (c : Code) : Bool := c.isFixed || c.isBlock
def fixedCode (c : Code) : Bool := c.isFixed

/-- The address of unit `u` with a stride (R214, R215). -/
def strideAddr (base : Word) (stride : Word) (u : Nat) : Word := base + BitVec.ofNat 64 u * stride

/-- VLD and VLDS (R214, R215). -/
def vecLoad (cut : Option Nat) (kinds : Code → Bool) (stride : Option (BitVec 7)) (d a : BitVec 7) (mk : Bool) : M Unit := do
  useRegs [d]
  let c ← useCode d kinds
  let g ← govern mk
  let t ← getS
  let w := c.unitBits
  let step : TWord := match stride with | some b => t.reg b | none => .of (BitVec.ofNat 64 (w / 8))
  let p : LoadPlan :=
    { w := w, n := min (4096 / c.unitElems) (t.grant / w), g := c.unitElems, addr := strideAddr (t.reg a).val step.val, gov := g,
      link := false, code := c, old := t.oldPurse (t.purseName d), cut := cut }
  loadElements d p ((t.reg a).tarn || step.tarn) fun u => (u * w, 0)

/-- The index purse: the exact integers, the bits taken up to each element, and its tarnish (R220). A restart whose destination was its index
purse finds the indices in the residue (R144, R146). -/
def indexes (b : BitVec 7) (cb : Code) : M (List Int × (Nat → Nat) × Bool) := do
  let t ← getS
  let k := t.purseName b
  let (bits, fill, tb) := t.oldContent k
  let es := ({ t.purse k with bits := bits, fill := fill }).elems cb t.room 0
  return (es.map (·.x.toInt), fun u => advOf (es.take u), tb)

/-- The address of an indexed element (R220, R223). -/
def indexAddr (base : Word) (l : List Int) (z u : Nat) : Word := base + BitVec.ofInt 64 (l.getD u 0 * z)

/-- VGTH and VGL (R220, R221). -/
def vecGatherMem (cut : Option Nat) (link : Bool) (d a b : BitVec 7) (mk : Bool) : M Unit := do
  useRegs [d, b]
  let c ← useCode d fixedCode
  let cb ← useCode b integerCode
  let g ← govern mk
  let (is, ib, tb) ← indexes b cb
  let t ← getS
  if link && t.point.isNone then modS fun u => { u with links := [] }
  let p : LoadPlan :=
    { w := c.fixedBits, n := is.length, g := 1, addr := indexAddr (t.reg a).val is (c.fixedBits / 8), gov := g, link := link,
      code := c, old := t.oldPurse (t.purseName d), cut := cut }
  loadElements d p ((t.reg a).tarn || tb) fun u => (0, ib u)

/-! ## Element stores (R212, R214, R215, R220, R222) -/

/-- What an element store does. -/
structure StorePlan where
  w    : Nat
  n    : Nat
  g    : Nat
  addr : Nat → Word
  gov  : Gov
  data : Nat
  /-- The data's tarnish (R212). -/
  tarn : Bool
  /-- Lines, by virtual address / 64, that the active elements cover whole (R315, R347; log 18). -/
  whole : Nat → Bool
  /-- The element a pre-emption stops at (R147). -/
  cut   : Option Nat

/-- Store one unit's bits at its address. -/
def storeUnit (p : StorePlan) (u : Nat) : M Unit := do
  let va := p.addr u
  let o : Acc := { Acc.write with seen := p.gov.seen }
  if p.g = 1 && va.toNat % (p.w / 8) ≠ 0 then raise (o.trap 0x05 0 va.toNat)
  let ps ← checkPieces (fun a => { o with poison := !p.whole (a.toNat / 64) }) (pieces va (p.w / 8))
  cleanPieces p.tarn ps
  storePieces p.tarn ps (bitsAt p.data (u * p.w) p.w)
  modify fun s => (ps.filter fun x => p.whole (x.2.1.toNat / 64) && decide ((x.2.1.toNat + x.2.2) % 64 = 0)).foldl
    (fun v x => v.coverLine v.strand.place (lineOf x.1.key) p.tarn) s

/-- The units of a store in order, until the count or a fault ends them; what each has written adds up. -/
def storeLoop (p : StorePlan) : Nat → Nat → M (Nat × Option Trap)
  | 0, u => return (u, none)
  | fuel + 1, u =>
    if p.gov.on (u * p.g) then do
      match ← attempt (do stopAt p.cut (u * p.g); storeUnit p u) with
      | .error x => return (u, some x)
      | .ok _ => storeLoop p fuel (u + 1)
    else storeLoop p fuel (u + 1)

/-- The end of a store (R144, R213). -/
def endStore (e a b d : Nat) (tarn : Bool) (x : Option Trap) : M Unit := do
  match x with
  | some x => raise { x with elem := e, resume := some (Point.word { j := e, oa := a, ob := b, od := d }) }
  | none => receipt e a b d tarn

/-- A store by units. `spans` gives RC.A, RC.B and RC.D after `u` units. -/
def storeElements (p : StorePlan) (src : Bool) (spans : Nat → Nat × Nat × Nat) : M Unit := do
  let pt := (← getS).point.getD .start
  let (u, x) ← storeLoop p (p.n - pt.j / p.g) (pt.j / p.g)
  endStore (min (u * p.g) 4096) (spans u).1 (spans u).2.1 (spans u).2.2 src x

/-- The active elements of a contiguous store cover a whole line. -/
def coversLine (base w n g : Nat) (gov : Gov) (line : Nat) : Bool :=
  let z := w / 8
  let lo := (line * 64 - base) / z
  let hi := (line * 64 + 63 - base) / z
  decide (base ≤ line * 64) && decide (line * 64 + 64 ≤ base + n * z) && (List.range (hi - lo + 1)).all fun i => gov.on ((lo + i) * g)

/-- VST and VSTS (R214, R215). -/
def vecStore (cut : Option Nat) (kinds : Code → Bool) (stride : Option (BitVec 7)) (d a : BitVec 7) (mk : Bool) : M Unit := do
  useRegs [d]
  let c ← useCode d kinds
  let g ← govern mk
  let t ← getS
  let w := c.unitBits
  let p := t.purse (t.purseName d)
  let step : TWord := match stride with | some b => t.reg b | none => .of (BitVec.ofNat 64 (w / 8))
  let b := (t.reg a).tarn || step.tarn || p.tarn
  let n := min (4096 / c.unitElems) (p.fill / w)
  let plan : StorePlan :=
    { w := w, n := n, g := c.unitElems, addr := strideAddr (t.reg a).val step.val, gov := g, data := p.bits, tarn := b,
      whole := if step.val.toNat = w / 8 then coversLine (t.reg a).val.toNat w n c.unitElems g else fun _ => false, cut := cut }
  storeElements plan (b || g.tarn) fun u => (u * w, 0, u * w)

/-- Active elements below `u`. -/
def Gov.count (g : Gov) (u : Nat) : Nat := ((List.range u).filter g.on).length

/-- VSCT (R220). -/
def vecScatter (cut : Option Nat) (d a b : BitVec 7) (mk : Bool) : M Unit := do
  useRegs [d, b]
  let c ← useCode d fixedCode
  let cb ← useCode b integerCode
  let g ← govern mk
  let (is, ib, tb) ← indexes b cb
  let t ← getS
  let w := c.fixedBits
  let p := t.purse (t.purseName d)
  let m := (t.reg a).tarn || p.tarn || tb
  let plan : StorePlan :=
    { w := w, n := min is.length (min 4096 (p.fill / w)), g := 1, addr := indexAddr (t.reg a).val is (w / 8), gov := g,
      data := p.bits, tarn := m, whole := fun _ => false, cut := cut }
  storeElements plan (m || g.tarn) fun u => (u * w, ib u, g.count u * w)

/-- VSC's event for one element: after the checks, the link decides (R222). It answers whether it stored. -/
def storeLinked (p : StorePlan) (u : Nat) : M Bool := do
  let va := p.addr u
  let o : Acc := { Acc.write with seen := p.gov.seen }
  if va.toNat % (p.w / 8) ≠ 0 then raise (o.trap 0x05 0 va.toNat)
  let ps ← checkPieces (fun _ => o) (pieces va (p.w / 8))
  cleanPieces p.tarn ps
  let t ← getS
  if ps.all fun x => t.links.contains (lineOf x.1.key) then
    let ps ← homePieces ps
    storePieces p.tarn ps (bitsAt p.data (u * p.w) p.w)
    return true
  else return false

/-- VSC's elements in order; the mask as written back so far (R222). -/
def linkedLoop (p : StorePlan) : Nat → Nat → Nat → M (Nat × Nat × Option Trap)
  | 0, u, m => return (u, m, none)
  | fuel + 1, u, m =>
    if p.gov.on u then do
      match ← attempt (do stopAt p.cut u; storeLinked p u) with
      | .error x => return (u, m, some x)
      | .ok done => linkedLoop p fuel (u + 1) (if done then m else m - 2 ^ u)
    else linkedLoop p fuel (u + 1) m

/-- VSC (R222). AMR is not 0: R75 makes the word illegal then, which `execVsc` takes first. A restart knows the mask's tarnish from before
the stop, since the stop has written the mask (R146). -/
def storeConditional (cut : Option Nat) (d a b : BitVec 7) : M Unit := do
  useRegs [d, b]
  let c ← useCode d fixedCode
  let cb ← useCode b integerCode
  let g ← govern true
  let (is, ib, tb) ← indexes b cb
  let t ← getS
  let pt := t.point.getD .start
  let w := c.fixedBits
  let p := t.purse (t.purseName d)
  let m := (t.reg a).tarn || p.tarn || tb
  let plan : StorePlan :=
    { w := w, n := min is.length (min 4096 (p.fill / w)), g := 1, addr := indexAddr (t.reg a).val is (w / 8), gov := g,
      data := p.bits, tarn := m, whole := fun _ => false, cut := cut }
  let (u, mask, x) ← linkedLoop plan (plan.n - pt.j) pt.j g.bits.toNat
  let gt := match t.residueHere with | some r => r.mask | none => g.tarn
  let src := m || gt
  let final := if x.isSome then mask else mask % 2 ^ u
  let written := ((List.range u).filter fun i => mask.testBit i).length * w
  modS fun v => v.setMask v.amr { bits := BitVec.ofNat 4096 final, tarn := src || !v.st.d }
  modS fun v =>
    if x.isSome then { v with residue := some { pc := t.pc, purse := 128, bits := 0, fill := 0, tarn := false, mask := gt, dirty := false, first := u = 0 } }
    else { v with links := [] }
  endStore u (u * w) (ib u) written src x

/-! ## Coded streams (R216 to R218) -/

/-- Read quanta from a nibble address (R13): every byte that holds one is read under R108. -/
def readQuanta (o : Acc) (na : Word) (n : Nat) : M (Nat × Bool) := do
  let k := (na.toNat % 2 + n + 1) / 2
  let ps ← checkPieces (fun _ => o) (pieces (na >>> 1) k)
  let (v, b) ← loadPieces o.seen ps
  return (v / 2 ^ (4 * (na.toNat % 2)) % 2 ^ (4 * n), b)

/-- Length of the code at a nibble address, from its header (R41, R216). The header's read is no access for `assay_check`. -/
def codeLength (c : Code) (na : Word) : M Nat := do
  let o : Acc := { Acc.read with assay := false }
  if c.isBlock then
    let _ ← readQuanta o na 2
    return c.unitBits
  else if c.isFixed then return c.fixedBits
  else
    let (h, _) ← readQuanta o na 1
    return 4 + 4 * (if c.kind = 0 then h else h % 8)

/-- How far a VLDC has come. -/
structure StreamState where
  j    : Nat
  oa   : Nat
  pos  : Nat × Nat
  od   : Nat
  bits : Nat
  tarn : Bool
  deriving DecidableEq, Repr

/-- One code of a VLDC: `none` when it does not fit, else the state behind it. -/
def loadCode (c : Code) (base : Word) (room : Room) (st : StreamState) : M (Option StreamState) := do
  let na := base + BitVec.ofNat 64 (st.oa / 4)
  let len ← codeLength c na
  match room.put st.pos len with
  | none => return none
  | some pos =>
    let (v, b) ← readQuanta .read na (len / 4)
    return some { j := st.j + c.unitElems, oa := st.oa + len, pos := pos, od := st.od + len, bits := st.bits + v * 2 ^ st.od, tarn := st.tarn || b }

/-- VLDC's loop (R216). -/
def streamLoop (cut : Option Nat) (c : Code) (base : Word) (room : Room) (grant : Nat) : Nat → StreamState → M (StreamState × Option Trap)
  | 0, st => return (st, none)
  | fuel + 1, st =>
    if 4096 ≤ st.j || st.od = grant then return (st, none)
    else do
      match ← attempt (do stopAt cut st.j; loadCode c base room st) with
      | .error x => return (st, some x)
      | .ok none => return (st, none)
      | .ok (some st1) => streamLoop cut c base room grant fuel st1

/-- VLDC, and with `early` VLDCF, whose later faults end it (R216, R217). -/
def vecLoadCoded (cut : Option Nat) (early : Bool) (d a : BitVec 7) : M Unit := do
  useRegs [d]
  let c ← useCode d anyCode
  let t ← getS
  let k := t.purseName d
  let pt := t.point.getD .start
  let room := t.room
  let bits := (t.purse k).bits % 2 ^ pt.od
  let start : StreamState :=
    { j := pt.j, oa := pt.oa, od := pt.od, bits := bits,
      pos := if room.segs = 1 then (0, pt.od) else (room.putAll (0, 0) ((c.items bits pt.od c.maxItems 0).map (·.len))).getD (0, pt.od),
      tarn := (t.reg a).tarn || t.partTarn k pt.od }
  let (st, x) ← streamLoop cut c (t.reg a).val room t.grant 4096 start
  if early && (x.isNone || decide (0 < st.j)) then
    modS fun u => { u with ctl := { u.ctl with
      telem := if x.isSome then { val := BitVec.ofNat 64 st.j, tarn := st.tarn } else u.ctl.telem,
      taddr := { val := match x with | some y => y.addr | none => 0, tarn := st.tarn } } }
    endLoad k st.bits st.od st.j st.oa 0 st.tarn none
  else endLoad k st.bits st.od st.j st.oa 0 st.tarn x

/-- Store one code at a nibble address: bytes it shares with other quanta are rewritten at their home as one event (R218). -/
def storeCode (na : Word) (len raw : Nat) (b : Bool) : M Unit := do
  let n := len / 4
  let odd := na.toNat % 2
  let k := (odd + n + 1) / 2
  let ps ← checkPieces (fun _ => .write) (pieces (na >>> 1) k)
  cleanPieces b ps
  if odd = 0 && n % 2 = 0 then storePieces b ps raw
  else
    let ps ← homePieces ps
    let s ← get
    let old := ps.foldr (fun x acc => Mem.readLE s.mem x.1.key x.2.2 + acc * 2 ^ (8 * x.2.2)) 0
    storePieces b ps (old % 2 ^ (4 * odd) + raw % 2 ^ len * 2 ^ (4 * odd) + old / 2 ^ (4 * (odd + n)) * 2 ^ (4 * (odd + n)))

/-- VSTC's codes in order. -/
def storeCodes (cut : Option Nat) (base : Word) (g : Nat) (b : Bool) : Nat → Nat → List Item → M (Nat × Nat × Option Trap)
  | j, oa, [] => return (j, oa, none)
  | j, oa, i :: is => do
    match ← attempt (do stopAt cut j; storeCode (base + BitVec.ofNat 64 (i.off / 4)) i.len i.raw b) with
    | .error x => return (j, oa, some x)
    | .ok _ => storeCodes cut base g b (j + (if g = 1 then 1 else i.xs.length)) (i.off + i.len) is

/-- VSTC (R218). -/
def vecStoreCoded (cut : Option Nat) (d a : BitVec 7) : M Unit := do
  useRegs [d]
  let c ← useCode d anyCode
  let t ← getS
  let p := t.purse (t.purseName d)
  let pt := t.point.getD .start
  let b := p.tarn || (t.reg a).tarn
  let items := (c.items p.bits p.fill c.maxItems pt.oa).take ((4096 - pt.j + c.unitElems - 1) / c.unitElems)
  let (j, oa, x) ← storeCodes cut (t.reg a).val c.unitElems b pt.j pt.oa items
  endStore j oa 0 oa b x

/-! ## Vector atomics (R223 to R226) -/

/-- Operations of R223. -/
inductive VamoOp where
  | add | min | max | xch | and | or | xor
  deriving DecidableEq, Repr

/-- Codes an operation accepts (R211). -/
def VamoOp.codeOk (f : VamoOp) (c : Code) : Bool :=
  let int_ := (c.kind = 9 || c.kind = 10) && (c.wid = 2 || c.wid = 3)
  match f with
  | .add | .min | .max => c.kind = 2 || int_
  | .xch => c.fixedBits = 32 || c.fixedBits = 64
  | .and | .or | .xor => int_

/-- op(m, x) with its flags (R223, R224). -/
def VamoOp.apply (f : VamoOp) (c : Code) (m x : Nat) : Nat × Flags :=
  let w := c.fixedBits
  let rne : Draw := { mode := .rne, seed := 0, srb := 0 }
  let le := if c.kind = 9 then decide (signed w m ≤ signed w x) else decide (m ≤ x)
  match f with
  | .add => if c.kind = 2 then fadd .fp32 m x else ((m + x) % 2 ^ w, 0)
  | .min | .max =>
    if c.kind = 2 then
      let r := Ex.pick (f = .max) (Fmt.fp32.decode m) (Fmt.fp32.decode x)
      ((Fmt.fp32.encode rne false 0 r.1.quieted).1, .when r.2 .nv)
    else (if (f = .min) = le then m else x, 0)
  | .xch => (x, 0)
  | .and => (m &&& x, 0)
  | .or => (m ||| x, 0)
  | .xor => (m ^^^ x, 0)

/-- The access of a VAMO's elements (R118, R119, R225); without `data` the checks of the data's state, assay and poison, are left for later. -/
def vamoAcc (kind : AccessKind) (data : Bool) (seen : List (Nat × Nat)) : Acc :=
  { mode := .both, kind := kind, target := match kind with | .ordered _ => .ordered | _ => .vamo, assay := data, poison := data, seen := seen }

/-- Check the active elements in order; the first that fails stops all (R224). -/
def checkTargets (o : Acc) (z : Nat) (b : Bool) : List (Nat × Word) → M (List (Nat × Xl × Word))
  | [] => return []
  | (j, va) :: l => do
    match ← attempt (do let x ← accessCheck o va z; cleanCheck va.toNat z b; return x) with
    | .error x => raise { x with elem := j }
    | .ok x => return (j, x, va) :: (← checkTargets o z b l)

/-- What a VAMO works on. -/
structure VamoPlan where
  c    : Code
  gov  : Gov
  n    : Nat
  ib   : Nat
  /-- The active elements' indices and addresses. -/
  at_  : List (Nat × Word)
  src  : Bool
  deriving DecidableEq, Repr

/-- The operands of a VAMO. -/
def vamoPlan (f : VamoOp) (d a b : BitVec 7) (mk : Bool) : M VamoPlan := do
  useRegs [d, b]
  let c ← useCode d f.codeOk
  let cb ← useCode b integerCode
  let g ← govern mk
  let (is, ib, tb) ← indexes b cb
  let t ← getS
  let p := t.purse (t.purseName d)
  let w := c.fixedBits
  let n := min is.length (min 4096 (p.fill / w))
  return { c := c, gov := g, n := n, ib := ib n, src := (t.reg a).tarn || tb || p.tarn || g.tarn,
           at_ := ((List.range n).filter g.on).map fun j => (j, indexAddr (t.reg a).val is (w / 8) j) }

/-- Check a VAMO's elements; after a failure no access has been performed (R144, R224). -/
def vamoCheck (p : VamoPlan) (kind : AccessKind) (data : Bool) : M (List (Nat × Xl × Word)) := do
  let s0 ← get
  match ← attempt (checkTargets (vamoAcc kind data p.gov.seen) (p.c.fixedBits / 8) (p.src || kind = .unordered) p.at_) with
  | .error x => modify fun s => s.undoAssay s0.assay; raise x
  | .ok l => return l

/-- Elements grouped by target, in the order of their first elements. -/
def groupTargets : List (Nat × Xl × Word) → List (Xl × Word × List Nat) → List (Xl × Word × List Nat)
  | [], gs => gs
  | (j, x, va) :: l, gs =>
    groupTargets l (if gs.any fun g => g.1.key = x.key then gs.map (fun g => if g.1.key = x.key then (g.1, g.2.1, g.2.2 ++ [j]) else g)
                    else gs ++ [(x, va, [j])])

/-- One group's pre-reduction: old values from the second element on, the reduced operand and its flags (R224). -/
def vamoLanes (f : VamoOp) (c : Code) (m : Nat) (data : Nat → Nat) : Nat → Flags → List Nat → List (Nat × Nat) × Nat × Flags
  | p, fl, [] => ([], p, fl)
  | p, fl, j :: js =>
    let r := f.apply c p (data j)
    let rest := vamoLanes f c m data r.1 (fl ||| r.2) js
    ((j, (f.apply c m p).1) :: rest.1, rest.2)

/-- What the groups leave: old values, flags, and the tarnish of the lines read. -/
structure VamoDone where
  olds  : List (Nat × Nat)
  flags : List (Nat × Flags)
  tarn  : Bool
  deriving DecidableEq, Repr

/-- Perform the groups in order (R224). `b` is the tarnish of what is written. -/
def vamoGroups (f : VamoOp) (c : Code) (data : Nat → Nat) (b : Bool) : List (Xl × Word × List Nat) → M VamoDone
  | [] => return { olds := [], flags := [], tarn := false }
  | (x, va, js) :: gs => do
    let z := c.fixedBits / 8
    atHome x z
    let s ← get
    let m := Mem.readLE s.mem x.key z
    let lt := s.tarn.contains (lineOf x.key)
    let j1 := js.headD 0
    let (olds, p, fl) := vamoLanes f c m data (data j1) 0 (js.drop 1)
    let r := f.apply c m p
    storeBytes { x with unc := true } va z r.1 b
    let rest ← vamoGroups f c data b gs
    return { olds := (j1, m) :: olds ++ rest.olds, flags := (j1, fl ||| r.2) :: rest.flags, tarn := lt || rest.tarn }

/-- Replace `n` stream bits from bit `lo`. -/
def replaceBits (s lo n v : Nat) : Nat := s % 2 ^ lo + v % 2 ^ n * 2 ^ lo + s / 2 ^ (lo + n) * 2 ^ (lo + n)

/-- The one event of a VAMO (R224, R225): `kind` is unordered, or ordered for VAMOO. FLAGS, FIRSTX and RC take the tarnish of the sources, the
lines read among them (R132), which the event answers. -/
def vamoEvent (f : VamoOp) (kind : AccessKind) (d a b : BitVec 7) (mk : Bool) : M Bool := do
  let p ← vamoPlan f d a b mk
  let l ← vamoCheck p kind true
  let w := p.c.fixedBits
  let t ← getS
  let k := t.purseName d
  let q := t.purse k
  let wt := p.src || kind = .unordered
  let r ← vamoGroups f p.c (fun j => bitsAt q.bits (j * w) w) wt (groupTargets l [])
  let tarn := wt || r.tarn
  let _ ← writePurse k (r.olds.foldl (fun s o => replaceBits s (o.1 * w) w o.2) q.bits) q.fill tarn
  modS fun u => u.credit true r.flags (p.src || r.tarn)
  receipt p.n 0 p.ib (p.n * w) (p.src || r.tarn)
  return p.src || r.tarn

/-- An unordered VAMO. -/
def vamo (f : VamoOp) (d a b : BitVec 7) (mk : Bool) : M Unit := do let _ ← vamoEvent f .unordered d a b mk

/-! ## Instructions that a pre-emption can stop (R144, R147) -/

/-- The meaning of an instruction that stops element-precisely, cut at an element; with AMR = 0 a VSC is no instruction (R75). -/
def cutMeaning (cut : Option Nat) (amr : Nat) (i : Instr) : Option (M Unit) :=
  match i with
  | .vld d a mk => some (vecLoad cut fixedOrBlock none d a mk)
  | .vst d a mk => some (vecStore cut fixedOrBlock none d a mk)
  | .vlds d a b mk => some (vecLoad cut fixedCode (some b) d a mk)
  | .vsts d a b mk => some (vecStore cut fixedCode (some b) d a mk)
  | .vldc d a => some (vecLoadCoded cut false d a)
  | .vstc d a => some (vecStoreCoded cut d a)
  | .vgth d a b _ mk => some (vecGatherMem cut false d a b mk)
  | .vsct d a b _ mk => some (vecScatter cut d a b mk)
  | .vgl d a b _ mk => some (vecGatherMem cut true d a b mk)
  | .vsc d a b _ => if amr = 0 then none else some (storeConditional cut d a b)
  | _ => none

/-! ## The instructions -/

/-- VLD (R214). -/
def execVld (d a : BitVec 7) (mk : Bool) (s : State) : Host.Outcome State Fault Refusal :=
  runStep true (vecLoad none fixedOrBlock none d a mk) s

/-- VST (R214). -/
def execVst (d a : BitVec 7) (mk : Bool) (s : State) : Host.Outcome State Fault Refusal :=
  runStep true (vecStore none fixedOrBlock none d a mk) s

/-- VLDS (R215). -/
def execVlds (d a b : BitVec 7) (mk : Bool) (s : State) : Host.Outcome State Fault Refusal :=
  runStep true (vecLoad none fixedCode (some b) d a mk) s

/-- VSTS (R215). -/
def execVsts (d a b : BitVec 7) (mk : Bool) (s : State) : Host.Outcome State Fault Refusal :=
  runStep true (vecStore none fixedCode (some b) d a mk) s

/-- VLDC (R216). -/
def execVldc (d a : BitVec 7) (s : State) : Host.Outcome State Fault Refusal :=
  runStep true (vecLoadCoded none false d a) s

/-- VLDCF (R217). -/
def execVldcf (d a : BitVec 7) (s : State) : Host.Outcome State Fault Refusal :=
  runStep true (vecLoadCoded none true d a) s

/-- VSTC (R218). -/
def execVstc (d a : BitVec 7) (s : State) : Host.Outcome State Fault Refusal :=
  runStep true (vecStoreCoded none d a) s

/-- VPREF: no effect on any value and no fault (R219). -/
def execVpref (_a _b : BitVec 7) (s : State) : Host.Outcome State Fault Refusal :=
  .next (s.mapStrand Strand.advance)

/-- VGTH (R220). -/
def execVgth (d a b : BitVec 7) (_cb mk : Bool) (s : State) : Host.Outcome State Fault Refusal :=
  runStep true (vecGatherMem none false d a b mk) s

/-- VSCT (R220). -/
def execVsct (d a b : BitVec 7) (_cb mk : Bool) (s : State) : Host.Outcome State Fault Refusal :=
  runStep true (vecScatter none d a b mk) s

/-- VGL (R221). -/
def execVgl (d a b : BitVec 7) (_cb mk : Bool) (s : State) : Host.Outcome State Fault Refusal :=
  runStep true (vecGatherMem none true d a b mk) s

/-- VSC (R75, R222): with AMR = 0 the word is illegal. -/
def execVsc (d a b : BitVec 7) (cb : Bool) (s : State) : Host.Outcome State Fault Refusal :=
  if s.strand.amr = 0 then .next (s.illegal (wordOf (.vsc d a b cb)))
  else runStep true (storeConditional none d a b) s

/-- VAMOADD (R223, R224). -/
def execVamoadd (d a b : BitVec 7) (_cb mk : Bool) (s : State) : Host.Outcome State Fault Refusal :=
  runStep true (vamo .add d a b mk) s

/-- VAMOMIN (R223, R224). -/
def execVamomin (d a b : BitVec 7) (_cb mk : Bool) (s : State) : Host.Outcome State Fault Refusal :=
  runStep true (vamo .min d a b mk) s

/-- VAMOMAX (R223, R224). -/
def execVamomax (d a b : BitVec 7) (_cb mk : Bool) (s : State) : Host.Outcome State Fault Refusal :=
  runStep true (vamo .max d a b mk) s

/-- VAMOXCH (R223, R224). -/
def execVamoxch (d a b : BitVec 7) (_cb mk : Bool) (s : State) : Host.Outcome State Fault Refusal :=
  runStep true (vamo .xch d a b mk) s

/-- VAMOAND (R223, R224). -/
def execVamoand (d a b : BitVec 7) (_cb mk : Bool) (s : State) : Host.Outcome State Fault Refusal :=
  runStep true (vamo .and d a b mk) s

/-- VAMOOR (R223, R224). -/
def execVamoor (d a b : BitVec 7) (_cb mk : Bool) (s : State) : Host.Outcome State Fault Refusal :=
  runStep true (vamo .or d a b mk) s

/-- VAMOXOR (R223, R224). -/
def execVamoxor (d a b : BitVec 7) (_cb mk : Bool) (s : State) : Host.Outcome State Fault Refusal :=
  runStep true (vamo .xor d a b mk) s

end Sys2Proof.Machine
end

