-- ==== Sys2Proof/Machine/Ordered.lean ====
section
/-! DEFINITION. Ordered atomics: the stream, its slice and its buffer (R117, R226, R306, R307). The strand whose atomic is not yet performed
waits; it completes when its tag is the stream's next. -/

namespace Sys2Proof.Machine

/-- How performing an entry ended. -/
inductive OrdEnd where
  | done | stopped | waits
  deriving DecidableEq, Repr

/-- `State.actAs` for a change that answers how it ended. -/
def State.actAs2 (s : State) (place : Nat) (f : State → State × OrdEnd) : State × OrdEnd :=
  if s.strand.place = place && s.strand.live then f s
  else
    match s.parked.findIdx? (fun t => t.place = place && t.live) with
    | none => (s, .stopped)
    | some i =>
      let r := f { s with strand := s.parked.getD i s.strand, parked := s.parked.set i s.strand }
      ({ r.1 with strand := r.1.parked.getD i r.1.strand, parked := r.1.parked.set i r.1.strand }, r.2)

/-- The scalar operation and operands of an ordered AMO. -/
def amoOf (i : Instr) : Option (AmoOp × BitVec 7 × BitVec 7 × BitVec 7) :=
  match i with
  | .amoaddO d a b => some (.add, d, a, b)
  | .amoandO d a b => some (.and, d, a, b)
  | .amoorO d a b => some (.or, d, a, b)
  | .amoxorO d a b => some (.xor, d, a, b)
  | .amominO d a b => some (.min, d, a, b)
  | .amomaxO d a b => some (.max, d, a, b)
  | .amominuO d a b => some (.minu, d, a, b)
  | .amomaxuO d a b => some (.maxu, d, a, b)
  | .amoswapO d a b => some (.swap, d, a, b)
  | .amocasO d a b => some (.cas, d, a, b)
  | .amofadd32O d a b => some (.fadd32, d, a, b)
  | .amofadd64O d a b => some (.fadd64, d, a, b)
  | _ => none

/-- The one event of an ordered atomic for the acting strand (R115, R226); it answers the tarnish of the sources, the lines read among them. -/
def ordEvent (i : Instr) (stream : Nat) : M Bool :=
  match i with
  | .vamoo d a b _ mk => vamoEvent .add (.ordered stream) d a b mk
  | i => match amoOf i with
    | some (f, d, a, b) => amoEvent f (.ordered stream) d a b
    | none => return false

/-- VEC of a trap of an ordered atomic. -/
def ordVec (i : Instr) : Bool := match i with | .vamoo .. => true | _ => false

/-- What is checked before an ordered atomic is sent: R108 up to `assay_check`; that and the poison check apply when it is performed. It answers the
address a rejection reports (R136). -/
def ordCheck (i : Instr) (stream : Nat) : M Word := do
  match i with
  | .vamoo d a b _ mk =>
    let p ← vamoPlan .add d a b mk
    let _ ← vamoCheck p (.ordered stream) false
    return (p.at_.headD (0, 0)).2
  | i =>
    match amoOf i with
    | some (f, _, a, _) =>
      let va := ((← getS).reg a).val
      let _ ← accessCheck { f.acc (.ordered stream) with assay := false, poison := false } va f.size
      return va
    | none => return 0

/-- ORDTAG's tag, stream and step (R117). -/
def ordTag (w : Word) : BitVec 32 := w.extractLsb' 0 32
def ordStream (w : Word) : Nat := getBits w 32 8
def ordStep (w : Word) : Nat := if getBits w 40 8 = 0 then 1 else getBits w 40 8

/-- The atomic issues: ORDTAG advances by its step, with the tarnish of the instruction's sources (R117, R132). -/
def Strand.ordIssue (t : Strand) (src : Bool) : Strand :=
  let w := t.ctl.ordtag.val
  { t with ctl := ({ t.ctl with
      ordtag := { val := setBits w 0 32 ((ordTag w).toNat + ordStep w), tarn := t.ctl.ordtag.tarn || src } }).seen (t.ctl.ordtag.tarn || src) }

/-- The strand's atomic is complete and the strand goes on; what the lines read carried tarnishes ORDTAG too (R132). -/
def Strand.ordDone (t : Strand) (src : Bool) : Strand :=
  { t with ctl := { t.ctl with ordtag := { t.ctl.ordtag with tarn := t.ctl.ordtag.tarn || src } } }.advance

/-- The atomic is not performed: ORDTAG keeps the value it had before it (R117). -/
def Strand.ordBack (t : Strand) (e : OrdEntry) : Strand :=
  { t with run := .ready, ctl := { t.ctl with ordtag := { val := setBits t.ctl.ordtag.val 0 32 e.tag.toNat, tarn := e.tagTarn } } }

/-- Tarnish of an ordered atomic's sources as it issues. -/
def State.ordSrc (s : State) (i : Instr) : Bool :=
  let t := s.strand
  match i with
  | .vamoo d a b _ m => (t.reg a).tarn || (t.purse (t.purseName d)).tarn || (t.purse (t.purseName b)).tarn || (m && (s.readMask t t.amr).tarn)
  | i => match amoOf i with
    | some (f, d, a, b) => (t.reg a).tarn || (t.reg b).tarn || (f = .cas && (t.reg d).tarn)
    | none => false

/-- A strand that stood saved stands saved again, with what has happened to it in its image (R150); a frozen one is never saved (R148). -/
def State.saveAgain (s : State) (was : Strand) : State :=
  if was.saved.isSome && (match s.strand.run with | .frozen _ => false | _ => true) then s.save s.strand else s

/-- The atomic of the acting strand ends in a trap: it has had no effect. -/
def State.ordTrap (s : State) (e : OrdEntry) (x : Trap) : State :=
  ((s.mapStrand fun t => { t.ordBack e with saved := none }).takeTrap (ordVec e.instr) s.strand.pc x).saveAgain s.strand

/-- Perform an entry as its strand: it completes, traps, or has to wait for its bytes (R166, R294), for tag space (R311), or for a strand that was
suspended while it waited to be resumed. -/
def State.performOrd (s : State) (e : OrdEntry) : State × OrdEnd :=
  let as_ (u : State) : State × OrdEnd :=
    match ordEvent e.instr e.stream { u with strand := { u.strand with run := .ready, saved := none } } with
    | .ok src v => ((v.mapStrand (Strand.ordDone · src)).saveAgain u.strand, .done)
    | .error (.trap x) v => ((v.mapStrand fun t => { t with saved := u.strand.saved }).ordTrap e x, .stopped)
    | .error .wait _ => (u, .waits)
    | .error (.noTag g) _ => (u.tagStall u.strand.part g, .waits)
  match s.strandAt e.place with
  | none => (s, .stopped)
  | some t =>
    if t.launch ≠ e.launch then (s, .stopped)
    else if t.ordHeld then (s, .waits)
    else if t.run ≠ .waitOrd then (s, .stopped)
    else s.actAs2 e.place as_

/-- The stream's next tag (R306). -/
def State.ordNext (s : State) (e : OrdEntry) : BitVec 32 :=
  ((s.ordStreams.find? fun x => x.launch = e.launch && x.die = e.die && x.slice = e.slice && x.stream = e.stream).map (·.next)).getD 0

/-- NEXT := n, taking the state for the launch. -/
def State.setOrdNext (s : State) (e : OrdEntry) (n : BitVec 32) : State :=
  let same := fun (x : OrdStream) => x.launch = e.launch && x.die = e.die && x.slice = e.slice && x.stream = e.stream
  { s with ordStreams := s.ordStreams.filter (!same ·) ++ [{ launch := e.launch, die := e.die, slice := e.slice, stream := e.stream, next := n }] }

def OrdEntry.sameStream (e x : OrdEntry) : Bool := x.launch = e.launch && x.die = e.die && x.slice = e.slice && x.stream = e.stream

/-- Perform buffered entries of a stream while one has the next tag (R307). -/
def State.drainOrd (s : State) (e : OrdEntry) : Nat → State
  | 0 => s
  | fuel + 1 =>
    match s.ordEntries.find? fun x => x.inBuffer && e.sameStream x && x.tag = s.ordNext e with
    | none => s
    | some x =>
      let (s1, r) := s.performOrd x
      let gone := { s1 with ordEntries := s1.ordEntries.filter (·.id ≠ x.id) }
      match r with
      | .done => (gone.setOrdNext x (x.tag + 1)).drainOrd e fuel
      | .stopped => gone
      | .waits => s1

/-- The strand of an entry waits for it, keeping the entry as given. -/
def State.holdOrd (s : State) (e : OrdEntry) (inBuffer : Bool) : State :=
  { s with ordEntries := s.ordEntries.filter (·.id ≠ e.id) ++ [{ e with inBuffer := inBuffer }] }

/-- The strand of an entry stands suspended. -/
def State.ordHeldAt (s : State) (e : OrdEntry) : Bool := match s.strandAt e.place with | some t => t.ordHeld | none => false

/-- An ordered atomic reaches its slice (R306, R307); its strand waits for it. `addr` is what a rejection reports. -/
def State.ordArrive (s : State) (e : OrdEntry) (addr : Word) : State :=
  let held := s.ordStreams.find? fun x => x.die = e.die && x.slice = e.slice && x.stream = e.stream && x.launch ≠ e.launch
  if held.isSome || s.ordHeldAt e then s.holdOrd e false
  else
    let s0 := if s.ordStreams.any (fun x => x.launch = e.launch && x.die = e.die && x.slice = e.slice && x.stream = e.stream) then s
      else s.setOrdNext e 0
    let next := s0.ordNext e
    let others := s0.ordEntries.filter fun x => x.id ≠ e.id && x.inBuffer
    if 2 ^ 31 ≤ (e.tag - next).toNat || others.any (fun x => e.sameStream x && x.tag = e.tag) then
      let gone := { s0 with ordEntries := s0.ordEntries.filter (·.id ≠ e.id) }
      gone.actAs e.place fun u => u.ordTrap e { Trap.at 0x0C addr with acc := 2 }
    else if e.tag = next then (s0.holdOrd e true).drainOrd e 64
    else if 63 ≤ (others.filter fun x => x.die = e.die && x.slice = e.slice).length then s0.holdOrd e false
    else s0.holdOrd e true

/-- The ordering slice of a stream: the die of the launch's strand 0, and slice `id mod S` of the partition there (R306). -/
def State.ordHome (s : State) (t : Strand) (stream : Nat) : Nat × Nat :=
  let die := match s.launch? t.launch with
    | some l => match l.strands.find? (·.1 = 0) with | some m => dieOf m.2 | none => dieOf t.place
    | none => dieOf t.place
  let sl := s.slices t.part die
  (die, sl.getD (stream % sl.length) 0)

/-- An ordered atomic is issued: it is checked and sent (R117, R226). -/
def issueOrdered (i : Instr) (s : State) : Host.Outcome State Fault Refusal :=
  let w := s.strand.ctl.ordtag.val
  match ordCheck i (ordStream w) s with
  | .error (.trap x) t => .next (t.takeTrap (ordVec i) s.strand.pc x)
  | .error .wait _ => .next s.waits
  | .error (.noTag g) _ => .next (s.waits.tagStall s.strand.part g)
  | .ok addr t =>
    let home := t.ordHome t.strand (ordStream w)
    let e : OrdEntry :=
      { id := t.nextCmd, place := t.strand.place, launch := t.strand.launch, die := home.1, slice := home.2, stream := ordStream w,
        tag := ordTag w, instr := i, inBuffer := false, tagTarn := t.strand.ctl.ordtag.tarn }
    .next (({ t with nextCmd := t.nextCmd + 1, strand := { t.strand.ordIssue (t.ordSrc i) with run := .waitOrd } }).ordArrive e addr)

/-- The address that a rejection of a waiting atomic reports: the strand's operands stand unchanged while it waits. -/
def State.ordAddr (s : State) (e : OrdEntry) : Word :=
  match s.strandAt e.place with
  | none => 0
  | some t => match ordCheck e.instr e.stream { s with strand := { t with run := .ready } } with | .ok a _ => a | .error _ _ => 0

/-! ## The instructions -/

/-- AMOADD.o (R115, R117). -/
def execAmoaddO (d a b : BitVec 7) (s : State) : Host.Outcome State Fault Refusal :=
  issueOrdered (.amoaddO d a b) s

/-- AMOAND.o (R115, R117). -/
def execAmoandO (d a b : BitVec 7) (s : State) : Host.Outcome State Fault Refusal :=
  issueOrdered (.amoandO d a b) s

/-- AMOOR.o (R115, R117). -/
def execAmoorO (d a b : BitVec 7) (s : State) : Host.Outcome State Fault Refusal :=
  issueOrdered (.amoorO d a b) s

/-- AMOXOR.o (R115, R117). -/
def execAmoxorO (d a b : BitVec 7) (s : State) : Host.Outcome State Fault Refusal :=
  issueOrdered (.amoxorO d a b) s

/-- AMOMIN.o (R115, R117). -/
def execAmominO (d a b : BitVec 7) (s : State) : Host.Outcome State Fault Refusal :=
  issueOrdered (.amominO d a b) s

/-- AMOMAX.o (R115, R117). -/
def execAmomaxO (d a b : BitVec 7) (s : State) : Host.Outcome State Fault Refusal :=
  issueOrdered (.amomaxO d a b) s

/-- AMOMINU.o (R115, R117). -/
def execAmominuO (d a b : BitVec 7) (s : State) : Host.Outcome State Fault Refusal :=
  issueOrdered (.amominuO d a b) s

/-- AMOMAXU.o (R115, R117). -/
def execAmomaxuO (d a b : BitVec 7) (s : State) : Host.Outcome State Fault Refusal :=
  issueOrdered (.amomaxuO d a b) s

/-- AMOSWAP.o (R115, R117). -/
def execAmoswapO (d a b : BitVec 7) (s : State) : Host.Outcome State Fault Refusal :=
  issueOrdered (.amoswapO d a b) s

/-- AMOCAS.o (R115, R117). -/
def execAmocasO (d a b : BitVec 7) (s : State) : Host.Outcome State Fault Refusal :=
  issueOrdered (.amocasO d a b) s

/-- AMOFADD32.o (R115, R117). -/
def execAmofadd32O (d a b : BitVec 7) (s : State) : Host.Outcome State Fault Refusal :=
  issueOrdered (.amofadd32O d a b) s

/-- AMOFADD64.o (R115, R117). -/
def execAmofadd64O (d a b : BitVec 7) (s : State) : Host.Outcome State Fault Refusal :=
  issueOrdered (.amofadd64O d a b) s

/-- VAMOO (R226). -/
def execVamoo (d a b : BitVec 7) (cb mk : Bool) (s : State) : Host.Outcome State Fault Refusal :=
  issueOrdered (.vamoo d a b cb mk) s

/-- ORDERED_ATOMIC_ARRIVAL: atomic `n`, held outside the buffer, reaches its slice again (R306, R307). -/
def execOrderedAtomicArrival (n : Nat) (s : State) : Host.Outcome State Fault Refusal :=
  match s.ordEntries.find? fun e => e.id = n && !e.inBuffer with
  | none => .next s
  | some e => .next (s.ordArrive e (s.ordAddr e))

/-- ORDERED_ATOMIC_APPLY: the slice performs what its buffer holds of a stream in tag order (R307). -/
def execOrderedAtomicApply (die slice id : Nat) (s : State) : Host.Outcome State Fault Refusal :=
  match s.ordEntries.find? fun e => e.die = die && e.slice = slice && e.stream = id && e.inBuffer with
  | none => .next s
  | some e => .next (s.drainOrd e 64)

end Sys2Proof.Machine
end

