-- ==== Sys2Proof/Machine/Context.lean ====
section
/-! DEFINITION. Pre-emption and restore of a strand (R147, R149, R150), and draining and retiring a cluster (R288, R417). -/

namespace Sys2Proof.Machine

/-! ## Pre-emption (R147) -/

/-- An engine command that names one of the strand's masks is not finished: the save waits for it. -/
def State.maskBusy (s : State) (t : Strand) : Bool :=
  s.cmds.any fun c => c.place = t.place && c.launch = t.launch && c.node.isNone && c.ck = 1 && c.atWork

/-- The strand can be saved: it lives, stands in its slot and is not frozen. -/
def State.savable (s : State) (t : Strand) : Bool :=
  t.live && t.saved.isNone && (match t.run with | .frozen _ => false | _ => true) && !s.maskBusy t

/-- The acting strand's memory instruction in flight is stopped at a free element, and its point is armed (R144, R147); or it completes, or traps, which
comes first (R150). An instruction that is no memory instruction of R144, or has not begun, is left for later. -/
def State.cutFlight (s : State) : State :=
  let u := { s with fresh := s.fresh + 2 }
  if Config.pick s.fresh % 2 = 0 then u
  else
    match u.fetch with
    | (v, .ok w) =>
      match decodeWord w with
      | .error _ => u
      | .ok i =>
        match cutMeaning (some (Config.pick (s.fresh + 1))) v.strand.amr i with
        | none => u
        | some m =>
          let v1 := v.mapStrand fun t => { t with word := w }
          match (do m; modS Strand.advance) v1 with
          | .ok _ v2 => v2
          | .error (.trap x) v2 =>
            if x = { preemptStop with elem := x.elem, resume := x.resume } then v2.mapStrand fun t => { t with armed := some (t.pc, x.resume.getD 0) }
            else v2.takeTrap true v1.strand.pc (v1.strand.keepPoint x)
          | .error _ _ => u
    | _ => u

/-- Pre-empt the strand at a place (R147): a memory instruction in flight stops, the image is written, the links break (R221), and the strand stands saved
until a restore. While a command that names one of its masks goes on the pre-emption is due, and the strand executes nothing more. -/
def State.preempt (s : State) (place : Nat) : State :=
  match s.strandAt place with
  | none => s
  | some t =>
    if s.savable t then
      let s1 := if t.run = .ready then s.actAs place State.cutFlight else s
      match s1.strandAt place with
      | some u => if s1.savable u then s1.save u else s1
      | none => s1
    else if t.saved.isNone && s.maskBusy t && (match t.run with | .frozen _ => false | _ => true) then s.updateAt place fun u => { u with due := true }
    else s

/-- Pre-emptions that were due and can be done now. -/
def State.saveDue (s : State) : State := (s.strands.filter fun t => t.due && s.savable t).foldl (fun u t => u.preempt t.place) s

/-- PREEMPTION (R147). -/
def execPreemption (place : Nat) (s : State) : Host.Outcome State Fault Refusal := .next (s.preempt place)

/-! ## Restore (R149) -/

/-- Restore the strand saved at a place. One that waits at a barrier for a command that has stopped meanwhile executes its wait again, and takes
the trap there (R239, R434). -/
def State.restore (s : State) (place : Nat) : State :=
  match s.strandAt place with
  | none => s
  | some t =>
    if t.saved.isNone then s
    else if s.imageBad t then (if t.isSuspended then s else s.suspendAt place 0x18 0 1)
    else
      let s0 := match s.launch? t.launch with | some l => s.setLaunch { l with quiesced := false } | none => s
      s0.updateAt place fun _ => s.loadImage t

/-- RESTORE (R149). -/
def execRestore (place : Nat) (s : State) : Host.Outcome State Fault Refusal := .next (s.restore place)

/-! ## A cluster leaves service (R288) -/

/-- CLSTAT.STATE. -/
def State.clusterState (s : State) (cluster : Nat) : Nat := getBits (s.reg64 (clusterCtl cluster)) 4 2

/-- Live strands with a place on a cluster. -/
def State.onCluster (s : State) (cluster : Nat) : List Strand := s.strands.filter fun t => t.live && t.places.any fun p => clusterOf p = cluster

/-- The strand waits on a barrier that the cluster's network joins: one of a level whose group stands on several cores. -/
def State.onNetwork (s : State) (t : Strand) : Bool :=
  match t.run with
  | .waitBar b | .waitFree b | .waitPend b =>
    match s.ownerOf t b, s.launch? t.launch with
    | some (_, n, g), some l => decide (1 < (l.coresOf n g).length)
    | _, _ => false
  | _ => false

/-- The strand has stopped already: suspended or frozen. -/
def Strand.stopped (t : Strand) : Bool := match t.run with | .suspended _ | .frozen _ => true | _ => false

/-- What a draining cluster does to a strand on it: one that waits on a faulted network suspends with MACHINE_CHECK, its arrival kept (R289). A span
strand in a D context suspends, unless it has stopped already; in an F context its segments here detach at the next SETVL, where it has others (R352,
R361; log 50). The others are pre-empted. -/
def State.drainStrand (s : State) (cluster : Nat) (bnf : Bool) (t : Strand) : State :=
  let stay := (t.prepSegs.getD t.segs).filter fun p => clusterOf p ≠ cluster
  if bnf && s.onNetwork t then s.suspendAt t.place 0x18 0 1
  else if t.segs ≠ [] && t.st.d then (if t.stopped then s else s.suspendAt t.place 0x18 0 1)
  else if stay ≠ [] then s.updateAt t.place fun u => { u with prepSegs := some stay, st := { u.st with rgp := true } }
  else s.preempt t.place

/-- Begin draining. -/
def State.drainCluster (s : State) (cluster : Nat) (bnf : Bool) : State :=
  let s1 := s.setField (clusterCtl cluster) 4 2 1
  let s2 := if bnf then s1.setField (clusterCtl cluster) 1 1 1 else s1
  (s2.onCluster cluster).foldl (fun u t => u.drainStrand cluster bnf t) s2

/-- CLUSTER_DRAIN (R288): with `bnf` the barrier network has failed a check, which it may do while the cluster drains already; else two cores have
failed or the host asks. -/
def execClusterDrain (die cluster : Nat) (bnf : Bool) (s : State) : Host.Outcome State Fault Refusal :=
  let c := 8 * die + cluster
  .next (if 4 ≤ die ∨ 8 ≤ cluster ∨ !(s.clusterState c = 0 || (s.clusterState c = 1 && bnf)) then s else s.drainCluster c bnf)

/-- The partition that holds a cluster. -/
def State.clusterPart (s : State) (cluster : Nat) : Option Nat := (List.range 32).find? fun p => s.ownsCluster p cluster

/-- A partition that resizes takes the cluster out without retiring it (R417). -/
def State.removing (s : State) (part cluster : Nat) : Bool :=
  s.resizing part && !(s.reg64 (descAddr part 0x88)).getLsbD cluster

/-- A cluster that may take strands in: the partition's, in service, and not about to be removed. -/
def State.clusterOpen (s : State) (part cluster : Nat) : Bool :=
  decide (cluster < 32) && s.ownsCluster part cluster && decide (s.clusterState cluster = 0) && !s.removing part cluster

/-- A free cluster: open, with no strand on it. -/
def State.clusterFree (s : State) (part cluster : Nat) : Bool := s.clusterOpen part cluster && (s.onCluster cluster).isEmpty

/-- Where a core's strands go: a list of pairs of cores, the old and the new. -/
abbrev CoreMap := List (Nat × Nat)

def CoreMap.core (m : CoreMap) (c : Nat) : Nat := ((m.find? (·.1 = c)).map (·.2)).getD c
def CoreMap.place (m : CoreMap) (p : Nat) : Nat := m.core (coreOf p) * 4 + p % 4

/-- A key of local memory of a core that moves, on its new core. -/
def CoreMap.key (m : CoreMap) (k : Nat) : Nat :=
  if k < scratchKey 0 0 then k
  else if k < laneKey 0 0 then scratchKey (m.core ((k - scratchKey 0 0) / 2 ^ 20)) (k % 2 ^ 20)
  else if k < clusterKey 0 0 then laneKey (m.core ((k - laneKey 0 0) / 2 ^ 20)) (k % 2 ^ 20)
  else if k < scaleKey 0 0 then k
  else if k < scaleKey 1024 0 then scaleKey (m.core ((k - scaleKey 0 0) / 2 ^ 17)) (k % 2 ^ 17)
  else k

/-- Everything that names places or local memory of cores that move names those of the new cores. -/
def State.rehome (s : State) (m : CoreMap) : State :=
  let taken := fun (c : Nat) => m.any (·.2 = c)
  let f := fun (t : Strand) =>
    { t with place := m.place t.place, segs := t.segs.map m.place, borrowed := t.borrowed.map fun b => m.core (b / 24) * 24 + b % 24 }
  { s with
    strand := f s.strand, parked := s.parked.map f,
    launches := s.launches.map fun l => { l with strands := l.strands.map fun x => (x.1, m.place x.2) },
    barriers := (s.barriers.filter fun b => !taken b.core).map fun b => { b with core := m.core b.core },
    cores := (s.cores.filter fun c => !taken c.core).map fun c =>
      { c with core := m.core c.core, score := c.score.map fun e => { e with lo := m.key e.lo, hi := m.key e.lo + (e.hi - e.lo) } },
    guests := s.guests.filter fun g => !taken g.core && m.core g.core = g.core,
    cmds := s.cmds.map fun c => { c with place := m.place c.place, dest := (c.dest.1, if c.dest.1 then m.key c.dest.2.1 else c.dest.2.1, c.dest.2.2) },
    ordEntries := s.ordEntries.map fun o => { o with place := m.place o.place },
    records := s.records.map fun r => { r with place := r.place.map m.place },
    oldCode := s.oldCode.map fun o =>
      { o with writer := m.place o.writer, observed := o.observed.map fun x => (m.place x.1, x.2), fenced := o.fenced.map m.place },
    goOn := s.goOn.map fun x => (m.place x.1, x.2) }

/-- Zero the memories of a cluster: its own, and its cores' scratchpads, lane slices and scale memories (R165, R256, R281, R288). -/
def State.zeroCluster (s : State) (cluster : Nat) : State :=
  let s1 := (List.range 8).foldl (fun u i =>
    let c := 8 * cluster + i
    ((u.zeroRange (scratchKey c 0) 0x80000).zeroRange (laneKey c 0) 0x40000).zeroRange (scaleKey c 0) 0x10000) (s.zeroRange (clusterKey cluster 0) 0x800000)
  { s1 with barriers := s1.barriers.filter fun b => !(b.core / 8 = cluster && b.owner = none) }

/-- A command of the cluster's strands still writes its cluster memory (R289). -/
def State.clusterBusy (s : State) (cluster : Nat) : Bool :=
  s.cmds.any fun c => c.atWork && c.dest.1 && decide (clusterKey cluster 0 ≤ c.dest.2.1) && decide (c.dest.2.1 < clusterKey (cluster + 1) 0)

/-- A write of the cluster's cores waits for a locked page (R294). -/
def State.clusterHeld (s : State) (cluster : Nat) : Bool := (List.range 8).any fun i => s.drainBlocked (8 * cluster + i)

/-- Every strand of the cluster has been saved or has ended, and none has other segments elsewhere. -/
def State.clusterSaved (s : State) (cluster : Nat) : Bool :=
  (s.onCluster cluster).all fun t => t.saved.isSome && t.places.all fun p => clusterOf p = cluster

/-- The launches' strands are killed with TCAUSE 0x18, what their cores have stored first reaching its home (R403). -/
def State.killLaunches (s : State) (launches : List Nat) : State :=
  (s.strands.filter fun t => t.live && launches.contains t.launch).foldl (fun u t => (u.drainAll (coreOf t.place)).endStrand t.place .zero (some 0x18)) s

/-- The cluster leaves its partition, zeroed: retired, or back in the free pool. -/
def State.leaveCluster (s : State) (part cluster : Nat) : State :=
  let s1 := (s.zeroCluster cluster).setField (clusterCtl cluster) 4 2 (if s.removing part cluster then 0 else 2)
  s1.setReg64 (descAddr part 0x08) (s1.reg64 (descAddr part 0x08) &&& ~~~(BitVec.ofNat 64 (2 ^ cluster)))

/-- Strands of cores move to other cores, and are restored there. -/
def State.moveCores (s : State) (m : CoreMap) : State :=
  let s1 := (m.foldl (fun u c => u.drainAll c.1) s).rehome m
  (s1.strands.filter fun t => t.live && m.any fun c => coreOf t.place = c.2).foldl (fun u t => u.restore t.place) s1

/-- The cores of a cluster onto those of another. -/
def clusterMap (src dst : Nat) : CoreMap := (List.range 8).map fun i => (8 * src + i, 8 * dst + i)

/-- With the cores as `m` moves them every level keeps within its units (R404), and the segments of a span strand keep their order (R351). -/
def State.moveOk (s : State) (m : CoreMap) : Bool :=
  (s.launches.all fun l => !(l.strands.any fun x => m.any (·.1 = coreOf x.2)) || levelsPlaced l.levels (l.strands.map fun x => m.place x.2)) &&
    s.strands.all fun t => !t.live || !(t.segs.any fun p => m.any (·.1 = coreOf p)) || segsPlaced (t.segs.map m.place)

/-- A cluster that may take a drained one's strands and memory in (R288): free, and level groups stay whole there. -/
def State.clusterTarget (s : State) (part src dst : Nat) : Bool := s.clusterFree part dst && s.moveOk (clusterMap src dst)

/-- Scratchpads, lane slices and scale memories of cores go with their strands: no value a program can load changes (R417). -/
def State.carryCores (s : State) (m : CoreMap) : State :=
  m.foldl (fun u c => ((u.movePage (scratchKey c.1 0) (scratchKey c.2 0) 0x80000).movePage (laneKey c.1 0) (laneKey c.2 0) 0x40000).movePage
    (scaleKey c.1 0) (scaleKey c.2 0) 0x10000) s

/-- Move a drained cluster's strands and memory to a free one, and restore the strands there. -/
def State.moveCluster (s : State) (src dst : Nat) : State :=
  let s1 := (List.range 8).foldl (fun u i => u.drainAll (8 * src + i)) s
  (s1.movePage (clusterKey src 0) (clusterKey dst 0) 0x800000).moveCores (clusterMap src dst)

/-- The memories of two clusters hold the same bytes with the same marks, so that a strand that goes from the one to the other loads what it would have
loaded. -/
def State.sameCluster (s : State) (x y : Nat) : Bool :=
  let cells := fun (c : Nat) => (s.mem.filter fun e => decide (clusterKey c 0 ≤ e.1) && decide (e.1 < clusterKey c 0x800000)).map fun e => (e.1 - clusterKey c 0, e.2)
  let marks := fun (c unit : Nat) (l : List Nat) =>
    (l.filter fun w => decide (clusterKey c 0 ≤ w * unit) && decide (w * unit < clusterKey c 0x800000)).map fun w => w * unit - clusterKey c 0
  decide (cells x = cells y) && decide (marks x 64 s.tarn = marks y 64 s.tarn) && decide (marks x 64 s.poison = marks y 64 s.poison) &&
    decide (marks x 8 s.parity = marks y 8 s.parity)

/-- Cores of a removed cluster with strands onto cores without any, of clusters that the partition keeps and whose memory holds what the removed
one's holds, from a free one of these on; `none` when there are too few, or a level's groups would leave their units (R404, R417; log 32). -/
def State.spread (s : State) (part cluster : Nat) : Option CoreMap :=
  let src := (List.range 8).filterMap fun i => if (s.onCore (8 * cluster + i)).isEmpty then none else some (8 * cluster + i)
  let free := (List.range 256).filter fun c => s.clusterOpen part (c / 8) && (s.onCore c).isEmpty &&
    !(s.reg64 (clusterCtl (c / 8))).getLsbD (16 + c % 8) && s.sameCluster cluster (c / 8)
  let k := Config.pick s.fresh % (free.length + 1)
  let m : CoreMap := src.zip (free.drop k ++ free.take k)
  if m.length = src.length && s.moveOk m then some m else none

/-- A RESIZE takes the strands of a removed cluster to the clusters that stay, with every value they can load (R417): to cores of clusters in use where
their cluster memory holds the same, else with the cluster's memory to a free cluster (log 32). -/
def State.vacate (s : State) (part cluster : Nat) : State :=
  let u := { s with fresh := s.fresh + 1 }
  match s.spread part cluster, (List.range 32).find? (s.clusterTarget part cluster) with
  | some m, _ => ((u.carryCores m).moveCores m).leaveCluster part cluster
  | none, some d => ((u.carryCores (clusterMap cluster d)).moveCluster cluster d).leaveCluster part cluster
  | none, none => u

/-- CLUSTER_RETIRE (R288): its memory, and its strands if any, go to the free cluster `target`; or with none left its launches are killed, or in a
RESIZE its strands go to what stays. A cluster of no partition only leaves service. -/
def execClusterRetire (die cluster : Nat) (target : Option Nat) (s : State) : Host.Outcome State Fault Refusal :=
  let c := 8 * die + cluster
  if 4 ≤ die ∨ 8 ≤ cluster ∨ s.clusterState c ≠ 1 ∨ !s.clusterSaved c ∨ s.clusterBusy c ∨ s.clusterHeld c then .next s
  else
    match s.clusterPart c, target with
    | none, _ => .next ((s.zeroCluster c).setField (clusterCtl c) 4 2 2)
    | some p, some d => .next (if s.clusterTarget p c d then (s.moveCluster c d).leaveCluster p c else s)
    | some p, none =>
      .next (if s.removing p c then s.vacate p c
        else if (List.range 32).any (s.clusterTarget p c) then s
        else (s.killLaunches ((s.onCluster c).map (·.launch))).leaveCluster p c)

end Sys2Proof.Machine
end

