-- ==== Sys2Proof/Machine/EscrowOps.lean ====
section
/-! DEFINITION. The escrow engine: major 0x3C (R320 to R330). A launch without escrow owns no context, and every instruction here is refused in
it (R323). -/

namespace Sys2Proof.Machine

/-! ## Contexts and tags -/

/-- The context of the acting strand's launch. -/
def State.escrowOf (s : State) (t : Strand) : Option Escrow := s.escrow.find? (·.launch = t.launch)

def State.setEscrow (s : State) (e : Escrow) : State := { s with escrow := s.escrow.map fun x => if x.launch = e.launch then e else x }

/-- The barrier that joins the escrow level (R321, R433). -/
def Launch.escrowBar (l : Launch) : Option Nat :=
  match l.esc with
  | none => none
  | some e => (List.range 64).find? fun b => match l.levelOf b with
    | some n => decide (n ≤ e) && decide (e ≤ topJoined l.levels n)
    | none => false

/-- The strand has arrived in the current round of the escrow barrier (R323). -/
def State.hasArrived (s : State) (t : Strand) : Bool :=
  match s.launch? t.launch with
  | none => false
  | some l => match l.escrowBar with | some b => t.arrivals.contains b | none => false

/-- The context, when it stands in a state and the strand has not arrived; `none` is a refusal (R326, R327). -/
def State.escrowOpen (s : State) (st : Round) (i : Nat) : Option Escrow :=
  match s.escrowOf s.strand with
  | some e => if e.st = st && !s.hasArrived s.strand && i ≠ 2 ^ 32 - 1 then some e else none
  | none => none

/-- A cell's tag in a window: iteration and tarnish; `none` is ∞ (R322). -/
def State.cellTag (s : State) (e : Escrow) (cell : Nat) : Option (Nat × Bool) :=
  (s.resv.find? fun r => r.launch = e.launch && r.cell = cell && r.window = e.wn.toNat).map fun r => (r.iter, r.tarn)

/-- A context's tag of a cell, whatever its window. -/
def State.resTag? (s : State) (e : Escrow) (cell : Nat) : Option ResTag := s.resv.find? fun r => r.launch = e.launch && r.cell = cell

/-- Put a tag in the place of the context's tag of the cell. -/
def State.setTag (s : State) (r : ResTag) : State :=
  { s with resv := r :: s.resv.filter fun x => !(x.launch = r.launch && x.cell = r.cell) }

/-- Reserve a cell: the tag takes the smaller iteration and the OR of the tarnish (R326, R329); a lost one keeps its iteration (R333). -/
def State.reserveCell (s : State) (e : Escrow) (i : Nat) (b : Bool) (cell : Nat) : State :=
  s.setTag (match (s.resTag? e cell).filter fun r => r.window = e.wn.toNat with
    | some r => { r with iter := if r.lost then r.iter else min i r.iter, tarn := b || r.tarn }
    | none => { launch := e.launch, cell := cell, window := e.wn.toNat, iter := i, tarn := b, lost := false })

/-- The iteration of the window's slot 0 (R325): a retried slot's stands in its queue entry. -/
def State.slotZero (s : State) (t : Strand) (e : Escrow) : Nat :=
  if e.mr = 0 then e.next.toNat
  else
    let word := fun (va n : Nat) => match (s.translate t.party va .read).2 with | .ok x => Mem.readLE s.mem x.key n | .error _ => 0
    word (word e.qw.toNat 8 + 4 * (e.h0.toNat % max 1 (word (e.qw.toNat + 8) 8))) 4

/-- A failure of a cell's spilled tag is met (log 26): from then on it reads as slot 0's iteration, and a record is posted (R333). -/
def State.meetCell (s : State) (e : Escrow) (cell : Nat) : State :=
  match s.resTag? e cell with
  | none => s
  | some r =>
    if s.upsetOf (resTagUnit cell) = 0 then s
    else
      let s1 := (s.useUpset (resTagUnit cell)).setTag { r with window := e.wn.toNat, iter := s.slotZero s.strand e, lost := true }
      (s1.postRecord s.strand.part 8 [0, BitVec.ofNat 64 cell, 0x09] none none).1

/-- The home slice has no room for a tag of the cell (R311, R322). -/
def State.noCellRoom (s : State) (e : Escrow) (cell : Nat) : Bool :=
  s.upsets ≠ [] && (s.resTag? e cell).isNone &&
    s.upsetOf (tagAreaUnit (s.sliceOf s.strand.part (cell / 256)).1 (s.sliceOf s.strand.part (cell / 256)).2) ≠ 0

/-- The tags of cells, in order: failures are met. -/
def meetCells (e : Escrow) (cells : List (Nat × Nat)) : M Unit := modify fun s => if s.upsets = [] then s else cells.foldl (fun u c => u.meetCell e c.2) s

/-! ## Cell addresses (R326, R327) -/

/-- The checks of a cell: R108 without `assay_check` and the poison check (R326). A tag access waits on no scoreboard (R330). -/
def checkCell (mode : Access) (va : Word) : M Nat := do
  let o : Acc := { mode := mode, kind := .plain, target := .cell, assay := false, poison := false, seen := [] }
  if va.toNat % 8 ≠ 0 then raise (o.trap 0x05 0 va.toNat)
  let s ← get
  match s.check s.strand o va.toNat 8 with
  | (s1, .error x) => set s1; raise x
  | (s1, .ok x) => set s1; return x.key

/-- The cells of the active elements, each with its element's number; the lowest failing element traps. -/
def checkCells (mode : Access) (g : Gov) : Nat → List Elem → M (List (Nat × Nat))
  | _, [] => return []
  | j, e :: es => do
    if g.on j then
      let k ← checkCell mode (BitVec.ofInt 64 e.x.toInt)
      return (j, k) :: (← checkCells mode g (j + 1) es)
    else checkCells mode g (j + 1) es

/-- What ERSV and ECHK read: the elements of purse a, the mask, the iteration and the operands' tarnish. -/
structure CellPlan where
  es   : List Elem
  gov  : Gov
  i    : Nat
  tarn : Bool
  deriving DecidableEq, Repr

def cellPlan (a b : BitVec 7) (mk : Bool) : M CellPlan := do
  useRegs [a]
  let c ← useCode a integerCode
  let g ← govern mk
  let (es, ta) ← source a c 0
  let r := (← getS).reg b
  return { es := es, gov := g, i := getBits r.val 0 32, tarn := ta || g.tarn || r.tarn }

/-! ## The instructions -/

/-- A 64-bit field of a queue word (R207). -/
def queueField (bs : List Byte) (o : Nat) : Nat := leNat ((bs.drop o).take 8)

/-- EWIN (R325). -/
def openWindow (a b : BitVec 7) : M Unit := do
  let t ← getS
  let qa := t.reg a
  let rq := t.reg b
  let ws ← checkWordsAligned .read qa.val
  let (bs, tq) ← loadWords ws 64
  let n := getBits rq.val 32 17
  let cap := queueField bs 8
  let head := queueField bs 16
  let held := (queueField bs 24 + 2 ^ 64 - head) % 2 ^ 64
  let src := qa.tarn || rq.tarn || tq
  let s ← get
  match s.escrowOf t with
  | none => receipt 0 0 0 0 src
  | some e =>
    if e.st ≠ .closed || n = 0 || 65536 < n || cap = 0 || queueField bs 0 % 4 ≠ 0 || cap < held then receipt 0 0 0 0 src
    else
      set (s.setEscrow { e with st := .opening, wn := e.wn + 1, qw := qa.val, h0 := BitVec.ofNat 64 head, next := rq.val.setWidth 32,
                                ns := n, mr := min held n, cur := 0 })
      receipt 0 n (min held n) 0 src

/-- ERSV (R326). -/
def reserveCells (a b : BitVec 7) (mk : Bool) : M Unit := do
  let p ← cellPlan a b mk
  let s ← get
  match s.escrowOpen .reserve p.i with
  | none => receipt 0 0 0 0 p.tarn
  | some e =>
    let cells ← checkCells .write p.gov 0 p.es
    match cells.find? fun c => s.noCellRoom e c.2 with
    | some c => throw (.noTag (c.2 / 256))
    | none => pure ()
    meetCells e cells
    modify fun s => cells.foldl (fun u c => u.reserveCell e p.i p.tarn c.2) s
    receipt p.es.length (advOf p.es) 0 0 p.tarn

/-- ECHK (R327). -/
def checkReserved (d a b : BitVec 7) (mk : Bool) : M Unit := do
  let p ← cellPlan a b mk
  match (← get).escrowOpen .clearing p.i with
  | none =>
    modS fun t => t.setMask d.toNat { bits := 0, tarn := p.tarn }
    receipt 0 0 0 0 p.tarn
  | some e =>
    let cells ← checkCells .read p.gov 0 p.es
    meetCells e cells
    let s ← get
    let mine := cells.filter fun c => (s.cellTag e c.2).any (·.1 = p.i)
    let tarn := p.tarn || cells.any fun c => (s.cellTag e c.2).any (·.2)
    modS fun t => t.setMask d.toNat { bits := BitVec.ofNat 4096 (mine.foldl (fun m c => m ||| 2 ^ c.1) 0), tarn := tarn }
    receipt p.es.length (advOf p.es) 0 0 tarn

/-- The iterations of the slots to carry forward: a retried slot's is read from the queue (R325, R328), as a load of the strand (R330). In a granule that
EADV's one event writes too the read is the first half of an access that writes, and records no reader (R312; log 22). -/
def slotIterations (e : Escrow) (base cap : Nat) (own : List Nat) : List Nat → M (List Nat × Bool)
  | [] => return ([], false)
  | t :: ts => do
    if t < e.mr then
      let va : Word := BitVec.ofNat 64 (base + 4 * ((e.h0.toNat + t) % 2 ^ 64 % cap))
      let tags := (← get).assay
      let x ← accessCheck .read va 4
      if own.contains (va.toNat / 256) then modify fun s => { s with assay := tags }
      let (v, b) ← loadBytes x va 4 []
      let (vs, c) ← slotIterations e base cap own ts
      return (v :: vs, b || c)
    else
      let (vs, c) ← slotIterations e base cap own ts
      return ((e.next.toNat + t - e.mr) % 2 ^ 32 :: vs, c)

/-- EADV (R328): one indivisible event. -/
def advanceWindow (a b : BitVec 7) : M Unit := do
  let s ← get
  let t := s.strand
  let qa := t.reg a
  let k := s.readMask t b.toNat
  let src := qa.tarn || k.tarn
  match (s.escrowOf t).filter fun e => e.st = .settled && e.qw = qa.val with
  | none => receipt 0 0 0 0 src
  | some e =>
    let c := min 4096 (e.ns - e.cur)
    let slots := ((List.range c).filter fun j => k.bits.getLsbD j).map (e.cur + ·)
    let ws ← checkWordsAligned { Acc.write with mode := .both } qa.val
    let ws ← homeWords 8 ws
    let (bs, tq) ← loadWords ws 64
    let base := queueField bs 0
    let cap := queueField bs 8
    let tail := queueField bs 24
    let n := slots.length
    if cap = 0 || base % 4 ≠ 0 || decide (cap < (tail + n + 2 ^ 64 - e.h0.toNat) % 2 ^ 64) then receipt 0 0 0 0 (src || tq)
    else
      let own := qa.val.toNat / 256 :: (List.range n).map fun i => (base + 4 * ((tail + i) % 2 ^ 64 % cap)) % 2 ^ 64 / 256
      let (l, tl) ← slotIterations e base cap own slots
      let es ← checkEntries .write base cap tail n
      let tarn := src || tq || tl
      cleanEntries tarn es
      cleanCheck (qa.val.toNat + 24) 8 tarn
      let closes := decide (e.cur + c = e.ns)
      if closes then cleanCheck (qa.val.toNat + 16) 8 tarn
      let es ← homeWords 4 es
      storeEntries tarn 0 es l
      storeWords tarn ((ws.drop 3).take 1) (leBytes 8 ((tail + n) % 2 ^ 64))
      if closes then
        storeWords tarn ((ws.drop 2).take 1) (leBytes 8 ((e.h0.toNat + e.mr) % 2 ^ 64))
        modify fun u => { u with resv := u.resv.filter fun r => r.launch ≠ e.launch }
      modify fun u => u.setEscrow { e with cur := e.cur + c, st := if closes then .closed else .settled }
      receipt n c (if closes then 1 else 0) (min (32 * n) 131071) tarn

/-- EWIN (R325). -/
def execEwin (a b : BitVec 7) (s : State) : Host.Outcome State Fault Refusal := runStep true (faultsFirst (openWindow a b)) s

/-- ERSV (R326). -/
def execErsv (a b : BitVec 7) (_ca mk : Bool) (s : State) : Host.Outcome State Fault Refusal := runStep true (faultsFirst (reserveCells a b mk)) s

/-- ECHK (R327). -/
def execEchk (d a b : BitVec 7) (_ca mk : Bool) (s : State) : Host.Outcome State Fault Refusal := runStep true (faultsFirst (checkReserved d a b mk)) s

/-- EADV (R328). -/
def execEadv (a b : BitVec 7) (s : State) : Host.Outcome State Fault Refusal := runStep true (faultsFirst (advanceWindow a b)) s

end Sys2Proof.Machine
end

