-- ==== Sys2Proof/Machine/Launching.lean ====
section
/-! DEFINITION. Launches: the launch record and its checks (R397, R398, R321), placement (R154, R157, R351, R404), the state of a strand at launch
(R38), and what the end of a launch frees (R306, R310, R320). -/

namespace Sys2Proof.Machine

/-! ## The launch record (R397) -/

/-- A launch record's fields. -/
structure LaunchRec where
  entry   : Nat
  args    : Word
  stack   : Word
  clean   : Nat
  budget  : Nat
  minreg  : Nat
  nlev    : Nat
  strands : Nat
  lgroups : Nat
  flags   : Nat
  esclev  : Nat
  segs    : Nat
  fpol    : Nat
  partid  : Nat
  levels  : List Word
  codes   : List Word
  /-- Every byte of a reserved field is 0. -/
  zeros   : Bool
  deriving DecidableEq, Repr

/-- Read the 256 bytes. -/
def LaunchRec.ofBytes (b : List Byte) : LaunchRec :=
  let f := fun (o n : Nat) => leNat ((b.drop o).take n)
  let n := f 0x25 1
  { entry := f 0 8, args := BitVec.ofNat 64 (f 8 8), stack := BitVec.ofNat 64 (f 0x10 8), clean := f 0x18 8, budget := f 0x20 4,
    minreg := f 0x24 1, nlev := n, strands := f 0x26 1, lgroups := f 0x27 1, flags := f 0x28 1, esclev := f 0x29 1, segs := f 0x2A 1,
    fpol := f 0x2B 1, partid := f 0x2C 2, levels := (List.range (min n 8)).map fun i => BitVec.ofNat 64 (f (0x40 + 8 * i) 8),
    codes := (List.range 8).map fun i => BitVec.ofNat 64 (f (0x80 + 8 * i) 8),
    zeros := decide (f 0x2E 18 = 0) && decide (f 0xC0 64 = 0) }

def LaunchRec.det (r : LaunchRec) : Bool := r.flags.testBit 0
def LaunchRec.tpol (r : LaunchRec) : Bool := r.flags.testBit 1
def LaunchRec.esc (r : LaunchRec) : Bool := r.flags.testBit 2
def LaunchRec.span (r : LaunchRec) : Bool := r.flags.testBit 3
def LaunchRec.sup (r : LaunchRec) : Bool := r.flags.testBit 4

/-- Levels within the device, and those between devices (R399). -/
def LaunchRec.inner (r : LaunchRec) : List Word := innerLevels r.levels
def LaunchRec.outer (r : LaunchRec) : List Word := r.levels.filter fun w => decide (5 ≤ levelDom w)

/-- Strand levels below the first core-domain level. -/
def LaunchRec.perCore (r : LaunchRec) : Nat := countProduct (r.levels.takeWhile fun w => levelDom w = 0)

/-- Strands that a unit of a domain or scope has room for (R37). -/
def unitSize (dom : Nat) : Nat :=
  match dom with
  | 0 => 1
  | 1 => 4
  | 2 => 32
  | 3 => 256
  | _ => 1024

/-- The members of one group can lie in distinct units of the domain, within one unit of the scope. -/
def levelFits (w : Word) : Bool := decide (5 ≤ levelDom w) || decide (levelCount w ≤ unitSize (levelScope w) / unitSize (levelDom w))

/-- A level's own fields (R36, R398): reserved bits, ranges, and a scope wide enough for its domain and its members. -/
def levelOk (w : Word) : Bool :=
  decide (getBits w 54 10 = 0) && decide (getBits w 43 5 = 0) && decide (getBits w 35 5 = 0) && decide (levelDom w ≤ 6) &&
    decide (levelScope w ≤ 6) && decide (1 ≤ levelCount w) && decide (levelDom w ≤ levelScope w) &&
    (decide (levelCount w = 1) || decide (levelDom w < levelScope w)) && levelFits w

/-- Each level's domain is at least the scope of the level below. -/
def scopesRise : List Word → Bool
  | a :: b :: ls => decide (levelScope a ≤ levelDom b) && scopesRise (b :: ls)
  | _ => true

/-- The launch is one group at the escrow level, whose domain is at most package (R321). -/
def LaunchRec.escOk (r : LaunchRec) : Bool :=
  decide (r.esclev < r.nlev) && decide (levelDom (r.levels.getD r.esclev 0) ≤ 4) && (r.levels.drop (r.esclev + 1)).all fun w => levelCount w = 1

/-- The conditions of R398 on the record's own fields. -/
def LaunchRec.ok (r : LaunchRec) (part : Nat) : Bool :=
  let bars := (r.levels.filter fun w => decide (1 < levelCount w)).map levelBar
  decide (r.entry % 4 = 0 ∧ r.entry < 2 ^ 52) && decide (r.clean % 16 = 0) && decide (1 ≤ r.budget ∧ r.budget ≤ 65536) &&
    decide (1 ≤ r.minreg ∧ r.minreg ≤ 128) && decide (1 ≤ r.nlev ∧ r.nlev ≤ 8) && decide (1 ≤ r.strands ∧ r.strands ≤ 4) &&
    decide (1 ≤ r.lgroups ∧ r.lgroups ≤ 8) && decide (r.strands * r.lgroups ≤ 8) && decide (r.flags < 32) && decide (r.esclev ≤ 7) &&
    decide (1 ≤ r.segs ∧ r.segs ≤ 8) && (r.span || decide (r.segs = 1)) && decide (r.fpol ≤ 1) && decide (r.partid = part) && r.zeros &&
    r.levels.all levelOk && scopesRise r.levels && decide (r.perCore ≤ r.strands) && decide (bars.Nodup) &&
    (!r.esc || r.escOk) && (!r.span || decide (countProduct r.levels = 1)) && r.codes.all fun w => decide (getBits w 0 46 = 0)

/-- Banks a strand of a D launch reserves beyond its own (R154). -/
def LaunchRec.reserve (r : LaunchRec) : Nat := if r.det then (r.budget * r.minreg - 786432 + 262143) / 262144 else 0

/-- No core could hold the reserves of the strands placed on it (R154). -/
def LaunchRec.tooBig (r : LaunchRec) : Bool := decide (8 < (if r.span then 1 else r.perCore) * r.reserve)

/-! ## Placement (R157, R351, R398, R404) -/

/-- The home set of a slot for a launch of L lane groups a strand. -/
def homeSet (slot l : Nat) : Nat := (2 ^ l - 1) * 2 ^ (slot * l)

/-- A slot is free for a launch of L lane groups: in a cluster of the partition in service, on a core that is not failing, vacant, with its home groups and
its vector storage free. Whether its home groups are powered plays no part (log 46). -/
def State.slotFree (s : State) (part l place : Nat) : Bool :=
  let core := coreOf place
  decide (place < 1024) && s.ownsCluster part (clusterOf place) && decide (s.clusterState (clusterOf place) = 0) &&
    !(s.reg64 (clusterCtl (clusterOf place))).getLsbD (16 + core % 8) && decide ((place % 4 + 1) * l ≤ 8) &&
    ((s.onCore core).all fun t => !t.places.contains place && decide (t.homeOn core &&& homeSet (place % 4) l = 0)) &&
    (List.range 3).all fun k => !s.bankTaken core (12 + 3 * (place % 4) + k)

/-- The reserves fit: at most 8 banks of a core's L1 in all, and the L1 keeps 4 (R154). -/
def State.reserveFits (s : State) (places : List Nat) (n : Nat) : Bool :=
  decide (n = 0) || places.all fun p =>
    let core := coreOf p
    let new := n * (places.filter fun q => coreOf q = core).length
    decide (((s.onCore core).map (·.reserve)).sum + new ≤ 8) && decide (new + 4 ≤ s.l1Banks core)

/-- The engine of R404 may start the launch at these places, by flat index; for a span launch they are its segments' (R351). -/
def State.placementOk (s : State) (part : Nat) (r : LaunchRec) (places : List Nat) : Bool :=
  decide (places.Nodup) && places.all (s.slotFree part r.lgroups) && s.reserveFits places r.reserve && (!r.esc || decide (s.escrow.length < 16)) &&
    (if r.span then
       decide (places.length = r.segs) && segsPlaced places
     else
       decide (places.length = countProduct r.inner) && levelsPlaced r.levels places &&
         places.all fun p => decide ((places.filter fun q => coreOf q = coreOf p).length ≤ r.strands))

/-- The barrier numbers that a launch binds on its cores are reserved there by no live launch, and no live launch binds one that its groups over several
cores reserve (R284). -/
def State.barsFree (s : State) (l : Launch) : Bool :=
  (List.range 64).all fun b =>
    match l.levelOf b with
    | none => true
    | some n => l.strands.all fun m =>
        !s.reservedOn (coreOf m.2) b && (decide ((l.coresOf n (groupOf l.levels n m.1)).length ≤ 1) || !s.boundOn (coreOf m.2) b)

/-- A core that a launch starts on holds no copy of another die's line from before, so that its strands see whole what came before them (R403, R405). -/
def State.settleCore (s : State) (core : Nat) : State :=
  let s1 := s.drainAll core
  { s1 with guests := s1.guests.filter (·.core ≠ core) }

/-! ## The strands (R38) -/

/-- A strand's index at a level (R36). -/
def lvidOf (levels : List Word) (flat n : Nat) : Nat :=
  if n < levels.length then (if n = 0 then flat else flat / groupSize levels (n - 1)) % levelCount (levels.getD n 0) else 0

/-- The clean ranges of a table of 128 bytes: number, base and length (R397). -/
def cleanRanges (b : List Byte) : List (Nat × Nat × Nat) :=
  ((List.range 8).map fun i => (i, leNat ((b.drop (16 * i)).take 8), leNat ((b.drop (16 * i + 8)).take 8))).filter fun c => decide (c.2.2 ≠ 0)

/-- A strand as its launch makes it, but for the grant. -/
def LaunchRec.strand (r : LaunchRec) (launch flat place powered : Nat) (segs : List Nat) (stack : Word) (clean : List (Nat × Nat × Nat)) : Strand :=
  let home := homeSet (place % 4) r.lgroups
  { Strand.reset with
    place := place, part := r.partid, launch := launch, flat := flat, run := .ready, pc := BitVec.ofNat 52 r.entry,
    sregs := ((Vector.replicate 256 TWord.zero).setIfInBounds 2 (.of stack)).setIfInBounds 3 (.of r.args),
    ctl := { Ctl.reset with
      lanes := .of (BitVec.ofNat 64 (powered * 2 ^ 16 + home * 2 ^ 8 + home)),
      codes := Vector.ofFn fun i : Fin 8 => .of (r.codes.getD i.val 0) },
    st := { span := r.span, rgp := false, tr := false, d := r.det, m := r.sup, tarn := false },
    lvid := Vector.ofFn fun i : Fin 8 => BitVec.ofNat 64 (lvidOf r.levels flat i.val),
    lvcnt := Vector.ofFn fun i : Fin 8 => r.levels.getD i.val 1,
    trapPolicy := r.tpol, clean := clean, segs := segs, reserve := r.reserve }

/-- Stacks that the runtime supplies lie 1 MiB apart: none is shared with another strand (R397). -/
def stacksApart (tops : List Nat) : Bool :=
  (List.range tops.length).all fun i => (List.range i).all fun j =>
    decide (tops.getD i 0 + 0x100000 ≤ tops.getD j 0) || decide (tops.getD j 0 + 0x100000 ≤ tops.getD i 0)

/-- A stack the runtime supplies (R397): a multiple of 16 above 1 MiB of translated memory that the partition maps readable and writable, for mode U with
the user bit. -/
def State.stackOk (s : State) (r : LaunchRec) (top : Nat) : Bool :=
  decide (top % 16 = 0) && decide (0x100000 ≤ top ∧ top ≤ 0xFFC0000000000) &&
    (List.range 257).all fun i =>
      let va := min (top - 1) (top - 0x100000 + 4096 * i)
      match (s.translate { part := r.partid, sup := r.sup, place := 0 } va .both).2 with | .ok _ => true | .error _ => false

/-- Start every strand of a launch at once (R404): flat index and place of each, with its stack. Each negotiates its grant as a SETVL would. -/
def State.startLaunch (s : State) (r : LaunchRec) (l : Launch) (segs : List Nat) (tops : List Word) (clean : List (Nat × Nat × Nat)) : State :=
  let new := (List.range l.strands.length).map fun i =>
    let x := l.strands.getD i (0, 0)
    r.strand l.id x.1 x.2 (getBits (s.reg64 (coreCtl (coreOf x.2) + 0x40)) 0 8) segs (tops.getD i 0) clean
  let s0 := ((l.strands.map (·.2) ++ segs).map coreOf).eraseDups.foldl State.settleCore s
  let s1 := { s0 with
    launches := s.launches ++ [l],
    goOn := s0.goOn.filter fun x => !(new.any fun u => u.place = x.1),
    parked := (s.parked.filter fun t => t.live || !(new.any fun u => u.place = t.place)) ++ new,
    escrow := if r.esc then s.escrow ++ [{ launch := l.id, st := .closed, wn := 0, qw := 0, h0 := 0, next := 0, ns := 0, mr := 0, cur := 0 }] else s.escrow }
  new.foldl (fun u t => u.actAs t.place fun v => v.setvl r.budget r.minreg false) s1

/-! ## The end of a launch -/

/-- What the end of a launch frees: its stream states (R306), phases and assay tags (R310), escrow context with its tags (R320), barriers, and
itself. -/
def State.freeLaunch (s : State) (id : Nat) : State :=
  { s with
    launches := s.launches.filter (·.id ≠ id), ordStreams := s.ordStreams.filter (·.launch ≠ id), phases := s.phases.filter (·.1.1 ≠ id),
    assay := s.assay.filter (·.launch ≠ id), escrow := s.escrow.filter (·.launch ≠ id), resv := s.resv.filter (·.launch ≠ id),
    barriers := s.barriers.filter fun b => (match b.owner with | some o => decide (o.1 ≠ id) | none => true),
    stored := s.stored.filter (·.1 ≠ id) }

/-- Every strand of a launch that still lives is killed, for a node that ends with `nerr` (R402); what its core has stored reaches its home (R403). -/
def State.killLaunch (s : State) (l : Launch) (nerr : Nat) : State :=
  let s1 := (s.strands.filter fun t => t.live && t.launch = l.id).foldl
    (fun u t => (u.drainAll (coreOf t.place)).endStrand t.place .zero (some 0)) s
  { s1 with launches := s1.launches.map fun x => if x.id = l.id then { x with killed := some nerr } else x }

end Sys2Proof.Machine
end

