-- ==== Sys2Proof/Machine/Graph.lean ====
section
/-! DEFINITION. The task graph's nodes: dispatch of each type, their ends with status words and successors, and the host's kill (R399 to R404, R412). -/

namespace Sys2Proof.Machine

/-! ## Nodes (R400, R401) -/

def Node.type (n : Node) : Nat := n.field 0 1
def Node.nsucc (n : Node) : Nat := n.field 1 1
def Node.status (n : Node) : Nat := n.field 8 8

/-- BODY bytes that a type uses. -/
def bodyUsed (type : Nat) : Nat :=
  match type with
  | 1 => 40 | 2 | 3 | 6 | 8 => 64 | 4 | 5 => 16 | 7 => 12 | 9 => 24 | 10 => 16 | 11 => 49 | _ => 0

/-- The node is well formed: its header, the unused bytes of its body, and the body's own fields. -/
def Node.ok (n : Node) : Bool :=
  let b := n.body
  decide (n.bytes.length = 128) && decide (1 ≤ n.type ∧ n.type ≤ 11) && decide (n.nsucc ≤ 8) && decide (n.field 4 4 = 0) && decide (n.status % 16 = 0) &&
    decide (b (bodyUsed n.type) (80 - bodyUsed n.type) = 0) &&
    (match n.type with
      | 1 => decide (b 0 8 % 256 = 0) && decide (1 ≤ b 36 4) && decide (b 32 4 < b 36 4)
      | 4 | 5 => decide (b 0 8 % 4096 = 0) && decide (b 8 8 % 4096 = 0)
      | 7 => decide (1 ≤ b 8 4 ∧ b 8 4 ≤ 65536)
      | 9 => decide (b 0 8 % 8 = 0) && decide (b 16 8 / 2 ^ 17 = 0) && decide (b 16 1 ≤ 6)
      | 10 => decide (b 0 8 % 8 = 0)
      | 11 => decide (b 48 1 ≤ 8)
      | _ => true)

/-- A node that the command processor may work on: of a type, dispatched (or running, when `going`) and not over. -/
def State.nodeFor (s : State) (part i type : Nat) (going : Bool) : Option Node :=
  (s.node? part i).filter fun n => n.type = type && n.state = 0 && s.dispatches part && decide (part < 32) &&
    (n.phase = .dispatched || (going && n.phase = .running))

/-- The node runs; with a state it is over and waits for NODE_END. -/
def State.runNode (s : State) (n : Node) (state nerr : Nat) : State := s.setNode { n with phase := .running, state := state, nerr := nerr }

/-- A well-formed node goes on, a malformed one ends faulted with NERR 1. -/
def State.withNode (s : State) (part i type : Nat) (going : Bool) (f : Node → State) : Host.Outcome State Fault Refusal :=
  match s.nodeFor part i type going with
  | none => .next s
  | some n => .next (if n.ok then f n else s.runNode n 2 1)

/-! ## KERNEL (R397 to R399, R404) -/

/-- A launch's number: its node's, made unique over the partitions. Its low 32 bits are the launch index of R142. -/
def launchId (part node : Nat) : Nat := (part + 1) * 2 ^ 32 + node

/-- The clean ranges of a record; `none` when the table cannot be read (R398). -/
def State.cleanOf (s : State) (part : Nat) (r : LaunchRec) : Option (List (Nat × Nat × Nat)) :=
  if r.clean = 0 then some [] else (s.hubRead part r.clean 128).map cleanRanges

/-- What the command processor makes of a KERNEL's record: the record with its clean ranges, or the NERR it is refused with (R398). -/
def State.record (s : State) (n : Node) : Except Nat (LaunchRec × List (Nat × Nat × Nat)) :=
  match s.hubRead n.part (n.body 0 8) 256 with
  | none => .error 2
  | some b =>
    let r := LaunchRec.ofBytes b
    match s.cleanOf n.part r with
    | none => .error 2
    | some c =>
      if !r.ok n.part || decide (countProduct r.outer ≠ n.body 36 4) then .error 2
      else if r.tooBig then .error 3
      else .ok (r, c)

/-- Device ids of DEVTAB. -/
def State.devTab (s : State) (n : Node) : List Nat :=
  if n.body 36 4 ≤ 1 then []
  else
    let b := (s.hubRead n.part (n.body 24 8) (2 * n.body 36 4)).getD []
    (List.range (n.body 36 4)).map fun i => leNat ((b.drop (2 * i)).take 2)

/-- The launch of a KERNEL: strands by flat index, the first of them FIDX parts on (R399). -/
def State.launchOf (s : State) (n : Node) (r : LaunchRec) (places : List Nat) : Launch :=
  let size := countProduct r.inner
  let homes := if r.span then places.take 1 else places
  { id := launchId n.part n.index, part := n.part, node := n.index, levels := r.levels, det := r.det,
    esc := if r.esc then some r.esclev else none, fpol := decide (r.fpol = 1), statarr := BitVec.ofNat 64 (n.body 8 8),
    gkey := BitVec.ofNat 64 (n.body 16 8), fidx := n.body 32 4, ndev := n.body 36 4, devs := s.devTab n,
    strands := (List.range homes.length).map fun i => (n.body 32 4 * size + i, homes.getD i 0),
    ended := [], tarns := 0, killed := none, quiesced := false }

/-- The record, the clean-range table and the device table that a KERNEL names: address and length of each (R397, R401). -/
def State.kernelReads (s : State) (n : Node) : List (Nat × Nat) :=
  let clean := match s.hubRead n.part (n.body 0 8) 256 with | some b => (LaunchRec.ofBytes b).clean | none => 0
  (n.body 0 8, 256) :: (if clean = 0 then [] else [(clean, 128)]) ++ (if n.body 36 4 ≤ 1 then [] else [(n.body 24 8, 2 * n.body 36 4)])

/-- A KERNEL starts when the places given for its strands are free; with STACK 0 the runtime gives each a stack (R397). -/
def State.placeKernel (s : State) (n : Node) (places tops : List Nat) : State :=
  match s.record n with
  | .error e => s.runNode n 2 e
  | .ok (r, clean) =>
    let l := s.launchOf n r places
    let own := r.stack = 0
    let ok := s.placementOk n.part r places && s.barsFree l && !(places.any fun p => s.drainBlocked (coreOf p)) &&
      (!own || (decide (tops.length = l.strands.length) && stacksApart tops && tops.all (s.stackOk r)))
    if ok then
      (s.startLaunch r l (if r.span then places else []) (l.strands.mapIdx fun i _ => if own then BitVec.ofNat 64 (tops.getD i 0) else r.stack)
        clean).runNode n 0 0
    else s

/-- The command processor reads what the KERNEL names, and starts it. -/
def State.startKernel (s : State) (n : Node) (places tops : List Nat) : State :=
  let reads := s.kernelReads n
  if reads.any fun r => s.hubStopped n.part r.1 r.2 then s
  else (reads.foldl (fun u r => u.hubTouch n.part r.1 r.2) s).placeKernel n places tops

/-- KERNEL (R404). -/
def execKernel (part node : Nat) (places tops : List Nat) (s : State) : Host.Outcome State Fault Refusal :=
  s.withNode part node 1 false fun n => s.startKernel n places tops

/-! ## Engine nodes (R401) -/

/-- The lowest die on which the partition has a cluster or a slice: its command processor's copy engines are there (log 25). -/
def State.homeDie (s : State) (part : Nat) : Nat :=
  ((List.range 4).find? fun d => (List.range 8).any (fun q => s.ownsCluster part (8 * d + q)) || s.slices part d ≠ []).getD 0

/-- Replace bytes of a command. -/
def putBytes (bits off n v : Nat) : Nat :=
  bits % 2 ^ (8 * off) + v % 2 ^ (8 * n) * 2 ^ (8 * off) + bits / 2 ^ (8 * (off + n)) * 2 ^ (8 * (off + n))

/-- CK, CA and the token fields of a node's command are ignored: they are set to what its OP permits. A SEARCHBATCH keeps its tokens. -/
def ignoreCk (bits : Nat) (token : Bool) : Nat :=
  let op := bits % 256
  let c := bits / 2 ^ 16 % 256
  let b1 := putBytes bits 2 2 (c / 4 * 4 + (if op = 6 ∨ op = 7 then 2 else 0))
  let b2 := if c % 4 = 1 then putBytes (putBytes b1 4 1 0) 6 2 0 else b1
  if token then b2 else putBytes (putBytes b2 48 8 0) 56 8 0

/-- The command that a node issues, in mode S with PHYS permitted. -/
def State.nodeCmd (s : State) (n : Node) (bits : Nat) (token : Bool) (addr : Nat) : Cmd :=
  let w := ignoreCk bits token
  let op := w % 256
  let q := w / 256 % 256
  let die := s.homeDie n.part
  let c : Cmd :=
    { id := s.nextCmd, place := hubPlace, flat := 0, part := n.part, launch := 0, node := some n.index,
      queue := if op = 6 then 16 + q else if op = 7 then 24 + q else 4 * die + q,
      bits := w, tarn := false, sup := true, det := false, seed := 0, srb := 0, nseg := 1, group := none, phase := .queued, whole := false, dest := (false, 0, 0),
      addr := BitVec.ofNat 64 addr, seenBy := [], seenChunks := [], told := [], noted := false, done := 0, snap := [], wrote := [], tokKey := none, racing := [], fails := 0 }
  { c with dest := s.destOf c }

/-- The virtual address of a node in the graph buffer. -/
def State.nodeAddr (s : State) (n : Node) : Nat :=
  getBits (s.reg64 (vfAddr n.part 0x00)) 7 45 * 128 + n.index % 2 ^ getBits (s.reg64 (vfAddr n.part 0x08)) 0 5 * 128

/-- An engine node issues its command: a malformed one ends it with NERR 4, a refused one waits. -/
def State.issueNode (s : State) (n : Node) (op : Nat) : State :=
  let bits := n.body 0 64
  if bits % 256 ≠ op then s.runNode n 2 1
  else
    let c := s.nodeCmd n bits false (s.nodeAddr n + 48)
    if !c.wellFormed then s.runNode n 2 4
    else if s.refuses c then s
    else (s.accept c).runNode n 0 0

/-- COPY_NODE (R401). -/
def execCopyNode (part node : Nat) (s : State) : Host.Outcome State Fault Refusal := s.withNode part node 2 false fun n => s.issueNode n 1

/-- CONVERT_NODE (R401). -/
def execConvertNode (part node : Nat) (s : State) : Host.Outcome State Fault Refusal := s.withNode part node 3 false fun n => s.issueNode n 4

/-- REDUCE_NODE (R401). -/
def execReduceNode (part node : Nat) (s : State) : Host.Outcome State Fault Refusal := s.withNode part node 6 false fun n => s.issueNode n 6

/-- HOSTCOPY_NODE (R401). -/
def execHostCopyNode (part node : Nat) (s : State) : Host.Outcome State Fault Refusal := s.withNode part node 8 false fun n => s.issueNode n 5

/-- A SEARCHBATCH issues commands in array order as far as queues have room. -/
def State.issueBatch (s : State) (part i : Nat) : Nat → State
  | 0 => s
  | fuel + 1 =>
    match s.nodeFor part i 7 true with
    | none => s
    | some n =>
      if n.body 8 4 ≤ n.issued then s
      else
        let va := n.body 0 8 + 64 * n.issued
        if s.hubStopped part va 64 then s
        else
        let s := s.hubTouch part va 64
        match s.hubRead part va 64 with
        | none => s.runNode n 2 1
        | some b =>
          let c := s.nodeCmd n (leNat b) true va
          if leNat b % 256 ≠ 7 || !c.wellFormed then s.runNode n 2 4
          else if s.refuses c then s
          else ((s.accept c).runNode { n with issued := n.issued + 1 } 0 0).issueBatch part i fuel

/-- SEARCHBATCH (R401): the step happens again until every command is issued. -/
def execSearchBatch (part node : Nat) (s : State) : Host.Outcome State Fault Refusal :=
  s.withNode part node 7 true fun n => s.issueBatch part node (n.body 8 4)

/-! ## COMPRESS and DECOMPRESS (R293, R401) -/

/-- Set or clear the compressed attribute of the page at `va` and lay it out again. `none` when the page cannot be translated or is no HBM page. -/
def State.compressPage (s : State) (part va : Nat) (on : Bool) : Option State :=
  let s := s.touchWalk part va
  match s.walk part va with
  | .error _ => none
  | .ok (_, e, addr) =>
    match regionOf (leafPa e) with
    | .hbm die =>
      if e.getLsbD 7 = on then some s
      else
        let n := pageBytes (leafSize e)
        let run := match pageLevel (leafSize e) with | some (_, r) => r | none => 1
        let first := addr / (8 * run) * (8 * run)
        let s1 := (List.range run).foldl (fun u i =>
          let x : Word := BitVec.ofNat 64 (Mem.readLE u.mem (first + 8 * i) 8)
          { u with mem := Mem.writeLE u.mem (first + 8 * i) 8 (setBits x 7 1 (if on then 1 else 0)).toNat }) s
        let s2 := { s1 with
          fresh := s1.fresh + 1, tlb := s1.tlb.filter fun t => !(t.part = part && leafPa t.leaf = leafPa e),
          compressed := (List.range (n / 4096)).foldl (fun l i => setPut (leafPa e / 4096 + i) on l) s1.compressed }
        some (s2.layOut die (s2.sliceOf part (leafPa e / 256)).2 part (leafPa e / 4096) (if on then Config.pick s.fresh % (n / 65536 + 2) else 0) true)
    | _ => none

/-- The page at `va` is locked: a stalled layout of it waits for chunks (R295). -/
def State.pageLocked (s : State) (part va : Nat) : Bool :=
  match s.walk part va with
  | .ok (_, e, _) => s.locked.contains (leafPa e / 4096)
  | .error _ => false

/-- Go through the pages of a range in order; a page that stalls holds the node up. -/
def State.compressRange (s : State) (n : Node) (on : Bool) : Nat → State
  | 0 => s.runNode n 1 0
  | k + 1 =>
    let va := n.body 0 8 + n.body 8 8 - 4096 * (k + 1)
    if s.pageLocked n.part va then s.runNode n 0 0
    else
      match s.compressPage n.part va on with
      | none => s.runNode n 2 1
      | some s1 => s1.compressRange n on k

/-- COMPRESS (R401): the step happens again while a page waits for chunks. -/
def execCompress (part node : Nat) (s : State) : Host.Outcome State Fault Refusal :=
  s.withNode part node 4 true fun n => s.compressRange n true (n.body 8 8 / 4096)

/-- DECOMPRESS (R401). -/
def execDecompress (part node : Nat) (s : State) : Host.Outcome State Fault Refusal :=
  s.withNode part node 5 true fun n => s.compressRange n false (n.body 8 8 / 4096)

/-! ## SIGNAL and WAIT (R401, R419) -/

/-- The hub can write 8 bytes at an address. -/
def State.hubWritable (s : State) (part va : Nat) : Bool :=
  match (s.translate (hubParty part) va .write).2 with | .ok _ => decide (va < 2 ^ 52) | .error _ => false

/-- Room in the interrupt ring (R418), while the VF sends (R421). -/
def State.interruptRoom (s : State) (part : Nat) : Bool :=
  !s.vfStopped part && decide ((getBits (s.reg64 (vfAddr part 0x78)) 0 32 + 2 ^ 32 - getBits (s.reg64 (vfAddr part 0x70)) 0 32) % 2 ^ 32 <
    2 ^ (getBits (s.reg64 (vfAddr part 0x68)) 0 4 + 4))

/-- Post an interrupt: a 16-byte entry of the ring, and MSI-X vector 1 + (vector mod 63) (R419). -/
def State.postInterrupt (s : State) (part vector index : Nat) (value : Nat) : State :=
  let q := s.reg64 (vfAddr part 0x68)
  let tail := getBits (s.reg64 (vfAddr part 0x78)) 0 32
  let at_ := getBits q 4 48 * 16 + tail % 2 ^ (getBits q 0 4 + 4) * 16
  ((s.hubWrite part at_ (leBytes 8 (vector + index * 2 ^ 8) ++ leBytes 8 value)).setField (vfAddr part 0x78) 0 32 (tail + 1)).interrupt part (1 + vector % 63)

/-- SIGNAL's effects. An interrupt waits for room in its ring. -/
def State.signal (s : State) (n : Node) : State :=
  let a := n.body 0 8
  let enable := (n.body 18 1).testBit 0
  if a ≠ 0 && !s.hubWritable n.part a then s.runNode n 2 1
  else if a ≠ 0 && s.hubLocked n.part a 8 then s
  else if enable && !s.interruptRoom n.part then s
  else
    let s1 := if a = 0 then s else s.hubWrite n.part a (leBytes 8 (n.body 8 8))
    (if enable then s1.postInterrupt n.part (n.body 17 1) n.index (n.body 8 8) else s1).runNode n 1 0

/-- SIGNAL (R401). -/
def execSignal (part node : Nat) (s : State) : Host.Outcome State Fault Refusal := s.withNode part node 9 false s.signal

/-- WAIT (R401): each step polls once. -/
def execWait (part node : Nat) (s : State) : Host.Outcome State Fault Refusal :=
  s.withNode part node 10 true fun n =>
    if s.hubStopped part (n.body 0 8) 8 then s
    else
      let s1 := s.hubTouch part (n.body 0 8) 8
      match s1.hubRead part (n.body 0 8) 8 with
      | none => s1.runNode n 2 1
      | some b => if n.body 8 8 ≤ leNat b then s1.runNode n 1 0 else s1.runNode n 0 0

/-! ## The end of a node (R402, R403) -/

/-- A decrement of a successor's counter; one for a node not yet appended is held. -/
def State.decrement (s : State) (part j : Nat) : State :=
  match s.node? part j with
  | none =>
    let k := (part, j)
    { s with held := if s.held.any (·.1 = k) then s.held.map (fun h => if h.1 = k then (k, h.2 + 1) else h) else s.held ++ [(k, 1)] }
  | some n =>
    if n.phase = .ended then s.graphError part 3 j
    else if n.counter = 0 then s.graphError part 2 j
    else
      s.setNode { n with counter := n.counter - 1,
                         phase := if n.counter = 1 && n.phase = .appended && s.dispatches part then .dispatched else n.phase }

/-- Successors of a node. -/
def Node.succs (n : Node) : List Nat := (List.range (min n.nsucc 8)).map fun i => n.field (16 + 4 * i) 4

/-- GRETIRE.DONE rises past every ended node. -/
def State.retireNodes (s : State) (part : Nat) : Nat → State
  | 0 => s
  | fuel + 1 =>
    let done := getBits (s.reg64 (vfAddr part 0x18)) 0 32
    match s.node? part done with
    | some n => if n.phase = .ended then (s.setField (vfAddr part 0x18) 0 32 (done + 1)).retireNodes part fuel else s
    | none => s

/-- The launch that a KERNEL node has started. -/
def State.nodeLaunch (s : State) (n : Node) : Option Launch := if n.type = 1 then s.launch? (launchId n.part n.index) else none

/-- The lowest-indexed strand that was killed after a fault, with its TCAUSE. -/
def Launch.faulted (l : Launch) : Option (Nat × Word) :=
  (l.ended.filterMap fun e => match e.2 with | some c => if c = 0 then none else some (e.1, c) | none => none).foldl
    (fun a e => match a with | some b => if e.1 < b.1 then some e else some b | none => some e) none

/-- A node's final STATE and NERR, and its status word (R402). -/
def State.verdict (s : State) (n : Node) : Nat × Nat × Nat × Nat :=
  match s.nodeLaunch n with
  | none => (n.state, n.nerr, n.state + n.nerr * 2 ^ 8, 0)
  | some l =>
    let (state, nerr) := match l.killed, l.faulted with
      | some e, _ => (3, e)
      | none, some _ => (2, 0)
      | none, none => (1, 0)
    let f := match l.faulted with | some (flat, c) => flat % 2 ^ 24 * 2 ^ 40 + getBits c 0 24 * 2 ^ 16 | none => 0
    (state, nerr, state + nerr * 2 ^ 8 + f, l.tarns.toNat)

/-- Kill a node that has not ended, for `nerr`: its strands, or its command, whose frozen queue is cleared. It ends with STATE 3 in its NODE_END. -/
def State.killNode (s : State) (n : Node) (nerr : Nat) : State :=
  let s1 := match s.nodeLaunch n with | some l => s.killLaunch l nerr | none => s
  let mine := s1.cmds.filter fun c => c.part = n.part && c.node = some n.index && c.isOpen
  let s2 := mine.foldl (fun u c =>
    let v := u.stopCmd c .dropped
    if u.froze c then { v with frozenQ := setErase c.queue v.frozenQ } else v) s1
  s2.setNode { n with state := 3, nerr := nerr }

/-- The FPOL bit of a KERNEL's record. -/
def State.killsSiblings (s : State) (n : Node) : Bool :=
  match s.nodeLaunch n with
  | some l => l.fpol
  | none => match s.hubRead n.part (n.body 0 8 + 0x2B) 1 with | some b => (leNat b).testBit 0 | none => false

/-- Children of a JOIN. -/
def Node.children (n : Node) : List Nat := (List.range (min (n.body 48 1) 8)).map fun i => n.body (16 + 4 * i) 4

/-- A faulted KERNEL under the kill policy kills every other KERNEL child of its JOINs (R402). -/
def State.joinPolicy (s : State) (n : Node) : State :=
  let joins := s.nodes.filter fun j => j.part = n.part && j.type = 11 && j.phase ≠ .ended && j.children.contains n.index
  let others := (joins.flatMap Node.children).eraseDups.filter (· ≠ n.index)
  others.foldl (fun u i => match u.node? n.part i with
    | some c => if c.type = 1 && c.phase ≠ .ended && c.state = 0 then u.killNode c 6 else u
    | none => u) s

/-- The end of a node: its status word, a JOIN's wake whatever it ended with (R39), the policy of its JOINs, and its successors' counters, in this
order. -/
def State.endNode (s : State) (n : Node) : State :=
  let (state, nerr, w0, w1) := s.verdict n
  let s1 := if n.status = 0 || n.status % 16 ≠ 0 then s else s.hubWrite n.part n.status (leBytes 8 w0 ++ leBytes 8 w1)
  let s2 := if n.type = 11 && n.body 0 8 ≠ 0 then s1.hubWrite n.part (n.body 0 8) (leBytes 8 (n.body 8 8)) else s1
  let kills := n.type = 1 && state = 2 && s2.killsSiblings n
  let s3 := match s2.nodeLaunch n with | some l => s2.freeLaunch l.id | none => s2
  let s4 := s3.setNode { n with phase := .ended, state := state, nerr := nerr }
  let s5 := if kills then s4.joinPolicy n else s4
  (n.succs.foldl (fun u j => u.decrement n.part j) s5).retireNodes n.part s5.nodes.length

/-- Everything that a launch's strands have set going is done: no accepted command of theirs still works, and no store of theirs waits (R403). -/
def State.launchSettled (s : State) (l : Launch) : Bool :=
  !(s.cmds.any fun c => c.launch = l.id && c.node.isNone && c.atWork) &&
    !(s.cores.any fun c => c.fifo.any fun e => l.strands.any fun m => m.2 = e.place)

/-- A node's work is over: it is marked, or its launch's strands have all ended and every effect of theirs is performed. -/
def State.nodeOver (s : State) (n : Node) : Bool :=
  match s.nodeLaunch n with
  | some l => (n.state ≠ 0 || decide (l.strands.length ≤ l.ended.length)) && s.launchSettled l
  | none => decide (n.state ≠ 0)

/-- The node's status word, or a JOIN's wake, lies in a locked page: the end waits (R294). -/
def State.endLocked (s : State) (n : Node) : Bool :=
  (n.status ≠ 0 && s.hubLocked n.part n.status 16) || (n.type = 11 && n.body 0 8 ≠ 0 && s.hubLocked n.part (n.body 0 8) 8)

/-- NODE_END (R402, R403). A dispatched node of no known type ends faulted with NERR 1. -/
def execNodeEnd (part node : Nat) (s : State) : Host.Outcome State Fault Refusal :=
  match s.node? part node with
  | none => .next s
  | some n =>
    if n.phase = .ended || s.endLocked n then .next s
    else if s.nodeOver n then .next (s.endNode n)
    else if n.phase = .dispatched && s.dispatches part && !decide (1 ≤ n.type ∧ n.type ≤ 11) then .next (s.endNode { n with state := 2, nerr := 1 })
    else .next s

/-- The worst STATE among a JOIN's ended children: faulted before killed before done. -/
def State.worstChild (s : State) (n : Node) : Nat :=
  let l := n.children.filterMap fun i => (s.node? n.part i).map (·.state)
  if l.contains 2 then 2 else if l.contains 3 then 3 else 1

/-- JOIN (R402): it ends when its counter has reached zero. -/
def execJoin (part node : Nat) (s : State) : Host.Outcome State Fault Refusal :=
  match s.nodeFor part node 11 false with
  | none => .next s
  | some n => .next (if s.endLocked n then s else if n.ok then s.endNode { n with state := s.worstChild n } else s.endNode { n with state := 2, nerr := 1 })

/-- The host's kill ends the node with NERR 7, or 5 when an engine fault of its command stands unresolved (R402, R412). -/
def State.hostNerr (s : State) (n : Node) : Nat :=
  if s.cmds.any fun c => c.part = n.part && c.node = some n.index && !s.froze c &&
      (match c.phase with | .faulted _ => true | _ => false) then 5 else 7

/-- The host kills a node that has not ended, and it ends: at once, or in its NODE_END when what its strands have set going is done (R403). -/
def State.hostKill (s : State) (n : Node) : State :=
  let s1 := s.killNode n (s.hostNerr n)
  match s1.node? n.part n.index with
  | some m => if s1.nodeOver m && !s1.endLocked m then s1.endNode m else s1
  | none => s1

/-- KILLED_BY_THE_HOST (R402, R412, R422). -/
def execKilledByTheHost (part node : Nat) (s : State) : Host.Outcome State Fault Refusal :=
  match s.node? part node with
  | none => .next s
  | some n => .next (if n.phase = .ended then s else s.hostKill n)

end Sys2Proof.Machine
end

