-- ==== Sys2Proof/Machine/HubWrites.lean ====
section
/-! DEFINITION. Writes of the host and of supervisors to registers with an effect of their own (R159, R303, R375, R403, R419, R420), and the partition
commands (R413, R414, R417, R422). -/

namespace Sys2Proof.Machine

/-! ## Register writes -/

/-- LGEN_WRITE (R159). -/
def execLgenWrite (core : Nat) (v : BitVec 64) (s : State) : Host.Outcome State Fault Refusal :=
  .next (if core < 256 then s.writeLgen core v else s)

/-- TROOT_WRITE (R303). A write of TROOT or TLBINV waits for a store that waits for a locked page (R294). -/
def execTrootWrite (part : Nat) (v : BitVec 64) (s : State) : Host.Outcome State Fault Refusal :=
  .next (if part < 32 && !s.partBlocked part then s.writeTroot part v else s)

/-- TLBINV_ALL (R303). -/
def execTlbinvAll (part : Nat) (s : State) : Host.Outcome State Fault Refusal :=
  .next (if s.partBlocked part then s else s.writeTlbinv part 1)

/-- TLBINV_RANGE (R303): a write with ALL = 0. -/
def execTlbinvRange (part : Nat) (v : BitVec 64) (s : State) : Host.Outcome State Fault Refusal :=
  .next (if s.partBlocked part then s else s.writeTlbinv part (v &&& ~~~(1 : Word)))

/-- GAPPEND (R403). -/
def execGAppend (part : Nat) (tail : BitVec 32) (s : State) : Host.Outcome State Fault Refusal :=
  .next (if part < 32 then s.gappend part tail.toNat else s)

/-- FQHEAD_WRITE (R419); ring 32 is the PF's. -/
def execFqHeadWrite (part : Nat) (v : BitVec 32) (s : State) : Host.Outcome State Fault Refusal :=
  .next (if part ≤ 32 then s.writeFqHead part v.toNat else s)

/-- SRTBASE_WRITE (R375). -/
def execSrtBaseWrite (stack : Nat) (v : BitVec 64) (s : State) : Host.Outcome State Fault Refusal :=
  .next (if stack < 8 then s.regWrite (stackCtl stack + 0x20000) v (BitVec.allOnes 64) else s)

/-- REGISTER_WRITE (R15): the host's write of a whole register through the PF. -/
def execRegisterWrite (addr : Nat) (v : BitVec 64) (s : State) : Host.Outcome State Fault Refusal :=
  .next (if s.regWaits addr 8 then s else s.regWrite addr v (BitVec.allOnes 64))

/-- RESUME_STRAND: FACT with ACT 1 (R420). -/
def execResumeStrand (part seq : Nat) (s : State) : Host.Outcome State Fault Refusal := .next (if part < 32 then s.factResume part seq else s)

/-- KILL: FACT with ACT 2 (R420). -/
def execKill (part seq : Nat) (s : State) : Host.Outcome State Fault Refusal := .next (if part < 32 then s.factKill part seq else s)

/-! ## Partition commands (R413, R414) -/

/-- The PCMD in progress, 0 when there is none. -/
def State.pcmd (s : State) (part : Nat) : Nat :=
  if part < 32 && (s.reg64 (descAddr part 0)).getLsbD 18 then getBits (s.reg64 (descAddr part 0x78)) 0 3 else 0

/-- BUSY falls. -/
def State.endPcmd (s : State) (part : Nat) : State := (s.setField (descAddr part 0) 18 1 0).setReg64 (descAddr part 0x78) 0

/-- An operation is in progress, alone or beside a RESIZE (R431). -/
def State.asked (s : State) (part op : Nat) : Bool :=
  decide (part < 32) && decide (op ≠ 0) && (s.reg64 (descAddr part 0)).getLsbD 18 &&
    (decide (s.pcmd part = op) || decide (getBits (s.reg64 (descAddr part 0x78)) 3 3 = op))

/-- The operation ends; a RESIZE that it stood beside goes on. -/
def State.endOp (s : State) (part op : Nat) : State := if s.pcmd part = op then s.endPcmd part else s.setField (descAddr part 0x78) 3 3 0

/-- A RESIZE ends; what was taken beside it is in progress alone then (R431). -/
def State.endResize (s : State) (part : Nat) : State :=
  let beside := getBits (s.reg64 (descAddr part 0x78)) 3 3
  if beside = 0 then s.endPcmd part else s.setReg64 (descAddr part 0x78) (BitVec.ofNat 64 beside)

/-- A PCMD is refused: PERR. -/
def State.refusePcmd (s : State) (part : Nat) : State := (s.setField (descAddr part 0) 19 1 1).endResize part

def State.partState (s : State) (part : Nat) : Nat := getBits (s.reg64 (descAddr part 0)) 16 2
def State.setPartState (s : State) (part v : Nat) : State := s.setField (descAddr part 0) 16 2 v

/-- The words of the current descriptor, and of NEXT, at an offset from 0x00 to 0x28. -/
def State.cur (s : State) (part off : Nat) : Word := s.reg64 (descAddr part off)
def State.nextDesc (s : State) (part off : Nat) : Word := s.reg64 (descAddr part (0x80 + off))

/-- Units of NEXT on a die. -/
def State.nextUnits (s : State) (part d : Nat) : Nat := getBits (s.nextDesc part 0x28) (8 * d) 7

/-- NEXT has clusters or bands on a die, and slices. -/
def State.nextUses (s : State) (part d : Nat) : Bool :=
  decide (getBits (s.nextDesc part 0x08) (8 * d) 8 ≠ 0) || decide (getBits (s.nextDesc part 0x10) (16 * d) 16 ≠ 0)
def State.nextSliced (s : State) (part d : Nat) : Bool := decide (getBits (s.nextDesc part (if d < 2 then 0x18 else 0x20)) (32 * (d % 2)) 32 ≠ 0)

/-- Clusters of a word. -/
def clustersOf (w : Word) : List Nat := (List.range 32).filter fun c => w.getLsbD c

/-- NEXT may become the descriptor (R414), and names nothing that has been retired (R427). -/
def State.nextOk (s : State) (part : Nat) : Bool :=
  let others := (List.range 32).filter (· ≠ part)
  ([0x08, 0x10, 0x18, 0x20].all fun o => others.all fun q => s.nextDesc part o &&& s.cur q o = 0) &&
    ((List.range 4).all fun d => decide ((others.map fun q => s.units q d).sum + s.nextUnits part d ≤ 64)) &&
    decide ((others.map fun q => getBits (s.cur q 0) 0 7).sum + getBits (s.nextDesc part 0) 0 7 ≤ 64) &&
    ((List.range 4).all fun d => !s.nextUses part d || s.nextSliced part d) &&
    ((clustersOf (s.nextDesc part 0x08)).all fun c => decide (s.clusterState c ≠ 2)) &&
    (List.range 64).all fun b => !((s.nextDesc part 0x10).getLsbD b && s.badBands.contains b)

/-- Free units of a die, lowest first. -/
def State.freeUnits (s : State) (d : Nat) : List Nat := (List.range 64).filter fun u => !s.chipUnits.any fun x => x.1 = 64 * d + u

/-- A chip-scratchpad unit, cleared with its marks. -/
def State.zeroUnit (s : State) (d u : Nat) : State := s.zeroRange (chipBase + d * chipDie + u * 0x100000) 0x100000

/-- Give the partition units of a die up to `n`, zeroed (R297). -/
def State.growUnits (s : State) (part d n : Nat) : State :=
  let new := (s.freeUnits d).take (n - (s.unitsOn part d).length)
  new.foldl (fun v u => v.zeroUnit d u) { s with chipUnits := s.chipUnits ++ new.map fun u => (64 * d + u, part) }

/-- Take the partition's last units of a die away, zeroed, down to `n` (R417). -/
def State.shrinkUnits (s : State) (part d n : Nat) : State :=
  let old := (s.unitsOn part d).drop n
  old.foldl (fun v u => v.zeroUnit d u) { s with chipUnits := s.chipUnits.filter fun x => !(x.2 = part && x.1 / 64 = d && old.contains (x.1 % 64)) }

/-- What NEXT gives of a word of the descriptor: no cluster that has been retired meanwhile, and no band that has failed and left (R427). -/
def State.nextLeft (s : State) (part off : Nat) : Word :=
  let gone := fun (p : Nat → Bool) => BitVec.ofNat 64 (((List.range 64).filter p).map (2 ^ ·)).sum
  match off with
  | 0x08 => s.nextDesc part off &&& ~~~(gone fun c => decide (c < 32) && decide (s.clusterState c = 2))
  | 0x10 => s.nextDesc part off &&& ~~~(gone fun b => s.badBands.contains b && !(s.cur part off).getLsbD b)
  | _ => s.nextDesc part off

/-- The current descriptor takes NEXT's values; a frozen VF stays frozen. -/
def State.takeNext (s : State) (part : Nat) : State :=
  let s1 := [0x08, 0x10, 0x18, 0x20, 0x28].foldl (fun u o => u.setReg64 (descAddr part o) (u.nextLeft part o)) s
  (s1.setField (descAddr part 0) 0 7 (getBits (s1.nextDesc part 0) 0 7)).setPartState part (if s1.partState part = 3 then 3 else 1)

/-- CREATE's effect: NEXT's resources, zeroed as they pass to the partition (R165, R281, R297). -/
def State.createPart (s : State) (part : Nat) : State :=
  let s1 := (clustersOf (s.nextDesc part 0x08)).foldl State.zeroCluster s
  let s2 := (List.range 4).foldl (fun u d => u.growUnits part d (u.nextUnits part d)) s1
  (s2.takeNext part).endPcmd part

/-- CREATE (R414). -/
def execCreate (part : Nat) (s : State) : Host.Outcome State Fault Refusal :=
  .next (if s.pcmd part ≠ 1 then s else if s.partState part ≠ 0 || !s.nextOk part then s.refusePcmd part else s.createPart part)

/-! ## RESIZE (R417) -/

/-- STATE 2, but for a frozen VF, and the mark that the RESIZE has begun. -/
def State.beginResize (s : State) (part : Nat) : State :=
  (s.setPartState part (if s.partState part = 3 then 3 else 2)).setField (descAddr part 0x78) 6 1 1

/-- A live D launch has strands on the cluster, or had (R417). -/
def State.detOn (s : State) (cluster : Nat) : Bool :=
  (s.launches.any fun l => l.det && l.strands.any fun m => clusterOf m.2 = cluster) || (s.onCluster cluster).any fun t => t.st.d

/-- What NEXT adds takes effect at once. -/
def State.addNext (s : State) (part : Nat) : State :=
  let s1 := (clustersOf (s.nextDesc part 0x08 &&& ~~~(s.cur part 0x08))).foldl State.zeroCluster s
  let s2 := (List.range 4).foldl (fun u d => u.growUnits part d (u.nextUnits part d)) s1
  let s3 := [0x08, 0x10, 0x18, 0x20].foldl (fun u o => u.setReg64 (descAddr part o) (u.cur part o ||| u.nextDesc part o)) s2
  let s4 := (List.range 4).foldl (fun u d => u.setField (descAddr part 0x28) (8 * d) 7 (max (u.units part d) (u.nextUnits part d))) s3
  (s4.setField (descAddr part 0) 0 7 (max (getBits (s4.cur part 0) 0 7) (getBits (s4.nextDesc part 0) 0 7))).beginResize part

/-- A removed cluster begins to drain when no live D launch has a part on it; without strands it leaves at once. -/
def State.removeCluster (s : State) (part cluster : Nat) : State :=
  if s.detOn cluster then s
  else if (s.onCluster cluster).isEmpty then (if s.clusterBusy cluster then s else s.leaveCluster part cluster)
  else if s.clusterState cluster = 0 then s.drainCluster cluster false
  else s

/-- A byte lies in a band that the partition is losing. -/
def State.inLostBand (s : State) (part k : Nat) : Bool :=
  match regionOf k with
  | .hbm d => let b := 16 * d + k % hbmDie / hbmBand; (s.cur part 0x10).getLsbD b && !(s.nextDesc part 0x10).getLsbD b
  | _ => false

/-- Every removed cluster is gone and no page or table lies in a removed band. -/
def State.resizeDone (s : State) (part : Nat) : Bool :=
  decide (s.cur part 0x08 &&& ~~~(s.nextDesc part 0x08) = 0) && !s.partMeets part (s.inLostBand part)

/-- One round of a RESIZE: removed clusters leave, and when everything is done the descriptor takes NEXT's values and RESIZED is posted. -/
def State.workResize (s : State) (part : Nat) : State :=
  let s1 := (clustersOf (s.cur part 0x08 &&& ~~~(s.nextDesc part 0x08))).foldl (fun u c => u.removeCluster part c) s
  if s1.resizeDone part then
    let s2 := (List.range 4).foldl (fun u d => u.shrinkUnits part d (u.nextUnits part d)) s1
    let s3 := (s2.takeNext part).endResize part
    (s3.postRecord part 6 [0, s3.cur part 0x08, s3.cur part 0x10] none none).1
  else s1

/-- RESIZE (R414, R417). The step happens again until every part of it is done: clusters leave in CLUSTER_RETIRE, pages in PAGE_MIGRATION. -/
def execResize (part : Nat) (s : State) : Host.Outcome State Fault Refusal :=
  .next (if s.pcmd part ≠ 2 then s
    else if s.resizing part then s.workResize part
    else if s.partState part = 0 || !s.nextOk part then s.refusePcmd part
    else (s.addNext part).workResize part)

/-! ## DESTROY and RELEASE (R417, R422) -/

/-- Drop the partition's commands and clear the queues that one of them has frozen. -/
def State.dropCommands (s : State) (part : Nat) : State :=
  (s.cmds.filter fun c => c.part = part && c.isOpen).foldl (fun u c =>
    let v := u.stopCmd c .dropped
    if u.froze c then { v with frozenQ := setErase c.queue v.frozenQ } else v) s

/-- The partition's launches are killed with NERR 7, and its running nodes end. -/
def State.killPart (s : State) (part : Nat) : State :=
  (s.nodes.filter fun n => n.part = part && n.phase = .running).foldl (fun u n =>
    let v := u.killNode n 7
    match v.node? part n.index with | some m => v.endNode m | none => v) s

/-- DESTROY's effect. -/
def State.destroyPart (s : State) (part : Nat) : State :=
  let s1 := (s.killPart part).dropCommands part
  let s2 := (clustersOf (s1.cur part 0x08)).foldl State.zeroCluster s1
  let s3 := (List.range 4).foldl (fun u d => u.shrinkUnits part d 0) s2
  let s4 := [0x08, 0x10, 0x18, 0x20, 0x28].foldl (fun u o => u.setReg64 (descAddr part o) 0) s3
  let s5 := { s4 with
    nodes := s4.nodes.filter (·.part ≠ part), held := s4.held.filter (·.1.1 ≠ part), hostHeld := s4.hostHeld.filter (·.1 ≠ part),
    msixHeld := s4.msixHeld.filter (·.1 ≠ part) }
  ((s5.setField (descAddr part 0) 0 7 0).setPartState part 0).endPcmd part

/-- DESTROY (R414, R417). -/
def execDestroy (part : Nat) (s : State) : Host.Outcome State Fault Refusal :=
  .next (if !s.asked part 3 then s else if s.partState part = 0 then s.refusePcmd part else s.destroyPart part)

/-- A frozen strand resumes as RESUME-STRAND would. -/
def State.thaw (s : State) (t : Strand) : State :=
  match t.run with
  | .frozen seq =>
    let point := match s.records.find? fun r => r.ring = t.part && r.seq = seq && r.pending with | some r => r.words.getD 5 0 | none => 0
    (s.clearRecord t.part seq).updateAt t.place (Strand.resumeAt · point)
  | _ => s

/-- A frozen queue accepts commands again; the command that froze it is dropped, its node with NERR 5. -/
def State.thawQueue (s : State) (c : Cmd) : State :=
  match c.phase with
  | .faulted seq =>
    if s.froze c then
      let s1 := ((s.clearRecord c.part seq).stopCmd c .dropped).markNode c.part c.node 2 5
      { s1 with frozenQ := setErase c.queue s1.frozenQ }
    else s
  | _ => s

/-- What the hub has owed the host through the partition's frozen VF is written, and the messages held back are sent (R421). -/
def State.replayHost (s : State) (part : Nat) : State :=
  (s.hostHeld.filter (·.1 = part)).foldl
    (fun u x => ({ u with mem := Mem.write u.mem x.2.1 x.2.2 }.noteStore none x.2.1 1).breakLinks none (lineOf x.2.1))
    { s with hostHeld := s.hostHeld.filter (·.1 ≠ part), msix := s.msix ++ s.msixHeld.filter (·.1 = part), msixHeld := s.msixHeld.filter (·.1 ≠ part) }

/-- A frozen VF works again: what waited for it goes on (R421, R422). During a RESIZE the partition is resizing still. -/
def State.thawVf (s : State) (part : Nat) : State :=
  if s.partState part ≠ 3 then s
  else
    let s1 := (((s.setPartState part (if s.resizing part then 2 else 1)).replayHost part).appendHeld part)
    s1.flushRecords part s1.records.length

/-- RELEASE's effect. -/
def State.releasePart (s : State) (part : Nat) : State :=
  let s1 := (s.strands.filter fun t => t.live && t.part = part).foldl State.thaw s
  let s2 := (s1.cmds.filter fun c => c.part = part).foldl State.thawQueue s1
  (s2.thawVf part).endOp part 4

/-- RELEASE (R422). -/
def execRelease (part : Nat) (s : State) : Host.Outcome State Fault Refusal := .next (if s.asked part 4 then s.releasePart part else s)

end Sys2Proof.Machine
end

