-- ==== Sys2Proof/Machine/Fabric.lean ====
section
/-! DEFINITION. The host's requests through a VF (R405, R421), requests of other devices (R396), device links (R407, R427), and the failure of a device
(R429). -/

namespace Sys2Proof.Machine

/-! ## Requests of the host (R395, R405, R421) -/

/-- A host request through a VF reaches the byte: the partition's HBM, chip-scratchpad units and control blocks (R415); the PF reaches every one. -/
def State.hostReaches (s : State) (part k : Nat) : Bool :=
  match regionOf k with
  | .hbm _ | .chip _ | .die _ | .stack _ | .aperture _ | .desc _ | .vf _ => decide (part = 32) || s.inRanges part k
  | _ => false

/-- The VF's DMA freezes (R421). -/
def State.vfViolation (s : State) (part addr : Nat) : State :=
  if part = 32 then s else ((s.postRecord part 7 [2, BitVec.ofNat 64 addr] none none).1).setPartState part 3

/-- A KERNEL of the partition has been appended and has not ended (R405). -/
def State.kernelPending (s : State) (part : Nat) : Bool := s.nodes.any fun n => n.part = part && n.type = 1 && n.phase ≠ .ended

/-- One line's marks after a host write of `[k, k + n)`: its tarnish rises when the write is not ordered before a running launch (R316, R405), and falls
at no host write (R315); covering it whole clears its poison (R347). -/
def State.markHost (s : State) (k n line : Nat) (t : Bool) : State :=
  let whole := decide (k ≤ line * 64) && decide (line * 64 + 64 ≤ k + n)
  { s with tarn := if t then setInsert line s.tarn else s.tarn, poison := if whole then setErase line s.poison else s.poison }

/-- Bytes of the host, or of another device, at their home. -/
def State.outsidePut (s : State) (k : Nat) (bs : List Byte) (t : Bool) : State :=
  let u := s.reachRange k bs.length true
  let s1 := (({ u with mem := Mem.put u.mem k bs }).writeCells k bs.length).noteStore none k bs.length
  (linesOf k bs.length).foldl (fun u l => (u.markHost k bs.length l t).breakLinks none l) s1

/-- Bytes of the host, or of another device, stored: a part of a 256-byte block whose metadata is lost is not written (R296). -/
def State.outsideStore (s : State) (k : Nat) (bs : List Byte) (t : Bool) : State :=
  let ends := [k / 256, (k + bs.length - 1) / 256].eraseDups.filter fun b =>
    s.metaGone (b * 256) && !(decide (k ≤ b * 256) && decide (b * 256 + 256 ≤ k + bs.length))
  if bs = [] || ends = [] then s.outsidePut k bs t
  else
    let lo := if ends.contains (k / 256) then min (k + bs.length) ((k / 256 + 1) * 256) else k
    let hi := if ends.contains ((k + bs.length - 1) / 256) then max lo ((k + bs.length - 1) / 256 * 256) else k + bs.length
    ends.foldl (fun u b => u.loseBlock (b * 256)) (s.outsidePut lo ((bs.drop (lo - k)).take (hi - lo)) t)

/-- The bytes of a range that fall into the `i`-th 8-byte word it touches: their first address and the bytes. -/
def wordPiece (k : Nat) (bs : List Byte) (i : Nat) : Nat × List Byte :=
  let lo := max k ((k / 8 + i) * 8)
  (lo, (bs.drop (lo - k)).take ((k / 8 + i) * 8 + 8 - lo))

/-- Bytes stored into registers, word by word; the PF may write every register, a VF what a strand may (R413). -/
def State.outsideRegs (s : State) (pf : Bool) (k : Nat) (bs : List Byte) : State :=
  let n := if bs = [] then 0 else (k + bs.length - 1) / 8 - k / 8 + 1
  (List.range n).foldl (fun u i =>
    let (a, piece) := wordPiece k bs i
    if pf then
      u.regWrite (a / 8 * 8) (BitVec.ofNat 64 (leNat piece * 2 ^ (a % 8 * 8))) (BitVec.ofNat 64 ((2 ^ (8 * piece.length) - 1) * 2 ^ (a % 8 * 8)))
    else u.regStore a piece) s

/-- A request to a locked page waits (R294). -/
def State.rangeLocked (s : State) (k n : Nat) : Bool :=
  n ≠ 0 && (List.range ((k + n - 1) / 4096 - k / 4096 + 1)).any fun i => s.locked.contains (k / 4096 + i)

/-- HOST_WRITE (R405, R421): a frozen VF completes nothing. -/
def execHostWrite (part addr : Nat) (data : List (BitVec 8)) (s : State) : Host.Outcome State Fault Refusal :=
  if 32 < part || s.partState part = 3 && part ≠ 32 then .next s
  else if !(List.range data.length).all (fun i => s.hostReaches part (addr + i)) then .next (s.vfViolation part addr)
  else if s.rangeLocked addr data.length || s.regWaits addr data.length then .next s
  else if (regionOf addr).isCtl then .next (s.outsideRegs (part = 32) addr data)
  else .next (s.outsideStore addr data (s.kernelPending part))

/-- A byte of memory or of a register as a reader outside sees it; a poisoned byte gives none. -/
def State.outsideByte (s : State) (k : Nat) : Option Byte :=
  if (regionOf k).isCtl then some (s.regByte k)
  else if s.poison.contains (lineOf k) then none
  else some (Mem.read s.mem k)

/-- Bytes read from outside: of HBM each sector is read and checked (R345). -/
def State.outsideRead (s : State) (k n : Nat) : State :=
  let u := if (regionOf k).isCtl then s else s.reachRange k n false
  { u with reply := (List.range n).map fun i => u.outsideByte (k + i) }

/-- HOST_READ (R421): a frozen VF answers with Completer Abort, which brings no bytes. -/
def execHostRead (part addr len : Nat) (s : State) : Host.Outcome State Fault Refusal :=
  if 32 < part then .next s
  else if s.partState part = 3 && part ≠ 32 then .next { s with reply := [] }
  else if !(List.range len).all (fun i => s.hostReaches part (addr + i)) then .next { s.vfViolation part addr with reply := [] }
  else if s.rangeLocked addr len then .next s
  else .next (s.outsideRead addr len)

/-! ## Requests of other devices (R396) -/

/-- The atomics of R115 in its order, as numbers 2 to 13 of a request. -/
def requestAmo (op : Nat) : Option AmoOp :=
  match op with
  | 2 => some .add | 3 => some .and | 4 => some .or | 5 => some .xor | 6 => some .min | 7 => some .max | 8 => some .minu | 9 => some .maxu
  | 10 => some .swap | 11 => some .cas | 12 => some .fadd32 | 13 => some .fadd64 | _ => none

/-- An unordered atomic of another device on memory: the old value is the reply, and the line is tarnished (R115, R316). `data` holds the operand,
and for CAS the expected value before it. -/
def State.outsideAmo (s : State) (f : AmoOp) (k : Nat) (data : List Byte) : State :=
  let z := f.size
  let m := Mem.readLE s.mem k z
  let c : Word := BitVec.ofNat 64 (leNat (data.take 8))
  let o : Word := BitVec.ofNat 64 (leNat ((if f = .cas then data.drop 8 else data).take z))
  let s1 := s.outsideStore k (leBytes z (f.apply (BitVec.ofNat 64 m) o c).1.toNat) true
  { s1 with reply := (leBytes z m).map some }

/-- The bytes a request touches. -/
def requestLen (op : Nat) (data : List Byte) : Nat := match requestAmo op with | some f => f.size | none => data.length

/-- FABRIC_REQUEST (R396): op 0 reads as many bytes as `data` has, 1 writes them, 2 to 13 are the unordered atomics. A request outside the ranges of
partition `part` is refused: it brings no reply, and its issuer takes PARTITION. -/
def execFabricRequest (part addr op : Nat) (data : List (BitVec 8)) (s : State) : Host.Outcome State Fault Refusal :=
  let n := requestLen op data
  if 32 ≤ part || 13 < op || !(List.range n).all (fun i => s.hostReaches part (addr + i)) then .next { s with reply := [] }
  else if s.rangeLocked addr n || (op = 1 && s.regWaits addr n) then .next s
  else
    match op, requestAmo op with
    | 0, _ => .next (s.outsideRead addr n)
    | _, some f =>
      let u := if (regionOf addr).isCtl then s else s.reachRange addr n false
      .next (if (regionOf addr).isCtl || decide (addr % f.size ≠ 0) || u.poison.contains (lineOf addr) then { u with reply := [] } else u.outsideAmo f addr data)
    | _, none =>
      .next { (if (regionOf addr).isCtl then s.outsideRegs false addr data else s.outsideStore addr data false) with reply := [] }

/-! ## Device links (R407, R427) -/

/-- One bit of the CRC-32 of R407: polynomial 0x04C1_1DB7, most significant bit first (log 24). -/
def crcBit (c : BitVec 32) : BitVec 32 := if c.getLsbD 31 then (c <<< 1) ^^^ 0x04C11DB7 else c <<< 1

/-- One byte. -/
def crcByte (c : BitVec 32) (b : Byte) : BitVec 32 := crcBit (crcBit (crcBit (crcBit (crcBit (crcBit (crcBit (crcBit (c ^^^ (b.setWidth 32 <<< 24)))))))))

/-- CRC-32 over bytes, initial value all ones. -/
def crc32 (bs : List Byte) : BitVec 32 := bs.foldl crcByte 0xFFFFFFFF

/-- SEQ and ACK of a flit. -/
def flitSeq (f : List Byte) : BitVec 12 := BitVec.ofNat 12 (leNat (f.take 2))
def flitAck (f : List Byte) : BitVec 12 := BitVec.ofNat 12 (leNat ((f.drop 2).take 2))

/-- The flit's CRC is right. -/
def flitOk (f : List Byte) : Bool := decide (f.length = 256) && decide (leNat (f.drop 252) = (crc32 (f.take 252)).toNat)

/-- A flit of 248 packet bytes. -/
def makeFlit (seq ack : BitVec 12) (packet : List Byte) : List Byte :=
  let b := leBytes 2 seq.toNat ++ leBytes 2 ack.toNat ++ packet
  b ++ leBytes 4 (crc32 b).toNat

/-- A link that has carried nothing: the first SEQ sent and expected is 0 (log 24). -/
def Link.fresh (id : Nat) : Link := { id := id, next := 0, good := 0xFFF, replay := [], waiting := [], recal := none, received := [], beats := 0 }

def State.link (s : State) (id : Nat) : Link := (s.links.find? (·.id = id)).getD (.fresh id)
def State.setLink (s : State) (l : Link) : State :=
  { s with links := if s.links.any (·.id = l.id) then s.links.map (fun x => if x.id = l.id then l else x) else s.links ++ [l] }

/-- Send packets as far as the replay buffer of 1,024 flits has room; the others wait in order. -/
def Link.send (l : Link) : List (List Byte) → Link
  | [] => { l with waiting := [] }
  | p :: ps =>
    if 1024 ≤ l.replay.length then { l with waiting := p :: ps }
    else { l with next := l.next + 1, replay := l.replay ++ [makeFlit l.next l.good p] }.send ps

/-- The peer has received every flit up to `ack`: they leave the replay buffer, and what waited for room follows. -/
def Link.acknowledge (l : Link) (ack : BitVec 12) : Link :=
  { l with replay := l.replay.filter fun f => decide (2048 ≤ (ack - flitSeq f).toNat) }.send l.waiting

/-- A packet flooded over all 16 links (R429). -/
def State.flood (s : State) (packet : Nat → Nat → Byte) : State :=
  (List.range 16).foldl (fun u i => let l := u.link i; u.setLink (l.send (l.waiting ++ [(List.range 248).map (packet i)]))) s

/-- FLIT (R407): a flit with a bad CRC or an unexpected SEQ is discarded. -/
def execFlit (link : Nat) (data : List (BitVec 8)) (s : State) : Host.Outcome State Fault Refusal :=
  let l := s.link link
  .next (if 16 ≤ link || !flitOk data || flitSeq data ≠ l.good + 1 then s
    else s.setLink ({ l with good := l.good + 1, received := l.received ++ [(data.drop 4).take 248] }.acknowledge (flitAck data)))

/-- FLIT_REPLAY (R407): the peer has reported `seq` as the last good one; what follows it stays in the buffer and is sent again. -/
def execFlitReplay (link : Nat) (seq : BitVec 12) (s : State) : Host.Outcome State Fault Refusal :=
  .next (if 16 ≤ link then s else s.setLink ((s.link link).acknowledge seq))

/-- HEARTBEAT (R429): a heartbeat flit is sent, if the replay buffer of 1,024 flits has room. -/
def execHeartbeat (link : Nat) (s : State) : Host.Outcome State Fault Refusal :=
  let l := s.link link
  .next (if 16 ≤ link || decide (1024 ≤ l.replay.length) then s
    else s.setLink ({ l with beats := l.beats + 1 }.send (l.waiting ++ [(List.range 248).map (Config.heartbeatByte link)])))

/-- LINK_RECALIBRATION (R427): one lane, or the end of it. Flits keep their order. -/
def execLinkRecalibration (link : Nat) (lane : Option Nat) (s : State) : Host.Outcome State Fault Refusal :=
  .next (if 16 ≤ link then s else s.setLink { s.link link with recal := lane })

/-! ## A failed device (R429) -/

/-- A device is known to have failed: the first news of it is flooded as DEVFAIL over the device links (R429). -/
def State.learnFailed (s : State) (dev : Nat) : State :=
  if s.failed.contains dev then s else { s with failed := setInsert dev s.failed }.flood fun link i => Config.devfailByte link dev i

/-- HEARTBEAT_TIMEOUT (R429): no heartbeat on any link of a device for 8 µs. -/
def execHeartbeatTimeout (dev : Nat) (s : State) : Host.Outcome State Fault Refusal := .next (s.learnFailed dev)

/-- FATAL_ERROR_FLIT (R429). -/
def execFatalErrorFlit (dev : Nat) (s : State) : Host.Outcome State Fault Refusal := .next (s.learnFailed dev)

/-- Quiesce a launch: its strands are pre-empted, at once or when the commands that name their masks are done (R147), and the barriers of its device
levels stay incomplete (R412, R429). -/
def State.quiesce (s : State) (l : Launch) : State :=
  (s.strands.filter fun t => t.live && t.launch = l.id).foldl (fun u t => u.preempt t.place) (s.setLaunch { l with quiesced := true })

/-- Every launch that includes a device is quiesced. -/
def State.quiesceFor (s : State) (dev : Nat) : State := (s.launches.filter fun l => l.devs.contains dev).foldl State.quiesce s

/-- A FWSWITCH is in progress (R426). -/
def State.switching (s : State) : Bool :=
  (s.reg64 (vfAddr 32 0x1028)).getLsbD 0 && decide (getBits (s.reg64 (vfAddr 32 0x1010)) 0 4 = 2)

/-- DEVFAIL (R429): it is passed on, every launch that includes the device is quiesced and its contexts are saved; during a FWSWITCH when that has
ended (R431). -/
def execDevFail (dev : Nat) (s : State) : Host.Outcome State Fault Refusal :=
  let s1 := s.learnFailed dev
  .next (if s1.switching then { s1 with devfail := setInsert dev s1.devfail } else s1.quiesceFor dev)

end Sys2Proof.Machine
end

