-- ==== Sys2Proof/Machine/Matrix.lean ====
section
/-! DEFINITION. Tiles and the matrix unit: majors 0x38 to 0x3A (R243 to R265). Every instruction here reads all it needs before it writes, so a
fault comes before any effect (R249). -/

namespace Sys2Proof.Machine

/-! ## Headers (R244) -/

/-- The fields of a tile base's header. -/
structure Tile where
  base : Nat
  pair : Bool
  qres : Nat
  q    : Nat
  m    : Nat
  n    : Nat
  gl   : Nat
  deriving DecidableEq, Repr

/-- ROLE of a header: 0 plain, 1 base, 2 member. -/
def headerRole (h : Word) : Nat := getBits h 62 2

/-- BASE of a header. -/
def headerBase (h : Word) : Nat := getBits h 17 7

/-- The tile whose base is purse `k`. -/
def Strand.tile? (t : Strand) (k : Nat) : Option Tile :=
  let h := (t.purse k).hdr0
  if headerRole h = 1 then
    some { base := k, pair := h.getLsbD 61, qres := getBits h 54 6, q := getBits h 48 6, m := getBits h 40 8, n := getBits h 32 8, gl := getBits h 24 8 }
  else none

/-- Word 0 of a base's header. -/
def Tile.header (x : Tile) : Word :=
  BitVec.ofNat 64 (2 ^ 62 + (if x.pair then 2 ^ 61 else 0) + x.qres % 64 * 2 ^ 54 + x.q % 64 * 2 ^ 48 + x.m % 256 * 2 ^ 40 + x.n % 256 * 2 ^ 32 +
    x.gl % 256 * 2 ^ 24 + x.base % 128 * 2 ^ 17)

/-- Word 0 of a member's header: ROLE and BASE only. -/
def memberHeader (base : Nat) : Word := BitVec.ofNat 64 (2 * 2 ^ 62 + base % 128 * 2 ^ 17)

/-- Purses of a group. -/
def groupPurses (base gl : Nat) : List Nat := (List.range gl).map (base + ·)

/-- Some purse of a group is tarnished (R250). -/
def Strand.groupTarn (t : Strand) (base gl : Nat) : Bool := (groupPurses base gl).any fun k => (t.purse k).tarn

/-! ## Checks (R249, R243) -/

/-- A trap with a purse or code-register number. -/
def tileTrap (cause n : Nat) : Trap := Trap.at cause (BitVec.ofNat 64 n)

/-- Every purse of a tile's group lies below VREGS, which a SETVL may have lowered since (R77). -/
def groupBelow (x : Tile) : M Unit := do
  let v := (← getS).vregs
  if v < x.base + x.gl then raise (tileTrap 0x02 (max x.base v))

/-- A tile operand (R249), whose group lies below VREGS (R77). -/
def tileOperand (f : BitVec 7) (ok : Tile → Bool) : M Tile := do
  let t ← getS
  let k := t.purseName f
  match (if k < t.vregs then t.tile? k else none) with
  | some x =>
    groupBelow x
    if ok x then return x else raise (tileTrap 0x02 k)
  | none => raise (tileTrap 0x02 k)

/-- The code of a tag, which must pass a test (R243, R254, R257). -/
def tagCode (tag : BitVec 3) (ok : Code → Bool) : M Code := do
  let c := (← getS).codeOf tag
  if c.valid && ok c then return c else raise (tileTrap 0x03 tag.toNat)

def Code.isFp32 (c : Code) : Bool := c.kind = 2
def Code.isInt32 (c : Code) : Bool := c.kind = 9 && c.wid = 2

/-- The tile's code: FP32, or signed INT32 when it is dense (R243). -/
def tileCode (x : Tile) : M Code := do
  tagCode ((← getS).purse x.base).tag fun c => c.isFp32 || (!x.pair && c.isInt32)

/-- A new group must lie below VREGS (R252, R262). -/
def groupFits (base gl : Nat) : M Unit := do
  let v := (← getS).vregs
  if v ≤ base + gl - 1 then raise (tileTrap 0x02 (max base v))
  else if 128 < gl then raise (tileTrap 0x02 (base + 128))

/-! ## The group stream (R243, R245) -/

/-- 32-bit code `e` of a group's stream; what lies at or above a purse's fill reads as 0, and so does a code that lies there in part (DESIGN CHOICE, log
52). -/
def Strand.tileCodeAt (t : Strand) (x : Tile) (e : Nat) : Nat :=
  let k := 32 * e / t.grant
  let o := 32 * e % t.grant
  let p := t.purse (x.base + k)
  if k < x.gl && decide (o + 32 ≤ p.fill) then bitsAt p.bits o 32 else 0

/-- Codes `lo` to `lo + n − 1` of a group. -/
def Strand.tileCodes (t : Strand) (x : Tile) (lo n : Nat) : List Nat := (List.range n).map fun i => t.tileCodeAt x (lo + i)

/-- Write a tile whole: its codes, its fills and its tarnish (R245, R250). -/
def Strand.writeTile (t : Strand) (x : Tile) (codes : List Nat) (tarn : Bool) : Strand :=
  let s := (layCodes 0 (codes.map fun c => (c, 32))).2
  let total := 32 * codes.length
  (List.range x.gl).foldl (fun u p =>
    let f := min t.grant (total - p * t.grant)
    u.setPurse (x.base + p) { u.purse (x.base + p) with bits := bitsAt s (p * t.grant) f, fill := f, tarn := tarn }) t

/-- Set the header of a base. -/
def Strand.setHeader (t : Strand) (x : Tile) : Strand :=
  t.placePurse x.base { t.purse x.base with hdr0 := x.header }

/-- Every tile with a purse in a group loses its headers, but for the one with base `keep` (R252, R262). -/
def Strand.dissolve (t : Strand) (base gl : Nat) (keep : Option Nat) : Strand :=
  let hit := fun (k : Nat) => match t.tile? k with
    | some x => keep ≠ some k && decide (k ≤ base + gl - 1) && decide (base ≤ k + x.gl - 1)
    | none => false
  let gone := ((List.range 128).filter hit).flatMap fun k => groupPurses k ((t.tile? k).map (·.gl) |>.getD 0)
  gone.foldl (fun u k => u.placePurse k { u.purse k with hdr0 := 0, hdr1 := 0 }) t

/-- Declare a group: headers, DMAP 0 and the base's tag (R252, R262). -/
def Strand.declare (t : Strand) (x : Tile) (tag : BitVec 3) : Strand :=
  (List.range x.gl).foldl (fun u p =>
    u.placePurse (x.base + p) { u.purse (x.base + p) with tag := tag, hdr0 := if p = 0 then x.header else memberHeader x.base, hdr1 := 0 }) t

/-! ## Values and sums -/

/-- A value and the flags raised in reaching it. -/
abbrev Val := Ex × Flags

/-- A tree sum whose first product has index `lo` (R20, R53): each addition is rounded. -/
def treeSum (c : Code) (dr : Draw) (lo : Nat) (ps : List Ex) : Val :=
  let t := redTree c dr 18 lo (ps.map some)
  (t.x.getD (.zero false), t.flags.foldl (fun f p => f ||| p.2) 0)

/-- One rounded addition. -/
def addRound (c : Code) (dr : Draw) (i : Nat) (x y : Ex) : Val := c.rd dr i (Ex.add c.rdn x y)

/-- Products of two rows, in lockstep. -/
def products : List Ex → List Ex → List Ex
  | x :: xs, y :: ys => Ex.mul x y :: products xs ys
  | _, _ => []

/-- The strip sums of R254 from product `s` on: `base` is the index of product 0. -/
def stripSums (c : Code) (dr : Draw) (base ks : Nat) : Nat → Nat → List Ex → Val → Val
  | 0, _, _, acc => acc
  | fuel + 1, s, ps, acc =>
    if ps = [] then acc
    else
      let t := treeSum c dr (base + s) (ps.take ks)
      let r := addRound c dr (base + s) acc.1 t.1
      stripSums c dr base ks fuel (s + ks) (ps.drop ks) (r.1, acc.2 ||| t.2 ||| r.2)

/-- A factor pair's columns (R245): those of U, and those of V. -/
def Strand.factors (t : Strand) (x : Tile) : List (List Ex) × List (List Ex) :=
  let col := fun (lo n : Nat) => (t.tileCodes x lo n).map Fmt.fp32.decode
  ((List.range x.q).map fun i => col (i * (x.m + x.n)) x.m, (List.range x.q).map fun i => col (i * (x.m + x.n) + x.m) x.n)

/-- Element `r` of every column. -/
def rowOf (cols : List (List Ex)) (r : Nat) : List Ex := cols.map fun c => c.getD r (.zero false)

/-- dense(X)[r][c] with e = r × N + c (R245). -/
def denseElem (c : Code) (dr : Draw) (uv : List (List Ex) × List (List Ex)) (n e : Nat) : Val :=
  if uv.1 = [] then (.zero false, 0)
  else
    let t := treeSum c dr (e * 2 ^ 20) (products (rowOf uv.1 (e / n)) (rowOf uv.2 (e % n)))
    let r := c.rd dr (e * 2 ^ 20) t.1
    (r.1, t.2 ||| r.2)

/-- The elements of a tile in its dense layout, with the flags of dense(X). -/
def Strand.denseVals (t : Strand) (c : Code) (x : Tile) (lo n : Nat) : List Val :=
  if x.pair then
    let uv := t.factors x
    let dr := c.draw t.ctl.seed.val t.ctl.srb.val
    (List.range n).map fun i => denseElem c dr uv x.n (lo + i)
  else (t.tileCodes x lo n).map fun w => (c.decodeBits 32 w, 0)

/-- All flags of a list of values. -/
def flagsOf (l : List Val) : Flags := l.foldl (fun f v => f ||| v.2) 0

/-- The bits of values that are already the code's (R175). -/
def codeBits (c : Code) (dr : Draw) (l : List Val) : List Nat := l.map fun v => (c.encodeElem dr 0 v.1).1

/-- The draw of a code in the acting strand. -/
def Strand.drawOf (t : Strand) (c : Code) : Draw := c.draw t.ctl.seed.val t.ctl.srb.val

/-- A tile instruction's result: the header, the codes, the tarnish, and the sticky flags (R250). -/
def storeTile (x : Tile) (codes : List Nat) (tarn : Bool) (f : Flags) : M Unit :=
  modS fun t => ((t.setHeader x).writeTile x codes tarn).sticky f tarn

/-! ## Rank overflow (R260) -/

/-- TMODE.OVF. -/
def Strand.ovf (t : Strand) : Bool := t.ctl.tmode.val.getLsbD 0

/-- Purses that a dense M × N tile takes. -/
def Strand.denseGroup (t : Strand) (m n : Nat) : Nat := (32 * m * n + t.grant - 1) / t.grant

/-- A dense contribution meets tile `x`: a factor pair overflows, and is trapped or converted. The tile as it then is, its elements, and
whether TMODE was used. -/
def denseTarget (c : Code) (x : Tile) : M (Tile × List Val × Bool) := do
  let t ← getS
  if x.pair && (!t.ovf || decide (x.gl < t.denseGroup x.m x.n)) then raise (tileTrap 0x07 x.base)
  return (if x.pair then { x with pair := false, q := 0 } else x, t.denseVals c x 0 (x.m * x.n), x.pair)

/-! ## TSHAPE and TZERO (R251, R252) -/

/-- A dimension of a request: the next multiple of 16 from 16 to a limit. -/
def roundDim (lim x : Nat) : Nat := min lim (max 16 ((x + 15) / 16 * 16))

/-- Bits of a shape. -/
def shapeBits (lr ovf : Bool) (m n q : Nat) : Nat :=
  if !lr then 32 * m * n else if ovf then max (32 * (m + n) * q) (32 * m * n) else 32 * (m + n) * q

/-- TSHAPE's loop: M, N and q of the grant. -/
def shrinkShape (grant cap : Nat) (lr ovf : Bool) : Nat → Nat → Nat → Nat → Option (Nat × Nat × Nat)
  | 0, _, _, _ => none
  | fuel + 1, m, n, q =>
    if (shapeBits lr ovf m n q + grant - 1) / grant ≤ cap then some (m, n, q)
    else if m = 16 ∧ n = 16 then (if lr && decide (0 < q) then shrinkShape grant cap lr ovf fuel m n (q - 1) else none)
    else if m ≤ n then shrinkShape grant cap lr ovf fuel m (n - 16) q
    else shrinkShape grant cap lr ovf fuel (m - 16) n q

/-- TSHAPE (R251). -/
def grantShape (d a : BitVec 7) : M Unit := do
  let t ← getS
  let r := t.reg a
  let w := r.val
  let c := getBits w 32 8
  let cap := if 1 ≤ c ∧ c ≤ t.vregs then c else t.vregs
  let lr := w.getLsbD 46
  let k := roundDim 256 (getBits w 16 9)
  match shrinkShape t.grant cap lr t.ovf 64 (roundDim 128 (getBits w 0 8)) (roundDim 128 (getBits w 8 8)) (min (getBits w 40 6) 32) with
  | none => modS fun u => u.setReg d { val := 0, tarn := r.tarn }
  | some (m, n, q) =>
    let gl := max 1 ((shapeBits lr t.ovf m n q + t.grant - 1) / t.grant)
    let fields := (m / 16 - 1) + (n / 16 - 1) * 8 + (k / 16 - 1) * 64 + q * 1024 + (if lr then 65536 else 0)
    modS fun u =>
      let v := { u with ctl := ({ u.ctl with tmode := { val := setBits u.ctl.tmode.val 1 17 fields, tarn := r.tarn } }).seen r.tarn }
      v.setReg d { val := BitVec.ofNat 64 (m + n * 2 ^ 8 + k * 2 ^ 16 + gl * 2 ^ 32 + q * 2 ^ 40 + (if lr then 2 ^ 46 else 0)), tarn := r.tarn }

/-- TZERO (R252). -/
def zeroTile (d : BitVec 7) : M Unit := do
  let t ← getS
  let w := t.ctl.tmode.val
  let m := 16 * (getBits w 1 3 + 1)
  let n := 16 * (getBits w 4 3 + 1)
  let q := min (getBits w 11 6) 32
  let lr := w.getLsbD 17
  let gl := max 1 ((shapeBits lr t.ovf m n q + t.grant - 1) / t.grant)
  let base := t.purseName d
  groupFits base gl
  let x : Tile := { base := base, pair := lr, qres := if lr then q else 0, q := 0, m := m, n := n, gl := gl }
  let _ ← tileCode x
  let tarn := t.groupTarn base gl || t.ctl.tmode.tarn
  modS fun u => ((u.dissolve base gl none).declare x (t.purse base).tag).writeTile x (if lr then [] else List.replicate (m * n) 0) tarn

/-! ## Memory operands (R253, R255, R256) -/

/-- The parts of `n` bytes that lie in one line each. -/
def linePieces : Nat → Word → Nat → List (Word × Nat)
  | 0, _, _ => []
  | fuel + 1, va, n =>
    if n = 0 then []
    else
      let k := min n (64 - va.toNat % 64)
      (va, k) :: linePieces fuel (va + BitVec.ofNat 64 k) (n - k)

/-- Load `n` bytes of an operand: their value and their tarnish (R108, R109). -/
def loadOperand (va : Word) (n : Nat) : M (Nat × Bool) := do
  let ps ← checkPieces (fun _ => .read) (linePieces (n + 1) va n)
  loadPieces [] ps

/-- An operand of TMMA or TMMAL. -/
structure Operand where
  base   : Word
  stride : Word
  rows   : Nat
  code   : Code
  /-- TMODE.ASO or TMODE.BSO. -/
  scales : Nat
  deriving DecidableEq, Repr

/-- Elements in block `g` of a row of `kt`. -/
def blockAt (kt g : Nat) : Nat := min 32 (kt - 32 * g)

/-- The blocks of a row, with their X in the row (R253). -/
def rowBlocks (c : Code) (kt s : Nat) : Nat → Nat → Nat → List Ex
  | 0, _, _ => []
  | fuel + 1, g, off =>
    if kt ≤ 32 * g then []
    else
      let n := blockAt kt g
      c.blockElems s (bitsAt s off 8) (off + 8) n ++ rowBlocks c kt s fuel (g + 1) (off + c.blockBits n)

/-- Bits that are read of a row: a load reads every block with its X as a full one (R49; log 43). -/
def Code.rowBits (c : Code) (kt : Nat) : Nat :=
  if !c.isBlock then kt * c.fixedBits
  else if c.scm then kt * c.elemBits
  else (kt + 31) / 32 * c.blockBits 32

/-- One byte of the core's scale memory as the acting strand loads it (R256): an unobserved SCALES is tarnish, or in a D context ASSAY. Scale memory has no
virtual address: TADDR of a trap is the byte's offset in it (DESIGN CHOICE, log 52). -/
def loadScale (o : Nat) : M (Nat × Bool) := do
  let s ← get
  let t := s.strand
  let k := scaleKey (coreOf t.place) (o % 65536)
  match s.assayCheck t none k 1 .read .plain [] with
  | .error sub => raise (Acc.read.trap 0x09 sub (o % 65536))
  | .ok s1 =>
    set s1
    if s1.poison.contains (lineOf k) then raise (Acc.read.trap 0x0B 0 (o % 65536))
    return ((Mem.read s1.mem k).toNat, s1.tarn.contains (lineOf k) || (!t.st.d && s1.unobserved t.launch t.flat none k 1 []))

/-- The X bytes of a row's blocks. -/
def loadScales : Nat → Nat → M (List Nat × Bool)
  | _, 0 => return ([], false)
  | o, n + 1 => do
    let (x, b) ← loadScale o
    let (xs, c) ← loadScales (o + 1) n
    return (x :: xs, b || c)

/-- Row `r` of an operand: its elements and its tarnish. -/
def loadRow (o : Operand) (kt r : Nat) : M (List Ex × Bool) := do
  let va := o.base + BitVec.ofNat 64 r * o.stride
  let c := o.code
  if (c.fixedBits = 16 || c.fixedBits = 32) && decide (va.toNat % (c.fixedBits / 8) ≠ 0) then raise (Acc.read.trap 0x05 0 va.toNat)
  let (s, t) ← loadOperand va ((c.rowBits kt + 7) / 8)
  if !c.isBlock then return ((List.range kt).map fun k => c.decodeBits c.fixedBits (bitsAt s (k * c.fixedBits) c.fixedBits), t)
  else if !c.scm then return (rowBlocks c kt s (kt + 1) 0 0, t)
  else
    let (xs, u) ← loadScales (o.scales + r * ((kt + 31) / 32)) ((kt + 31) / 32)
    return ((List.range kt).map fun k => c.blockElem (xs.getD (k / 32) 0) (bitsAt s (k * c.elemBits) c.elemBits), t || u)

/-- The rows of an operand from row `r` on. -/
def loadRows (o : Operand) (kt : Nat) : Nat → Nat → M (List (List Ex) × Bool)
  | _, 0 => return ([], false)
  | r, n + 1 => do
    let (x, b) ← loadRow o kt r
    let (xs, c) ← loadRows o kt (r + 1) n
    return (x :: xs, b || c)

/-- Codes a matrix operand may have (R254). -/
def operandOk (tile : Code) (c : Code) : Bool :=
  if tile.isFp32 then decide (2 ≤ c.kind ∧ c.kind ≤ 8) else (c.kind = 9 || c.kind = 10) && c.wid = 0

/-- The operation descriptor: its 64 bytes and their tarnish (R253). -/
def loadDescriptor (va : Word) : M (Nat × Bool) := do
  if va.toNat % 64 ≠ 0 then raise (Acc.read.trap 0x05 0 va.toNat)
  let ps ← checkPieces (fun _ => .read) ((List.range 8).map fun i => (va + BitVec.ofNat 64 (8 * i), 8))
  loadPieces [] ps

/-- An entry of a duplication map that applies: j, j′ and SIDE. -/
structure Dup where
  j  : Nat
  j2 : Nat
  side : Bool
  deriving DecidableEq, Repr

/-- The entries that apply, in order; `all` also takes SIDE 1 (R255). -/
def mapEntries (all : Bool) (kt : Nat) : List Nat → List Dup → List Dup
  | [], used => used
  | w :: ws, used =>
    let e : Dup := { j := bitsAt w 0 16, j2 := bitsAt w 16 16, side := bitsAt w 32 1 = 1 }
    let ok := bitsAt w 63 1 = 1 && decide (e.j < kt) && decide (e.j2 < kt) && e.j ≠ e.j2 && !(used.any (·.j2 = e.j2)) && (all || !e.side)
    mapEntries all kt ws (if ok then used ++ [e] else used)

/-- Read a tile's duplication map (R255). -/
def loadMap (all : Bool) (x : Tile) (kt : Nat) : M (List Dup × Bool) := do
  let a := getBits ((← getS).purse x.base).hdr1 0 52
  if a = 0 then return ([], false)
  let (v, t) ← loadOperand (BitVec.ofNat 64 a) 256
  return (mapEntries all kt ((List.range 32).map fun i => bitsAt v (64 * i) 64) [], t)

/-- A row after duplication: B's rows take SIDE 0, A's SIDE 1. -/
def dupRow (m : List Dup) (side : Bool) (row : List Ex) : List Ex :=
  (m.filter (·.side = side)).foldl (fun l e => l.set e.j2 (row.getD e.j (.zero false))) row

/-! ## TMMA and TMMAL (R253, R254, R259) -/

/-- KS of TMODE. -/
def Strand.stripWidth (t : Strand) : Nat := 16 * (getBits t.ctl.tmode.val 7 4 + 1)

/-- TMMA (R253, R254). Kt = 0 reads nothing, and the address of the descriptor is not tested (DESIGN CHOICE, log 51). -/
def multiply (d a b : BitVec 7) : M Unit := do
  let x ← tileOperand d fun _ => true
  let c ← tileCode x
  let t ← getS
  let kt := min (t.reg b).val.toNat 65536
  if kt = 0 then return ()
  let (desc, td) ← loadDescriptor (t.reg a).val
  let w := fun (i : Nat) => BitVec.ofNat 64 (bitsAt desc (64 * i) 64)
  let ca ← tagCode (BitVec.ofNat 3 (bitsAt desc 256 3)) (operandOk c)
  let cb ← tagCode (BitVec.ofNat 3 (bitsAt desc 264 3)) (operandOk c)
  let (dm, tm) ← loadMap true x kt
  let (ra, ta) ← loadRows { base := w 0, stride := w 2, rows := x.m, code := ca, scales := getBits t.ctl.tmode.val 18 16 } kt 0 x.m
  let (rb, tb) ← loadRows { base := w 1, stride := w 3, rows := x.n, code := cb, scales := getBits t.ctl.tmode.val 34 16 } kt 0 x.n
  let (y, dv, _) ← denseTarget c x
  let tarn := t.groupTarn x.base x.gl || (t.reg a).tarn || (t.reg b).tarn || td || tm || ta || tb || t.ctl.tmode.tarn
  let ra := ra.map (dupRow dm true)
  let rb := rb.map (dupRow dm false)
  let dr := t.drawOf c
  let out := (List.range (x.m * x.n)).zip dv |>.map fun (e, v) =>
    stripSums c dr (e * 2 ^ 20) t.stripWidth (kt + 1) 0 (products (ra.getD (e / x.n) []) (rb.getD (e % x.n) [])) v
  storeTile y (codeBits c dr out) tarn (flagsOf out)

/-- TMMAL (R259). The intermediate W takes FP32 with d's rounding. With Q = 0 a factor pair d stays unchanged too and is no rank overflow (DESIGN CHOICE,
log 52). -/
def multiplyFactor (d a b : BitVec 7) : M Unit := do
  let x ← tileOperand d fun _ => true
  let f ← tileOperand a fun f => f.pair && f.m = x.m
  let c ← tileCode x
  let _ ← tileCode f
  let t ← getS
  let (desc, td) ← loadDescriptor (t.reg b).val
  let w := fun (i : Nat) => BitVec.ofNat 64 (bitsAt desc (64 * i) 64)
  let cb ← tagCode (BitVec.ofNat 3 (bitsAt desc 264 3)) (operandOk c)
  let (dm, tm) ← loadMap false x f.n
  let (rb, tb) ← loadRows { base := w 1, stride := w 3, rows := x.n, code := cb, scales := getBits t.ctl.tmode.val 34 16 } f.n 0 x.n
  if f.q = 0 then return ()
  let (y, dv, _) ← denseTarget c x
  let tarn := t.groupTarn x.base x.gl || t.groupTarn f.base f.gl || (t.reg b).tarn || td || tm || tb || t.ctl.tmode.tarn
  let rb := rb.map (dupRow dm false)
  let cw : Code := { c with kind := 2, wid := 0 }
  let uv := t.factors f
  let drw := t.drawOf cw
  let ws := (List.range f.q).map fun i => (List.range x.n).map fun j =>
    stripSums cw drw ((i * x.n + j) * 2 ^ 20) t.stripWidth 257 0 (products (uv.2.getD i []) (rb.getD j [])) (.zero false, 0)
  let dr := t.drawOf c
  let out := (List.range (x.m * x.n)).zip dv |>.map fun (e, v) =>
    let s := treeSum c dr (e * 2 ^ 20) (products (rowOf uv.1 (e / x.n)) (ws.map fun r => (r.getD (e % x.n) (.zero false, 0)).1))
    let r := addRound c dr (e * 2 ^ 20) v.1 s.1
    (r.1, v.2 ||| s.2 ||| r.2)
  storeTile y (codeBits c dr out) tarn (flagsOf (out ++ ws.flatten))

/-- TDUP (R255). -/
def setMap (d a : BitVec 7) : M Unit := do
  let x ← tileOperand d fun _ => true
  let _ ← tileCode x
  let t ← getS
  let r := t.reg a
  if r.val.toNat % 256 ≠ 0 || getBits r.val 52 12 ≠ 0 then raise { Trap.at 0x05 r.val with acc := 0 }
  let tarn := t.groupTarn x.base x.gl || r.tarn
  modS fun u =>
    let v := (groupPurses x.base x.gl).foldl (fun u k => u.setPurse k { u.purse k with tarn := tarn }) u
    v.setPurse x.base { v.purse x.base with hdr1 := r.val }

/-! ## TLRU and TADD (R257, R258) -/

/-- The first `n` FP32 codes of a purse. -/
def Purse.codes32 (p : Purse) (n : Nat) : List Nat := (List.range n).map fun i => bitsAt p.bits (32 * i) 32

/-- Raw codes of a list's part. -/
def slice {α : Type} (l : List α) (lo n : Nat) : List α := (l.drop lo).take n

/-- TLRU (R257). -/
def lowRankUpdate (d a b : BitVec 7) : M Unit := do
  let x ← tileOperand d fun _ => true
  useRegs [a, b]
  let t ← getS
  let pa := t.purse (t.purseName a)
  let pb := t.purse (t.purseName b)
  let c ← tagCode (t.purse x.base).tag Code.isFp32
  let _ ← tagCode pa.tag Code.isFp32
  let _ ← tagCode pb.tag Code.isFp32
  let n := min (min (min 4096 (pa.fill / 32) / x.m) (min 4096 (pb.fill / 32) / x.n)) 32
  if n = 0 then return ()
  let ra := pa.codes32 (n * x.m)
  let rb := pb.codes32 (n * x.n)
  let tarn := t.groupTarn x.base x.gl || pa.tarn || pb.tarn
  if x.pair && decide (x.q + n ≤ x.qres) then
    let more := (List.range n).flatMap fun i => slice ra (i * x.m) x.m ++ slice rb (i * x.n) x.n
    storeTile { x with q := x.q + n } (t.tileCodes x 0 ((x.m + x.n) * x.q) ++ more) tarn 0
  else
    let (y, dv, used) ← denseTarget c x
    let dr := t.drawOf c
    let us := (List.range n).map fun i => (slice ra (i * x.m) x.m).map Fmt.fp32.decode
    let vs := (List.range n).map fun i => (slice rb (i * x.n) x.n).map Fmt.fp32.decode
    let out := (List.range (x.m * x.n)).zip dv |>.map fun (e, v) =>
      let s := treeSum c dr (e * 2 ^ 20) (products (rowOf us (e / x.n)) (rowOf vs (e % x.n)))
      let r := addRound c dr (e * 2 ^ 20) v.1 s.1
      (r.1, v.2 ||| s.2 ||| r.2)
    storeTile y (codeBits c dr out) (tarn || (used && t.ctl.tmode.tarn)) (flagsOf out)

/-- TADD (R258). -/
def addTile (d a : BitVec 7) : M Unit := do
  let x ← tileOperand d fun _ => true
  let z ← tileOperand a fun z => z.m = x.m && z.n = x.n
  let c ← tileCode x
  let cz ← tileCode z
  let t ← getS
  let tarn := t.groupTarn x.base x.gl || t.groupTarn z.base z.gl
  if x.pair && z.pair && decide (x.q + z.q ≤ x.qres) then
    storeTile { x with q := x.q + z.q } (t.tileCodes x 0 ((x.m + x.n) * x.q) ++ t.tileCodes z 0 ((x.m + x.n) * z.q)) tarn 0
  else
    let (y, dv, used) ← denseTarget c x
    let dr := t.drawOf c
    let zs := t.denseVals cz z 0 (x.m * x.n)
    let out := (List.range (x.m * x.n)).zip (dv.zip zs) |>.map fun (e, v, w) =>
      let r := addRound c dr (if z.pair then e * 2 ^ 20 else e) v.1 w.1
      (r.1, v.2 ||| w.2 ||| r.2)
    storeTile y (codeBits c dr out) (tarn || (used && t.ctl.tmode.tarn)) (flagsOf out)

/-! ## TRECOMP (R261) -/

/-- The code of R261's arithmetic: FP32 under RNE. -/
def fp32Rne : Code := { kind := 2, wid := 0, p := 0, rm := 0, sat := false, scm := false }

def rneDraw : Draw := { mode := .rne, seed := 0, srb := 0 }

/-- A computation that gathers flags. -/
abbrev FM := StateM Flags

/-- fl(·): one correctly rounded operation. -/
def fl (x : Ex) : FM Ex := do
  let r := fp32Rne.rd rneDraw 0 x
  modify (· ||| r.2)
  return r.1

/-- dot(x, y). -/
def dot (x y : List Ex) : FM Ex := do
  let r := treeSum fp32Rne rneDraw 0 (products x y)
  modify (· ||| r.2)
  return r.1

/-- fma(x, y, z) in lockstep over two lists: `neg` negates the product. -/
def fmaCols (s : Ex) : List Ex → List Ex → FM (List Ex)
  | x :: xs, y :: ys => do
    let v ← fl (Ex.fma false false false s x y)
    return v :: (← fmaCols s xs ys)
  | _, _ => return []

/-- fl(c × x) over a list. -/
def mulCol (c : Ex) : List Ex → FM (List Ex)
  | [] => return []
  | x :: xs => do
    let v ← fl (Ex.mul c x)
    return v :: (← mulCol c xs)

/-- fl(x / c) over a list. -/
def divCol (c : Ex) : List Ex → FM (List Ex)
  | [] => return []
  | x :: xs => do
    let v ← fl (Ex.div x c)
    return v :: (← divCol c xs)

/-- One column against the columns kept so far: what is left of it, and its coefficients. -/
def orthogonal : List (List Ex) → List Ex → FM (List Ex × List Ex)
  | [], w => return (w, [])
  | q :: qs, w => do
    let rho ← dot q w
    let w ← fmaCols rho.neg q w
    let (v, rs) ← orthogonal qs w
    return (v, rho :: rs)

/-- 2^−100. -/
def tiny : Ex := .fin false 1 (-100) false

/-- mgs: the columns kept, and for each source column its coefficients on them, the last one ν when it was kept. -/
def mgs : List (List Ex) → List (List Ex) → FM (List (List Ex) × List (List Ex))
  | qs, [] => return (qs, [])
  | qs, x :: xs => do
    let (w, rs) ← orthogonal qs x
    let nu ← fl (Special.apply .sqrt (← dot w w))
    if Ex.order nu tiny = some .gt then
      let q ← divCol nu w
      let (all, rest) ← mgs (qs ++ [q]) xs
      return (all, (rs ++ [nu]) :: rest)
    else
      let (all, rest) ← mgs qs xs
      return (all, rs :: rest)

/-- Row `p` of Rm: entries never set are +0. -/
def coefficients (rm : List (List Ex)) (p : Nat) : List Ex := rm.map fun c => c.getD p (.zero false)

/-- The rotation that a pair of columns asks for, `none` when γ = 0. -/
def rotation (si sj : List Ex) : FM (Option (Ex × Ex)) := do
  let al ← dot si si
  let be ← dot sj sj
  let ga ← dot si sj
  if ga.isZero then return none
  let one : Ex := .fin false 1 0 false
  let num ← fl (Ex.add false be al.neg)
  let den ← fl (Ex.mul (.fin false 1 1 false) ga)
  let z ← fl (Ex.div num den)
  let root ← fl (Special.apply .sqrt (← fl (Ex.fma false false false z z one)))
  let sum ← fl (Ex.add false z.abs root)
  let tau ← fl (Ex.div (if Ex.order z (.zero false) = some .lt then one.neg else one) sum)
  let cs ← fl (Special.apply .rsqrt (← fl (Ex.fma false false false tau tau one)))
  let sn ← fl (Ex.mul cs tau)
  return some (cs, sn)

/-- Rotate columns i and j of a matrix. -/
def rotate (cs sn : Ex) (i j : Nat) (m : List (List Ex)) : FM (List (List Ex)) := do
  let x := m.getD i []
  let y := m.getD j []
  let ny ← mulCol sn.neg y
  let cy ← mulCol cs y
  let xi ← fmaCols cs x ny
  let xj ← fmaCols sn x cy
  return (m.set i xi).set j xj

/-- The rotations of a list of pairs of columns. -/
def sweepPairs : List (Nat × Nat) → List (List Ex) → List (List Ex) → FM (List (List Ex) × List (List Ex))
  | [], s, j => return (s, j)
  | (p, q) :: ps, s, j => do
    match ← rotation (s.getD p []) (s.getD q []) with
    | none => sweepPairs ps s j
    | some (cs, sn) => do
      let s1 ← rotate cs sn p q s
      let j1 ← rotate cs sn p q j
      sweepPairs ps s1 j1

/-- Pairs of one sweep, in order. -/
def pairsOf (k : Nat) : List (Nat × Nat) := (List.range k).flatMap fun i => ((List.range k).filter (i < ·)).map fun j => (i, j)

/-- σ of every column. -/
def sigmas : List (List Ex) → FM (List Ex)
  | [] => return []
  | c :: cs => do
    let s ← fl (Special.apply .sqrt (← dot c c))
    return s :: (← sigmas cs)

/-- σ is at least τ for the order of R261; `high` places a NaN above every number (log 21). -/
def sigmaGe (high : Bool) (x y : Ex) : Bool :=
  if x.isNan then high || y.isNan else if y.isNan then !high else Ex.cmp x y != .lt

/-- Insert into a list in falling order, behind its equals. -/
def insertSigma (high : Bool) (x : Nat × Ex) : List (Nat × Ex) → List (Nat × Ex)
  | [] => [x]
  | y :: ys => if sigmaGe high y.2 x.2 then y :: insertSigma high x ys else x :: y :: ys

/-- The matrix with the given columns, applied to a column of coefficients: row r is the tree sum over the columns. -/
def combine (cols : List (List Ex)) (coef : List Ex) : Nat → Nat → FM (List Ex)
  | 0, _ => return []
  | n + 1, r => do
    let v ← dot (rowOf cols r) coef
    return v :: (← combine cols coef n (r + 1))

/-- FP32 codes of exact values. -/
def encodeCol : List Ex → FM (List Nat)
  | [] => return []
  | x :: xs => do
    let (b, _, f) := fp32Rne.encodeElem rneDraw 0 x
    modify (· ||| f)
    return b :: (← encodeCol xs)

/-- The components of the kept columns. -/
def keptCodes (m n : Nat) (qu qv s j : List (List Ex)) : List Nat → FM (List Nat)
  | [] => return []
  | l :: ls => do
    let u ← combine qu (s.getD l []) m 0
    let v ← combine qv (j.getD l []) n 0
    let cu ← encodeCol u
    let cv ← encodeCol v
    return cu ++ cv ++ (← keptCodes m n qu qv s j ls)

/-- S: entry (i, l) is the tree sum over t of Ru[i][t] × Rv[l][t]; a list of its columns. -/
def couple (ru rv : List (List Ex)) (ku : Nat) : List Nat → FM (List (List Ex))
  | [] => return []
  | l :: ls => do
    let rec col : List Nat → FM (List Ex)
      | [] => return []
      | i :: is => do
        let v ← dot (coefficients ru i) (coefficients rv l)
        return v :: (← col is)
    let c ← col (List.range ku)
    return c :: (← couple ru rv ku ls)

/-- `n` Jacobi sweeps. -/
def sweeps (k : Nat) : Nat → List (List Ex) → List (List Ex) → FM (List (List Ex) × List (List Ex))
  | 0, s, j => return (s, j)
  | n + 1, s, j => do
    let (s1, j1) ← sweepPairs (pairsOf k) s j
    sweeps k n s1 j1

/-- The leading entries of an order whose σ exceeds θ. -/
def leading (theta : Ex) : List (Nat × Ex) → List Nat
  | [] => []
  | (l, s) :: ls => if Ex.order s theta = some .gt then l :: leading theta ls else []

/-- R261's computation: the components kept and their number, and whether some σ is NaN. -/
def recompress (high : Bool) (tol : Ex) (qres m n : Nat) (us vs : List (List Ex)) : FM (List Nat × Nat × Bool) := do
  let (qu, ru) ← mgs [] us
  let (qv, rv) ← mgs [] vs
  let kv := qv.length
  if qu = [] || qv = [] then return ([], 0, false)
  let s ← couple ru rv qu.length (List.range kv)
  let one : Ex := .fin false 1 0 false
  let id := (List.range kv).map fun l => (List.range kv).map fun i => if i = l then one else .zero false
  let (s, j) ← sweeps kv 6 s id
  let sig ← sigmas s
  let order := ((List.range kv).zip sig).foldl (fun o x => insertSigma high x o) []
  let theta ← fl (Ex.mul tol ((order.headD (0, .zero false)).2))
  let kept := (leading theta order).take qres
  let codes ← keptCodes m n qu qv s j kept
  return (codes, kept.length, sig.any Ex.isNan)

/-- T of R261: TOL, or 0 when it is NaN or negative. -/
def tolValue (w : Word) : Ex :=
  match Fmt.fp32.decode (getBits w 0 32) with
  | .nan _ => .zero false
  | .inf n => if n then .zero false else .inf false
  | .fin n m e k => if n then .zero false else .fin n m e k
  | x => x

/-- TRECOMP (R261). -/
def recompressTile (d : BitVec 7) : M Unit := do
  let x ← tileOperand d fun _ => true
  let _ ← tileCode x
  let s ← get
  let t := s.strand
  if !x.pair || x.q = 0 then return ()
  let (us, vs) := t.factors x
  let odd := (us ++ vs).any fun c => c.any fun v => match v with | .fin _ _ _ _ => false | _ => true
  if odd then modS fun u => u.sticky .nv (t.groupTarn x.base x.gl)
  else
    let tarn := t.groupTarn x.base x.gl || t.ctl.tol.tarn
    let ((codes, q, nan), f) := recompress (Config.pick s.fresh % 2 = 1) (tolValue t.ctl.tol.val) x.qres x.m x.n us vs 0
    if nan then set { s with fresh := s.fresh + 1 }
    storeTile { x with q := q } codes tarn f

/-! ## TDENSE, TRANK, TSCALE, TCVT (R256, R262 to R264) -/

/-- TDENSE (R262). In place, the headers of purses of the old group behind the dense one become 0 (DESIGN CHOICE, log 52). -/
def densify (d a : BitVec 7) : M Unit := do
  let z ← tileOperand a fun _ => true
  let t ← getS
  let base := t.purseName d
  let gl := t.denseGroup z.m z.n
  groupFits base gl
  let tag := (t.purse z.base).tag
  let c ← tagCode tag Code.isFp32
  let vals := t.denseVals c z 0 (z.m * z.n)
  let codes := if z.pair then codeBits c (t.drawOf c) vals else t.tileCodes z 0 (z.m * z.n)
  let tarn := t.groupTarn z.base z.gl || t.groupTarn base gl
  let y : Tile := { base := base, pair := false, qres := 0, q := 0, m := z.m, n := z.n, gl := gl }
  modS fun u => (((u.dissolve base gl (if base = z.base then none else some z.base)).declare y tag).writeTile y codes tarn).sticky (flagsOf vals) tarn

/-- TRANK (R263). -/
def rankOf (d a : BitVec 7) : M Unit := do
  useRegs [a]
  modS fun t => let p := t.purse (t.purseName a); t.setReg d { val := p.hdr0, tarn := p.tarn }

/-- TSCALE (R256). -/
def bindScales (a : BitVec 7) : M Unit :=
  modS fun t =>
    let r := t.reg a
    { t with ctl := ({ t.ctl with tmode := { val := setBits t.ctl.tmode.val 18 32 (getBits r.val 0 32), tarn := r.tarn } }).seen r.tarn }

/-- The tile that purse `k` is a base or a member of. -/
def Strand.tileOver (t : Strand) (k : Nat) : Option Tile :=
  let h := (t.purse k).hdr0
  if headerRole h = 1 then t.tile? k
  else if headerRole h = 2 then (t.tile? (headerBase h)).filter fun x => decide (x.base ≤ k) && decide (k < x.base + x.gl)
  else none

/-- TCVT (R264). -/
def convertTile (d a : BitVec 7) : M Unit := do
  let t ← getS
  let k := t.purseName a
  match (if k < t.vregs then t.tileOver k else none) with
  | none => raise (tileTrap 0x02 k)
  | some x =>
    groupBelow x
    useRegs [d]
    let cd ← useCode d anyCode
    let c ← tileCode x
    let g := t.grant / 32
    let lo := (k - x.base) * g
    let n := min g (x.m * x.n - lo)
    let vals := t.denseVals c x lo n
    let tarn := if x.pair then t.groupTarn x.base x.gl else (t.purse k).tarn
    let pt := t.point.getD .start
    let cells := (vals.drop pt.j).map some
    let r ← depositCells { Mode.plain with amax := cd.hasAmax } d cd cd.isBlock cells tarn
    receipt r.e (32 * r.e) 0 r.od r.tarn

/-! ## The instructions -/

/-- TSHAPE (R251). -/
def execTshape (d a : BitVec 7) (s : State) : Host.Outcome State Fault Refusal := runStep true (grantShape d a) s

/-- TZERO (R252). -/
def execTzero (d : BitVec 7) (s : State) : Host.Outcome State Fault Refusal := runStep true (zeroTile d) s

/-- TMMA (R253, R254). -/
def execTmma (d a b : BitVec 7) (s : State) : Host.Outcome State Fault Refusal := runStep true (faultsFirst (multiply d a b)) s

/-- TLRU (R257). -/
def execTlru (d a b : BitVec 7) (_ca _cb : Bool) (s : State) : Host.Outcome State Fault Refusal := runStep true (lowRankUpdate d a b) s

/-- TMMAL (R259). -/
def execTmmal (d a b : BitVec 7) (s : State) : Host.Outcome State Fault Refusal := runStep true (faultsFirst (multiplyFactor d a b)) s

/-- TADD (R258). -/
def execTadd (d a : BitVec 7) (s : State) : Host.Outcome State Fault Refusal := runStep true (addTile d a) s

/-- TRECOMP (R261). -/
def execTrecomp (d : BitVec 7) (s : State) : Host.Outcome State Fault Refusal := runStep true (recompressTile d) s

/-- TDENSE (R262). -/
def execTdense (d a : BitVec 7) (s : State) : Host.Outcome State Fault Refusal := runStep true (densify d a) s

/-- TRANK (R263). -/
def execTrank (d a : BitVec 7) (s : State) : Host.Outcome State Fault Refusal := runStep true (rankOf d a) s

/-- TSCALE (R256). -/
def execTscale (a : BitVec 7) (s : State) : Host.Outcome State Fault Refusal := runStep true (bindScales a) s

/-- TDUP (R255). -/
def execTdup (d a : BitVec 7) (s : State) : Host.Outcome State Fault Refusal := runStep true (setMap d a) s

/-- TCVT (R264). -/
def execTcvt (d a : BitVec 7) (s : State) : Host.Outcome State Fault Refusal := runStep true (convertTile d a) s

end Sys2Proof.Machine
end

