-- ==== Sys2Proof/Machine/Reduce.lean ====
section
/-! DEFINITION. The base-die reduction engines (R356 to R359). An event performs one whole command. -/

namespace Sys2Proof.Machine

/-- Read a range as an engine, line by line. -/
def engineReadRange (c : Cmd) (phys : Bool) : Nat → Nat → Nat → E (List (Byte × Bool × Bool))
  | 0, _, _ => return []
  | fuel + 1, va, n => do
    if n = 0 then return []
    let k := min (lineRoom va) n
    let bs ← engineRead c phys va k
    let rest ← engineReadRange c phys fuel ((va + k) % 2 ^ 64) (n - k)
    return bs ++ rest

/-- Write a command's kept result bytes at an address, from where it has been written to. -/
def writeResult (id base total : Nat) : Nat → E Unit
  | 0 => return ()
  | fuel + 1 => do
    match (← get).cmd? id with
    | none => return ()
    | some c =>
      if total ≤ c.done then return ()
      let a := (base + c.done) % 2 ^ 64
      let n := min (lineRoom a) (total - c.done)
      let x ← engineReach c c.phys a .write
      engineWriteAt c c.phys a x.key ((c.snap.drop c.done).take n)
      modify fun s => s.updateCmd id fun c => { c with done := c.done + n, wrote := c.wrote ++ [(x.key, n)] }
      writeResult id base total fuel

/-! ## The parameter block (R356, R357) -/

/-- A parameter block's fields. -/
structure Params where
  nsrc : Nat
  code : Nat
  opr  : Nat
  len  : Nat
  dst  : Nat
  srcs : List Nat
  deriving DecidableEq, Repr

/-- Bytes per element. -/
def Params.size (p : Params) : Nat := if p.code = 1 then 2 else 4

/-- Read the fields of 256 bytes; `none` when a reserved field is nonzero or a value lies outside its range, or DST is misaligned. -/
def Params.read? (bs : List Byte) : Option Params :=
  let f := fun (o n : Nat) => leNat ((bs.drop o).take n)
  let n := f 0 1
  let p : Params := { nsrc := n, code := f 1 1, opr := f 2 1, len := f 8 8, dst := f 16 8, srcs := (List.range n).map fun i => f (64 + 8 * i) 8 }
  let ok := decide (1 ≤ n ∧ n ≤ 16) && decide (p.code ≤ 2) && decide (p.opr ≤ 2) && decide (p.len ≤ 2 ^ 32) && decide (p.len % 4 = 0) &&
    decide (f 3 5 = 0) && decide (f 24 40 = 0) && decide (f 192 64 = 0) && decide (p.dst % p.size = 0)
  if ok then some p else none

/-- Translate every page of a buffer: each must be translated HBM memory of the package. -/
def reachPages (c : Cmd) (bad : EngStop) (a : Access) (base len : Nat) : List Nat → E Unit
  | [] => return ()
  | i :: is => do
    let x ← engineReach c c.phys ((max base ((base / 4096 + i) * 4096)) % 2 ^ 64) a
    match regionOf x.key with
    | .hbm _ => reachPages c bad a base len is
    | _ => throw bad

/-- Pages that a buffer touches. -/
def pageCount (base len : Nat) : Nat := if len = 0 then 0 else (base + len - 1) / 4096 - base / 4096 + 1

/-- Every page of every source, then of the destination. -/
def reachBuffers (c : Cmd) (bad : EngStop) (p : Params) : List Nat → E Unit
  | [] => reachPages c bad .write p.dst p.len (List.range (pageCount p.dst p.len))
  | b :: bs => do
    reachPages c bad .read b p.len (List.range (pageCount b p.len))
    reachBuffers c bad p bs

/-! ## The tree (R358) -/

/-- comb of two elements' bits. -/
def Params.comb (p : Params) (y z : Nat) : Nat :=
  let rne : Draw := { mode := .rne, seed := 0, srb := 0 }
  if p.code = 2 then
    match p.opr with
    | 0 => (y + z) % 2 ^ 32
    | 1 => if signed 32 y ≤ signed 32 z then z else y
    | _ => if signed 32 y ≤ signed 32 z then y else z
  else
    let f : Fmt := if p.code = 0 then .fp32 else .bf16
    if p.opr = 0 then (fadd f y z).1
    else (f.encode rne false 0 (Ex.pick (decide (p.opr = 1)) (f.decode y) (f.decode z)).1.quieted).1

/-- red over the sources in list order; the padding's absent operands leave the largest power of two to the left. -/
def Params.red (p : Params) : Nat → List Nat → Nat
  | 0, _ => 0
  | _, [] => 0
  | _, [x] => x
  | fuel + 1, xs => p.comb (p.red fuel (xs.take (splitAt2 xs.length))) (p.red fuel (xs.drop (splitAt2 xs.length)))

/-- A byte of element data with its tarnish and poison. -/
abbrev Marked := Byte × Bool × Bool

/-- One result element from every source's bytes. -/
def Params.element (p : Params) (xs : List (List Marked)) : List Marked :=
  let t := xs.any fun b => b.any (·.2.1)
  let q := xs.any fun b => b.any (·.2.2)
  (leBytes p.size (p.red 5 (xs.map fun b => leNat (b.map (·.1))))).map fun b => (b, t, q)

/-- Every result element in order. -/
def Params.elements (p : Params) : Nat → List (List Marked) → List Marked
  | 0, _ => []
  | n + 1, xs => p.element (xs.map (·.take p.size)) ++ p.elements n (xs.map (·.drop p.size))

/-- Read every source whole. -/
def readSources (c : Cmd) (len : Nat) : List Nat → E (List (List Marked))
  | [] => return []
  | a :: as => do
    let b ← engineReadRange c c.phys len a len
    return b :: (← readSources c len as)

/-- REDUCE (R356 to R358). A command that goes on after it had begun to write keeps the result it computed from the sources as they stood. -/
def performReduce (c : Cmd) : E CmdPhase := do
  if c.snap ≠ [] then
    writeResult c.id c.dest.2.1 c.dest.2.2 c.dest.2.2
    return .performed
  let bad : EngStop := .owe 0x21 1 (BitVec.ofNat 64 (c.dword 8))
  let blk ← engineReadRange c c.phys 256 (c.dword 8) 256
  match Params.read? (blk.map (·.1)) with
  | none => throw bad
  | some p =>
    reachBuffers c bad p p.srcs
    let xs ← readSources c p.len p.srcs
    let poisoned := blk.any (·.2.2)
    let out := (p.elements (p.len / p.size) xs).map fun b => (b.1, b.2.1, b.2.2 || poisoned)
    modify fun s => s.updateCmd c.id fun c => { c with snap := out, dest := (c.phys, p.dst, p.len) }
    writeResult c.id p.dst p.len p.len
    return .performed

/-- REDUCE (R358): the engine of a stack performs the command at the head of its queue. -/
def execReduce (stack : Nat) (s : State) : Host.Outcome State Fault Refusal :=
  let q := 16 + stack
  if 8 ≤ stack || s.frozenQ.contains q then .next s
  else
    match s.nextQueued q with
    | some c =>
      -- one command at a time, in acceptance order
      if s.cmds.any fun o => o.queue = q && decide (o.id < c.id) && (match o.phase with | .faulted _ => true | _ => false) then .next s
      else .next (s.workChecked c performReduce)
    | none => .next s

end Sys2Proof.Machine
end

