-- ==== Sys2Proof/Machine/Scalar.lean ====
section
/-! DEFINITION. Scalar arithmetic: majors 0x01 to 0x0C (R99 to R107). Every meaning is one of the shared shapes below over the
function of its row. -/

namespace Sys2Proof.Machine

/-- An instruction's result: s[d] := v, tarnished as given, and the pc advances. -/
def State.result (s : State) (d : BitVec 7) (v : Word) (t : Bool) : State :=
  s.mapStrand fun u => (u.setReg d { val := v, tarn := t }).advance

/-- s[d] := f(s[a], s[b]) (R99, R102). -/
def binary (f : Word → Word → Word) (d a b : BitVec 7) (s : State) : Host.Outcome State Fault Refusal :=
  .next (s.result d (f (s.strand.reg a).val (s.strand.reg b).val) ((s.strand.reg a).tarn || (s.strand.reg b).tarn))

/-- s[d] := f(s[a]) (R104 to R106). -/
def unary (f : Word → Word) (d a : BitVec 7) (s : State) : Host.Outcome State Fault Refusal :=
  .next (s.result d (f (s.strand.reg a).val) (s.strand.reg a).tarn)

/-- A division: its result and the sticky flag it raises (R103). -/
def division (f : Word → Word → Word × Flags) (d a b : BitVec 7) (s : State) : Host.Outcome State Fault Refusal :=
  let x := s.strand.reg a
  let y := s.strand.reg b
  let r := f x.val y.val
  .next ((s.mapStrand fun t => t.sticky r.2 (x.tarn || y.tarn)).result d r.1 (x.tarn || y.tarn))

/-- 1 or 0 (R102). -/
def ofBool (c : Bool) : Word := if c then 1 else 0

/-- A shift amount: bits [5:0] (R102). -/
def amount (b : Word) : Nat := b.toNat % 64

/-- floor(x / 2^64) mod 2^64 (R103). -/
def high (x : Int) : Word := BitVec.ofInt 64 (x / 2 ^ 64)

/-- Number of one bits. -/
def ones (a : Word) : Nat := ((List.range 64).filter fun i => a.getLsbD i).length

/-- Number of leading zero bits, 64 for zero. -/
def leadingZeros (a : Word) : Nat := if a = 0 then 64 else 63 - Nat.log2 a.toNat

/-- Number of trailing zero bits, 64 for zero. -/
def trailingZeros (a : Word) : Nat := if a = 0 then 64 else ctz a.toNat

/-- Byte i placed at byte 7 − i. -/
def byteSwap (a : Word) : Word := BitVec.ofNat 64 (leNat (leBytes 8 a.toNat).reverse)

/-- DIV (R103). -/
def divS (a b : Word) : Word × Flags :=
  if b = 0 then (BitVec.allOnes 64, .dz)
  else if a = BitVec.intMin 64 ∧ b = BitVec.allOnes 64 then (BitVec.intMin 64, .of)
  else (BitVec.ofInt 64 (Int.tdiv a.toInt b.toInt), 0)

/-- DIVU (R103). -/
def divU (a b : Word) : Word × Flags := if b = 0 then (BitVec.allOnes 64, .dz) else (a / b, 0)

/-- REM: the remainder takes the dividend's sign (R103). -/
def remS (a b : Word) : Word × Flags :=
  if b = 0 then (a, .dz)
  else if a = BitVec.intMin 64 ∧ b = BitVec.allOnes 64 then (0, .of)
  else (BitVec.ofInt 64 (Int.tmod a.toInt b.toInt), 0)

/-- REMU (R103). -/
def remU (a b : Word) : Word × Flags := if b = 0 then (a, .dz) else (a % b, 0)

/-- ADD (R102). -/
def execAdd (d a b : BitVec 7) (s : State) : Host.Outcome State Fault Refusal :=
  binary (fun a b => a + b) d a b s

/-- SUB (R102). -/
def execSub (d a b : BitVec 7) (s : State) : Host.Outcome State Fault Refusal :=
  binary (fun a b => a - b) d a b s

/-- AND (R102). -/
def execAnd (d a b : BitVec 7) (s : State) : Host.Outcome State Fault Refusal :=
  binary (fun a b => a &&& b) d a b s

/-- OR (R102). -/
def execOr (d a b : BitVec 7) (s : State) : Host.Outcome State Fault Refusal :=
  binary (fun a b => a ||| b) d a b s

/-- XOR (R102). -/
def execXor (d a b : BitVec 7) (s : State) : Host.Outcome State Fault Refusal :=
  binary (fun a b => a ^^^ b) d a b s

/-- ANDN (R102). -/
def execAndn (d a b : BitVec 7) (s : State) : Host.Outcome State Fault Refusal :=
  binary (fun a b => a &&& ~~~b) d a b s

/-- ORN (R102). -/
def execOrn (d a b : BitVec 7) (s : State) : Host.Outcome State Fault Refusal :=
  binary (fun a b => a ||| ~~~b) d a b s

/-- XNOR (R102). -/
def execXnor (d a b : BitVec 7) (s : State) : Host.Outcome State Fault Refusal :=
  binary (fun a b => ~~~(a ^^^ b)) d a b s

/-- SLL (R102). -/
def execSll (d a b : BitVec 7) (s : State) : Host.Outcome State Fault Refusal :=
  binary (fun a b => a <<< amount b) d a b s

/-- SRL (R102). -/
def execSrl (d a b : BitVec 7) (s : State) : Host.Outcome State Fault Refusal :=
  binary (fun a b => a >>> amount b) d a b s

/-- SRA (R102). -/
def execSra (d a b : BitVec 7) (s : State) : Host.Outcome State Fault Refusal :=
  binary (fun a b => a.sshiftRight (amount b)) d a b s

/-- ROL (R102). -/
def execRol (d a b : BitVec 7) (s : State) : Host.Outcome State Fault Refusal :=
  binary (fun a b => a.rotateLeft (amount b)) d a b s

/-- ROR (R102). -/
def execRor (d a b : BitVec 7) (s : State) : Host.Outcome State Fault Refusal :=
  binary (fun a b => a.rotateRight (amount b)) d a b s

/-- SLT (R102). -/
def execSlt (d a b : BitVec 7) (s : State) : Host.Outcome State Fault Refusal :=
  binary (fun a b => ofBool (a.slt b)) d a b s

/-- SLTU (R102). -/
def execSltu (d a b : BitVec 7) (s : State) : Host.Outcome State Fault Refusal :=
  binary (fun a b => ofBool (a.ult b)) d a b s

/-- SEQ (R102). -/
def execSeq (d a b : BitVec 7) (s : State) : Host.Outcome State Fault Refusal :=
  binary (fun a b => ofBool (a == b)) d a b s

/-- SNE (R102). -/
def execSne (d a b : BitVec 7) (s : State) : Host.Outcome State Fault Refusal :=
  binary (fun a b => ofBool (a != b)) d a b s

/-- MIN (R102). -/
def execMin (d a b : BitVec 7) (s : State) : Host.Outcome State Fault Refusal :=
  binary (fun a b => if a.sle b then a else b) d a b s

/-- MAX (R102). -/
def execMax (d a b : BitVec 7) (s : State) : Host.Outcome State Fault Refusal :=
  binary (fun a b => if b.sle a then a else b) d a b s

/-- MINU (R102). -/
def execMinu (d a b : BitVec 7) (s : State) : Host.Outcome State Fault Refusal :=
  binary (fun a b => if a.ule b then a else b) d a b s

/-- MAXU (R102). -/
def execMaxu (d a b : BitVec 7) (s : State) : Host.Outcome State Fault Refusal :=
  binary (fun a b => if b.ule a then a else b) d a b s

/-- MUL: the low half of sx(a) × sx(b) (R103). -/
def execMul (d a b : BitVec 7) (s : State) : Host.Outcome State Fault Refusal :=
  binary (fun a b => a * b) d a b s

/-- MULH: floor(sx(a) × sx(b) / 2^64) (R103). -/
def execMulh (d a b : BitVec 7) (s : State) : Host.Outcome State Fault Refusal :=
  binary (fun a b => high (a.toInt * b.toInt)) d a b s

/-- MULHU: floor(ux(a) × ux(b) / 2^64) (R103). -/
def execMulhu (d a b : BitVec 7) (s : State) : Host.Outcome State Fault Refusal :=
  binary (fun a b => high (a.toNat * b.toNat)) d a b s

/-- MULHSU: floor(sx(a) × ux(b) / 2^64) (R103). -/
def execMulhsu (d a b : BitVec 7) (s : State) : Host.Outcome State Fault Refusal :=
  binary (fun a b => high (a.toInt * b.toNat)) d a b s

/-- DIV (R103). -/
def execDiv (d a b : BitVec 7) (s : State) : Host.Outcome State Fault Refusal :=
  division divS d a b s

/-- DIVU (R103). -/
def execDivu (d a b : BitVec 7) (s : State) : Host.Outcome State Fault Refusal :=
  division divU d a b s

/-- REM (R103). -/
def execRem (d a b : BitVec 7) (s : State) : Host.Outcome State Fault Refusal :=
  division remS d a b s

/-- REMU (R103). -/
def execRemu (d a b : BitVec 7) (s : State) : Host.Outcome State Fault Refusal :=
  division remU d a b s

/-- CLZ: leading zero bits, 64 for zero (R104). -/
def execClz (d a : BitVec 7) (s : State) : Host.Outcome State Fault Refusal :=
  unary (fun a => BitVec.ofNat 64 (leadingZeros a)) d a s

/-- CTZ: trailing zero bits, 64 for zero (R104). -/
def execCtz (d a : BitVec 7) (s : State) : Host.Outcome State Fault Refusal :=
  unary (fun a => BitVec.ofNat 64 (trailingZeros a)) d a s

/-- POPC: one bits (R104). -/
def execPopc (d a : BitVec 7) (s : State) : Host.Outcome State Fault Refusal :=
  unary (fun a => BitVec.ofNat 64 (ones a)) d a s

/-- BREV: bit i placed at bit 63 − i (R104). -/
def execBrev (d a : BitVec 7) (s : State) : Host.Outcome State Fault Refusal :=
  unary (fun a => a.reverse) d a s

/-- BSWAP: byte i placed at byte 7 − i (R104). -/
def execBswap (d a : BitVec 7) (s : State) : Host.Outcome State Fault Refusal :=
  unary (fun a => byteSwap a) d a s

/-- SEXTB: bits [7:0] sign-extended (R104). -/
def execSextb (d a : BitVec 7) (s : State) : Host.Outcome State Fault Refusal :=
  unary (fun a => (a.setWidth 8).signExtend 64) d a s

/-- SEXTH: bits [15:0] sign-extended (R104). -/
def execSexth (d a : BitVec 7) (s : State) : Host.Outcome State Fault Refusal :=
  unary (fun a => (a.setWidth 16).signExtend 64) d a s

/-- SEXTW: bits [31:0] sign-extended (R104). -/
def execSextw (d a : BitVec 7) (s : State) : Host.Outcome State Fault Refusal :=
  unary (fun a => (a.setWidth 32).signExtend 64) d a s

/-- ADDI (R105). -/
def execAddi (d a : BitVec 7) (imm : BitVec 12) (s : State) : Host.Outcome State Fault Refusal :=
  let i := simm imm
  unary (fun a => a + i) d a s

/-- ANDI (R105). -/
def execAndi (d a : BitVec 7) (imm : BitVec 12) (s : State) : Host.Outcome State Fault Refusal :=
  let i := simm imm
  unary (fun a => a &&& i) d a s

/-- ORI (R105). -/
def execOri (d a : BitVec 7) (imm : BitVec 12) (s : State) : Host.Outcome State Fault Refusal :=
  let i := simm imm
  unary (fun a => a ||| i) d a s

/-- XORI (R105). -/
def execXori (d a : BitVec 7) (imm : BitVec 12) (s : State) : Host.Outcome State Fault Refusal :=
  let i := simm imm
  unary (fun a => a ^^^ i) d a s

/-- SLTI (R105). -/
def execSlti (d a : BitVec 7) (imm : BitVec 12) (s : State) : Host.Outcome State Fault Refusal :=
  let i := simm imm
  unary (fun a => ofBool (a.slt i)) d a s

/-- SLTUI (R105). -/
def execSltui (d a : BitVec 7) (imm : BitVec 12) (s : State) : Host.Outcome State Fault Refusal :=
  let i := simm imm
  unary (fun a => ofBool (a.ult i)) d a s

/-- SLLI (R106). -/
def execSlli (d a : BitVec 7) (amt : BitVec 6) (s : State) : Host.Outcome State Fault Refusal :=
  let m := amt.toNat
  unary (fun a => a <<< m) d a s

/-- SRLI (R106). -/
def execSrli (d a : BitVec 7) (amt : BitVec 6) (s : State) : Host.Outcome State Fault Refusal :=
  let m := amt.toNat
  unary (fun a => a >>> m) d a s

/-- SRAI (R106). -/
def execSrai (d a : BitVec 7) (amt : BitVec 6) (s : State) : Host.Outcome State Fault Refusal :=
  let m := amt.toNat
  unary (fun a => a.sshiftRight m) d a s

/-- RORI (R106). -/
def execRori (d a : BitVec 7) (amt : BitVec 6) (s : State) : Host.Outcome State Fault Refusal :=
  let m := amt.toNat
  unary (fun a => a.rotateRight m) d a s

/-- LIH: sext(imm19) × 2^12, never tarnished (R107). -/
def execLih (d : BitVec 7) (imm : BitVec 19) (s : State) : Host.Outcome State Fault Refusal :=
  .next (s.result d (upper imm) false)

/-- PCADD: (PC + sext(imm19) × 2^12) mod 2^52, never tarnished (R107). -/
def execPcadd (d : BitVec 7) (imm : BitVec 19) (s : State) : Host.Outcome State Fault Refusal :=
  .next (s.result d ((s.strand.pc + (upper imm).setWidth 52).setWidth 64) false)

end Sys2Proof.Machine
end

