-- ==== Sys2Proof/Machine/ScalarMem.lean ====
section
/-! DEFINITION. Scalar loads and stores: majors 0x0D to 0x0F (R108 to R113). -/

namespace Sys2Proof.Machine

/-- A load of `2^lz` bytes at `va` into s[d], sign- or zero-extended; s[d] takes the tarnish of s[a], the line and an unobserved
transfer (R109). -/
def loadInto (lz : Nat) (sx : Bool) (d a : BitVec 7) (va : Word) : M Unit := do
  let t ← getS
  let x ← accessCheck .read va (2 ^ lz)
  let (v, b) ← loadBytes x va (2 ^ lz) []
  modS fun u => u.setReg d { val := if sx then signExtBytes (2 ^ lz) v else BitVec.ofNat 64 v, tarn := (t.reg a).tarn || b }

/-- An LDA: a load that zero-extends, with the ordering of its scope (R112, R113). -/
def loadAcquireInto (lz scope : Nat) (d a : BitVec 7) (va : Word) : M Unit := do
  let t ← getS
  let x ← accessCheck .read va (2 ^ lz)
  let (v, b) ← loadAcquire x va (2 ^ lz) scope
  modS fun u => u.setReg d { val := BitVec.ofNat 64 v, tarn := (t.reg a).tarn || b }

/-- A store of the low `2^lz` bytes of s[b] at `va` (R110). -/
def storeFrom (lz : Nat) (b a : BitVec 7) (va : Word) : M Unit := do
  let t ← getS
  let x ← accessCheck .write va (2 ^ lz)
  let w := (t.reg b).tarn || (t.reg a).tarn
  cleanCheck va.toNat (2 ^ lz) w
  storeBytes x va (2 ^ lz) (t.reg b).val.toNat w

/-- An STL: behind the checks comes what its scope asks for, then the store (R112, R113). -/
def storeReleaseFrom (lz scope : Nat) (b a : BitVec 7) (va : Word) : M Unit := do
  let t ← getS
  let x ← accessCheck .write va (2 ^ lz)
  let w := (t.reg b).tarn || (t.reg a).tarn
  cleanCheck va.toNat (2 ^ lz) w
  releaseHere scope
  storeBytes x va (2 ^ lz) (t.reg b).val.toNat w

/-- LDB (R109). -/
def execLdb (d a : BitVec 7) (off : BitVec 9) (s : State) : Host.Outcome State Fault Refusal :=
  runStep false (loadInto 0 true d a (s.strand.ea a off 0)) s

/-- LDH (R109). -/
def execLdh (d a : BitVec 7) (off : BitVec 9) (s : State) : Host.Outcome State Fault Refusal :=
  runStep false (loadInto 1 true d a (s.strand.ea a off 1)) s

/-- LDW (R109). -/
def execLdw (d a : BitVec 7) (off : BitVec 9) (s : State) : Host.Outcome State Fault Refusal :=
  runStep false (loadInto 2 true d a (s.strand.ea a off 2)) s

/-- LDD (R109). -/
def execLdd (d a : BitVec 7) (off : BitVec 9) (s : State) : Host.Outcome State Fault Refusal :=
  runStep false (loadInto 3 false d a (s.strand.ea a off 3)) s

/-- LDBU (R109). -/
def execLdbu (d a : BitVec 7) (off : BitVec 9) (s : State) : Host.Outcome State Fault Refusal :=
  runStep false (loadInto 0 false d a (s.strand.ea a off 0)) s

/-- LDHU (R109). -/
def execLdhu (d a : BitVec 7) (off : BitVec 9) (s : State) : Host.Outcome State Fault Refusal :=
  runStep false (loadInto 1 false d a (s.strand.ea a off 1)) s

/-- LDWU (R109). -/
def execLdwu (d a : BitVec 7) (off : BitVec 9) (s : State) : Host.Outcome State Fault Refusal :=
  runStep false (loadInto 2 false d a (s.strand.ea a off 2)) s

/-- STB (R110). -/
def execStb (b a : BitVec 7) (off : BitVec 9) (s : State) : Host.Outcome State Fault Refusal :=
  runStep false (storeFrom 0 b a (s.strand.ea a off 0)) s

/-- STH (R110). -/
def execSth (b a : BitVec 7) (off : BitVec 9) (s : State) : Host.Outcome State Fault Refusal :=
  runStep false (storeFrom 1 b a (s.strand.ea a off 1)) s

/-- STW (R110). -/
def execStw (b a : BitVec 7) (off : BitVec 9) (s : State) : Host.Outcome State Fault Refusal :=
  runStep false (storeFrom 2 b a (s.strand.ea a off 2)) s

/-- STD (R110). -/
def execStd (b a : BitVec 7) (off : BitVec 9) (s : State) : Host.Outcome State Fault Refusal :=
  runStep false (storeFrom 3 b a (s.strand.ea a off 3)) s

/-- LDAB (R112). -/
def execLdab (d a : BitVec 7) (sc : BitVec 3) (off : BitVec 6) (s : State) : Host.Outcome State Fault Refusal :=
  runStep false (loadAcquireInto 0 sc.toNat d a (s.strand.eaScoped a off 0)) s

/-- LDAH (R112). -/
def execLdah (d a : BitVec 7) (sc : BitVec 3) (off : BitVec 6) (s : State) : Host.Outcome State Fault Refusal :=
  runStep false (loadAcquireInto 1 sc.toNat d a (s.strand.eaScoped a off 1)) s

/-- LDAW (R112). -/
def execLdaw (d a : BitVec 7) (sc : BitVec 3) (off : BitVec 6) (s : State) : Host.Outcome State Fault Refusal :=
  runStep false (loadAcquireInto 2 sc.toNat d a (s.strand.eaScoped a off 2)) s

/-- LDAD (R112). -/
def execLdad (d a : BitVec 7) (sc : BitVec 3) (off : BitVec 6) (s : State) : Host.Outcome State Fault Refusal :=
  runStep false (loadAcquireInto 3 sc.toNat d a (s.strand.eaScoped a off 3)) s

/-- STLB (R112). -/
def execStlb (b a : BitVec 7) (sc : BitVec 3) (off : BitVec 6) (s : State) : Host.Outcome State Fault Refusal :=
  runStep false (storeReleaseFrom 0 sc.toNat b a (s.strand.eaScoped a off 0)) s

/-- STLH (R112). -/
def execStlh (b a : BitVec 7) (sc : BitVec 3) (off : BitVec 6) (s : State) : Host.Outcome State Fault Refusal :=
  runStep false (storeReleaseFrom 1 sc.toNat b a (s.strand.eaScoped a off 1)) s

/-- STLW (R112). -/
def execStlw (b a : BitVec 7) (sc : BitVec 3) (off : BitVec 6) (s : State) : Host.Outcome State Fault Refusal :=
  runStep false (storeReleaseFrom 2 sc.toNat b a (s.strand.eaScoped a off 2)) s

/-- STLD (R112). -/
def execStld (b a : BitVec 7) (sc : BitVec 3) (off : BitVec 6) (s : State) : Host.Outcome State Fault Refusal :=
  runStep false (storeReleaseFrom 3 sc.toNat b a (s.strand.eaScoped a off 3)) s

end Sys2Proof.Machine
end

