-- ==== Sys2Proof/Machine/Search.lean ====
section
/-! DEFINITION. The in-stack search engines (R362 to R376). A query is worked on until it ends, waits for answers, or stops at a fault; it then goes
on where it stood. -/

namespace Sys2Proof.Machine

/-! ## The descriptor (R363 to R365) -/

/-- A little-endian field of bytes. -/
def fieldLE (bs : List Byte) (o n : Nat) : Nat := leNat ((bs.drop o).take n)

/-- A descriptor's fields. -/
structure Graph where
  nodes  : Nat
  dim    : Nat
  code   : Nat
  metric : Nat
  maxdeg : Nat
  stride : Nat
  /-- First id, count, base and serving stack of each range. -/
  ranges : List (Nat × Nat × Nat × Nat)
  deriving DecidableEq, Repr

def Graph.read (bs : List Byte) : Graph :=
  let f := fieldLE bs
  { nodes := f 0 4, dim := f 4 2, code := f 6 1, metric := f 7 1, maxdeg := f 8 1, stride := f 12 4,
    ranges := (List.range (min 8 (f 9 1))).map fun i => (f (64 + 16 * i) 4, f (68 + 16 * i) 4, f (72 + 16 * i) 8, f (16 + i) 1) }

/-- Bytes per element. -/
def Graph.width (g : Graph) : Nat := match g.code with | 0 | 1 => 1 | 2 => 2 | _ => 4

/-- V of R365: bytes from a record's start to its DEG. -/
def Graph.vecRoom (g : Graph) : Nat := (g.dim * g.width + 3) / 4 * 4

/-- Two ranges overlap. -/
def rangeOverlap (x y : Nat × Nat × Nat × Nat) : Bool := decide (x.1 < y.1 + y.2.1) && decide (y.1 < x.1 + x.2.1)

/-- Some two ranges of a list overlap. -/
def anyOverlap : List (Nat × Nat × Nat × Nat) → Bool
  | [] => false
  | x :: xs => xs.any (rangeOverlap x) || anyOverlap xs

/-- The descriptor passes R364; `query` is the command's QUERY address. -/
def Graph.good (g : Graph) (bs : List Byte) (query : Nat) : Bool :=
  decide (1 ≤ g.nodes) && decide (1 ≤ g.dim ∧ g.dim ≤ 1024) && decide (g.code ≤ 3) && decide (g.metric ≤ 1) &&
    decide (1 ≤ g.maxdeg ∧ g.maxdeg ≤ 64) && decide (1 ≤ fieldLE bs 9 1 ∧ fieldLE bs 9 1 ≤ 8) && decide (fieldLE bs 10 2 = 0) &&
    decide (fieldLE bs 24 40 = 0) && decide (g.stride % 4 = 0) && decide (g.vecRoom + 4 + 4 * g.maxdeg ≤ g.stride) &&
    g.ranges.all (fun r => decide (1 ≤ r.2.1) && decide (r.1 + r.2.1 ≤ g.nodes) && decide (r.2.2.1 % 4 = 0) && decide (r.2.2.2 ≤ 7)) &&
    !anyOverlap g.ranges && decide (query % g.width = 0)

/-- The range that holds a node: its record's address and its stack (R365). -/
def Graph.find (g : Graph) (n : Nat) : Option (Nat × Nat) :=
  (g.ranges.find? fun r => decide (r.1 ≤ n) && decide (n < r.1 + r.2.1)).map fun r => ((r.2.2.1 + (n - r.1) * g.stride) % 2 ^ 64, r.2.2.2)

/-! ## Distances and order (R367, R368) -/

/-- The elements of a vector. -/
def Graph.elems (g : Graph) (bs : List Byte) : List Ex :=
  (List.range g.dim).map fun i =>
    let v := fieldLE bs (i * g.width) g.width
    match g.code with
    | 0 => Ex.ofInt (signed 8 v)
    | 1 => Fmt.e4m3.decode v
    | 2 => Fmt.bf16.decode v
    | _ => Fmt.fp32.decode v

/-- A term's exact value. -/
def Graph.term (g : Graph) (a b : Ex) : Ex :=
  if g.metric = 0 then let d := Ex.add false a b.neg; Ex.mul d d else Ex.mul a b

/-- Terms of two vectors. -/
def Graph.terms (g : Graph) : List Ex → List Ex → List Ex
  | a :: as, b :: bs => g.term a b :: g.terms as bs
  | _, _ => []

/-- A code that only rounds to FP32 under RNE. -/
def rneFp32 : Code := { kind := 2, wid := 0, p := 0, rm := 0, sat := false, scm := false }

/-- The distance's 32 bits (R367, R371). -/
def Graph.dist (g : Graph) (query rec : List Byte) : Nat :=
  let ts := g.terms (g.elems query) (g.elems rec)
  let dr : Draw := { mode := .rne, seed := 0, srb := 0 }
  if g.code = 0 then
    let s := (ts.map Ex.toInt).sum
    toBits 32 (if g.metric = 0 then s else -s)
  else
    let s := ((redTree rneFp32 dr 12 0 (ts.map fun t => some (rneFp32.rd dr 0 t).1)).x).getD (.zero false)
    (Fmt.fp32.encode dr false 0 ((if g.metric = 0 then s else s.neg)).quieted).1

/-- x beats y (R368). -/
def Graph.beats (g : Graph) (x y : SearchKey) : Bool :=
  let o : Ordering :=
    if g.code = 0 then compare (signed 32 x.dist) (signed 32 y.dist)
    else
      let a := Fmt.fp32.decode x.dist
      let b := Fmt.fp32.decode y.dist
      if a.isNan then (if b.isNan then .eq else .gt) else if b.isNan then .lt else Ex.cmp a b
  match o with
  | .lt => true
  | .gt => false
  | .eq => decide (x.id < y.id)

/-- Insert a key into a list in rising order. -/
def Graph.insert (g : Graph) (x : SearchKey) : List SearchKey → List SearchKey
  | [] => [x]
  | y :: ys => if g.beats x y then x :: y :: ys else y :: g.insert x ys

/-! ## Queries in the state -/

def Cmd.entry (c : Cmd) : Nat := c.dword 32 % 2 ^ 32
def Cmd.kWanted (c : Cmd) : Nat := c.byte 36
def Cmd.vcap (c : Cmd) : Nat := c.byte 37
def Cmd.ef (c : Cmd) : Nat := c.byte 38 + 256 * c.byte 39
def Cmd.trace (c : Cmd) : Bool := c.dword 40 % 2 = 1

def State.query? (s : State) (cmd : Nat) : Option Query := s.queries.find? (·.cmd = cmd)

def State.updateQuery (s : State) (cmd : Nat) (f : Query → Query) : State :=
  { s with queries := s.queries.map fun q => if q.cmd = cmd then f q else q }

/-- The query of a command, and its fields. -/
structure Work where
  c : Cmd
  q : Query
  g : Graph
  deriving DecidableEq, Repr

/-- A trace record's bytes: into memory, into registers, or held back while the VF is stopped (R375, R415, R421). -/
def State.traceStore (s : State) (part k : Nat) (bs : List Byte) : State :=
  if (regionOf k).isCtl then (List.range 4).foldl (fun u i => u.regStore (k + 8 * i) ((bs.drop (8 * i)).take 8)) s
  else if regionOf k = .host && s.vfStopped part then { s with hostHeld := s.hostHeld ++ bs.mapIdx fun i b => (part, k + i, b) }
  else s.engineStore none k bs false false

/-- One trace record at PTR (R376). -/
def State.trace (s : State) (w : Work) (kind info stack node dist : Nat) : State :=
  let base := s.reg64 (stackCtl w.q.stack + 0x20000)
  if !w.c.trace || !base.getLsbD 0 then s
  else
    let size := 4096 * 2 ^ min (getBits base 1 4) 12
    let a := stackCtl w.q.stack + 0x20008
    let ptr := getBits (s.reg64 a) 0 32 % size
    let bs := leBytes 1 kind ++ leBytes 1 w.q.ctx ++ leBytes 1 info ++ leBytes 1 stack ++ leBytes 4 node ++ leBytes 4 dist ++
      leBytes 2 w.q.cands.length ++ leBytes 2 w.q.best.length ++ leBytes 4 w.q.seen.length ++ leBytes 4 (w.c.dword 48 % 2 ^ 32) ++
      leBytes 8 s.cycle.toNat
    (s.traceStore w.c.part (getBits base 12 36 * 4096 + ptr) bs).setReg64 a (BitVec.ofNat 64 ((ptr + 32) % size))

/-- Store a query's new form and trace an event of it. -/
def note (w : Work) (kind info stack node dist : Nat) : E Unit :=
  modify fun s => (s.updateQuery w.c.id fun _ => w.q).trace w kind info stack node dist

def keep (w : Work) : E Unit := modify fun s => s.updateQuery w.c.id fun _ => w.q

/-- Read a range for a query: the bytes, or `none` when poison was among them; the lines' tarnish stays with the query. -/
def queryRead (c : Cmd) (va n : Nat) : E (Option (List Byte)) := do
  let bs ← engineReadRange c c.phys n va n
  modify fun s => s.updateQuery c.id fun q => { q with tarn := q.tarn || bs.any (·.2.1) }
  return if bs.any (·.2.2) then none else some (bs.map (·.1))

/-- A node's distance, read from its record; `none` is poison. -/
def readDistance (c : Cmd) (g : Graph) (vec : List Byte) (va : Nat) : E (Option Nat) := do
  match ← queryRead c va (g.dim * g.width) with
  | none => return none
  | some r => return some (g.dist vec r)

/-- A node's DEG and list, read from its record: the list is read only when DEG is in range (R365, R369). -/
def readList (c : Cmd) (g : Graph) (va : Nat) : E (Option (List Nat)) := do
  match ← queryRead c ((va + g.vecRoom) % 2 ^ 64) 2 with
  | none => return none
  | some d =>
    let deg := leNat d
    if g.maxdeg < deg then return some [deg]
    match ← queryRead c ((va + g.vecRoom + 4) % 2 ^ 64) (4 * deg) with
    | none => return none
    | some l => return some (deg :: (List.range deg).map fun i => fieldLE l (4 * i) 4)

/-! ## The search (R369, R370) -/

/-- A query ends with a status. -/
def endQuery (w : Work) (status : Nat) : E Bool := do
  note { w with q := { w.q with status := some status } } 6 status w.q.stack w.c.entry 0
  return true

/-- Send a request to another stack. -/
def sendRequest (w : Work) (stack node : Nat) (isList : Bool) : E Work := do
  let w1 := { w with q := { w.q with reqs := w.q.reqs ++ [{ stack := stack, node := node, isList := isList, answer := none, arrived := false }] } }
  note w1 4 (if isList then 1 else 0) stack node 0
  return w1

/-- What is known of a node on another stack: not asked, waiting, or an answer. -/
def Query.answerFor (q : Query) (node : Nat) (isList : Bool) : Option SearchReq := q.reqs.find? fun r => r.node = node && r.isList = isList

/-- A node's distance as the query comes to it: `none` means wait; the inner `none` is poison. -/
def distanceOf (w : Work) (node va stack : Nat) : E (Option (Option Nat)) := do
  if stack = w.q.stack then return some (← readDistance w.c w.g (w.q.vec.getD []) va)
  match w.q.answerFor node false with
  | none => let _ ← sendRequest w stack node false; return none
  | some r =>
    if !r.arrived then return none
    match r.answer with
    | some (false, d :: _) => return some (some d)
    | _ => return some none

/-- Push a visited node into C and W as R369 says; INFO of its VISIT record. -/
def visit (w : Work) (node d : Nat) : Work × Nat :=
  let k : SearchKey := { dist := d, id := node }
  let seen := w.q.seen ++ [node]
  let room := decide (w.q.best.length < w.c.ef)
  let wins := match w.q.best.getLast? with | some y => w.g.beats k y | none => true
  if room || wins then
    let best := w.g.insert k w.q.best
    let drops := decide (w.c.ef < best.length)
    ({ w with q := { w.q with seen := seen, cands := w.g.insert k w.q.cands, best := if drops then best.dropLast else best } }, if drops then 3 else 1)
  else ({ w with q := { w.q with seen := seen } }, 0)

/-- The distance requests of a list (R370): distinct ids, not visited, in a range, served elsewhere. -/
def requestAll (w : Work) : List Nat → E Work
  | [] => return w
  | n :: ns => do
    match w.g.find n with
    | some (_, st) =>
      if st ≠ w.q.stack && !w.q.seen.contains n && (w.q.answerFor n false).isNone then requestAll (← sendRequest w st n false) ns
      else requestAll w ns
    | none => requestAll w ns

/-- The start of a query: the descriptor, the entry node, the query vector. `true` goes on. -/
def startStep (c : Cmd) (q : Query) : E Bool := do
  match q.desc with
  | none =>
    match ← queryRead c (c.dword 8) 192 with
    | none => endQuery { c := c, q := ((← get).query? c.id).getD q, g := .read [] } 5
    | some bs =>
      let w : Work := { c := c, q := { ((← get).query? c.id).getD q with desc := some bs }, g := .read bs }
      if !w.g.good bs (c.dword 16) then endQuery w 3
      else if (w.g.find c.entry).isNone then endQuery w 2
      else keep w; return true
  | some bs =>
    let g := Graph.read bs
    match q.vec with
    | none =>
      match ← queryRead c (c.dword 16) (g.dim * g.width) with
      | none => endQuery { c := c, q := ((← get).query? c.id).getD q, g := g } 5
      | some v => keep { c := c, q := { ((← get).query? c.id).getD q with vec := some v }, g := g }; return true
    | some _ =>
      -- V := {E}, C and W hold its key
      let w : Work := { c := c, q := q, g := g }
      match g.find c.entry with
      | none => endQuery w 2
      | some (va, st) =>
        match ← distanceOf w c.entry va st with
        | none => return false
        | some none => endQuery { w with q := { ((← get).query? c.id).getD q with seen := [c.entry] } } 5
        | some (some d) =>
          let (w1, info) := visit { w with q := { ((← get).query? c.id).getD q with reqs := [] } } c.entry d
          note w1 3 info q.stack c.entry d
          return true

/-- Pop the least candidate, or end (R369). -/
def popStep (w : Work) : E Bool := do
  match w.q.cands with
  | [] => endQuery w 0
  | k :: ks =>
    let w1 := { w with q := { w.q with cands := ks } }
    note w1 2 0 w.q.stack k.id k.dist
    match w.q.best.getLast? with
    | some y => if w.c.ef ≤ w.q.best.length && w.g.beats y k then return ← endQuery w1 0
    | none => pure ()
    keep { w1 with q := { w1.q with popped := some k.id } }
    return true

/-- A popped node's DEG and list, from its record or from its stack: `none` means wait; the inner `none` is poison. -/
def listOf (w : Work) (node va stack : Nat) : E (Option (Option (List Nat))) := do
  if stack = w.q.stack then return some (← readList w.c w.g va)
  match w.q.answerFor node true with
  | none => let _ ← sendRequest w stack node true; return none
  | some r =>
    if !r.arrived then return none
    match r.answer with
    | some (false, l) => return some (some l)
    | _ => return some none

/-- Take the popped node's list (R370). -/
def listStep (w : Work) (node : Nat) : E Bool := do
  match w.g.find node with
  | none => endQuery w 2
  | some (va, st) =>
    let got ← listOf w node va st
    let w := { w with q := ((← get).query? w.c.id).getD w.q }
    match got with
    | none => return false
    | some none => endQuery w 5
    | some (some l) =>
      if w.g.maxdeg < l.headD 0 then endQuery w 4
      else
        let w1 := { w with q := { w.q with rest := some (l.drop 1), reqs := [] } }
        keep w1
        let _ ← requestAll w1 (l.drop 1)
        return true

/-- The next id of a list in list order (R369), when every answer is in. -/
def expandStep (w : Work) (ns : List Nat) : E Bool := do
  if w.q.reqs.any (!·.arrived) then return false
  match ns with
  | [] => keep { w with q := { w.q with expanded := w.q.expanded + 1, popped := none, rest := none, reqs := [] } }; return true
  | n :: rest =>
    match w.g.find n with
    | none => endQuery w 2
    | some (va, st) =>
      if w.q.seen.contains n then keep { w with q := { w.q with rest := some rest } }; return true
      else if 2 ^ w.c.vcap ≤ w.q.seen.length then endQuery w 1
      else
        match ← distanceOf w n va st with
        | none => return false
        | some d =>
          let w := { w with q := ((← get).query? w.c.id).getD w.q }
          match d with
          | none => endQuery { w with q := { w.q with seen := w.q.seen ++ [n] } } 5
          | some d =>
            let (w1, info) := visit { w with q := { w.q with rest := some rest } } n d
            note w1 3 info w.q.stack n d
            return true

/-- The result block (R371). -/
def resultBlock (w : Work) : List Byte :=
  let top := w.q.best.take w.c.kWanted
  leBytes 4 (w.q.status.getD 0) ++ leBytes 4 top.length ++ leBytes 4 w.q.expanded ++ leBytes 4 w.q.seen.length ++
    top.flatMap (fun k => leBytes 4 k.id ++ leBytes 4 k.dist) ++
    (List.replicate (w.c.kWanted - top.length) (leBytes 4 0xFFFFFFFF ++ leBytes 4 0)).flatten

/-- Work on a query until it waits or ends. The phase its command then has. -/
def runQuery (id : Nat) : Nat → E CmdPhase
  | 0 => return .running
  | fuel + 1 => do
    let s ← get
    match s.cmd? id, s.query? id with
    | some c, some q =>
      match q.status with
      | some _ =>
        if c.done = 0 then
          modify fun s => s.updateCmd id fun c => { c with snap := (resultBlock { c := c, q := q, g := .read (q.desc.getD []) }).map fun b => (b, q.tarn, false) }
        writeResult id (c.dword 24) (16 + 8 * c.kWanted) (16 + 8 * c.kWanted)
        return .performed
      | none =>
        let w : Work := { c := c, q := q, g := .read (q.desc.getD []) }
        let on ←
          if q.seen = [] then startStep c q
          else match q.popped, q.rest with
            | none, _ => popStep w
            | some n, none => listStep w n
            | some _, some ns => expandStep w ns
        if on then runQuery id fuel else return .running
    | _, _ => return .running

/-- Steps enough for a query: each visited node is popped once and its list has at most 64 ids. -/
def Cmd.searchFuel (c : Cmd) : Nat := 2 ^ c.vcap * 68 + 16

def State.workQuery (s : State) (c : Cmd) : State := s.workChecked c fun c => runQuery c.id c.searchFuel

/-! ## Events -/

/-- SRAM bytes of a query (R362). -/
def Cmd.sram (c : Cmd) : Nat := 12 * 2 ^ c.vcap + 8 * c.ef

/-- Free contexts of a stack. -/
def State.freeContexts (s : State) (stack : Nat) : List Nat :=
  (List.range 64).filter fun k => !(s.queries.any fun q => q.stack = stack && q.ctx = k)

/-- SRAM in use on a stack. -/
def State.sramUsed (s : State) (stack : Nat) : Nat :=
  ((s.queries.filter (·.stack = stack)).map fun q => match s.cmd? q.cmd with | some c => c.sram | none => 0).sum

/-- A locked page or a stopped VF holds a query up where it stands (R294, R421). -/
def State.queryHeld (s : State) (c : Cmd) : Bool :=
  match runQuery c.id c.searchFuel s with
  | .error .wait u => decide (u.queries = s.queries) && decide (u.cmds = s.cmds)
  | _ => false

/-- A started query of a stack that can go on: it waits for no answer, and nothing holds it up. -/
def State.resumable (s : State) (stack : Nat) : Option Cmd :=
  s.cmds.find? fun c => c.queue = 24 + stack && c.phase = .running &&
    (match s.query? c.id with | some q => q.status.isSome || !(q.reqs.any (!·.arrived)) | none => false) && !s.queryHeld c

/-- SEARCH (R362, R369): a query that was stopped goes on, or the next command starts when a context and SRAM are free. -/
def execSearch (stack : Nat) (s : State) : Host.Outcome State Fault Refusal :=
  if 8 ≤ stack || s.frozenQ.contains (24 + stack) then .next s
  else
    match s.resumable stack with
    | some c => .next (s.workQuery c)
    | none =>
      match s.nextQueued (24 + stack), s.freeContexts stack with
      | some c, k :: ks =>
        if 4 * 2 ^ 20 < s.sramUsed stack + c.sram then .next s
        else
          let ctx := (k :: ks).getD (Config.pick s.fresh % (ks.length + 1)) k
          let q : Query :=
            { stack := stack, ctx := ctx, cmd := c.id, desc := none, vec := none, cands := [], best := [], seen := [], expanded := 0,
              popped := none, rest := none, status := none, reqs := [], tarn := false }
          let s1 := { s with fresh := s.fresh + 1, queries := s.queries ++ [q] }
          let s2 := (s1.updateCmd c.id fun x => { x with phase := .running }).trace { c := c, q := q, g := .read [] } 1 0 stack c.entry 0
          .next (s2.workQuery { c with phase := .running })
      | _, _ => .next s

/-- The query in a context, with its command, while it runs. -/
def State.inContext (s : State) (stack ctx : Nat) : Option (Cmd × Query) :=
  match s.queries.find? fun q => q.stack = stack && q.ctx = ctx with
  | none => none
  | some q => match s.cmd? q.cmd with
    | some c => if c.phase = .running then some (c, q) else none
    | none => none

/-- What a remote stack reads for a request: whether it found poison, and the answer. -/
def serveRead (c : Cmd) (g : Graph) (vec : List Byte) (va : Nat) (isList : Bool) : E (Bool × List Nat) := do
  if isList then
    match ← readList c g va with
    | none => return (true, [])
    | some l => return (false, l)
  else
    match ← readDistance c g vec va with
    | none => return (true, [])
    | some d => return (false, [d])

/-- A remote stack serves a request: the answer is ready to travel. Its queue of requests is not its command queue: that one's freeze holds no request
up, and a failure of its engine is the query's (R370, R373). -/
def State.serve (s : State) (c : Cmd) (q : Query) (node : Nat) (isList : Bool) : State :=
  match q.reqs.find? (fun r => r.node = node && r.isList = isList && r.answer.isNone), q.desc with
  | some r, some bs =>
    let g := Graph.read bs
    match g.find node with
    | none => s
    | some (va, _) =>
      s.workOn (24 + r.stack) c fun c => do
        let a ← serveRead c g (q.vec.getD []) va isList
        modify fun u => u.updateQuery c.id fun q => { q with reqs := q.reqs.map fun (x : SearchReq) =>
          if x.node = node && x.isList = isList then { x with answer := some a } else x }
        return .running
  | _, _ => s

/-- LIST_REQUEST (R370): `stack` and `ctx` name the query. -/
def execListRequest (stack ctx node : Nat) (s : State) : Host.Outcome State Fault Refusal :=
  match s.inContext stack ctx with
  | some (c, q) => .next (s.serve c q node true)
  | none => .next s

/-- DISTANCE_REQUEST (R370). -/
def execDistanceRequest (stack ctx node : Nat) (s : State) : Host.Outcome State Fault Refusal :=
  match s.inContext stack ctx with
  | some (c, q) => .next (s.serve c q node false)
  | none => .next s

/-- ANSWER (R370): a served answer arrives; when all are in, the query goes on. A frozen search queue's queries stand still (R373, R421). -/
def execAnswer (stack ctx node : Nat) (s : State) : Host.Outcome State Fault Refusal :=
  match (s.inContext stack ctx).filter fun _ => !s.frozenQ.contains (24 + stack) with
  | none => .next s
  | some (c, q) =>
    match q.reqs.find? fun r => r.node = node && r.answer.isSome && !r.arrived with
    | none => .next s
    | some r =>
      let q1 := { q with reqs := q.reqs.map fun (x : SearchReq) => if x.node = node && x.isList = r.isList then { x with arrived := true } else x }
      let d := match r.answer with | some (_, x :: _) => if r.isList then 0 else x | _ => 0
      let s1 := (s.updateQuery c.id fun _ => q1).trace { c := c, q := q1, g := .read (q.desc.getD []) } 5 (if r.isList then 1 else 0) r.stack node d
      .next (if q1.reqs.all (·.arrived) then s1.workQuery c else s1)

end Sys2Proof.Machine
end

