-- ==== Sys2Proof/Machine/Ecdsa.lean ====
section
/-! DEFINITION. ECDSA on curve P-521 with SHA-512 (R11, R423, R424, R426), as FIPS 186-5 and SP 800-186 give the curve and the algorithm (log 47). Keys are
numbers of `Config`. -/

namespace Sys2Proof.Machine

/-! ## The curve y² = x³ − 3x + b over the field of 2^521 − 1 -/

def curveP : Nat := 2 ^ 521 - 1
def curveB : Nat :=
  0x0051953EB9618E1C9A1F929A21A0B68540EEA2DA725B99B315F3B8B489918EF109E156193951EC7E937B1652C0BD3BB1BF073573DF883D2C34F1EF451FD46B503F00

/-- The order of the base point. -/
def curveN : Nat := 2 ^ 521 - 657877501894328237357444332315020117536923257219387276263472201219398408051703

/-- A point in Jacobian coordinates: x/z², y/z³; z = 0 is the point at infinity. -/
structure CurvePoint where
  x : Nat
  y : Nat
  z : Nat
  deriving DecidableEq, Repr

def CurvePoint.zero : CurvePoint := { x := 1, y := 1, z := 0 }

/-- The base point. -/
def curveG : CurvePoint :=
  { x := 0x00C6858E06B70404E9CD9E3ECB662395B4429C648139053FB521F828AF606B4D3DBAA14B5E77EFE75928FE1DC127A2FFA8DE3348B3C1856A429BF97E7E31C2E5BD66,
    y := 0x011839296A789A3BC0045C8A5FB42C7D1BD998F54449579B446817AFBD17273E662C97EE72995EF42640C550B9013FAD0761353C7086A272C24088BE94769FD16650,
    z := 1 }

/-- a − b in a field. -/
def modSub (m a b : Nat) : Nat := (a + (m - b % m)) % m

/-- b^e, by the low `k` bits of e. -/
def modPow (m : Nat) : Nat → Nat → Nat → Nat
  | 0, _, _ => 1
  | k + 1, b, e => (if e % 2 = 1 then b else 1) * modPow m k (b * b % m) (e / 2) % m

/-- The inverse in a field of prime order below 2^521 (Fermat). -/
def modInv (m a : Nat) : Nat := modPow m 521 (a % m) (m - 2)

/-- Twice a point. -/
def CurvePoint.double (p : CurvePoint) : CurvePoint :=
  let m := curveP
  let yy := p.y * p.y % m
  let s := 4 * p.x * yy % m
  let zz := p.z * p.z % m
  let w := 3 * modSub m p.x zz * (p.x + zz) % m
  let x := modSub m (w * w) (2 * s)
  { x := x, y := modSub m (w * modSub m s x) (8 * yy * yy), z := 2 * p.y * p.z % m }

/-- The sum of two points. -/
def CurvePoint.add (p q : CurvePoint) : CurvePoint :=
  let m := curveP
  if p.z = 0 then q
  else if q.z = 0 then p
  else
    let z1 := p.z * p.z % m
    let z2 := q.z * q.z % m
    let u1 := p.x * z2 % m
    let s1 := p.y * (z2 * q.z) % m
    let h := modSub m (q.x * z1) u1
    let r := modSub m (q.y * (z1 * p.z)) s1
    if h = 0 then (if r = 0 then p.double else .zero)
    else
      let h2 := h * h % m
      let h3 := h2 * h % m
      let x := modSub m (r * r) (h3 + 2 * u1 * h2)
      { x := x, y := modSub m (r * modSub m (u1 * h2) x) (s1 * h3), z := h * p.z * q.z % m }

/-- A multiple of a point, by the low `bits` bits of the number. -/
def CurvePoint.times (p : CurvePoint) : Nat → Nat → CurvePoint
  | 0, _ => .zero
  | bits + 1, k => let r := p.double.times bits (k / 2); if k % 2 = 1 then r.add p else r

/-- The x coordinate of a point other than the one at infinity. -/
def CurvePoint.affineX (p : CurvePoint) : Nat := p.x * modInv curveP (p.z * p.z) % curveP

/-- The point lies on the curve (z = 1). -/
def onCurve (x y : Nat) : Bool :=
  decide (x < curveP ∧ y < curveP) && decide ((y * y + 3 * x) % curveP = (x * x * x + curveB) % curveP)

/-! ## Signatures -/

/-- Bytes as a number, the most significant first. -/
def beNat (b : List Byte) : Nat := b.foldl (fun n x => 256 * n + x.toNat) 0

/-- The number that a signature is over: SHA-512 of the message. -/
def digest (msg : List Byte) : Nat := beNat (sha512 msg)

/-- A signature (r, s) over a message verifies under a public key. -/
def ecdsaVerify (key : Nat × Nat) (msg : List Byte) (r s : Nat) : Bool :=
  let w := modInv curveN s
  let u := (curveG.times 521 (digest msg * w % curveN)).add (CurvePoint.times { x := key.1, y := key.2, z := 1 } 521 (r * w % curveN))
  onCurve key.1 key.2 && decide (1 ≤ r ∧ r < curveN) && decide (1 ≤ s ∧ s < curveN) && decide (u.z ≠ 0) && decide (u.affineX % curveN = r)

/-- A signature with a private key and a per-message secret number, held to 1 to n − 1, as 132 bytes: r, then s, each the most significant byte
first. -/
def ecdsaSign (key secret : Nat) (msg : List Byte) : List Byte :=
  let k := secret % (curveN - 1) + 1
  let r := (curveG.times 521 k).affineX % curveN
  let s := modInv curveN k * (digest msg + r * key) % curveN
  beBytes 66 r ++ beBytes 66 s

end Sys2Proof.Machine
end

