-- ==== Sys2Proof/Machine/Service.lean ====
section
/-! DEFINITION. Firmware and the chronograph's export (R423, R425, R426, R428), attestation (R424), the debug port (R24, R432), power, thermal limits and
resets (R426, R428, R430). -/

namespace Sys2Proof.Machine

/-! ## Device status (R426) -/

def devst : Nat := vfAddr 32 0x1000
def fwstat : Nat := vfAddr 32 0x1028

/-- The slot a component runs from: 0 A, 1 B. -/
def State.activeSlot (s : State) (comp : Nat) : Nat := getBits (s.reg64 fwstat) (15 + comp) 1

/-- A verified image in a slot. -/
def State.image (s : State) (comp slot : Nat) : Option FwImage := s.fw.find? fun f => f.comp = comp && f.slot = slot

/-- DEVST.SECURE: every component's active slot holds a verified image. -/
def State.setSecure (s : State) : State :=
  s.setField devst 2 1 (if [1, 2, 3, 4].all fun c => (s.image c (s.activeSlot c)).isSome then 1 else 0)

/-- The FWCMD in progress: operation and component; `none` without one. -/
def State.fwcmd (s : State) : Option (Nat × Nat) :=
  if (s.reg64 fwstat).getLsbD 0 then some (getBits (s.reg64 (vfAddr 32 0x1010)) 0 4, getBits (s.reg64 (vfAddr 32 0x1010)) 8 4) else none

/-- The command ends: RESULT, DONE, BUSY, and MSI-X vector 1 of the PF (R426). A DEVFAIL that waited for a FWSWITCH takes its effect (R431). -/
def State.endFw (s : State) (result : Nat) : State :=
  let s1 := (s.setField fwstat 8 8 result).setField fwstat 0 2 2
  let s2 := ((s1.setReg64 (vfAddr 32 0x1010) 0).setSecure).interrupt 32 1
  s2.devfail.foldl State.quiesceFor { s2 with switched := [], devfail := [] }

/-! ## FWLOAD (R423, R426) -/

/-- FWADDR and FWLEN. -/
def State.fwAddr (s : State) : Nat := (s.reg64 (vfAddr 32 0x1018)).toNat
def State.fwLen (s : State) : Nat := getBits (s.reg64 (vfAddr 32 0x1020)) 0 32

/-- The buffer lies in the device's HBM or in the host window. -/
def fwAddrOk (a : Nat) : Bool :=
  decide (a % 64 = 0) && (match regionOf a with | .hbm _ | .host => true | _ => false)

/-- The header passes: magic, reserved fields, and the component asked for. -/
def headerOk (h : List Byte) (comp : Nat) : Bool :=
  let f := fun (o n : Nat) => leNat ((h.drop o).take n)
  decide (f 0 4 = 0x53464657) && decide (f 6 2 = 0) && decide (f 220 36 = 0) && decide (f 4 2 = comp) && decide (1 ≤ comp ∧ comp ≤ 4)

/-- What FWLOAD comes to: a RESULT other than 0, or the image (R423). -/
def State.verify (s : State) (comp : Nat) : Except Nat FwImage :=
  let a := s.fwAddr
  if !fwAddrOk a then .error 1
  else if s.fwLen < 256 then .error 5
  else
    let h := Mem.bytes s.mem a 256
    let f := fun (o n : Nat) => leNat ((h.drop o).take n)
    let n := f 16 8
    if !headerOk h comp then .error 1
    else if s.fwLen < 256 + n then .error 5
    else if !ecdsaVerify Config.publicKey (h.take 88) (beNat ((h.drop 88).take 66)) (beNat ((h.drop 154).take 66)) then .error 2
    else if sha512 (Mem.bytes s.mem (a + 256) n) ≠ (h.drop 24).take 64 then .error 3
    else if f 12 4 < Config.fusedMinimum comp then .error 4
    else .ok { comp := comp, slot := 1 - s.activeSlot comp, version := f 8 4, svn := f 12 4, hash := (h.drop 24).take 64 }

/-- Put an image into its slot. -/
def State.keepImage (s : State) (i : FwImage) : State :=
  { s with fw := (s.fw.filter fun x => !(x.comp = i.comp && x.slot = i.slot)) ++ [i] }

/-- FWLOAD (R423, R426): the image goes into the inactive slot. -/
def execFwLoad (comp : Nat) (s : State) : Host.Outcome State Fault Refusal :=
  .next (if s.fwcmd ≠ some (1, comp) then s
    else
      let u := s.reachRange s.fwAddr (min s.fwLen (256 + leNat (Mem.bytes s.mem (s.fwAddr + 16) 8))) false
      match u.verify comp with
      | .error e => u.endFw e
      | .ok i => (u.keepImage i).endFw 0)

/-! ## FWSWITCH (R425) -/

/-- Units of a component: 16 copy engines, 16 link controllers, 8 base dies. -/
def switchUnits (comp : Nat) : Nat := match comp with | 2 | 3 => 16 | 4 => 8 | _ => 1

/-- A unit of a component can switch now: the command processor between node dispatches, a copy engine when its queue is idle, a link controller while its
link recalibrates (R427), a base die when no command runs on it. -/
def State.unitReady (s : State) (comp unit : Nat) : Bool :=
  match comp with
  | 2 => s.cmds.all fun c => c.queue ≠ unit || !c.isOpen || (match c.phase with | .owes _ _ _ => true | _ => false)
  | 3 => (s.link unit).recal.isSome
  | 4 => s.cmds.all fun c => decide (c.queue < 16) || c.queue % 8 ≠ unit || !c.isOpen || (match c.phase with | .owes _ _ _ | .queued => true | _ => false)
  | _ => true

/-- Units that have switched, with those that can now. -/
def State.switchReady (s : State) (comp : Nat) : List Nat := (List.range (switchUnits comp)).filter fun u => s.switched.contains u || s.unitReady comp u

/-- A switch that fails to start: the old slot stays, and a kind-8 record goes to the PF. -/
def State.switchFails (s : State) : State := ((s.postRecord 32 8 [0, s.reg64 (vfAddr 32 0x1018), 6] none none).1).endFw 6

/-- FWSWITCH (R425, R426); `starts` says whether the new image starts. Each unit of the component switches when it can; the step happens again until every
one has. -/
def execFwSwitch (comp : Nat) (starts : Bool) (s : State) : Host.Outcome State Fault Refusal :=
  .next (if s.fwcmd ≠ some (2, comp) then s
    else if (s.image comp (1 - s.activeSlot comp)).isNone then s.endFw 7
    else
      let ready := s.switchReady comp
      if ready = s.switched then s
      else if !starts then s.switchFails
      else if ready.length < switchUnits comp then { s with switched := ready }
      else (s.setField fwstat (15 + comp) 1 (1 - s.activeSlot comp)).endFw 0)

/-! ## CHREXP (R426, R428) -/

/-- A chronograph entry's 32 bytes. -/
def ChronEntry.bytes (e : ChronEntry) : List Byte :=
  leBytes 8 e.time ++ leBytes 2 e.source ++ leBytes 2 e.part ++ leBytes 4 e.cause ++ leBytes 8 e.addr0.toNat ++ leBytes 8 e.addr1.toNat

/-- A 132-byte signature with the identity key, over the SHA-512 of a message. -/
def signed132 (msg : List Byte) : List Byte := ecdsaSign Config.identityKey (Config.signSecret (digest msg)) msg

/-- The export: 16,384 entries, oldest first, the time, and the signature over the SHA-512 of what precedes it. -/
def State.chronExport (s : State) : List Byte :=
  let body := s.chron.flatMap ChronEntry.bytes ++ List.replicate ((16384 - s.chron.length) * 32) 0 ++ leBytes 8 s.nanos
  body ++ signed132 body

/-- CHREXP (R426). -/
def execChrExp (s : State) : Host.Outcome State Fault Refusal :=
  .next (match s.fwcmd with
    | some (3, _) =>
      if !fwAddrOk s.fwAddr then s.endFw 1
      else if s.fwLen < 524428 then s.endFw 5
      else (s.outsideStore s.fwAddr s.chronExport false).endFw 0
    | _ => s)

/-! ## Attestation (R424) -/

/-- A data object of PCIe DOE: its header names SPDM and the length in words of 4 bytes, and the message is padded to such words (PRESUMED, log 27). -/
def doeObject (msg : List Byte) : List Byte :=
  let n := (msg.length + 3) / 4
  leBytes 4 0x10001 ++ leBytes 4 (n + 2) ++ msg ++ List.replicate (4 * n - msg.length) 0

/-- The version byte of a reply: SPDM 1.2 or 1.3, as the two sides have agreed, a free choice (R424). -/
def spdmVersion (n : Nat) : Nat := 0x12 + Config.pick n % 2

/-- A message's first four bytes: version, code, and two parameters (PRESUMED, log 27). -/
def spdmHeader (n code p1 p2 : Nat) : List Byte := leBytes 1 (spdmVersion n) ++ leBytes 1 code ++ leBytes 1 p1 ++ leBytes 1 p2

/-- What stands before the signature of a signed reply: its nonce, no opaque data, and from SPDM 1.3 on the requester's context (PRESUMED, log 27). -/
def spdmTail (n : Nat) : List Byte :=
  ((List.range 32).map fun i => (Config.spdmNonce n).getD i 0) ++ leBytes 2 0 ++ (if spdmVersion n = 0x13 then leBytes 8 0 else [])

/-- The device answers with a message. -/
def State.answer (s : State) (msg : List Byte) : State := { s with fresh := s.fresh + 1, reply := (doeObject msg).map some }

/-- The device answers with a message and its signature by the identity key over SHA-512 of the transcript (R424). -/
def State.answerSigned (s : State) (fn : Nat) (nonce msg : List Byte) : State := s.answer (msg ++ signed132 (Config.spdmTranscript fn nonce msg))

/-- A function answers SPDM requests: a VF by its partition's number, or 32 for the PF. -/
def spdmFn (fn : Nat) : Bool := decide (fn ≤ 32)

/-- CERTIFICATE: the chain from its start, as far as a length of 16 bits goes, and how much is left. -/
def certificateMsg (n : Nat) : List Byte :=
  let chain := Config.certificateChain
  let part := chain.take 0xFFFF
  spdmHeader n 0x02 0 0 ++ leBytes 2 part.length ++ leBytes 2 (chain.length - part.length) ++ part

/-- GET_CERTIFICATE (R424). -/
def execGetCertificate (fn : Nat) (s : State) : Host.Outcome State Fault Refusal := .next (if spdmFn fn then s.answer (certificateMsg s.fresh) else s)

/-- CHALLENGE_AUTH before its signature: the hash of the certificate chain, and the tail. -/
def challengeMsg (n : Nat) : List Byte := spdmHeader n 0x03 0 1 ++ sha512 Config.certificateChain ++ spdmTail n

/-- CHALLENGE (R424): a signature over the transcript, with the requester's nonce. -/
def execChallenge (fn : Nat) (nonce : List (BitVec 8)) (s : State) : Host.Outcome State Fault Refusal :=
  .next (if spdmFn fn then s.answerSigned fn nonce (challengeMsg s.fresh) else s)

/-- A measurement block: its index, the standard's measurement specification, and the value with its type and size (PRESUMED, log 27). -/
def measureBlock (index type : Nat) (value : List Byte) : List Byte :=
  leBytes 1 index ++ leBytes 1 1 ++ leBytes 2 (value.length + 3) ++ leBytes 1 type ++ leBytes 2 value.length ++ value

/-- What is measured of a component and slot: image hash and VERSION, which of an empty slot are open bytes. -/
def State.slotValue (s : State) (comp slot : Nat) : List Byte :=
  match s.image comp slot with
  | some f => f.hash ++ leBytes 4 f.version
  | none => (List.range 68).map fun i => (Config.emptyMeasure comp slot).getD i 0

/-- Measurement blocks: one for each component and slot, as index 2 × component + slot − 1; a VF's report adds one of its partition's descriptor. -/
def State.measurements (s : State) (fn : Nat) : List (List Byte) :=
  ([1, 2, 3, 4].flatMap fun c => [0, 1].map fun x => measureBlock (2 * c + x - 1) 1 (s.slotValue c x)) ++
    if fn = 32 then [] else [measureBlock 9 4 ([0x00, 0x08, 0x10, 0x18, 0x20, 0x28].flatMap fun o => leBytes 8 (s.cur fn o).toNat)]

/-- MEASUREMENTS before its signature: how many blocks, their length, and the blocks; then the tail. -/
def State.measurementsMsg (s : State) (fn : Nat) : List Byte :=
  let blocks := s.measurements fn
  spdmHeader s.fresh 0x60 0 0 ++ leBytes 1 blocks.length ++ leBytes 3 blocks.flatten.length ++ blocks.flatten ++ spdmTail s.fresh

/-- GET_MEASUREMENTS (R424): the transcript, of which the report is part, signed over SHA-512. -/
def execGetMeasurements (fn : Nat) (s : State) : Host.Outcome State Fault Refusal :=
  .next (if spdmFn fn then s.answerSigned fn [] (s.measurementsMsg fn) else s)

/-! ## The debug port (R24, R337, R432) -/

/-- The key of a virtual address as the stopped strand of a partition translates it, or as the hub does for another partition; a physical address
for partition 32. -/
def State.debugKey (s : State) (part va : Nat) : Option Nat :=
  if part = 32 then (if va < 2 ^ 48 then some va else none)
  else if 2 ^ 52 ≤ va then none
  else
    match (s.translate (if s.strand.part = part && s.strand.live then s.strand.party else hubParty part) va .read).2 with
    | .ok x => some x.key
    | .error _ => none

/-- A reservation tag's window and iteration as 12 bytes, as the escrow context of the stopped strand reads it: a tag of another context or window is ∞,
an iteration of all ones (R322, R337). -/
def State.debugTag (s : State) (k : Nat) : List Byte :=
  match (s.escrow.find? (·.launch = s.strand.launch)).bind fun e => s.resv.find? fun t => t.cell = k && t.launch = e.launch && t.window = e.wn.toNat with
  | some t => leBytes 4 t.window ++ leBytes 8 t.iter
  | none => leBytes 4 0 ++ List.replicate 8 0xFF

/-- What the debug port shows at an address: kind 0 a byte of memory, 1 a cell's reservation tag, 2 a line's tarnish and poison bits. -/
def State.debugItem (s : State) (kind part va : Nat) : List (Option Byte) :=
  match s.debugKey part va, kind with
  | none, _ => [none]
  | some k, 0 => [some (if (regionOf k).isCtl then s.regByte k else Mem.read s.mem k)]
  | some k, 1 => (s.debugTag k).map some
  | some k, _ => [some (BitVec.ofNat 8 ((if s.tarn.contains (lineOf k) then 1 else 0) + (if s.poison.contains (lineOf k) then 2 else 0)))]

/-- DEBUG_READ (R432): no A or D bit, no lease, no tag, mark or trap changes. `part` is a partition, plus 64 times the kind of item (log 27). -/
def execDebugRead (part addr len : Nat) (s : State) : Host.Outcome State Fault Refusal :=
  let step := match part / 64 with | 0 => 1 | 1 => 8 | _ => 64
  .next { s with reply := (List.range len).flatMap fun i => s.debugItem (part / 64) (part % 64) (addr + step * i) }

/-- CONT (R24, R432): the strand that stands at a breakpoint executes its instruction. -/
def execCont (s : State) : Host.Outcome State Fault Refusal :=
  .next (if s.halted then { s with halted := false, goOn := (s.strand.place, s.strand.pc) :: s.goOn } else s)

/-! ## Power, thermal limits and resets (R430) -/

/-- THERMAL_THROTTLE (R430): one step of 1/16 off the arithmetic clock. -/
def execThermalThrottle (s : State) : Host.Outcome State Fault Refusal := .next { s with throttle := min 15 (s.throttle + 1) }

/-- FATAL_SHUTDOWN (R428 to R430): the chronograph freezes, the device tells its peers in a fatal-error flit, and goes down. -/
def execFatalShutdown (s : State) : Host.Outcome State Fault Refusal :=
  .next { (s.setField devst 4 1 1).flood Config.fatalByte with down := true, powered := false }

/-- POWER_UP (R430): the rails, firmware, memory and links come up, and READY reads 1. -/
def execPowerUp (s : State) : Host.Outcome State Fault Refusal :=
  .next (if s.down || s.powered then s else { (s.setSecure).setField devst 0 1 1 with powered := true })

/-- COLD_RESET (R426, R428): everything but the non-volatile configuration and the firmware slots; link 1 takes LINKCFG's protocol. -/
def execColdReset (s : State) : Host.Outcome State Fault Refusal :=
  .next (({ State.reset with
    agenda := s.agenda, ticks := s.ticks, resetAt := s.ticks, coldAt := s.ticks, fresh := s.fresh, breaks := s.breaks, fw := s.fw,
    nonVolatile := s.nonVolatile, reply := s.reply, upsets := s.upsets, flips := s.flips }).setField devst 3 1 (if s.nonVolatile then 1 else 0))

/-- Registers that a warm reset keeps: DEVST, FWSTAT's slots, and the status of clusters out of service. -/
def warmRegs (s : State) : List (Nat × Word) :=
  let keep := (s.dev.filter fun r => r.1 = devst || r.1 = fwstat || (List.range 32).any fun c => r.1 = clusterCtl c && getBits r.2 4 2 = 2)
  keep.map fun r => if r.1 = fwstat then (r.1, r.2 &&& 0xF0000) else r

/-- WARM_RESET (R427, R428): the chronograph, memory, parts retired until the next cold reset, firmware and power stay (log 28). -/
def execWarmReset (s : State) : Host.Outcome State Fault Refusal :=
  .next { State.reset with
    agenda := s.agenda, ticks := s.ticks, resetAt := s.ticks, coldAt := s.coldAt, fresh := s.fresh, breaks := s.breaks, fw := s.fw,
    nonVolatile := s.nonVolatile, reply := s.reply,
    upsets := s.upsets, flips := s.flips,
    mem := s.mem, tarn := s.tarn, poison := s.poison, compressed := s.compressed, retired := s.retired, badBands := s.badBands, chron := s.chron,
    powered := s.powered, throttle := s.throttle, down := s.down, dev := (warmRegs s).filter fun r => r.2 ≠ devReset r.1 }

end Sys2Proof.Machine
end

