-- ==== Sys2Proof/Machine/Sync.lean ====
section
/-! DEFINITION. Named barriers and cache control: majors 0x36 and 0x37 (R237 to R241). -/

namespace Sys2Proof.Machine

/-- A trap owed on a command that a barrier counted comes first (R434). -/
def takeCounted (n : Nat) : M Unit := takeOwed fun c => c.ck = 0 && c.ca = n

/-- The strand waits at its pc in a way that `run` says; the end of the wait moves it on (R237, R239). -/
def Strand.waitAt (t : Strand) (run : Run) : Strand := { t with run := run, armed := none }

/-- Arrive and go on as `after` says; a strand with an arrival in the current round waits until that round completes (R237). A number that
binds no level of the strand's launch names the core's unbound instance, also where another launch reserves it: only BARI is refused there (R238,
R284; DESIGN CHOICE, log 31). -/
def arriveAs (n : Nat) (after : Strand → Strand) : M Unit := do
  if (← getS).arrivals.contains n then modS fun t => t.waitAt (.waitFree n)
  else
    modS after
    modify fun s => s.arrive s.strand n

/-- BAR (R237). -/
def barrierWait (n : Nat) : M Unit := do
  takeCounted n
  arriveAs n fun t => t.waitAt (.waitBar n)

/-- BAR (R237). -/
def execBar (n : BitVec 7) (s : State) : Host.Outcome State Fault Refusal :=
  runM true (barrierWait n.toNat) s

/-- BARA (R237). -/
def execBara (n : BitVec 7) (s : State) : Host.Outcome State Fault Refusal :=
  runM true (arriveAs n.toNat Strand.advance) s

/-- BARW's return through PEND = 0: it observes what the barrier counted, and takes a trap that this makes owed (R237, R312, R434). -/
def observeCounted (n : Nat) : M Unit := do
  let s ← get
  let t := s.strand
  let counted := s.countedBy (coreOf t.place) n (s.ownerOf t n)
  set (s.observeAll counted t.flat)
  takeOwed fun c => counted.contains c.id
  modS Strand.advance

/-- PEND of the strand's instance of a barrier. -/
def State.pendOf (s : State) (t : Strand) (n : Nat) : Nat := (s.barrier (coreOf t.place) n (s.ownerOf t n)).pend

/-- BARW (R237). With an arrival in a round that goes on, the strand waits for its end; else it waits until PEND is 0. -/
def barrierOnlyWait (n : Nat) : M Unit := do
  takeCounted n
  let s ← get
  if s.strand.arrivals.contains n then modS fun t => t.waitAt (.waitBar n)
  else if s.pendOf s.strand n ≠ 0 then modS fun t => t.waitAt (.waitPend n)
  else observeCounted n

/-- BARW (R237). -/
def execBarw (n : BitVec 7) (s : State) : Host.Outcome State Fault Refusal :=
  runM true (barrierOnlyWait n.toNat) s

/-- The end of BARW's wait for PEND = 0, or for a command that owes a trap (R237, R434). -/
def finishPend (n : Nat) : M Unit := do
  modS fun u => { u with run := .ready }
  takeCounted n
  observeCounted n

/-- The strand's next turn does something: it can execute an instruction, or what it waits for has come (R234, R237, R434). -/
def State.canGo (s : State) (t : Strand) : Bool :=
  t.saved.isNone && !t.due &&
    (match t.run with
     | .ready => true
     | .waitPend b => decide (s.pendOf t b = 0) || s.owedTo t
     | .waitWord key _ bound => decide (bound ≤ s.wordNow t key) || s.owedTo t
     | _ => false)

/-- A turn of the acting strand that ends a wait; `none` where it does not wait so. -/
def State.endOfWait (s : State) : Option (Host.Outcome State Fault Refusal) :=
  match s.strand.run with
  | .waitPend b => some (runM true (finishPend b) s)
  | .waitWord key unc _ => some (runM true (finishToken key unc) s)
  | _ => none

/-- BARI (R237, R238). -/
def barrierInit (n : Nat) (b : BitVec 7) : M Unit := do
  let s ← get
  let t := s.strand
  if s.boundOn (coreOf t.place) n then raise { Trap.at 0x11 (BitVec.ofNat 64 n) with sub := 1 }
  let v := getBits (t.reg b).val 0 16
  let i := { s.barrier (coreOf t.place) n none with count := if v = 0 then 1 else v }
  set ((s.setBarrier i).evalBarrier i)

/-- BARI (R237, R238). -/
def execBari (n b : BitVec 7) (s : State) : Host.Outcome State Fault Refusal :=
  runStep true (barrierInit n.toNat b) s

/-- ACQ (R240). -/
def execAcq (n : BitVec 7) (s : State) : Host.Outcome State Fault Refusal :=
  .next ((s.acquireAt s.strand.place n.toNat).mapStrand Strand.advance)

/-- REL (R240). -/
def execRel (n : BitVec 7) (s : State) : Host.Outcome State Fault Refusal :=
  .next (if s.releaseBlocked n.toNat then s.waits else (s.releaseAt s.strand.place n.toNat).mapStrand Strand.advance)

/-- The line is one that a range of virtual addresses touches, on a page that the strand can read (R241). -/
def State.rangeTouches (s : State) (t : Strand) (va n line : Nat) : Bool :=
  decide (n ≠ 0) &&
    (List.range ((va + n - 1) / 4096 - va / 4096 + 1)).any fun i =>
      let page := (va / 4096 + i) % 2 ^ 52
      let v := page * 4096 + line * 64 % 4096
      decide (page < 2 ^ 40) && decide (va / 64 ≤ v / 64) && decide (v / 64 ≤ (va + n - 1) / 64) &&
        (match (s.translate t.party (page * 4096) .read).2 with
         | .ok x => decide (x.key / 4096 = line * 64 / 4096)
         | .error _ => false)

/-- Write back the dirty guest copies of the range's lines (R241); the FIFO keeps its order (R308). -/
def State.flushRange (s : State) (va n : Nat) : State :=
  let core := coreOf s.strand.place
  let lines := ((s.core core).fifo.map fun e => lineOf e.key).filter (s.rangeTouches s.strand va n)
  lines.foldl (fun u l => u.drainLine core l (u.core core).fifo.length) s

/-- A write-back waits while the core's FIFO holds a write to a locked page (R294). -/
def State.flushBlocked (s : State) : Bool := s.drainBlocked (coreOf s.strand.place)

/-- The range a CFLUSH or a CINV acts on. -/
def rangeLen (b : Word) : Nat := min b.toNat (2 ^ 32)

/-- CFLUSH (R241). -/
def execCflush (a b : BitVec 7) (s : State) : Host.Outcome State Fault Refusal :=
  .next (if s.flushBlocked then s.waits
    else (s.flushRange (s.strand.reg a).val.toNat (rangeLen (s.strand.reg b).val)).mapStrand Strand.advance)

/-- CINV's invalidations: the range's guest copies, and by a free choice every other copy of the core too (R241). -/
def State.invalidateRange (s : State) (va n : Nat) : State :=
  let core := coreOf s.strand.place
  let s1 := s.flushRange va n
  let s2 := { s1 with fresh := s1.fresh + 1, guests := s1.guests.filter fun g => !(g.core = core && s.rangeTouches s.strand va n g.line) }
  if Config.pick s1.fresh % 2 = 0 then s2
  else { s2.drainAll core with guests := s2.guests.filter fun g => g.core ≠ core }

/-- CINV (R241). -/
def execCinv (a b : BitVec 7) (s : State) : Host.Outcome State Fault Refusal :=
  .next (if s.flushBlocked then s.waits
    else (s.invalidateRange (s.strand.reg a).val.toNat (rangeLen (s.strand.reg b).val)).mapStrand Strand.advance)

end Sys2Proof.Machine
end

