-- ==== Sys2Proof/Machine/Dispatch.lean ====
section
/-! DEFINITION. One arm per instruction: the meaning it calls. -/

namespace Sys2Proof.Machine

def exec (i : Instr) (s : State) : Host.Outcome State Fault Refusal :=
  match i with
  | .add d a b => Sys2Proof.Machine.execAdd d a b s
  | .sub d a b => Sys2Proof.Machine.execSub d a b s
  | .and d a b => Sys2Proof.Machine.execAnd d a b s
  | .or d a b => Sys2Proof.Machine.execOr d a b s
  | .xor d a b => Sys2Proof.Machine.execXor d a b s
  | .andn d a b => Sys2Proof.Machine.execAndn d a b s
  | .orn d a b => Sys2Proof.Machine.execOrn d a b s
  | .xnor d a b => Sys2Proof.Machine.execXnor d a b s
  | .sll d a b => Sys2Proof.Machine.execSll d a b s
  | .srl d a b => Sys2Proof.Machine.execSrl d a b s
  | .sra d a b => Sys2Proof.Machine.execSra d a b s
  | .rol d a b => Sys2Proof.Machine.execRol d a b s
  | .ror d a b => Sys2Proof.Machine.execRor d a b s
  | .slt d a b => Sys2Proof.Machine.execSlt d a b s
  | .sltu d a b => Sys2Proof.Machine.execSltu d a b s
  | .seq d a b => Sys2Proof.Machine.execSeq d a b s
  | .sne d a b => Sys2Proof.Machine.execSne d a b s
  | .min d a b => Sys2Proof.Machine.execMin d a b s
  | .max d a b => Sys2Proof.Machine.execMax d a b s
  | .minu d a b => Sys2Proof.Machine.execMinu d a b s
  | .maxu d a b => Sys2Proof.Machine.execMaxu d a b s
  | .mul d a b => Sys2Proof.Machine.execMul d a b s
  | .mulh d a b => Sys2Proof.Machine.execMulh d a b s
  | .mulhu d a b => Sys2Proof.Machine.execMulhu d a b s
  | .mulhsu d a b => Sys2Proof.Machine.execMulhsu d a b s
  | .div d a b => Sys2Proof.Machine.execDiv d a b s
  | .divu d a b => Sys2Proof.Machine.execDivu d a b s
  | .rem d a b => Sys2Proof.Machine.execRem d a b s
  | .remu d a b => Sys2Proof.Machine.execRemu d a b s
  | .clz d a => Sys2Proof.Machine.execClz d a s
  | .ctz d a => Sys2Proof.Machine.execCtz d a s
  | .popc d a => Sys2Proof.Machine.execPopc d a s
  | .brev d a => Sys2Proof.Machine.execBrev d a s
  | .bswap d a => Sys2Proof.Machine.execBswap d a s
  | .sextb d a => Sys2Proof.Machine.execSextb d a s
  | .sexth d a => Sys2Proof.Machine.execSexth d a s
  | .sextw d a => Sys2Proof.Machine.execSextw d a s
  | .addi d a imm => Sys2Proof.Machine.execAddi d a imm s
  | .andi d a imm => Sys2Proof.Machine.execAndi d a imm s
  | .ori d a imm => Sys2Proof.Machine.execOri d a imm s
  | .xori d a imm => Sys2Proof.Machine.execXori d a imm s
  | .slti d a imm => Sys2Proof.Machine.execSlti d a imm s
  | .sltui d a imm => Sys2Proof.Machine.execSltui d a imm s
  | .slli d a amt => Sys2Proof.Machine.execSlli d a amt s
  | .srli d a amt => Sys2Proof.Machine.execSrli d a amt s
  | .srai d a amt => Sys2Proof.Machine.execSrai d a amt s
  | .rori d a amt => Sys2Proof.Machine.execRori d a amt s
  | .lih d imm => Sys2Proof.Machine.execLih d imm s
  | .pcadd d imm => Sys2Proof.Machine.execPcadd d imm s
  | .ldb d a off => Sys2Proof.Machine.execLdb d a off s
  | .ldh d a off => Sys2Proof.Machine.execLdh d a off s
  | .ldw d a off => Sys2Proof.Machine.execLdw d a off s
  | .ldd d a off => Sys2Proof.Machine.execLdd d a off s
  | .ldbu d a off => Sys2Proof.Machine.execLdbu d a off s
  | .ldhu d a off => Sys2Proof.Machine.execLdhu d a off s
  | .ldwu d a off => Sys2Proof.Machine.execLdwu d a off s
  | .stb b a off => Sys2Proof.Machine.execStb b a off s
  | .sth b a off => Sys2Proof.Machine.execSth b a off s
  | .stw b a off => Sys2Proof.Machine.execStw b a off s
  | .std b a off => Sys2Proof.Machine.execStd b a off s
  | .ldab d a sc off => Sys2Proof.Machine.execLdab d a sc off s
  | .ldah d a sc off => Sys2Proof.Machine.execLdah d a sc off s
  | .ldaw d a sc off => Sys2Proof.Machine.execLdaw d a sc off s
  | .ldad d a sc off => Sys2Proof.Machine.execLdad d a sc off s
  | .stlb b a sc off => Sys2Proof.Machine.execStlb b a sc off s
  | .stlh b a sc off => Sys2Proof.Machine.execStlh b a sc off s
  | .stlw b a sc off => Sys2Proof.Machine.execStlw b a sc off s
  | .stld b a sc off => Sys2Proof.Machine.execStld b a sc off s
  | .amoadd d a b => Sys2Proof.Machine.execAmoadd d a b s
  | .amoand d a b => Sys2Proof.Machine.execAmoand d a b s
  | .amoor d a b => Sys2Proof.Machine.execAmoor d a b s
  | .amoxor d a b => Sys2Proof.Machine.execAmoxor d a b s
  | .amomin d a b => Sys2Proof.Machine.execAmomin d a b s
  | .amomax d a b => Sys2Proof.Machine.execAmomax d a b s
  | .amominu d a b => Sys2Proof.Machine.execAmominu d a b s
  | .amomaxu d a b => Sys2Proof.Machine.execAmomaxu d a b s
  | .amoswap d a b => Sys2Proof.Machine.execAmoswap d a b s
  | .amocas d a b => Sys2Proof.Machine.execAmocas d a b s
  | .amofadd32 d a b => Sys2Proof.Machine.execAmofadd32 d a b s
  | .amofadd64 d a b => Sys2Proof.Machine.execAmofadd64 d a b s
  | .amoaddO d a b => Sys2Proof.Machine.execAmoaddO d a b s
  | .amoandO d a b => Sys2Proof.Machine.execAmoandO d a b s
  | .amoorO d a b => Sys2Proof.Machine.execAmoorO d a b s
  | .amoxorO d a b => Sys2Proof.Machine.execAmoxorO d a b s
  | .amominO d a b => Sys2Proof.Machine.execAmominO d a b s
  | .amomaxO d a b => Sys2Proof.Machine.execAmomaxO d a b s
  | .amominuO d a b => Sys2Proof.Machine.execAmominuO d a b s
  | .amomaxuO d a b => Sys2Proof.Machine.execAmomaxuO d a b s
  | .amoswapO d a b => Sys2Proof.Machine.execAmoswapO d a b s
  | .amocasO d a b => Sys2Proof.Machine.execAmocasO d a b s
  | .amofadd32O d a b => Sys2Proof.Machine.execAmofadd32O d a b s
  | .amofadd64O d a b => Sys2Proof.Machine.execAmofadd64O d a b s
  | .beq a b off => Sys2Proof.Machine.execBeq a b off s
  | .bne a b off => Sys2Proof.Machine.execBne a b off s
  | .blt a b off => Sys2Proof.Machine.execBlt a b off s
  | .bge a b off => Sys2Proof.Machine.execBge a b off s
  | .bltu a b off => Sys2Proof.Machine.execBltu a b off s
  | .bgeu a b off => Sys2Proof.Machine.execBgeu a b off s
  | .loopr off => Sys2Proof.Machine.execLoopr off s
  | .j off => Sys2Proof.Machine.execJ off s
  | .call off => Sys2Proof.Machine.execCall off s
  | .jr d a imm => Sys2Proof.Machine.execJr d a imm s
  | .trap n => Sys2Proof.Machine.execTrap n s
  | .tret => Sys2Proof.Machine.execTret s
  | .exit a => Sys2Proof.Machine.execExit a s
  | .fence n => Sys2Proof.Machine.execFence n s
  | .winb n => Sys2Proof.Machine.execWinb n s
  | .rcpt d => Sys2Proof.Machine.execRcpt d s
  | .addrc d a n => Sys2Proof.Machine.execAddrc d a n s
  | .nop => Sys2Proof.Machine.execNop s
  | .crd d imm => Sys2Proof.Machine.execCrd d imm s
  | .cwr a imm => Sys2Proof.Machine.execCwr a imm s
  | .cset a imm => Sys2Proof.Machine.execCset a imm s
  | .cclr a imm => Sys2Proof.Machine.execCclr a imm s
  | .illegalInstruction w => Sys2Proof.Machine.execIllegalInstruction w s
  | .vadd d a b ca cb mk => Sys2Proof.Machine.execVadd d a b ca cb mk s
  | .vsub d a b ca cb mk => Sys2Proof.Machine.execVsub d a b ca cb mk s
  | .vmul d a b ca cb mk => Sys2Proof.Machine.execVmul d a b ca cb mk s
  | .vdiv d a b ca cb mk => Sys2Proof.Machine.execVdiv d a b ca cb mk s
  | .vfma d a b ca cb mk => Sys2Proof.Machine.execVfma d a b ca cb mk s
  | .vfms d a b ca cb mk => Sys2Proof.Machine.execVfms d a b ca cb mk s
  | .vfnma d a b ca cb mk => Sys2Proof.Machine.execVfnma d a b ca cb mk s
  | .vfnms d a b ca cb mk => Sys2Proof.Machine.execVfnms d a b ca cb mk s
  | .vmin d a b ca cb mk => Sys2Proof.Machine.execVmin d a b ca cb mk s
  | .vmax d a b ca cb mk => Sys2Proof.Machine.execVmax d a b ca cb mk s
  | .vabs d a ca mk => Sys2Proof.Machine.execVabs d a ca mk s
  | .vneg d a ca mk => Sys2Proof.Machine.execVneg d a ca mk s
  | .vsqrt d a ca mk => Sys2Proof.Machine.execVsqrt d a ca mk s
  | .vrsqrt d a ca mk => Sys2Proof.Machine.execVrsqrt d a ca mk s
  | .vrecip d a ca mk => Sys2Proof.Machine.execVrecip d a ca mk s
  | .vexp2 d a ca mk => Sys2Proof.Machine.execVexp2 d a ca mk s
  | .vlog2 d a ca mk => Sys2Proof.Machine.execVlog2 d a ca mk s
  | .vand d a b ca cb mk => Sys2Proof.Machine.execVand d a b ca cb mk s
  | .vor d a b ca cb mk => Sys2Proof.Machine.execVor d a b ca cb mk s
  | .vxor d a b ca cb mk => Sys2Proof.Machine.execVxor d a b ca cb mk s
  | .vshift d a b ca cb mk => Sys2Proof.Machine.execVshift d a b ca cb mk s
  | .vcmpeq d a b ca cb mk => Sys2Proof.Machine.execVcmpeq d a b ca cb mk s
  | .vcmplt d a b ca cb mk => Sys2Proof.Machine.execVcmplt d a b ca cb mk s
  | .vcmple d a b ca cb mk => Sys2Proof.Machine.execVcmple d a b ca cb mk s
  | .vcmpne d a b ca cb mk => Sys2Proof.Machine.execVcmpne d a b ca cb mk s
  | .vsel d a b ca cb => Sys2Proof.Machine.execVsel d a b ca cb s
  | .vcvt d a ca mk => Sys2Proof.Machine.execVcvt d a ca mk s
  | .vcode d n => Sys2Proof.Machine.execVcode d n s
  | .vbcast d a b mk => Sys2Proof.Machine.execVbcast d a b mk s
  | .vredsum d a ca mk => Sys2Proof.Machine.execVredsum d a ca mk s
  | .vredmax d a ca mk => Sys2Proof.Machine.execVredmax d a ca mk s
  | .vredmin d a ca mk => Sys2Proof.Machine.execVredmin d a ca mk s
  | .vscan d a ca mk => Sys2Proof.Machine.execVscan d a ca mk s
  | .vgathr d a b ca cb mk => Sys2Proof.Machine.execVgathr d a b ca cb mk s
  | .vslide d a b ca mk => Sys2Proof.Machine.execVslide d a b ca mk s
  | .vcomp d a b ca => Sys2Proof.Machine.execVcomp d a b ca s
  | .vexpd d a b ca => Sys2Proof.Machine.execVexpd d a b ca s
  | .vid d a mk => Sys2Proof.Machine.execVid d a mk s
  | .vrand d a mk => Sys2Proof.Machine.execVrand d a mk s
  | .voffs d a ca => Sys2Proof.Machine.execVoffs d a ca s
  | .vlens d a ca => Sys2Proof.Machine.execVlens d a ca s
  | .vadds d a b ca mk => Sys2Proof.Machine.execVadds d a b ca mk s
  | .vmuls d a b ca mk => Sys2Proof.Machine.execVmuls d a b ca mk s
  | .vshls d a b ca mk => Sys2Proof.Machine.execVshls d a b ca mk s
  | .vshrs d a b ca mk => Sys2Proof.Machine.execVshrs d a b ca mk s
  | .vands d a b ca mk => Sys2Proof.Machine.execVands d a b ca mk s
  | .vfmas d a b ca mk => Sys2Proof.Machine.execVfmas d a b ca mk s
  | .vmaxs d a b ca mk => Sys2Proof.Machine.execVmaxs d a b ca mk s
  | .vmins d a b ca mk => Sys2Proof.Machine.execVmins d a b ca mk s
  | .kand d a b => Sys2Proof.Machine.execKand d a b s
  | .kor d a b => Sys2Proof.Machine.execKor d a b s
  | .kxor d a b => Sys2Proof.Machine.execKxor d a b s
  | .kcnt d a => Sys2Proof.Machine.execKcnt d a s
  | .knot d a => Sys2Proof.Machine.execKnot d a s
  | .kfirst d a => Sys2Proof.Machine.execKfirst d a s
  | .setvl d a b => Sys2Proof.Machine.execSetvl d a b s
  | .getvl d => Sys2Proof.Machine.execGetvl d s
  | .vframe d => Sys2Proof.Machine.execVframe d s
  | .setmask n => Sys2Proof.Machine.execSetmask n s
  | .vspill d a => Sys2Proof.Machine.execVspill d a s
  | .vfill d a => Sys2Proof.Machine.execVfill d a s
  | .vxch d a b ca mk => Sys2Proof.Machine.execVxch d a b ca mk s
  | .vappend a b => Sys2Proof.Machine.execVappend a b s
  | .vld d a mk => Sys2Proof.Machine.execVld d a mk s
  | .vst d a mk => Sys2Proof.Machine.execVst d a mk s
  | .vlds d a b mk => Sys2Proof.Machine.execVlds d a b mk s
  | .vsts d a b mk => Sys2Proof.Machine.execVsts d a b mk s
  | .vldc d a => Sys2Proof.Machine.execVldc d a s
  | .vldcf d a => Sys2Proof.Machine.execVldcf d a s
  | .vstc d a => Sys2Proof.Machine.execVstc d a s
  | .vpref a b => Sys2Proof.Machine.execVpref a b s
  | .vgth d a b cb mk => Sys2Proof.Machine.execVgth d a b cb mk s
  | .vsct d a b cb mk => Sys2Proof.Machine.execVsct d a b cb mk s
  | .vgl d a b cb mk => Sys2Proof.Machine.execVgl d a b cb mk s
  | .vsc d a b cb => Sys2Proof.Machine.execVsc d a b cb s
  | .vamoadd d a b cb mk => Sys2Proof.Machine.execVamoadd d a b cb mk s
  | .vamomin d a b cb mk => Sys2Proof.Machine.execVamomin d a b cb mk s
  | .vamomax d a b cb mk => Sys2Proof.Machine.execVamomax d a b cb mk s
  | .vamoxch d a b cb mk => Sys2Proof.Machine.execVamoxch d a b cb mk s
  | .vamoand d a b cb mk => Sys2Proof.Machine.execVamoand d a b cb mk s
  | .vamoor d a b cb mk => Sys2Proof.Machine.execVamoor d a b cb mk s
  | .vamoxor d a b cb mk => Sys2Proof.Machine.execVamoxor d a b cb mk s
  | .vamoo d a b cb mk => Sys2Proof.Machine.execVamoo d a b cb mk s
  | .cmdb d a ca mk => Sys2Proof.Machine.execCmdb d a ca mk s
  | .cwait a b => Sys2Proof.Machine.execCwait a b s
  | .ctok d a => Sys2Proof.Machine.execCtok d a s
  | .scbq d a b => Sys2Proof.Machine.execScbq d a b s
  | .bar n => Sys2Proof.Machine.execBar n s
  | .bara n => Sys2Proof.Machine.execBara n s
  | .barw n => Sys2Proof.Machine.execBarw n s
  | .bari n b => Sys2Proof.Machine.execBari n b s
  | .acq n => Sys2Proof.Machine.execAcq n s
  | .rel n => Sys2Proof.Machine.execRel n s
  | .cflush a b => Sys2Proof.Machine.execCflush a b s
  | .cinv a b => Sys2Proof.Machine.execCinv a b s
  | .tshape d a => Sys2Proof.Machine.execTshape d a s
  | .tzero d => Sys2Proof.Machine.execTzero d s
  | .tmma d a b => Sys2Proof.Machine.execTmma d a b s
  | .tlru d a b ca cb => Sys2Proof.Machine.execTlru d a b ca cb s
  | .tmmal d a b => Sys2Proof.Machine.execTmmal d a b s
  | .tadd d a => Sys2Proof.Machine.execTadd d a s
  | .trecomp d => Sys2Proof.Machine.execTrecomp d s
  | .tdense d a => Sys2Proof.Machine.execTdense d a s
  | .trank d a => Sys2Proof.Machine.execTrank d a s
  | .tscale a => Sys2Proof.Machine.execTscale a s
  | .tdup d a => Sys2Proof.Machine.execTdup d a s
  | .tcvt d a => Sys2Proof.Machine.execTcvt d a s
  | .ewin a b => Sys2Proof.Machine.execEwin a b s
  | .ersv a b ca mk => Sys2Proof.Machine.execErsv a b ca mk s
  | .echk d a b ca mk => Sys2Proof.Machine.execEchk d a b ca mk s
  | .eadv a b => Sys2Proof.Machine.execEadv a b s
  | .issueSlot core ready chain => Sys2Proof.Machine.execIssueSlot core ready chain s
  | .levelBarrierRelease launch level group => Sys2Proof.Machine.execLevelBarrierRelease launch level group s
  | .copy die eng => Sys2Proof.Machine.execCopy die eng s
  | .fill die eng => Sys2Proof.Machine.execFill die eng s
  | .scales die eng => Sys2Proof.Machine.execScales die eng s
  | .convert die eng => Sys2Proof.Machine.execConvert die eng s
  | .hostCopy die eng => Sys2Proof.Machine.execHostCopy die eng s
  | .exchFill die eng => Sys2Proof.Machine.execExchFill die eng s
  | .reduce stack => Sys2Proof.Machine.execReduce stack s
  | .search stack => Sys2Proof.Machine.execSearch stack s
  | .listRequest stack ctx node => Sys2Proof.Machine.execListRequest stack ctx node s
  | .distanceRequest stack ctx node => Sys2Proof.Machine.execDistanceRequest stack ctx node s
  | .answer stack ctx node => Sys2Proof.Machine.execAnswer stack ctx node s
  | .engineCompletion cmd => Sys2Proof.Machine.execEngineCompletion cmd s
  | .orderedAtomicArrival n => Sys2Proof.Machine.execOrderedAtomicArrival n s
  | .orderedAtomicApply die slice id => Sys2Proof.Machine.execOrderedAtomicApply die slice id s
  | .dirtyFifoDrain core => Sys2Proof.Machine.execDirtyFifoDrain core s
  | .l1Writeback line metaLost => Sys2Proof.Machine.execL1Writeback line metaLost s
  | .relayout die slice page chunks part => Sys2Proof.Machine.execRelayout die slice page chunks part s
  | .stalledWriteResume die part chunks => Sys2Proof.Machine.execStalledWriteResume die part chunks s
  | .patrolScrub unit failing correctable => Sys2Proof.Machine.execPatrolScrub unit failing correctable s
  | .pageMigration old new entry part => Sys2Proof.Machine.execPageMigration old new entry part s
  | .trefiExpiry stack pch => Sys2Proof.Machine.execTrefiExpiry stack pch s
  | .refresh stack pch => Sys2Proof.Machine.execRefresh stack pch s
  | .selfRefreshEntry stack pch => Sys2Proof.Machine.execSelfRefreshEntry stack pch s
  | .selfRefreshExit stack pch => Sys2Proof.Machine.execSelfRefreshExit stack pch s
  | .pchRetrain stack pch on => Sys2Proof.Machine.execPchRetrain stack pch on s
  | .preemption place => Sys2Proof.Machine.execPreemption place s
  | .restore place => Sys2Proof.Machine.execRestore place s
  | .clusterDrain die cluster bnf => Sys2Proof.Machine.execClusterDrain die cluster bnf s
  | .clusterRetire die cluster target => Sys2Proof.Machine.execClusterRetire die cluster target s
  | .lgenWrite core v => Sys2Proof.Machine.execLgenWrite core v s
  | .trootWrite part v => Sys2Proof.Machine.execTrootWrite part v s
  | .tlbinvAll part => Sys2Proof.Machine.execTlbinvAll part s
  | .tlbinvRange part v => Sys2Proof.Machine.execTlbinvRange part v s
  | .gAppend part tail => Sys2Proof.Machine.execGAppend part tail s
  | .kernel part node places tops => Sys2Proof.Machine.execKernel part node places tops s
  | .copyNode part node => Sys2Proof.Machine.execCopyNode part node s
  | .convertNode part node => Sys2Proof.Machine.execConvertNode part node s
  | .reduceNode part node => Sys2Proof.Machine.execReduceNode part node s
  | .hostCopyNode part node => Sys2Proof.Machine.execHostCopyNode part node s
  | .searchBatch part node => Sys2Proof.Machine.execSearchBatch part node s
  | .compress part node => Sys2Proof.Machine.execCompress part node s
  | .decompress part node => Sys2Proof.Machine.execDecompress part node s
  | .signal part node => Sys2Proof.Machine.execSignal part node s
  | .wait part node => Sys2Proof.Machine.execWait part node s
  | .join part node => Sys2Proof.Machine.execJoin part node s
  | .nodeEnd part node => Sys2Proof.Machine.execNodeEnd part node s
  | .hostWrite part addr data => Sys2Proof.Machine.execHostWrite part addr data s
  | .fabricRequest part addr op data => Sys2Proof.Machine.execFabricRequest part addr op data s
  | .flit link data => Sys2Proof.Machine.execFlit link data s
  | .flitReplay link seq => Sys2Proof.Machine.execFlitReplay link seq s
  | .heartbeat link => Sys2Proof.Machine.execHeartbeat link s
  | .heartbeatTimeout dev => Sys2Proof.Machine.execHeartbeatTimeout dev s
  | .fatalErrorFlit dev => Sys2Proof.Machine.execFatalErrorFlit dev s
  | .devFail dev => Sys2Proof.Machine.execDevFail dev s
  | .linkRecalibration link lane => Sys2Proof.Machine.execLinkRecalibration link lane s
  | .create part => Sys2Proof.Machine.execCreate part s
  | .resize part => Sys2Proof.Machine.execResize part s
  | .destroy part => Sys2Proof.Machine.execDestroy part s
  | .release part => Sys2Proof.Machine.execRelease part s
  | .resumeStrand part seq => Sys2Proof.Machine.execResumeStrand part seq s
  | .kill part seq => Sys2Proof.Machine.execKill part seq s
  | .fwLoad comp => Sys2Proof.Machine.execFwLoad comp s
  | .fwSwitch comp starts => Sys2Proof.Machine.execFwSwitch comp starts s
  | .chrExp => Sys2Proof.Machine.execChrExp s
  | .getCertificate fn => Sys2Proof.Machine.execGetCertificate fn s
  | .challenge fn nonce => Sys2Proof.Machine.execChallenge fn nonce s
  | .getMeasurements fn => Sys2Proof.Machine.execGetMeasurements fn s
  | .srtBaseWrite stack v => Sys2Proof.Machine.execSrtBaseWrite stack v s
  | .debugRead part addr len => Sys2Proof.Machine.execDebugRead part addr len s
  | .registerWrite addr v => Sys2Proof.Machine.execRegisterWrite addr v s
  | .thermalThrottle => Sys2Proof.Machine.execThermalThrottle s
  | .fatalShutdown => Sys2Proof.Machine.execFatalShutdown s
  | .powerUp => Sys2Proof.Machine.execPowerUp s
  | .coldReset => Sys2Proof.Machine.execColdReset s
  | .warmReset => Sys2Proof.Machine.execWarmReset s
  | .fqHeadWrite part v => Sys2Proof.Machine.execFqHeadWrite part v s
  | .hostRead part addr len => Sys2Proof.Machine.execHostRead part addr len s
  | .pcieCompletion cmd => Sys2Proof.Machine.execPcieCompletion cmd s
  | .hot stack on => Sys2Proof.Machine.execHot stack on s
  | .cont => Sys2Proof.Machine.execCont s
  | .killedByTheHost part node => Sys2Proof.Machine.execKilledByTheHost part node s

end Sys2Proof.Machine
end

