-- ==== Sys2Proof/Machine/Cycle.lean ====
section
/-! DEFINITION. What one step does when no device step is on the agenda: fetch, decode and execute the acting strand's next
instruction (R77), or let another strand act; and the minimal launch that places one instruction where it is fetched next. -/

namespace Sys2Proof.Machine

/-! ## Failures of a core (R171, R172) -/

/-- The core is marked failing (R172, R287); the second of its cluster makes the cluster drain (R288). -/
def State.markFailing (s : State) (core : Nat) : State :=
  let cluster := core / 8
  let s1 := s.setField (clusterCtl cluster) (16 + core % 8) 1 1
  let n := ((List.range 8).filter fun i => (s1.reg64 (clusterCtl cluster)).getLsbD (16 + i)).length
  if 2 ≤ n && s1.clusterState cluster = 0 then s1.drainCluster cluster false else s1

/-- L1 banks that a strand has reserved on a core (R154): from the last one down, by slot (log 46). -/
def State.reservedBanks (s : State) (t : Strand) (core : Nat) : List Nat :=
  let before := ((s.onCore core).filter fun u => decide (u.place < t.place)).map (·.reserve)
  (List.range t.reserve).map fun i => 11 - (before.sum + i)

/-- Banks that a strand's purses use on a core: its slots' own, those it has reserved there and those it has borrowed. -/
def State.banksOn (s : State) (t : Strand) (core : Nat) : List Nat :=
  ((t.places.filter fun p => coreOf p = core).flatMap fun p => (List.range 3).map fun i => 12 + 3 * (p % 4) + i) ++
    s.reservedBanks t core ++ (t.borrowed.filter fun b => b / 24 = core).map (· % 24)

/-- A bank that the acting strand's purses use, with its core, that has a parity error (log 26); a span strand's segments use banks of their own
cores. -/
def State.badBank (s : State) : Option (Nat × Nat) :=
  ((s.strand.places.map coreOf).eraseDups.flatMap fun core => (s.banksOn s.strand core).map (core, ·)).find?
    fun b => s.upsetOf (4096 + 24 * b.1 + b.2) ≠ 0

/-- Every strand whose purses use the bank suspends with MACHINE_CHECK, and the core is marked failing. -/
def State.failBank (s : State) (core bank : Nat) : State :=
  let hit := (s.onCore core).filter fun t =>
    (s.banksOn t core).contains bank && t.saved.isNone && (match t.run with | .suspended _ | .frozen _ => false | _ => true)
  ((hit.foldl (fun u t => u.suspendAt t.place 0x18 0 1) s).clearUpset (4096 + 24 * core + bank)).markFailing core

/-- Count residue failures of a launch on a core; two mark the core failing. -/
def State.countResidue (s : State) (n : Nat) : State :=
  let k := (coreOf s.strand.place, s.strand.launch)
  let all := ((s.failures.find? (·.1 = k)).map (·.2)).getD 0 + n
  let kept := s.failures.filter fun (x : (Nat × Nat) × Nat) => decide (x.1 ≠ k)
  let s0 : State := { s with failures := kept ++ [(k, all)] }
  let s1 := s0.chronicle (dieOf s.strand.place) s.strand.part 0x18 0 0
  if 2 ≤ all then s1.markFailing (coreOf s.strand.place) else s1

/-- The residue check of the next instruction fails once, and it runs again; or twice, and the strand suspends at the first element not completed. -/
def State.failResidue (s : State) : Option State × State :=
  let n := s.upsetOf s.strand.place
  if n = 0 then (none, s)
  else
    let s1 := (s.clearUpset s.strand.place).countResidue (min n 2)
    if 2 ≤ n then
      let elem := match s.strand.armed with | some (a, p) => if a = s.strand.pc then getBits p 0 13 else 0 | none => 0
      (some (s1.suspendAt s.strand.place 0x18 elem 1), s1)
    else (none, s1)

/-! ## The next instruction -/

/-- The acting strand's next instruction (R77): a fetch fault comes first, then the illegal word, then what the instruction does. The record of a fetch fault
has no instruction word to show (log 42), and keeps the restart point armed for the address (R145). -/
def runNext (s : State) : Host.Outcome State Fault Refusal :=
  match s.fetch with
  | (s1, .error x) => .next ((s1.mapStrand fun t => { t with word := 0 }).takeTrap false s.strand.pc (s.strand.keepPoint x))
  | (s1, .ok w) =>
    let s2 := s1.mapStrand fun t => { t with word := w }
    match decodeWord w with
    | .ok i => exec i s2
    | .error _ => exec (.illegalInstruction w) s2

/-- A turn while hardware failures are due: a bank's parity, then the residue of the instruction (R171). -/
def runFailing (s : State) : Host.Outcome State Fault Refusal :=
  match s.badBank with
  | some b => .next (s.failBank b.1 b.2)
  | none =>
    match s.failResidue with
    | (some t, _) => .next t
    | (none, t) => if t.canGo t.strand then runNext t else .next t

/-- kendb stops the strand before the instruction at a breakpoint, unless it continues there: after `cont`, or at an armed restart
point; one of zero begins from element 0 and stops (R24, R432). -/
def State.atBreak (s : State) : Bool :=
  s.breaks.contains s.strand.pc && !s.goOn.contains (s.strand.place, s.strand.pc) && decide (s.strand.armedHere.getD 0 = 0)

/-- The first strand whose turn does something takes the acting strand's turn. -/
def State.switchStrand (s : State) : State := s.giveTurn s.canGo

/-- The acting strand's instruction begins: what has been noted of it falls. -/
def State.begins (s : State) : State := { s with goOn := s.goOn.filter fun x => x.1 ≠ s.strand.place }

/-- The fetch has to wait (R294, R421); only with a locked page or a frozen VF can it. -/
def State.fetchWaits (s : State) : Bool := (s.locked ≠ [] || s.vfStopped s.strand.part) && s.fetchBlocked

/-- The acting strand executes an instruction. -/
def runReady (s : State) : Host.Outcome State Fault Refusal :=
  if s.atBreak then .next { s with halted := true }
  else if s.fetchWaits then .next s.waits
  else if s.upsets = [] then runNext s.begins
  else runFailing s.begins

/-- Some strand's pre-emption is due and can be done (R147). -/
def State.saveReady (s : State) : Bool := s.strands.any fun t => t.due && s.savable t

/-- One turn of the acting strand: pre-emptions that were due come first; then it ends a wait, or executes an instruction, or another strand takes its
turn. -/
def runTurn (s : State) : Host.Outcome State Fault Refusal :=
  if s.down then .fault .shutDown
  else if s.halted then .next s
  else if s.saveReady then .next s.saveDue
  else if !s.canGo s.strand then .next s.switchStrand
  else match s.endOfWait with
    | some o => o
    | none => runReady s

/-! ## Placing one instruction -/

/-- A page-table entry that names the next table. -/
def tableEntry (pa : Nat) : Nat := pa + 1

/-- A 4 KiB leaf, readable, writable, executable, for mode U, accessed and dirty. -/
def codeLeaf (pa : Nat) : Nat := pa + 0xC3F

/-- A launch of one strand, as small as a fetch allows (log 15): partition 0 holds cluster 0, band 0 and slice 0 of die 0, five tables
map one page, and the acting strand stands ready at its first word. -/
def State.minimalLaunch (s : State) : State :=
  let m := Mem.writeLE s.mem 0x1000 8 (tableEntry 0x1800)
  let m := Mem.writeLE m 0x1800 8 (tableEntry 0x2000)
  let m := Mem.writeLE m 0x2000 8 (tableEntry 0x2800)
  let m := Mem.writeLE m 0x2808 8 (tableEntry 0x3000)
  let m := Mem.writeLE m 0x3000 8 (codeLeaf 0x100000)
  let d := devSet s.dev (descAddr 0 0x00) 0x10000
  let d := devSet d (descAddr 0 0x08) 1
  let d := devSet d (descAddr 0 0x10) 1
  let d := devSet d (descAddr 0 0x18) 1
  let d := devSet d (descAddr 0 0x30) 0x1001
  { s with
    mem := m, dev := d, agenda := [], tlb := [], oldCode := [], poison := [], compressed := [], locked := [], upsets := [], flips := [], down := false, halted := false,
    parked := s.parked.map fun t => { t with due := false },
    strand := { s.strand with place := 0, part := 0, run := .ready, saved := none, due := false, pc := 0x100000, armed := none } }

/-- The key from which the acting strand's next instruction is fetched in the next step, when it is one whole step away. -/
def State.fetchKey (s : State) : Option Nat :=
  if s.agenda = [] && !s.down && !s.halted && s.strand.canRun && s.oldCode = [] && s.upsets = [] && s.flips = [] && !s.saveReady && !s.fetchWaits then
    match s.fetch with
    | (_, .ok _) => match (s.translate s.strand.party s.strand.pc.toNat .fetch).2 with | .ok x => some x.key | .error _ => none
    | _ => none
  else none

/-- Store a word where the next step fetches; no breakpoint stops it there. -/
def State.placeWord (s : State) (w : Nat) : State :=
  match s.fetchKey with
  | some k => { s.waits with mem := Mem.writeLE s.mem k 4 w }
  | none => { s.minimalLaunch.waits with mem := Mem.writeLE s.minimalLaunch.mem 0x100000 4 w }

end Sys2Proof.Machine
end

