-- ==== Sys2Proof/Machine/Step.lean ====
section
/-! DEFINITION. One step of the machine, and the state in which the very next step runs a given instruction. -/

namespace Sys2Proof.Machine

/-- One step: the device step that the agenda names first, or the acting strand's turn. -/
def step (s : State) : Host.Outcome State Fault Refusal :=
  match s.agenda with
  | e :: rest => exec e { s with agenda := rest, ticks := s.ticks + 1 }
  | [] => runTurn { s with ticks := s.ticks + 1 }

/-- `s` with the instruction of bits `w` where `step` fetches next; every instruction is one 32-bit word (R60). -/
def State.withFetchWord (s : State) (nbits w : Nat) : State := s.placeWord (w % 2 ^ min nbits 32)

end Sys2Proof.Machine
end

