-- ==== Sys2Proof/Safety.lean ====
section
/-! DEFINITION. What every state of a run keeps, and what a safe run is. -/

namespace Sys2Proof.Machine

/-- The memory holds its canonical form: keys rise strictly, and no entry holds what an unlisted key reads as. -/
def State.Inv (s : State) : Prop := Memory.wf s.mem = true

/-- `k` steps from `s` end in a next state: no fault and no refusal on the way. -/
def SafeRun (s : State) : Nat → Prop
  | 0 => True
  | k + 1 => ∃ t, step s = .next t ∧ SafeRun t k

end Sys2Proof.Machine
end

