-- ==== Sys2Proof/Certificates/Slice0/Obligations.lean ====
section
/-! DEFINITION. The statements for the provers. The tables and phrases they share are written from the spec and stand in
`Sys2Proof.Claims`. -/

open Sys2Proof Sys2Proof.Machine

namespace Sys2Proof.Claims

/-! ## Shared phrases -/

/-- The outcome of a step or of an instruction. -/
abbrev Result := Host.Outcome State Fault Refusal

/-- A register written and the pc advanced to the next word: the whole of what a register-only instruction does. -/
def wrote (s : State) (d : BitVec 7) (v : Word) (t : Bool) : State :=
  s.mapStrand fun u => (u.setReg d { val := v, tarn := t }).advance

/-- Tarnish of one and of two source registers. -/
def tarn1 (s : State) (a : BitVec 7) : Bool := (s.strand.reg a).tarn
def tarn2 (s : State) (a b : BitVec 7) : Bool := (s.strand.reg a).tarn || (s.strand.reg b).tarn

/-- Value of a register. -/
def val (s : State) (a : BitVec 7) : Word := (s.strand.reg a).val

/-- The state in which the acting strand's turn begins: one more step, and what a debugger had noted of its instruction falls. -/
def turn (s : State) : State := { s with ticks := s.ticks + 1, goOn := s.goOn.filter fun x => x.1 ≠ s.strand.place }

/-- The instruction at the pc has not begun: it will be executed again, and a breakpoint at it counts as passed (R432). -/
def waiting (s : State) : State :=
  if (s.strand.place, s.strand.pc) ∈ s.goOn then s else { s with goOn := (s.strand.place, s.strand.pc) :: s.goOn }

/-- Nothing stands between the acting strand and its next instruction: no device step is due, the device runs, no debugger holds the
strand, the strand can run, no pre-emption is due, the page it fetches from is not locked, and no hardware failure is waiting. -/
def Runs (s : State) : Prop :=
  let u : State := { s with ticks := s.ticks + 1 }
  s.agenda = [] ∧ s.down = false ∧ s.halted = false ∧ s.strand.canRun = true ∧ u.saveReady = false ∧ u.atBreak = false ∧ u.fetchWaits = false ∧ s.upsets = []

/-! ## Scalar arithmetic: the tables of R102 to R107, written from the spec -/

/-- R102: fn, the instruction, f(a, b). -/
def oprRows : List (BitVec 5 × (BitVec 7 → BitVec 7 → BitVec 7 → Instr) × (Word → Word → Word)) :=
  [(0, .add, fun a b => a + b), (1, .sub, fun a b => a - b), (2, .and, fun a b => a &&& b), (3, .or, fun a b => a ||| b),
   (4, .xor, fun a b => a ^^^ b), (5, .andn, fun a b => a &&& ~~~b), (6, .orn, fun a b => a ||| ~~~b), (7, .xnor, fun a b => ~~~(a ^^^ b)),
   (8, .sll, fun a b => a <<< (b.toNat % 64)), (9, .srl, fun a b => a >>> (b.toNat % 64)), (10, .sra, fun a b => a.sshiftRight (b.toNat % 64)),
   (11, .rol, fun a b => a.rotateLeft (b.toNat % 64)), (12, .ror, fun a b => a.rotateRight (b.toNat % 64)),
   (13, .slt, fun a b => if a.toInt < b.toInt then 1 else 0), (14, .sltu, fun a b => if a.toNat < b.toNat then 1 else 0),
   (15, .seq, fun a b => if a = b then 1 else 0), (16, .sne, fun a b => if a ≠ b then 1 else 0),
   (17, .min, fun a b => if a.toInt ≤ b.toInt then a else b), (18, .max, fun a b => if b.toInt ≤ a.toInt then a else b),
   (19, .minu, fun a b => if a.toNat ≤ b.toNat then a else b), (20, .maxu, fun a b => if b.toNat ≤ a.toNat then a else b)]

/-- R103: fn, the instruction, and from sx and ux of the operands the result and the bit of FLAGS it raises (2 is DZ, 4 is OF, 0 none). -/
def opmRows : List (BitVec 5 × (BitVec 7 → BitVec 7 → BitVec 7 → Instr) × (Word → Word → Word × Word)) :=
  [(0, .mul, fun a b => (BitVec.ofInt 64 (a.toInt * b.toInt), 0)),
   (1, .mulh, fun a b => (BitVec.ofInt 64 (Int.fdiv (a.toInt * b.toInt) (2 ^ 64)), 0)),
   (2, .mulhu, fun a b => (BitVec.ofNat 64 (a.toNat * b.toNat / 2 ^ 64), 0)),
   (3, .mulhsu, fun a b => (BitVec.ofInt 64 (Int.fdiv (a.toInt * b.toNat) (2 ^ 64)), 0)),
   (4, .div, fun a b => if b = 0 then (BitVec.ofNat 64 (2 ^ 64 - 1), 2)
      else if a.toInt = -2 ^ 63 ∧ b.toInt = -1 then (BitVec.ofNat 64 (2 ^ 63), 4) else (BitVec.ofInt 64 (a.toInt.tdiv b.toInt), 0)),
   (5, .divu, fun a b => if b = 0 then (BitVec.ofNat 64 (2 ^ 64 - 1), 2) else (BitVec.ofNat 64 (a.toNat / b.toNat), 0)),
   (6, .rem, fun a b => if b = 0 then (a, 2)
      else if a.toInt = -2 ^ 63 ∧ b.toInt = -1 then (0, 4) else (BitVec.ofInt 64 (a.toInt - b.toInt * a.toInt.tdiv b.toInt), 0)),
   (7, .remu, fun a b => if b = 0 then (a, 2) else (BitVec.ofNat 64 (a.toNat % b.toNat), 0))]

/-- A sticky bit of FLAGS[4:0] raised by a scalar instruction; FLAGS takes the tarnish of its sources (R100, R132). -/
def raised (s : State) (f : Word) (t : Bool) : State :=
  if f = 0 then s
  else s.mapStrand fun u => { u with ctl := ({ u.ctl with flags := { val := u.ctl.flags.val ||| f, tarn := t } }).seen t }

/-- R104: fn, the instruction, and what its result is of s[a]. -/
def opuRows : List (BitVec 5 × (BitVec 7 → BitVec 7 → Instr) × (Word → Word → Prop)) :=
  [(0, .clz, fun a r => r.toNat ≤ 64 ∧ (∀ i < r.toNat, a.getLsbD (63 - i) = false) ∧ (r.toNat < 64 → a.getLsbD (63 - r.toNat) = true)),
   (1, .ctz, fun a r => r.toNat ≤ 64 ∧ (∀ i < r.toNat, a.getLsbD i = false) ∧ (r.toNat < 64 → a.getLsbD r.toNat = true)),
   (2, .popc, fun a r => r.toNat = ((List.range 64).filter fun i => a.getLsbD i).length),
   (3, .brev, fun a r => ∀ i < 64, r.getLsbD (63 - i) = a.getLsbD i),
   (4, .bswap, fun a r => ∀ i < 8, r.extractLsb' (8 * (7 - i)) 8 = a.extractLsb' (8 * i) 8),
   (5, .sextb, fun a r => r = (a.extractLsb' 0 8).signExtend 64), (6, .sexth, fun a r => r = (a.extractLsb' 0 16).signExtend 64),
   (7, .sextw, fun a r => r = (a.extractLsb' 0 32).signExtend 64)]

/-- R105: major, the instruction, the result from s[a] and i = sext(imm12). -/
def immRows : List (BitVec 6 × (BitVec 7 → BitVec 7 → BitVec 12 → Instr) × (Word → Word → Word)) :=
  [(0x04, .addi, fun a i => a + i), (0x05, .andi, fun a i => a &&& i), (0x06, .ori, fun a i => a ||| i), (0x07, .xori, fun a i => a ^^^ i),
   (0x08, .slti, fun a i => if a.toInt < i.toInt then 1 else 0), (0x09, .sltui, fun a i => if a.toNat < i.toNat then 1 else 0)]

/-- R106: selector, the instruction, the result from s[a] and m. -/
def shiRows : List (BitVec 2 × (BitVec 7 → BitVec 7 → BitVec 6 → Instr) × (Word → Nat → Word)) :=
  [(0, .slli, fun a m => a <<< m), (1, .srli, fun a m => a >>> m), (2, .srai, fun a m => a.sshiftRight m), (3, .rori, fun a m => a.rotateRight m)]

/-! ## Scalar memory -/

/-- An access of `z` bytes at `va` goes through: it is aligned, its checks leave `s1` and give the key and attribute `x`, and nothing makes
it wait (R166, R294, R303, R311, R421) or fail parity (R171). -/
def Passes (s : State) (o : Acc) (va : Word) (z : Nat) (s1 : State) (x : Xl) : Prop :=
  va.toNat % z = 0 ∧ s.check s.strand o va.toNat z = (s1, .ok x) ∧ s1.blocked s1.strand x.key z = false ∧ s1.drainWaits s1.strand o x = false ∧
    (o.assay = true → s.noTagRoom s.strand x.key = false) ∧ s1.badWord o.mode x.key z = none

/-- s[a] + sext(off9) times z, and s[a] + off9[5:0] times z (R109, R112). -/
def eaSigned (s : State) (a : BitVec 7) (off : BitVec 9) (lz : Nat) : Word := val s a + BitVec.ofInt 64 (off.toInt * 2 ^ lz)
def eaUnsigned (s : State) (a : BitVec 7) (off : BitVec 6) (lz : Nat) : Word := val s a + BitVec.ofNat 64 (off.toNat * 2 ^ lz)

/-- R109: the instruction, log2 of its size, whether it sign-extends. -/
def ldRows : List ((BitVec 7 → BitVec 7 → BitVec 9 → Instr) × Nat × Bool) :=
  [(.ldb, 0, true), (.ldh, 1, true), (.ldw, 2, true), (.ldd, 3, false), (.ldbu, 0, false), (.ldhu, 1, false), (.ldwu, 2, false)]
def stRows : List ((BitVec 7 → BitVec 7 → BitVec 9 → Instr) × Nat) := [(.stb, 0), (.sth, 1), (.stw, 2), (.std, 3)]
def ldaRows : List ((BitVec 7 → BitVec 7 → BitVec 3 → BitVec 6 → Instr) × Nat) := [(.ldab, 0), (.ldah, 1), (.ldaw, 2), (.ldad, 3)]
def stlRows : List ((BitVec 7 → BitVec 7 → BitVec 3 → BitVec 6 → Instr) × Nat) := [(.stlb, 0), (.stlh, 1), (.stlw, 2), (.stld, 3)]

/-- `z` bytes read as a number, sign- or zero-extended to 64 bits. -/
def extended (sx : Bool) (lz v : Nat) : Word := if sx && decide (2 ^ (8 * 2 ^ lz - 1) ≤ v) then BitVec.ofNat 64 v - BitVec.ofNat 64 (2 ^ (8 * 2 ^ lz)) else BitVec.ofNat 64 v

/-- A store of tarnish `t` at `va` takes no TARNISH (R110). -/
def CleanOk (s : State) (va : Word) (z : Nat) (t : Bool) : Prop := t = false ∨ s.strand.trapPolicy = false ∨ cleanHit s.strand.clean va.toNat z = []

/-- What a store of the low `z` bytes of `v` leaves of `s1`, but for the pc: the line holds them with its tarnish, and TARN records a tarnished
write. -/
def stored (s1 : State) (x : Xl) (va : Word) (z : Nat) (v : Word) (t : Bool) : State :=
  (s1.storeLine s1.strand x (leBytes z v.toNat) t).mapStrand fun u => (u.seen t).recordClean (if t then cleanHit u.clean va.toNat z else [])

/-- The key lies in memory whose line the core at `place` uses at its home: no control block, no guest line (R308), and none behind a link that
runs CXL (R411). -/
def AtHome (s : State) (x : Xl) : Prop :=
  (regionOf x.key).isCtl = false ∧ s.guestScope s.strand.place x.key x.unc = none ∧ s.onCxl x.key = false

/-- The line of an access where it is used at its home: through a K = 1 page the core's own stores to it drain there first, and its copy is
dropped (R111). -/
def broughtHome (s : State) (x : Xl) : State := if x.unc then s.lineHome s.strand.place (lineOf x.key) else s

/-- R115: the ordered and the unordered instruction, and the operation: from m at the target, o = s[b] and c = s[d] the new value. -/
def amoRows : List ((BitVec 7 → BitVec 7 → BitVec 7 → Instr) × (BitVec 7 → BitVec 7 → BitVec 7 → Instr) × AmoOp × (Word → Word → Word → Word)) :=
  [(.amoadd, .amoaddO, .add, fun m o _ => m + o), (.amoand, .amoandO, .and, fun m o _ => m &&& o), (.amoor, .amoorO, .or, fun m o _ => m ||| o),
   (.amoxor, .amoxorO, .xor, fun m o _ => m ^^^ o), (.amomin, .amominO, .min, fun m o _ => if m.toInt ≤ o.toInt then m else o),
   (.amomax, .amomaxO, .max, fun m o _ => if o.toInt ≤ m.toInt then m else o), (.amominu, .amominuO, .minu, fun m o _ => if m.toNat ≤ o.toNat then m else o),
   (.amomaxu, .amomaxuO, .maxu, fun m o _ => if o.toNat ≤ m.toNat then m else o), (.amoswap, .amoswapO, .swap, fun _ o _ => o),
   (.amocas, .amocasO, .cas, fun m o c => if m = c then o else m),
   (.amofadd32, .amofadd32O, .fadd32, fun m o _ => BitVec.ofNat 64 (fadd .fp32 m.toNat (o.toNat % 2 ^ 32)).1),
   (.amofadd64, .amofadd64O, .fadd64, fun m o _ => BitVec.ofNat 64 (fadd .fp64 m.toNat o.toNat).1)]

/-- Operand bytes of an AMO (R114). -/
def amoSize (f : AmoOp) : Nat := if f = .fadd32 then 4 else 8

/-- What an AMO leaves (R115): `h` is the state with the target's line at its home, `t` the state after; `w` is the tarnish it writes. -/
def AmoDone (f : AmoOp) (g : Word → Word → Word → Word) (d b : BitVec 7) (w : Bool) (x : Xl) (h t : State) : Prop :=
  let z := amoSize f
  let m := Mem.readLE h.mem x.key z
  t.strand.reg d = (if d = 0 then .zero else { val := BitVec.ofNat 64 m, tarn := w || h.tarn.contains (lineOf x.key) }) ∧
    (∀ r, r ≠ d → t.strand.reg r = h.strand.reg r) ∧
    Mem.readLE t.mem x.key z = (g (BitVec.ofNat 64 m) (h.strand.reg b).val (h.strand.reg d).val).toNat % 256 ^ z ∧
    (∀ k, (k < x.key ∨ x.key + z ≤ k) → Mem.read t.mem k = Mem.read h.mem k) ∧
    (t.tarn.contains (lineOf x.key) = (w || h.tarn.contains (lineOf x.key))) ∧
    (f ≠ .fadd32 → f ≠ .fadd64 → t.strand.ctl.flags = h.strand.ctl.flags) ∧ t.strand.purses = h.strand.purses ∧ t.strand.masks = h.strand.masks

/-- The flags an AMO raises: those of a floating-point sum, else none (R116). -/
def amoFlags (f : AmoOp) (m o : Word) : Flags :=
  match f with
  | .fadd32 => (fadd .fp32 m.toNat (o.toNat % 2 ^ 32)).2
  | .fadd64 => (fadd .fp64 m.toNat o.toNat).2
  | _ => 0

/-- The state right after an AMO's one event (R114 to R116, R132), its pc aside: the new bytes stand in memory with tarnish `w`, s[d] has the old
ones, and FLAGS their exceptions with the tarnish of the sources `src` and of the line read. -/
def amoAfter (f : AmoOp) (g : Word → Word → Word → Word) (d a b : BitVec 7) (w src : Bool) (x : Xl) (h : State) : State :=
  let m : Word := BitVec.ofNat 64 (Mem.readLE h.mem x.key (amoSize f))
  let line := h.tarn.contains (lineOf x.key)
  (stored h { x with unc := true } (val h a) (amoSize f) (g m (val h b) (val h d)) w).mapStrand fun u =>
    (u.sticky (amoFlags f m (val h b)) (src || line)).setReg d { val := m, tarn := w || line }

/-- The entry of an ordered atomic at its stream's slice (R306, R307). -/
def ordEntry (s : State) (i : Instr) : OrdEntry :=
  let w := s.strand.ctl.ordtag.val
  let home := s.ordHome s.strand (getBits w 32 8)
  { id := s.nextCmd, place := s.strand.place, launch := s.strand.launch, die := home.1, slice := home.2, stream := getBits w 32 8,
    tag := w.extractLsb' 0 32, instr := i, inBuffer := true, tagTarn := s.strand.ctl.ordtag.tarn }

/-- ORDTAG after an ordered atomic (R117). -/
def ordAdvanced (w : Word) : BitVec 32 := w.extractLsb' 0 32 + BitVec.ofNat 32 (if getBits w 40 8 = 0 then 1 else getBits w 40 8)

/-- The state in which the slice performs an ordered atomic that has just arrived: it stands in the buffer, its stream has a state, and ORDTAG has
advanced as it issued, with the tarnish `src` of its sources (R117, R132). -/
def ordHeld (s : State) (i : Instr) (src : Bool) : State :=
  let e := ordEntry s i
  let tag : TWord := { val := (s.strand.ctl.ordtag.val >>> 32 <<< 32) ||| (ordAdvanced s.strand.ctl.ordtag.val).setWidth 64,
                       tarn := s.strand.ctl.ordtag.tarn || src }
  let s1 : State := { s with
    nextCmd := s.nextCmd + 1, ordEntries := s.ordEntries ++ [e],
    strand := { s.strand with ctl := ({ s.strand.ctl with ordtag := tag }).seen tag.tarn } }
  if s.ordStreams.any (fun x => x.launch = e.launch && x.die = e.die && x.slice = e.slice && x.stream = e.stream) then s1 else s1.setOrdNext e 0

/-- The slice may perform it on arrival: no other launch holds the stream, nothing is in any buffer, and its tag is the stream's next. -/
def OrdFirst (s : State) (i : Instr) : Prop :=
  let e := ordEntry s i
  s.ordEntries = [] ∧ (∀ x ∈ s.ordStreams, x.die = e.die → x.slice = e.slice → x.stream = e.stream → x.launch = e.launch) ∧ s.ordNext e = e.tag

/-- The state once the slice has performed the atomic `e` with the effect `u`, its pc aside: the buffer is empty, the stream's next tag has risen,
and ORDTAG has the tarnish `src` of the sources and the lines read too (R117, R132, R307). -/
def ordPerformed (u : State) (e : OrdEntry) (src : Bool) : State :=
  ({ u with
    ordEntries := [],
    strand := { u.strand with ctl := { u.strand.ctl with ordtag := { u.strand.ctl.ordtag with tarn := u.strand.ctl.ordtag.tarn || src } } } }).setOrdNext e (e.tag + 1)

/-! ## Control flow -/

/-- R120: major, the instruction, the condition. -/
def branchRows : List (BitVec 6 × (BitVec 7 → BitVec 7 → BitVec 12 → Instr) × (Word → Word → Bool)) :=
  [(0x11, .beq, fun a b => decide (a = b)), (0x12, .bne, fun a b => decide (a ≠ b)), (0x13, .blt, fun a b => decide (a.toInt < b.toInt)),
   (0x14, .bge, fun a b => decide (a.toInt ≥ b.toInt)), (0x15, .bltu, fun a b => decide (a.toNat < b.toNat)),
   (0x16, .bgeu, fun a b => decide (a.toNat ≥ b.toNat))]

/-- The strand goes on at an address, and nothing else changes. -/
def goesTo (s : State) (a : Addr) : State := s.mapStrand fun u => u.jump a

/-- (PC + sext(off) times 4) mod 2^52 (R120, R122). -/
def target (s : State) (off : Int) : Addr := BitVec.ofInt 52 (s.strand.pc.toNat + off * 4)

/-- A tarnished deciding operand traps: a D context under the trap policy (R101). -/
def TrapsOnTarnish (s : State) : Prop := s.strand.st.d = true ∧ s.strand.trapPolicy = true

/-- A trap with a cause and TADDR, and no other field. -/
def plainTrap (cause : Nat) (addr : Word) : Trap := { cause := cause, sub := 0, acc := 0, elem := 0, addr := addr, resume := none }

/-- The codes that the instruction at the pc has kept when it stops with a restart point (R144). -/
def stopKeeps (s : State) (x : Trap) : Option Residue :=
  if x.resume = none then none else s.strand.residue.filter fun r => decide (r.pc = s.strand.pc)

/-- The restart point of a trap stands for the instruction at the pc, with the codes that it has kept (R144, R145). -/
def PointStands (s : State) (x : Trap) (t : Strand) : Prop :=
  t.armed = x.resume.map (fun w => (s.strand.pc, w)) ∧ t.residue = stopKeeps s x

/-- The codes with which a handler returns: those of the stop it handles, to the instruction that stopped, while its restart is pending (R146). -/
def returnsWith (s : State) : Option Residue :=
  if s.strand.st.tr = true then
    s.strand.outer.filter fun r => decide (r.pc = s.strand.ctl.tpc.val.setWidth 52) && (decide (s.strand.ctl.resume.val ≠ 0) || r.first)
  else none

/-- LAPS.REM and RING.DEPTH. -/
def rem (s : State) : Nat := s.strand.ctl.laps.val.toNat % 2 ^ 32
def depth (s : State) : Nat := s.strand.ctl.ring.val.toNat / 2 ^ 8 % 8

/-- LOOPR's deciding operands: LAPS and the masks of its window, as they read (R121, R229). -/
def loopTarn (s : State) : Bool := s.strand.ctl.laps.tarn || (List.range (depth s + 1)).any fun j => (s.readMask s.strand (8 + j)).tarn

/-- The numbers that R33 assigns, with the bits that are RW. -/
def crRows : List (Nat × Word) :=
  [(0x000, 0), (0x001, 1), (0x002, 0xFFFFFFFFFFFFFFFF), (0x003, 0x73F), (0x004, 0xFFFFFFFF), (0x005, 0xF), (0x008, 0xFFFFFFFFFFFFFFFF),
   (0x009, 0xFFFFFFFFFFFFFFFF), (0x00A, 0xFFFCFF), (0x00B, 0x1FFF), (0x00C, 0xFFFFFFFFFFFFFFFF), (0x00D, 0xFFFFFFFFFFFFFFFF), (0x010, 0x1F1F),
   (0x011, 0xFFFFFFFFFFFFFFF), (0x012, 0x1FFFFFFFF), (0x013, 0xFFFFFFFFFFFFFFFF), (0x014, 0xFFFFFFFFFFFFFFFF), (0x015, 0xFFFFFFFFFFFFFFFF),
   (0x016, 0x3FFFFFFFFFFFF), (0x017, 0xFFFFFFFFFFFF), (0x018, 0xFFFFFFFFFFFFFFFF), (0x020, 0), (0x021, 0), (0x022, 0), (0x023, 0), (0x030, 0),
   (0x031, 0), (0x032, 0)] ++
  ((List.range 8).map fun i => (0x040 + i, 0xFFFFC00000000000)) ++ ((List.range 8).map fun i => (0x080 + i, 0)) ++
  ((List.range 8).map fun i => (0x088 + i, 0))

/-- R131: the instruction, and w from CR and s[a]. -/
def crWriteRows : List ((BitVec 7 → BitVec 12 → Instr) × (Word → Word → Word) × Bool) :=
  [(.cwr, fun _ a => a, false), (.cset, fun c a => c ||| a, true), (.cclr, fun c a => c &&& ~~~a, true)]

/-! ## Vector operands -/

/-- The purse that a field names, its code, its tarnish and its elements (R29, R31, R49). -/
def purseOf (s : State) (f : BitVec 7) : Nat := s.strand.purseName f
def codeOf (s : State) (f : BitVec 7) : Code := s.strand.codeOf (s.strand.purse (purseOf s f)).tag
def tarnOf (s : State) (f : BitVec 7) : Bool := (s.strand.purse (purseOf s f)).tarn
def elemsOf (s : State) (f : BitVec 7) : List Elem := (s.strand.purse (purseOf s f)).elems (codeOf s f) s.strand.room 0
def valsOf (s : State) (f : BitVec 7) : List Ex := (elemsOf s f).map (·.x)

/-- A purse operand passes its checks: below VREGS, with a legal code of an accepted kind (R77, R174). -/
def UseOk (s : State) (f : BitVec 7) (k : Code → Bool) : Prop :=
  purseOf s f < s.strand.vregs ∧ (codeOf s f).vectorOk = true ∧ k (codeOf s f) = true

/-- No restart point is armed for the instruction (R145). -/
def Fresh (s : State) : Prop := s.strand.point = none

/-- The governing mask: k[AMR] with mk, else all ones, untarnished (R65, R162). -/
def gov (s : State) (mk : Bool) : Gov :=
  if mk then
    let m := s.readMask s.strand s.strand.amr
    { bits := m.bits, tarn := m.tarn, seen := s.chunksRead s.strand.amr m.bits }
  else { bits := BitVec.allOnes 4096, tarn := false, seen := [] }

/-- The state in which a predicated instruction works: the chunks that its mask shows written are observed (R109, R313). -/
def observed (s : State) (mk : Bool) : State := (gov s mk).seen.foldl State.observeChunk s

/-- No command whose completion is mask `k` owes a trap (R434). -/
def NoneOwed (s u : State) (k : Nat) : Prop :=
  ∀ c ∈ u.cmds, c.place = s.strand.place → c.launch = s.strand.launch → c.node = none → c.ck = 1 → c.ca = k → ∀ x y z, c.phase ≠ .owes x y z

/-- No command whose completion is the governing mask owes a trap, nor comes to owe one by the chunks that the instruction observes (R312,
R313, R434). -/
def MaskFree (s : State) (mk : Bool) : Prop := mk = true → NoneOwed s s s.strand.amr ∧ NoneOwed s (observed s mk) s.strand.amr

/-- A walk that starts at element 0: what each element becomes in which code, whether a block code takes part, whether the old codes follow
(R178), the tarnish of what it reads beside the old destination, which elements it makes anew of old ones, the bits its sources take up to an element, whether it is quiet (R200) and
whether AMAX follows it (R59). -/
structure Walk where
  cells : List Cell
  code  : Code
  block : Bool
  acc   : Bool
  src   : Bool
  again : List Bool
  a     : Nat → Nat
  b     : Nat → Nat
  quiet : Bool
  amax  : Bool

/-- A plain walk. -/
def plainWalk (cells : List Cell) (code : Code) (block src : Bool) (a b : Nat → Nat) : Walk :=
  { cells := cells, code := code, block := block, acc := false, src := src, again := [], a := a, b := b, quiet := false, amax := false }

/-- A state apart from what a walk writes: registers, masks, the other control registers, memory, tarnish and device registers stand. -/
def Untouched (s t : State) : Prop :=
  t.strand.pc = s.strand.pc + 4 ∧ t.strand.sregs = s.strand.sregs ∧
    (∀ n, n ∉ [0x010, 0x011, 0x012, 0x018, 0x032] → t.strand.ctlRead s.cycle n = s.strand.ctlRead s.cycle n) ∧
    t.mem = s.mem ∧ t.tarn = s.tarn ∧ t.dev = s.dev

/-- The rounding draw of a code in the acting strand. -/
def drawOf (s : State) (c : Code) : Draw := c.draw s.strand.ctl.seed.val s.strand.ctl.srb.val

/-- What a walk leaves (R49, R58, R59, R152, R156, R177, R178), where its positions keep the codes or blocks `old`: the destination purse holds
the codes deposited and keeps its tag and header, RC the elements and bits, FLAGS and FIRSTX the flags of its elements, and the rest is untouched. -/
def WalkOver (s : State) (d : BitVec 7) (w : Walk) (old : List (Option (Nat × Nat))) (t : State) : Prop :=
  let n := purseOf s d
  let p := s.strand.purse n
  let zero : Nat × Nat := (0, if w.code.isFixed then w.code.fixedBits else 4)
  let dest : Dest := { c := w.code, dr := drawOf s w.code, room := s.strand.room,
                       old := old.map (·.getD zero), acc := w.acc }
  let g := if w.block || w.code.isBlock then 32 else 1
  let r := depositLoop dest g (w.cells.length + 1) w.cells { e := 0, od := 0, bits := 0, pos := (0, 0), flags := [] }
  let last := layCodes r.od (if w.acc then dest.tail r.e else [])
  let kept := (List.range (min w.cells.length (r.e + g))).any fun k =>
    ((w.cells.getD k none).isNone && (old.getD (if w.code.isBlock then k / 32 else k) none).isSome) || w.again.getD k false
  let tarn := if w.quiet then false else w.src || (p.tarn && (w.acc || kept))
  Untouched s t ∧ t.strand.masks = s.strand.masks ∧
    (∀ k, t.strand.purse k = if k = n then { p with bits := r.bits + last.2, fill := last.1, tarn := tarn } else s.strand.purse k) ∧
    t.strand.ctl.rc = { val := receiptWord r.e (w.a r.e) (w.b r.e) r.od, tarn := tarn } ∧
    t.strand.ctl.flags = (s.strand.credit true (if w.quiet then [] else r.flags) tarn).ctl.flags ∧
    t.strand.ctl.firstx = (s.strand.credit true (if w.quiet then [] else r.flags) tarn).ctl.firstx ∧
    t.strand.ctl.amax = if w.amax then (s.strand.amaxOver ((w.cells.take r.e).filterMap fun x => x.map (·.1)) tarn).ctl.amax else s.strand.ctl.amax

/-- The codes or blocks that the destination's positions hold, and its elements, each with its segment. -/
def oldItems (s : State) (d : BitVec 7) (c : Code) : List Item := let p := s.strand.purse (purseOf s d); c.items p.bits p.fill c.maxItems 0
def oldElems (s : State) (d : BitVec 7) : List Elem := elemsIn (codeOf s d) s.strand.room (0, 0) (oldItems s d (codeOf s d))

/-- A walk whose positions keep the destination's own codes or blocks (R156). -/
def WalkDone (s : State) (d : BitVec 7) (w : Walk) (t : State) : Prop :=
  WalkOver s d w ((oldItems s d w.code).map fun i => some (i.raw, i.len)) t

/-- Elements of a source that a walk from element 0 takes, and the bits it takes for `e` of them (R177). -/
def front (s : State) (f : BitVec 7) : List Elem := (elemsOf s f).take 4096
def bitsFor (s : State) (f : BitVec 7) (e : Nat) : Nat := advOf ((front s f).take e)

/-- The old destination's values (R178). -/
def oldVals (s : State) (d : BitVec 7) : List Ex :=
  let p := s.strand.purse (purseOf s d)
  itemValues ((codeOf s d).items p.bits p.fill (codeOf s d).maxItems 0)

/-- R181, R183, R185: the instruction, the kinds it takes, and the value of element j from the destination's code, a[j] and b[j]. -/
def vecBinaryRows : List ((BitVec 7 → BitVec 7 → BitVec 7 → Bool → Bool → Bool → Instr) × (Code → Bool) × (Code → Ex → Ex → Ex × Flags)) :=
  [(.vadd, anyCode, fun cd x y => (Ex.add cd.rdn x y, 0)), (.vsub, anyCode, fun cd x y => (Ex.add cd.rdn x y.neg, 0)),
   (.vmul, anyCode, fun _ x y => (Ex.mul x y, 0)), (.vdiv, anyCode, fun _ x y => (Ex.div x y, 0)),
   (.vmin, anyCode, fun _ x y => pickVal false x y), (.vmax, anyCode, fun _ x y => pickVal true x y),
   (.vand, integerCode, fun _ x y => bitwise (fun p q => p &&& q) x y), (.vor, integerCode, fun _ x y => bitwise (fun p q => p ||| q) x y),
   (.vxor, integerCode, fun _ x y => bitwise (fun p q => p ^^^ q) x y),
   (.vshift, integerCode, fun _ x y => (Ex.ofInt (shiftInt x.toInt (max (-127) (min 127 y.toInt))), 0))]

/-- R182: the instruction, whether the product and the accumulator are negated. -/
def vecFusedRows : List ((BitVec 7 → BitVec 7 → BitVec 7 → Bool → Bool → Bool → Instr) × Bool × Bool) :=
  [(.vfma, false, false), (.vfms, false, true), (.vfnma, true, true), (.vfnms, true, false)]

/-- R183, R184, R189: the instruction, its source's kinds are free and its destination's as given, the value from a[j], and whether AMAX follows. -/
def vecUnaryRows : List ((BitVec 7 → BitVec 7 → Bool → Bool → Instr) × (Code → Bool) × (Ex → Ex) × (Code → Bool)) :=
  [(.vabs, anyCode, Ex.abs, fun _ => false), (.vneg, anyCode, Ex.neg, fun _ => false), (.vsqrt, floatingCode, Special.apply .sqrt, fun _ => false),
   (.vrsqrt, floatingCode, Special.apply .rsqrt, fun _ => false), (.vrecip, floatingCode, Special.apply .recip, fun _ => false),
   (.vexp2, floatingCode, Special.apply .exp2, fun _ => false), (.vlog2, floatingCode, Special.apply .log2, fun _ => false),
   (.vcvt, anyCode, id, Code.hasAmax)]

/-- R186: the instruction, the kinds it takes, and the value from the codes of d and a, the scalar and a[j]. -/
def vecScalarRows : List ((BitVec 7 → BitVec 7 → BitVec 7 → Bool → Bool → Instr) × (Code → Bool) × (Code → Code → Word → Ex → Ex × Flags)) :=
  [(.vadds, anyCode, fun cd ca q x => (Ex.add cd.rdn x (scalarVal ca q), 0)), (.vmuls, anyCode, fun _ ca q x => (Ex.mul x (scalarVal ca q), 0)),
   (.vshls, anyCode, fun _ _ q x => (x.scale (min q.toNat 127 : Nat), 0)), (.vshrs, anyCode, fun _ ca q x => shiftRightVal ca q x),
   (.vands, integerCode, fun _ ca q x => bitwise (fun p r => p &&& r) x (scalarVal ca q)),
   (.vmaxs, anyCode, fun _ ca q x => pickVal true x (scalarVal ca q)), (.vmins, anyCode, fun _ ca q x => pickVal false x (scalarVal ca q))]

/-- R187: the instruction and its relation. -/
def vecCompareRows : List ((BitVec 7 → BitVec 7 → BitVec 7 → Bool → Bool → Bool → Instr) × Rel) :=
  [(.vcmpeq, .eq), (.vcmplt, .lt), (.vcmple, .le), (.vcmpne, .ne)]

/-- R192: the instruction, and from code, rounding and active elements the value to encode, the flags before the last encode, and whether
that encode's flags count. -/
def vecReduceRows : List ((BitVec 7 → BitVec 7 → Bool → Bool → Instr) × (Code → Draw → List (Option Ex) → Option Ex × List (Nat × Flags) × Bool)) :=
  [(.vredsum, reduceSum), (.vredmax, reduceExtreme true), (.vredmin, reduceExtreme false)]

/-- R202: the instruction and its function. -/
def maskRows : List ((BitVec 7 → BitVec 7 → BitVec 7 → Instr) × (MaskBits → MaskBits → MaskBits)) :=
  [(.kand, fun x y => x &&& y), (.kor, fun x y => x ||| y), (.kxor, fun x y => x ^^^ y)]

/-- A mask as the acting strand reads it (R30, R229). -/
def maskOf (s : State) (f : BitVec 7) : KMask := s.readMask s.strand f.toNat

/-- R153: the grant of a request for `b` purses of `a` bits out of a share, the greatest step of 512 that fits, 512 where none does. -/
def GrantOf (a b share g : Nat) : Prop :=
  let most := max 512 (min 65536 (512 * ((a + 511) / 512)))
  let m := max 1 (min 128 b)
  g % 512 = 0 ∧ 512 ≤ g ∧ g ≤ most ∧ (g = 512 ∨ g * m ≤ share) ∧ ∀ k, k % 512 = 0 → g < k → k ≤ most → share < k * m

/-- SHARE of a D context: the slot's three banks and the strand's reserve (R153). -/
def shareOf (s : State) : Nat := 786432 + 262144 * s.strand.reserve

/-- Banks that R153 borrows in an F context to serve a request, if it can. -/
def banksAsked (a b : Nat) : Nat := (max 512 (min 65536 (512 * ((a + 511) / 512))) * max 1 (min 128 b) - 786432 + 262143) / 262144

/-! ## Vector memory -/

/-- Bits and fill of a destination's former content. -/
def oldOf (s : State) (d : BitVec 7) : Nat × Nat := ((s.strand.purse (purseOf s d)).bits, (s.strand.purse (purseOf s d)).fill)

/-- The load that VLD (`none`) or VLDS (the stride register) makes of v[d] from s[a] (R214, R215). -/
def vldPlan (s : State) (stride : Option (BitVec 7)) (d a : BitVec 7) (mk : Bool) : LoadPlan :=
  let c := codeOf s d
  let step : Word := match stride with | some b => val s b | none => BitVec.ofNat 64 (c.unitBits / 8)
  { w := c.unitBits, n := min (4096 / c.unitElems) (s.strand.grant / c.unitBits), g := c.unitElems,
    addr := fun u => val s a + BitVec.ofNat 64 u * step, gov := gov s mk, link := false, code := c, old := oldOf s d, cut := none }

/-- The load that VGTH, or with `link` VGL, makes: element u at s[a] + index u times the element's bytes (R220, R221). -/
def gatherPlan (s : State) (link : Bool) (d a b : BitVec 7) (mk : Bool) : LoadPlan :=
  let c := codeOf s d
  let is := (elemsOf s b).map (·.x.toInt)
  { w := c.fixedBits, n := is.length, g := 1, addr := fun u => val s a + BitVec.ofInt 64 (is.getD u 0 * (c.fixedBits / 8 : Nat)), gov := gov s mk, link := link,
    code := c, old := oldOf s d, cut := none }

/-- The start of a load without restart point; `src` is the tarnish of its registers and indexes. -/
def loadStart (src : Bool) (g : Gov) : LoadState := { u := 0, pos := (0, 0), od := 0, bits := 0, tarn := src || g.tarn, kept := false }

/-- A strand's control registers apart from the numbers given. -/
def CtlKept (s t : State) (but : List Nat) : Prop := ∀ n, n ∉ but → t.strand.ctlRead s.cycle n = s.strand.ctlRead s.cycle n

/-- A load whose elements all went through, ending in `st` with state `s1`: the destination, its tarnish, RC, and nothing else since `s1`. -/
def Loaded (s s1 : State) (d : BitVec 7) (g : Nat) (st : LoadState) (a b : Nat) (t : State) : Prop :=
  let tarn := st.tarn || (st.kept && tarnOf s d)
  t.strand.pc = s.strand.pc + 4 ∧
    (∀ k, t.strand.purse k = if k = purseOf s d then { s.strand.purse k with bits := st.bits, fill := st.od, tarn := tarn } else s.strand.purse k) ∧
    t.strand.ctl.rc = { val := receiptWord (min (st.u * g) 4096) a b st.od, tarn := tarn } ∧ CtlKept s t [0x018, 0x032] ∧
    t.strand.sregs = s.strand.sregs ∧ t.strand.masks = s.strand.masks ∧ t.strand.links = s1.strand.links ∧ t = { s1 with strand := t.strand }

/-- The store that VST (`none`) or VSTS makes of v[d] to s[a] (R214, R215). -/
def vstPlan (s : State) (stride : Option (BitVec 7)) (d a : BitVec 7) (mk : Bool) : StorePlan :=
  let c := codeOf s d
  let p := s.strand.purse (purseOf s d)
  let step : TWord := match stride with | some b => s.strand.reg b | none => .of (BitVec.ofNat 64 (c.unitBits / 8))
  let n := min (4096 / c.unitElems) (p.fill / c.unitBits)
  { w := c.unitBits, n := n, g := c.unitElems, addr := strideAddr (val s a) step.val, gov := gov s mk, data := p.bits,
    tarn := tarn1 s a || step.tarn || p.tarn,
    whole := if step.val.toNat = c.unitBits / 8 then coversLine (val s a).toNat c.unitBits n c.unitElems (gov s mk) else fun _ => false, cut := none }

/-- The store of VSCT and VSC (R220, R222). -/
def scatterPlan (s : State) (d a b : BitVec 7) (mk : Bool) : StorePlan :=
  let c := codeOf s d
  let p := s.strand.purse (purseOf s d)
  let is := (elemsOf s b).map (·.x.toInt)
  { w := c.fixedBits, n := min is.length (min 4096 (p.fill / c.fixedBits)), g := 1, addr := indexAddr (val s a) is (c.fixedBits / 8), gov := gov s mk,
    data := p.bits, tarn := tarn1 s a || p.tarn || tarnOf s b, whole := fun _ => false, cut := none }

/-- What a store without a fault leaves beside memory: purses, masks and registers as before, RC written, the pc advanced. -/
def Scattered (s s1 : State) (e a b d : Nat) (tarn : Bool) (t : State) : Prop :=
  t.strand.pc = s.strand.pc + 4 ∧ t.strand.purses = s.strand.purses ∧ t.strand.sregs = s.strand.sregs ∧
    t.strand.ctl.rc = { val := receiptWord e a b d, tarn := tarn } ∧ CtlKept s t [0x018, 0x032] ∧ t = { s1 with strand := t.strand }

/-- The strand enters its handler at element `j` with restart point `w` and the trap `x` of that element (R138, R143). -/
def StoppedAt (s : State) (j : Nat) (w : Word) (x : Trap) (t : State) : Prop :=
  t.strand.pc = s.strand.ctl.tvec.val.setWidth 52 ∧ t.strand.st.tr = true ∧ t.strand.ctl.telem.val = BitVec.ofNat 64 j ∧ t.strand.ctl.resume.val = w ∧
    t.strand.ctl.tpc.val = s.strand.pc.setWidth 64 ∧ t.strand.ctl.taddr.val = x.addr ∧
    t.strand.ctl.tcause.val = BitVec.ofNat 64 (x.sub * 2 ^ 16 + 2 ^ 12 + x.acc * 2 ^ 10 + x.cause) ∧ t.strand.ctl.rc = s.strand.ctl.rc ∧
    t.strand.ctl.flags = s.strand.ctl.flags ∧ t.strand.sregs = s.strand.sregs ∧ t.strand.masks = s.strand.masks

/-- A trap that a usable handler of the strand takes (R136, R138, R140). -/
def TakenOwn (s : State) (x : Trap) : Prop := x.cause < 0x10 ∧ s.strand.st.tr = false ∧ s.strand.tvecOk = true

/-- The former content of a load's destination, kept for the restart at element `j` of the instruction at the pc (R144). -/
def keptResidue (s : State) (d : BitVec 7) (j : Nat) : Residue :=
  { pc := s.strand.pc, purse := purseOf s d, bits := (oldOf s d).1, fill := (oldOf s d).2, tarn := tarnOf s d, mask := false, dirty := false,
    first := decide (j = 0) }

/-- A load that stopped in `st` at element `j` (R144): the destination shows the codes loaded so far, and its former content is kept while the
handler runs (R146). -/
def LoadStopped (s s1 : State) (d : BitVec 7) (j : Nat) (st : LoadState) (t : State) : Prop :=
  (∀ k, t.strand.purse k = if k = purseOf s d then
    { s.strand.purse k with bits := st.bits, fill := st.od, tarn := st.tarn || (st.kept && tarnOf s d) } else s.strand.purse k) ∧
    t.strand.outer = some (keptResidue s d j) ∧ t.strand.residue = none ∧ t = { s1 with strand := t.strand }

/-- `n` bytes from an address lie in the core's scratchpad (R164, R297), of a strand in an F context with no clean range, and nothing stands in an
access's way: no locked page, no pending command or store, no failure, no poison. -/
def InScratch (s : State) (va n : Nat) : Prop :=
  0xFFE0000000000 ≤ va ∧ va + n ≤ 0xFFE0000080000 ∧ s.strand.part < 32 ∧ s.strand.place < 1024 ∧ s.strand.st.d = false ∧ s.strand.clean = [] ∧
    s.upsets = [] ∧ s.locked = [] ∧ s.cmds = [] ∧ s.parity = [] ∧ s.poison = [] ∧ (s.core (coreOf s.strand.place)).score = [] ∧
    (s.core (coreOf s.strand.place)).fifo = []

/-- Where the byte of an address of the scratchpad stands. -/
def scratchOf (s : State) (va : Nat) : Nat := scratchKey (coreOf s.strand.place) (va - 0xFFE0000000000)

/-- Every byte but `n` from a key on stands. -/
def OnlyBytes (s t : State) (k n : Nat) : Prop := ∀ a, (a < k ∨ k + n ≤ a) → Mem.read t.mem a = Mem.read s.mem a

/-- An integer code of 32 or 64 bits. -/
def wideInteger (c : Code) : Bool := (c.kind = 9 || c.kind = 10) && (c.wid = 2 || c.wid = 3)

/-- The integer that `w` bits stand for, signed or not. -/
def asInt (sg : Bool) (w v : Nat) : Int := if sg && decide (2 ^ (w - 1) ≤ v) then (v : Int) - 2 ^ w else v

/-- R223 for integers: the instruction, and op(m, x) on `w` bits, signed or not. -/
def vamoIntRows : List ((BitVec 7 → BitVec 7 → BitVec 7 → Bool → Bool → Instr) × (Bool → Nat → Nat → Nat → Nat)) :=
  [(.vamoadd, fun _ w m x => (m + x) % 2 ^ w), (.vamomin, fun sg w m x => if asInt sg w m ≤ asInt sg w x then m else x),
   (.vamomax, fun sg w m x => if asInt sg w m ≤ asInt sg w x then x else m), (.vamoxch, fun _ _ _ x => x),
   (.vamoand, fun _ _ m x => m &&& x), (.vamoor, fun _ _ m x => m ||| x), (.vamoxor, fun _ _ m x => m ^^^ x)]

/-- Elements of an index purse up to one, in bits. -/
def indexBits (s : State) (b : BitVec 7) (u : Nat) : Nat := advOf ((elemsOf s b).take u)

/-- R223: the instruction and its operation. -/
def vamoRows : List ((BitVec 7 → BitVec 7 → BitVec 7 → Bool → Bool → Instr) × VamoOp) :=
  [(.vamoadd, .add), (.vamomin, .min), (.vamomax, .max), (.vamoxch, .xch), (.vamoand, .and), (.vamoor, .or), (.vamoxor, .xor)]

/-- What a VAMO works on (R223, R224). -/
def vamoPlanOf (s : State) (d a b : BitVec 7) (mk : Bool) : VamoPlan :=
  let c := codeOf s d
  let is := (elemsOf s b).map (·.x.toInt)
  let n := min is.length (min 4096 ((s.strand.purse (purseOf s d)).fill / c.fixedBits))
  { c := c, gov := gov s mk, n := n, ib := indexBits s b n, src := tarn1 s a || tarnOf s b || tarnOf s d || (gov s mk).tarn,
    at_ := ((List.range n).filter (gov s mk).on).map fun j => (j, indexAddr (val s a) is (c.fixedBits / 8) j) }

/-- What a VAMO leaves (R224, R132): each active element of the destination holds an old value, the rest of it stands, FLAGS and FIRSTX hold the
exceptions of the groups, RC the elements, and every other register is as before. -/
def VamoLeft (s : State) (d : BitVec 7) (p : VamoPlan) (r : VamoDone) (tarn : Bool) (but : List Nat) (t : State) : Prop :=
  let q := s.strand.purse (purseOf s d)
  let src := p.src || r.tarn
  t.strand.pc = s.strand.pc + 4 ∧ t.strand.ctl.flags = (s.strand.credit true r.flags src).ctl.flags ∧
    t.strand.ctl.firstx = (s.strand.credit true r.flags src).ctl.firstx ∧ CtlKept s t ([0x010, 0x011, 0x018, 0x032] ++ but) ∧
  (∀ k, t.strand.purse k = if k = purseOf s d then
      { q with bits := r.olds.foldl (fun m o => replaceBits m (o.1 * p.c.fixedBits) p.c.fixedBits o.2) q.bits, tarn := tarn } else s.strand.purse k) ∧
    t.strand.ctl.rc = { val := receiptWord p.n 0 p.ib (p.n * p.c.fixedBits), tarn := p.src || r.tarn } ∧ t.strand.sregs = s.strand.sregs ∧ t.strand.masks = s.strand.masks

/-- RC written with its tarnish, which TARN notes (R32, R132). -/
def counted (s : State) (e a b d : Nat) (src : Bool) : State :=
  s.mapStrand fun u => { u with ctl := ({ u.ctl with rc := { val := receiptWord e a b d, tarn := src } }).seen src }

/-- The strand waits at its pc in a way that `run` says, and no restart point is armed any more. -/
def waitsIn (s : State) (run : Run) : State := s.mapStrand fun u => { u with run := run, armed := none }

/-- A state apart from what the draining of a dirty FIFO writes: every register, command and core but `core`, of a command only the token word that a
drained store may have overwritten; with no hardware failure due and no request to HBM that would show, every device register, and every byte
that no drained store holds. -/
def OnlyDrained (s u : State) (core : Nat) : Prop :=
  let plain := fun (c : Cmd) => { c with tokKey := none }
  u.strand = { s.strand with links := u.strand.links } ∧ u.cmds.map plain = s.cmds.map plain ∧ (∀ k, k ≠ core → u.core k = s.core k) ∧
    (s.upsets = [] → s.hbmQuiet = true → u.dev = s.dev ∧
      (s.Inv → ∀ k, (∀ e ∈ (s.core core).fifo, k < e.key ∨ e.key + e.data.length ≤ k) → Mem.read u.mem k = Mem.read s.mem k))

/-! ## Tiles -/

/-- Field f names the base, with header `x`, of a tile whose group lies below VREGS (R77), and the tile's code is legal: FP32, or signed INT32 when it is dense (R243, R249). -/
def TileAt (s : State) (f : BitVec 7) (x : Tile) : Prop :=
  purseOf s f < s.strand.vregs ∧ s.strand.tile? (purseOf s f) = some x ∧ x.base + x.gl ≤ s.strand.vregs ∧ (codeOf s f).valid = true ∧
    ((codeOf s f).isFp32 = true ∨ (x.pair = false ∧ (codeOf s f).isInt32 = true))

/-- Field f names the base, with header `x`, of a tile whose group lies below VREGS. -/
def TileBase (s : State) (f : BitVec 7) (x : Tile) : Prop :=
  purseOf s f < s.strand.vregs ∧ s.strand.tile? (purseOf s f) = some x ∧ x.base + x.gl ≤ s.strand.vregs

/-- A tile's code is legal for it (R243). -/
def tileCodeOk (s : State) (f : BitVec 7) (x : Tile) : Bool := (codeOf s f).valid && ((codeOf s f).isFp32 || (!x.pair && (codeOf s f).isInt32))

/-- A trap before any effect, with a number as its address; a restart point that stands armed for the instruction is kept. -/
def numberTrap (s : State) (cause n : Nat) : Trap := { plainTrap cause (BitVec.ofNat 64 n) with resume := s.strand.armedHere }

/-- A tile instruction ends in such a trap, in the state `u` that its reads have left with no assay tag of theirs (R144, R249). -/
def TileTraps (s u : State) (cause n : Nat) : Result := .next ((u.undoAssay s.assay).takeTrap true s.strand.pc (numberTrap s cause n))

/-- A group of purses can hold `n` codes of 32 bits: grants are whole codes, and the group ends by purse 127. -/
def GroupHolds (s : State) (x : Tile) (n : Nat) : Prop :=
  0 < s.strand.grant ∧ s.strand.grant % 32 = 0 ∧ x.base + x.gl ≤ 128 ∧ 32 * n ≤ x.gl * s.strand.grant

/-- What a matrix instruction leaves alone: registers, masks, control registers but FLAGS and TARN, and the machine outside the strand; the
counter of free values is the model's own. -/
def MatrixFrame (s t : State) : Prop :=
  t.strand.pc = s.strand.pc + 4 ∧ t.strand.sregs = s.strand.sregs ∧ t.strand.masks = s.strand.masks ∧ CtlKept s t [0x010, 0x032] ∧
    t = { s with strand := t.strand, fresh := t.fresh }

/-- The tile `x` stands in `t` with the codes given, as one tarnish, and the flags `f` are sticky in FLAGS (R245, R250). -/
def TileHolds (s : State) (x : Tile) (codes : List Nat) (tarn : Bool) (f : Flags) (t : State) : Prop :=
  MatrixFrame s t ∧ t.strand.ctl.flags = (s.strand.sticky f tarn).ctl.flags ∧ t.strand.tile? x.base = some x ∧
    (∀ e < codes.length, t.strand.tileCodeAt x e = codes.getD e 0 % 2 ^ 32) ∧ (∀ k, x.base ≤ k → k < x.base + x.gl → (t.strand.purse k).tarn = tarn)

/-- Purses outside a group are as before; and the weaker form for a new group, which may take other tiles' headers away (R252). -/
def OutsideSame (s : State) (x : Tile) (t : State) : Prop := ∀ k, k < x.base ∨ x.base + x.gl ≤ k → t.strand.purse k = s.strand.purse k
def OutsideKept (s : State) (x : Tile) (t : State) : Prop := ∀ k, k < x.base ∨ x.base + x.gl ≤ k →
  (t.strand.purse k).bits = (s.strand.purse k).bits ∧ (t.strand.purse k).fill = (s.strand.purse k).fill ∧
    (t.strand.purse k).tag = (s.strand.purse k).tag ∧ (t.strand.purse k).tarn = (s.strand.purse k).tarn

/-- A dense contribution may go into tile `x`: it is dense, or TMODE.OVF converts it and the group holds the dense tile (R260). -/
def TakesDense (s : State) (x : Tile) : Prop := x.pair = true → s.strand.ovf = true ∧ s.strand.denseGroup x.m x.n ≤ x.gl

/-- The tile after a dense contribution. -/
def denseOf (x : Tile) : Tile := if x.pair then { x with pair := false, q := 0 } else x

/-- Elements of tile `x` of code `c`, dense(X) for a factor pair, with flags (R245). -/
def tileVals (s : State) (c : Code) (x : Tile) : List (Ex × Flags) := s.strand.denseVals c x 0 (x.m * x.n)

/-- Raw codes of a tile's stream. -/
def tileRaw (s : State) (x : Tile) (n : Nat) : List Nat := s.strand.tileCodes x 0 n

/-- Columns that TLRU finds in a purse: n of z values (R257). -/
def columnsOf (s : State) (f : BitVec 7) (n z : Nat) : List (List Ex) :=
  (List.range n).map fun i => (List.range z).map fun r => Fmt.fp32.decode (bitsAt (s.strand.purse (purseOf s f)).bits (32 * (i * z + r)) 32)

/-- Word i of a descriptor. -/
def descWord (d i : Nat) : Word := BitVec.ofNat 64 (bitsAt d (64 * i) 64)

/-! ## Steps of the device -/

/-- Only the device register at `a` may have changed. -/
def OnlyRegister (s t : State) (a : Nat) : Prop := (∀ b, b ≠ a → t.reg64 b = s.reg64 b) ∧ t = { s with dev := t.dev }

/-- No bit of a sector has flipped, in its data or its sideband bits (R345). -/
def Unflipped (s : State) (line : Nat) : Prop := ∀ f ∈ s.flips, f.cell / 64 ≠ line ∧ (f.cell < sideCell line 0 ∨ sideCell line 4 ≤ f.cell)

/-- A command ends its engine's work in a phase. -/
def inPhase (s : State) (c : Cmd) (p : CmdPhase) : State := s.updateCmd c.id fun x => { x with phase := p }

/-- R230, R355, R406: the event of a copy engine, its OP, and the work it does. -/
def copyRows : List ((Nat → Nat → Instr) × Nat × (Cmd → E CmdPhase)) :=
  [(.copy, 1, performCopy), (.fill, 2, performCopy), (.scales, 3, performCopy), (.convert, 4, performConvert), (.hostCopy, 5, performHostCopy),
   (.exchFill, 8, performCopy)]

/-- Command `c` is the next of copy engine `eng` of `die` and may start (R304). -/
def CopyReady (s : State) (die eng : Nat) (c : Cmd) : Prop :=
  die < 4 ∧ eng < 4 ∧ s.frozenQ.contains (4 * die + eng) = false ∧ s.nextQueued (4 * die + eng) = some c ∧ s.mayStart c = true

/-- A mode-S physical command outside a D context that has moved nothing yet and whose source and destination lie in one line of HBM each: the bytes
are the partition's, no bit of HBM has flipped, no page of them is locked, the block's metadata is not lost, no store waits in the core's FIFO and no
command that races with this one has written the destination. -/
def OneLine (s : State) (c : Cmd) : Prop :=
  s.cmd? c.id = some c ∧ s.flips = [] ∧ c.phys = true ∧ c.det = false ∧ c.done = 0 ∧ c.snap = [] ∧ 0 < c.dword 24 ∧
    c.dword 16 % 64 + c.dword 24 ≤ 64 ∧ c.dword 16 + c.dword 24 ≤ hbmEnd ∧ s.inRanges c.part (c.dword 16) = true ∧
    s.locked.contains (c.dword 16 / 4096) = false ∧ (s.core (coreOf c.place)).fifo = [] ∧ s.rivals c (c.dword 16) (c.dword 24) = [] ∧
    s.metaGone (c.dword 16) = false
def SourceLine (s : State) (c : Cmd) : Prop :=
  c.dword 8 % 64 + c.dword 24 ≤ 64 ∧ c.dword 8 + c.dword 24 ≤ hbmEnd ∧ s.inRanges c.part (c.dword 8) = true ∧
    s.locked.contains (c.dword 8 / 4096) = false ∧ s.poison.contains (lineOf (c.dword 8)) = false

/-- The bytes that a command has written since it stood as `c` leave PEND of its barrier, and the round may end (R167, R229). -/
def pendFallen (u : State) (c : Cmd) : State :=
  match u.cmd? c.id with
  | none => u
  | some x =>
    if x.ck = 0 ∧ x.node = none ∧ c.landed < x.landed then
      let b := u.barrier (coreOf x.place) x.ca x.group
      let b1 : Barrier := { b with pend := b.pend - (x.landed - c.landed) }
      (u.setBarrier b1).evalBarrier b1
    else u

/-- An engine's work `m` on command `c`, from `s`: it ends in a phase, or stops as R232 and R434 say, and what it wrote has left PEND. -/
def Worked (s : State) (c : Cmd) (m : Cmd → E CmdPhase) (r : Result) : Prop :=
  (∀ ph s1, m c s = .ok ph s1 → r = .next (pendFallen (inPhase s1 c ph) c)) ∧
  (∀ x s1, m c s = .error x s1 → r = .next ((pendFallen s1 c).engineStop c.id x))

/-- What the signal of a strand's command does: the phase, its search context, and the scoreboard entry retired (R166, R229, R362). -/
def signalledAt (s : State) (c : Cmd) : State :=
  let t := { inPhase s c .signalled with queries := s.queries.filter (·.cmd ≠ c.id) }
  let k := t.core (coreOf c.place)
  if k.score.any (·.cmd = c.id) then t.setCore { k with score := k.score.filter (·.cmd ≠ c.id) } else t

/-- Chunks of a command are signalled: their mask bits are 1, and the mask's tarnish takes the command's and that of their source (R229). -/
def chunksTold (s : State) (c : Cmd) (is : List Nat) : State :=
  (s.updateCmd c.id fun x => { x with told := x.told ++ is }).updateAt c.place fun t => if t.launch = c.launch then
    t.adjustMask c.ca fun m => { bits := is.foldl (fun b i => b ||| c.chunkOnes i) m.bits, tarn := m.tarn || (is ≠ [] && c.tarn) || is.any c.chunkTarn } else t

/-- Slots that compete for a core's issue slot: named ready, with a strand that can execute (R160). -/
def contenders (s : State) (core : Nat) (ready : BitVec 4) : List Nat :=
  (List.range 4).filter fun i => ready.getLsbD i && s.strands.any fun t => t.canRun && t.places.contains (4 * core + i)
def ageOf (s : State) (core i : Nat) : Nat := (s.core core).ages.getD i 0

/-- The page of a partition that holds frame `page`: its first frame, and how many it has. -/
def wholePage (s : State) (part page : Nat) : Nat × Nat := s.pageOf part (page * 4096)

/-- A write that needs `need` chunks of an emptied pool stalls: the whole page is locked, POOLST.EMPTY is set and a kind-2 record posted (R294, R295). -/
def StallsAt (s : State) (die slice part page need : Nat) (relay : Bool) (t : State) : Prop :=
  let (first, n) := wholePage s part page
  let r := ((s.postRecord part 2 [0, BitVec.ofNat 64 (first * 4096)] none none).1).setField (poolst die part) 32 1 1
  t = { r with
    locked := t.locked,
    stalled := r.stalled ++ [{ die := die, slice := slice, part := part, page := first, frames := n, need := need, relay := relay }] } ∧
  (∀ f, f ∈ t.locked ↔ f ∈ r.locked ∨ (first ≤ f ∧ f < first + n))

/-- A request has reached the PCH of each of some bytes, and no other: it is out of self-refresh, and a refresh that was due has been issued (R349, R350). -/
def Requested (s u : State) (ks : List Nat) : Prop :=
  u = { s with dev := u.dev } ∧ (∀ b, (∀ k ∈ ks, b ≠ refrec (pchOf k).1 (pchOf k).2) → u.reg64 b = s.reg64 b) ∧
  ∀ k ∈ ks, let p := pchOf k
    u.selfRefresh p.1 p.2 = false ∧ u.refreshRec p.1 p.2 = if s.refreshRec p.1 p.2 = -8 then -7 else s.refreshRec p.1 p.2

/-! ## Contexts, nodes, partitions and service -/

/-- A strand stands saved (R147): its image is written, the pc it was saved at is kept, and its links are broken. -/
def savedAs (s : State) (u : Strand) : State :=
  (s.writeImage u).updateAt u.place fun x => { x with saved := some u.pc, due := false, links := [] }

/-- The strand at a place is saved if it still can be. -/
def savedAt (s : State) (place : Nat) : State :=
  match s.strandAt place with
  | some v => if s.savable v then savedAs s v else s
  | none => s

/-- A launch is quiesced no longer. -/
def calmed (s : State) (launch : Nat) : State := match s.launch? launch with | some l => s.setLaunch { l with quiesced := false } | none => s

/-- What a draining cluster does to a strand on it (R288, R289, R352, R361). -/
def drainedStrand (s : State) (cluster : Nat) (bnf : Bool) (u : Strand) : State :=
  let stay := (u.prepSegs.getD u.segs).filter fun p => clusterOf p ≠ cluster
  if bnf = true ∧ s.onNetwork u = true then s.suspendAt u.place 0x18 0 1
  else if u.segs ≠ [] ∧ u.st.d = true then (if u.stopped then s else s.suspendAt u.place 0x18 0 1)
  else if stay ≠ [] then s.updateAt u.place fun x => { x with prepSegs := some stay, st := { x.st with rgp := true } }
  else s.preempt u.place

/-- Where the strands of a removed cluster go in a RESIZE, with every value they can load (R417): to free cores, or with the cluster's memory to a free
cluster; while neither is there they stay. -/
def vacated (s : State) (p c : Nat) : State :=
  let u := { s with fresh := s.fresh + 1 }
  match s.spread p c, (List.range 32).find? (s.clusterTarget p c) with
  | some m, _ => ((u.carryCores m).moveCores m).leaveCluster p c
  | none, some d => ((u.carryCores (clusterMap c d)).moveCluster c d).leaveCluster p c
  | none, none => u

/-- What the hub's read of what a KERNEL names leaves: A bits (R302). -/
def kernelTouched (s : State) (n : Node) : State := (s.kernelReads n).foldl (fun u r => u.hubTouch n.part r.1 r.2) s

/-- A node's status word is written, where it has a place for it (R402). -/
def statusWritten (s : State) (n : Node) (w0 w1 : Nat) : State :=
  if n.status = 0 ∨ n.status % 16 ≠ 0 then s else s.hubWrite n.part n.status (leBytes 8 w0 ++ leBytes 8 w1)

/-- The first status word of a KERNEL whose strands have all ended (R402): STATE and NERR; of a faulted one STATE 2 with the cause and the index
of the lowest strand that a fault has killed. -/
def kernelWord (l : Launch) : Nat :=
  match l.killed, l.faulted with
  | some e, none => 3 + e * 2 ^ 8
  | some e, some (f, c) => 3 + e * 2 ^ 8 + f % 2 ^ 24 * 2 ^ 40 + getBits c 0 24 * 2 ^ 16
  | none, some (f, c) => 2 + f % 2 ^ 24 * 2 ^ 40 + getBits c 0 24 * 2 ^ 16
  | none, none => 1

/-- Registers that take a write whole, with their RW bits (R15). -/
def plainRegs (part stack : Nat) : List (Nat × Word) :=
  [(vfAddr part 0x68, 0xFFFFFFFFFFFFF), (vfAddr part 0x70, 0xFFFFFFFF), (descAddr part 0x80, 0x7F),
   (descAddr part 0x88, 0xFFFFFFFF), (descAddr part 0x90, 0xFFFFFFFFFFFFFFFF), (descAddr part 0x98, 0xFFFFFFFFFFFFFFFF),
   (descAddr part 0xA0, 0xFFFFFFFFFFFFFFFF), (descAddr part 0xA8, 0x7F7F7F7F), (stackCtl stack + 0x20008, 0xFFFFFFFF),
   (stackCtl stack + 0x10008, 0xFFFFFFFFFFFF), (vfAddr 32 0x1018, 0xFFFFFFFFFFFFFFFF), (vfAddr 32 0x1020, 0xFFFFFFFF)]

/-- Every byte of a request lies where the function may reach, in no locked page (R294, R421). -/
def HostMay (s : State) (part addr n : Nat) : Prop :=
  part ≤ 32 ∧ (part ≠ 32 → s.partState part ≠ 3) ∧ (∀ i < n, s.hostReaches part (addr + i) = true) ∧ s.rangeLocked addr n = false

/-- Requests have come to pseudo-channels and nothing else has happened: registers outside the stacks' blocks stand (R349, R350). -/
def OnlyStacks (s t : State) : Prop :=
  t = { s with dev := t.dev, fresh := t.fresh } ∧ ∀ a, (a < stackBase ∨ apertureTable ≤ a) → t.reg64 a = s.reg64 a

/-- A FWCMD has ended with a result (R426): RESULT, DONE and not BUSY, and an interrupt of the PF. -/
def FwEnded (s t : State) (result : Nat) : Prop :=
  getBits (t.reg64 fwstat) 8 8 = result ∧ getBits (t.reg64 fwstat) 0 2 = 2 ∧ t.fwcmd = none ∧ t.msix = s.msix ++ [(32, 1)]

/-- A pending record is acted on (R420). -/
def acted (s : State) (ring seq : Nat) : State :=
  { s with records := s.records.map fun (x : Record) => if x.ring = ring && x.seq = seq then { x with pending := false } else x }

/-- The record that a FACT names stands in its ring, and no FACT has acted on it (R420). -/
def standing (s : State) (ring seq : Nat) : Option Record := s.records.find? fun r => r.ring = ring && r.seq = seq && r.pending && r.posted

/-- A link whose replay buffer holds `kept` and for which the packets `ps` wait: as many as find one of the 1,024 places are sent with the next
numbers, the rest wait in order (R407). -/
def linkSent (l : Link) (kept ps : List (List Byte)) : Link :=
  let room := 1024 - kept.length
  { l with replay := kept ++ (ps.take room).mapIdx fun i p => makeFlit (l.next + BitVec.ofNat 12 i) l.good p,
           waiting := ps.drop room, next := l.next + BitVec.ofNat 12 (ps.take room).length }

/-- Flits that the peer has not yet received, by the number that it reports as the last good one. -/
def unreceived (l : Link) (ack : BitVec 12) : List (List Byte) := l.replay.filter fun f => decide (2048 ≤ (ack - flitSeq f).toNat)

end Sys2Proof.Claims

open Sys2Proof.Claims

/-- Every well-formed instruction survives encoding (R61, R67, R68, R69, R70, R71, R72, R73, R74). For every instruction with all fields in
range, and for the word the encoder gives it, decoding that word gives the instruction back, every operand at every value. -/
def Obligations.DecodeOfEncode : Prop :=
  ∀ (i : Instr) (w : BitVec 32), i.wf = true → encode i = some w → decodeWord w = .ok i

/-- A word has one meaning, and every bit of it counts (R61, R67, R68, R69, R70, R71, R72, R73, R74, R76). Whatever word the decoder accepts,
the instruction it reads has every field in range and encodes to that very word: no bit of an accepted word is dropped, and no two words
are one instruction. -/
def Obligations.EncodeOfDecode : Prop :=
  ∀ (w : BitVec 32) (i : Instr), decodeWord w = .ok i → i.wf = true ∧ encode i = some w

/-- Worked words decode as the spec lists them (R61, R62, R67, R68, R69, R70). The words of the spec worked encodings (SUB, DIVU, ADDI, SRAI,
LIH, LDD, STD, STLD, AMOADD.o, BEQ, CALL, TRAP, ADDRC, CRD) decode to the instructions listed there, with the register numbers,
immediates, offsets and scopes given. -/
def Obligations.WorkedWords : Prop :=
  decodeWord 0x04811241 = .ok (.sub 16 17 18) ∧ decodeWord 0x08A152C5 = .ok (.divu 20 21 22) ∧ decodeWord 0x10600FFF = .ok (.addi 12 0 0xFFF) ∧
  decodeWord 0x2860C803 = .ok (.srai 12 12 3) ∧ decodeWord 0x2C612345 = .ok (.lih 12 0x12345) ∧ decodeWord 0x34A02602 = .ok (.ldd 20 2 2) ∧
  decodeWord 0x38A027FF = .ok (.std 20 2 0x1FF) ∧ decodeWord 0x3C60DF01 = .ok (.stld 12 13 4 1) ∧ decodeWord 0x40A152D0 = .ok (.amoaddO 20 21 22) ∧
  decodeWord 0x44286002 = .ok (.beq 5 6 2) ∧ decodeWord 0x64000010 = .ok (.call 0x10) ∧ decodeWord 0x6C0000A0 = .ok (.trap 5) ∧
  decodeWord 0x6CA14086 = .ok (.addrc 20 20 4) ∧ decodeWord 0x70600031 = .ok (.crd 12 0x031)

/-- A step runs the decoded instruction (R60, R77). When nothing stands between the strand and its next instruction and the fetch gives a
word, one step is exec of the instruction the word decodes to, in the state the fetch leaves, with the word noted for fault records; and
one step is exec of the agenda's first device step while the agenda is not empty. The agenda is the model's own way to hold a schedule
(log 1). -/
def Obligations.StepRunsDecoded : Prop :=
  (∀ (s s1 : State) (w : BitVec 32) (i : Instr), Runs s → (turn s).fetch = (s1, .ok w) → decodeWord w = .ok i →
    step s = exec i (s1.mapStrand fun t => { t with word := w })) ∧
  (∀ (s : State) (e : Instr) (rest : List Instr), s.agenda = e :: rest → step s = exec e { s with agenda := rest, ticks := s.ticks + 1 })

/-- A fetch reads four bytes at the pc, the low byte first (R13, R26, R60, R111). At a word-aligned pc whose checks pass, with no replaced
code byte pending and no store of the strand waiting in its dirty FIFO, the fetched word is the four bytes at the translated address,
little-endian; at a pc whose bits [1:0] are not zero the fetch ends in MISALIGNED_FETCH with TADDR the pc, whatever memory holds. That ACC
is then 3 is the model's choice (log 29). -/
def Obligations.FetchReadsTheWord : Prop :=
  (∀ (s s1 : State) (x : Xl), s.strand.pc.extractLsb' 0 2 = 0 →
    s.check s.strand { mode := .fetch, kind := .plain, target := .any, assay := false, poison := true, seen := [] } s.strand.pc.toNat 4 = (s1, .ok x) →
    s1.oldCode = [] → (s1.core (coreOf s.strand.place)).fifo = [] →
    s.fetch = (s1, .ok (BitVec.ofNat 32 (Mem.readLE s1.mem x.key 4)))) ∧
  (∀ s : State, s.strand.pc.extractLsb' 0 2 ≠ 0 →
    s.fetch = (s, .error { cause := 0x04, sub := 0, acc := 3, elem := 0, addr := BitVec.ofNat 64 s.strand.pc.toNat, resume := none }))

/-- A word that encodes no instruction takes ILLEGAL_INSTRUCTION (R76, R78, R137). When the fetched word decodes to no instruction, one step
takes the trap with cause 0x01, TADDR the word, and VEC equal to bit 31 of the word; exec of an illegal word is that trap as well. -/
def Obligations.IllegalWordTraps : Prop :=
  (∀ (s s1 : State) (w : BitVec 32) (r : Reject), Runs s → (turn s).fetch = (s1, .ok w) → decodeWord w = .error r →
    let t := s1.mapStrand fun t => { t with word := w }
    step s = .next (t.takeTrap (w.getLsbD 31) t.strand.pc { cause := 0x01, sub := 0, acc := 0, elem := 0, addr := w.setWidth 64, resume := none })) ∧
  (∀ (s : State) (w : BitVec 32), exec (.illegalInstruction w) s =
    .next (s.takeTrap (w.getLsbD 31) s.strand.pc { cause := 0x01, sub := 0, acc := 0, elem := 0, addr := w.setWidth 64, resume := none }))

/-- Every step keeps memory canonical (R13, R298). From every state whose memory is in its canonical form (keys strictly rising, no entry that
holds what an unlisted key reads as), every step that gives a next state gives one whose memory is in that form: whatever instruction runs
and whatever the device does. -/
def Obligations.MemoryStaysCanonical : Prop :=
  ∀ s t : State, s.Inv → step s = .next t → t.Inv

/-- The reset state meets the invariant (R33, R298). The memory of the state after a cold reset is in its canonical form, no strand lives in
it, and the control registers of the acting slot, in which nothing lives yet, hold the values that R33 gives for a launch (the model's
choice, log 1). -/
def Obligations.ResetIsCanonical : Prop :=
  State.reset.Inv ∧ State.reset.strand.run = .vacant ∧ State.reset.parked = [] ∧
  (∀ n ∈ [0x001, 0x002, 0x003, 0x004, 0x005, 0x008, 0x009, 0x00A, 0x00B, 0x00C, 0x00D, 0x010, 0x011, 0x012, 0x013, 0x014, 0x015, 0x016, 0x017, 0x018, 0x032],
    State.reset.strand.ctlRead 0 n = some .zero)

/-- Memory as canonical data: stores read back, equal memories are equal (R13, R298). Two memories in canonical form that read the same at
every key are the same list. In a canonical memory, the n little-endian bytes stored at a key read back as the number stored mod 256^n,
and every byte outside them reads as before. -/
def Obligations.CanonicalMemory : Prop :=
  (∀ m n : List Host.Cell, Memory.wf m = true → Memory.wf n = true → (∀ a, Mem.read m a = Mem.read n a) → m = n) ∧
  (∀ (m : List Host.Cell) (a n v : Nat), Memory.wf m = true →
    Mem.readLE (Mem.writeLE m a n v) a n = v % 256 ^ n ∧ ∀ x, (x < a ∨ a + n ≤ x) → Mem.read (Mem.writeLE m a n v) x = Mem.read m x)

/-- The scalar window (R27). Field 0 reads as zero, untarnished, and discards writes; fields 1 to 15 name physical registers 1 to 15 whatever
WINB holds; fields 16 to 127 name 16 + ((f - 16 + 16 WINB) mod 240). A register written through a field reads back through it, and the
register of every other field is unchanged. -/
def Obligations.ScalarFieldsNameRegisters : Prop :=
  ∀ (t : Strand) (f d : BitVec 7) (v : TWord),
    (f = 0 → t.reg f = .zero ∧ t.setReg f v = t) ∧
    (1 ≤ f.toNat → f.toNat < 16 → t.reg f = t.sregs.getD f.toNat .zero) ∧
    (16 ≤ f.toNat → t.reg f = t.sregs.getD (16 + (f.toNat - 16 + 16 * t.ctl.winb.val.toNat) % 240) .zero) ∧
    (d ≠ 0 → (t.setReg d v).reg d = v) ∧ (f ≠ d → (t.setReg d v).reg f = t.reg f)

/-- OPR: s[d] := f(s[a], s[b]) (R102). For every row of R102, the word of major 0x01 with that fn is the row's instruction, and it completes
in every state and for every field: s[d] receives f(s[a], s[b]) with the OR of the sources' tarnish (nothing is written for s0), the pc
advances by 4, and nothing else of the machine changes but TARN.SEEN with a tarnished result. -/
def Obligations.RegisterArithmetic : Prop :=
  ∀ row ∈ oprRows, ∀ (d a b : BitVec 7) (s : State), decodeWord (packR 0x01 d a b row.1) = .ok (row.2.1 d a b) ∧
    exec (row.2.1 d a b) s = .next (wrote s d (row.2.2 (val s a) (val s b)) (tarn2 s a b))

/-- OPM: products, quotients and their flags (R103). For every row of R103, the word of major 0x02 with that fn is the row's instruction, and
it completes in every state: s[d] receives the result in sx and ux arithmetic, a division by zero sets FLAGS[1] and an overflowing signed
division FLAGS[2] and nothing else of FLAGS, no division traps, and nothing else changes. -/
def Obligations.MultiplyAndDivide : Prop :=
  ∀ row ∈ opmRows, ∀ (d a b : BitVec 7) (s : State), decodeWord (packR 0x02 d a b row.1) = .ok (row.2.1 d a b) ∧
    exec (row.2.1 d a b) s =
      .next (wrote (raised s (row.2.2 (val s a) (val s b)).2 (tarn2 s a b)) d (row.2.2 (val s a) (val s b)).1 (tarn2 s a b))

/-- OPU: counts, reversals and sign extensions (R104). For every row of R104, the word of major 0x03 with that fn and field b zero is the
row's instruction, a word with field b not zero encodes none, and the instruction completes in every state with s[d] as the row describes
it bit by bit, tarnished as s[a]; nothing else changes but the pc. -/
def Obligations.CountsAndRearrangements : Prop :=
  ∀ row ∈ opuRows, ∀ (d a : BitVec 7) (s : State), decodeWord (packR 0x03 d a 0 row.1) = .ok (row.2.1 d a) ∧
    (∀ b : BitVec 7, b ≠ 0 → ∃ e, decodeWord (packR 0x03 d a b row.1) = .error e) ∧
    ∃ r, row.2.2 (val s a) r ∧ exec (row.2.1 d a) s = .next (wrote s d r (tarn1 s a))

/-- Immediate arithmetic, immediate shifts and large constants (R105, R106, R107). For every row of R105, the word of that major is the row's
instruction, and it completes in every state: s[d] receives the row's function of s[a] and the sign-extended immediate, tarnished as s[a];
nothing else changes but the pc. For every row of R106, the word of major 0x0A with that selector, bits [9:6] zero and the amount m is the
row's instruction, and it completes in every state with s[d] shifted by m, tarnished as s[a]; a word of that major with imm12[9:6] not
zero encodes no instruction. LIH sets s[d] to sext(imm19) times 2^12 mod 2^64; PCADD sets s[d] to (its own address + sext(imm19) times
2^12) mod 2^52, zero-extended. Neither result is tarnished, both complete in every state, and nothing else changes but the pc. -/
def Obligations.ImmediateForms : Prop :=
  (∀ row ∈ immRows, ∀ (d a : BitVec 7) (imm : BitVec 12) (s : State), decodeWord (packI row.1 d a imm) = .ok (row.2.1 d a imm) ∧
    exec (row.2.1 d a imm) s = .next (wrote s d (row.2.2 (val s a) (imm.signExtend 64)) (tarn1 s a))) ∧
  ((∀ row ∈ shiRows, ∀ (d a : BitVec 7) (m : BitVec 6) (s : State), decodeWord (packS 0x0A d a row.1 m) = .ok (row.2.1 d a m) ∧
    exec (row.2.1 d a m) s = .next (wrote s d (row.2.2 (val s a) m.toNat) (tarn1 s a))) ∧
  (∀ w : BitVec 32, w.extractLsb' 26 6 = 0x0A → w.extractLsb' 6 4 ≠ 0 → ∃ e, decodeWord w = .error e)) ∧
  (∀ (d : BitVec 7) (imm : BitVec 19) (s : State), decodeWord (packU 0x0B d imm) = .ok (.lih d imm) ∧ decodeWord (packU 0x0C d imm) = .ok (.pcadd d imm) ∧
    exec (.lih d imm) s = .next (wrote s d (BitVec.ofInt 64 (imm.toInt * 2 ^ 12)) false) ∧
    exec (.pcadd d imm) s = .next (wrote s d (BitVec.ofInt 64 ((s.strand.pc.toNat + imm.toInt * 2 ^ 12) % 2 ^ 52)) false))

/-- Loads and acquire loads complete (R109, R112, R113). Every load and every LDA whose access goes through completes for every operand: s[d]
receives the bytes found, little-endian, sign-extended for LDB, LDH and LDW and zero-extended otherwise, tarnished by s[a], the line and
an unobserved transfer; the pc advances, and the rest is what the checks and the line's read left. An LDA of scope below package computes
exactly as the load; one of package scope or wider first drains the core's stores to the line, reads the line at its home, observes
transfers of its launch whose token it read and drops the core's guest copies of its scope, while no store of the core waits for a locked
page; where the line is poisoned at its home it takes DATA_ERROR. -/
def Obligations.LoadsComplete : Prop :=
  (∀ row ∈ ldRows, ∀ (d a : BitVec 7) (off : BitVec 9) (s s1 : State) (x : Xl), Passes s .read (eaSigned s a off row.2.1) (2 ^ row.2.1) s1 x →
    let r := s1.loadLine s1.strand x (eaSigned s a off row.2.1).toNat (2 ^ row.2.1) []
    exec (row.1 d a off) s = .next (wrote r.1 d (extended row.2.2 row.2.1 r.2.1) (tarn1 s a || r.2.2))) ∧
  (∀ row ∈ ldaRows, ∀ (d a : BitVec 7) (sc : BitVec 3) (off : BitVec 6) (s s1 : State) (x : Xl),
    Passes s .read (eaUnsigned s a off row.2) (2 ^ row.2) s1 x →
    (sc.toNat < 4 → let r := s1.loadLine s1.strand x (eaUnsigned s a off row.2).toNat (2 ^ row.2) []
      exec (row.1 d a sc off) s = .next (wrote r.1 d (BitVec.ofNat 64 r.2.1) (tarn1 s a || r.2.2))) ∧
    (4 ≤ sc.toNat → s1.drainBlocked (coreOf s1.strand.place) = false → s1.poison.contains (lineOf x.key) = true →
      exec (row.1 d a sc off) s = .next (s1.takeTrap false s.strand.pc
        { cause := 0x0B, sub := 0, acc := 1, elem := 0, addr := eaUnsigned s a off row.2, resume := none })) ∧
    (4 ≤ sc.toNat → s1.drainBlocked (coreOf s1.strand.place) = false → s1.poison.contains (lineOf x.key) = false →
      let r := s1.loadLine s1.strand { x with unc := true } (eaUnsigned s a off row.2).toNat (2 ^ row.2) []
      exec (row.1 d a sc off) s =
        .next (wrote ((r.1.observeAll (r.1.tokensRead s1.strand.launch x.key r.2.1) s1.strand.flat).acquireAt s1.strand.place sc.toNat) d
          (BitVec.ofNat 64 r.2.1) (tarn1 s a || r.2.2))))

/-- What a load finds in memory and what a store changes (R13, R109, R110, R315). For bytes of memory that the core uses at their home, the
load's value is the bytes there, little-endian, its tarnish the line's bit or, in an F context, that of an unobserved transfer; through a
K = 1 page the core's own stores to the line drain home first and are found; and nothing else changes but the releases of replaced code
that the strand has now observed (R111). A store into memory that the core uses at its home leaves the stored bytes at the translated
address and every other byte as it was, the core's stores to the line drained first through a K = 1 page; the line is tarnished when it
was or the store is, and every other line is as before; no scalar register, purse, mask or flag changes, and no launch or device register
but those that the drained stores change. -/
def Obligations.HomeMemory : Prop :=
  (∀ (s : State) (x : Xl) (va n : Nat) (seen : List (Nat × Nat)), AtHome s x → x.key % 64 + n ≤ 64 →
    let h := (broughtHome s x).codeObserve s.strand.place x.key n
    s.loadLine s.strand x va n seen = (h, Mem.readLE (broughtHome s x).mem x.key n,
      (broughtHome s x).tarn.contains (lineOf x.key) || (!s.strand.st.d && h.unobserved s.strand.launch s.strand.flat (some va) x.key n seen))) ∧
  (∀ (s : State) (x : Xl) (va : Word) (z : Nat) (v : Word) (t : Bool), s.Inv → AtHome s x → x.key % 64 + z ≤ 64 → 0 < z →
    Mem.readLE (stored s x va z v t).mem x.key z = v.toNat % 256 ^ z ∧
    (∀ k, (k < x.key ∨ x.key + z ≤ k) → Mem.read (stored s x va z v t).mem k = Mem.read (broughtHome s x).mem k) ∧
    (∀ l, l ∈ (stored s x va z v t).tarn ↔ l ∈ (broughtHome s x).tarn ∨ (l = lineOf x.key ∧ t = true)) ∧
    (∀ r, (stored s x va z v t).strand.reg r = s.strand.reg r) ∧ (stored s x va z v t).strand.purses = s.strand.purses ∧
    (stored s x va z v t).strand.masks = s.strand.masks ∧ (stored s x va z v t).strand.ctl.flags = s.strand.ctl.flags ∧
    (stored s x va z v t).dev = (broughtHome s x).dev ∧ (stored s x va z v t).launches = (broughtHome s x).launches)

/-- Stores and release stores complete (R110, R112, R113, R294). Every store and every STL whose access goes through, and whose tarnish the
clean-range policy allows, completes for every operand: the low z bytes of s[b] are stored at the translated address with tarnish s[b] OR
s[a], TARN records a tarnished write, and the pc advances. An STL, its checks passed, first does what its scope asks (it releases the
replaced code, and at package scope or wider the core's dirty FIFO drains) and then stores the same way; while a store that it would drain
waits for a locked page, it waits. -/
def Obligations.StoresComplete : Prop :=
  (∀ row ∈ stRows, ∀ (b a : BitVec 7) (off : BitVec 9) (s s1 : State) (x : Xl), Passes s .write (eaSigned s a off row.2) (2 ^ row.2) s1 x →
    CleanOk s1 (eaSigned s a off row.2) (2 ^ row.2) (tarn2 s b a) →
    exec (row.1 b a off) s = .next ((stored s1 x (eaSigned s a off row.2) (2 ^ row.2) (val s b) (tarn2 s b a)).mapStrand
      Strand.advance)) ∧
  (∀ row ∈ stlRows, ∀ (b a : BitVec 7) (sc : BitVec 3) (off : BitVec 6) (s s1 : State) (x : Xl),
    Passes s .write (eaUnsigned s a off row.2) (2 ^ row.2) s1 x → CleanOk s1 (eaUnsigned s a off row.2) (2 ^ row.2) (tarn2 s b a) →
    let p := s1.strand.place
    let held := 4 ≤ sc.toNat ∧ s1.drainBlocked (coreOf p) = true
    let s2 := (if 4 ≤ sc.toNat then s1.drainAll (coreOf p) else s1).codeRelease p sc.toNat
    (held → exec (row.1 b a sc off) s = .next (waiting s)) ∧
    (¬ held → exec (row.1 b a sc off) s = .next ((stored s2 x (eaUnsigned s a off row.2) (2 ^ row.2) (val s b) (tarn2 s b a)).mapStrand
      Strand.advance)))

/-- What the checks of an access can change (R108, R302, R303, R349, R350). With no hardware failure due and no bit of HBM flipped, the checks
of R108 change no strand, no tarnish, no poison, no register of the device but the refresh registers of pseudo-channels, and none of these
unless one is in self-refresh or owes a refresh, no command and no byte of memory outside the leaf entries that the translation may use
(the one that the walk of the page tables ends in, and those of the partition's leaves that stand in a translation cache), whose A and D
bits they set. -/
def Obligations.ChecksChangeNoData : Prop :=
  ∀ (s s1 : State) (o : Acc) (va n : Nat) (r : Except Trap Xl), s.Inv → s.upsets = [] → s.flips = [] → s.check s.strand o va n = (s1, r) →
    s1.strand = s.strand ∧ s1.parked = s.parked ∧ s1.tarn = s.tarn ∧ s1.poison = s.poison ∧ s1.cmds = s.cmds ∧
    (∀ a, (∀ stack < 8, ∀ pch < 128, a ≠ refrec stack pch) → s1.reg64 a = s.reg64 a) ∧
    ((∀ stack < 8, ∀ pch < 128, s.selfRefresh stack pch = false ∧ s.refreshRec stack pch ≠ -8) → s1.dev = s.dev) ∧
    ∀ k, (∀ l e w, s.walk s.strand.part va = .ok (l, w, e) → k < e ∨ e + 8 ≤ k) →
      (∀ x ∈ s.tlb, x.part = s.strand.part → k < x.addr ∨ x.addr + 8 ≤ k) → Mem.read s1.mem k = Mem.read s.mem k

/-- MISALIGNED_DATA, PURSE_RANGE and ILLEGAL_CODE come before any effect (R77, R108, R136, R137, R145, R174). A load, store, LDA, STL or AMO,
unordered or ordered, whose address is no multiple of its size takes the trap with cause 0x05 and TADDR the address, before any
translation: nothing but the trap happens. A two-source vector form that names a purse at or above VREGS takes PURSE_RANGE with TADDR the
lowest such purse; with every purse in range and a destination whose code is illegal or of a kind not accepted, it takes ILLEGAL_CODE with
TADDR the code register's number; both before any effect, and a restart that faults so keeps its restart point. -/
def Obligations.EarlyTraps : Prop :=
  ((∀ row ∈ ldRows, ∀ (d a : BitVec 7) (off : BitVec 9) (s : State), (eaSigned s a off row.2.1).toNat % 2 ^ row.2.1 ≠ 0 →
    exec (row.1 d a off) s = .next (s.takeTrap false s.strand.pc
      { cause := 0x05, sub := 0, acc := 1, elem := 0, addr := eaSigned s a off row.2.1, resume := none })) ∧
  (∀ row ∈ stRows, ∀ (b a : BitVec 7) (off : BitVec 9) (s : State), (eaSigned s a off row.2).toNat % 2 ^ row.2 ≠ 0 →
    exec (row.1 b a off) s = .next (s.takeTrap false s.strand.pc
      { cause := 0x05, sub := 0, acc := 2, elem := 0, addr := eaSigned s a off row.2, resume := none })) ∧
  (∀ row ∈ ldaRows, ∀ (d a : BitVec 7) (sc : BitVec 3) (off : BitVec 6) (s : State), (eaUnsigned s a off row.2).toNat % 2 ^ row.2 ≠ 0 →
    exec (row.1 d a sc off) s = .next (s.takeTrap false s.strand.pc
      { cause := 0x05, sub := 0, acc := 1, elem := 0, addr := eaUnsigned s a off row.2, resume := none })) ∧
  (∀ row ∈ stlRows, ∀ (b a : BitVec 7) (sc : BitVec 3) (off : BitVec 6) (s : State), (eaUnsigned s a off row.2).toNat % 2 ^ row.2 ≠ 0 →
    exec (row.1 b a sc off) s = .next (s.takeTrap false s.strand.pc
      { cause := 0x05, sub := 0, acc := 2, elem := 0, addr := eaUnsigned s a off row.2, resume := none })) ∧
  (∀ row ∈ amoRows, ∀ (d a b : BitVec 7) (s : State), (val s a).toNat % amoSize row.2.2.1 ≠ 0 → ∀ i ∈ [row.1 d a b, row.2.1 d a b],
    exec i s = .next (s.takeTrap false s.strand.pc
      { cause := 0x05, sub := 0, acc := 2, elem := 0, addr := val s a, resume := none }))) ∧
  (∀ row ∈ vecBinaryRows, ∀ (d a b : BitVec 7) (ca cb mk : Bool) (s : State),
    (∀ n, (([d, a, b].map (purseOf s)).filter fun k => decide (s.strand.vregs ≤ k)).min? = some n →
      exec (row.1 d a b ca cb mk) s = .next (s.takeTrap true s.strand.pc
        { plainTrap 0x02 (BitVec.ofNat 64 n) with resume := s.strand.armedHere })) ∧
    (purseOf s d < s.strand.vregs → purseOf s a < s.strand.vregs → purseOf s b < s.strand.vregs →
      ((codeOf s d).vectorOk && row.2.1 (codeOf s d)) = false →
      exec (row.1 d a b ca cb mk) s = .next (s.takeTrap true s.strand.pc
        { plainTrap 0x03 ((s.strand.purse (purseOf s d)).tag.setWidth 64) with resume := s.strand.armedHere })))

/-- Unordered atomics complete (R114, R115, R116). Every unordered AMO whose access goes through, and whose write the clean-range policy
allows, completes for every operand: s[d] receives the old bytes, zero-extended and tarnished, memory the new value of R115 in the
operand's size, the line is tarnished, FLAGS takes the exceptions of a floating-point sum, every other byte, register and field of the
state is as before, and the pc advances. The operation is done at the line's home, after the core's own stores to the line. -/
def Obligations.AtomicsComplete : Prop :=
  ∀ row ∈ amoRows, ∀ (d a b : BitVec 7) (s s1 h : State) (x : Xl), s.Inv → Passes s (row.2.2.1.acc .unordered) (val s a) (amoSize row.2.2.1) s1 x →
    CleanOk s1 (val s a) (amoSize row.2.2.1) true → atHome x (amoSize row.2.2.1) s1 = .ok () h →
    let src := tarn2 s a b || (row.2.2.1 = .cas && tarn1 s d)
    let t := goesTo (amoAfter row.2.2.1 row.2.2.2 d a b true src x h) (s.strand.pc + 4)
    exec (row.1 d a b) s = .next t ∧ AmoDone row.2.2.1 row.2.2.2 d b true x h t

/-- Ordered atomics complete in tag order (R115, R117, R132, R306, R307). Every ordered AMO of a strand that does not stand suspended within
an earlier one, whose checks pass, whose tag is its stream's next and whose stream no other launch holds, with an empty buffer, completes
for every operand: the old value goes to s[d] and the new one to memory as for the unordered form but with the tarnish of the sources
alone, ORDTAG[31:0] advances by its step with the stream id and step unchanged and takes the tarnish of the sources and of the line read,
the stream's next tag rises by one, the strand is ready, its pc advances, and nothing else changes. -/
def Obligations.OrderedAtomicsComplete : Prop :=
  ∀ row ∈ amoRows, ∀ (d a b : BitVec 7) (s s1 s2 h : State) (x y : Xl), s.Inv → s.strand.canRun = true → s1.strand.ordHeld = false →
    let i := row.2.1 d a b
    let o := row.2.2.1.acc (.ordered (getBits s.strand.ctl.ordtag.val 32 8))
    let src := tarn2 s a b || (row.2.2.1 = .cas && tarn1 s d)
    Passes s { o with assay := false, poison := false } (val s a) (amoSize row.2.2.1) s1 x → OrdFirst s1 i →
    Passes (ordHeld s1 i src) o (val s a) (amoSize row.2.2.1) s2 y → CleanOk s2 (val s a) (amoSize row.2.2.1) src → atHome y (amoSize row.2.2.1) s2 = .ok () h →
    let line := h.tarn.contains (lineOf y.key)
    let t := goesTo (ordPerformed (amoAfter row.2.2.1 row.2.2.2 d a b src src y h) (ordEntry s1 i) (src || line)) (s.strand.pc + 4)
    exec i s = .next t ∧ AmoDone row.2.2.1 row.2.2.2 d b src y h t ∧ t.strand.run = .ready ∧
      t.strand.ctl.ordtag.val.extractLsb' 0 32 = ordAdvanced s.strand.ctl.ordtag.val ∧
      t.strand.ctl.ordtag.val.extractLsb' 32 32 = s.strand.ctl.ordtag.val.extractLsb' 32 32 ∧
      t.strand.ctl.ordtag.tarn = (s.strand.ctl.ordtag.tarn || src || line) ∧ t.ordEntries = [] ∧
      t.ordNext (ordEntry s1 i) = (ordEntry s1 i).tag + 1

/-- Conditional branches, and tarnished control flow (R101, R120, R121). For every row of R120, the word of that major is the row's
instruction, and unless its deciding operands are tarnished in a D context under the trap policy it completes: PC := (PC + sext(off12)
times 4) mod 2^52 when the condition holds, else PC + 4, and nothing else changes. A fault in fetching the target belongs to the target.
In a D context whose policy is trap, a branch, a LOOPR or a JR whose deciding operand is tarnished takes TARNISH with TADDR 0 and has no
other effect. -/
def Obligations.BranchesComplete : Prop :=
  (∀ row ∈ branchRows, ∀ (a b : BitVec 7) (off : BitVec 12) (s : State), decodeWord (packI row.1 a b off) = .ok (row.2.1 a b off) ∧
    (¬ (TrapsOnTarnish s ∧ tarn2 s a b = true) →
      exec (row.2.1 a b off) s = .next (goesTo s (if row.2.2 (val s a) (val s b) then target s off.toInt else s.strand.pc + 4)))) ∧
  ((∀ row ∈ branchRows, ∀ (a b : BitVec 7) (off : BitVec 12) (s : State), TrapsOnTarnish s → tarn2 s a b = true →
    exec (row.2.1 a b off) s = .next (s.takeTrap false s.strand.pc (plainTrap 0x08 0))) ∧
  (∀ (off : BitVec 12) (s : State), TrapsOnTarnish s → loopTarn s = true → exec (.loopr off) s = .next (s.takeTrap false s.strand.pc (plainTrap 0x08 0))) ∧
  (∀ (d a : BitVec 7) (imm : BitVec 12) (s : State), TrapsOnTarnish s → tarn1 s a = true →
    exec (.jr d a imm) s = .next (s.takeTrap false s.strand.pc (plainTrap 0x08 0))))

/-- LOOPR turns the loop (R30, R121). Unless its deciding operands trap, LOOPR completes: LAPS.REM falls by one but not below 0, masks k9 to
k(8 + w) receive their lower neighbours with w = RING.DEPTH, k8 becomes all ones when more than one iteration was left and zeros
otherwise, RING.TURN rises mod 64, LAPS and RING keep their tarnish (the model's choice, log 48), masks outside the window, the other bits
of LAPS and RING, every scalar register and purse are as before, and the pc goes to the target exactly when a mask of the window then has
a bit set. -/
def Obligations.LoopCompletes : Prop :=
  ∀ (off : BitVec 12) (s : State), ¬ (TrapsOnTarnish s ∧ loopTarn s = true) → ∃ t, exec (.loopr off) s = .next t ∧
    t.strand.ctl.laps.val = BitVec.ofNat 64 (s.strand.ctl.laps.val.toNat / 2 ^ 32 * 2 ^ 32 + (rem s - 1)) ∧
    t.strand.ctl.ring.val = BitVec.ofNat 64 (s.strand.ctl.ring.val.toNat / 2 ^ 6 * 2 ^ 6 + (s.strand.ctl.ring.val.toNat % 2 ^ 6 + 1) % 64) ∧
    t.strand.ctl.laps.tarn = s.strand.ctl.laps.tarn ∧ t.strand.ctl.ring.tarn = s.strand.ctl.ring.tarn ∧
    t.strand.mask 8 = (if 1 < rem s then .ones else .zero) ∧
    (∀ j, 9 ≤ j → j ≤ 8 + depth s → t.strand.mask j = s.strand.mask (j - 1)) ∧
    (∀ j, j < 8 ∨ 8 + depth s < j → t.strand.mask j = s.strand.mask j) ∧
    t.strand.pc = (if (∃ j, j ≤ depth s ∧ (t.strand.mask (8 + j)).bits ≠ 0) then target s off.toInt else s.strand.pc + 4) ∧
    t.strand.sregs = s.strand.sregs ∧ t.strand.purses = s.strand.purses ∧ t.mem = s.mem ∧ t.strand.ctl.flags = s.strand.ctl.flags

/-- J, CALL and JR (R26, R101, R122, R123). J sets PC := (PC + sext(off26) times 4) mod 2^52; CALL writes s1 := (its address + 4) mod 2^52,
untarnished, and jumps so; both complete in every state. JR with a word-aligned target completes unless its tarnished base traps: s[d]
receives its address + 4 mod 2^52, untarnished, and PC the target, whose base was read before the link is written. With a misaligned
target JR takes MISALIGNED_FETCH with TADDR the target and leaves s[d] and the pc for the trap; that ACC is then 3 is the model's choice
(log 29). -/
def Obligations.JumpsComplete : Prop :=
  (∀ (off : BitVec 26) (s : State), exec (.j off) s = .next (goesTo s (target s off.toInt)) ∧
    exec (.call off) s = .next ((goesTo s (target s off.toInt)).mapStrand fun u => u.setReg 1 { val := (s.strand.pc + 4).setWidth 64, tarn := false })) ∧
  (∀ (d a : BitVec 7) (imm : BitVec 12) (s : State), ¬ (TrapsOnTarnish s ∧ tarn1 s a = true) →
    let dest : Addr := BitVec.ofInt 52 ((val s a).toNat + imm.toInt)
    (dest.extractLsb' 0 2 = 0 →
      exec (.jr d a imm) s = .next ((goesTo s dest).mapStrand fun u => u.setReg d { val := (s.strand.pc + 4).setWidth 64, tarn := false })) ∧
    (dest.extractLsb' 0 2 ≠ 0 →
      exec (.jr d a imm) s = .next (s.takeTrap false s.strand.pc { plainTrap 0x04 (dest.setWidth 64) with acc := 3 })))

/-- Entering the handler (R137, R138). A trap with a cause routed Own, taken while STATUS.TR is 0 and TVEC is usable, writes TPC the address
given, TCAUSE the cause word of R137 with route Own, TELEM, TADDR and RESUME the trap's, sets STATUS.TR and puts the pc at TVEC; no other
state of the machine changes but that an armed restart point is disarmed. That what is written is untarnished, that bits of TVEC above 51
fall away, and that the codes which a stop with a restart point has kept stand beside the handler's own are the model's choices (logs 14,
41 and 16). -/
def Obligations.HandlerEntry : Prop :=
  ∀ (s : State) (vec : Bool) (next : Addr) (x : Trap), x.cause < 0x10 → s.strand.st.tr = false → s.strand.ctl.tvec.val ≠ 0 →
    s.strand.ctl.tvec.val.extractLsb' 0 2 = 0 →
    s.takeTrap vec next x = s.mapStrand fun u => { u with
      ctl := { u.ctl with
        tpc := .of (next.setWidth 64), tcause := .of (BitVec.ofNat 64 (x.sub * 2 ^ 16 + (if vec then 2 ^ 12 else 0) + x.acc * 2 ^ 10 + x.cause)),
        telem := .of (BitVec.ofNat 64 x.elem), taddr := .of x.addr, resume := .of (x.resume.getD 0) },
      st := { u.st with tr := true, tarn := false }, pc := u.ctl.tvec.val.setWidth 52, armed := none, outer := stopKeeps s x, residue := none }

/-- Suspend, Freeze and the nested trap (R135, R140, R142, R145). A cause routed Suspend or Freeze stops the strand, suspended or frozen, and
changes none of its control registers, STATUS, scalar registers, purses, masks or pc. A cause routed Own that meets STATUS.TR = 1 suspends
the strand with the outer trap's registers as they were. One that meets an unusable TVEC suspends the strand, writes TPC, TCAUSE (route
Suspend, NEST), TELEM, TADDR and RESUME, and STATUS.TR stays 0. The trap's restart point, if it has one, is armed for the instruction,
which a RESUME-STRAND executes again, and with it the codes that the stop kept stand. That a restart point of 0 stands armed so (log 16),
and that TPC, TCAUSE, TELEM, TADDR and RESUME are written untarnished (log 14), are the model's choices. -/
def Obligations.SuspendedTraps : Prop :=
  ∀ (s : State) (vec : Bool) (next : Addr) (x : Trap),
    (0x10 ≤ x.cause → let t := (s.takeTrap vec next x).strand
      (∃ q, t.run = if x.cause < 0x20 then .suspended q else .frozen q) ∧ t.ctl = s.strand.ctl ∧ t.st = s.strand.st ∧ t.sregs = s.strand.sregs ∧
        t.purses = s.strand.purses ∧ t.masks = s.strand.masks ∧ t.pc = s.strand.pc ∧ PointStands s x t) ∧
    (x.cause < 0x10 → s.strand.st.tr = true → let t := (s.takeTrap vec next x).strand
      (∃ q, t.run = .suspended q) ∧ t.ctl = s.strand.ctl ∧ t.st = s.strand.st ∧ t.sregs = s.strand.sregs ∧ t.purses = s.strand.purses ∧
        t.masks = s.strand.masks ∧ t.pc = s.strand.pc ∧ PointStands s x t) ∧
    (x.cause < 0x10 → s.strand.st.tr = false → (s.strand.ctl.tvec.val = 0 ∨ s.strand.ctl.tvec.val.extractLsb' 0 2 ≠ 0) →
      let t := (s.takeTrap vec next x).strand
      (∃ q, t.run = .suspended q) ∧ t.st = s.strand.st ∧ t.sregs = s.strand.sregs ∧ t.purses = s.strand.purses ∧ t.masks = s.strand.masks ∧
        t.pc = s.strand.pc ∧ PointStands s x t ∧ t.ctl = { s.strand.ctl with
        tpc := .of (next.setWidth 64),
        tcause := .of (BitVec.ofNat 64 (x.sub * 2 ^ 16 + 2 ^ 14 + 2 ^ 13 + (if vec then 2 ^ 12 else 0) + x.acc * 2 ^ 10 + x.cause)),
        telem := .of (BitVec.ofNat 64 x.elem), taddr := .of x.addr, resume := .of (x.resume.getD 0) })

/-- TRAP, TRET, FENCE, WINB, RCPT, ADDRC and NOP (R111, R113, R124, R125, R127, R128, R129, R130, R132, R145, R146, R294). TRAP takes the
software trap with SUB and TADDR its code and TPC the next word. TRET with a word-aligned TPC sets PC := TPC[51:0] and STATUS.TR := 0 with
the tarnish of TPC and RESUME, arms a nonzero RESUME for that address and changes nothing else; with a misaligned one it takes
MISALIGNED_FETCH with TADDR = TPC and changes nothing else. That the handler's own residue gives way to that of the stop it handles where
it returns to that instruction with the stop's restart pending, that a RESUME of 0 is armed with such a residue, and that ACC of the
misaligned case is 3, are the model's choices (logs 16 and 29). WINB sets the window base, untarnished. RCPT copies RC with its tarnish.
ADDRC adds the receipt quantity of its selector, with the tarnish of s[a] and RC. NOP changes the pc alone. FENCE completes at every
scope, at package scope or wider once no store of the core waits for a locked page, and waits until then: at package scope or wider every
store of the core's dirty FIFO is performed and its guest copies of the scope's lines, and only they, are dropped, and at a smaller one
memory and copies stand; later fetches of the strand find its own stores, and another strand's whose release at a scope within the FENCE's
it has observed; the registers, purses and masks stand, and the pc advances. -/
def Obligations.SystemInstructions : Prop :=
  ∀ s : State,
    (∀ n : BitVec 7, exec (.trap n) s = .next (s.takeTrap false (s.strand.pc + 4) { plainTrap 0x06 (n.setWidth 64) with sub := n.toNat })) ∧
    (s.strand.ctl.tpc.val.extractLsb' 0 2 = 0 → exec .tret s = .next (s.mapStrand fun u => { u with
      pc := u.ctl.tpc.val.setWidth 52, st := { u.st with tr := false, tarn := u.ctl.tpc.tarn || u.ctl.resume.tarn },
      armed := if s.strand.ctl.resume.val = 0 ∧ returnsWith s = none then none else some (u.ctl.tpc.val.setWidth 52, u.ctl.resume.val),
      residue := returnsWith s, outer := none })) ∧
    (s.strand.ctl.tpc.val.extractLsb' 0 2 ≠ 0 →
      exec .tret s = .next (s.takeTrap false s.strand.pc { plainTrap 0x04 s.strand.ctl.tpc.val with acc := 3 })) ∧
    (∀ n : BitVec 7, exec (.winb n) s = .next ((goesTo s (s.strand.pc + 4)).mapStrand fun u =>
      { u with ctl := { u.ctl with winb := { val := n.setWidth 64, tarn := false } } })) ∧
    (∀ d : BitVec 7, exec (.rcpt d) s = .next (wrote s d s.strand.ctl.rc.val s.strand.ctl.rc.tarn)) ∧
    (∀ d a n : BitVec 7, n.toNat ≤ 6 →
      let rc := s.strand.ctl.rc.val.toNat
      let q := ([rc % 2 ^ 13, rc / 2 ^ 13 % 2 ^ 17, rc / 2 ^ 30 % 2 ^ 17, rc / 2 ^ 47 % 2 ^ 17, rc / 2 ^ 13 % 2 ^ 17 / 4, rc / 2 ^ 30 % 2 ^ 17 / 4,
        rc / 2 ^ 47 % 2 ^ 17 / 4]).getD n.toNat 0
      exec (.addrc d a n) s = .next (wrote s d (val s a + BitVec.ofNat 64 q) (tarn1 s a || s.strand.ctl.rc.tarn))) ∧
    exec .nop s = .next (goesTo s (s.strand.pc + 4)) ∧
    (∀ n : BitVec 7, 4 ≤ n.toNat → s.drainBlocked (coreOf s.strand.place) = true → exec (.fence n) s = .next (waiting s)) ∧
    (∀ n : BitVec 7, ¬ (4 ≤ n.toNat ∧ s.drainBlocked (coreOf s.strand.place) = true) → ∃ t, exec (.fence n) s = .next t ∧ t = goesTo (s.fence n.toNat) (s.strand.pc + 4) ∧
      let core := coreOf s.strand.place
      let drained := if 4 ≤ n.toNat then s.drainAll core else s
      t.mem = drained.mem ∧ t.tarn = drained.tarn ∧ (4 ≤ n.toNat → (t.core core).fifo = []) ∧ (n.toNat < 4 → t.guests = s.guests) ∧
      (4 ≤ n.toNat → ∀ g, g ∈ t.guests ↔ g ∈ s.guests ∧ (g.core ≠ core ∨ ∃ c, s.guestScope s.strand.place (g.line * 64) false = some c ∧ n.toNat < c)) ∧
      (∀ e ∈ t.oldCode, (e.writer = s.strand.place ∨ ∃ o ∈ e.observed, o.1 = s.strand.place ∧ o.2 ≤ n.toNat) → s.strand.place ∈ e.fenced) ∧
      t.strand.pc = s.strand.pc + 4 ∧ t.strand.sregs = s.strand.sregs ∧ t.strand.ctl = s.strand.ctl ∧ t.strand.purses = s.strand.purses ∧
      t.strand.masks = s.strand.masks ∧ t.dev = drained.dev ∧ t.launches = drained.launches)

/-- EXIT waits for commands, then ends the strand (R126, R294, R432, R434). With a command of the strand still working, or with a store of the
core or the strand's status word at a locked page, EXIT has no effect and will be executed again, a breakpoint at it counting as passed;
with none of these and no trap owed it completes: the core's stores are performed, the strand ends and leaves every register as it was,
and its launch lists it as ended without a kill; the status word it delivers is s[a]. -/
def Obligations.ExitEndsTheStrand : Prop :=
  ∀ (a : BitVec 7) (s : State), s.strand.run = .ready →
    (∀ c ∈ s.cmds, c.place = s.strand.place → c.launch = s.strand.launch → c.node = none → ∀ u v w, c.phase ≠ .owes u v w) →
    (((∃ c ∈ s.cmds, c.place = s.strand.place ∧ c.launch = s.strand.launch ∧ c.node = none ∧ c.busy = true) ∨ s.drainBlocked (coreOf s.strand.place) = true ∨
      s.statusLocked s.strand = true) → exec (.exit a) s = .next (waiting s)) ∧
    ((∀ c ∈ s.cmds, c.place = s.strand.place → c.launch = s.strand.launch → c.node = none → c.busy = false) → s.drainBlocked (coreOf s.strand.place) = false →
      s.statusLocked s.strand = false →
      exec (.exit a) s = .next ((s.drainAll (coreOf s.strand.place)).endStrand s.strand.place (s.strand.reg a) none) ∧
      ∃ t, exec (.exit a) s = .next t ∧ t.strand.run = .ended ∧ t.strand.sregs = s.strand.sregs ∧ t.strand.ctl = s.strand.ctl ∧
        (∀ l ∈ s.launches, l.id = s.strand.launch → ∃ m ∈ t.launches, m.id = l.id ∧ (s.strand.flat, none) ∈ m.ended))

/-- CRD, CWR, CSET and CCLR (R27, R33, R78, R131, R132). For every number that R33 assigns: CRD writes s[d] with the register's value and
tarnish; CWR, CSET and CCLR give the RW fields w's bits, leave RO and reserved fields as they were, set the register's tarnish by R132,
leave every other control register but TARN.SEEN, every scalar register, purse, mask and memory as they were, and advance the pc. A CWR,
CSET or CCLR of WINB whose w is 15 or more takes the illegal-instruction trap with the word as TADDR. A CRD, CWR, CSET or CCLR of a number
that R33 does not assign takes the illegal-instruction trap with the word as TADDR, and has no other effect. -/
def Obligations.ControlRegisterAccess : Prop :=
  (∀ row ∈ crRows, ∀ (s : State),
    (∀ d : BitVec 7, ∃ v, s.strand.ctlRead s.cycle row.1 = some v ∧ exec (.crd d (BitVec.ofNat 12 row.1)) s = .next (wrote s d v.val v.tarn)) ∧
    (∀ op ∈ crWriteRows, ∀ (a : BitVec 7) (v : TWord), s.strand.ctlRead s.cycle row.1 = some v →
      let i := op.1 a (BitVec.ofNat 12 row.1)
      let w := op.2.1 v.val (val s a)
      let b := tarn1 s a || (op.2.2 && v.tarn)
      (row.1 = 0x002 → 15 ≤ w.toNat → ∃ n, encode i = some n ∧ exec i s = .next (s.takeTrap false s.strand.pc (plainTrap 0x01 (n.setWidth 64)))) ∧
      (¬ (row.1 = 0x002 ∧ 15 ≤ w.toNat) → ∃ t, exec i s = .next t ∧ t.strand.pc = s.strand.pc + 4 ∧
        (row.2 ≠ 0 → t.strand.ctlRead s.cycle row.1 = some { val := (v.val &&& ~~~row.2) ||| (w &&& row.2), tarn := b }) ∧
        (row.2 = 0 → t = goesTo s (s.strand.pc + 4)) ∧
        (∀ n, n ≠ row.1 → n ≠ 0x032 → t.strand.ctlRead s.cycle n = s.strand.ctlRead s.cycle n) ∧
        t.strand.sregs = s.strand.sregs ∧ t.strand.purses = s.strand.purses ∧ t.strand.masks = s.strand.masks ∧ t.mem = s.mem))) ∧
  (∀ (n : BitVec 12) (s : State), (∀ row ∈ crRows, row.1 ≠ n.toNat) →
    (∀ d : BitVec 7, ∃ w, encode (.crd d n) = some w ∧ exec (.crd d n) s = .next (s.takeTrap false s.strand.pc (plainTrap 0x01 (w.setWidth 64)))) ∧
    (∀ op ∈ crWriteRows, ∀ a : BitVec 7, ∃ w, encode (op.1 a n) = some w ∧
      exec (op.1 a n) s = .next (s.takeTrap false s.strand.pc (plainTrap 0x01 (w.setWidth 64)))))

/-- Two-source vector arithmetic and the fused forms (R49, R58, R152, R156, R175, R177, R178, R181, R182, R183, R185). With operands that pass
their checks, no restart pending and no trap owed on the governing mask, VADD, VSUB, VMUL, VDIV, VMIN, VMAX, VAND, VOR, VXOR and VSHIFT
complete for every operand: element j of the destination becomes the row's function of a[j] and b[j], encoded once in the destination's
code, masked elements keep their old codes, the continuation rule ends the walk, RC counts elements and bits, FLAGS and FIRSTX take the
flags raised, and nothing else changes. VFMA, VFMS, VFNMA and VFNMS do the same with the accumulator walk and the exact fused value; how
that walk ends in a block accumulator, and what it does with a partial block, are the model's choices (logs 17 and 45). -/
def Obligations.VectorArithmeticCompletes : Prop :=
  (∀ row ∈ vecBinaryRows, ∀ (d a b : BitVec 7) (ca cb mk : Bool) (s : State), UseOk s d row.2.1 → UseOk s a row.2.1 → UseOk s b row.2.1 → Fresh s → MaskFree s mk →
    let block := (codeOf s d).isBlock || (codeOf s a).isBlock || (codeOf s b).isBlock
    ∃ t, exec (row.1 d a b ca cb mk) s = .next t ∧ WalkDone s d (plainWalk
      (cellsFrom2 (gov s mk) block (fun _ x y => row.2.2 (codeOf s d) x y) 0 ((front s a).map (·.x)) (valsOf s b)) (codeOf s d) block
      (tarnOf s a || tarnOf s b || (gov s mk).tarn) (bitsFor s a) (bitsFor s b)) t) ∧
  (∀ row ∈ vecFusedRows, ∀ (d a b : BitVec 7) (ca cb mk : Bool) (s : State), UseOk s d anyCode → UseOk s a anyCode → UseOk s b anyCode → Fresh s → MaskFree s mk →
    let block := (codeOf s d).isBlock || (codeOf s a).isBlock || (codeOf s b).isBlock
    let cells := cellsFrom3 (gov s mk) block (fun _ x y z => (Ex.fma (codeOf s d).rdn row.2.1 row.2.2 x y z, 0)) 0 ((front s a).map (·.x)) (valsOf s b) (oldVals s d)
    ∃ t, exec (row.1 d a b ca cb mk) s = .next t ∧ WalkDone s d { plainWalk (wholeBlocks (codeOf s d) (oldVals s d).length cells) (codeOf s d) block
      (tarnOf s a || tarnOf s b || (gov s mk).tarn) (bitsFor s a) (bitsFor s b) with acc := true } t)

/-- One-source forms, conversion and selection (R56, R59, R156, R177, R183, R184, R188, R189). With operands that pass their checks, no
restart pending and no trap owed on the governing mask, VABS, VNEG, VSQRT, VRSQRT, VRECIP, VEXP2, VLOG2 and VCVT complete for every
operand: each active element becomes the row's function of a[j] encoded in the destination's code, and VCVT into an FP8, MXFP4 or BFP code
follows with AMAX. VSEL takes a[j] where the mask is 1 and b[j] where it is 0. -/
def Obligations.VectorUnaryCompletes : Prop :=
  (∀ row ∈ vecUnaryRows, ∀ (d a : BitVec 7) (ca mk : Bool) (s : State), UseOk s d row.2.1 → UseOk s a anyCode → Fresh s → MaskFree s mk →
    let block := (codeOf s d).isBlock || (codeOf s a).isBlock
    ∃ t, exec (row.1 d a ca mk) s = .next t ∧ WalkDone s d { plainWalk
      (cellsFrom (gov s mk) block (fun _ x => (row.2.2.1 x, 0)) 0 ((front s a).map (·.x))) (codeOf s d) block
      (tarnOf s a || (gov s mk).tarn) (bitsFor s a) (fun _ => 0) with amax := row.2.2.2 (codeOf s d) } t) ∧
  (∀ (d a b : BitVec 7) (ca cb : Bool) (s : State), UseOk s d anyCode → UseOk s a anyCode → UseOk s b anyCode → Fresh s → MaskFree s true →
    let block := (codeOf s d).isBlock || (codeOf s a).isBlock || (codeOf s b).isBlock
    let all : Gov := { bits := BitVec.allOnes 4096, tarn := (gov s true).tarn, seen := [] }
    ∃ t, exec (.vsel d a b ca cb) s = .next t ∧ WalkDone s d (plainWalk
      (cellsFrom2 all block (fun j x y => (if (gov s true).on j then x else y, 0)) 0 ((front s a).map (·.x)) (valsOf s b)) (codeOf s d) block
      (tarnOf s a || tarnOf s b || (gov s true).tarn) (bitsFor s a) (bitsFor s b)) t)

/-- Vector-scalar forms (R156, R176, R177, R178, R186). With operands that pass their checks, no restart pending and no trap owed on the
governing mask, VADDS, VMULS, VSHLS, VSHRS, VANDS, VMAXS and VMINS complete for every operand: each active element becomes the row's
function of a[j] and the scalar read under a's code. VFMAS adds a[j] times the scalar to the accumulator; how its walk ends in a block
accumulator is the model's choice (log 17). -/
def Obligations.VectorScalarCompletes : Prop :=
  (∀ row ∈ vecScalarRows, ∀ (d a b : BitVec 7) (ca mk : Bool) (s : State), UseOk s d row.2.1 → UseOk s a row.2.1 → Fresh s → MaskFree s mk →
    let block := (codeOf s d).isBlock || (codeOf s a).isBlock
    ∃ t, exec (row.1 d a b ca mk) s = .next t ∧ WalkDone s d (plainWalk
      (cellsFrom (gov s mk) block (fun _ x => row.2.2 (codeOf s d) (codeOf s a) (val s b) x) 0 ((front s a).map (·.x))) (codeOf s d) block
      (tarn1 s b || tarnOf s a || (gov s mk).tarn) (bitsFor s a) (fun _ => 0)) t) ∧
  (∀ (d a b : BitVec 7) (ca mk : Bool) (s : State), UseOk s d anyCode → UseOk s a anyCode → Fresh s → MaskFree s mk →
    let block := (codeOf s d).isBlock || (codeOf s a).isBlock
    let cells := cellsFrom2 (gov s mk) block (fun _ x z => (Ex.fma (codeOf s d).rdn false false x (scalarVal (codeOf s a) (val s b)) z, 0)) 0
      ((front s a).map (·.x)) (oldVals s d)
    ∃ t, exec (.vfmas d a b ca mk) s = .next t ∧ WalkDone s d { plainWalk (wholeBlocks (codeOf s d) (oldVals s d).length cells) (codeOf s d) block
      (tarn1 s b || tarnOf s a || (gov s mk).tarn) (bitsFor s a) (fun _ => 0) with acc := true } t)

/-- Compares write masks (R30, R58, R177, R187). With sources that pass their checks, no restart pending and no trap owed on the governing
mask, VCMPEQ, VCMPLT, VCMPLE and VCMPNE complete for every operand: each active bit of the destination mask says whether the relation
holds of a[j] and b[j], a masked-off bit keeps its old value, bits above the element count are 0, k0 takes nothing, RC counts elements and
source bits, FLAGS and FIRSTX take the NV of each active element, and no purse, register or memory changes. -/
def Obligations.VectorComparesComplete : Prop :=
  ∀ row ∈ vecCompareRows, ∀ (d a b : BitVec 7) (ca cb mk : Bool) (s : State), d.toNat < 16 → UseOk s a anyCode → UseOk s b anyCode → Fresh s → MaskFree s mk →
    let block := (codeOf s a).isBlock || (codeOf s b).isBlock
    let n := min (front s a).length (elemsOf s b).length
    let kept := (List.range n).any fun j => !(gov s mk).active block j
    let tarn := tarnOf s a || tarnOf s b || (gov s mk).tarn || (kept && (maskOf s d).tarn)
    ∃ t, exec (row.1 d a b ca cb mk) s = .next t ∧ Untouched s t ∧ t.strand.purses = s.strand.purses ∧
      (d.toNat ≠ 0 → ∀ j < 4096, (t.strand.mask d.toNat).bits.getLsbD j =
        (if j < n then (if (gov s mk).active block j then row.2.holds (((valsOf s a).getD j (.zero false)).order ((valsOf s b).getD j (.zero false)))
          else (maskOf s d).bits.getLsbD j) else false)) ∧
      (d.toNat ≠ 0 → (t.strand.mask d.toNat).tarn = tarn) ∧ (∀ k, k ≠ d.toNat → t.strand.mask k = s.strand.mask k) ∧
      t.strand.ctl.rc = { val := receiptWord n (bitsFor s a n) (bitsFor s b n) 0, tarn := tarn } ∧
      let raised := (List.range n).filterMap fun j => if (gov s mk).active block j then
        some (j, row.2.nv ((valsOf s a).getD j (.zero false)) ((valsOf s b).getD j (.zero false))) else none
      t.strand.ctl.flags = (s.strand.credit true raised tarn).ctl.flags ∧ t.strand.ctl.firstx = (s.strand.credit true raised tarn).ctl.firstx ∧
      t.strand.ctl.amax = s.strand.ctl.amax

/-- VBCAST, VID, VRAND, VOFFS and VLENS (R176, R191, R199, R200, R201). With operands that pass their checks, no restart pending and no trap
owed on the governing mask, VBCAST fills its destination with the scalar, VID with the indexes, VRAND with random values of SEED and SRB
that raise no flag and are not tarnished, each for the count of its register, at most 4,096; VOFFS and VLENS give the bit offset and
length of each element of a. -/
def Obligations.GeneratedStreamsComplete : Prop :=
  (∀ (d a b : BitVec 7) (mk : Bool) (s : State), UseOk s d anyCode → Fresh s → MaskFree s mk →
    ∃ t, exec (.vbcast d a b mk) s = .next t ∧ WalkDone s d (plainWalk
      (cellsOf (gov s mk) (codeOf s d).isBlock 0 (min (val s b).toNat 4096) fun _ => (scalarVal (codeOf s d) (val s a), 0)) (codeOf s d) (codeOf s d).isBlock
      (tarn1 s a || tarn1 s b || (gov s mk).tarn) (fun _ => 0) (fun _ => 0)) t) ∧
  (∀ (d a : BitVec 7) (mk : Bool) (s : State), UseOk s d anyCode → Fresh s → MaskFree s mk →
    ∃ t, exec (.vid d a mk) s = .next t ∧ WalkDone s d (plainWalk
      (cellsOf (gov s mk) (codeOf s d).isBlock 0 (min (val s a).toNat 4096) fun j => (Ex.ofInt j, 0)) (codeOf s d) (codeOf s d).isBlock
      (tarn1 s a || (gov s mk).tarn) (fun _ => 0) (fun _ => 0)) t) ∧
  (∀ (d a : BitVec 7) (mk : Bool) (s : State), UseOk s d anyCode → Fresh s → MaskFree s mk →
    let c := if (codeOf s d).isInteger then codeOf s d else { codeOf s d with rm := 1 }
    ∃ t, exec (.vrand d a mk) s = .next t ∧ WalkDone s d { plainWalk
      (cellsOf (gov s mk) c.isBlock 0 (min (val s a).toNat 4096) fun j => (randVal c s.strand.ctl.seed.val s.strand.ctl.srb.val j, 0)) c c.isBlock
      false (fun _ => 0) (fun _ => 0) with quiet := true } t) ∧
  (∀ row ∈ [(Instr.voffs, fun (e : Elem) => e.off), (Instr.vlens, fun (e : Elem) => e.own)], ∀ (d a : BitVec 7) (ca : Bool) (s : State),
    UseOk s d anyCode → UseOk s a anyCode → Fresh s →
    let block := (codeOf s d).isBlock || (codeOf s a).isBlock
    ∃ t, exec (row.1 d a ca) s = .next t ∧ WalkDone s d (plainWalk
      (cellsFrom (gov s false) block (fun j _ => (Ex.ofInt (((elemsOf s a).map row.2).getD j 0 : Nat), 0)) 0 ((front s a).map (·.x))) (codeOf s d) block
      (tarnOf s a) (bitsFor s a) (fun _ => 0)) t)

/-- VREDSUM, VREDMAX, VREDMIN and VSCAN (R53, R58, R177, R192, R193). With operands that pass their checks, no restart pending and no trap
owed on the governing mask, the reductions complete for every operand: the destination holds one code, the encoding of the row's value
over the active elements, or zero when none is active; RC counts the elements of a; the tarnish is that of a and the mask. VSCAN deposits
for each active j the sum over elements 0 to j. -/
def Obligations.ReductionsComplete : Prop :=
  (∀ row ∈ vecReduceRows, ∀ (d a : BitVec 7) (ca mk : Bool) (s : State), UseOk s d anyCode → UseOk s a anyCode → Fresh s → MaskFree s mk →
    let c := codeOf s d
    let dr := c.draw s.strand.ctl.seed.val s.strand.ctl.srb.val
    let v := row.2 c dr (activeVals (gov s mk) (codeOf s a).isBlock (valsOf s a))
    let out := c.oneCode dr v.1
    let tarn := tarnOf s a || (gov s mk).tarn
    ∃ t, exec (row.1 d a ca mk) s = .next t ∧ Untouched s t ∧ t.strand.masks = s.strand.masks ∧
      (∀ k, t.strand.purse k = if k = purseOf s d then { s.strand.purse k with bits := out.1, fill := out.2.1, tarn := tarn } else s.strand.purse k) ∧
      t.strand.ctl.rc = { val := receiptWord (elemsOf s a).length (advOf (elemsOf s a)) 0 out.2.1, tarn := tarn } ∧
      let raised := if v.2.2 then v.2.1 ++ [(0, out.2.2)] else v.2.1
      t.strand.ctl.flags = (s.strand.credit true raised tarn).ctl.flags ∧ t.strand.ctl.firstx = (s.strand.credit true raised tarn).ctl.firstx ∧
      t.strand.ctl.amax = s.strand.ctl.amax) ∧
  (∀ (d a : BitVec 7) (ca mk : Bool) (s : State), UseOk s d anyCode → UseOk s a anyCode → Fresh s → MaskFree s mk →
    let block := (codeOf s d).isBlock || (codeOf s a).isBlock
    let dr := (codeOf s d).draw s.strand.ctl.seed.val s.strand.ctl.srb.val
    let sum := fun (j : Nat) => sumOf (codeOf s d) dr ((activeVals (gov s mk) block (valsOf s a)).take (j + 1))
    ∃ t, exec (.vscan d a ca mk) s = .next t ∧ WalkDone s d (plainWalk
      (cellsFrom (gov s mk) block (fun j _ => (((sum j).1.getD (.zero false)).quieted, (sum j).2.foldl (fun f p => f ||| p.2) 0)) 0 ((front s a).map (·.x)))
      (codeOf s d) block (tarnOf s a || (gov s mk).tarn) (bitsFor s a) (fun _ => 0)) t)

/-- VGATHR, VSLIDE, VXCH, VCOMP and VEXPD (R49, R156, R194, R195, R196, R197, R198, R354). With operands that pass their checks, no restart
pending and no trap owed on the governing mask, VGATHR reads for each index of b the element of a in the index's segment, +0 outside it;
VSLIDE reads a[j + n] and VXCH element j xor m, segment by segment. VCOMP deposits the elements of a whose bit in k[b] is 1 and counts in
RC what it consumed. VEXPD takes a's next element at each position whose bit is 1 and keeps the old element of that position of the
segment elsewhere, up to the highest 1. Each completes, its destination keeps its tag and header, only it, RC, FLAGS and FIRSTX change,
and the pc advances. Which mask bit and old code govern a position of VGATHR, VSLIDE and VXCH in a span strand, and what a block
destination of VEXPD does with a kept element, are the model's choices (logs 45 and 17). For a strand of one segment, a destination in a
fixed-width code whose selected elements fit the grant, and a source without block codes, VCOMP leaves in the destination the selected
elements of a in their order, each encoded at its own new index, and RC.E is the number of elements of a. For a strand of one segment and
such a destination that has room for every position, VEXPD fills each position up to the highest 1, or up to a 1 for which a has no
element left: at a 1 with a's next element, encoded at the position's index, at a 0 with the old code of the position, or 0 where none
stood; RC.E is the number of positions. -/
def Obligations.ElementMovesComplete : Prop :=
  ((∀ (d a b : BitVec 7) (ca cb mk : Bool) (s : State), UseOk s d anyCode → UseOk s a anyCode → UseOk s b integerCode → Fresh s → MaskFree s mk →
    let reads := (front s b).map fun i => elemAt (inSeg (elemsOf s a) i.seg) i.x.toInt
    ∃ t, exec (.vgathr d a b ca cb mk) s = .next t ∧ WalkDone s d (plainWalk
      (cellsFrom (gov s mk) (codeOf s d).isBlock (fun _ x => (x, 0)) 0 (reads.map readVal)) (codeOf s d) (codeOf s d).isBlock
      (tarnOf s a || tarnOf s b || (gov s mk).tarn) (fun e => ((reads.take e).map readBits).sum) (bitsFor s b)) t) ∧
  (∀ (d a b : BitVec 7) (ca mk : Bool) (s : State), UseOk s d anyCode → UseOk s a anyCode → Fresh s → MaskFree s mk →
    let slid := ((List.range s.strand.room.segs).flatMap fun q => slideReads (inSeg (elemsOf s a) q) (val s b).toInt).take 4096
    let p := if s.strand.st.span then (val s b).toNat / 2 ^ 16 % 8 else 0
    let swapped := ((List.range s.strand.room.segs).flatMap fun k =>
      (List.range (inSeg (elemsOf s a) k).length).map fun j => (inSeg (elemsOf s a) (k ^^^ p))[j ^^^ ((val s b).toNat % 2 ^ 12)]?).take 4096
    let w := fun (reads : List (Option Elem)) => plainWalk
      (cellsFrom (gov s mk) (codeOf s d).isBlock (fun _ x => (x, 0)) 0 (reads.map readVal)) (codeOf s d) (codeOf s d).isBlock
      (tarnOf s a || tarn1 s b || (gov s mk).tarn) (fun e => ((reads.take e).map readBits).sum) (fun _ => 0)
    (∃ t, exec (.vslide d a b ca mk) s = .next t ∧ WalkDone s d (w slid) t) ∧ (∃ t, exec (.vxch d a b ca mk) s = .next t ∧ WalkDone s d (w swapped) t)) ∧
  (∀ (d a b : BitVec 7) (ca : Bool) (s : State), UseOk s d anyCode → UseOk s a anyCode → Fresh s →
    let dest : Dest := { c := codeOf s d, dr := drawOf s (codeOf s d), room := s.strand.room, old := [], acc := false }
    let r := compResult dest (codeOf s a) ((segPositions (elemsOf s a)).map fun p => (p.2, (maskOf s b).bits.getLsbD p.1))
    let tarn := tarnOf s a || (maskOf s b).tarn
    ∃ t, exec (.vcomp d a b ca) s = .next t ∧ Untouched s t ∧ t.strand.masks = s.strand.masks ∧
      (∀ k, t.strand.purse k = if k = purseOf s d then { s.strand.purse k with bits := r.1.bits, fill := r.1.od, tarn := tarn } else s.strand.purse k) ∧
      t.strand.ctl.rc = { val := receiptWord r.2.1 r.2.2 0 r.1.od, tarn := tarn } ∧ t.strand.ctl.amax = s.strand.ctl.amax ∧
      t.strand.ctl.flags = (s.strand.credit true r.1.flags tarn).ctl.flags ∧ t.strand.ctl.firstx = (s.strand.credit true r.1.flags tarn).ctl.firstx) ∧
  (∀ (d a b : BitVec 7) (ca : Bool) (s : State), UseOk s d anyCode → UseOk s a anyCode → Fresh s →
    let k := maskOf s b
    let block := (codeOf s d).isBlock
    let at_ := ((List.range s.strand.room.segs).flatMap fun q =>
      withOld (expandReads k.bits (maskLength k.bits) 4096 0 (inSeg (elemsOf s a) q)) (inSeg (oldElems s d) q)).take 4096
    let cells : List Cell := at_.map fun p => match p.1, p.2 with
      | some e, _ => some (e.x, 0)
      | none, some e => if block then some (e.x, 0) else none
      | none, none => if block then some (.zero false, 0) else none
    let again := if block then at_.map fun p => p.1.isNone && p.2.isSome else []
    ∃ t, exec (.vexpd d a b ca) s = .next t ∧ WalkOver s d { plainWalk cells (codeOf s d) block (tarnOf s a || k.tarn)
      (fun e => ((at_.take e).map fun p => match p.1 with | some x => x.adv | none => 0).sum) (fun _ => 0) with again := again }
      (at_.map fun p => p.2.map fun e => (bitsAt (s.strand.purse (purseOf s d)).bits e.off e.own, e.own)) t)) ∧
  ((∀ (d a b : BitVec 7) (ca : Bool) (s : State), UseOk s d anyCode → UseOk s a anyCode → Fresh s → s.strand.st.span = false →
    (codeOf s d).isFixed = true → (codeOf s d).isBlock = false → (codeOf s a).isBlock = false →
    let c := codeOf s d
    let chosen := ((List.range (elemsOf s a).length).filter fun i => (maskOf s b).bits.getLsbD i).map fun i => (valsOf s a).getD i (.zero false)
    chosen.length * c.fixedBits ≤ s.strand.grant →
    ∃ t, exec (.vcomp d a b ca) s = .next t ∧ (t.strand.purse (purseOf s d)).fill = chosen.length * c.fixedBits ∧
      (∀ j < chosen.length, (t.strand.purse (purseOf s d)).bits / 2 ^ (j * c.fixedBits) % 2 ^ c.fixedBits =
        (c.encodeElem (c.draw s.strand.ctl.seed.val s.strand.ctl.srb.val) j (chosen.getD j (.zero false))).1 % 2 ^ c.fixedBits) ∧
      t.strand.ctl.rc.val.toNat % 2 ^ 13 = min (elemsOf s a).length (2 ^ 13 - 1)) ∧
  (∀ (d a b : BitVec 7) (ca : Bool) (s : State), UseOk s d anyCode → UseOk s a anyCode → Fresh s → s.strand.st.span = false →
    (codeOf s d).isFixed = true → (codeOf s d).isBlock = false →
    let c := codeOf s d
    let w := c.fixedBits
    let k := (maskOf s b).bits
    let rank := fun (j : Nat) => ((List.range j).filter fun i => k.getLsbD i).length
    maskLength k * w ≤ s.strand.grant →
    ∃ t, exec (.vexpd d a b ca) s = .next t ∧ ∃ e ≤ maskLength k, (e = maskLength k ∨ (k.getLsbD e = true ∧ rank e = (elemsOf s a).length)) ∧
      (t.strand.purse (purseOf s d)).fill = e * w ∧ t.strand.ctl.rc.val.toNat % 2 ^ 13 = e ∧
      ∀ j < e, bitsAt (t.strand.purse (purseOf s d)).bits (j * w) w =
        if k.getLsbD j then (c.encodeElem (drawOf s c) j ((valsOf s a).getD (rank j) (.zero false))).1 % 2 ^ w
        else if (j + 1) * w ≤ (s.strand.purse (purseOf s d)).fill then bitsAt (s.strand.purse (purseOf s d)).bits (j * w) w else 0))

/-- Mask logic, SETVL and its group, VCODE (R153, R155, R163, R190, R202, R203, R204). KAND, KOR, KXOR and KNOT write k[d], all 4,096 bits and
the OR of their sources' tarnish, and nothing for k0, and no other mask; KCNT and KFIRST write s[d] with the number of ones and the lowest
index of a one or 4,096. GETVL and VFRAME read the grant and the frame size (64 + GRANT) / 8, SETMASK writes AMR, untarnished, and VCODE
the tag of its purse alone, or takes PURSE_RANGE at VREGS and above. SETVL changes the machine as GrantNegotiation says and returns the
grant in s[d]; one by which a span strand leaves the core of its segment 0 waits until the commands that it issued there have been done
(the model's choice, log 50). Each completes, and nothing else changes but the pc. -/
def Obligations.MasksAndGrantsComplete : Prop :=
  ∀ (s : State),
    (∀ row ∈ maskRows, ∀ d a b : BitVec 7, exec (row.1 d a b) s = .next (s.mapStrand fun t =>
      (t.setMask d.toNat { bits := row.2 (maskOf s a).bits (maskOf s b).bits, tarn := (maskOf s a).tarn || (maskOf s b).tarn }).advance)) ∧
    (∀ d a : BitVec 7, exec (.knot d a) s = .next (s.mapStrand fun t =>
      (t.setMask d.toNat { bits := ~~~(maskOf s a).bits, tarn := (maskOf s a).tarn }).advance)) ∧
    (∀ (d : BitVec 7) (m : KMask) (t : Strand), d.toNat < 16 →
      (∀ k, (t.setMask d.toNat m).mask k = if k = d.toNat ∧ d.toNat ≠ 0 then m else t.mask k) ∧
      ∃ u, t.setMask d.toNat m = { t with masks := (t.setMask d.toNat m).masks, ctl := t.ctl.seen u }) ∧
    (∀ d a : BitVec 7, ∃ n, exec (.kcnt d a) s = .next (wrote s d (BitVec.ofNat 64 n) (maskOf s a).tarn) ∧
      n = ((List.range 4096).filter fun i => (maskOf s a).bits.getLsbD i).length) ∧
    (∀ d a : BitVec 7, ∃ n, exec (.kfirst d a) s = .next (wrote s d (BitVec.ofNat 64 n) (maskOf s a).tarn) ∧ n ≤ 4096 ∧
      (∀ i < n, (maskOf s a).bits.getLsbD i = false) ∧ (n < 4096 → (maskOf s a).bits.getLsbD n = true)) ∧
    (∀ d : BitVec 7, exec (.getvl d) s = .next (wrote s d (BitVec.ofNat 64 s.strand.grant) false) ∧
      exec (.vframe d) s = .next (wrote s d (BitVec.ofNat 64 ((64 + s.strand.grant) / 8)) false)) ∧
    (∀ n : BitVec 7, exec (.setmask n) s = .next ((goesTo s (s.strand.pc + 4)).mapStrand fun u =>
      { u with ctl := { u.ctl with amr := { val := n.setWidth 64, tarn := false } } })) ∧
    (∀ d n : BitVec 7, purseOf s d < s.strand.vregs → ∃ t, exec (.vcode d n) s = .next t ∧
      t = { s with strand := { s.strand with
        purses := t.strand.purses, residue := t.strand.residue, outer := t.strand.outer, pc := s.strand.pc + 4, armed := none } } ∧
      (∀ k, t.strand.purse k = if k = purseOf s d then { s.strand.purse k with tag := n.setWidth 3 } else s.strand.purse k) ∧
      (let gone := fun (r : Residue) => if r.purse = purseOf s d then { r with dirty := true } else r
       t.strand.residue = s.strand.residue.map gone ∧ t.strand.outer = s.strand.outer.map gone)) ∧
    (∀ (d n : BitVec 7), s.strand.vregs ≤ purseOf s d →
      exec (.vcode d n) s = .next (s.takeTrap true s.strand.pc { plainTrap 0x02 (BitVec.ofNat 64 (purseOf s d)) with resume := s.strand.armedHere })) ∧
    (let leaves := s.strand.shifts = true ∧ (s.cmdsAtWork s.strand = true ∨ s.drainBlocked (coreOf s.strand.place) = true)
     ∀ d a b : BitVec 7, (leaves → exec (.setvl d a b) s = .next (waiting s)) ∧ (¬ leaves → exec (.setvl d a b) s = .next (wrote (s.setvl (val s a).toNat (val s b).toNat (tarn2 s a b)) d
      (BitVec.ofNat 64 (s.setvl (val s a).toNat (val s b).toNat (tarn2 s a b)).strand.grant) (tarn2 s a b))))

/-- What SETVL grants (R153, R154, R155, R158, R159, R352). A SETVL of a strand of one segment leaves GRANT by the formula of R153: the
request rounded up to a multiple of 512 from 512 to 65,536, and lowered in steps of 512 while GRANT times the purses asked for exceeds
SHARE; VREGS is the lesser of 128 and SHARE over GRANT. In a D context SHARE is the three slot banks and the strand's reserve and nothing
is borrowed, so that GRANT, SHARE and VREGS depend on the request and the reserve alone; in an F context SHARE is the three banks and the
banks borrowed, as many as the request needs, or fewer when then none is borrowable. A span strand of n segments has GRANT n times a
multiple of 512 of at most 512 floor(128 / n), in a D context the one that R352 gives, and VREGS from 1 to 128. When GRANT or SHARE
changes every purse is emptied, its tag kept, and else every purse keeps its contents. STATUS.RGP is 0 after it, and no scalar register,
mask, flag or other control register than GRANT, SHARE, LANES, VREGS, STATUS.RGP and TARN changes, nor any byte of memory outside the
core's lane slices, unless a span strand leaves the core of its segment 0, which changes its STRANDID. -/
def Obligations.GrantNegotiation : Prop :=
  ∀ (s : State) (a b : Nat) (src : Bool), s.strand.reserve ≤ 12 → s.strand.live = true →
    let u := s.setvl a b src
    let t := u.strand
    let share := t.ctl.share.val.toNat
    let spans := t.st.span = true ∧ t.segs ≠ []
    (¬ spans → GrantOf a b share t.grant ∧ t.vregs = min 128 (share / t.grant)) ∧
    (s.strand.st.d = true → share = shareOf s ∧ t.borrowed = []) ∧
    (s.strand.st.d = false → t.segs = [] → share = 786432 + 262144 * t.borrowed.length ∧ t.borrowed.length ≤ banksAsked a b ∧
      (t.borrowed.length < banksAsked a b → u.borrowable (coreOf t.place) = [])) ∧
    (∀ v : State, v.strand.live = true → v.strand.st.d = true → s.strand.st.d = true → v.strand.reserve = s.strand.reserve → ¬ spans →
      let w := (v.setvl a b src).strand
      ¬ (w.st.span = true ∧ w.segs ≠ []) → w.grant = t.grant ∧ w.vregs = t.vregs ∧ w.ctl.share.val.toNat = share) ∧
    (spans → t.segs.length ≤ 8 → ∃ g, g % 512 = 0 ∧ 512 ≤ g ∧ g ≤ 512 * (128 / t.segs.length) ∧ t.grant = t.segs.length * g ∧ 1 ≤ t.vregs ∧ t.vregs ≤ 128 ∧
      (s.strand.st.d = true → t.vregs = min 128 (share / g) ∧ ∃ k, GrantOf a b share k ∧ g = min k (512 * (128 / t.segs.length)))) ∧
    ((t.grant ≠ s.strand.grant ∨ share ≠ s.strand.ctl.share.val.toNat) →
      ∀ k < 128, t.purse k = { bits := 0, fill := 0, tag := (s.strand.purse k).tag, tarn := false, hdr0 := 0, hdr1 := 0 }) ∧
    (t.grant = s.strand.grant → share = s.strand.ctl.share.val.toNat → t.purses = s.strand.purses) ∧
    t.st = { s.strand.st with rgp := false } ∧ t.sregs = s.strand.sregs ∧ t.masks = s.strand.masks ∧
    t.place = (if s.strand.shifts then (s.strand.prepSegs.getD []).headD s.strand.place else s.strand.place) ∧
    (∀ n, n ∉ [0x000, 0x020, 0x021, 0x022, 0x023, 0x030, 0x032] → t.ctlRead s.cycle n = s.strand.ctlRead s.cycle n) ∧
    (s.Inv → s.strand.shifts = false → ∀ k, (k < laneKey (coreOf s.strand.place) 0 ∨ laneKey (coreOf s.strand.place) 0x40000 ≤ k) →
      Mem.read u.mem k = Mem.read s.mem k)

/-- VLD, VLDS, VGTH, VGL and the coded loads (R144, R212, R214, R215, R216, R217, R220, R221). With a destination that passes its checks, no
restart pending and no trap owed on the governing mask, a vector load whose elements all go through completes: the destination holds what
its elements loaded, in order, masked elements their old codes, with the tarnish of all it read; RC counts elements and bits, and no other
purse, register or mask changes, nor anything that the accesses themselves did not. VGL drops the strand's links first and then links the
lines of its active elements. VLDC and VLDCF load codes from a nibble address until one does not fit; a VLDCF whose later code faults ends
there, with TELEM and TADDR telling of it, and one without a fault has TADDR 0. An unmasked VLD of a fixed-width code from the core's
scratchpad fills its purse: element u is the bytes at s[a] + u z, little-endian, z being the element's bytes, and no byte of memory
changes. -/
def Obligations.VectorLoadsComplete : Prop :=
  (∀ row ∈ [fun (d a _b : BitVec 7) (mk : Bool) => (Instr.vld d a mk, (none : Option (BitVec 7)), fixedOrBlock), fun d a b mk => (Instr.vlds d a b mk, some b, fixedCode)],
    ∀ (d a b : BitVec 7) (mk : Bool) (s s1 : State) (st : LoadState), UseOk s d (row d a b mk).2.2 → Fresh s → MaskFree s mk →
    let p := vldPlan s (row d a b mk).2.1 d a mk
    let src := tarn1 s a || (match (row d a b mk).2.1 with | some r => tarn1 s r | none => false)
    loadLoop p s.strand.room p.n (loadStart src p.gov) (observed s mk) = .ok (st, none) s1 →
    ∃ t, exec (row d a b mk).1 s = .next t ∧ Loaded s s1 d p.g st (st.u * p.w) 0 t) ∧
  (∀ (link : Bool) (d a b : BitVec 7) (cb mk : Bool) (s s1 : State) (st : LoadState), UseOk s d fixedCode → UseOk s b integerCode → Fresh s → MaskFree s mk →
    let p := gatherPlan s link d a b mk
    let s0 := if link then (observed s mk).mapStrand fun u => { u with links := [] } else observed s mk
    loadLoop p s.strand.room p.n (loadStart (tarn1 s a || tarnOf s b) p.gov) s0 = .ok (st, none) s1 →
    ∃ t, exec (if link then .vgl d a b cb mk else .vgth d a b cb mk) s = .next t ∧ Loaded s s1 d 1 st 0 (indexBits s b st.u) t) ∧
  (∀ (early : Bool) (d a : BitVec 7) (s s1 : State) (st : StreamState) (x : Option Trap), UseOk s d anyCode → Fresh s →
    streamLoop none (codeOf s d) (val s a) s.strand.room s.strand.grant 4096 { j := 0, oa := 0, pos := (0, 0), od := 0, bits := 0, tarn := tarn1 s a } s = .ok (st, x) s1 →
    x = none ∨ (early = true ∧ 0 < st.j) →
    ∃ t, exec (if early then .vldcf d a else .vldc d a) s = .next t ∧ t.strand.pc = s.strand.pc + 4 ∧
      (∀ k, t.strand.purse k = if k = purseOf s d then { s.strand.purse k with bits := st.bits, fill := st.od, tarn := st.tarn } else s.strand.purse k) ∧
      t.strand.ctl.rc = { val := receiptWord st.j st.oa 0 st.od, tarn := st.tarn } ∧ t.strand.sregs = s.strand.sregs ∧ t.strand.masks = s.strand.masks ∧
      CtlKept s t [0x00B, 0x00C, 0x018, 0x032] ∧ t = { s1 with strand := t.strand } ∧
      t.strand.ctl.taddr = (if early then { val := match x with | some y => y.addr | none => 0, tarn := st.tarn } else s.strand.ctl.taddr) ∧
      t.strand.ctl.telem = (if early && x.isSome then { val := BitVec.ofNat 64 st.j, tarn := st.tarn } else s.strand.ctl.telem)) ∧
  (∀ (d a : BitVec 7) (s : State), UseOk s d fixedCode → Fresh s → s.strand.st.span = false →
    let w := (codeOf s d).fixedBits
    let z := w / 8
    let n := min 4096 (s.strand.grant / w)
    let va := (val s a).toNat
    let at_ := fun (u : Nat) => scratchOf s (va + u * z)
    va % z = 0 → InScratch s va (n * z) → ∃ t, exec (.vld d a false) s = .next t ∧ t.mem = s.mem ∧
      (t.strand.purse (purseOf s d)).fill = n * w ∧ (∀ u < n, bitsAt (t.strand.purse (purseOf s d)).bits (u * w) w = Mem.readLE s.mem (at_ u) z) ∧
      (t.strand.purse (purseOf s d)).tarn = (tarn1 s a || (List.range n).any fun u => s.tarn.contains (lineOf (at_ u))) ∧
      ∀ k, k ≠ purseOf s d → t.strand.purse k = s.strand.purse k)

/-- VST, VSTS, VSCT, VSC, VSTC and VPREF (R75, R144, R212, R214, R215, R218, R219, R220, R222). With operands that pass their checks, no
restart pending and no trap owed on the governing mask, a vector store whose elements all go through completes: memory holds what its
elements stored, RC counts them, and no purse, register or other control register changes, nor anything that the accesses themselves did
not. VSC, with AMR not 0, writes back into k[AMR] which elements stored, tarnished in an F context, changes no other mask, and drops every
link; with AMR = 0 its word is illegal. VPREF only advances the pc. An unmasked VST of a fixed-width code to the core's scratchpad leaves
element u in the bytes at s[a] + u z, little-endian, z being the element's bytes, in a tarnished line when the store is tarnished, and
every other byte as before. -/
def Obligations.VectorStoresComplete : Prop :=
  (∀ row ∈ [fun (d a _b : BitVec 7) (mk : Bool) => (Instr.vst d a mk, (none : Option (BitVec 7)), fixedOrBlock), fun d a b mk => (Instr.vsts d a b mk, some b, fixedCode)],
    ∀ (d a b : BitVec 7) (mk : Bool) (s s1 : State) (u : Nat), UseOk s d (row d a b mk).2.2 → Fresh s → MaskFree s mk →
    let p := vstPlan s (row d a b mk).2.1 d a mk
    storeLoop p p.n 0 (observed s mk) = .ok (u, none) s1 →
    ∃ t, exec (row d a b mk).1 s = .next t ∧ Scattered s s1 (min (u * p.g) 4096) (u * p.w) 0 (u * p.w) (p.tarn || p.gov.tarn) t ∧ t.strand.masks = s.strand.masks) ∧
  (∀ (d a b : BitVec 7) (cb mk : Bool) (s s1 : State) (u : Nat), UseOk s d fixedCode → UseOk s b integerCode → Fresh s → MaskFree s mk →
    let p := scatterPlan s d a b mk
    storeLoop p p.n 0 (observed s mk) = .ok (u, none) s1 →
    ∃ t, exec (.vsct d a b cb mk) s = .next t ∧
      Scattered s s1 (min u 4096) (u * p.w) (indexBits s b u) (((List.range u).filter p.gov.on).length * p.w) (p.tarn || p.gov.tarn) t ∧ t.strand.masks = s.strand.masks) ∧
  (∀ (d a b : BitVec 7) (cb : Bool) (s s1 : State) (u m : Nat), UseOk s d fixedCode → UseOk s b integerCode → Fresh s → MaskFree s true → s.strand.amr ≠ 0 →
    let p := scatterPlan s d a b true
    linkedLoop p p.n 0 p.gov.bits.toNat (observed s true) = .ok (u, m, none) s1 →
    ∃ t, exec (.vsc d a b cb) s = .next t ∧
      Scattered s s1 u (u * p.w) (indexBits s b u) (((List.range u).filter fun i => m.testBit i).length * p.w) (p.tarn || p.gov.tarn) t ∧
      t.strand.mask s.strand.amr = { bits := BitVec.ofNat 4096 (m % 2 ^ u), tarn := p.tarn || p.gov.tarn || !s.strand.st.d } ∧
      (∀ k, k ≠ s.strand.amr → t.strand.mask k = s.strand.mask k) ∧ t.strand.links = []) ∧
  (∀ (d a b : BitVec 7) (cb : Bool) (s : State), s.strand.amr = 0 →
    ∃ w, encode (.vsc d a b cb) = some w ∧ exec (.vsc d a b cb) s = .next (s.takeTrap true s.strand.pc (plainTrap 0x01 (w.setWidth 64)))) ∧
  (∀ (d a : BitVec 7) (s s1 : State) (j oa : Nat), UseOk s d anyCode → Fresh s →
    let c := codeOf s d
    let p := s.strand.purse (purseOf s d)
    storeCodes none (val s a) c.unitElems (p.tarn || tarn1 s a) 0 0 ((c.items p.bits p.fill c.maxItems 0).take ((4096 + c.unitElems - 1) / c.unitElems)) s = .ok (j, oa, none) s1 →
    ∃ t, exec (.vstc d a) s = .next t ∧ Scattered s s1 j oa 0 oa (p.tarn || tarn1 s a) t ∧ t.strand.masks = s.strand.masks) ∧
  (∀ (a b : BitVec 7) (s : State), exec (.vpref a b) s = .next (goesTo s (s.strand.pc + 4))) ∧
  (∀ (d a : BitVec 7) (s : State), s.Inv → UseOk s d fixedCode → Fresh s →
    let p := s.strand.purse (purseOf s d)
    let w := (codeOf s d).fixedBits
    let z := w / 8
    let n := min 4096 (p.fill / w)
    let va := (val s a).toNat
    let at_ := fun (u : Nat) => scratchOf s (va + u * z)
    va % z = 0 → InScratch s va (n * z) → ∃ t, exec (.vst d a false) s = .next t ∧
      (∀ u < n, Mem.readLE t.mem (at_ u) z = bitsAt p.bits (u * w) w) ∧ OnlyBytes s t (scratchOf s va) (n * z) ∧
      (tarn1 s a || p.tarn → ∀ u < n, lineOf (at_ u) ∈ t.tarn) ∧ t.strand.purses = s.strand.purses ∧ t.strand.sregs = s.strand.sregs)

/-- A vector load or store stops at its faulting element (R138, R143, R144, R213). When element u of a VLD, VLDS, VGTH, VST, VSTS or VSCT
faults with a cause routed Own and a usable handler, the strand enters the handler with TELEM the element and RESUME the restart point of
elements 0 to u - 1; RC, FLAGS, the scalar registers and the masks are unchanged. The destination purse of a load shows exactly the codes
loaded so far, and its former content stands as the restart residue while the handler runs (the model's form of it, log 16); a store
changes no purse, and what its earlier elements stored stands. -/
def Obligations.ElementPreciseStops : Prop :=
  (∀ row ∈ [fun (d a _b : BitVec 7) (mk : Bool) => (Instr.vld d a mk, (none : Option (BitVec 7)), fixedOrBlock), fun d a b mk => (Instr.vlds d a b mk, some b, fixedCode)],
    ∀ (d a b : BitVec 7) (mk : Bool) (s s1 : State) (st : LoadState) (x : Trap), UseOk s d (row d a b mk).2.2 → Fresh s → MaskFree s mk → TakenOwn s x →
    let p := vldPlan s (row d a b mk).2.1 d a mk
    let src := tarn1 s a || (match (row d a b mk).2.1 with | some r => tarn1 s r | none => false)
    loadLoop p s.strand.room p.n (loadStart src p.gov) (observed s mk) = .ok (st, some x) s1 →
    let j := min (st.u * p.g) 4096
    ∃ t, exec (row d a b mk).1 s = .next t ∧ StoppedAt s j (receiptWord j (st.u * p.w) 0 st.od) x t ∧ LoadStopped s s1 d j st t) ∧
  (∀ (d a b : BitVec 7) (cb mk : Bool) (s s1 : State) (st : LoadState) (x : Trap), UseOk s d fixedCode → UseOk s b integerCode → Fresh s → MaskFree s mk → TakenOwn s x →
    let p := gatherPlan s false d a b mk
    loadLoop p s.strand.room p.n (loadStart (tarn1 s a || tarnOf s b) p.gov) (observed s mk) = .ok (st, some x) s1 →
    let j := min st.u 4096
    ∃ t, exec (.vgth d a b cb mk) s = .next t ∧ StoppedAt s j (receiptWord j 0 (indexBits s b st.u) st.od) x t ∧ LoadStopped s s1 d j st t) ∧
  (∀ row ∈ [fun (d a _b : BitVec 7) (mk : Bool) => (Instr.vst d a mk, (none : Option (BitVec 7)), fixedOrBlock), fun d a b mk => (Instr.vsts d a b mk, some b, fixedCode)],
    ∀ (d a b : BitVec 7) (mk : Bool) (s s1 : State) (u : Nat) (x : Trap), UseOk s d (row d a b mk).2.2 → Fresh s → MaskFree s mk → TakenOwn s x →
    let p := vstPlan s (row d a b mk).2.1 d a mk
    storeLoop p p.n 0 (observed s mk) = .ok (u, some x) s1 →
    let j := min (u * p.g) 4096
    ∃ t, exec (row d a b mk).1 s = .next t ∧ StoppedAt s j (receiptWord j (u * p.w) 0 (u * p.w)) x t ∧ t.strand.purses = s.strand.purses ∧
      t = { s1 with strand := t.strand }) ∧
  (∀ (d a b : BitVec 7) (cb mk : Bool) (s s1 : State) (u : Nat) (x : Trap), UseOk s d fixedCode → UseOk s b integerCode → Fresh s → MaskFree s mk → TakenOwn s x →
    let p := scatterPlan s d a b mk
    storeLoop p p.n 0 (observed s mk) = .ok (u, some x) s1 →
    let j := min u 4096
    ∃ t, exec (.vsct d a b cb mk) s = .next t ∧
      StoppedAt s j (receiptWord j (u * p.w) (indexBits s b u) (((List.range u).filter p.gov.on).length * p.w)) x t ∧ t.strand.purses = s.strand.purses ∧
      t = { s1 with strand := t.strand })

/-- The VAMO family and VAMOO (R117, R211, R223, R224, R225, R226, R306, R307). With operands that pass their checks, no restart pending and
no trap owed on the governing mask, an unordered VAMO whose active elements all pass their checks completes as one event: its groups are
performed in the order of their first elements, each active element of the destination receives its old value, the rest of the destination
stands, the result is tarnished, RC counts every element, FLAGS, FIRSTX and RC have the tarnish of the sources and of the lines read
(R132), and every other register is as before. The destination addresses are those the groups stored to, in the state that the last group
leaves. An unmasked VAMO of one element in an integer code of 32 or 64 bits, on the core's scratchpad, leaves in memory the operation of
R223 on the old bytes and the element, in the purse the old bytes with the bits above them as they were, both tarnished, and every other
byte as before. A VAMOO of a strand that does not stand suspended within an earlier ordered atomic, whose checks pass, whose tag is its
stream's next and whose stream no other launch holds, with an empty buffer, completes: the one event of VAMOADD takes place with the
tarnish of its sources and lines alone, ORDTAG advances by its step and takes that tarnish too, the stream's next tag rises by one, and
nothing else changes. -/
def Obligations.VectorAtomicsComplete : Prop :=
  ((∀ row ∈ vamoRows, ∀ (d a b : BitVec 7) (cb mk : Bool) (s s1 s2 : State) (l : List (Nat × Xl × Word)) (r : VamoDone),
    UseOk s d row.2.codeOk → UseOk s b integerCode → Fresh s → MaskFree s mk →
    let p := vamoPlanOf s d a b mk
    checkTargets (vamoAcc .unordered true p.gov.seen) (p.c.fixedBits / 8) true p.at_ (observed s mk) = .ok l s1 →
    vamoGroups row.2 p.c (fun j => bitsAt (s.strand.purse (purseOf s d)).bits (j * p.c.fixedBits) p.c.fixedBits) true (groupTargets l []) s1 = .ok r s2 →
    ∃ t, exec (row.1 d a b cb mk) s = .next t ∧ VamoLeft s d p r true [] t ∧ t = { s2 with strand := t.strand }) ∧
  (∀ row ∈ vamoIntRows, ∀ (d a b : BitVec 7) (cb : Bool) (s : State), s.Inv → UseOk s d wideInteger → UseOk s b integerCode → Fresh s →
    (elemsOf s b).length = 1 →
    let p := s.strand.purse (purseOf s d)
    let w := (codeOf s d).fixedBits
    let z := w / 8
    let va := (val s a + BitVec.ofInt 64 (((valsOf s b).headD (.zero false)).toInt * (z : Nat))).toNat
    let k := scratchOf s va
    let m := Mem.readLE s.mem k z
    w ≤ p.fill → va % z = 0 → InScratch s va z → ∃ t, exec (row.1 d a b cb false) s = .next t ∧
      Mem.readLE t.mem k z = row.2 (decide ((codeOf s d).kind = 9)) w m (bitsAt p.bits 0 w) ∧ OnlyBytes s t k z ∧ lineOf k ∈ t.tarn ∧
      let q := t.strand.purse (purseOf s d)
      bitsAt q.bits 0 w = m ∧ q.bits / 2 ^ w = p.bits / 2 ^ w ∧ q.fill = p.fill ∧ q.tarn = true)) ∧
  (∀ (d a b : BitVec 7) (cb mk : Bool) (s s1 s2 s3 : State) (l m : List (Nat × Xl × Word)) (r : VamoDone),
    UseOk s d (VamoOp.codeOk .add) → UseOk s b integerCode → Fresh s → MaskFree s mk → s.strand.canRun = true → s1.strand.ordHeld = false →
    let i := Instr.vamoo d a b cb mk
    let k := AccessKind.ordered (getBits s.strand.ctl.ordtag.val 32 8)
    let p := vamoPlanOf s d a b mk
    checkTargets (vamoAcc k false p.gov.seen) (p.c.fixedBits / 8) p.src p.at_ (observed s mk) = .ok l s1 → OrdFirst s1 i →
    let u := ordHeld s1 i p.src
    let p2 := vamoPlanOf u d a b mk
    checkTargets (vamoAcc k true p2.gov.seen) (p.c.fixedBits / 8) p2.src p2.at_ (observed u mk) = .ok m s2 →
    vamoGroups .add p.c (fun j => bitsAt (s.strand.purse (purseOf s d)).bits (j * p.c.fixedBits) p.c.fixedBits) p2.src (groupTargets m []) s2 = .ok r s3 →
    ∃ t, exec i s = .next t ∧ VamoLeft s d p2 r (p2.src || r.tarn) [0x017] t ∧ t.strand.run = .ready ∧
      t.strand.ctl.ordtag = { val := (s.strand.ctl.ordtag.val >>> 32 <<< 32) ||| (ordAdvanced s.strand.ctl.ordtag.val).setWidth 64,
                              tarn := s.strand.ctl.ordtag.tarn || p.src || p2.src || r.tarn } ∧
      t.ordNext (ordEntry s1 i) = (ordEntry s1 i).tag + 1 ∧ t = { ordPerformed s3 (ordEntry s1 i) false with strand := t.strand })

/-- VSPILL, VFILL and VAPPEND (R163, R205, R206, R207, R208, R209). With its purse in range, a VSPILL whose words go through and whose tarnish
the policy allows stores the frame, header and bits, and changes no purse or register; a VFILL of words that go through, whose header is
legal and whose fill fits the grant, gives the purse the frame's bits, fill, tag and tarnish, and changes nothing else. A VAPPEND whose
queue word goes through and that selects nothing, or finds no capacity, completes with a receipt of zero and appends nothing; with room it
appends its entries and counts them, and when the queue comes to hold GRANT / 32 entries past MARK it sets MARK to the new TAIL and
arrives at the barrier the queue word names. In the core's scratchpad, a VSPILL of at most 64 bits leaves the header of R163 at s[a] and
the fill bits behind it, a VFILL of such a frame puts those bits, fill, tag and tarnish into its purse, and a VAPPEND of one index to a
queue with room leaves (index + IBASE) mod 2^32 in its entry and TAIL one higher; every other byte stands. -/
def Obligations.SpillsAndAppendsComplete : Prop :=
  (∀ (d a : BitVec 7) (s s1 s2 : State) (ws : List (Xl × Word)),
    let p := s.strand.purse (purseOf s d)
    let n := (p.fill + 7) / 8
    let b := p.tarn || tarn1 s a
    purseOf s d < s.strand.vregs → checkWords .write (val s a) (1 + (n + 7) / 8) s = .ok ws s1 → cleanWords b ws s1 = .ok () s1 →
    storeWords b ws (leBytes 8 p.header ++ leBytes n (p.bits % 2 ^ p.fill)) s1 = .ok () s2 → exec (.vspill d a) s = .next (goesTo s2 (s2.strand.pc + 4))) ∧
  (∀ (d a : BitVec 7) (s s1 s2 s3 s4 : State) (h ws : List (Xl × Word)) (hb bs : List Byte) (ht bt : Bool),
    let w : Word := BitVec.ofNat 64 (leNat hb)
    let fill := w.toNat % 2 ^ 17
    purseOf s d < s.strand.vregs → checkWords .read (val s a) 1 s = .ok h s1 → loadWords h 8 s1 = .ok (hb, ht) s2 → w.toNat < 2 ^ 21 → fill ≤ s.strand.grant → fill % 4 = 0 →
    checkWords .read (val s a + 8) (((fill + 7) / 8 + 7) / 8) s2 = .ok ws s3 → loadWords ws ((fill + 7) / 8) s3 = .ok (bs, bt) s4 →
    ∃ t, exec (.vfill d a) s = .next t ∧ t.strand.pc = s.strand.pc + 4 ∧ t = { s4 with strand := t.strand } ∧ t.strand.sregs = s.strand.sregs ∧
      t.strand.masks = s.strand.masks ∧ CtlKept s t [0x032] ∧
      (∀ k, t.strand.purse k = if k = purseOf s d then { s4.strand.purse k with bits := leNat bs % 2 ^ fill, fill := fill, tag := BitVec.ofNat 3 (w.toNat / 2 ^ 17 % 8), tarn := w.getLsbD 20 || ht || bt || tarn1 s a } else s4.strand.purse k)) ∧
  (∀ (a b : BitVec 7) (s s1 s2 s3 : State) (ws hs : List (Xl × Word)) (bs : List Byte) (lt : Bool), Fresh s →
    checkWordsAligned (appendAcc s.strand.st.d) (val s a) s = .ok ws s1 → homeWords 8 ws s1 = .ok hs s2 → loadWords hs 64 s2 = .ok (bs, lt) s3 →
    let fld := fun (o n : Nat) => leNat ((bs.drop o).take n)
    let js := (List.range 4096).filter fun j => (maskOf s b).bits.getLsbD j
    let src := tarn1 s a || (maskOf s b).tarn || lt
    let tail := fld 24 8 + js.length
    fld 0 8 % 4 = 0 →
    ((js.length = 0 ∨ fld 8 8 = 0 ∨ fld 8 8 + fld 16 8 < tail) → exec (.vappend a b) s = .next (goesTo (counted s3 0 0 0 0 src) (s.strand.pc + 4))) ∧
    (js.length ≠ 0 → fld 8 8 ≠ 0 → tail ≤ fld 8 8 + fld 16 8 →
      ∀ (s4 s5 s6 s7 s8 : State) (es eh : List (Xl × Word)), let w := src || !s.strand.st.d
      let full := ((s.strand.grant / 32 : Nat) : Int) ≤ (tail : Int) - fld 32 8
      checkEntries (appendAcc s.strand.st.d) (fld 0 8) (fld 8 8) (fld 24 8) js.length s3 = .ok es s4 → homeWords 4 es s4 = .ok eh s5 →
      cleanEntries w eh s5 = .ok () s5 → CleanOk s5 (val s a) 64 w → storeEntries w (fld 40 4) eh js s5 = .ok () s6 →
      storeWords w ((hs.drop 3).take 1) (leBytes 8 (tail % 2 ^ 64)) s6 = .ok () s7 →
      let done := fun (u : State) => exec (.vappend a b) s = .next (goesTo (counted u js.length 0 0 (min (32 * js.length) 131071) src) (s.strand.pc + 4))
      (¬ full → done s7) ∧
      (full → fld 44 1 % 64 ∉ s.strand.arrivals → storeWords w ((hs.drop 4).take 1) (leBytes 8 (tail % 2 ^ 64)) s7 = .ok () s8 →
        s.strand.run = .ready → done (s8.arrive s8.strand (fld 44 1 % 64))))) ∧
  (∀ (d a : BitVec 7) (s : State), s.Inv → purseOf s d < s.strand.vregs →
    let p := s.strand.purse (purseOf s d)
    let va := (val s a).toNat
    let k := scratchOf s va
    let n := (p.fill + 7) / 8
    p.fill ≤ 64 → va % 8 = 0 → InScratch s va 16 → ∃ t, exec (.vspill d a) s = .next t ∧
      Mem.readLE t.mem k 8 = p.fill + p.tag.toNat * 2 ^ 17 + (if p.tarn then 2 ^ 20 else 0) ∧ Mem.readLE t.mem (k + 8) n = p.bits % 2 ^ p.fill ∧
      OnlyBytes s t k (8 + n) ∧ t.strand.purses = s.strand.purses) ∧
  (∀ (d a : BitVec 7) (s : State), purseOf s d < s.strand.vregs →
    let va := (val s a).toNat
    let k := scratchOf s va
    let h := Mem.readLE s.mem k 8
    let fill := h % 2 ^ 17
    h < 2 ^ 21 → fill ≤ 64 → fill ≤ s.strand.grant → fill % 4 = 0 → va % 8 = 0 → InScratch s va 16 → ∃ t, exec (.vfill d a) s = .next t ∧ t.mem = s.mem ∧
      (∀ j, j ≠ purseOf s d → t.strand.purse j = s.strand.purse j) ∧
      t.strand.purse (purseOf s d) = { s.strand.purse (purseOf s d) with
        bits := Mem.readLE s.mem (k + 8) ((fill + 7) / 8) % 2 ^ fill, fill := fill, tag := BitVec.ofNat 3 (h / 2 ^ 17),
        tarn := h.testBit 20 || tarn1 s a || s.tarn.contains (lineOf k) || (decide (fill ≠ 0) && s.tarn.contains (lineOf (k + 8))) }) ∧
  (∀ (a b : BitVec 7) (j : Nat) (s : State), s.Inv → Fresh s → j < 4096 → (∀ i < 4096, (maskOf s b).bits.getLsbD i = decide (i = j)) →
    let va := (val s a).toNat
    let k := scratchOf s va
    let fld := fun (o n : Nat) => Mem.readLE s.mem (k + o) n
    let e := fld 0 8 + 4 * (fld 24 8 % fld 8 8)
    va % 64 = 0 → InScratch s va 64 → fld 0 8 % 4 = 0 → fld 8 8 ≠ 0 → fld 24 8 + 1 ≤ fld 8 8 + fld 16 8 → fld 24 8 + 1 < 2 ^ 64 →
    (fld 24 8 : Int) + 1 - fld 32 8 < (s.strand.grant / 32 : Nat) → InScratch s e 4 → (e + 4 ≤ va ∨ va + 64 ≤ e) →
    ∃ t, exec (.vappend a b) s = .next t ∧ Mem.readLE t.mem (scratchOf s e) 4 = (j + fld 40 4) % 2 ^ 32 ∧ Mem.readLE t.mem (k + 24) 8 = fld 24 8 + 1 ∧
      (∀ x, (x < scratchOf s e ∨ scratchOf s e + 4 ≤ x) → (x < k + 24 ∨ k + 32 ≤ x) → Mem.read t.mem x = Mem.read s.mem x) ∧
      t.strand.ctl.rc.val = receiptWord 1 0 0 32)

/-- CMDB, CWAIT, CTOK and SCBQ (R227, R228, R229, R231, R234, R235, R236). With its purse in range and no trap owed on the governing mask, a
CMDB whose issued commands pass the checks of R228 to R230 completes: the commands are accepted in order, a refusal refusing what follows
on its queue, and k[d] says which; a first failing command takes COMMAND, or PRIVILEGE, with TADDR its bit offset and none is accepted. A
CWAIT whose token word goes through its checks completes when the word has reached its bound, with the transfers whose tokens it read
observed, none of which comes to owe a trap by that, and waits behind its checks below it; CTOK returns the word. That a transfer whose
token was read brings the earlier ones of its strand on the same copy queue with it, and when a command's token stands in its word, are
the model's readings (logs 20 and 30). In a D context a word that was not last written by a token of the strand's own takes ASSAY. SCBQ
returns 1 exactly when a range of the core's scoreboard overlaps the bytes asked for, and its result is tarnished. -/
def Obligations.CommandsAndTokensComplete : Prop :=
  (∀ (d a : BitVec 7) (ca mk : Bool) (s : State), d.toNat < 16 → purseOf s a < s.strand.vregs → MaskFree s mk →
    let p := s.strand.purse (purseOf s a)
    let u := observed s mk
    let issued := (List.range (min 128 (p.fill / 512))).filter (gov s mk).on
    let bad := fun (i : Nat) => u.cmdFault (u.makeCmd (bitsAt p.bits (512 * i) 512) p.tarn i)
    ((∀ i ∈ issued, bad i = none) → ∀ (m : Nat) (s1 : State), acceptAll p.tarn p.bits [] issued u = .ok m s1 →
      exec (.cmdb d a ca mk) s = .next ((goesTo s1 (s1.strand.pc + 4)).mapStrand fun t => t.setMask d.toNat
        { bits := BitVec.ofNat 4096 m, tarn := p.tarn || (gov s mk).tarn })) ∧
    (∀ i c, i ∈ issued → bad i = some c → (∀ j ∈ issued, j < i → bad j = none) →
      exec (.cmdb d a ca mk) s = .next (u.takeTrap true s.strand.pc { plainTrap c (BitVec.ofNat 64 (512 * i)) with elem := i }))) ∧
  (∀ (d a b : BitVec 7) (s s1 : State) (x : Xl),
    (∀ c ∈ s.cmds, c.place = s.strand.place → c.launch = s.strand.launch → c.node = none → c.ck = 2 → c.dword 56 = (val s a).toNat → ∀ p q r, c.phase ≠ .owes p q r) →
    Passes s { Acc.read with seen := s.ownTokens s.strand (val s a).toNat } (val s a) 8 s1 x →
    let now := s1.wordNow s1.strand x.key
    let strange := s.strand.st.d && s1.strangeToken s1.strand x.key
    (now < (val s b).toNat → exec (.cwait a b) s = .next (waitsIn s1 (.waitWord x.key x.unc (val s b).toNat))) ∧
    (strange = true →
      let t := s1.takeTrap true s.strand.pc { cause := 0x09, sub := 0, acc := 1, elem := 0, addr := val s a, resume := none }
      ((val s b).toNat ≤ now → exec (.cwait a b) s = .next t) ∧ exec (.ctok d a) s = .next t) ∧
    (∀ (s2 : State) (v : Nat) (tn : Bool), strange = false → loadAcquire x (val s a) 8 4 s1 = .ok (v, tn) s2 →
      let toks := s1.tokensRead s.strand.launch x.key now
      let ids := toks ++ toks.flatMap s1.coveredBy
      let done := s2.observeAll ids s.strand.flat
      (∀ c ∈ done.cmds, c.place = s.strand.place → c.id ∈ ids → ∀ p q r, c.phase ≠ .owes p q r) →
      v = now ∧ ((val s b).toNat ≤ v → exec (.cwait a b) s = .next (goesTo done (done.strand.pc + 4))) ∧
      exec (.ctok d a) s = .next (wrote done d (BitVec.ofNat 64 v) (tarn1 s a || tn || s.strand.st.d)))) ∧
  (∀ (d a b : BitVec 7) (s : State),
    let core := coreOf s.strand.place
    let shown := fun (k : Nat) => if laneKey 0 0 ≤ k then 0xFFF0000000000 + (k - laneKey core 0) else 0xFFE0000000000 + (k - scratchKey core 0)
    let lo := (val s a).toNat
    let n := (val s b).toNat
    exec (.scbq d a b) s = .next (wrote s d
      (if n ≠ 0 && (s.core core).score.any (fun e => decide (shown e.lo < lo + n) && decide (lo < shown e.lo + (e.hi - e.lo))) then 1 else 0) true))

/-- BAR, BARA, BARW and BARI (R167, R168, R237, R238, R434). With no trap owed on a command it counted and no arrival of the strand in the
current round, BAR makes the strand wait at the barrier with its arrival counted, and is released with the pc advanced when the round is
complete; BARA counts its arrival and goes on; BARW without an arrival goes on when nothing is pending, with the transfers the round
counted observed, none of which comes to owe a trap by that, and waits for PEND to come to 0 otherwise. With an arrival in the current
round BAR and BARA wait until they may arrive again, and BARW waits for that round. BARI sets the count of a barrier that joins no level
of a live launch on the core, 1 for 0, evaluates it, and takes PROTECTION on one that joins a level. At an unbound barrier with nothing
pending, a BAR by the last member to arrive completes its round at once: the strand is ready with its pc advanced and its other arrivals
as they were, the barrier's arrivals are 0 again, and nothing else changes but that its stores count as released at core scope to itself.
That a round within one core completes in the step of its last arrival is the model's reading (log 31). -/
def Obligations.BarriersComplete : Prop :=
  (∀ (n : BitVec 7) (s : State),
    let core := coreOf s.strand.place
    let owner := s.ownerOf s.strand n.toNat
    let wait := fun (r : Run) => (.next (waitsIn s r) : Result)
    let free := ∀ c ∈ s.cmds, c.place = s.strand.place → c.launch = s.strand.launch → c.node = none → c.ck = 0 → c.ca = n.toNat → ∀ p q r, c.phase ≠ .owes p q r
    (n.toNat ∉ s.strand.arrivals →
      (free → let w := waitsIn s (.waitBar n.toNat)
        exec (.bar n) s = .next (w.arrive w.strand n.toNat)) ∧
      exec (.bara n) s = .next (let u := goesTo s (s.strand.pc + 4); u.arrive u.strand n.toNat) ∧
      (let ids := s.countedBy core n.toNat owner
       free → (∀ c ∈ (s.observeAll ids s.strand.flat).cmds, c.place = s.strand.place → c.id ∈ ids → ∀ p q r, c.phase ≠ .owes p q r) →
       (s.barrier core n.toNat owner).pend = 0 → exec (.barw n) s = .next (goesTo (s.observeAll ids s.strand.flat) (s.strand.pc + 4))) ∧
      (free → (s.barrier core n.toNat owner).pend ≠ 0 → exec (.barw n) s = wait (.waitPend n.toNat))) ∧
    (n.toNat ∈ s.strand.arrivals →
      (free → exec (.bar n) s = wait (.waitFree n.toNat)) ∧ exec (.bara n) s = wait (.waitFree n.toNat) ∧ (free → exec (.barw n) s = wait (.waitBar n.toNat))) ∧
    (∀ b : BitVec 7,
      let joins := ∃ l ∈ s.launches, (∃ lev, l.levelOf n.toNat = some lev) ∧ ∃ m ∈ l.strands, coreOf m.2 = core
      let c := (val s b).toNat % 2 ^ 16
      let i : Barrier := { s.barrier core n.toNat none with count := if c = 0 then 1 else c }
      (¬ joins → exec (.bari n b) s = .next (let t := (s.setBarrier i).evalBarrier i; goesTo t (t.strand.pc + 4))) ∧
      (joins → exec (.bari n b) s = .next (s.takeTrap true s.strand.pc { plainTrap 0x11 (BitVec.ofNat 64 n.toNat) with sub := 1 })))) ∧
  (∀ (n : BitVec 7) (s : State), s.strand.run = .ready → n.toNat ∉ s.strand.arrivals → s.ownerOf s.strand n.toNat = none →
    (∀ t ∈ s.parked, t.place ≠ s.strand.place ∧ n.toNat ∉ t.arrivals) → (∀ c ∈ s.cmds, c.ck = 0 → c.ca ≠ n.toNat) →
    let p := s.strand.place
    let b := s.barrier (coreOf p) n.toNat none
    b.count ≤ b.arr + 1 + b.gone → b.pend = 0 →
    exec (.bar n) s = .next { (((s.codeRelease p 1).codeJoin [p] 1).setBarrier { b with arr := 0 }) with
      strand := { s.strand with pc := s.strand.pc + 4, armed := none } })

/-- ACQ, REL, CFLUSH and CINV (R111, R113, R240, R241, R294). ACQ at package scope or wider drops exactly the core's guest copies of lines
within its scope, and changes nothing else; REL at package scope or wider drains the core's dirty FIFO, and at any scope releases the
strand's stores to later fetches; CFLUSH writes back the dirty lines of its range and CINV drops the core's copies of the range's lines,
after writing them back. REL at package scope or wider, CFLUSH and CINV wait while a store of the core waits for a locked page. Otherwise
all four complete with the pc advanced, and change no register, purse, mask or byte but those of drained stores. -/
def Obligations.CacheControlCompletes : Prop :=
  ∀ (s : State), let core := coreOf s.strand.place
    let next := s.strand.pc + 4
    let held := s.drainBlocked core = true
    (held → (∀ n : BitVec 7, 4 ≤ n.toNat → exec (.rel n) s = .next (waiting s)) ∧
      ∀ a b : BitVec 7, exec (.cflush a b) s = .next (waiting s) ∧ exec (.cinv a b) s = .next (waiting s)) ∧
    (∀ n : BitVec 7, ∃ t, exec (.acq n) s = .next t ∧ t = { s with guests := t.guests, strand := (goesTo s next).strand } ∧
      ∀ g, g ∈ t.guests ↔ g ∈ s.guests ∧ (4 ≤ n.toNat → ¬ (g.core = core ∧ ∀ c, s.guestScope s.strand.place (g.line * 64) false = some c → c ≤ n.toNat))) ∧
    (∀ n : BitVec 7, ¬ (4 ≤ n.toNat ∧ held) → let u := if 4 ≤ n.toNat then s.drainAll core else s
      exec (.rel n) s = .next (goesTo (u.codeRelease s.strand.place n.toNat) next) ∧ OnlyDrained s u core ∧ (4 ≤ n.toNat → (u.core core).fifo = [])) ∧
    (∀ a b : BitVec 7, let hit := s.rangeTouches s.strand (val s a).toNat (min (val s b).toNat (2 ^ 32))
      ¬ held → ∃ u, exec (.cflush a b) s = .next (goesTo u next) ∧ OnlyDrained s u core ∧ u.guests = s.guests ∧ ∀ e ∈ (u.core core).fifo, hit (lineOf e.key) = false) ∧
    (∀ a b : BitVec 7, let hit := s.rangeTouches s.strand (val s a).toNat (min (val s b).toNat (2 ^ 32))
      ¬ held → ∃ u, exec (.cinv a b) s = .next (goesTo u next) ∧ OnlyDrained s u core ∧ (∀ e ∈ (u.core core).fifo, hit (lineOf e.key) = false) ∧
        (∀ g ∈ u.guests, g ∈ s.guests ∧ (g.core = core → hit g.line = false)) ∧ (∀ g ∈ s.guests, g.core ≠ core → g ∈ u.guests))

/-- EWIN, ERSV, ECHK and EADV (R322, R323, R325, R326, R327, R328). EWIN on a closed context with a legal queue word and size opens the
window: its number rises, MR, NS and CUR are set, and the receipt gives the size and the retried slots. ERSV in the reserve state gives
every active cell the smaller of its tag and the iteration; ECHK in the clearing state answers for each active cell whether its tag is the
iteration. EADV in the settled state appends the iterations of the slots not committed to the queue, moves CUR on, and closes the window
when no slot is left, with the head moved past the retried slots and every tag of the launch gone. Each is refused with a receipt of zero
and no other effect but ECHK's zero mask when the context is in no state for it or its values are out of range. No hardware failure is
waiting to be met by an ERSV or ECHK. -/
def Obligations.EscrowCompletes : Prop :=
  (∀ (a b : BitVec 7) (s s1 s2 : State) (ws : List (Xl × Word)) (bs : List Byte) (tq : Bool), Fresh s →
    checkWordsAligned .read (val s a) s = .ok ws s1 → loadWords ws 64 s1 = .ok (bs, tq) s2 →
    let n := (val s b).toNat / 2 ^ 32 % 2 ^ 17
    let held := (queueField bs 24 + 2 ^ 64 - queueField bs 16) % 2 ^ 64
    let src := tarn1 s a || tarn1 s b || tq
    let legal := n ≠ 0 ∧ n ≤ 65536 ∧ queueField bs 8 ≠ 0 ∧ queueField bs 0 % 4 = 0 ∧ held ≤ queueField bs 8
    (∀ e, s2.escrowOf s.strand = some e → e.st = .closed → legal → exec (.ewin a b) s = .next (goesTo (counted
      (s2.setEscrow { e with st := .opening, wn := e.wn + 1, qw := val s a, h0 := BitVec.ofNat 64 (queueField bs 16), next := (val s b).setWidth 32, ns := n, mr := min held n, cur := 0 })
      0 n (min held n) 0 src) (s.strand.pc + 4))) ∧
    ((∀ e, s2.escrowOf s.strand = some e → e.st = .closed → ¬ legal) → exec (.ewin a b) s = .next (goesTo (counted s2 0 0 0 0 src) (s.strand.pc + 4)))) ∧
  (∀ (a b : BitVec 7) (ca mk : Bool) (s : State), UseOk s a integerCode → Fresh s → MaskFree s mk →
    let i := (val s b).toNat % 2 ^ 32
    let tarn := tarnOf s a || (gov s mk).tarn || tarn1 s b
    let n := (elemsOf s a).length
    let ba := advOf (elemsOf s a)
    (observed s mk).upsets = [] →
    (∀ (s1 : State) (e : Escrow) (cells : List (Nat × Nat)), (observed s mk).escrowOpen .reserve i = some e →
      checkCells .write (gov s mk) 0 (elemsOf s a) (observed s mk) = .ok cells s1 →
      let u := cells.foldl (fun v c => v.reserveCell e i tarn c.2) s1
      exec (.ersv a b ca mk) s = .next (goesTo (counted u n ba 0 0 tarn) (s.strand.pc + 4)) ∧ u = { s1 with resv := u.resv } ∧
      ((∀ r ∈ s1.resv, r.lost = false ∧ ∀ x ∈ s1.resv, x.launch = r.launch → x.cell = r.cell → x = r) → ∀ c ∈ cells, (u.cellTag e c.2).map (·.1) = some (min i (((s1.cellTag e c.2).map (·.1)).getD i)))) ∧
    ((observed s mk).escrowOpen .reserve i = none → exec (.ersv a b ca mk) s = .next (goesTo (counted (observed s mk) 0 0 0 0 tarn) (s.strand.pc + 4))) ∧
    (∀ d : BitVec 7, d.toNat < 16 →
      let put := fun (u : State) (m : MaskBits) (tn : Bool) => u.mapStrand fun t => t.setMask d.toNat { bits := m, tarn := tn }
      (∀ (s1 : State) (e : Escrow) (cells : List (Nat × Nat)), (observed s mk).escrowOpen .clearing i = some e →
        checkCells .read (gov s mk) 0 (elemsOf s a) (observed s mk) = .ok cells s1 →
        ∃ m : MaskBits, (∀ j < 4096, m.getLsbD j = cells.any fun c => c.1 = j && (s1.cellTag e c.2).any (·.1 = i)) ∧
          let tn := tarn || cells.any fun c => (s1.cellTag e c.2).any (·.2)
          exec (.echk d a b ca mk) s = .next (goesTo (counted (put s1 m tn) n ba 0 0 tn) (s.strand.pc + 4))) ∧
      ((observed s mk).escrowOpen .clearing i = none →
        exec (.echk d a b ca mk) s = .next (goesTo (counted (put (observed s mk) 0 tarn) 0 0 0 0 tarn) (s.strand.pc + 4))))) ∧
  (∀ (a b : BitVec 7) (s : State), Fresh s →
    let src := tarn1 s a || (maskOf s b).tarn
    ((∀ e, s.escrowOf s.strand = some e → e.st = .settled → e.qw ≠ val s a) → exec (.eadv a b) s = .next (goesTo (counted s 0 0 0 0 src) (s.strand.pc + 4))) ∧
    (∀ (s1 s2 s3 : State) (e : Escrow) (ws hs : List (Xl × Word)) (bs : List Byte) (tq : Bool),
      s.escrowOf s.strand = some e → e.st = .settled → e.qw = val s a →
      checkWordsAligned { Acc.write with mode := .both } (val s a) s = .ok ws s1 → homeWords 8 ws s1 = .ok hs s2 → loadWords hs 64 s2 = .ok (bs, tq) s3 →
      let c := min 4096 (e.ns - e.cur)
      let slots := ((List.range c).filter fun j => (maskOf s b).bits.getLsbD j).map (e.cur + ·)
      let n := slots.length
      let base := queueField bs 0
      let cap := queueField bs 8
      let tail := queueField bs 24
      let legal := cap ≠ 0 ∧ base % 4 = 0 ∧ (tail + n + 2 ^ 64 - e.h0.toNat) % 2 ^ 64 ≤ cap
      (¬ legal → exec (.eadv a b) s = .next (goesTo (counted s3 0 0 0 0 (src || tq)) (s.strand.pc + 4))) ∧
      (legal → ∀ (s4 s5 s6 s7 s8 s9 : State) (l : List Nat) (tl : Bool) (es eh : List (Xl × Word)),
        let own := (val s a).toNat / 256 :: (List.range n).map fun i => (base + 4 * ((tail + i) % 2 ^ 64 % cap)) % 2 ^ 64 / 256
        let tarn := src || tq || tl
        let closes := e.cur + c = e.ns
        slotIterations e base cap own slots s3 = .ok (l, tl) s4 → checkEntries .write base cap tail n s4 = .ok es s5 → cleanEntries tarn es s5 = .ok () s5 →
        CleanOk s5 (val s a + 24) 8 tarn → (closes → CleanOk s5 (val s a + 16) 8 tarn) → homeWords 4 es s5 = .ok eh s6 → storeEntries tarn 0 eh l s6 = .ok () s7 →
        storeWords tarn ((hs.drop 3).take 1) (leBytes 8 ((tail + n) % 2 ^ 64)) s7 = .ok () s8 →
        (¬ closes → exec (.eadv a b) s = .next (goesTo (counted (s8.setEscrow { e with cur := e.cur + c }) n c 0 (min (32 * n) 131071) tarn) (s.strand.pc + 4))) ∧
        (closes → storeWords tarn ((hs.drop 2).take 1) (leBytes 8 ((e.h0.toNat + e.mr) % 2 ^ 64)) s8 = .ok () s9 →
          exec (.eadv a b) s = .next (goesTo (counted (({ s9 with resv := s9.resv.filter fun r => r.launch ≠ e.launch }).setEscrow { e with cur := e.cur + c, st := .closed })
            n c 1 (min (32 * n) 131071) tarn) (s.strand.pc + 4))))))

/-- TSHAPE, TZERO, TADD and TLRU (R245, R249, R250, R251, R252, R257, R258, R260). TSHAPE completes in every state: it grants the shape that
its loop ends in, in s[d] and TMODE, or 0 with TMODE as it was. TZERO of a group below VREGS with a legal code declares a zero tile: a
dense one of zero codes, or an empty factor pair. TADD of two tiles of one shape, and TLRU of column purses, complete when the tile can
take the contribution: factor columns are appended while they fit the reserved rank, else every element takes the one rounded sum of R258
or R257, and TLRU of no whole column changes nothing. The group has the OR of the tarnish read, and nothing else changes. A tile operand
that is no tile base below VREGS, whose group reaches VREGS, or whose shape or kind does not fit takes PURSE_RANGE with TADDR the purse,
and a tile code that is not legal ILLEGAL_CODE with TADDR the code register; a dense contribution of TADD or TLRU to a factor pair takes
RANK_OVERFLOW with TADDR the base purse while TMODE.OVF is 0 or the group is too small for the dense tile. All of these come before any
effect, with RESUME 0, or with the restart point that stands armed (the model's choice, log 51); that an element partly above its purse's
fill reads as zero is the model's choice (log 52). -/
def Obligations.TilesAreShapedAndAdded : Prop :=
  (∀ (d a : BitVec 7) (s : State),
    let w := val s a
    let cap := if 1 ≤ getBits w 32 8 ∧ getBits w 32 8 ≤ s.strand.vregs then getBits w 32 8 else s.strand.vregs
    let lr := w.getLsbD 46
    let k := roundDim 256 (getBits w 16 9)
    let shape := shrinkShape s.strand.grant cap lr s.strand.ovf 64 (roundDim 128 (getBits w 0 8)) (roundDim 128 (getBits w 8 8)) (min (getBits w 40 6) 32)
    (shape = none → exec (.tshape d a) s = .next (wrote s d 0 (tarn1 s a))) ∧
    (∀ m n q, shape = some (m, n, q) → ∃ t, let gl := max 1 ((shapeBits lr s.strand.ovf m n q + s.strand.grant - 1) / s.strand.grant)
      exec (.tshape d a) s = .next t ∧ t.strand.pc = s.strand.pc + 4 ∧
      t.strand.reg d = (if d = 0 then .zero else { val := BitVec.ofNat 64 (m + n * 2 ^ 8 + k * 2 ^ 16 + gl * 2 ^ 32 + q * 2 ^ 40 + (if lr then 2 ^ 46 else 0)), tarn := tarn1 s a }) ∧
      (∀ r, r ≠ d → t.strand.reg r = s.strand.reg r) ∧
      t.strand.ctl.tmode.val.toNat = s.strand.ctl.tmode.val.toNat / 2 ^ 18 * 2 ^ 18 + s.strand.ctl.tmode.val.toNat % 2 +
        2 * ((m / 16 - 1) + (n / 16 - 1) * 8 + (k / 16 - 1) * 64 + q * 1024 + (if lr then 65536 else 0)) ∧
      t.strand.ctl.tmode.tarn = tarn1 s a ∧ t.strand.purses = s.strand.purses ∧ t.strand.masks = s.strand.masks ∧ CtlKept s t [0x016, 0x032] ∧
      t = { s with strand := t.strand })) ∧
  (∀ (d : BitVec 7) (s : State),
    let w := s.strand.ctl.tmode.val
    let m := 16 * (getBits w 1 3 + 1)
    let n := 16 * (getBits w 4 3 + 1)
    let q := min (getBits w 11 6) 32
    let lr := w.getLsbD 17
    let gl := max 1 ((shapeBits lr s.strand.ovf m n q + s.strand.grant - 1) / s.strand.grant)
    let x : Tile := { base := purseOf s d, pair := lr, qres := if lr then q else 0, q := 0, m := m, n := n, gl := gl }
    GroupHolds s x (if lr then 0 else m * n) → x.base + x.gl ≤ s.strand.vregs → (codeOf s d).valid = true →
    ((codeOf s d).isFp32 = true ∨ (lr = false ∧ (codeOf s d).isInt32 = true)) →
    ∃ t, exec (.tzero d) s = .next t ∧
      TileHolds s x (if lr then [] else List.replicate (m * n) 0) (s.strand.groupTarn x.base x.gl || s.strand.ctl.tmode.tarn) 0 t ∧ OutsideKept s x t ∧
      (∀ k, x.base ≤ k → k < x.base + x.gl → (t.strand.purse k).bits = 0 ∧ (t.strand.purse k).tag = (s.strand.purse x.base).tag)) ∧
  (∀ (d a : BitVec 7) (s : State) (x z : Tile), TileAt s d x → TileAt s a z → z.m = x.m → z.n = x.n →
    let tarn := s.strand.groupTarn x.base x.gl || s.strand.groupTarn z.base z.gl
    (x.pair = true → z.pair = true → x.q + z.q ≤ x.qres → GroupHolds s x ((x.m + x.n) * (x.q + z.q)) →
      ∃ t, exec (.tadd d a) s = .next t ∧
        TileHolds s { x with q := x.q + z.q } (tileRaw s x ((x.m + x.n) * x.q) ++ tileRaw s z ((x.m + x.n) * z.q)) tarn 0 t ∧ OutsideSame s x t) ∧
    (¬ (x.pair = true ∧ z.pair = true ∧ x.q + z.q ≤ x.qres) → TakesDense s x → GroupHolds s x (x.m * x.n) →
      let c := codeOf s d
      let out := (List.range (x.m * x.n)).map fun e =>
        let v := (tileVals s c x).getD e (.zero false, 0)
        let u := (tileVals s (codeOf s a) z).getD e (.zero false, 0)
        let r := c.rd (drawOf s c) (if z.pair then e * 2 ^ 20 else e) (Ex.add c.rdn v.1 u.1)
        ((r.1, v.2 ||| u.2 ||| r.2) : Ex × Flags)
      ∃ t, exec (.tadd d a) s = .next t ∧
        TileHolds s (denseOf x) (codeBits c (drawOf s c) out) (tarn || (x.pair && s.strand.ctl.tmode.tarn)) (flagsOf out) t ∧ OutsideSame s x t)) ∧
  (∀ (d a b : BitVec 7) (ca cb : Bool) (s : State) (x : Tile), TileAt s d x → purseOf s a < s.strand.vregs → purseOf s b < s.strand.vregs →
    (∀ f ∈ [d, a, b], (codeOf s f).valid = true ∧ (codeOf s f).isFp32 = true) →
    let n := min (min (min 4096 ((s.strand.purse (purseOf s a)).fill / 32) / x.m) (min 4096 ((s.strand.purse (purseOf s b)).fill / 32) / x.n)) 32
    let tarn := s.strand.groupTarn x.base x.gl || tarnOf s a || tarnOf s b
    let us := columnsOf s a n x.m
    let vs := columnsOf s b n x.n
    (n = 0 → exec (.tlru d a b ca cb) s = .next (goesTo s (s.strand.pc + 4))) ∧
    (n ≠ 0 → x.pair = true → x.q + n ≤ x.qres → GroupHolds s x ((x.m + x.n) * (x.q + n)) →
      let raw := fun (f : BitVec 7) (lo k : Nat) => (List.range k).map fun r => bitsAt (s.strand.purse (purseOf s f)).bits (32 * (lo + r)) 32
      ∃ t, exec (.tlru d a b ca cb) s = .next t ∧
        TileHolds s { x with q := x.q + n } (tileRaw s x ((x.m + x.n) * x.q) ++ (List.range n).flatMap fun i => raw a (i * x.m) x.m ++ raw b (i * x.n) x.n) tarn 0 t ∧
        OutsideSame s x t) ∧
    (n ≠ 0 → ¬ (x.pair = true ∧ x.q + n ≤ x.qres) → TakesDense s x → GroupHolds s x (x.m * x.n) →
      let c := codeOf s d
      let out := (List.range (x.m * x.n)).map fun e =>
        let v := (tileVals s c x).getD e (.zero false, 0)
        let sum := treeSum c (drawOf s c) (e * 2 ^ 20) (products (rowOf us (e / x.n)) (rowOf vs (e % x.n)))
        let r := c.rd (drawOf s c) (e * 2 ^ 20) (Ex.add c.rdn v.1 sum.1)
        ((r.1, v.2 ||| sum.2 ||| r.2) : Ex × Flags)
      ∃ t, exec (.tlru d a b ca cb) s = .next t ∧
        TileHolds s (denseOf x) (codeBits c (drawOf s c) out) (tarn || (x.pair && s.strand.ctl.tmode.tarn)) (flagsOf out) t ∧ OutsideSame s x t)) ∧
  (∀ (d a b : BitVec 7) (ca cb : Bool) (s : State),
    let k := purseOf s d
    let j := purseOf s a
    (∀ i ∈ [Instr.tmma d a b, .tmmal d a b, .tlru d a b ca cb, .tadd d a, .trecomp d, .tdup d a, .tdense a d],
      (¬ (k < s.strand.vregs ∧ (s.strand.tile? k).isSome = true) → exec i s = TileTraps s s 0x02 k) ∧
      (∀ x, k < s.strand.vregs → s.strand.tile? k = some x → s.strand.vregs < x.base + x.gl → exec i s = TileTraps s s 0x02 (max k s.strand.vregs))) ∧
    (∀ x, TileBase s d x →
      (∀ i ∈ [Instr.tmma d a b, .trecomp d, .tdup d a], tileCodeOk s d x = false → exec i s = TileTraps s s 0x03 (s.strand.purse k).tag.toNat) ∧
      (¬ (j < s.strand.vregs ∧ (s.strand.tile? j).isSome = true) → ∀ i ∈ [Instr.tadd d a, .tmmal d a b], exec i s = TileTraps s s 0x02 j) ∧
      (∀ z, TileBase s a z → (¬ (z.m = x.m ∧ z.n = x.n) → exec (.tadd d a) s = TileTraps s s 0x02 j) ∧
        (¬ (z.pair = true ∧ z.m = x.m) → exec (.tmmal d a b) s = TileTraps s s 0x02 j)))) ∧
  (∀ (d a b : BitVec 7) (ca cb : Bool) (s : State) (x z : Tile), TileAt s d x → x.pair = true → ¬ TakesDense s x →
    (TileAt s a z → z.m = x.m → z.n = x.n → ¬ (z.pair = true ∧ x.q + z.q ≤ x.qres) → exec (.tadd d a) s = TileTraps s s 0x07 x.base) ∧
    (purseOf s a < s.strand.vregs → purseOf s b < s.strand.vregs → (∀ f ∈ [d, a, b], (codeOf s f).valid = true ∧ (codeOf s f).isFp32 = true) →
      let n := min (min (min 4096 ((s.strand.purse (purseOf s a)).fill / 32) / x.m) (min 4096 ((s.strand.purse (purseOf s b)).fill / 32) / x.n)) 32
      n ≠ 0 → x.qres < x.q + n → exec (.tlru d a b ca cb) s = TileTraps s s 0x07 x.base))

/-- TMMA and TMMAL (R243, R245, R249, R250, R253, R254, R255, R256, R259, R260). A TMMA whose descriptor, map and rows load, with operand
codes of an accepted kind, completes when the tile can take the product: element (r, c) becomes its old value plus, strip by strip of KS
products, the tree sum of A row r times B row c, rounded after each addition, rows duplicated as the map says; with KT = 0 it changes
nothing. A TMMAL takes A from the factor pair of its second field: first the sums of V times B over K, then those of U times them. The
group has the OR of all tarnish read and nothing else changes after the loads. A descriptor's code that is not of an accepted kind takes
ILLEGAL_CODE with TADDR its field, ACODE first, and a product that meets a factor pair takes RANK_OVERFLOW, decided last, while TMODE.OVF
is 0 or the group is too small for the dense tile; both before any effect. That KT = 0 leaves the descriptor's address untested, that a
factor pair without columns in TMMAL changes nothing, and that a restart point which stands armed is kept are the model's choices (logs 51
and 52). -/
def Obligations.MatrixProductsComplete : Prop :=
  (∀ (d a b : BitVec 7) (s : State) (x : Tile), TileAt s d x → (val s b).toNat = 0 → exec (.tmma d a b) s = .next (goesTo s (s.strand.pc + 4))) ∧
  (∀ (d a b : BitVec 7) (s s1 s2 s3 s4 : State) (x : Tile) (desc : Nat) (dm : List Dup) (ra rb : List (List Ex)) (td tm ta tb : Bool),
    let c := codeOf s d
    let kt := min (val s b).toNat 65536
    let ca := s.strand.codeOf (BitVec.ofNat 3 (bitsAt desc 256 3))
    let cb := s.strand.codeOf (BitVec.ofNat 3 (bitsAt desc 264 3))
    let mode := s.strand.ctl.tmode
    TileAt s d x → kt ≠ 0 → loadDescriptor (val s a) s = .ok (desc, td) s1 → (ca.valid && operandOk c ca) = true → (cb.valid && operandOk c cb) = true →
    loadMap true x kt s1 = .ok (dm, tm) s2 →
    loadRows { base := descWord desc 0, stride := descWord desc 2, rows := x.m, code := ca, scales := getBits mode.val 18 16 } kt 0 x.m s2 = .ok (ra, ta) s3 →
    loadRows { base := descWord desc 1, stride := descWord desc 3, rows := x.n, code := cb, scales := getBits mode.val 34 16 } kt 0 x.n s3 = .ok (rb, tb) s4 →
    TakesDense s x → GroupHolds s x (x.m * x.n) →
    let out := (List.range (x.m * x.n)).map fun e =>
      stripSums c (drawOf s c) (e * 2 ^ 20) (16 * (getBits mode.val 7 4 + 1)) (kt + 1) 0
        (products ((ra.map (dupRow dm true)).getD (e / x.n) []) ((rb.map (dupRow dm false)).getD (e % x.n) [])) ((tileVals s c x).getD e (.zero false, 0))
    ∃ t, exec (.tmma d a b) s = .next t ∧
      TileHolds s4 (denseOf x) (codeBits c (drawOf s c) out) (s.strand.groupTarn x.base x.gl || tarn1 s a || tarn1 s b || td || tm || ta || tb || mode.tarn) (flagsOf out) t ∧
      OutsideSame s4 x t) ∧
  (∀ (d a b : BitVec 7) (s s1 : State) (x : Tile) (desc : Nat) (td : Bool),
    let c := codeOf s d
    let code := fun (lo : Nat) => s.strand.codeOf (BitVec.ofNat 3 (bitsAt desc lo 3))
    TileAt s d x → min (val s b).toNat 65536 ≠ 0 → loadDescriptor (val s a) s = .ok (desc, td) s1 →
    (((code 256).valid && operandOk c (code 256)) = false → exec (.tmma d a b) s = TileTraps s s1 0x03 (bitsAt desc 256 3)) ∧
    (((code 256).valid && operandOk c (code 256)) = true → ((code 264).valid && operandOk c (code 264)) = false →
      exec (.tmma d a b) s = TileTraps s s1 0x03 (bitsAt desc 264 3)) ∧
    (((code 256).valid && operandOk c (code 256)) = true → ((code 264).valid && operandOk c (code 264)) = true → x.pair = true → ¬ TakesDense s x →
      ∀ (s2 s3 s4 : State) (dm : List Dup) (ra rb : List (List Ex)) (tm ta tb : Bool),
      let kt := min (val s b).toNat 65536
      let mode := s.strand.ctl.tmode.val
      loadMap true x kt s1 = .ok (dm, tm) s2 →
      loadRows { base := descWord desc 0, stride := descWord desc 2, rows := x.m, code := code 256, scales := getBits mode 18 16 } kt 0 x.m s2 = .ok (ra, ta) s3 →
      loadRows { base := descWord desc 1, stride := descWord desc 3, rows := x.n, code := code 264, scales := getBits mode 34 16 } kt 0 x.n s3 = .ok (rb, tb) s4 →
      exec (.tmma d a b) s = TileTraps s s4 0x07 x.base)) ∧
  (∀ (d a b : BitVec 7) (s s1 s2 s3 : State) (x f : Tile) (desc : Nat) (dm : List Dup) (rb : List (List Ex)) (td tm tb : Bool),
    let c := codeOf s d
    let cb := s.strand.codeOf (BitVec.ofNat 3 (bitsAt desc 264 3))
    let mode := s.strand.ctl.tmode
    TileAt s d x → TileAt s a f → f.pair = true → f.m = x.m → loadDescriptor (val s b) s = .ok (desc, td) s1 → (cb.valid && operandOk c cb) = true →
    loadMap false x f.n s1 = .ok (dm, tm) s2 →
    loadRows { base := descWord desc 1, stride := descWord desc 3, rows := x.n, code := cb, scales := getBits mode.val 34 16 } f.n 0 x.n s2 = .ok (rb, tb) s3 →
    (f.q = 0 → exec (.tmmal d a b) s = .next (s3.mapStrand Strand.advance)) ∧
    (f.q ≠ 0 → x.pair = true → ¬ TakesDense s x → exec (.tmmal d a b) s = TileTraps s s3 0x07 x.base) ∧
    (f.q ≠ 0 → TakesDense s x → GroupHolds s x (x.m * x.n) →
      let cw : Code := { c with kind := 2, wid := 0 }
      let uv := s.strand.factors f
      let ws := (List.range f.q).map fun i => (List.range x.n).map fun j =>
        stripSums cw (drawOf s cw) ((i * x.n + j) * 2 ^ 20) (16 * (getBits mode.val 7 4 + 1)) 257 0
          (products (uv.2.getD i []) ((rb.map (dupRow dm false)).getD j [])) (.zero false, 0)
      let out := (List.range (x.m * x.n)).map fun e =>
        let v := (tileVals s c x).getD e (.zero false, 0)
        let sum := treeSum c (drawOf s c) (e * 2 ^ 20) (products (rowOf uv.1 (e / x.n)) (ws.map fun r => (r.getD (e % x.n) (.zero false, 0)).1))
        let r := c.rd (drawOf s c) (e * 2 ^ 20) (Ex.add c.rdn v.1 sum.1)
        ((r.1, v.2 ||| sum.2 ||| r.2) : Ex × Flags)
      ∃ t, exec (.tmmal d a b) s = .next t ∧
        TileHolds s3 (denseOf x) (codeBits c (drawOf s c) out)
          (s.strand.groupTarn x.base x.gl || s.strand.groupTarn f.base f.gl || tarn1 s b || td || tm || tb || mode.tarn) (flagsOf (out ++ ws.flatten)) t ∧
        OutsideSame s3 x t))

/-- TRECOMP, TDENSE, TRANK, TSCALE, TDUP and TCVT (R244, R249, R250, R255, R256, R261, R262, R263, R264, R265). TRECOMP leaves a dense or
empty tile as it is, raises NV and nothing else when a component is NaN or infinite, and else keeps at most the reserved rank of
components, the ones that R261 computes. TDENSE of a tile that fits below VREGS declares a dense tile of its elements. TRANK reads word 0
of a purse header, TSCALE puts s[a][31:0] into TMODE[49:18], TDUP binds a map address aligned to 256 bytes below 2^52, and TCVT deposits
the elements of one purse of a tile, dense(X) for a factor pair, into a purse of any code, with the flags of dense(X) credited to the
elements deposited. How TRECOMP orders a component whose size is NaN is a free choice (log 21), and what the headers of the old group
behind a TDENSE in place become is the model's (log 52). All complete in every state that meets their operand checks. -/
def Obligations.TilesAreRecompressedAndMoved : Prop :=
  (∀ (d : BitVec 7) (s : State) (x : Tile), TileAt s d x →
    let uv := s.strand.factors x
    let tarn := s.strand.groupTarn x.base x.gl
    let odd := (uv.1 ++ uv.2).any fun c => c.any fun v => match v with | .fin _ _ _ _ => false | _ => true
    (x.pair = false ∨ x.q = 0 → exec (.trecomp d) s = .next (goesTo s (s.strand.pc + 4))) ∧
    (x.pair = true → x.q ≠ 0 → odd = true → exec (.trecomp d) s = .next (goesTo (s.mapStrand fun u => u.sticky .nv tarn) (s.strand.pc + 4))) ∧
    (x.pair = true → x.q ≠ 0 → odd = false → x.qres ≤ 32 → x.m + x.n ≤ 256 → GroupHolds s x ((x.m + x.n) * x.qres) →
      ∃ high t, let r := recompress high (tolValue s.strand.ctl.tol.val) x.qres x.m x.n uv.1 uv.2 0
        exec (.trecomp d) s = .next t ∧ r.1.2.1 ≤ x.qres ∧
        TileHolds s { x with q := r.1.2.1 } r.1.1 (tarn || s.strand.ctl.tol.tarn) r.2 t ∧ OutsideSame s x t)) ∧
  (∀ (d a : BitVec 7) (s : State) (z : Tile), TileAt s a z → (codeOf s a).isFp32 = true →
    let c := codeOf s a
    let y : Tile := { base := purseOf s d, pair := false, qres := 0, q := 0, m := z.m, n := z.n, gl := s.strand.denseGroup z.m z.n }
    GroupHolds s y (z.m * z.n) → 0 < y.gl → y.base + y.gl ≤ s.strand.vregs →
    ∃ t, exec (.tdense d a) s = .next t ∧ OutsideKept s y t ∧
      TileHolds s y (if z.pair then codeBits c (drawOf s c) (tileVals s c z) else tileRaw s z (z.m * z.n))
        (s.strand.groupTarn z.base z.gl || s.strand.groupTarn y.base y.gl) (flagsOf (tileVals s c z)) t) ∧
  (∀ (d a : BitVec 7) (s : State), purseOf s a < s.strand.vregs → exec (.trank d a) s = .next (wrote s d (s.strand.purse (purseOf s a)).hdr0 (tarnOf s a))) ∧
  (∀ (a : BitVec 7) (s : State), ∃ t, exec (.tscale a) s = .next t ∧ t.strand.pc = s.strand.pc + 4 ∧
    t.strand.ctl.tmode.val.toNat = s.strand.ctl.tmode.val.toNat / 2 ^ 50 * 2 ^ 50 + (val s a).toNat % 2 ^ 32 * 2 ^ 18 + s.strand.ctl.tmode.val.toNat % 2 ^ 18 ∧
    t.strand.ctl.tmode.tarn = tarn1 s a ∧ t.strand.purses = s.strand.purses ∧ t.strand.sregs = s.strand.sregs ∧ t.strand.masks = s.strand.masks ∧
    CtlKept s t [0x016, 0x032] ∧ t = { s with strand := t.strand }) ∧
  (∀ (d a : BitVec 7) (s : State) (x : Tile), TileAt s d x → x.base + x.gl ≤ 128 → 0 < x.gl → (val s a).toNat % 256 = 0 → (val s a).toNat < 2 ^ 52 →
    ∃ t, exec (.tdup d a) s = .next t ∧ MatrixFrame s t ∧ t.strand.ctl.flags = s.strand.ctl.flags ∧
      (∀ k, t.strand.purse k = if x.base ≤ k ∧ k < x.base + x.gl then
        { s.strand.purse k with tarn := s.strand.groupTarn x.base x.gl || tarn1 s a, hdr1 := if k = x.base then val s a else (s.strand.purse k).hdr1 } else s.strand.purse k)) ∧
  (∀ (d a : BitVec 7) (s : State) (x : Tile), let k := purseOf s a
    k < s.strand.vregs → s.strand.tileOver k = some x → x.base + x.gl ≤ s.strand.vregs → UseOk s d anyCode → Fresh s →
    let c := s.strand.codeOf (s.strand.purse x.base).tag
    c.valid = true → (c.isFp32 = true ∨ (x.pair = false ∧ c.isInt32 = true)) →
    let g := s.strand.grant / 32
    let vals := s.strand.denseVals c x ((k - x.base) * g) (min g (x.m * x.n - (k - x.base) * g))
    let tarn := if x.pair then s.strand.groupTarn x.base x.gl else tarnOf s a
    ∃ t, exec (.tcvt d a) s = .next t ∧ WalkDone s d
      { plainWalk (vals.map some) (codeOf s d) (codeOf s d).isBlock tarn (fun e => 32 * e) (fun _ => 0) with amax := (codeOf s d).hasAmax } t)

/-- COPY, FILL, SCALES, CONVERT, HOSTCOPY, EXCHFILL, REDUCE and completions (R166, R167, R229, R230, R232, R304, R355, R356, R358, R361, R406,
R434). When its queue is not frozen, the earliest waiting command of a copy engine that may start is performed by the event of its OP: if
its work goes through it ends performed, a HOSTCOPY waiting for the host; if the work stops the command stops as R232 and R434 say; what
it wrote leaves PEND of a barrier that counts it. A physical FILL or COPY inside one line of HBM leaves the pattern or the source bytes at
the destination and every other byte as it was. REDUCE works likewise on the head of its stack's queue, and owes MACHINE_CHECK after a
second residue failure of the command, whichever engine met the first. PCIE_COMPLETION performs the rest of a HOSTCOPY. ENGINE_COMPLETION,
of a queue that is not frozen, sets the bits of one chunk that has been written whole, or signals a performed command in queue order: its
barrier is evaluated, or the bits of the last chunk are set, or TOKVAL is stored first. That one event performs the whole command, that
PEND falls as its bytes are written, and that a completion is a step of its own which tells one chunk, are readings of the model: log 30. -/
def Obligations.EnginesPerform : Prop :=
  (∀ row ∈ copyRows, ∀ (die eng : Nat) (s : State) (c : Cmd), CopyReady s die eng c → c.op = row.2.1 →
    (∃ r, exec (row.1 die eng) s = r ∧ Worked s c row.2.2 r) ∧
    (∀ ph s1, row.2.2 c s = .ok ph s1 → ph = (if row.2.1 = 5 then .awaitHost else .performed))) ∧
  (∀ (die eng : Nat) (s : State) (c : Cmd), CopyReady s die eng c → OneLine s c →
    (c.op = 2 → ∃ t, exec (.fill die eng) s = .next (pendFallen t c) ∧ (t.cmd? c.id).map (·.phase) = some .performed ∧
      t.mem = Mem.put s.mem (c.dword 16) ((List.range (c.dword 24)).map fun i => BitVec.ofNat 8 (c.byte (32 + i % 8)))) ∧
    (c.op = 1 → SourceLine s c → ∃ t, exec (.copy die eng) s = .next (pendFallen t c) ∧ (t.cmd? c.id).map (·.phase) = some .performed ∧
      t.mem = Mem.put s.mem (c.dword 16) (Mem.bytes s.mem (c.dword 8) (c.dword 24)))) ∧
  (∀ (stack : Nat) (s : State) (c : Cmd), stack < 8 → s.frozenQ.contains (16 + stack) = false → s.nextQueued (16 + stack) = some c →
    (∀ o ∈ s.cmds, o.queue = 16 + stack → o.id < c.id → ∀ n, o.phase ≠ .faulted n) →
    let n := c.fails + s.upsetOf (1024 + c.queue)
    let s0 := (s.clearUpset (1024 + c.queue)).updateCmd c.id fun x => { x with fails := n }
    (n < 2 → ∃ r, exec (.reduce stack) s = r ∧ Worked s0 c performReduce r) ∧
    (2 ≤ n → exec (.reduce stack) s = .next ((s0.chronicle (2 ^ 14 + c.queue % 8) c.part 0x18 0 0).stopOwing c 0x18 0 0))) ∧
  (∀ (cmd : Nat) (s : State) (c : Cmd), s.cmd? cmd = some c → c.phase = .awaitHost → s.frozenQ.contains c.queue = false →
    ∃ r, exec (.pcieCompletion cmd) s = r ∧ Worked s c performCompletion r) ∧
  (∀ (cmd : Nat) (s : State) (c : Cmd), s.cmd? cmd = some c → c.node = none →
    let may := c.phase = .performed ∧ s.inOrder c = true ∧ s.frozenQ.contains c.queue = false
    let b := s.barrier (coreOf c.place) c.ca c.group
    (may → c.ck = 0 → exec (.engineCompletion cmd) s = .next (signalledAt ((s.setBarrier b).evalBarrier b) c)) ∧
    (may → c.ck = 1 → c.untold.length ≤ 1 → exec (.engineCompletion cmd) s = .next (signalledAt (chunksTold s c c.untold) c)) ∧
    (c.ck = 1 → s.frozenQ.contains c.queue = false → c.phase ≠ .signalled → c.phase ≠ .dropped → c.tellable ≠ [] → ¬ (may ∧ c.untold.length ≤ 1) →
      ∃ i ∈ c.untold, min ((i + 1) * 2 ^ c.chunk) c.byteCount ≤ c.landed ∧
        exec (.engineCompletion cmd) s = .next (chunksTold { s with fresh := s.fresh + 1 } c [i])) ∧
    (may → c.ck = 2 → (∀ t, writeToken c s = .ok () t → exec (.engineCompletion cmd) s = .next (signalledAt t c)) ∧
      (∀ x t, writeToken c s = .error x t → exec (.engineCompletion cmd) s = .next (t.engineStop c.id x))))

/-- SEARCH and its requests, ordered atomics at their slice, barrier release, the escapement and the dirty FIFO (R160, R161, R284, R294, R306,
R307, R308, R360, R362, R369, R370, R376). SEARCH lets a query that waits for nothing go on, or starts the next command of the queue in a
free context while the SRAM suffices. A request is served by its stack, whether or not a queue is frozen, and the answer kept; ANSWER
brings it in, and the query goes on when all are in, but stands still while its queue is frozen. An ordered atomic that arrives or is
applied with its stream's next tag completes, and NEXT rises. LEVEL_BARRIER_RELEASE completes a ready group. ISSUE_SLOT gives the slot to
a ready strand of age 9 or more, the eldest, else to the chain consumer, else in turn, ages the others, and the winner's strand acts next
(a choice of the model: log 36); the core may fill lines of other dies early. DIRTY_FIFO_DRAIN performs the oldest store at its home
unless its page is locked, and loses it with a record where the block's metadata is lost. That one SEARCH event does a query's work until
it waits, in a context picked freely, and where the request, answer and trace steps fall, are readings of the model: log 23. -/
def Obligations.SearchAndSliceSteps : Prop :=
  (∀ (stack : Nat) (s : State) (c : Cmd), stack < 8 → s.frozenQ.contains (24 + stack) = false → s.resumable stack = some c →
    let n := c.fails + s.upsetOf (1048 + stack)
    n < 2 → ∃ r, exec (.search stack) s = r ∧ Worked ((s.clearUpset (1048 + stack)).updateCmd c.id fun x => { x with fails := n }) c (fun c => runQuery c.id c.searchFuel) r) ∧
  (∀ (stack : Nat) (s : State) (c : Cmd), stack < 8 → s.frozenQ.contains (24 + stack) = false → s.resumable stack = none →
    s.nextQueued (24 + stack) = some c → s.freeContexts stack ≠ [] → s.sramUsed stack + c.sram ≤ 4 * 2 ^ 20 →
    ∃ q : Query, q.stack = stack ∧ q.cmd = c.id ∧ q.ctx ∈ s.freeContexts stack ∧ q.desc = none ∧ q.seen = [] ∧ q.status = none ∧
      let u : State := { s with fresh := s.fresh + 1, queries := s.queries ++ [q] }
      exec (.search stack) s = .next (((inPhase u c .running).trace { c := c, q := q, g := .read [] } 1 0 stack c.entry 0).workQuery { c with phase := .running })) ∧
  (∀ row ∈ [(Instr.listRequest, true), (Instr.distanceRequest, false)], ∀ (stack ctx node va st : Nat) (s : State) (c : Cmd) (q : Query) (r : SearchReq)
    (bs : List Byte), s.inContext stack ctx = some (c, q) → q.desc = some bs →
    (q.reqs.find? fun x => x.node = node && x.isList = row.2 && x.answer.isNone) = some r → (Graph.read bs).find node = some (va, st) →
    let n := c.fails + s.upsetOf (1048 + r.stack)
    n < 2 →
    let s0 := (s.clearUpset (1048 + r.stack)).updateCmd c.id fun x => { x with fails := n }
    (∀ a s1, serveRead c (.read bs) (q.vec.getD []) va row.2 s0 = .ok a s1 →
      exec (row.1 stack ctx node) s = .next (pendFallen (inPhase (s1.updateQuery c.id fun q => { q with reqs := q.reqs.map fun (x : SearchReq) =>
        if x.node = node && x.isList = row.2 then { x with answer := some a } else x }) c .running) c)) ∧
    (∀ x s1, serveRead c (.read bs) (q.vec.getD []) va row.2 s0 = .error x s1 → exec (row.1 stack ctx node) s = .next ((pendFallen s1 c).engineStop c.id x))) ∧
  (∀ (stack ctx node : Nat) (s : State), s.frozenQ.contains (24 + stack) = true → exec (.answer stack ctx node) s = .next s) ∧
  (∀ (stack ctx node : Nat) (s : State) (c : Cmd) (q : Query) (r : SearchReq), s.frozenQ.contains (24 + stack) = false → s.inContext stack ctx = some (c, q) →
    (q.reqs.find? fun x => x.node = node && x.answer.isSome && !x.arrived) = some r →
    let q1 : Query := { q with reqs := q.reqs.map fun (x : SearchReq) => if x.node = node && x.isList = r.isList then { x with arrived := true } else x }
    let d := match r.answer with | some (_, x :: _) => if r.isList then 0 else x | _ => 0
    let u := (s.updateQuery c.id fun _ => q1).trace { c := c, q := q1, g := .read (q.desc.getD []) } 5 (if r.isList then 1 else 0) r.stack node d
    exec (.answer stack ctx node) s = .next (if q1.reqs.all (·.arrived) then u.workQuery c else u)) ∧
  (∀ (e : OrdEntry) (s s1 : State), s.ordEntries = [e] → e.tag = s.ordNext e →
    (∃ x ∈ s.ordStreams, x.launch = e.launch ∧ x.die = e.die ∧ x.slice = e.slice ∧ x.stream = e.stream) →
    (∀ x ∈ s.ordStreams, x.die = e.die → x.slice = e.slice → x.stream = e.stream → x.launch = e.launch) →
    let h : OrdEntry := { e with inBuffer := true }
    ({ s with ordEntries := [h] } : State).performOrd h = (s1, .done) → (∀ x ∈ s1.ordEntries, x.id = e.id) →
    let t := ({ s1 with ordEntries := [] } : State).setOrdNext e (e.tag + 1)
    t.ordNext e = e.tag + 1 ∧ (e.inBuffer = false → exec (.orderedAtomicArrival e.id) s = .next t) ∧
      (e.inBuffer = true → exec (.orderedAtomicApply e.die e.slice e.stream) s = .next t)) ∧
  (∀ (launch level group : Nat) (s : State) (l : Launch), s.launch? launch = some l → l.levelOf (levelBar (l.levels.getD level 0)) = some level →
    s.groupReady l level group (levelBar (l.levels.getD level 0)) = true →
    exec (.levelBarrierRelease launch level group) s = .next (s.completeGroup l level group (levelBar (l.levels.getD level 0)))) ∧
  (∀ (core : Nat) (ready : BitVec 4) (chain : Option Nat) (s : State), core < 256 →
    let r := contenders s core ready
    ∃ t, exec (.issueSlot core ready chain) s = .next t ∧
      t = { s with cores := t.cores, strand := t.strand, parked := t.parked, guests := t.guests, fresh := t.fresh, oldCode := t.oldCode } ∧
      (t.oldCode = s.oldCode ∨ ∃ line, t.oldCode = (s.codeFill core line).oldCode) ∧ (∀ u, u ∈ t.strands ↔ u ∈ s.strands) ∧
      (∀ g ∈ s.guests, g ∈ t.guests) ∧
      (∀ g ∈ t.guests, g ∈ s.guests ∨ (g = s.fillLine core g.line ∧ s.guestScope (4 * core) (g.line * 64) false = some 4 ∧ s.guest core g.line = none)) ∧
      (∀ k, k ≠ core → t.core k = s.core k) ∧ (t.core core).fifo = (s.core core).fifo ∧ (t.core core).score = (s.core core).score ∧
      (r = [] → t.strand = s.strand ∧ ∀ i < 4, ageOf t core i = 0) ∧
      (r ≠ [] → (t.core core).last ∈ r ∧ t.strand.canRun = true ∧ 4 * core + (t.core core).last ∈ t.strand.places ∧
        (∀ i < 4, ageOf t core i = if i ∈ r ∧ i ≠ (t.core core).last then ageOf s core i + 1 else 0) ∧
        (∀ i ∈ r, 9 ≤ ageOf s core i → 9 ≤ ageOf s core (t.core core).last ∧ ageOf s core i ≤ ageOf s core (t.core core).last) ∧
        ((∀ i ∈ r, ageOf s core i < 9) → ∀ k ∈ r, chain = some k → (t.core core).last = k) ∧
        ((∀ i ∈ r, ageOf s core i < 9) → (∀ k ∈ r, chain ≠ some k) → (t.core core).last = ((slotOrder (s.core core).last).filter r.contains).headD 0))) ∧
  (∀ (core : Nat) (s : State) (e : FifoEntry) (es : List FifoEntry), (s.core core).fifo = e :: es →
    let u := s.setCore { s.core core with fifo := es }
    (e.key / 4096 ∉ s.locked → u.metaGone e.key = false → exec (.dirtyFifoDrain core) s = .next ((u.reachHbm e.key false).homeStore e.place e.key e.data e.tarn)) ∧
    (e.key / 4096 ∉ s.locked → u.metaGone e.key = true → exec (.dirtyFifoDrain core) s = .next (
      let v := (u.useUpset (metaUnit (e.key / 256))).poisonBlock (lineOf e.key * 64)
      (({ v with migrate := setInsert (e.key / 4096) v.migrate } : State).postRecord ((u.ownerPart e.key).getD 32) 3
        [0, BitVec.ofNat 64 (lineOf e.key * 64)] none none).1)) ∧
    (e.key / 4096 ∈ s.locked → exec (.dirtyFifoDrain core) s = .next s))

/-- Compressed pages, scrubbing, migration and refresh (R294, R295, R296, R344, R345, R346, R347, R348, R349, R350, R417, R427). L1_WRITEBACK
of an unlocked compressed page whose metadata is lost poisons its block, posts a record and queues the page; else it may be the first
write to its block and take a chunk, which is a free choice (log 26); any other changes nothing. RELAYOUT takes its chunks from the pool
and counts a relayout, or stalls under the lock of the whole page. STALLED_WRITE_RESUME adds chunks and lets stalled writes go on.
PATROL_SCRUB is a request to both PCHs of its unit and reads it: where a sector fails its CRC, a unit of at most 4 erroneous bytes a
codeword whose sectors then pass is corrected and counted, and the third correction within 24 hours queues the page; where it is the one
sector with flipped bits and still fails, it is poisoned, the failure counted and the page queued. The sectors that its arguments name
flip a bit first (an input, log 26), of data, which is corrected, or of the CRC, which poisons them. PAGE_MIGRATION moves the page of a
queued or failed frame with its marks, retargets its leaf, posts its record and retires the old frame, and with it every other queued
frame of the page, or leaves the page as it is when it cannot; a failed band leaves its partition when nothing of it lies there any more.
TREFI_EXPIRY, REFRESH, SELF_REFRESH_ENTRY and EXIT, PCH_RETRAIN and HOT change REC, SR, RETR and HOT of their registers and nothing else;
a PCH that fails its retraining retires its band. An event whose conditions fail leaves the state as it is: a convention of the model, log
11. -/
def Obligations.MemoryUpkeep : Prop :=
  (∀ (line : Nat) (lost : Bool) (s : State), let page := line * 64 / 4096
    ((page ∈ s.locked ∨ page ∉ s.compressed ∨ s.ownerPart (line * 64) = none) → exec (.l1Writeback line lost) s = .next s) ∧
    (∀ p, page ∉ s.locked → page ∈ s.compressed → s.ownerPart (line * 64) = some p →
      (lost = true → exec (.l1Writeback line lost) s = .next (
        let v := (s.useUpset (metaUnit (line * 64 / 256))).poisonBlock (line * 64)
        (({ v with migrate := setInsert page v.migrate } : State).postRecord p 3 [0, BitVec.ofNat 64 (line * 64)] none none).1)) ∧
      (lost = false → let u := { s with fresh := s.fresh + 1 }
        let h := s.sliceOf p (line * 64 / 256)
        ∃ t, exec (.l1Writeback line lost) s = .next t ∧ (t = u ∨
          (if 1 ≤ s.freeChunks h.1 p then t = u.setField (poolst h.1 p) 0 32 (s.freeChunks h.1 p - 1) else StallsAt u h.1 h.2 p page 1 false t))))) ∧
  (∀ (die slice page chunks part : Nat) (s : State), s.mayLayOut die slice part page = true → die < 4 → slice < 32 → part < 32 →
    (chunks ≤ s.freeChunks die part → ∃ t, exec (.relayout die slice page chunks part) s = .next t ∧ t = { s with dev := t.dev } ∧
      t.freeChunks die part = s.freeChunks die part - chunks ∧
      getBits (t.reg64 (slcap die slice)) 0 32 = (getBits (s.reg64 (slcap die slice)) 0 32 + 1) % 2 ^ 32 ∧
      (∀ a, a ≠ poolst die part → a ≠ slcap die slice → t.reg64 a = s.reg64 a)) ∧
    (s.freeChunks die part < chunks → ∃ t, exec (.relayout die slice page chunks part) s = .next t ∧ StallsAt s die slice part page chunks true t)) ∧
  (∀ (die part chunks : Nat) (s : State), die < 4 → part < 32 → s.freeChunks die part + chunks < 2 ^ 32 →
    ((∀ x ∈ s.stalled, x.die ≠ die ∨ x.part ≠ part) → ∃ t, exec (.stalledWriteResume die part chunks) s = .next t ∧ OnlyRegister s t (poolst die part) ∧
      t.freeChunks die part = s.freeChunks die part + chunks ∧ (t.reg64 (poolst die part)).getLsbD 32 = false) ∧
    (∀ x, s.stalled = [x] → x.die = die → x.part = part → x.slice < 32 → x.need ≤ s.freeChunks die part + chunks →
      (∀ r ∈ s.records, r.ring = part → r.posted = true) → getBits (s.reg64 (vfAddr part 0x10)) 32 32 = 0 →
      ∃ t, exec (.stalledWriteResume die part chunks) s = .next t ∧ t.stalled = [] ∧ (∀ f, f ∈ t.locked ↔ f ∈ s.locked ∧ (f < x.page ∨ x.page + x.frames ≤ f)) ∧
        t.freeChunks die part = s.freeChunks die part + chunks - x.need ∧ (t.reg64 (poolst die part)).getLsbD 32 = false ∧
        getBits (t.reg64 (slcap die x.slice)) 0 32 = (getBits (s.reg64 (slcap die x.slice)) 0 32 + (if x.relay then 1 else 0)) % 2 ^ 32 ∧
        t = { s with dev := t.dev, locked := t.locked, stalled := [] })) ∧
  (∀ (unit : Nat) (s : State), unit * 512 < hbmEnd →
    let frame := unit / 8
    ∃ u, Requested s u [unit * 512, unit * 512 + 256] ∧
    ((∀ i < 8, Unflipped s (8 * unit + i)) → exec (.patrolScrub unit 0 true) s = .next u ∧ exec (.patrolScrub unit 0 false) s = .next u) ∧
    (∀ (failing : BitVec 8), s.flips = [] → ∀ i < 8, failing.getLsbD i = true → (∀ j < i, failing.getLsbD j = false) →
      let a := pcherr (pchOf (unit * 512 + i * 64)).1 (pchOf (unit * 512 + i * 64)).2
      (∃ t, exec (.patrolScrub unit failing true) s = .next t ∧ (∀ b, b ≠ a → t.reg64 b = u.reg64 b) ∧
        getBits (t.reg64 a) 0 32 = min (getBits (s.reg64 a) 0 32 + 1) (2 ^ 32 - 1) ∧ t.scrubs = s.scrubs ++ [(frame, s.nanos)] ∧
        (∀ f, f ∈ t.migrate ↔ f ∈ s.migrate ∨ (f = frame ∧ 3 ≤ (t.scrubs.filter fun x => x.1 = frame && decide (s.nanos < x.2 + 86400 * 10 ^ 9)).length)) ∧
        t = { u with dev := t.dev, scrubs := t.scrubs, migrate := t.migrate }) ∧
      (∃ t, exec (.patrolScrub unit failing false) s = .next t ∧ (∀ b, b ≠ a → t.reg64 b = u.reg64 b) ∧
        getBits (t.reg64 a) 32 16 = min (getBits (s.reg64 a) 32 16 + 1) 0xFFFF ∧ (∀ f, f ∈ t.migrate ↔ f ∈ s.migrate ∨ f = frame) ∧
        (∀ x, x ∈ t.poison ↔ x ∈ s.poison ∨ ∃ j < 8, failing.getLsbD j = true ∧ x = unit * 8 + j) ∧
        t = { u with dev := t.dev, poison := t.poison, migrate := t.migrate })) ∧
    (∀ i < 8, s.passes (8 * unit + i) (s.heldData (8 * unit + i)) = false → (∀ j < i, Unflipped s (8 * unit + j)) →
      let a := pcherr (pchOf (unit * 512 + i * 64)).1 (pchOf (unit * 512 + i * 64)).2
      ((∀ c < 4, s.wrongBytes unit c ≤ 4) → (∀ j < 8, s.passes (8 * unit + j) (s.sectorData (8 * unit + j)) = true) →
        ∃ t, exec (.patrolScrub unit 0 true) s = .next t ∧ (∀ b, b ≠ a → t.reg64 b = u.reg64 b) ∧
        getBits (t.reg64 a) 0 32 = min (getBits (s.reg64 a) 0 32 + 1) (2 ^ 32 - 1) ∧ t.scrubs = s.scrubs ++ [(frame, s.nanos)] ∧
        (∀ f, f ∈ t.migrate ↔ f ∈ s.migrate ∨ (f = frame ∧ 3 ≤ (t.scrubs.filter fun x => x.1 = frame && decide (s.nanos < x.2 + 86400 * 10 ^ 9)).length)) ∧
        (∀ i < 8, Unflipped t (8 * unit + i)) ∧ t = { u with dev := t.dev, scrubs := t.scrubs, migrate := t.migrate, flips := t.flips }) ∧
      (s.Inv → (∀ j < 8, j ≠ i → Unflipped s (8 * unit + j)) →
        s.decodeUnit unit = none ∨ ((∀ c < 4, s.wrongBytes unit c ≤ 4) ∧ s.passes (8 * unit + i) (s.sectorData (8 * unit + i)) = false) →
        ∃ t, exec (.patrolScrub unit 0 true) s = .next t ∧ (∀ b, b ≠ a → t.reg64 b = u.reg64 b) ∧
        getBits (t.reg64 a) 32 16 = min (getBits (s.reg64 a) 32 16 + 1) 0xFFFF ∧ (∀ f, f ∈ t.migrate ↔ f ∈ s.migrate ∨ f = frame) ∧
        (∀ x, x ∈ t.poison ↔ x ∈ s.poison ∨ x = 8 * unit + i) ∧
        t.sectorData (8 * unit + i) = (if s.decodeUnit unit = none then s.heldData (8 * unit + i) else s.sectorData (8 * unit + i)) ∧
        (∀ k, k / 64 ≠ 8 * unit + i → Mem.read t.mem k = Mem.read s.mem k) ∧ Unflipped t (8 * unit + i) ∧
        t = { u with dev := t.dev, mem := t.mem, poison := t.poison, migrate := t.migrate, flips := t.flips }))) ∧
  (∀ (old new entry part : Nat) (s : State),
    let e := s.tableWord entry 0
    let a := leafPa e
    let n := pageBytes (leafSize e)
    let run := match pageLevel (leafSize e) with | some (_, r) => r | none => 1
    let first := entry / (8 * run) * (8 * run)
    let failed := decide (old * 4096 < hbmEnd) && s.badBands.contains (bandOf (old * 4096))
    (s.migrate? old new entry part = none →
      exec (.pageMigration old new entry part) s = .next (if failed then s.leaveBand part (bandOf (old * 4096)) else s)) ∧
    (∀ t, s.migrate? old new entry part = some t →
      ((old ∈ s.migrate ∨ failed = true) → ∃ v, exec (.pageMigration old new entry part) s = .next v ∧
        ∀ f, f ∈ v.retired ↔ f ∈ t.retired ∨ f = old ∨ (f ∈ t.migrate ∧ a / 4096 ≤ f ∧ f < a / 4096 + n / 4096)) ∧
      ((old ∈ s.migrate ∨ failed = true) → (∀ f ∈ t.migrate, f ≠ old → f < a / 4096 ∨ a / 4096 + n / 4096 ≤ f) → exec (.pageMigration old new entry part) s =
        .next (let u := (t.postRecord part 4 [0, BitVec.ofNat 64 (old * 4096), BitVec.ofNat 64 ((new + (old - a / 4096)) * 4096)] none none).1
          let v := { u with migrate := setErase old u.migrate, retired := setInsert old u.retired }
          if failed then v.leaveBand part (bandOf (old * 4096)) else v)) ∧
      (old ∉ s.migrate → failed = false → s.bandMoves part (old * 4096) (new * 4096) = true → exec (.pageMigration old new entry part) s = .next t) ∧
      (s.Inv → s.flips = [] → (∀ c ∈ s.cores, c.fifo = []) → (first + 8 * run ≤ a ∨ a + n ≤ first) → (first + 8 * run ≤ new * 4096 ∨ new * 4096 + n ≤ first) →
        leafPa (t.tableWord entry 0) = new * 4096 ∧ (∀ i < n, Mem.read t.mem (new * 4096 + i) = Mem.read s.mem (a + i)) ∧
        (∀ j < n / 64, (new * 64 + j ∈ t.tarn ↔ a / 64 + j ∈ s.tarn) ∧ (new * 64 + j ∈ t.poison ↔ a / 64 + j ∈ s.poison))))) ∧
  (∀ (stack pch : Nat) (s : State), stack < 8 → pch < 128 → let a := refrec stack pch
    (s.selfRefresh stack pch = false → -8 < s.refreshRec stack pch →
      ∃ t, exec (.trefiExpiry stack pch) s = .next t ∧ t.refreshRec stack pch = s.refreshRec stack pch - 1 ∧ OnlyRegister s t a) ∧
    (s.selfRefresh stack pch = false → s.refreshRec stack pch < 8 →
      ∃ t, exec (.refresh stack pch) s = .next t ∧ t.refreshRec stack pch = s.refreshRec stack pch + 1 ∧ OnlyRegister s t a) ∧
    (s.retraining stack pch = false → ∃ t, exec (.selfRefreshEntry stack pch) s = .next t ∧ t.selfRefresh stack pch = true ∧ t.refreshRec stack pch = 0 ∧ OnlyRegister s t a) ∧
    (∃ t, exec (.selfRefreshExit stack pch) s = .next t ∧ t.selfRefresh stack pch = false ∧ t.refreshRec stack pch = s.refreshRec stack pch ∧ OnlyRegister s t a) ∧
    (∀ on, (on = true ∨ s.upsetOf (pchUnit stack pch) = 0) →
      ∃ t, exec (.pchRetrain stack pch on) s = .next t ∧ t.retraining stack pch = on ∧ t.refreshRec stack pch = s.refreshRec stack pch ∧ OnlyRegister s t a) ∧
    (s.upsetOf (pchUnit stack pch) ≠ 0 → ∃ t, exec (.pchRetrain stack pch false) s = .next t ∧ t.retraining stack pch = false ∧
      (∀ b, b ∈ t.badBands ↔ b ∈ s.badBands ∨ b = 16 * (stack / 2) + (128 * (stack % 2) + pch) / 16)) ∧
    (∀ on, ∃ t, exec (.hot stack on) s = .next t ∧ (∀ q < 128, (t.reg64 (refrec stack q)).getLsbD 12 = on ∧ t.refreshRec stack q = s.refreshRec stack q) ∧
      (∀ b, (∀ q < 128, b ≠ refrec stack q) → t.reg64 b = s.reg64 b) ∧ t = { s with dev := t.dev }))

/-- PREEMPTION, RESTORE, CLUSTER_DRAIN and CLUSTER_RETIRE (R147, R148, R149, R150, R221, R239, R281, R288, R289, R352, R361, R417). PREEMPTION
of a strand that may be saved writes its image, breaks its links and marks it saved, the image holding its pc and its size at their
offsets; of a ready strand the instruction in flight is first left, or cut, by a free choice (the model's, log 33). While a command that
names one of its masks goes on the pre-emption is due; a frozen or a saved strand stays. RESTORE of a saved strand whose image is sound
ends its launch's quiescence and puts the image's registers, masks and purses back, the pc the image's moved on as it has moved since; a
poisoned image gives a machine check. CLUSTER_DRAIN of a cluster in service, or of a draining one whose network has failed, makes
CLSTAT.STATE 1, with BNF when the network has failed, and then treats each strand on it: waiting on the failed network it suspends, a span
strand in D suspends, a segment here of another span strand detaches at the next SETVL, and the others are pre-empted (log 50).
CLUSTER_RETIRE of a drained cluster whose strands are saved and whose memory no command writes takes it out: by a move to a free cluster,
in a RESIZE onto what stays, or else with its launches killed when none is free; its cluster memory then reads zero and its partition has
lost it; one of no partition only leaves service. An event whose conditions fail leaves the state as it is: a convention of the model, log
11. -/
def Obligations.ContextsAreSavedAndMoved : Prop :=
  (∀ (place : Nat) (s : State),
    (∀ u : Strand, s.strandAt place = some u → s.savable u = true →
      (u.run ≠ .ready → exec (.preemption place) s = .next (savedAs s u)) ∧
      (u.run = .ready → exec (.preemption place) s = .next (savedAt (s.actAs place State.cutFlight) place) ∧
        (Config.pick s.fresh % 2 = 0 → exec (.preemption place) s = .next (savedAs { s with fresh := s.fresh + 2 } u))) ∧
      (s.Inv → Mem.readLE (s.writeImage u).mem (u.area + 8) 8 = u.pc.toNat ∧ Mem.readLE (s.writeImage u).mem (u.area + 0x18) 8 = u.imageSize % 2 ^ 64)) ∧
    (∀ u : Strand, s.strandAt place = some u → u.saved = none → (∀ q, u.run ≠ .frozen q) → s.maskBusy u = true →
      exec (.preemption place) s = .next (s.updateAt place fun x => { x with due := true })) ∧
    ((s.strandAt place = none ∨ ∃ u, s.strandAt place = some u ∧ (u.saved.isSome = true ∨ ∃ q, u.run = .frozen q)) → exec (.preemption place) s = .next s)) ∧
  (∀ (place : Nat) (s : State) (u : Strand), s.strandAt place = some u →
    (u.saved = none → exec (.restore place) s = .next s) ∧
    (u.saved.isSome = true →
      (s.imageBad u = true → exec (.restore place) s = .next (if u.isSuspended then s else s.suspendAt place 0x18 0 1)) ∧
      (s.imageBad u = false → exec (.restore place) s = .next ((calmed s u.launch).updateAt place fun _ => s.loadImage u)) ∧
      (s.loadImage u).saved = none ∧ (s.loadImage u).ctl = s.imageCtl u ∧
      (∀ p, u.saved = some p → (s.loadImage u).pc = BitVec.ofNat 52 (Mem.readLE s.mem (u.area + 8) 8) + (u.pc - p)) ∧
      (∀ r : Fin 256, r.val ≠ 0 → (s.loadImage u).sregs[r].val = BitVec.ofNat 64 (Mem.readLE s.mem (u.area + (0x280 + 8 * r.val)) 8)) ∧
      (∀ k : Fin 16, k.val ≠ 0 → (s.loadImage u).masks[k].bits = BitVec.ofNat 4096 (Mem.readLE s.mem (u.area + (0xAC0 + 512 * k.val)) 512)) ∧
      ∀ i : Fin 128, i.val < (s.imageCtl u).vregs.val.toNat → (s.loadImage u).purses[i] = s.imagePurse u (s.imageCtl u).grant.val.toNat i.val)) ∧
  (∀ (die cluster : Nat) (bnf : Bool) (s : State), let c := 8 * die + cluster
    let s1 := s.setField (clusterCtl c) 4 2 1
    let s2 := if bnf then s1.setField (clusterCtl c) 1 1 1 else s1
    (die < 4 → cluster < 8 → (s.clusterState c = 0 ∨ (s.clusterState c = 1 ∧ bnf = true)) →
      exec (.clusterDrain die cluster bnf) s = .next ((s2.onCluster c).foldl (fun u t => drainedStrand u c bnf t) s2) ∧ s2.clusterState c = 1) ∧
    ((4 ≤ die ∨ 8 ≤ cluster ∨ (s.clusterState c ≠ 0 ∧ ¬ (s.clusterState c = 1 ∧ bnf = true))) → exec (.clusterDrain die cluster bnf) s = .next s)) ∧
  (∀ (die cluster p : Nat) (s : State), let c := 8 * die + cluster
    die < 4 → cluster < 8 →
    ((s.clusterState c ≠ 1 ∨ s.clusterSaved c = false ∨ s.clusterBusy c = true ∨ s.clusterHeld c = true) → ∀ g, exec (.clusterRetire die cluster g) s = .next s) ∧
    (s.clusterState c = 1 → s.clusterSaved c = true → s.clusterBusy c = false → s.clusterHeld c = false →
      (s.clusterPart c = none → ∀ g, ∃ t, exec (.clusterRetire die cluster g) s = .next t ∧ t.clusterState c = 2 ∧
        ∀ o < 0x800000, Mem.read t.mem (clusterKey c o) = Mem.unlisted) ∧
      (s.clusterPart c = some p → ∀ d, exec (.clusterRetire die cluster (some d)) s =
        .next (if s.clusterTarget p c d then (s.moveCluster c d).leaveCluster p c else s)) ∧
      (s.clusterPart c = some p → s.removing p c = true → exec (.clusterRetire die cluster none) s = .next (vacated s p c)) ∧
      (s.clusterPart c = some p → s.removing p c = false →
        ((∃ d < 32, s.clusterTarget p c d = true) → exec (.clusterRetire die cluster none) s = .next s) ∧
        ((∀ d < 32, s.clusterTarget p c d = false) →
          exec (.clusterRetire die cluster none) s = .next ((s.killLaunches ((s.onCluster c).map (·.launch))).leaveCluster p c)))) ∧
    (s.leaveCluster p c).clusterState c = (if s.removing p c then 0 else 2) ∧ ((s.leaveCluster p c).reg64 (descAddr p 0x08)).getLsbD c = false ∧
    ∀ o < 0x800000, Mem.read (s.leaveCluster p c).mem (clusterKey c o) = Mem.unlisted)

/-- KERNEL, engine nodes, SEARCHBATCH, COMPRESS, DECOMPRESS, SIGNAL and WAIT (R293, R294, R295, R397, R398, R399, R401, R404, R418, R419,
R421). A node of these types is worked on once it is dispatched, and those that take several steps while they run; before, nothing
happens. A malformed one ends faulted with NERR 1. A well-formed KERNEL reads its record, and waits while the hub cannot; a record that
R398 refuses ends it with the record's NERR; else it starts its launch at places that R404 permits, with the record's stack or the stacks
given (an input, log 7), and waits while the places given do not do. An engine node issues its command when the queue takes it and waits
while it does not; a malformed command ends it with NERR 4. A SEARCHBATCH issues its commands in array order and waits where a queue is
full. COMPRESS and DECOMPRESS go through their pages in order. SIGNAL writes its value, posts its interrupt when the ring has room, and
ends. WAIT ends when the value has reached its bound, and polls again otherwise. NERR 1 for an address of SIGNAL, WAIT or SEARCHBATCH that
does not translate, and the wait of a SIGNAL whose ring is full, are choices of the model: log 25. An event whose conditions fail leaves
the state as it is: log 11. -/
def Obligations.NodesAreDispatched : Prop :=
  (∀ (part node : Nat) (s : State),
    (∀ row ∈ [(Instr.copyNode part node, 2, false), (.convertNode part node, 3, false), (.reduceNode part node, 6, false), (.hostCopyNode part node, 8, false),
        (.searchBatch part node, 7, true), (.compress part node, 4, true), (.decompress part node, 5, true), (.signal part node, 9, false), (.wait part node, 10, true)],
      (s.nodeFor part node row.2.1 row.2.2 = none → exec row.1 s = .next s) ∧
      (∀ n, s.nodeFor part node row.2.1 row.2.2 = some n → n.ok = false → exec row.1 s = .next (s.runNode n 2 1))) ∧
    (∀ row ∈ [(Instr.copyNode, 2, 1), (.convertNode, 3, 4), (.reduceNode, 6, 6), (.hostCopyNode, 8, 5)], ∀ n, s.nodeFor part node row.2.1 false = some n →
      n.ok = true → let bits := n.body 0 64
        let c := s.nodeCmd n bits false (s.nodeAddr n + 48)
        (bits % 256 ≠ row.2.2 → exec (row.1 part node) s = .next (s.runNode n 2 1)) ∧
        (bits % 256 = row.2.2 → c.wellFormed = false → exec (row.1 part node) s = .next (s.runNode n 2 4)) ∧
        (bits % 256 = row.2.2 → c.wellFormed = true → s.refuses c = true → exec (row.1 part node) s = .next s) ∧
        (bits % 256 = row.2.2 → c.wellFormed = true → s.refuses c = false → exec (row.1 part node) s = .next ((s.accept c).runNode n 0 0))) ∧
    (∀ places tops : List Nat, (s.nodeFor part node 1 false = none → exec (.kernel part node places tops) s = .next s) ∧
      (∀ n, s.nodeFor part node 1 false = some n → n.ok = false → exec (.kernel part node places tops) s = .next (s.runNode n 2 1)) ∧
      (∀ n : Node, s.nodeFor part node 1 false = some n → n.ok = true →
        ((∃ r ∈ s.kernelReads n, s.hubStopped n.part r.1 r.2 = true) → exec (.kernel part node places tops) s = .next s) ∧
        ((∀ r ∈ s.kernelReads n, s.hubStopped n.part r.1 r.2 = false) → let u := kernelTouched s n
          (∀ e, u.record n = .error e → exec (.kernel part node places tops) s = .next (u.runNode n 2 e)) ∧
          (∀ r clean, u.record n = .ok (r, clean) →
            let l := u.launchOf n r places
            let segs := if r.span then places else []
            ((u.placementOk n.part r places = false ∨ u.barsFree l = false ∨ ∃ p ∈ places, u.drainBlocked (coreOf p) = true) → exec (.kernel part node places tops) s = .next u) ∧
            (u.placementOk n.part r places = true → u.barsFree l = true → (∀ p ∈ places, u.drainBlocked (coreOf p) = false) →
              (r.stack ≠ 0 → exec (.kernel part node places tops) s =
                .next ((u.startLaunch r l segs (List.replicate l.strands.length r.stack) clean).runNode n 0 0)) ∧
              (r.stack = 0 → tops.length = l.strands.length →
                (∀ i < tops.length, ∀ j < i, tops.getD i 0 + 0x100000 ≤ tops.getD j 0 ∨ tops.getD j 0 + 0x100000 ≤ tops.getD i 0) →
                (∀ a ∈ tops, u.stackOk r a = true) →
                exec (.kernel part node places tops) s = .next ((u.startLaunch r l segs (tops.map (BitVec.ofNat 64)) clean).runNode n 0 0))))))) ∧
    (∀ n : Node, s.nodeFor part node 7 true = some n → n.ok = true → n.issued < n.body 8 4 →
      let va := n.body 0 8 + 64 * n.issued
      let u := s.hubTouch part va 64
      (s.hubStopped part va 64 = true → exec (.searchBatch part node) s = .next s) ∧
      (s.hubStopped part va 64 = false →
        (u.hubRead part va 64 = none → exec (.searchBatch part node) s = .next (u.runNode n 2 1)) ∧
        (∀ b, u.hubRead part va 64 = some b →
          let c := u.nodeCmd n (leNat b) true va
          ((leNat b % 256 ≠ 7 ∨ c.wellFormed = false) → exec (.searchBatch part node) s = .next (u.runNode n 2 4)) ∧
          (leNat b % 256 = 7 → c.wellFormed = true → u.refuses c = true → exec (.searchBatch part node) s = .next u) ∧
          (leNat b % 256 = 7 → c.wellFormed = true → u.refuses c = false → n.issued + 1 = n.body 8 4 →
            exec (.searchBatch part node) s = .next ((u.accept c).runNode { n with issued := n.issued + 1 } 0 0)) ∧
          (leNat b % 256 = 7 → c.wellFormed = true → u.refuses c = false → n.issued + 1 < n.body 8 4 →
            exec (.searchBatch part node) s =
              .next (((u.accept c).runNode { n with issued := n.issued + 1 } 0 0).issueBatch part node (n.body 8 4 - 1)))))) ∧
    (∀ row ∈ [(Instr.compress, 4, true), (Instr.decompress, 5, false)], ∀ n : Node, s.nodeFor part node row.2.1 true = some n → n.ok = true →
      exec (row.1 part node) s = .next (s.compressRange n row.2.2 (n.body 8 8 / 4096)) ∧
      (n.body 8 8 = 0 → exec (row.1 part node) s = .next (s.runNode n 1 0)) ∧
      (∀ t, n.body 8 8 = 4096 → s.pageLocked part (n.body 0 8) = false → s.compressPage part (n.body 0 8) row.2.2 = some t →
        exec (row.1 part node) s = .next (t.runNode n 1 0))) ∧
    (∀ n : Node, s.nodeFor part node 9 false = some n → n.ok = true →
      let a := n.body 0 8
      let w := if a = 0 then s else s.hubWrite part a (leBytes 8 (n.body 8 8))
      (a ≠ 0 → s.hubWritable part a = false → exec (.signal part node) s = .next (s.runNode n 2 1)) ∧
      (a ≠ 0 → s.hubWritable part a = true → s.hubLocked part a 8 = true → exec (.signal part node) s = .next s) ∧
      ((a = 0 ∨ (s.hubWritable part a = true ∧ s.hubLocked part a 8 = false)) →
        ((n.body 18 1).testBit 0 = false → exec (.signal part node) s = .next (w.runNode n 1 0)) ∧
        ((n.body 18 1).testBit 0 = true → s.interruptRoom part = false → exec (.signal part node) s = .next s) ∧
        ((n.body 18 1).testBit 0 = true → s.interruptRoom part = true →
          exec (.signal part node) s = .next ((w.postInterrupt part (n.body 17 1) node (n.body 8 8)).runNode n 1 0)))) ∧
    (∀ n : Node, s.nodeFor part node 10 true = some n → n.ok = true → let u := s.hubTouch part (n.body 0 8) 8
      (s.hubStopped part (n.body 0 8) 8 = true → exec (.wait part node) s = .next s) ∧
      (s.hubStopped part (n.body 0 8) 8 = false →
        (u.hubRead part (n.body 0 8) 8 = none → exec (.wait part node) s = .next (u.runNode n 2 1)) ∧
        (∀ b, u.hubRead part (n.body 0 8) 8 = some b →
          exec (.wait part node) s = .next (if n.body 8 8 ≤ leNat b then u.runNode n 1 0 else u.runNode n 0 0)))))

/-- NODE_END, JOIN, KILLED_BY_THE_HOST and GAPPEND (R39, R394, R402, R403, R412, R421, R422). A node whose work is over ends in NODE_END, a
dispatched node of no known type faulted with NERR 1; any other stays. Ending writes the status word of a node that has a place for it, of
a KERNEL with its launch's verdict and tarnishes, decrements its successor (a graph error on one that has ended or whose counter is zero),
dispatches a successor whose counter reaches zero, and leaves the node ended. A JOIN whose counter has reached zero ends with the worst
state of its children, faulted before killed before done, and writes its wake value whatever they ended with; a malformed one ends
faulted. The host's kill ends a node that has not ended with STATE 3 and NERR 7, or 5 while an engine fault of its command stands that has
frozen no queue. GAPPEND with a tail in range appends each node up to it with its counter less the decrements held for it and sets GTAIL,
dispatching those at zero; with the buffer behind a frozen VF it waits; one out of range records the first graph error and appends
nothing. A node whose status word or wake lies in a locked page ends later (R294), and one that the host kills in its NODE_END when what
its strands have set going is done. The verdict of a KERNEL with NERR 0 after a killed strand and NERR 1 of a malformed or unknown node
are choices of the model (log 25), the JOIN's wake is as read there (log 49), and an event whose conditions fail leaves the state as it is
(log 11). -/
def Obligations.NodesEnd : Prop :=
  (∀ (part node : Nat) (s : State),
    (s.node? part node = none → exec (.nodeEnd part node) s = .next s ∧ exec (.killedByTheHost part node) s = .next s) ∧
    (∀ n : Node, s.node? part node = some n →
      (n.phase = .ended → exec (.nodeEnd part node) s = .next s ∧ exec (.killedByTheHost part node) s = .next s) ∧
      (s.endLocked n = true → exec (.nodeEnd part node) s = .next s) ∧
      (n.phase ≠ .ended → s.endLocked n = false → s.nodeOver n = true → exec (.nodeEnd part node) s = .next (s.endNode n)) ∧
      (n.phase = .dispatched → s.endLocked n = false → s.nodeOver n = false → s.dispatches part = true → ¬ (1 ≤ n.type ∧ n.type ≤ 11) →
        exec (.nodeEnd part node) s = .next (s.endNode { n with state := 2, nerr := 1 })) ∧
      (n.phase ≠ .ended → s.nodeOver n = false → (n.phase ≠ .dispatched ∨ s.dispatches part = false ∨ (1 ≤ n.type ∧ n.type ≤ 11)) →
        exec (.nodeEnd part node) s = .next s) ∧
      (n.phase ≠ .ended → let k := s.killNode n (s.hostNerr n)
        (s.hostNerr n = 5 ↔ ∃ c ∈ s.cmds, c.part = part ∧ c.node = some node ∧ s.froze c = false ∧ ∃ q, c.phase = .faulted q) ∧
        (s.hostNerr n ≠ 5 → s.hostNerr n = 7) ∧
        ∃ m, k.node? part node = some m ∧ m.state = 3 ∧ m.nerr = s.hostNerr n ∧
          exec (.killedByTheHost part node) s = .next (if k.nodeOver m = true ∧ k.endLocked m = false then k.endNode m else k)))) ∧
  (∀ (n : Node) (s : State), s.node? n.part n.index = some n → let t := s.endNode n
    (t.node? n.part n.index).map (·.phase) = some .ended ∧
    (n.type ≠ 1 → n.type ≠ 11 → t.mem = (statusWritten s n (n.state + n.nerr * 2 ^ 8) 0).mem ∧
      ∀ j m, n.succs = [j] → j ≠ n.index → s.node? n.part j = some m →
        ((m.phase = .ended ∨ m.counter = 0) → t.node? n.part j = some m) ∧
        (m.phase ≠ .ended → m.counter ≠ 0 → ∃ x, t.node? n.part j = some x ∧ x.counter = m.counter - 1 ∧ x.bytes = m.bytes ∧
          x.phase = if m.counter = 1 ∧ m.phase = .appended ∧ s.dispatches n.part = true then .dispatched else m.phase)) ∧
    (∀ l : Launch, s.nodeLaunch n = some l → l.fpol = false → t.mem = (statusWritten s n (kernelWord l) l.tarns.toNat).mem ∧
      ∀ x ∈ t.launches, x.id ≠ l.id)) ∧
  (∀ (part node : Nat) (s : State), (s.nodeFor part node 11 false = none → exec (.join part node) s = .next s) ∧
    ∀ n : Node, s.nodeFor part node 11 false = some n →
      (s.endLocked n = true → exec (.join part node) s = .next s) ∧
      (s.endLocked n = false → n.ok = false → exec (.join part node) s = .next (s.endNode { n with state := 2, nerr := 1 })) ∧
      (s.endLocked n = false → n.ok = true → let kids := n.children.filterMap fun i => (s.node? part i).map (·.state)
        let worst := if 2 ∈ kids then 2 else if 3 ∈ kids then 3 else 1
        ∃ t, exec (.join part node) s = .next t ∧ t = s.endNode { n with state := worst } ∧ (t.node? part node).map (·.phase) = some .ended ∧
          t.mem = (let u := statusWritten s n (worst + n.nerr * 2 ^ 8) 0
            if n.body 0 8 = 0 then u else u.hubWrite part (n.body 0 8) (leBytes 8 (n.body 8 8))).mem)) ∧
  (∀ (part : Nat) (tail : BitVec 32) (s : State), part < 32 →
    let old := getBits (s.reg64 (vfAddr part 0x10)) 0 32
    let lg := getBits (s.reg64 (vfAddr part 0x08)) 0 5
    let n := (tail.toNat + 2 ^ 32 - old) % 2 ^ 32
    let room := (tail.toNat + 2 ^ 32 - getBits (s.reg64 (vfAddr part 0x18)) 0 32) % 2 ^ 32
    let i := fun (k : Nat) => (old + k) % 2 ^ 32
    ((2 ^ 31 ≤ n ∨ 2 ^ lg < room) → exec (.gAppend part tail) s = .next (s.graphError part 1 old)) ∧
    (n < 2 ^ 31 → room ≤ 2 ^ lg →
      ((∃ k < n, s.hubStopped part (s.slotAddr part (i k)) 128 = true) → exec (.gAppend part tail) s = .next (s.setField (vfAddr part 0x10) 32 32 n)) ∧
      ((∀ k < n, s.hubStopped part (s.slotAddr part (i k)) 128 = false) → ∃ t, exec (.gAppend part tail) s = .next t ∧
        t.reg64 (vfAddr part 0x10) = tail.setWidth 64 ∧ t.strand = s.strand ∧ t.parked = s.parked ∧ t.cmds = s.cmds ∧
        (∀ m, 0 < n → t.node? part (i 0) = some m → m.bytes = ((s.hubTouch part (s.slotAddr part (i 0)) 128).hubRead part (s.slotAddr part (i 0)) 128).getD []) ∧
        ∀ k < n, ∃ m, t.node? part (i k) = some m ∧ m.state = 0 ∧ m.issued = 0 ∧
          m.counter = leNat ((m.bytes.drop 2).take 2) - ((s.held.find? (·.1 = (part, i k))).map (·.2)).getD 0 ∧
          m.phase = (if m.counter = 0 ∧ s.dispatches part = true then .dispatched else .appended))))

/-- LGEN, TROOT, TLBINV, SRTBASE, FQHEAD and register writes (R15, R159, R303, R375, R394, R413, R415, R418, R419, R420, R426, R431). A write
to LGEN powers the groups of its ones on, with no power-off pending (the model's choice, log 44), and, of its zeros, those off that no
strand on the core holds, whose lane slices are then empty, as those of a group that is powered on are; a group held beyond a home set
stays on with its power-off pending and its holder asked to regrant; a home group stays on. TROOT takes root and enable and drops the
partition's cached translations; TLBINV drops its non-global ones, or those of a range; before either the stores that wait in the
partition's cores are performed, and while one waits for a locked page the write waits. SRTBASE keeps EN only over the ranges of one
partition. FQHEAD frees its ring's entries, and records that waited enter. A plain register takes the RW bits of a write and keeps the
others, GERR.VALID falls by a one written to it. A PCMD of 1 to 4 sets BUSY; while a RESIZE is in progress a DESTROY or RELEASE is taken
beside it. A FWCMD of 1 to 3 begins when none is in progress, and FACT without an action sets FERR. An address without a register changes
nothing. An event that cannot happen leaves the state as it is: a convention of the model, log 11. -/
def Obligations.RegisterWritesComplete : Prop :=
  (∀ (core : Nat) (v : BitVec 64) (s : State), let a := coreCtl core + 0x40
    (256 ≤ core → exec (.lgenWrite core v) s = .next s) ∧
    (core < 256 → ∃ t, exec (.lgenWrite core v) s = .next t ∧ (∀ b, b ≠ a → t.reg64 b = s.reg64 b) ∧ t.strand.sregs = s.strand.sregs ∧
      t.strand.ctl = s.strand.ctl ∧
      (∀ g < 8, v.getLsbD g = true → (t.reg64 a).getLsbD g = true ∧ (t.reg64 a).getLsbD (8 + g) = false ∧
        ((s.reg64 a).getLsbD g = false → ∀ o < 0x8000, Mem.read t.mem (laneKey core (g * 0x8000) + o) = Mem.unlisted)) ∧
      (∀ g < 8, v.getLsbD g = false → (s.reg64 a).getLsbD g = false →
        (t.reg64 a).getLsbD g = false ∧ (t.reg64 a).getLsbD (8 + g) = (s.reg64 a).getLsbD (8 + g)) ∧
      (∀ g < 8, v.getLsbD g = false → (s.reg64 a).getLsbD g = true →
        ((∃ u ∈ s.onCore core, (u.homeOn core).testBit g = true) →
          (t.reg64 a).getLsbD g = true ∧ (t.reg64 a).getLsbD (8 + g) = (s.reg64 a).getLsbD (8 + g)) ∧
        ((∀ u ∈ s.onCore core, (u.homeOn core).testBit g = false) → ∀ u, ((s.onCore core).find? fun x => (x.heldOn core).testBit g) = some u →
          (t.reg64 a).getLsbD g = true ∧ (t.reg64 a).getLsbD (8 + g) = true ∧ (t.strandAt u.place).map (·.st.rgp) = some true) ∧
        ((∀ u ∈ s.onCore core, (u.homeOn core).testBit g = false ∧ (u.heldOn core).testBit g = false) → (t.reg64 a).getLsbD g = false ∧
          (t.reg64 a).getLsbD (8 + g) = false ∧ ∀ o < 0x8000, Mem.read t.mem (laneKey core (g * 0x8000) + o) = Mem.unlisted)))) ∧
  (∀ (part : Nat) (v : BitVec 64) (s : State),
    let d := s.drainPart part
    (s.partBlocked part = true → exec (.trootWrite part v) s = .next s ∧ exec (.tlbinvAll part) s = .next s ∧ exec (.tlbinvRange part v) s = .next s) ∧
    (s.partBlocked part = false → ∀ c, s.ownsCluster part (c / 8) = true → (d.core c).fifo = []) ∧
    (part < 32 → s.partBlocked part = false → ∃ t, exec (.trootWrite part v) s = .next t ∧ t.reg64 (descAddr part 0x30) = v &&& 0xFFFFFFFFF801 ∧
      (∀ b, b ≠ descAddr part 0x30 → t.reg64 b = d.reg64 b) ∧ (∀ e, e ∈ t.tlb ↔ e ∈ d.tlb ∧ e.part ≠ part) ∧ t = { d with dev := t.dev, tlb := t.tlb }) ∧
    (s.partBlocked part = false → ∃ t, exec (.tlbinvAll part) s = .next t ∧ t = { d with tlb := t.tlb } ∧
      ∀ e, e ∈ t.tlb ↔ e ∈ d.tlb ∧ (e.part ≠ part ∨ e.leaf.getLsbD 9 = true)) ∧
    (let n := pageBytes (min (v.toNat / 2 % 16) 12)
     let lo := v.toNat / 2 ^ 12 % 2 ^ 40 * 4096 / n * n
     s.partBlocked part = false → ∃ t, exec (.tlbinvRange part v) s = .next t ∧ t = { d with tlb := t.tlb } ∧
      ∀ e, e ∈ t.tlb ↔ e ∈ d.tlb ∧ (e.part ≠ part ∨ e.base + pageBytes e.size ≤ lo ∨ lo + n ≤ e.base))) ∧
  (∀ (stack : Nat) (v : BitVec 64) (s : State), stack < 8 → let a := stackCtl stack + 0x20000
    let new := (s.reg64 a &&& ~~~(0xFFFFFFFFF01F : Word)) ||| (v &&& 0xFFFFFFFFF01F)
    let lo := new.toNat / 2 ^ 12 % 2 ^ 36 * 4096
    let size := 4096 * 2 ^ min (new.toNat / 2 % 16) 12
    let fits := ∃ p < 32, ∀ k, lo ≤ k → k < lo + size → (k < 2 ^ 48 ∧ regionOf k ≠ .fabric ∧ s.inRanges p k = true)
    ∃ t, exec (.srtBaseWrite stack v) s = .next t ∧ OnlyRegister s t a ∧ (fits → t.reg64 a = new) ∧ (¬ fits → t.reg64 a = new &&& ~~~(1 : Word))) ∧
  (∀ (ring : Nat) (v : BitVec 32) (s : State), ring ≤ 32 →
    exec (.fqHeadWrite ring v) s = .next ((s.setField (vfAddr ring 0x48) 0 32 v.toNat).flushRecords ring s.records.length) ∧
    ((∀ r ∈ s.records, r.ring = ring → r.posted = true) →
      (∃ t, exec (.fqHeadWrite ring v) s = .next t ∧ OnlyRegister s t (vfAddr ring 0x48) ∧ getBits (t.reg64 (vfAddr ring 0x48)) 0 32 = v.toNat) ∧
      ∀ w : BitVec 64, ∃ t, exec (.registerWrite (vfAddr ring 0x40) w) s = .next t ∧ OnlyRegister s t (vfAddr ring 0x40) ∧
        t.reg64 (vfAddr ring 0x40) = (s.reg64 (vfAddr ring 0x40) &&& ~~~0xFFFFFFFFFFFCF) ||| (w &&& 0xFFFFFFFFFFFCF))) ∧
  (∀ (part stack : Nat) (v : BitVec 64) (s : State), part < 32 → stack < 8 →
    (∀ row ∈ plainRegs part stack, ∃ t, exec (.registerWrite row.1 v) s = .next t ∧ OnlyRegister s t row.1 ∧
      t.reg64 row.1 = (s.reg64 row.1 &&& ~~~row.2) ||| (v &&& row.2)) ∧
    (∃ t, exec (.registerWrite (vfAddr part 0x20) v) s = .next t ∧ OnlyRegister s t (vfAddr part 0x20) ∧
      t.reg64 (vfAddr part 0x20) = s.reg64 (vfAddr part 0x20) &&& ~~~(v &&& 0x10000000000)) ∧
    (1 ≤ v.toNat % 8 → v.toNat % 8 ≤ 4 → (s.reg64 (descAddr part 0)).getLsbD 18 = false →
      ∃ t, exec (.registerWrite (descAddr part 0x78) v) s = .next t ∧ t.pcmd part = v.toNat % 8 ∧ t = { s with dev := t.dev }) ∧
    (3 ≤ v.toNat % 8 → v.toNat % 8 ≤ 4 → s.pcmd part = 2 → getBits (s.reg64 (descAddr part 0x78)) 3 3 = 0 →
      ∃ t, exec (.registerWrite (descAddr part 0x78) v) s = .next t ∧ t.pcmd part = 2 ∧ t.asked part (v.toNat % 8) = true ∧ t = { s with dev := t.dev }) ∧
    (1 ≤ v.toNat % 16 → v.toNat % 16 ≤ 3 → s.fwcmd = none →
      ∃ t, exec (.registerWrite (vfAddr 32 0x1010) v) s = .next t ∧ t.fwcmd = some (v.toNat % 16, v.toNat / 2 ^ 8 % 16) ∧ t = { s with dev := t.dev }) ∧
    ((v.toNat % 4 = 0 ∨ v.toNat % 4 = 3) → exec (.registerWrite (vfAddr part 0x58) v) s = .next (s.setReg64 (vfAddr part 0x60) 1)) ∧
    (∀ a, regMasks a = none → exec (.registerWrite a v) s = .next s))

/-- CREATE, RESIZE, DESTROY, RELEASE, RESUME_STRAND and KILL (R142, R145, R229, R403, R413, R414, R417, R418, R420, R422, R431, R434). A
CREATE in progress on an inactive partition whose NEXT is admissible makes NEXT the descriptor, with STATE active and BUSY clear; it is
refused with PERR otherwise. A RESIZE adds what NEXT adds, goes round by round and, when nothing that it removes is left, makes NEXT the
descriptor with STATE active (or still frozen); a command taken beside it is then in progress alone. DESTROY, also one beside a RESIZE,
ends the partition: its descriptor reads 0, it is inactive and holds no node. RELEASE resumes a frozen strand, drops the command that
froze a queue and clears the queue, and thaws the VF: STATE is active again. A FACT that names the standing record of a suspended strand,
or of a stopped command, resumes it or kills it; one that names none, or a record of another kind, sets FERR. STATE 2 or 1 after a RELEASE
in a RESIZE, the STATE 3 that a frozen VF keeps through one, the command held beside it and what DESTROY leaves are readings of the model:
log 32. -/
def Obligations.PartitionCommandsComplete : Prop :=
  (∀ (part : Nat) (s : State),
    (s.pcmd part ≠ 1 → exec (.create part) s = .next s) ∧ (s.pcmd part ≠ 2 → exec (.resize part) s = .next s) ∧
    (s.asked part 3 = false → exec (.destroy part) s = .next s) ∧ (s.asked part 4 = false → exec (.release part) s = .next s)) ∧
  (∀ (part : Nat) (s : State), s.pcmd part = 1 →
    ((s.partState part ≠ 0 ∨ s.nextOk part = false) → ∃ t, exec (.create part) s = .next t ∧ (t.reg64 (descAddr part 0)).getLsbD 19 = true ∧
      t.pcmd part = getBits (s.reg64 (descAddr part 0x78)) 3 3 ∧
      t.partState part = s.partState part ∧ t = { s with dev := t.dev }) ∧
    (s.partState part = 0 → s.nextOk part = true → ∃ t, exec (.create part) s = .next t ∧ t = s.createPart part ∧ t.partState part = 1 ∧ t.pcmd part = 0 ∧
      ∀ o ∈ [0x08, 0x10, 0x18, 0x20, 0x28], t.cur part o = s.nextDesc part o)) ∧
  (∀ (part : Nat) (s : State), s.pcmd part = 2 →
    (s.resizing part = false → (s.partState part = 0 ∨ s.nextOk part = false) → exec (.resize part) s = .next (s.refusePcmd part)) ∧
    (s.resizing part = false → s.partState part ≠ 0 → s.nextOk part = true → exec (.resize part) s = .next ((s.addNext part).workResize part) ∧
      (s.addNext part).partState part = (if s.partState part = 3 then 3 else 2) ∧ (s.addNext part).resizing part = true ∧
      ∀ o ∈ [0x08, 0x10, 0x18, 0x20], (s.addNext part).cur part o = s.cur part o ||| s.nextDesc part o) ∧
    (s.resizing part = true → exec (.resize part) s = .next (s.workResize part) ∧
      (s.cur part 0x08 &&& ~~~(s.nextDesc part 0x08) = 0 → s.partMeets part (s.inLostBand part) = false →
        ∃ t, exec (.resize part) s = .next t ∧ t.pcmd part = getBits (s.reg64 (descAddr part 0x78)) 3 3 ∧ t.partState part = (if s.partState part = 3 then 3 else 1) ∧
          (∀ o ∈ [0x08, 0x10, 0x18, 0x20, 0x28], t.cur part o = s.nextLeft part o) ∧
          ((∀ k < 32, (s.nextDesc part 0x08).getLsbD k = true → s.clusterState k ≠ 2) →
            (∀ b < 64, (s.nextDesc part 0x10).getLsbD b = true → b ∈ s.badBands → (s.cur part 0x10).getLsbD b = true) →
            ∀ o ∈ [0x08, 0x10, 0x18, 0x20, 0x28], t.cur part o = s.nextDesc part o)))) ∧
  (∀ (part : Nat) (s : State), s.asked part 3 = true →
    (s.partState part = 0 → exec (.destroy part) s = .next (s.refusePcmd part)) ∧
    (s.partState part ≠ 0 → ∃ t, exec (.destroy part) s = .next t ∧ t.partState part = 0 ∧ t.pcmd part = 0 ∧ (∀ n ∈ t.nodes, n.part ≠ part) ∧
      ∀ o ∈ [0x08, 0x10, 0x18, 0x20, 0x28], t.cur part o = 0)) ∧
  (∀ (part : Nat) (s : State), s.asked part 4 = true →
    let mine := s.strands.filter fun u => u.live && decide (u.part = part)
    let cmds := s.cmds.filter fun c => c.part = part
    exec (.release part) s = .next (s.releasePart part) ∧
    (mine = [] → cmds = [] → s.partState part ≠ 3 → s.releasePart part = s.endOp part 4) ∧
    (s.partState part = 3 → mine = [] → cmds = [] → (s.releasePart part).partState part = (if s.resizing part then 2 else 1)) ∧
    (s.partState part ≠ 3 → cmds = [] → ∀ u q, mine = [u] → s.strandAt u.place = some u → u.run = .frozen q → ((s.releasePart part).strandAt u.place) =
      some (u.resumeAt (match s.records.find? fun r => r.ring = part && r.seq = q && r.pending with | some r => r.words.getD 5 0 | none => 0))) ∧
    (s.partState part ≠ 3 → mine = [] → ∀ c, cmds = [c] → s.froze c = true → (s.releasePart part).frozenQ = setErase c.queue s.frozenQ ∧
      ∀ x ∈ (s.releasePart part).cmds, x.id = c.id → x.phase = .dropped)) ∧
  (∀ (part seq : Nat) (s : State), part < 32 → standing s part seq = none →
    exec (.resumeStrand part seq) s = .next (s.setReg64 (vfAddr part 0x60) 1) ∧ exec (.kill part seq) s = .next (s.setReg64 (vfAddr part 0x60) 1)) ∧
  (∀ (part seq : Nat) (s : State) (r : Record), part < 32 → standing s part seq = some r →
    (∀ p u, r.kind = 0 → r.place = some p → s.strandAt p = some u → u.run = .suspended seq →
      exec (.resumeStrand part seq) s = .next ((acted s part seq).updateAt p fun x => x.resumeAt (r.words.getD 5 0)) ∧
      exec (.kill part seq) s = .next (((acted s part seq).drainAll (coreOf p)).endStrand p .zero (some (r.words.getD 2 0)))) ∧
    (∀ p u, r.kind = 0 → r.place = some p → s.strandAt p = some u → u.run ≠ .suspended seq →
      exec (.resumeStrand part seq) s = .next (s.setReg64 (vfAddr part 0x60) 1) ∧ exec (.kill part seq) s = .next (s.setReg64 (vfAddr part 0x60) 1)) ∧
    (∀ c, r.kind = 1 → (s.cmds.find? fun c => some c.id = r.cmd && c.phase = .faulted seq) = some c →
      exec (.resumeStrand part seq) s = .next ((acted s part seq).setCmd
        { c with phase := if c.whole then .performed else if c.queue < 24 then .queued else .running, whole := false }) ∧
      exec (.kill part seq) s = .next (((acted s part seq).stopCmd c .dropped).markNode part c.node 2 5)) ∧
    (r.kind ≠ 0 → r.kind ≠ 1 →
      exec (.resumeStrand part seq) s = .next (s.setReg64 (vfAddr part 0x60) 1) ∧ exec (.kill part seq) s = .next (s.setReg64 (vfAddr part 0x60) 1)))

/-- The host's requests, other devices and the links (R115, R294, R316, R347, R396, R405, R407, R412, R421, R427, R429, R431). A HOST_WRITE
whose bytes the function may reach stores them, in registers by the register rules, in memory as they are with their lines tarnished while
a kernel is pending and a line covered whole poisoned no longer; HOST_READ answers with the bytes, a poisoned one with none, and changes
nothing else; a request outside the partition's ranges freezes its VF, a frozen VF completes nothing, and one to a locked page waits. A
FABRIC_REQUEST reads, writes, or does an unordered atomic whose reply is the old value, on a naturally aligned sound operand in memory;
one outside the ranges brings no reply. A good FLIT in sequence is received and acknowledges, any other is discarded; FLIT_REPLAY empties
the buffer up to the number reported, and packets that waited for room are sent; HEARTBEAT sends one flit with its numbers and a right CRC
while there is room; LINK_RECALIBRATION marks its lane. A timeout or an error flit marks a device failed and the news is flooded over all
links, once; DEVFAIL does the same and quiesces the launches the device is in, during a FWSWITCH when that has ended. Bytes of HBM are
read through a request and a CRC check, and a part of a block whose metadata is lost is not written. The op numbers of a FABRIC_REQUEST,
its empty reply where refused and that writes from outside clear no tarnish are readings of the model (log 35), the heartbeat and DEVFAIL
bytes free values (log 9), and an event whose conditions fail leaves the state as it is (log 11). -/
def Obligations.HostAndFabricComplete : Prop :=
  (∀ (part addr : Nat) (data : List (BitVec 8)) (s : State),
    (HostMay s part addr data.length → s.regWaits addr data.length = true → exec (.hostWrite part addr data) s = .next s) ∧
    (HostMay s part addr data.length → s.regWaits addr data.length = false →
      ((regionOf addr).isCtl = true → exec (.hostWrite part addr data) s = .next (s.outsideRegs (decide (part = 32)) addr data)) ∧
      ((regionOf addr).isCtl = false → s.metaGone addr = true → 0 < data.length → data.length < 256 → addr % 256 + data.length ≤ 256 →
        exec (.hostWrite part addr data) s = .next (s.loseBlock (addr / 256 * 256))) ∧
      ((regionOf addr).isCtl = false → s.upsets = [] → s.flips = [] → ∃ t, exec (.hostWrite part addr data) s = .next t ∧
        t.mem = Mem.put s.mem addr data ∧ t.strand.sregs = s.strand.sregs ∧ (∀ a, (a < stackBase ∨ apertureTable ≤ a) → t.reg64 a = s.reg64 a) ∧
        (∀ l, l ∈ t.tarn ↔ l ∈ s.tarn ∨ (s.kernelPending part = true ∧ l ∈ linesOf addr data.length)) ∧
        ∀ l, l ∈ t.poison ↔ l ∈ s.poison ∧ ¬ (l ∈ linesOf addr data.length ∧ addr ≤ l * 64 ∧ l * 64 + 64 ≤ addr + data.length))) ∧
    (part < 32 → s.partState part = 3 → exec (.hostWrite part addr data) s = .next s) ∧
    (part < 32 → s.partState part ≠ 3 → (∃ i < data.length, s.hostReaches part (addr + i) = false) → exec (.hostWrite part addr data) s = .next (s.vfViolation part addr)) ∧
    (part ≤ 32 → (part ≠ 32 → s.partState part ≠ 3) → (∀ i < data.length, s.hostReaches part (addr + i) = true) → s.rangeLocked addr data.length = true →
      exec (.hostWrite part addr data) s = .next s)) ∧
  (∀ (part addr len : Nat) (s : State),
    (HostMay s part addr len →
      let u := if (regionOf addr).isCtl then s else s.reachRange addr len false
      let seen := fun (i : Nat) => if (regionOf (addr + i)).isCtl then some (u.regByte (addr + i))
        else if u.poison.contains (lineOf (addr + i)) then none else some (Mem.read u.mem (addr + i))
      exec (.hostRead part addr len) s = .next { u with reply := (List.range len).map seen } ∧ (s.flips = [] → OnlyStacks s u)) ∧
    (part ≤ 32 → (part ≠ 32 → s.partState part ≠ 3) → (∀ i < len, s.hostReaches part (addr + i) = true) → s.rangeLocked addr len = true →
      exec (.hostRead part addr len) s = .next s) ∧
    (part < 32 → s.partState part = 3 → exec (.hostRead part addr len) s = .next { s with reply := [] }) ∧
    (part < 32 → s.partState part ≠ 3 → (∃ i < len, s.hostReaches part (addr + i) = false) →
      exec (.hostRead part addr len) s = .next { s.vfViolation part addr with reply := [] })) ∧
  (∀ (part addr op : Nat) (data : List (BitVec 8)) (s : State), part < 32 → op ≤ 13 →
    ((∃ i < requestLen op data, s.hostReaches part (addr + i) = false) → exec (.fabricRequest part addr op data) s = .next { s with reply := [] }) ∧
    ((∀ i < requestLen op data, s.hostReaches part (addr + i) = true) → s.rangeLocked addr (requestLen op data) = true →
      exec (.fabricRequest part addr op data) s = .next s) ∧
    ((∀ i < requestLen op data, s.hostReaches part (addr + i) = true) → s.rangeLocked addr (requestLen op data) = false →
      let u := if (regionOf addr).isCtl then s else s.reachRange addr (requestLen op data) false
      (op = 0 → exec (.fabricRequest part addr op data) s = .next { u with reply := (List.range data.length).map fun i => u.outsideByte (addr + i) }) ∧
      (s.flips = [] → OnlyStacks s u) ∧
      (op = 1 → s.regWaits addr data.length = true → exec (.fabricRequest part addr op data) s = .next s) ∧
      (op = 1 → (regionOf addr).isCtl = false → s.upsets = [] → s.flips = [] → ∃ t, exec (.fabricRequest part addr op data) s = .next t ∧ t.mem = Mem.put s.mem addr data ∧ t.tarn = s.tarn ∧ t.reply = []) ∧
      (op = 1 → s.regWaits addr data.length = false → (regionOf addr).isCtl = true → exec (.fabricRequest part addr op data) s = .next { s.outsideRegs false addr data with reply := [] }) ∧
      (∀ row ∈ amoRows, requestAmo op = some row.2.2.1 → let z := amoSize row.2.2.1
        let m := Mem.readLE u.mem addr z
        let o := BitVec.ofNat 64 (leNat ((if row.2.2.1 = .cas then data.drop 8 else data).take z))
        (((regionOf addr).isCtl = true ∨ addr % z ≠ 0 ∨ u.poison.contains (lineOf addr) = true) →
          exec (.fabricRequest part addr op data) s = .next { u with reply := [] }) ∧
        ((regionOf addr).isCtl = false → addr % z = 0 → u.poison.contains (lineOf addr) = false → u.upsets = [] → u.flips = [] →
          ∃ t, exec (.fabricRequest part addr op data) s = .next t ∧ t.reply = (leBytes z m).map some ∧ lineOf addr ∈ t.tarn ∧
            t.mem = Mem.put u.mem addr (leBytes z (row.2.2.2 (BitVec.ofNat 64 m) o (BitVec.ofNat 64 (leNat (data.take 8)))).toNat))))) ∧
  (∀ (link : Nat) (s : State), link < 16 → let l := s.link link
    (∀ data, flitOk data = true → flitSeq data = l.good + 1 → exec (.flit link data) s =
      .next (s.setLink (linkSent { l with good := l.good + 1, received := l.received ++ [(data.drop 4).take 248] } (unreceived l (flitAck data)) l.waiting))) ∧
    (∀ data, (flitOk data = false ∨ flitSeq data ≠ l.good + 1) → exec (.flit link data) s = .next s) ∧
    (∀ seq, exec (.flitReplay link seq) s = .next (s.setLink (linkSent l (unreceived l seq) l.waiting))) ∧
    (l.replay.length < 1024 → exec (.heartbeat link) s =
      .next (s.setLink (linkSent { l with beats := l.beats + 1 } l.replay (l.waiting ++ [(List.range 248).map (Config.heartbeatByte link)])))) ∧
    (1024 ≤ l.replay.length → exec (.heartbeat link) s = .next s) ∧
    (∀ lane, exec (.linkRecalibration link lane) s = .next (s.setLink { l with recal := lane })) ∧
    (∀ x : Link, x.id = link → (s.setLink x).link link = x)) ∧
  (∀ (seq ack : BitVec 12) (p : List (BitVec 8)), p.length = 248 →
    flitOk (makeFlit seq ack p) = true ∧ flitSeq (makeFlit seq ack p) = seq ∧ flitAck (makeFlit seq ack p) = ack) ∧
  (∀ (dev : Nat) (s : State),
    (dev ∈ s.failed → ∀ i ∈ [Instr.heartbeatTimeout dev, Instr.fatalErrorFlit dev], exec i s = .next s) ∧
    (dev ∉ s.failed → ∀ i ∈ [Instr.heartbeatTimeout dev, Instr.fatalErrorFlit dev], ∃ t, exec i s = .next t ∧ t = { s with failed := t.failed, links := t.links } ∧
      (∀ d, d ∈ t.failed ↔ d ∈ s.failed ∨ d = dev) ∧
      ∀ k < 16, t.link k = linkSent (s.link k) (s.link k).replay ((s.link k).waiting ++ [(List.range 248).map (Config.devfailByte k dev)])) ∧
    ∃ v u, exec (.fatalErrorFlit dev) s = .next v ∧ exec (.devFail dev) s = .next u ∧ dev ∈ v.failed ∧
      (v.switching = true → u = { v with devfail := setInsert dev v.devfail }) ∧
      (v.switching = false → u = (v.launches.filter fun l => l.devs.contains dev).foldl State.quiesce v))

/-- Firmware, the chronograph, attestation, the debug port, power and resets (R423, R424, R425, R426, R427, R428, R429, R430, R431, R432). A
FWLOAD in progress verifies its image: it ends with the RESULT of the first failing check, or with 0 and the image in the inactive slot. A
FWSWITCH without an image there ends with 7. Else each unit of the component switches when it can; while some has still to, the step
happens again; when every one has, the slot changes and the RESULT is 0; an image that does not start leaves the slot, with RESULT 6 and a
kind-8 record of the PF. A DEVFAIL that waited for the switch takes its effect with its end. CHREXP writes the export. GET_CERTIFICATE,
CHALLENGE and GET_MEASUREMENTS of a function reply with one message of SPDM in a DOE object, whose framing is taken from the standards
(log 27), and DEBUG_READ with bytes, tags or marks; they change nothing else but the counter of free values. CONT lets the stopped strand
go on. THERMAL_THROTTLE takes one step of the clock, FATAL_SHUTDOWN freezes the chronograph, floods a fatal-error flit and takes the
device down, POWER_UP makes it ready. A cold reset is the reset state with the firmware slots and the non-volatile configuration; a warm
one keeps memory, its marks, the chronograph and what is retired as well (the model's reading, log 28). The certificate chain, the
transcripts signed and the fatal-error packet are free values (log 9); how FWCMD's step performs and in what order FWLOAD checks is a
reading (log 32), and so is DEBUG_READ's partition argument (log 27). -/
def Obligations.ServiceAndResetsComplete : Prop :=
  (∀ (comp : Nat) (s : State), s.fwcmd = some (1, comp) → s.devfail = [] →
    let u := s.reachRange s.fwAddr (min s.fwLen (256 + leNat (Mem.bytes s.mem (s.fwAddr + 16) 8))) false
    (s.flips = [] → OnlyStacks s u) ∧
    (∀ e, u.verify comp = .error e → ∃ t, exec (.fwLoad comp) s = .next t ∧ FwEnded s t e ∧ t.fw = s.fw ∧ t.mem = u.mem) ∧
    (∀ i, u.verify comp = .ok i → i.slot = 1 - s.activeSlot comp ∧ ∃ t, exec (.fwLoad comp) s = .next t ∧ FwEnded s t 0 ∧ t.image comp i.slot = some i ∧ t.mem = u.mem)) ∧
  (∀ (comp : Nat) (s : State), s.fwcmd = some (2, comp) → 1 ≤ comp → comp ≤ 4 → s.devfail = [] →
    let units := List.range (switchUnits comp)
    let ready := units.filter fun u => s.switched.contains u || s.unitReady comp u
    ((s.image comp (1 - s.activeSlot comp)).isNone = true → ∀ b, ∃ t, exec (.fwSwitch comp b) s = .next t ∧ FwEnded s t 7 ∧ t.activeSlot comp = s.activeSlot comp) ∧
    ((s.image comp (1 - s.activeSlot comp)).isSome = true →
      (ready = s.switched → ∀ b, exec (.fwSwitch comp b) s = .next s) ∧
      (ready ≠ s.switched → ∃ t, exec (.fwSwitch comp false) s = .next t ∧ getBits (t.reg64 fwstat) 8 8 = 6 ∧ t.fwcmd = none ∧
        t.activeSlot comp = s.activeSlot comp ∧ ∃ r ∈ t.records, r.ring = 32 ∧ r.kind = 8) ∧
      (ready ≠ s.switched → ready.length < switchUnits comp → exec (.fwSwitch comp true) s = .next { s with switched := ready }) ∧
      (ready ≠ s.switched → ready = units → ∃ t, exec (.fwSwitch comp true) s = .next t ∧ FwEnded s t 0 ∧ t.activeSlot comp = 1 - s.activeSlot comp ∧ t.mem = s.mem))) ∧
  (∀ (comp : Nat) (b : Bool) (s u : State), s.fwcmd = some (2, comp) → exec (.fwSwitch comp b) { s with devfail := [] } = .next u → u.fwcmd = none →
    exec (.fwSwitch comp b) s = .next (s.devfail.foldl State.quiesceFor u)) ∧
  (∀ (c : Nat) (s : State), s.fwcmd = some (3, c) → s.devfail = [] →
    (fwAddrOk s.fwAddr = false → ∃ t, exec .chrExp s = .next t ∧ FwEnded s t 1) ∧
    (fwAddrOk s.fwAddr = true → s.fwLen < 524428 → ∃ t, exec .chrExp s = .next t ∧ FwEnded s t 5) ∧
    (fwAddrOk s.fwAddr = true → 524428 ≤ s.fwLen → s.upsets = [] → s.flips = [] → ∃ t, exec .chrExp s = .next t ∧ FwEnded s t 0 ∧ t.mem = Mem.put s.mem s.fwAddr s.chronExport)) ∧
  (∀ (fn : Nat) (nonce : List (BitVec 8)) (s : State), fn ≤ 32 →
    let said := fun (m : List Byte) => Host.Outcome.next (φ := Fault) (ρ := Refusal) { s with fresh := s.fresh + 1, reply := (doeObject m).map some }
    let m := challengeMsg s.fresh
    let r := s.measurementsMsg fn
    exec (.getCertificate fn) s = said (certificateMsg s.fresh) ∧
    exec (.challenge fn nonce) s = said (m ++ signed132 (Config.spdmTranscript fn nonce m)) ∧
    exec (.getMeasurements fn) s = said (r ++ signed132 (Config.spdmTranscript fn [] r)) ∧
    (certificateMsg s.fresh).drop 8 = Config.certificateChain.take 0xFFFF ∧ m.drop 4 = sha512 Config.certificateChain ++ spdmTail s.fresh ∧
    r.drop 8 = (s.measurements fn).flatten ++ spdmTail s.fresh ∧ (s.measurements fn).length = (if fn = 32 then 8 else 9) ∧
    ∀ c < 4, ∀ x < 2, (s.measurements fn).getD (2 * c + x) [] = measureBlock (2 * c + x + 1) 1 (match s.image (c + 1) x with
      | some f => f.hash ++ leBytes 4 f.version
      | none => (List.range 68).map fun i => (Config.emptyMeasure (c + 1) x).getD i 0)) ∧
  (∀ m : List (BitVec 8), (doeObject m).length % 4 = 0 ∧ ((doeObject m).drop 8).take m.length = m) ∧
  (∀ (part addr len : Nat) (s : State), ∃ t, exec (.debugRead part addr len) s = .next t ∧ t = { s with reply := t.reply } ∧
    (part < 64 → t.reply.length = len) ∧
    (part = 32 → addr + len ≤ 2 ^ 48 → ∀ i < len, t.reply.getD i none =
      some (if (regionOf (addr + i)).isCtl then s.regByte (addr + i) else Mem.read s.mem (addr + i))) ∧
    (part = 64 + 32 → addr + 8 * len ≤ 2 ^ 48 → ∀ i < len, (t.reply.drop (12 * i)).take 12 = (s.debugTag (addr + 8 * i)).map some) ∧
    (part = 128 + 32 → addr + 64 * len ≤ 2 ^ 48 → ∀ i < len, t.reply.getD i none = some (BitVec.ofNat 8
      ((if lineOf (addr + 64 * i) ∈ s.tarn then 1 else 0) + (if lineOf (addr + 64 * i) ∈ s.poison then 2 else 0)))) ∧
    (∀ x : Xl, part < 32 → len = 1 → addr < 2 ^ 52 → s.strand.part = part → s.strand.live = true → (s.translate s.strand.party addr .read).2 = .ok x →
      (regionOf x.key).isCtl = false → t.reply = [some (Mem.read s.mem x.key)])) ∧
  (∀ s : State,
    exec .cont s = .next (if s.halted then { s with halted := false, goOn := (s.strand.place, s.strand.pc) :: s.goOn } else s) ∧
    exec .thermalThrottle s = .next { s with throttle := min 15 (s.throttle + 1) } ∧
    (∃ t, exec .fatalShutdown s = .next t ∧ t.down = true ∧ t.powered = false ∧ (t.reg64 devst).getLsbD 4 = true ∧ (∀ b, b ≠ devst → t.reg64 b = s.reg64 b) ∧
      t.mem = s.mem ∧ t.chron = s.chron ∧
      ∀ k < 16, t.link k = linkSent (s.link k) (s.link k).replay ((s.link k).waiting ++ [(List.range 248).map (Config.fatalByte k)])) ∧
    (s.down = false → s.powered = false → ∃ t, exec .powerUp s = .next t ∧ t.powered = true ∧ (t.reg64 devst).getLsbD 0 = true ∧ (∀ b, b ≠ devst → t.reg64 b = s.reg64 b) ∧ t.mem = s.mem) ∧
    ((s.down = true ∨ s.powered = true) → exec .powerUp s = .next s) ∧
    (∃ t, exec .coldReset s = .next t ∧ t.strand = State.reset.strand ∧ t.parked = [] ∧ t.mem = State.reset.mem ∧ t.tarn = State.reset.tarn ∧ t.poison = State.reset.poison ∧
      t.chron = [] ∧ t.cmds = [] ∧ t.launches = [] ∧ t.fw = s.fw ∧ t.nonVolatile = s.nonVolatile ∧ t.cxl = s.nonVolatile ∧ t.down = false ∧ t.resetAt = s.ticks ∧ t.coldAt = s.ticks) ∧
    (∃ t, exec .warmReset s = .next t ∧ t.strand = State.reset.strand ∧ t.parked = [] ∧ t.mem = s.mem ∧ t.tarn = s.tarn ∧ t.poison = s.poison ∧ t.chron = s.chron ∧
      t.fw = s.fw ∧ t.nonVolatile = s.nonVolatile ∧ t.powered = s.powered ∧ t.retired = s.retired ∧ t.badBands = s.badBands ∧ t.reg64 devst = s.reg64 devst ∧
      t.cmds = [] ∧ t.launches = [] ∧ t.resetAt = s.ticks ∧ t.coldAt = s.coldAt ∧ ∀ c < 32, s.clusterState c = 2 → t.clusterState c = 2))
end

