-- ==== Sys2Proof/Laws/Encoding.lean ====
section
/-! SUPPORT. The fields of a packed word and the packing of a word's fields, per format: the encoder's round trip rests on these. -/

namespace Sys2Proof.Laws

/-- Every field of a word packed in format R reads back. -/
theorem packR_fields (op : BitVec 6) (d a b : BitVec 7) (fn : BitVec 5) :
    opF (packR op d a b fn) = op ∧ dF (packR op d a b fn) = d ∧ aF (packR op d a b fn) = a ∧ bF (packR op d a b fn) = b ∧ fnF (packR op d a b fn) = fn := by
  refine ⟨?_, ?_, ?_, ?_, ?_⟩
  · simp only [opF, packR]
    ext i hi
    simp only [BitVec.getElem_extractLsb', BitVec.getLsbD_append]
    interval_cases i <;> simp [BitVec.getLsbD_eq_getElem]
  · simp only [dF, packR]
    ext i hi
    simp only [BitVec.getElem_extractLsb', BitVec.getLsbD_append]
    interval_cases i <;> simp [BitVec.getLsbD_eq_getElem]
  · simp only [aF, packR]
    ext i hi
    simp only [BitVec.getElem_extractLsb', BitVec.getLsbD_append]
    interval_cases i <;> simp [BitVec.getLsbD_eq_getElem]
  · simp only [bF, packR]
    ext i hi
    simp only [BitVec.getElem_extractLsb', BitVec.getLsbD_append]
    interval_cases i <;> simp [BitVec.getLsbD_eq_getElem]
  · simp only [fnF, packR]
    ext i hi
    simp only [BitVec.getElem_extractLsb', BitVec.getLsbD_append]
    interval_cases i <;> simp [BitVec.getLsbD_eq_getElem]

/-- Every field of a word packed in format I or B reads back. -/
theorem packI_fields (op : BitVec 6) (d a : BitVec 7) (imm : BitVec 12) :
    opF (packI op d a imm) = op ∧ dF (packI op d a imm) = d ∧ aF (packI op d a imm) = a ∧ immF (packI op d a imm) = imm := by
  refine ⟨?_, ?_, ?_, ?_⟩
  · simp only [opF, packI]
    ext i hi
    simp only [BitVec.getElem_extractLsb', BitVec.getLsbD_append]
    interval_cases i <;> simp [BitVec.getLsbD_eq_getElem]
  · simp only [dF, packI]
    ext i hi
    simp only [BitVec.getElem_extractLsb', BitVec.getLsbD_append]
    interval_cases i <;> simp [BitVec.getLsbD_eq_getElem]
  · simp only [aF, packI]
    ext i hi
    simp only [BitVec.getElem_extractLsb', BitVec.getLsbD_append]
    interval_cases i <;> simp [BitVec.getLsbD_eq_getElem]
  · simp only [immF, packI]
    ext i hi
    simp only [BitVec.getElem_extractLsb', BitVec.getLsbD_append]
    interval_cases i <;> simp [BitVec.getLsbD_eq_getElem]

/-- Every field of a word packed in format I of SHI reads back. -/
theorem packS_fields (op : BitVec 6) (d a : BitVec 7) (sel : BitVec 2) (amt : BitVec 6) :
    opF (packS op d a sel amt) = op ∧ dF (packS op d a sel amt) = d ∧ aF (packS op d a sel amt) = a ∧ shSelF (packS op d a sel amt) = sel ∧ shResF (packS op d a sel amt) = 0 ∧ amtF (packS op d a sel amt) = amt := by
  refine ⟨?_, ?_, ?_, ?_, ?_, ?_⟩
  · simp only [opF, packS]
    ext i hi
    simp only [BitVec.getElem_extractLsb', BitVec.getLsbD_append]
    interval_cases i <;> simp [BitVec.getLsbD_eq_getElem]
  · simp only [dF, packS]
    ext i hi
    simp only [BitVec.getElem_extractLsb', BitVec.getLsbD_append]
    interval_cases i <;> simp [BitVec.getLsbD_eq_getElem]
  · simp only [aF, packS]
    ext i hi
    simp only [BitVec.getElem_extractLsb', BitVec.getLsbD_append]
    interval_cases i <;> simp [BitVec.getLsbD_eq_getElem]
  · simp only [shSelF, packS]
    ext i hi
    simp only [BitVec.getElem_extractLsb', BitVec.getLsbD_append]
    interval_cases i <;> simp [BitVec.getLsbD_eq_getElem]
  · simp only [shResF, packS]
    ext i hi
    simp only [BitVec.getElem_extractLsb', BitVec.getLsbD_append]
    interval_cases i <;> simp [BitVec.getLsbD_eq_getElem]
  · simp only [amtF, packS]
    ext i hi
    simp only [BitVec.getElem_extractLsb', BitVec.getLsbD_append]
    interval_cases i <;> simp [BitVec.getLsbD_eq_getElem]

/-- Every field of a word packed in format U reads back. -/
theorem packU_fields (op : BitVec 6) (d : BitVec 7) (imm : BitVec 19) :
    opF (packU op d imm) = op ∧ dF (packU op d imm) = d ∧ imm19F (packU op d imm) = imm := by
  refine ⟨?_, ?_, ?_⟩
  · simp only [opF, packU]
    ext i hi
    simp only [BitVec.getElem_extractLsb', BitVec.getLsbD_append]
    interval_cases i <;> simp [BitVec.getLsbD_eq_getElem]
  · simp only [dF, packU]
    ext i hi
    simp only [BitVec.getElem_extractLsb', BitVec.getLsbD_append]
    interval_cases i <;> simp [BitVec.getLsbD_eq_getElem]
  · simp only [imm19F, packU]
    ext i hi
    simp only [BitVec.getElem_extractLsb', BitVec.getLsbD_append]
    interval_cases i <;> simp [BitVec.getLsbD_eq_getElem]

/-- Every field of a word packed in format M reads back. -/
theorem packM_fields (op : BitVec 6) (d a : BitVec 7) (sz : BitVec 3) (off : BitVec 9) :
    opF (packM op d a sz off) = op ∧ dF (packM op d a sz off) = d ∧ aF (packM op d a sz off) = a ∧ szF (packM op d a sz off) = sz ∧ off9F (packM op d a sz off) = off := by
  refine ⟨?_, ?_, ?_, ?_, ?_⟩
  · simp only [opF, packM]
    ext i hi
    simp only [BitVec.getElem_extractLsb', BitVec.getLsbD_append]
    interval_cases i <;> simp [BitVec.getLsbD_eq_getElem]
  · simp only [dF, packM]
    ext i hi
    simp only [BitVec.getElem_extractLsb', BitVec.getLsbD_append]
    interval_cases i <;> simp [BitVec.getLsbD_eq_getElem]
  · simp only [aF, packM]
    ext i hi
    simp only [BitVec.getElem_extractLsb', BitVec.getLsbD_append]
    interval_cases i <;> simp [BitVec.getLsbD_eq_getElem]
  · simp only [szF, packM]
    ext i hi
    simp only [BitVec.getElem_extractLsb', BitVec.getLsbD_append]
    interval_cases i <;> simp [BitVec.getLsbD_eq_getElem]
  · simp only [off9F, packM]
    ext i hi
    simp only [BitVec.getElem_extractLsb', BitVec.getLsbD_append]
    interval_cases i <;> simp [BitVec.getLsbD_eq_getElem]

/-- Every field of a word packed in format M of LDA and STL reads back. -/
theorem packA_fields (op : BitVec 6) (d a : BitVec 7) (sz sc : BitVec 3) (off : BitVec 6) :
    opF (packA op d a sz sc off) = op ∧ dF (packA op d a sz sc off) = d ∧ aF (packA op d a sz sc off) = a ∧ szF (packA op d a sz sc off) = sz ∧ scF (packA op d a sz sc off) = sc ∧ off6F (packA op d a sz sc off) = off := by
  refine ⟨?_, ?_, ?_, ?_, ?_, ?_⟩
  · simp only [opF, packA]
    ext i hi
    simp only [BitVec.getElem_extractLsb', BitVec.getLsbD_append]
    interval_cases i <;> simp [BitVec.getLsbD_eq_getElem]
  · simp only [dF, packA]
    ext i hi
    simp only [BitVec.getElem_extractLsb', BitVec.getLsbD_append]
    interval_cases i <;> simp [BitVec.getLsbD_eq_getElem]
  · simp only [aF, packA]
    ext i hi
    simp only [BitVec.getElem_extractLsb', BitVec.getLsbD_append]
    interval_cases i <;> simp [BitVec.getLsbD_eq_getElem]
  · simp only [szF, packA]
    ext i hi
    simp only [BitVec.getElem_extractLsb', BitVec.getLsbD_append]
    interval_cases i <;> simp [BitVec.getLsbD_eq_getElem]
  · simp only [scF, packA]
    ext i hi
    simp only [BitVec.getElem_extractLsb', BitVec.getLsbD_append]
    interval_cases i <;> simp [BitVec.getLsbD_eq_getElem]
  · simp only [off6F, packA]
    ext i hi
    simp only [BitVec.getElem_extractLsb', BitVec.getLsbD_append]
    interval_cases i <;> simp [BitVec.getLsbD_eq_getElem]

/-- Every field of a word packed in format J reads back. -/
theorem packJ_fields (op : BitVec 6) (off : BitVec 26) :
    opF (packJ op off) = op ∧ off26F (packJ op off) = off := by
  refine ⟨?_, ?_⟩
  · simp only [opF, packJ]
    ext i hi
    simp only [BitVec.getElem_extractLsb', BitVec.getLsbD_append]
    interval_cases i <;> simp [BitVec.getLsbD_eq_getElem]
  · simp only [off26F, packJ]
    ext i hi
    simp only [BitVec.getElem_extractLsb', BitVec.getLsbD_append]
    interval_cases i <;> simp [BitVec.getLsbD_eq_getElem]

/-- Every field of a word packed in format V reads back. -/
theorem packV_fields (op : BitVec 6) (d a b : BitVec 7) (ca cb mk : Bool) (fn : BitVec 2) :
    opF (packV op d a b ca cb mk fn) = op ∧ dF (packV op d a b ca cb mk fn) = d ∧ aF (packV op d a b ca cb mk fn) = a ∧ bF (packV op d a b ca cb mk fn) = b ∧ caF (packV op d a b ca cb mk fn) = ca ∧ cbF (packV op d a b ca cb mk fn) = cb ∧ mkF (packV op d a b ca cb mk fn) = mk ∧ vfF (packV op d a b ca cb mk fn) = fn := by
  refine ⟨?_, ?_, ?_, ?_, ?_, ?_, ?_, ?_⟩
  · simp only [opF, packV]
    ext i hi
    simp only [BitVec.getElem_extractLsb', BitVec.getLsbD_append]
    interval_cases i <;> simp [BitVec.getLsbD_eq_getElem]
  · simp only [dF, packV]
    ext i hi
    simp only [BitVec.getElem_extractLsb', BitVec.getLsbD_append]
    interval_cases i <;> simp [BitVec.getLsbD_eq_getElem]
  · simp only [aF, packV]
    ext i hi
    simp only [BitVec.getElem_extractLsb', BitVec.getLsbD_append]
    interval_cases i <;> simp [BitVec.getLsbD_eq_getElem]
  · simp only [bF, packV]
    ext i hi
    simp only [BitVec.getElem_extractLsb', BitVec.getLsbD_append]
    interval_cases i <;> simp [BitVec.getLsbD_eq_getElem]
  · simp only [caF, packV, BitVec.getLsbD_append, BitVec.getLsbD_ofBool]
    simp
  · simp only [cbF, packV, BitVec.getLsbD_append, BitVec.getLsbD_ofBool]
    simp
  · simp only [mkF, packV, BitVec.getLsbD_append, BitVec.getLsbD_ofBool]
    simp
  · simp only [vfF, packV]
    ext i hi
    simp only [BitVec.getElem_extractLsb', BitVec.getLsbD_append]
    interval_cases i <;> simp [BitVec.getLsbD_eq_getElem]

/-- A word is its fields of format R, packed. -/
theorem packR_of_fields (w : BitVec 32) : packR (opF w) (dF w) (aF w) (bF w) (fnF w) = w := by
  ext i hi
  simp only [packR, opF, dF, aF, bF, fnF, ← BitVec.getLsbD_eq_getElem, BitVec.getLsbD_append, BitVec.getLsbD_extractLsb']
  interval_cases i <;> simp

/-- A word is its fields of format I or B, packed. -/
theorem packI_of_fields (w : BitVec 32) : packI (opF w) (dF w) (aF w) (immF w) = w := by
  ext i hi
  simp only [packI, opF, dF, aF, immF, ← BitVec.getLsbD_eq_getElem, BitVec.getLsbD_append, BitVec.getLsbD_extractLsb']
  interval_cases i <;> simp

/-- A word is its fields of format U, packed. -/
theorem packU_of_fields (w : BitVec 32) : packU (opF w) (dF w) (imm19F w) = w := by
  ext i hi
  simp only [packU, opF, dF, imm19F, ← BitVec.getLsbD_eq_getElem, BitVec.getLsbD_append, BitVec.getLsbD_extractLsb']
  interval_cases i <;> simp

/-- A word is its fields of format M, packed. -/
theorem packM_of_fields (w : BitVec 32) : packM (opF w) (dF w) (aF w) (szF w) (off9F w) = w := by
  ext i hi
  simp only [packM, opF, dF, aF, szF, off9F, ← BitVec.getLsbD_eq_getElem, BitVec.getLsbD_append, BitVec.getLsbD_extractLsb']
  interval_cases i <;> simp

/-- A word is its fields of format M of LDA and STL, packed. -/
theorem packA_of_fields (w : BitVec 32) : packA (opF w) (dF w) (aF w) (szF w) (scF w) (off6F w) = w := by
  ext i hi
  simp only [packA, opF, dF, aF, szF, scF, off6F, ← BitVec.getLsbD_eq_getElem, BitVec.getLsbD_append, BitVec.getLsbD_extractLsb']
  interval_cases i <;> simp

/-- A word is its fields of format J, packed. -/
theorem packJ_of_fields (w : BitVec 32) : packJ (opF w) (off26F w) = w := by
  ext i hi
  simp only [packJ, opF, off26F, ← BitVec.getLsbD_eq_getElem, BitVec.getLsbD_append, BitVec.getLsbD_extractLsb']
  interval_cases i <;> simp

/-- A word is its fields of format V, packed. -/
theorem packV_of_fields (w : BitVec 32) : packV (opF w) (dF w) (aF w) (bF w) (caF w) (cbF w) (mkF w) (vfF w) = w := by
  ext i hi
  simp only [packV, opF, dF, aF, bF, caF, cbF, mkF, vfF, ← BitVec.getLsbD_eq_getElem, BitVec.getLsbD_append, BitVec.getLsbD_extractLsb', BitVec.getLsbD_ofBool]
  interval_cases i <;> simp

theorem decodeWord_01 (w : BitVec 32) (h : (opF w).toNat = 1) : decodeWord w = decode01 w := by unfold decodeWord; rw [h]; rfl
theorem decodeWord_02 (w : BitVec 32) (h : (opF w).toNat = 2) : decodeWord w = decode02 w := by unfold decodeWord; rw [h]; rfl
theorem decodeWord_03 (w : BitVec 32) (h : (opF w).toNat = 3) : decodeWord w = decode03 w := by unfold decodeWord; rw [h]; rfl
theorem decodeWord_04 (w : BitVec 32) (h : (opF w).toNat = 4) : decodeWord w = decode04 w := by unfold decodeWord; rw [h]; rfl
theorem decodeWord_05 (w : BitVec 32) (h : (opF w).toNat = 5) : decodeWord w = decode05 w := by unfold decodeWord; rw [h]; rfl
theorem decodeWord_06 (w : BitVec 32) (h : (opF w).toNat = 6) : decodeWord w = decode06 w := by unfold decodeWord; rw [h]; rfl
theorem decodeWord_07 (w : BitVec 32) (h : (opF w).toNat = 7) : decodeWord w = decode07 w := by unfold decodeWord; rw [h]; rfl
theorem decodeWord_08 (w : BitVec 32) (h : (opF w).toNat = 8) : decodeWord w = decode08 w := by unfold decodeWord; rw [h]; rfl
theorem decodeWord_09 (w : BitVec 32) (h : (opF w).toNat = 9) : decodeWord w = decode09 w := by unfold decodeWord; rw [h]; rfl
theorem decodeWord_0A (w : BitVec 32) (h : (opF w).toNat = 10) : decodeWord w = decode0A w := by unfold decodeWord; rw [h]; rfl
theorem decodeWord_0B (w : BitVec 32) (h : (opF w).toNat = 11) : decodeWord w = decode0B w := by unfold decodeWord; rw [h]; rfl
theorem decodeWord_0C (w : BitVec 32) (h : (opF w).toNat = 12) : decodeWord w = decode0C w := by unfold decodeWord; rw [h]; rfl
theorem decodeWord_0D (w : BitVec 32) (h : (opF w).toNat = 13) : decodeWord w = decode0D w := by unfold decodeWord; rw [h]; rfl
theorem decodeWord_0E (w : BitVec 32) (h : (opF w).toNat = 14) : decodeWord w = decode0E w := by unfold decodeWord; rw [h]; rfl
theorem decodeWord_0F (w : BitVec 32) (h : (opF w).toNat = 15) : decodeWord w = decode0F w := by unfold decodeWord; rw [h]; rfl
theorem decodeWord_10 (w : BitVec 32) (h : (opF w).toNat = 16) : decodeWord w = decode10 w := by unfold decodeWord; rw [h]; rfl
theorem decodeWord_11 (w : BitVec 32) (h : (opF w).toNat = 17) : decodeWord w = decode11 w := by unfold decodeWord; rw [h]; rfl
theorem decodeWord_12 (w : BitVec 32) (h : (opF w).toNat = 18) : decodeWord w = decode12 w := by unfold decodeWord; rw [h]; rfl
theorem decodeWord_13 (w : BitVec 32) (h : (opF w).toNat = 19) : decodeWord w = decode13 w := by unfold decodeWord; rw [h]; rfl
theorem decodeWord_14 (w : BitVec 32) (h : (opF w).toNat = 20) : decodeWord w = decode14 w := by unfold decodeWord; rw [h]; rfl
theorem decodeWord_15 (w : BitVec 32) (h : (opF w).toNat = 21) : decodeWord w = decode15 w := by unfold decodeWord; rw [h]; rfl
theorem decodeWord_16 (w : BitVec 32) (h : (opF w).toNat = 22) : decodeWord w = decode16 w := by unfold decodeWord; rw [h]; rfl
theorem decodeWord_17 (w : BitVec 32) (h : (opF w).toNat = 23) : decodeWord w = decode17 w := by unfold decodeWord; rw [h]; rfl
theorem decodeWord_18 (w : BitVec 32) (h : (opF w).toNat = 24) : decodeWord w = decode18 w := by unfold decodeWord; rw [h]; rfl
theorem decodeWord_19 (w : BitVec 32) (h : (opF w).toNat = 25) : decodeWord w = decode19 w := by unfold decodeWord; rw [h]; rfl
theorem decodeWord_1A (w : BitVec 32) (h : (opF w).toNat = 26) : decodeWord w = decode1A w := by unfold decodeWord; rw [h]; rfl
theorem decodeWord_1B (w : BitVec 32) (h : (opF w).toNat = 27) : decodeWord w = decode1B w := by unfold decodeWord; rw [h]; rfl
theorem decodeWord_1C (w : BitVec 32) (h : (opF w).toNat = 28) : decodeWord w = decode1C w := by unfold decodeWord; rw [h]; rfl
theorem decodeWord_1D (w : BitVec 32) (h : (opF w).toNat = 29) : decodeWord w = decode1D w := by unfold decodeWord; rw [h]; rfl
theorem decodeWord_1E (w : BitVec 32) (h : (opF w).toNat = 30) : decodeWord w = decode1E w := by unfold decodeWord; rw [h]; rfl
theorem decodeWord_1F (w : BitVec 32) (h : (opF w).toNat = 31) : decodeWord w = decode1F w := by unfold decodeWord; rw [h]; rfl
theorem decodeWord_20 (w : BitVec 32) (h : (opF w).toNat = 32) : decodeWord w = decode20 w := by unfold decodeWord; rw [h]; rfl
theorem decodeWord_21 (w : BitVec 32) (h : (opF w).toNat = 33) : decodeWord w = decode21 w := by unfold decodeWord; rw [h]; rfl
theorem decodeWord_22 (w : BitVec 32) (h : (opF w).toNat = 34) : decodeWord w = decode22 w := by unfold decodeWord; rw [h]; rfl
theorem decodeWord_23 (w : BitVec 32) (h : (opF w).toNat = 35) : decodeWord w = decode23 w := by unfold decodeWord; rw [h]; rfl
theorem decodeWord_24 (w : BitVec 32) (h : (opF w).toNat = 36) : decodeWord w = decode24 w := by unfold decodeWord; rw [h]; rfl
theorem decodeWord_25 (w : BitVec 32) (h : (opF w).toNat = 37) : decodeWord w = decode25 w := by unfold decodeWord; rw [h]; rfl
theorem decodeWord_26 (w : BitVec 32) (h : (opF w).toNat = 38) : decodeWord w = decode26 w := by unfold decodeWord; rw [h]; rfl
theorem decodeWord_27 (w : BitVec 32) (h : (opF w).toNat = 39) : decodeWord w = decode27 w := by unfold decodeWord; rw [h]; rfl
theorem decodeWord_28 (w : BitVec 32) (h : (opF w).toNat = 40) : decodeWord w = decode28 w := by unfold decodeWord; rw [h]; rfl
theorem decodeWord_29 (w : BitVec 32) (h : (opF w).toNat = 41) : decodeWord w = decode29 w := by unfold decodeWord; rw [h]; rfl
theorem decodeWord_2A (w : BitVec 32) (h : (opF w).toNat = 42) : decodeWord w = decode2A w := by unfold decodeWord; rw [h]; rfl
theorem decodeWord_2B (w : BitVec 32) (h : (opF w).toNat = 43) : decodeWord w = decode2B w := by unfold decodeWord; rw [h]; rfl
theorem decodeWord_2C (w : BitVec 32) (h : (opF w).toNat = 44) : decodeWord w = decode2C w := by unfold decodeWord; rw [h]; rfl
theorem decodeWord_2D (w : BitVec 32) (h : (opF w).toNat = 45) : decodeWord w = decode2D w := by unfold decodeWord; rw [h]; rfl
theorem decodeWord_2E (w : BitVec 32) (h : (opF w).toNat = 46) : decodeWord w = decode2E w := by unfold decodeWord; rw [h]; rfl
theorem decodeWord_30 (w : BitVec 32) (h : (opF w).toNat = 48) : decodeWord w = decode30 w := by unfold decodeWord; rw [h]; rfl
theorem decodeWord_31 (w : BitVec 32) (h : (opF w).toNat = 49) : decodeWord w = decode31 w := by unfold decodeWord; rw [h]; rfl
theorem decodeWord_32 (w : BitVec 32) (h : (opF w).toNat = 50) : decodeWord w = decode32 w := by unfold decodeWord; rw [h]; rfl
theorem decodeWord_33 (w : BitVec 32) (h : (opF w).toNat = 51) : decodeWord w = decode33 w := by unfold decodeWord; rw [h]; rfl
theorem decodeWord_34 (w : BitVec 32) (h : (opF w).toNat = 52) : decodeWord w = decode34 w := by unfold decodeWord; rw [h]; rfl
theorem decodeWord_35 (w : BitVec 32) (h : (opF w).toNat = 53) : decodeWord w = decode35 w := by unfold decodeWord; rw [h]; rfl
theorem decodeWord_36 (w : BitVec 32) (h : (opF w).toNat = 54) : decodeWord w = decode36 w := by unfold decodeWord; rw [h]; rfl
theorem decodeWord_37 (w : BitVec 32) (h : (opF w).toNat = 55) : decodeWord w = decode37 w := by unfold decodeWord; rw [h]; rfl
theorem decodeWord_38 (w : BitVec 32) (h : (opF w).toNat = 56) : decodeWord w = decode38 w := by unfold decodeWord; rw [h]; rfl
theorem decodeWord_39 (w : BitVec 32) (h : (opF w).toNat = 57) : decodeWord w = decode39 w := by unfold decodeWord; rw [h]; rfl
theorem decodeWord_3A (w : BitVec 32) (h : (opF w).toNat = 58) : decodeWord w = decode3A w := by unfold decodeWord; rw [h]; rfl
theorem decodeWord_3C (w : BitVec 32) (h : (opF w).toNat = 60) : decodeWord w = decode3C w := by unfold decodeWord; rw [h]; rfl

end Sys2Proof.Laws
end

