-- ==== Sys2Proof/Laws/State.lean ====
section
/-! SUPPORT. What each update of the state leaves in each field: one lemma per field per update, so that no later proof unfolds a record
update. -/

namespace Sys2Proof.Machine

/-! ## Updates of the machine -/

@[simp] theorem State.mapStrand_strand (x : State) (f : Strand → Strand) : (x.mapStrand f).strand = f x.strand := rfl
@[simp] theorem State.mapStrand_parked (x : State) (f : Strand → Strand) : (x.mapStrand f).parked = x.parked := rfl
@[simp] theorem State.mapStrand_agenda (x : State) (f : Strand → Strand) : (x.mapStrand f).agenda = x.agenda := rfl
@[simp] theorem State.mapStrand_fresh (x : State) (f : Strand → Strand) : (x.mapStrand f).fresh = x.fresh := rfl
@[simp] theorem State.mapStrand_ticks (x : State) (f : Strand → Strand) : (x.mapStrand f).ticks = x.ticks := rfl
@[simp] theorem State.mapStrand_resetAt (x : State) (f : Strand → Strand) : (x.mapStrand f).resetAt = x.resetAt := rfl
@[simp] theorem State.mapStrand_coldAt (x : State) (f : Strand → Strand) : (x.mapStrand f).coldAt = x.coldAt := rfl
@[simp] theorem State.mapStrand_mem (x : State) (f : Strand → Strand) : (x.mapStrand f).mem = x.mem := rfl
@[simp] theorem State.mapStrand_tarn (x : State) (f : Strand → Strand) : (x.mapStrand f).tarn = x.tarn := rfl
@[simp] theorem State.mapStrand_poison (x : State) (f : Strand → Strand) : (x.mapStrand f).poison = x.poison := rfl
@[simp] theorem State.mapStrand_dev (x : State) (f : Strand → Strand) : (x.mapStrand f).dev = x.dev := rfl
@[simp] theorem State.mapStrand_oldCode (x : State) (f : Strand → Strand) : (x.mapStrand f).oldCode = x.oldCode := rfl
@[simp] theorem State.mapStrand_tlb (x : State) (f : Strand → Strand) : (x.mapStrand f).tlb = x.tlb := rfl
@[simp] theorem State.mapStrand_guests (x : State) (f : Strand → Strand) : (x.mapStrand f).guests = x.guests := rfl
@[simp] theorem State.mapStrand_assay (x : State) (f : Strand → Strand) : (x.mapStrand f).assay = x.assay := rfl
@[simp] theorem State.mapStrand_resv (x : State) (f : Strand → Strand) : (x.mapStrand f).resv = x.resv := rfl
@[simp] theorem State.mapStrand_escrow (x : State) (f : Strand → Strand) : (x.mapStrand f).escrow = x.escrow := rfl
@[simp] theorem State.mapStrand_phases (x : State) (f : Strand → Strand) : (x.mapStrand f).phases = x.phases := rfl
@[simp] theorem State.mapStrand_barriers (x : State) (f : Strand → Strand) : (x.mapStrand f).barriers = x.barriers := rfl
@[simp] theorem State.mapStrand_cores (x : State) (f : Strand → Strand) : (x.mapStrand f).cores = x.cores := rfl
@[simp] theorem State.mapStrand_cmds (x : State) (f : Strand → Strand) : (x.mapStrand f).cmds = x.cmds := rfl
@[simp] theorem State.mapStrand_nextCmd (x : State) (f : Strand → Strand) : (x.mapStrand f).nextCmd = x.nextCmd := rfl
@[simp] theorem State.mapStrand_frozenQ (x : State) (f : Strand → Strand) : (x.mapStrand f).frozenQ = x.frozenQ := rfl
@[simp] theorem State.mapStrand_stored (x : State) (f : Strand → Strand) : (x.mapStrand f).stored = x.stored := rfl
@[simp] theorem State.mapStrand_ordStreams (x : State) (f : Strand → Strand) : (x.mapStrand f).ordStreams = x.ordStreams := rfl
@[simp] theorem State.mapStrand_ordEntries (x : State) (f : Strand → Strand) : (x.mapStrand f).ordEntries = x.ordEntries := rfl
@[simp] theorem State.mapStrand_queries (x : State) (f : Strand → Strand) : (x.mapStrand f).queries = x.queries := rfl
@[simp] theorem State.mapStrand_launches (x : State) (f : Strand → Strand) : (x.mapStrand f).launches = x.launches := rfl
@[simp] theorem State.mapStrand_nodes (x : State) (f : Strand → Strand) : (x.mapStrand f).nodes = x.nodes := rfl
@[simp] theorem State.mapStrand_held (x : State) (f : Strand → Strand) : (x.mapStrand f).held = x.held := rfl
@[simp] theorem State.mapStrand_records (x : State) (f : Strand → Strand) : (x.mapStrand f).records = x.records := rfl
@[simp] theorem State.mapStrand_hostHeld (x : State) (f : Strand → Strand) : (x.mapStrand f).hostHeld = x.hostHeld := rfl
@[simp] theorem State.mapStrand_msix (x : State) (f : Strand → Strand) : (x.mapStrand f).msix = x.msix := rfl
@[simp] theorem State.mapStrand_msixHeld (x : State) (f : Strand → Strand) : (x.mapStrand f).msixHeld = x.msixHeld := rfl
@[simp] theorem State.mapStrand_chipUnits (x : State) (f : Strand → Strand) : (x.mapStrand f).chipUnits = x.chipUnits := rfl
@[simp] theorem State.mapStrand_parity (x : State) (f : Strand → Strand) : (x.mapStrand f).parity = x.parity := rfl
@[simp] theorem State.mapStrand_upsets (x : State) (f : Strand → Strand) : (x.mapStrand f).upsets = x.upsets := rfl
@[simp] theorem State.mapStrand_flips (x : State) (f : Strand → Strand) : (x.mapStrand f).flips = x.flips := rfl
@[simp] theorem State.mapStrand_l1Errors (x : State) (f : Strand → Strand) : (x.mapStrand f).l1Errors = x.l1Errors := rfl
@[simp] theorem State.mapStrand_failures (x : State) (f : Strand → Strand) : (x.mapStrand f).failures = x.failures := rfl
@[simp] theorem State.mapStrand_compressed (x : State) (f : Strand → Strand) : (x.mapStrand f).compressed = x.compressed := rfl
@[simp] theorem State.mapStrand_locked (x : State) (f : Strand → Strand) : (x.mapStrand f).locked = x.locked := rfl
@[simp] theorem State.mapStrand_stalled (x : State) (f : Strand → Strand) : (x.mapStrand f).stalled = x.stalled := rfl
@[simp] theorem State.mapStrand_migrate (x : State) (f : Strand → Strand) : (x.mapStrand f).migrate = x.migrate := rfl
@[simp] theorem State.mapStrand_retired (x : State) (f : Strand → Strand) : (x.mapStrand f).retired = x.retired := rfl
@[simp] theorem State.mapStrand_badBands (x : State) (f : Strand → Strand) : (x.mapStrand f).badBands = x.badBands := rfl
@[simp] theorem State.mapStrand_scrubs (x : State) (f : Strand → Strand) : (x.mapStrand f).scrubs = x.scrubs := rfl
@[simp] theorem State.mapStrand_links (x : State) (f : Strand → Strand) : (x.mapStrand f).links = x.links := rfl
@[simp] theorem State.mapStrand_failed (x : State) (f : Strand → Strand) : (x.mapStrand f).failed = x.failed := rfl
@[simp] theorem State.mapStrand_devfail (x : State) (f : Strand → Strand) : (x.mapStrand f).devfail = x.devfail := rfl
@[simp] theorem State.mapStrand_fw (x : State) (f : Strand → Strand) : (x.mapStrand f).fw = x.fw := rfl
@[simp] theorem State.mapStrand_switched (x : State) (f : Strand → Strand) : (x.mapStrand f).switched = x.switched := rfl
@[simp] theorem State.mapStrand_chron (x : State) (f : Strand → Strand) : (x.mapStrand f).chron = x.chron := rfl
@[simp] theorem State.mapStrand_powered (x : State) (f : Strand → Strand) : (x.mapStrand f).powered = x.powered := rfl
@[simp] theorem State.mapStrand_throttle (x : State) (f : Strand → Strand) : (x.mapStrand f).throttle = x.throttle := rfl
@[simp] theorem State.mapStrand_down (x : State) (f : Strand → Strand) : (x.mapStrand f).down = x.down := rfl
@[simp] theorem State.mapStrand_breaks (x : State) (f : Strand → Strand) : (x.mapStrand f).breaks = x.breaks := rfl
@[simp] theorem State.mapStrand_halted (x : State) (f : Strand → Strand) : (x.mapStrand f).halted = x.halted := rfl
@[simp] theorem State.mapStrand_goOn (x : State) (f : Strand → Strand) : (x.mapStrand f).goOn = x.goOn := rfl
@[simp] theorem State.mapStrand_reply (x : State) (f : Strand → Strand) : (x.mapStrand f).reply = x.reply := rfl
@[simp] theorem State.mapStrand_nonVolatile (x : State) (f : Strand → Strand) : (x.mapStrand f).nonVolatile = x.nonVolatile := rfl

@[simp] theorem State.setReg64_strand (x : State) (a : Nat) (v : Word) : (x.setReg64 a v).strand = x.strand := rfl
@[simp] theorem State.setReg64_parked (x : State) (a : Nat) (v : Word) : (x.setReg64 a v).parked = x.parked := rfl
@[simp] theorem State.setReg64_agenda (x : State) (a : Nat) (v : Word) : (x.setReg64 a v).agenda = x.agenda := rfl
@[simp] theorem State.setReg64_fresh (x : State) (a : Nat) (v : Word) : (x.setReg64 a v).fresh = x.fresh := rfl
@[simp] theorem State.setReg64_ticks (x : State) (a : Nat) (v : Word) : (x.setReg64 a v).ticks = x.ticks := rfl
@[simp] theorem State.setReg64_resetAt (x : State) (a : Nat) (v : Word) : (x.setReg64 a v).resetAt = x.resetAt := rfl
@[simp] theorem State.setReg64_coldAt (x : State) (a : Nat) (v : Word) : (x.setReg64 a v).coldAt = x.coldAt := rfl
@[simp] theorem State.setReg64_mem (x : State) (a : Nat) (v : Word) : (x.setReg64 a v).mem = x.mem := rfl
@[simp] theorem State.setReg64_tarn (x : State) (a : Nat) (v : Word) : (x.setReg64 a v).tarn = x.tarn := rfl
@[simp] theorem State.setReg64_poison (x : State) (a : Nat) (v : Word) : (x.setReg64 a v).poison = x.poison := rfl
@[simp] theorem State.setReg64_dev (x : State) (a : Nat) (v : Word) : (x.setReg64 a v).dev = devSet x.dev a v := rfl
@[simp] theorem State.setReg64_oldCode (x : State) (a : Nat) (v : Word) : (x.setReg64 a v).oldCode = x.oldCode := rfl
@[simp] theorem State.setReg64_tlb (x : State) (a : Nat) (v : Word) : (x.setReg64 a v).tlb = x.tlb := rfl
@[simp] theorem State.setReg64_guests (x : State) (a : Nat) (v : Word) : (x.setReg64 a v).guests = x.guests := rfl
@[simp] theorem State.setReg64_assay (x : State) (a : Nat) (v : Word) : (x.setReg64 a v).assay = x.assay := rfl
@[simp] theorem State.setReg64_resv (x : State) (a : Nat) (v : Word) : (x.setReg64 a v).resv = x.resv := rfl
@[simp] theorem State.setReg64_escrow (x : State) (a : Nat) (v : Word) : (x.setReg64 a v).escrow = x.escrow := rfl
@[simp] theorem State.setReg64_phases (x : State) (a : Nat) (v : Word) : (x.setReg64 a v).phases = x.phases := rfl
@[simp] theorem State.setReg64_barriers (x : State) (a : Nat) (v : Word) : (x.setReg64 a v).barriers = x.barriers := rfl
@[simp] theorem State.setReg64_cores (x : State) (a : Nat) (v : Word) : (x.setReg64 a v).cores = x.cores := rfl
@[simp] theorem State.setReg64_cmds (x : State) (a : Nat) (v : Word) : (x.setReg64 a v).cmds = x.cmds := rfl
@[simp] theorem State.setReg64_nextCmd (x : State) (a : Nat) (v : Word) : (x.setReg64 a v).nextCmd = x.nextCmd := rfl
@[simp] theorem State.setReg64_frozenQ (x : State) (a : Nat) (v : Word) : (x.setReg64 a v).frozenQ = x.frozenQ := rfl
@[simp] theorem State.setReg64_stored (x : State) (a : Nat) (v : Word) : (x.setReg64 a v).stored = x.stored := rfl
@[simp] theorem State.setReg64_ordStreams (x : State) (a : Nat) (v : Word) : (x.setReg64 a v).ordStreams = x.ordStreams := rfl
@[simp] theorem State.setReg64_ordEntries (x : State) (a : Nat) (v : Word) : (x.setReg64 a v).ordEntries = x.ordEntries := rfl
@[simp] theorem State.setReg64_queries (x : State) (a : Nat) (v : Word) : (x.setReg64 a v).queries = x.queries := rfl
@[simp] theorem State.setReg64_launches (x : State) (a : Nat) (v : Word) : (x.setReg64 a v).launches = x.launches := rfl
@[simp] theorem State.setReg64_nodes (x : State) (a : Nat) (v : Word) : (x.setReg64 a v).nodes = x.nodes := rfl
@[simp] theorem State.setReg64_held (x : State) (a : Nat) (v : Word) : (x.setReg64 a v).held = x.held := rfl
@[simp] theorem State.setReg64_records (x : State) (a : Nat) (v : Word) : (x.setReg64 a v).records = x.records := rfl
@[simp] theorem State.setReg64_hostHeld (x : State) (a : Nat) (v : Word) : (x.setReg64 a v).hostHeld = x.hostHeld := rfl
@[simp] theorem State.setReg64_msix (x : State) (a : Nat) (v : Word) : (x.setReg64 a v).msix = x.msix := rfl
@[simp] theorem State.setReg64_msixHeld (x : State) (a : Nat) (v : Word) : (x.setReg64 a v).msixHeld = x.msixHeld := rfl
@[simp] theorem State.setReg64_chipUnits (x : State) (a : Nat) (v : Word) : (x.setReg64 a v).chipUnits = x.chipUnits := rfl
@[simp] theorem State.setReg64_parity (x : State) (a : Nat) (v : Word) : (x.setReg64 a v).parity = x.parity := rfl
@[simp] theorem State.setReg64_upsets (x : State) (a : Nat) (v : Word) : (x.setReg64 a v).upsets = x.upsets := rfl
@[simp] theorem State.setReg64_flips (x : State) (a : Nat) (v : Word) : (x.setReg64 a v).flips = x.flips := rfl
@[simp] theorem State.setReg64_l1Errors (x : State) (a : Nat) (v : Word) : (x.setReg64 a v).l1Errors = x.l1Errors := rfl
@[simp] theorem State.setReg64_failures (x : State) (a : Nat) (v : Word) : (x.setReg64 a v).failures = x.failures := rfl
@[simp] theorem State.setReg64_compressed (x : State) (a : Nat) (v : Word) : (x.setReg64 a v).compressed = x.compressed := rfl
@[simp] theorem State.setReg64_locked (x : State) (a : Nat) (v : Word) : (x.setReg64 a v).locked = x.locked := rfl
@[simp] theorem State.setReg64_stalled (x : State) (a : Nat) (v : Word) : (x.setReg64 a v).stalled = x.stalled := rfl
@[simp] theorem State.setReg64_migrate (x : State) (a : Nat) (v : Word) : (x.setReg64 a v).migrate = x.migrate := rfl
@[simp] theorem State.setReg64_retired (x : State) (a : Nat) (v : Word) : (x.setReg64 a v).retired = x.retired := rfl
@[simp] theorem State.setReg64_badBands (x : State) (a : Nat) (v : Word) : (x.setReg64 a v).badBands = x.badBands := rfl
@[simp] theorem State.setReg64_scrubs (x : State) (a : Nat) (v : Word) : (x.setReg64 a v).scrubs = x.scrubs := rfl
@[simp] theorem State.setReg64_links (x : State) (a : Nat) (v : Word) : (x.setReg64 a v).links = x.links := rfl
@[simp] theorem State.setReg64_failed (x : State) (a : Nat) (v : Word) : (x.setReg64 a v).failed = x.failed := rfl
@[simp] theorem State.setReg64_devfail (x : State) (a : Nat) (v : Word) : (x.setReg64 a v).devfail = x.devfail := rfl
@[simp] theorem State.setReg64_fw (x : State) (a : Nat) (v : Word) : (x.setReg64 a v).fw = x.fw := rfl
@[simp] theorem State.setReg64_switched (x : State) (a : Nat) (v : Word) : (x.setReg64 a v).switched = x.switched := rfl
@[simp] theorem State.setReg64_chron (x : State) (a : Nat) (v : Word) : (x.setReg64 a v).chron = x.chron := rfl
@[simp] theorem State.setReg64_powered (x : State) (a : Nat) (v : Word) : (x.setReg64 a v).powered = x.powered := rfl
@[simp] theorem State.setReg64_throttle (x : State) (a : Nat) (v : Word) : (x.setReg64 a v).throttle = x.throttle := rfl
@[simp] theorem State.setReg64_down (x : State) (a : Nat) (v : Word) : (x.setReg64 a v).down = x.down := rfl
@[simp] theorem State.setReg64_breaks (x : State) (a : Nat) (v : Word) : (x.setReg64 a v).breaks = x.breaks := rfl
@[simp] theorem State.setReg64_halted (x : State) (a : Nat) (v : Word) : (x.setReg64 a v).halted = x.halted := rfl
@[simp] theorem State.setReg64_goOn (x : State) (a : Nat) (v : Word) : (x.setReg64 a v).goOn = x.goOn := rfl
@[simp] theorem State.setReg64_reply (x : State) (a : Nat) (v : Word) : (x.setReg64 a v).reply = x.reply := rfl
@[simp] theorem State.setReg64_nonVolatile (x : State) (a : Nat) (v : Word) : (x.setReg64 a v).nonVolatile = x.nonVolatile := rfl

@[simp] theorem State.setField_strand (x : State) (a lo n v : Nat) : (x.setField a lo n v).strand = x.strand := rfl
@[simp] theorem State.setField_parked (x : State) (a lo n v : Nat) : (x.setField a lo n v).parked = x.parked := rfl
@[simp] theorem State.setField_agenda (x : State) (a lo n v : Nat) : (x.setField a lo n v).agenda = x.agenda := rfl
@[simp] theorem State.setField_fresh (x : State) (a lo n v : Nat) : (x.setField a lo n v).fresh = x.fresh := rfl
@[simp] theorem State.setField_ticks (x : State) (a lo n v : Nat) : (x.setField a lo n v).ticks = x.ticks := rfl
@[simp] theorem State.setField_resetAt (x : State) (a lo n v : Nat) : (x.setField a lo n v).resetAt = x.resetAt := rfl
@[simp] theorem State.setField_coldAt (x : State) (a lo n v : Nat) : (x.setField a lo n v).coldAt = x.coldAt := rfl
@[simp] theorem State.setField_mem (x : State) (a lo n v : Nat) : (x.setField a lo n v).mem = x.mem := rfl
@[simp] theorem State.setField_tarn (x : State) (a lo n v : Nat) : (x.setField a lo n v).tarn = x.tarn := rfl
@[simp] theorem State.setField_poison (x : State) (a lo n v : Nat) : (x.setField a lo n v).poison = x.poison := rfl
@[simp] theorem State.setField_dev (x : State) (a lo n v : Nat) : (x.setField a lo n v).dev = devSet x.dev a (setBits (x.reg64 a) lo n v) := rfl
@[simp] theorem State.setField_oldCode (x : State) (a lo n v : Nat) : (x.setField a lo n v).oldCode = x.oldCode := rfl
@[simp] theorem State.setField_tlb (x : State) (a lo n v : Nat) : (x.setField a lo n v).tlb = x.tlb := rfl
@[simp] theorem State.setField_guests (x : State) (a lo n v : Nat) : (x.setField a lo n v).guests = x.guests := rfl
@[simp] theorem State.setField_assay (x : State) (a lo n v : Nat) : (x.setField a lo n v).assay = x.assay := rfl
@[simp] theorem State.setField_resv (x : State) (a lo n v : Nat) : (x.setField a lo n v).resv = x.resv := rfl
@[simp] theorem State.setField_escrow (x : State) (a lo n v : Nat) : (x.setField a lo n v).escrow = x.escrow := rfl
@[simp] theorem State.setField_phases (x : State) (a lo n v : Nat) : (x.setField a lo n v).phases = x.phases := rfl
@[simp] theorem State.setField_barriers (x : State) (a lo n v : Nat) : (x.setField a lo n v).barriers = x.barriers := rfl
@[simp] theorem State.setField_cores (x : State) (a lo n v : Nat) : (x.setField a lo n v).cores = x.cores := rfl
@[simp] theorem State.setField_cmds (x : State) (a lo n v : Nat) : (x.setField a lo n v).cmds = x.cmds := rfl
@[simp] theorem State.setField_nextCmd (x : State) (a lo n v : Nat) : (x.setField a lo n v).nextCmd = x.nextCmd := rfl
@[simp] theorem State.setField_frozenQ (x : State) (a lo n v : Nat) : (x.setField a lo n v).frozenQ = x.frozenQ := rfl
@[simp] theorem State.setField_stored (x : State) (a lo n v : Nat) : (x.setField a lo n v).stored = x.stored := rfl
@[simp] theorem State.setField_ordStreams (x : State) (a lo n v : Nat) : (x.setField a lo n v).ordStreams = x.ordStreams := rfl
@[simp] theorem State.setField_ordEntries (x : State) (a lo n v : Nat) : (x.setField a lo n v).ordEntries = x.ordEntries := rfl
@[simp] theorem State.setField_queries (x : State) (a lo n v : Nat) : (x.setField a lo n v).queries = x.queries := rfl
@[simp] theorem State.setField_launches (x : State) (a lo n v : Nat) : (x.setField a lo n v).launches = x.launches := rfl
@[simp] theorem State.setField_nodes (x : State) (a lo n v : Nat) : (x.setField a lo n v).nodes = x.nodes := rfl
@[simp] theorem State.setField_held (x : State) (a lo n v : Nat) : (x.setField a lo n v).held = x.held := rfl
@[simp] theorem State.setField_records (x : State) (a lo n v : Nat) : (x.setField a lo n v).records = x.records := rfl
@[simp] theorem State.setField_hostHeld (x : State) (a lo n v : Nat) : (x.setField a lo n v).hostHeld = x.hostHeld := rfl
@[simp] theorem State.setField_msix (x : State) (a lo n v : Nat) : (x.setField a lo n v).msix = x.msix := rfl
@[simp] theorem State.setField_msixHeld (x : State) (a lo n v : Nat) : (x.setField a lo n v).msixHeld = x.msixHeld := rfl
@[simp] theorem State.setField_chipUnits (x : State) (a lo n v : Nat) : (x.setField a lo n v).chipUnits = x.chipUnits := rfl
@[simp] theorem State.setField_parity (x : State) (a lo n v : Nat) : (x.setField a lo n v).parity = x.parity := rfl
@[simp] theorem State.setField_upsets (x : State) (a lo n v : Nat) : (x.setField a lo n v).upsets = x.upsets := rfl
@[simp] theorem State.setField_flips (x : State) (a lo n v : Nat) : (x.setField a lo n v).flips = x.flips := rfl
@[simp] theorem State.setField_l1Errors (x : State) (a lo n v : Nat) : (x.setField a lo n v).l1Errors = x.l1Errors := rfl
@[simp] theorem State.setField_failures (x : State) (a lo n v : Nat) : (x.setField a lo n v).failures = x.failures := rfl
@[simp] theorem State.setField_compressed (x : State) (a lo n v : Nat) : (x.setField a lo n v).compressed = x.compressed := rfl
@[simp] theorem State.setField_locked (x : State) (a lo n v : Nat) : (x.setField a lo n v).locked = x.locked := rfl
@[simp] theorem State.setField_stalled (x : State) (a lo n v : Nat) : (x.setField a lo n v).stalled = x.stalled := rfl
@[simp] theorem State.setField_migrate (x : State) (a lo n v : Nat) : (x.setField a lo n v).migrate = x.migrate := rfl
@[simp] theorem State.setField_retired (x : State) (a lo n v : Nat) : (x.setField a lo n v).retired = x.retired := rfl
@[simp] theorem State.setField_badBands (x : State) (a lo n v : Nat) : (x.setField a lo n v).badBands = x.badBands := rfl
@[simp] theorem State.setField_scrubs (x : State) (a lo n v : Nat) : (x.setField a lo n v).scrubs = x.scrubs := rfl
@[simp] theorem State.setField_links (x : State) (a lo n v : Nat) : (x.setField a lo n v).links = x.links := rfl
@[simp] theorem State.setField_failed (x : State) (a lo n v : Nat) : (x.setField a lo n v).failed = x.failed := rfl
@[simp] theorem State.setField_devfail (x : State) (a lo n v : Nat) : (x.setField a lo n v).devfail = x.devfail := rfl
@[simp] theorem State.setField_fw (x : State) (a lo n v : Nat) : (x.setField a lo n v).fw = x.fw := rfl
@[simp] theorem State.setField_switched (x : State) (a lo n v : Nat) : (x.setField a lo n v).switched = x.switched := rfl
@[simp] theorem State.setField_chron (x : State) (a lo n v : Nat) : (x.setField a lo n v).chron = x.chron := rfl
@[simp] theorem State.setField_powered (x : State) (a lo n v : Nat) : (x.setField a lo n v).powered = x.powered := rfl
@[simp] theorem State.setField_throttle (x : State) (a lo n v : Nat) : (x.setField a lo n v).throttle = x.throttle := rfl
@[simp] theorem State.setField_down (x : State) (a lo n v : Nat) : (x.setField a lo n v).down = x.down := rfl
@[simp] theorem State.setField_breaks (x : State) (a lo n v : Nat) : (x.setField a lo n v).breaks = x.breaks := rfl
@[simp] theorem State.setField_halted (x : State) (a lo n v : Nat) : (x.setField a lo n v).halted = x.halted := rfl
@[simp] theorem State.setField_goOn (x : State) (a lo n v : Nat) : (x.setField a lo n v).goOn = x.goOn := rfl
@[simp] theorem State.setField_reply (x : State) (a lo n v : Nat) : (x.setField a lo n v).reply = x.reply := rfl
@[simp] theorem State.setField_nonVolatile (x : State) (a lo n v : Nat) : (x.setField a lo n v).nonVolatile = x.nonVolatile := rfl

@[simp] theorem State.interrupt_strand (x : State) (fn vec : Nat) : (x.interrupt fn vec).strand = x.strand := by unfold State.interrupt; split <;> rfl
@[simp] theorem State.interrupt_parked (x : State) (fn vec : Nat) : (x.interrupt fn vec).parked = x.parked := by unfold State.interrupt; split <;> rfl
@[simp] theorem State.interrupt_agenda (x : State) (fn vec : Nat) : (x.interrupt fn vec).agenda = x.agenda := by unfold State.interrupt; split <;> rfl
@[simp] theorem State.interrupt_fresh (x : State) (fn vec : Nat) : (x.interrupt fn vec).fresh = x.fresh := by unfold State.interrupt; split <;> rfl
@[simp] theorem State.interrupt_ticks (x : State) (fn vec : Nat) : (x.interrupt fn vec).ticks = x.ticks := by unfold State.interrupt; split <;> rfl
@[simp] theorem State.interrupt_resetAt (x : State) (fn vec : Nat) : (x.interrupt fn vec).resetAt = x.resetAt := by unfold State.interrupt; split <;> rfl
@[simp] theorem State.interrupt_coldAt (x : State) (fn vec : Nat) : (x.interrupt fn vec).coldAt = x.coldAt := by unfold State.interrupt; split <;> rfl
@[simp] theorem State.interrupt_mem (x : State) (fn vec : Nat) : (x.interrupt fn vec).mem = x.mem := by unfold State.interrupt; split <;> rfl
@[simp] theorem State.interrupt_tarn (x : State) (fn vec : Nat) : (x.interrupt fn vec).tarn = x.tarn := by unfold State.interrupt; split <;> rfl
@[simp] theorem State.interrupt_poison (x : State) (fn vec : Nat) : (x.interrupt fn vec).poison = x.poison := by unfold State.interrupt; split <;> rfl
@[simp] theorem State.interrupt_dev (x : State) (fn vec : Nat) : (x.interrupt fn vec).dev = x.dev := by unfold State.interrupt; split <;> rfl
@[simp] theorem State.interrupt_oldCode (x : State) (fn vec : Nat) : (x.interrupt fn vec).oldCode = x.oldCode := by unfold State.interrupt; split <;> rfl
@[simp] theorem State.interrupt_tlb (x : State) (fn vec : Nat) : (x.interrupt fn vec).tlb = x.tlb := by unfold State.interrupt; split <;> rfl
@[simp] theorem State.interrupt_guests (x : State) (fn vec : Nat) : (x.interrupt fn vec).guests = x.guests := by unfold State.interrupt; split <;> rfl
@[simp] theorem State.interrupt_assay (x : State) (fn vec : Nat) : (x.interrupt fn vec).assay = x.assay := by unfold State.interrupt; split <;> rfl
@[simp] theorem State.interrupt_resv (x : State) (fn vec : Nat) : (x.interrupt fn vec).resv = x.resv := by unfold State.interrupt; split <;> rfl
@[simp] theorem State.interrupt_escrow (x : State) (fn vec : Nat) : (x.interrupt fn vec).escrow = x.escrow := by unfold State.interrupt; split <;> rfl
@[simp] theorem State.interrupt_phases (x : State) (fn vec : Nat) : (x.interrupt fn vec).phases = x.phases := by unfold State.interrupt; split <;> rfl
@[simp] theorem State.interrupt_barriers (x : State) (fn vec : Nat) : (x.interrupt fn vec).barriers = x.barriers := by unfold State.interrupt; split <;> rfl
@[simp] theorem State.interrupt_cores (x : State) (fn vec : Nat) : (x.interrupt fn vec).cores = x.cores := by unfold State.interrupt; split <;> rfl
@[simp] theorem State.interrupt_cmds (x : State) (fn vec : Nat) : (x.interrupt fn vec).cmds = x.cmds := by unfold State.interrupt; split <;> rfl
@[simp] theorem State.interrupt_nextCmd (x : State) (fn vec : Nat) : (x.interrupt fn vec).nextCmd = x.nextCmd := by unfold State.interrupt; split <;> rfl
@[simp] theorem State.interrupt_frozenQ (x : State) (fn vec : Nat) : (x.interrupt fn vec).frozenQ = x.frozenQ := by unfold State.interrupt; split <;> rfl
@[simp] theorem State.interrupt_stored (x : State) (fn vec : Nat) : (x.interrupt fn vec).stored = x.stored := by unfold State.interrupt; split <;> rfl
@[simp] theorem State.interrupt_ordStreams (x : State) (fn vec : Nat) : (x.interrupt fn vec).ordStreams = x.ordStreams := by unfold State.interrupt; split <;> rfl
@[simp] theorem State.interrupt_ordEntries (x : State) (fn vec : Nat) : (x.interrupt fn vec).ordEntries = x.ordEntries := by unfold State.interrupt; split <;> rfl
@[simp] theorem State.interrupt_queries (x : State) (fn vec : Nat) : (x.interrupt fn vec).queries = x.queries := by unfold State.interrupt; split <;> rfl
@[simp] theorem State.interrupt_launches (x : State) (fn vec : Nat) : (x.interrupt fn vec).launches = x.launches := by unfold State.interrupt; split <;> rfl
@[simp] theorem State.interrupt_nodes (x : State) (fn vec : Nat) : (x.interrupt fn vec).nodes = x.nodes := by unfold State.interrupt; split <;> rfl
@[simp] theorem State.interrupt_held (x : State) (fn vec : Nat) : (x.interrupt fn vec).held = x.held := by unfold State.interrupt; split <;> rfl
@[simp] theorem State.interrupt_records (x : State) (fn vec : Nat) : (x.interrupt fn vec).records = x.records := by unfold State.interrupt; split <;> rfl
@[simp] theorem State.interrupt_hostHeld (x : State) (fn vec : Nat) : (x.interrupt fn vec).hostHeld = x.hostHeld := by unfold State.interrupt; split <;> rfl
@[simp] theorem State.interrupt_chipUnits (x : State) (fn vec : Nat) : (x.interrupt fn vec).chipUnits = x.chipUnits := by unfold State.interrupt; split <;> rfl
@[simp] theorem State.interrupt_parity (x : State) (fn vec : Nat) : (x.interrupt fn vec).parity = x.parity := by unfold State.interrupt; split <;> rfl
@[simp] theorem State.interrupt_upsets (x : State) (fn vec : Nat) : (x.interrupt fn vec).upsets = x.upsets := by unfold State.interrupt; split <;> rfl
@[simp] theorem State.interrupt_flips (x : State) (fn vec : Nat) : (x.interrupt fn vec).flips = x.flips := by unfold State.interrupt; split <;> rfl
@[simp] theorem State.interrupt_l1Errors (x : State) (fn vec : Nat) : (x.interrupt fn vec).l1Errors = x.l1Errors := by unfold State.interrupt; split <;> rfl
@[simp] theorem State.interrupt_failures (x : State) (fn vec : Nat) : (x.interrupt fn vec).failures = x.failures := by unfold State.interrupt; split <;> rfl
@[simp] theorem State.interrupt_compressed (x : State) (fn vec : Nat) : (x.interrupt fn vec).compressed = x.compressed := by unfold State.interrupt; split <;> rfl
@[simp] theorem State.interrupt_locked (x : State) (fn vec : Nat) : (x.interrupt fn vec).locked = x.locked := by unfold State.interrupt; split <;> rfl
@[simp] theorem State.interrupt_stalled (x : State) (fn vec : Nat) : (x.interrupt fn vec).stalled = x.stalled := by unfold State.interrupt; split <;> rfl
@[simp] theorem State.interrupt_migrate (x : State) (fn vec : Nat) : (x.interrupt fn vec).migrate = x.migrate := by unfold State.interrupt; split <;> rfl
@[simp] theorem State.interrupt_retired (x : State) (fn vec : Nat) : (x.interrupt fn vec).retired = x.retired := by unfold State.interrupt; split <;> rfl
@[simp] theorem State.interrupt_badBands (x : State) (fn vec : Nat) : (x.interrupt fn vec).badBands = x.badBands := by unfold State.interrupt; split <;> rfl
@[simp] theorem State.interrupt_scrubs (x : State) (fn vec : Nat) : (x.interrupt fn vec).scrubs = x.scrubs := by unfold State.interrupt; split <;> rfl
@[simp] theorem State.interrupt_links (x : State) (fn vec : Nat) : (x.interrupt fn vec).links = x.links := by unfold State.interrupt; split <;> rfl
@[simp] theorem State.interrupt_failed (x : State) (fn vec : Nat) : (x.interrupt fn vec).failed = x.failed := by unfold State.interrupt; split <;> rfl
@[simp] theorem State.interrupt_devfail (x : State) (fn vec : Nat) : (x.interrupt fn vec).devfail = x.devfail := by unfold State.interrupt; split <;> rfl
@[simp] theorem State.interrupt_fw (x : State) (fn vec : Nat) : (x.interrupt fn vec).fw = x.fw := by unfold State.interrupt; split <;> rfl
@[simp] theorem State.interrupt_switched (x : State) (fn vec : Nat) : (x.interrupt fn vec).switched = x.switched := by unfold State.interrupt; split <;> rfl
@[simp] theorem State.interrupt_chron (x : State) (fn vec : Nat) : (x.interrupt fn vec).chron = x.chron := by unfold State.interrupt; split <;> rfl
@[simp] theorem State.interrupt_powered (x : State) (fn vec : Nat) : (x.interrupt fn vec).powered = x.powered := by unfold State.interrupt; split <;> rfl
@[simp] theorem State.interrupt_throttle (x : State) (fn vec : Nat) : (x.interrupt fn vec).throttle = x.throttle := by unfold State.interrupt; split <;> rfl
@[simp] theorem State.interrupt_down (x : State) (fn vec : Nat) : (x.interrupt fn vec).down = x.down := by unfold State.interrupt; split <;> rfl
@[simp] theorem State.interrupt_breaks (x : State) (fn vec : Nat) : (x.interrupt fn vec).breaks = x.breaks := by unfold State.interrupt; split <;> rfl
@[simp] theorem State.interrupt_halted (x : State) (fn vec : Nat) : (x.interrupt fn vec).halted = x.halted := by unfold State.interrupt; split <;> rfl
@[simp] theorem State.interrupt_goOn (x : State) (fn vec : Nat) : (x.interrupt fn vec).goOn = x.goOn := by unfold State.interrupt; split <;> rfl
@[simp] theorem State.interrupt_reply (x : State) (fn vec : Nat) : (x.interrupt fn vec).reply = x.reply := by unfold State.interrupt; split <;> rfl
@[simp] theorem State.interrupt_nonVolatile (x : State) (fn vec : Nat) : (x.interrupt fn vec).nonVolatile = x.nonVolatile := by unfold State.interrupt; split <;> rfl

@[simp] theorem State.rememberCode_strand (x : State) (w k n : Nat) : (x.rememberCode w k n).strand = x.strand := rfl
@[simp] theorem State.rememberCode_parked (x : State) (w k n : Nat) : (x.rememberCode w k n).parked = x.parked := rfl
@[simp] theorem State.rememberCode_agenda (x : State) (w k n : Nat) : (x.rememberCode w k n).agenda = x.agenda := rfl
@[simp] theorem State.rememberCode_fresh (x : State) (w k n : Nat) : (x.rememberCode w k n).fresh = x.fresh := rfl
@[simp] theorem State.rememberCode_ticks (x : State) (w k n : Nat) : (x.rememberCode w k n).ticks = x.ticks := rfl
@[simp] theorem State.rememberCode_resetAt (x : State) (w k n : Nat) : (x.rememberCode w k n).resetAt = x.resetAt := rfl
@[simp] theorem State.rememberCode_coldAt (x : State) (w k n : Nat) : (x.rememberCode w k n).coldAt = x.coldAt := rfl
@[simp] theorem State.rememberCode_mem (x : State) (w k n : Nat) : (x.rememberCode w k n).mem = x.mem := rfl
@[simp] theorem State.rememberCode_tarn (x : State) (w k n : Nat) : (x.rememberCode w k n).tarn = x.tarn := rfl
@[simp] theorem State.rememberCode_poison (x : State) (w k n : Nat) : (x.rememberCode w k n).poison = x.poison := rfl
@[simp] theorem State.rememberCode_dev (x : State) (w k n : Nat) : (x.rememberCode w k n).dev = x.dev := rfl
@[simp] theorem State.rememberCode_tlb (x : State) (w k n : Nat) : (x.rememberCode w k n).tlb = x.tlb := rfl
@[simp] theorem State.rememberCode_guests (x : State) (w k n : Nat) : (x.rememberCode w k n).guests = x.guests := rfl
@[simp] theorem State.rememberCode_assay (x : State) (w k n : Nat) : (x.rememberCode w k n).assay = x.assay := rfl
@[simp] theorem State.rememberCode_resv (x : State) (w k n : Nat) : (x.rememberCode w k n).resv = x.resv := rfl
@[simp] theorem State.rememberCode_escrow (x : State) (w k n : Nat) : (x.rememberCode w k n).escrow = x.escrow := rfl
@[simp] theorem State.rememberCode_phases (x : State) (w k n : Nat) : (x.rememberCode w k n).phases = x.phases := rfl
@[simp] theorem State.rememberCode_barriers (x : State) (w k n : Nat) : (x.rememberCode w k n).barriers = x.barriers := rfl
@[simp] theorem State.rememberCode_cores (x : State) (w k n : Nat) : (x.rememberCode w k n).cores = x.cores := rfl
@[simp] theorem State.rememberCode_cmds (x : State) (w k n : Nat) : (x.rememberCode w k n).cmds = x.cmds := rfl
@[simp] theorem State.rememberCode_nextCmd (x : State) (w k n : Nat) : (x.rememberCode w k n).nextCmd = x.nextCmd := rfl
@[simp] theorem State.rememberCode_frozenQ (x : State) (w k n : Nat) : (x.rememberCode w k n).frozenQ = x.frozenQ := rfl
@[simp] theorem State.rememberCode_stored (x : State) (w k n : Nat) : (x.rememberCode w k n).stored = x.stored := rfl
@[simp] theorem State.rememberCode_ordStreams (x : State) (w k n : Nat) : (x.rememberCode w k n).ordStreams = x.ordStreams := rfl
@[simp] theorem State.rememberCode_ordEntries (x : State) (w k n : Nat) : (x.rememberCode w k n).ordEntries = x.ordEntries := rfl
@[simp] theorem State.rememberCode_queries (x : State) (w k n : Nat) : (x.rememberCode w k n).queries = x.queries := rfl
@[simp] theorem State.rememberCode_launches (x : State) (w k n : Nat) : (x.rememberCode w k n).launches = x.launches := rfl
@[simp] theorem State.rememberCode_nodes (x : State) (w k n : Nat) : (x.rememberCode w k n).nodes = x.nodes := rfl
@[simp] theorem State.rememberCode_held (x : State) (w k n : Nat) : (x.rememberCode w k n).held = x.held := rfl
@[simp] theorem State.rememberCode_records (x : State) (w k n : Nat) : (x.rememberCode w k n).records = x.records := rfl
@[simp] theorem State.rememberCode_hostHeld (x : State) (w k n : Nat) : (x.rememberCode w k n).hostHeld = x.hostHeld := rfl
@[simp] theorem State.rememberCode_msix (x : State) (w k n : Nat) : (x.rememberCode w k n).msix = x.msix := rfl
@[simp] theorem State.rememberCode_msixHeld (x : State) (w k n : Nat) : (x.rememberCode w k n).msixHeld = x.msixHeld := rfl
@[simp] theorem State.rememberCode_chipUnits (x : State) (w k n : Nat) : (x.rememberCode w k n).chipUnits = x.chipUnits := rfl
@[simp] theorem State.rememberCode_parity (x : State) (w k n : Nat) : (x.rememberCode w k n).parity = x.parity := rfl
@[simp] theorem State.rememberCode_upsets (x : State) (w k n : Nat) : (x.rememberCode w k n).upsets = x.upsets := rfl
@[simp] theorem State.rememberCode_flips (x : State) (w k n : Nat) : (x.rememberCode w k n).flips = x.flips := rfl
@[simp] theorem State.rememberCode_l1Errors (x : State) (w k n : Nat) : (x.rememberCode w k n).l1Errors = x.l1Errors := rfl
@[simp] theorem State.rememberCode_failures (x : State) (w k n : Nat) : (x.rememberCode w k n).failures = x.failures := rfl
@[simp] theorem State.rememberCode_compressed (x : State) (w k n : Nat) : (x.rememberCode w k n).compressed = x.compressed := rfl
@[simp] theorem State.rememberCode_locked (x : State) (w k n : Nat) : (x.rememberCode w k n).locked = x.locked := rfl
@[simp] theorem State.rememberCode_stalled (x : State) (w k n : Nat) : (x.rememberCode w k n).stalled = x.stalled := rfl
@[simp] theorem State.rememberCode_migrate (x : State) (w k n : Nat) : (x.rememberCode w k n).migrate = x.migrate := rfl
@[simp] theorem State.rememberCode_retired (x : State) (w k n : Nat) : (x.rememberCode w k n).retired = x.retired := rfl
@[simp] theorem State.rememberCode_badBands (x : State) (w k n : Nat) : (x.rememberCode w k n).badBands = x.badBands := rfl
@[simp] theorem State.rememberCode_scrubs (x : State) (w k n : Nat) : (x.rememberCode w k n).scrubs = x.scrubs := rfl
@[simp] theorem State.rememberCode_links (x : State) (w k n : Nat) : (x.rememberCode w k n).links = x.links := rfl
@[simp] theorem State.rememberCode_failed (x : State) (w k n : Nat) : (x.rememberCode w k n).failed = x.failed := rfl
@[simp] theorem State.rememberCode_devfail (x : State) (w k n : Nat) : (x.rememberCode w k n).devfail = x.devfail := rfl
@[simp] theorem State.rememberCode_fw (x : State) (w k n : Nat) : (x.rememberCode w k n).fw = x.fw := rfl
@[simp] theorem State.rememberCode_switched (x : State) (w k n : Nat) : (x.rememberCode w k n).switched = x.switched := rfl
@[simp] theorem State.rememberCode_chron (x : State) (w k n : Nat) : (x.rememberCode w k n).chron = x.chron := rfl
@[simp] theorem State.rememberCode_powered (x : State) (w k n : Nat) : (x.rememberCode w k n).powered = x.powered := rfl
@[simp] theorem State.rememberCode_throttle (x : State) (w k n : Nat) : (x.rememberCode w k n).throttle = x.throttle := rfl
@[simp] theorem State.rememberCode_down (x : State) (w k n : Nat) : (x.rememberCode w k n).down = x.down := rfl
@[simp] theorem State.rememberCode_breaks (x : State) (w k n : Nat) : (x.rememberCode w k n).breaks = x.breaks := rfl
@[simp] theorem State.rememberCode_halted (x : State) (w k n : Nat) : (x.rememberCode w k n).halted = x.halted := rfl
@[simp] theorem State.rememberCode_goOn (x : State) (w k n : Nat) : (x.rememberCode w k n).goOn = x.goOn := rfl
@[simp] theorem State.rememberCode_reply (x : State) (w k n : Nat) : (x.rememberCode w k n).reply = x.reply := rfl
@[simp] theorem State.rememberCode_nonVolatile (x : State) (w k n : Nat) : (x.rememberCode w k n).nonVolatile = x.nonVolatile := rfl

@[simp] theorem State.breakLinks_agenda (x : State) (p : Option Nat) (l : Nat) : (x.breakLinks p l).agenda = x.agenda := rfl
@[simp] theorem State.breakLinks_fresh (x : State) (p : Option Nat) (l : Nat) : (x.breakLinks p l).fresh = x.fresh := rfl
@[simp] theorem State.breakLinks_ticks (x : State) (p : Option Nat) (l : Nat) : (x.breakLinks p l).ticks = x.ticks := rfl
@[simp] theorem State.breakLinks_resetAt (x : State) (p : Option Nat) (l : Nat) : (x.breakLinks p l).resetAt = x.resetAt := rfl
@[simp] theorem State.breakLinks_coldAt (x : State) (p : Option Nat) (l : Nat) : (x.breakLinks p l).coldAt = x.coldAt := rfl
@[simp] theorem State.breakLinks_mem (x : State) (p : Option Nat) (l : Nat) : (x.breakLinks p l).mem = x.mem := rfl
@[simp] theorem State.breakLinks_tarn (x : State) (p : Option Nat) (l : Nat) : (x.breakLinks p l).tarn = x.tarn := rfl
@[simp] theorem State.breakLinks_poison (x : State) (p : Option Nat) (l : Nat) : (x.breakLinks p l).poison = x.poison := rfl
@[simp] theorem State.breakLinks_dev (x : State) (p : Option Nat) (l : Nat) : (x.breakLinks p l).dev = x.dev := rfl
@[simp] theorem State.breakLinks_oldCode (x : State) (p : Option Nat) (l : Nat) : (x.breakLinks p l).oldCode = x.oldCode := rfl
@[simp] theorem State.breakLinks_tlb (x : State) (p : Option Nat) (l : Nat) : (x.breakLinks p l).tlb = x.tlb := rfl
@[simp] theorem State.breakLinks_guests (x : State) (p : Option Nat) (l : Nat) : (x.breakLinks p l).guests = x.guests := rfl
@[simp] theorem State.breakLinks_assay (x : State) (p : Option Nat) (l : Nat) : (x.breakLinks p l).assay = x.assay := rfl
@[simp] theorem State.breakLinks_resv (x : State) (p : Option Nat) (l : Nat) : (x.breakLinks p l).resv = x.resv := rfl
@[simp] theorem State.breakLinks_escrow (x : State) (p : Option Nat) (l : Nat) : (x.breakLinks p l).escrow = x.escrow := rfl
@[simp] theorem State.breakLinks_phases (x : State) (p : Option Nat) (l : Nat) : (x.breakLinks p l).phases = x.phases := rfl
@[simp] theorem State.breakLinks_barriers (x : State) (p : Option Nat) (l : Nat) : (x.breakLinks p l).barriers = x.barriers := rfl
@[simp] theorem State.breakLinks_cores (x : State) (p : Option Nat) (l : Nat) : (x.breakLinks p l).cores = x.cores := rfl
@[simp] theorem State.breakLinks_cmds (x : State) (p : Option Nat) (l : Nat) : (x.breakLinks p l).cmds = x.cmds := rfl
@[simp] theorem State.breakLinks_nextCmd (x : State) (p : Option Nat) (l : Nat) : (x.breakLinks p l).nextCmd = x.nextCmd := rfl
@[simp] theorem State.breakLinks_frozenQ (x : State) (p : Option Nat) (l : Nat) : (x.breakLinks p l).frozenQ = x.frozenQ := rfl
@[simp] theorem State.breakLinks_stored (x : State) (p : Option Nat) (l : Nat) : (x.breakLinks p l).stored = x.stored := rfl
@[simp] theorem State.breakLinks_ordStreams (x : State) (p : Option Nat) (l : Nat) : (x.breakLinks p l).ordStreams = x.ordStreams := rfl
@[simp] theorem State.breakLinks_ordEntries (x : State) (p : Option Nat) (l : Nat) : (x.breakLinks p l).ordEntries = x.ordEntries := rfl
@[simp] theorem State.breakLinks_queries (x : State) (p : Option Nat) (l : Nat) : (x.breakLinks p l).queries = x.queries := rfl
@[simp] theorem State.breakLinks_launches (x : State) (p : Option Nat) (l : Nat) : (x.breakLinks p l).launches = x.launches := rfl
@[simp] theorem State.breakLinks_nodes (x : State) (p : Option Nat) (l : Nat) : (x.breakLinks p l).nodes = x.nodes := rfl
@[simp] theorem State.breakLinks_held (x : State) (p : Option Nat) (l : Nat) : (x.breakLinks p l).held = x.held := rfl
@[simp] theorem State.breakLinks_records (x : State) (p : Option Nat) (l : Nat) : (x.breakLinks p l).records = x.records := rfl
@[simp] theorem State.breakLinks_hostHeld (x : State) (p : Option Nat) (l : Nat) : (x.breakLinks p l).hostHeld = x.hostHeld := rfl
@[simp] theorem State.breakLinks_msix (x : State) (p : Option Nat) (l : Nat) : (x.breakLinks p l).msix = x.msix := rfl
@[simp] theorem State.breakLinks_msixHeld (x : State) (p : Option Nat) (l : Nat) : (x.breakLinks p l).msixHeld = x.msixHeld := rfl
@[simp] theorem State.breakLinks_chipUnits (x : State) (p : Option Nat) (l : Nat) : (x.breakLinks p l).chipUnits = x.chipUnits := rfl
@[simp] theorem State.breakLinks_parity (x : State) (p : Option Nat) (l : Nat) : (x.breakLinks p l).parity = x.parity := rfl
@[simp] theorem State.breakLinks_upsets (x : State) (p : Option Nat) (l : Nat) : (x.breakLinks p l).upsets = x.upsets := rfl
@[simp] theorem State.breakLinks_flips (x : State) (p : Option Nat) (l : Nat) : (x.breakLinks p l).flips = x.flips := rfl
@[simp] theorem State.breakLinks_l1Errors (x : State) (p : Option Nat) (l : Nat) : (x.breakLinks p l).l1Errors = x.l1Errors := rfl
@[simp] theorem State.breakLinks_failures (x : State) (p : Option Nat) (l : Nat) : (x.breakLinks p l).failures = x.failures := rfl
@[simp] theorem State.breakLinks_compressed (x : State) (p : Option Nat) (l : Nat) : (x.breakLinks p l).compressed = x.compressed := rfl
@[simp] theorem State.breakLinks_locked (x : State) (p : Option Nat) (l : Nat) : (x.breakLinks p l).locked = x.locked := rfl
@[simp] theorem State.breakLinks_stalled (x : State) (p : Option Nat) (l : Nat) : (x.breakLinks p l).stalled = x.stalled := rfl
@[simp] theorem State.breakLinks_migrate (x : State) (p : Option Nat) (l : Nat) : (x.breakLinks p l).migrate = x.migrate := rfl
@[simp] theorem State.breakLinks_retired (x : State) (p : Option Nat) (l : Nat) : (x.breakLinks p l).retired = x.retired := rfl
@[simp] theorem State.breakLinks_badBands (x : State) (p : Option Nat) (l : Nat) : (x.breakLinks p l).badBands = x.badBands := rfl
@[simp] theorem State.breakLinks_scrubs (x : State) (p : Option Nat) (l : Nat) : (x.breakLinks p l).scrubs = x.scrubs := rfl
@[simp] theorem State.breakLinks_links (x : State) (p : Option Nat) (l : Nat) : (x.breakLinks p l).links = x.links := rfl
@[simp] theorem State.breakLinks_failed (x : State) (p : Option Nat) (l : Nat) : (x.breakLinks p l).failed = x.failed := rfl
@[simp] theorem State.breakLinks_devfail (x : State) (p : Option Nat) (l : Nat) : (x.breakLinks p l).devfail = x.devfail := rfl
@[simp] theorem State.breakLinks_fw (x : State) (p : Option Nat) (l : Nat) : (x.breakLinks p l).fw = x.fw := rfl
@[simp] theorem State.breakLinks_switched (x : State) (p : Option Nat) (l : Nat) : (x.breakLinks p l).switched = x.switched := rfl
@[simp] theorem State.breakLinks_chron (x : State) (p : Option Nat) (l : Nat) : (x.breakLinks p l).chron = x.chron := rfl
@[simp] theorem State.breakLinks_powered (x : State) (p : Option Nat) (l : Nat) : (x.breakLinks p l).powered = x.powered := rfl
@[simp] theorem State.breakLinks_throttle (x : State) (p : Option Nat) (l : Nat) : (x.breakLinks p l).throttle = x.throttle := rfl
@[simp] theorem State.breakLinks_down (x : State) (p : Option Nat) (l : Nat) : (x.breakLinks p l).down = x.down := rfl
@[simp] theorem State.breakLinks_breaks (x : State) (p : Option Nat) (l : Nat) : (x.breakLinks p l).breaks = x.breaks := rfl
@[simp] theorem State.breakLinks_halted (x : State) (p : Option Nat) (l : Nat) : (x.breakLinks p l).halted = x.halted := rfl
@[simp] theorem State.breakLinks_goOn (x : State) (p : Option Nat) (l : Nat) : (x.breakLinks p l).goOn = x.goOn := rfl
@[simp] theorem State.breakLinks_reply (x : State) (p : Option Nat) (l : Nat) : (x.breakLinks p l).reply = x.reply := rfl
@[simp] theorem State.breakLinks_nonVolatile (x : State) (p : Option Nat) (l : Nat) : (x.breakLinks p l).nonVolatile = x.nonVolatile := rfl

@[simp] theorem State.noteStore_strand (x : State) (d : Option Nat) (k n : Nat) : (x.noteStore d k n).strand = x.strand := rfl
@[simp] theorem State.noteStore_parked (x : State) (d : Option Nat) (k n : Nat) : (x.noteStore d k n).parked = x.parked := rfl
@[simp] theorem State.noteStore_agenda (x : State) (d : Option Nat) (k n : Nat) : (x.noteStore d k n).agenda = x.agenda := rfl
@[simp] theorem State.noteStore_fresh (x : State) (d : Option Nat) (k n : Nat) : (x.noteStore d k n).fresh = x.fresh := rfl
@[simp] theorem State.noteStore_ticks (x : State) (d : Option Nat) (k n : Nat) : (x.noteStore d k n).ticks = x.ticks := rfl
@[simp] theorem State.noteStore_resetAt (x : State) (d : Option Nat) (k n : Nat) : (x.noteStore d k n).resetAt = x.resetAt := rfl
@[simp] theorem State.noteStore_coldAt (x : State) (d : Option Nat) (k n : Nat) : (x.noteStore d k n).coldAt = x.coldAt := rfl
@[simp] theorem State.noteStore_mem (x : State) (d : Option Nat) (k n : Nat) : (x.noteStore d k n).mem = x.mem := rfl
@[simp] theorem State.noteStore_tarn (x : State) (d : Option Nat) (k n : Nat) : (x.noteStore d k n).tarn = x.tarn := rfl
@[simp] theorem State.noteStore_poison (x : State) (d : Option Nat) (k n : Nat) : (x.noteStore d k n).poison = x.poison := rfl
@[simp] theorem State.noteStore_dev (x : State) (d : Option Nat) (k n : Nat) : (x.noteStore d k n).dev = x.dev := rfl
@[simp] theorem State.noteStore_oldCode (x : State) (d : Option Nat) (k n : Nat) : (x.noteStore d k n).oldCode = x.oldCode := rfl
@[simp] theorem State.noteStore_tlb (x : State) (d : Option Nat) (k n : Nat) : (x.noteStore d k n).tlb = x.tlb := rfl
@[simp] theorem State.noteStore_guests (x : State) (d : Option Nat) (k n : Nat) : (x.noteStore d k n).guests = x.guests := rfl
@[simp] theorem State.noteStore_assay (x : State) (d : Option Nat) (k n : Nat) : (x.noteStore d k n).assay = x.assay := rfl
@[simp] theorem State.noteStore_resv (x : State) (d : Option Nat) (k n : Nat) : (x.noteStore d k n).resv = x.resv := rfl
@[simp] theorem State.noteStore_escrow (x : State) (d : Option Nat) (k n : Nat) : (x.noteStore d k n).escrow = x.escrow := rfl
@[simp] theorem State.noteStore_phases (x : State) (d : Option Nat) (k n : Nat) : (x.noteStore d k n).phases = x.phases := rfl
@[simp] theorem State.noteStore_barriers (x : State) (d : Option Nat) (k n : Nat) : (x.noteStore d k n).barriers = x.barriers := rfl
@[simp] theorem State.noteStore_cores (x : State) (d : Option Nat) (k n : Nat) : (x.noteStore d k n).cores = x.cores := rfl
@[simp] theorem State.noteStore_nextCmd (x : State) (d : Option Nat) (k n : Nat) : (x.noteStore d k n).nextCmd = x.nextCmd := rfl
@[simp] theorem State.noteStore_frozenQ (x : State) (d : Option Nat) (k n : Nat) : (x.noteStore d k n).frozenQ = x.frozenQ := rfl
@[simp] theorem State.noteStore_ordStreams (x : State) (d : Option Nat) (k n : Nat) : (x.noteStore d k n).ordStreams = x.ordStreams := rfl
@[simp] theorem State.noteStore_ordEntries (x : State) (d : Option Nat) (k n : Nat) : (x.noteStore d k n).ordEntries = x.ordEntries := rfl
@[simp] theorem State.noteStore_queries (x : State) (d : Option Nat) (k n : Nat) : (x.noteStore d k n).queries = x.queries := rfl
@[simp] theorem State.noteStore_launches (x : State) (d : Option Nat) (k n : Nat) : (x.noteStore d k n).launches = x.launches := rfl
@[simp] theorem State.noteStore_nodes (x : State) (d : Option Nat) (k n : Nat) : (x.noteStore d k n).nodes = x.nodes := rfl
@[simp] theorem State.noteStore_held (x : State) (d : Option Nat) (k n : Nat) : (x.noteStore d k n).held = x.held := rfl
@[simp] theorem State.noteStore_records (x : State) (d : Option Nat) (k n : Nat) : (x.noteStore d k n).records = x.records := rfl
@[simp] theorem State.noteStore_hostHeld (x : State) (d : Option Nat) (k n : Nat) : (x.noteStore d k n).hostHeld = x.hostHeld := rfl
@[simp] theorem State.noteStore_msix (x : State) (d : Option Nat) (k n : Nat) : (x.noteStore d k n).msix = x.msix := rfl
@[simp] theorem State.noteStore_msixHeld (x : State) (d : Option Nat) (k n : Nat) : (x.noteStore d k n).msixHeld = x.msixHeld := rfl
@[simp] theorem State.noteStore_chipUnits (x : State) (d : Option Nat) (k n : Nat) : (x.noteStore d k n).chipUnits = x.chipUnits := rfl
@[simp] theorem State.noteStore_parity (x : State) (d : Option Nat) (k n : Nat) : (x.noteStore d k n).parity = x.parity := rfl
@[simp] theorem State.noteStore_upsets (x : State) (d : Option Nat) (k n : Nat) : (x.noteStore d k n).upsets = x.upsets := rfl
@[simp] theorem State.noteStore_flips (x : State) (d : Option Nat) (k n : Nat) : (x.noteStore d k n).flips = x.flips := rfl
@[simp] theorem State.noteStore_l1Errors (x : State) (d : Option Nat) (k n : Nat) : (x.noteStore d k n).l1Errors = x.l1Errors := rfl
@[simp] theorem State.noteStore_failures (x : State) (d : Option Nat) (k n : Nat) : (x.noteStore d k n).failures = x.failures := rfl
@[simp] theorem State.noteStore_compressed (x : State) (d : Option Nat) (k n : Nat) : (x.noteStore d k n).compressed = x.compressed := rfl
@[simp] theorem State.noteStore_locked (x : State) (d : Option Nat) (k n : Nat) : (x.noteStore d k n).locked = x.locked := rfl
@[simp] theorem State.noteStore_stalled (x : State) (d : Option Nat) (k n : Nat) : (x.noteStore d k n).stalled = x.stalled := rfl
@[simp] theorem State.noteStore_migrate (x : State) (d : Option Nat) (k n : Nat) : (x.noteStore d k n).migrate = x.migrate := rfl
@[simp] theorem State.noteStore_retired (x : State) (d : Option Nat) (k n : Nat) : (x.noteStore d k n).retired = x.retired := rfl
@[simp] theorem State.noteStore_badBands (x : State) (d : Option Nat) (k n : Nat) : (x.noteStore d k n).badBands = x.badBands := rfl
@[simp] theorem State.noteStore_scrubs (x : State) (d : Option Nat) (k n : Nat) : (x.noteStore d k n).scrubs = x.scrubs := rfl
@[simp] theorem State.noteStore_links (x : State) (d : Option Nat) (k n : Nat) : (x.noteStore d k n).links = x.links := rfl
@[simp] theorem State.noteStore_failed (x : State) (d : Option Nat) (k n : Nat) : (x.noteStore d k n).failed = x.failed := rfl
@[simp] theorem State.noteStore_devfail (x : State) (d : Option Nat) (k n : Nat) : (x.noteStore d k n).devfail = x.devfail := rfl
@[simp] theorem State.noteStore_fw (x : State) (d : Option Nat) (k n : Nat) : (x.noteStore d k n).fw = x.fw := rfl
@[simp] theorem State.noteStore_switched (x : State) (d : Option Nat) (k n : Nat) : (x.noteStore d k n).switched = x.switched := rfl
@[simp] theorem State.noteStore_chron (x : State) (d : Option Nat) (k n : Nat) : (x.noteStore d k n).chron = x.chron := rfl
@[simp] theorem State.noteStore_powered (x : State) (d : Option Nat) (k n : Nat) : (x.noteStore d k n).powered = x.powered := rfl
@[simp] theorem State.noteStore_throttle (x : State) (d : Option Nat) (k n : Nat) : (x.noteStore d k n).throttle = x.throttle := rfl
@[simp] theorem State.noteStore_down (x : State) (d : Option Nat) (k n : Nat) : (x.noteStore d k n).down = x.down := rfl
@[simp] theorem State.noteStore_breaks (x : State) (d : Option Nat) (k n : Nat) : (x.noteStore d k n).breaks = x.breaks := rfl
@[simp] theorem State.noteStore_halted (x : State) (d : Option Nat) (k n : Nat) : (x.noteStore d k n).halted = x.halted := rfl
@[simp] theorem State.noteStore_goOn (x : State) (d : Option Nat) (k n : Nat) : (x.noteStore d k n).goOn = x.goOn := rfl
@[simp] theorem State.noteStore_reply (x : State) (d : Option Nat) (k n : Nat) : (x.noteStore d k n).reply = x.reply := rfl
@[simp] theorem State.noteStore_nonVolatile (x : State) (d : Option Nat) (k n : Nat) : (x.noteStore d k n).nonVolatile = x.nonVolatile := rfl

/-! ## Updates of a strand -/

@[simp] theorem Strand.advance_place (x : Strand) : (x.advance).place = x.place := rfl
@[simp] theorem Strand.advance_part (x : Strand) : (x.advance).part = x.part := rfl
@[simp] theorem Strand.advance_launch (x : Strand) : (x.advance).launch = x.launch := rfl
@[simp] theorem Strand.advance_flat (x : Strand) : (x.advance).flat = x.flat := rfl
@[simp] theorem Strand.advance_run (x : Strand) : (x.advance).run = x.run := rfl
@[simp] theorem Strand.advance_saved (x : Strand) : (x.advance).saved = x.saved := rfl
@[simp] theorem Strand.advance_due (x : Strand) : (x.advance).due = x.due := rfl
@[simp] theorem Strand.advance_pc (x : Strand) : (x.advance).pc = x.pc + 4 := rfl
@[simp] theorem Strand.advance_word (x : Strand) : (x.advance).word = x.word := rfl
@[simp] theorem Strand.advance_sregs (x : Strand) : (x.advance).sregs = x.sregs := rfl
@[simp] theorem Strand.advance_purses (x : Strand) : (x.advance).purses = x.purses := rfl
@[simp] theorem Strand.advance_masks (x : Strand) : (x.advance).masks = x.masks := rfl
@[simp] theorem Strand.advance_ctl (x : Strand) : (x.advance).ctl = x.ctl := rfl
@[simp] theorem Strand.advance_st (x : Strand) : (x.advance).st = x.st := rfl
@[simp] theorem Strand.advance_lvid (x : Strand) : (x.advance).lvid = x.lvid := rfl
@[simp] theorem Strand.advance_lvcnt (x : Strand) : (x.advance).lvcnt = x.lvcnt := rfl
@[simp] theorem Strand.advance_armed (x : Strand) : (x.advance).armed = none := rfl
@[simp] theorem Strand.advance_residue (x : Strand) : (x.advance).residue = x.residue := rfl
@[simp] theorem Strand.advance_outer (x : Strand) : (x.advance).outer = x.outer := rfl
@[simp] theorem Strand.advance_links (x : Strand) : (x.advance).links = x.links := rfl
@[simp] theorem Strand.advance_arrivals (x : Strand) : (x.advance).arrivals = x.arrivals := rfl
@[simp] theorem Strand.advance_barHeld (x : Strand) : (x.advance).barHeld = x.barHeld := rfl
@[simp] theorem Strand.advance_ordHeld (x : Strand) : (x.advance).ordHeld = x.ordHeld := rfl
@[simp] theorem Strand.advance_trapPolicy (x : Strand) : (x.advance).trapPolicy = x.trapPolicy := rfl
@[simp] theorem Strand.advance_clean (x : Strand) : (x.advance).clean = x.clean := rfl
@[simp] theorem Strand.advance_segs (x : Strand) : (x.advance).segs = x.segs := rfl
@[simp] theorem Strand.advance_reserve (x : Strand) : (x.advance).reserve = x.reserve := rfl
@[simp] theorem Strand.advance_borrowed (x : Strand) : (x.advance).borrowed = x.borrowed := rfl
@[simp] theorem Strand.advance_prepLanes (x : Strand) : (x.advance).prepLanes = x.prepLanes := rfl
@[simp] theorem Strand.advance_prepSegs (x : Strand) : (x.advance).prepSegs = x.prepSegs := rfl

@[simp] theorem Strand.jump_place (x : Strand) (a : Addr) : (x.jump a).place = x.place := rfl
@[simp] theorem Strand.jump_part (x : Strand) (a : Addr) : (x.jump a).part = x.part := rfl
@[simp] theorem Strand.jump_launch (x : Strand) (a : Addr) : (x.jump a).launch = x.launch := rfl
@[simp] theorem Strand.jump_flat (x : Strand) (a : Addr) : (x.jump a).flat = x.flat := rfl
@[simp] theorem Strand.jump_run (x : Strand) (a : Addr) : (x.jump a).run = x.run := rfl
@[simp] theorem Strand.jump_saved (x : Strand) (a : Addr) : (x.jump a).saved = x.saved := rfl
@[simp] theorem Strand.jump_due (x : Strand) (a : Addr) : (x.jump a).due = x.due := rfl
@[simp] theorem Strand.jump_pc (x : Strand) (a : Addr) : (x.jump a).pc = a := rfl
@[simp] theorem Strand.jump_word (x : Strand) (a : Addr) : (x.jump a).word = x.word := rfl
@[simp] theorem Strand.jump_sregs (x : Strand) (a : Addr) : (x.jump a).sregs = x.sregs := rfl
@[simp] theorem Strand.jump_purses (x : Strand) (a : Addr) : (x.jump a).purses = x.purses := rfl
@[simp] theorem Strand.jump_masks (x : Strand) (a : Addr) : (x.jump a).masks = x.masks := rfl
@[simp] theorem Strand.jump_ctl (x : Strand) (a : Addr) : (x.jump a).ctl = x.ctl := rfl
@[simp] theorem Strand.jump_st (x : Strand) (a : Addr) : (x.jump a).st = x.st := rfl
@[simp] theorem Strand.jump_lvid (x : Strand) (a : Addr) : (x.jump a).lvid = x.lvid := rfl
@[simp] theorem Strand.jump_lvcnt (x : Strand) (a : Addr) : (x.jump a).lvcnt = x.lvcnt := rfl
@[simp] theorem Strand.jump_armed (x : Strand) (a : Addr) : (x.jump a).armed = none := rfl
@[simp] theorem Strand.jump_residue (x : Strand) (a : Addr) : (x.jump a).residue = x.residue := rfl
@[simp] theorem Strand.jump_outer (x : Strand) (a : Addr) : (x.jump a).outer = x.outer := rfl
@[simp] theorem Strand.jump_links (x : Strand) (a : Addr) : (x.jump a).links = x.links := rfl
@[simp] theorem Strand.jump_arrivals (x : Strand) (a : Addr) : (x.jump a).arrivals = x.arrivals := rfl
@[simp] theorem Strand.jump_barHeld (x : Strand) (a : Addr) : (x.jump a).barHeld = x.barHeld := rfl
@[simp] theorem Strand.jump_ordHeld (x : Strand) (a : Addr) : (x.jump a).ordHeld = x.ordHeld := rfl
@[simp] theorem Strand.jump_trapPolicy (x : Strand) (a : Addr) : (x.jump a).trapPolicy = x.trapPolicy := rfl
@[simp] theorem Strand.jump_clean (x : Strand) (a : Addr) : (x.jump a).clean = x.clean := rfl
@[simp] theorem Strand.jump_segs (x : Strand) (a : Addr) : (x.jump a).segs = x.segs := rfl
@[simp] theorem Strand.jump_reserve (x : Strand) (a : Addr) : (x.jump a).reserve = x.reserve := rfl
@[simp] theorem Strand.jump_borrowed (x : Strand) (a : Addr) : (x.jump a).borrowed = x.borrowed := rfl
@[simp] theorem Strand.jump_prepLanes (x : Strand) (a : Addr) : (x.jump a).prepLanes = x.prepLanes := rfl
@[simp] theorem Strand.jump_prepSegs (x : Strand) (a : Addr) : (x.jump a).prepSegs = x.prepSegs := rfl

@[simp] theorem Strand.seen_place (x : Strand) (b : Bool) : (x.seen b).place = x.place := rfl
@[simp] theorem Strand.seen_part (x : Strand) (b : Bool) : (x.seen b).part = x.part := rfl
@[simp] theorem Strand.seen_launch (x : Strand) (b : Bool) : (x.seen b).launch = x.launch := rfl
@[simp] theorem Strand.seen_flat (x : Strand) (b : Bool) : (x.seen b).flat = x.flat := rfl
@[simp] theorem Strand.seen_run (x : Strand) (b : Bool) : (x.seen b).run = x.run := rfl
@[simp] theorem Strand.seen_saved (x : Strand) (b : Bool) : (x.seen b).saved = x.saved := rfl
@[simp] theorem Strand.seen_due (x : Strand) (b : Bool) : (x.seen b).due = x.due := rfl
@[simp] theorem Strand.seen_pc (x : Strand) (b : Bool) : (x.seen b).pc = x.pc := rfl
@[simp] theorem Strand.seen_word (x : Strand) (b : Bool) : (x.seen b).word = x.word := rfl
@[simp] theorem Strand.seen_sregs (x : Strand) (b : Bool) : (x.seen b).sregs = x.sregs := rfl
@[simp] theorem Strand.seen_purses (x : Strand) (b : Bool) : (x.seen b).purses = x.purses := rfl
@[simp] theorem Strand.seen_masks (x : Strand) (b : Bool) : (x.seen b).masks = x.masks := rfl
@[simp] theorem Strand.seen_ctl (x : Strand) (b : Bool) : (x.seen b).ctl = x.ctl.seen b := rfl
@[simp] theorem Strand.seen_st (x : Strand) (b : Bool) : (x.seen b).st = x.st := rfl
@[simp] theorem Strand.seen_lvid (x : Strand) (b : Bool) : (x.seen b).lvid = x.lvid := rfl
@[simp] theorem Strand.seen_lvcnt (x : Strand) (b : Bool) : (x.seen b).lvcnt = x.lvcnt := rfl
@[simp] theorem Strand.seen_armed (x : Strand) (b : Bool) : (x.seen b).armed = x.armed := rfl
@[simp] theorem Strand.seen_residue (x : Strand) (b : Bool) : (x.seen b).residue = x.residue := rfl
@[simp] theorem Strand.seen_outer (x : Strand) (b : Bool) : (x.seen b).outer = x.outer := rfl
@[simp] theorem Strand.seen_links (x : Strand) (b : Bool) : (x.seen b).links = x.links := rfl
@[simp] theorem Strand.seen_arrivals (x : Strand) (b : Bool) : (x.seen b).arrivals = x.arrivals := rfl
@[simp] theorem Strand.seen_barHeld (x : Strand) (b : Bool) : (x.seen b).barHeld = x.barHeld := rfl
@[simp] theorem Strand.seen_ordHeld (x : Strand) (b : Bool) : (x.seen b).ordHeld = x.ordHeld := rfl
@[simp] theorem Strand.seen_trapPolicy (x : Strand) (b : Bool) : (x.seen b).trapPolicy = x.trapPolicy := rfl
@[simp] theorem Strand.seen_clean (x : Strand) (b : Bool) : (x.seen b).clean = x.clean := rfl
@[simp] theorem Strand.seen_segs (x : Strand) (b : Bool) : (x.seen b).segs = x.segs := rfl
@[simp] theorem Strand.seen_reserve (x : Strand) (b : Bool) : (x.seen b).reserve = x.reserve := rfl
@[simp] theorem Strand.seen_borrowed (x : Strand) (b : Bool) : (x.seen b).borrowed = x.borrowed := rfl
@[simp] theorem Strand.seen_prepLanes (x : Strand) (b : Bool) : (x.seen b).prepLanes = x.prepLanes := rfl
@[simp] theorem Strand.seen_prepSegs (x : Strand) (b : Bool) : (x.seen b).prepSegs = x.prepSegs := rfl

@[simp] theorem Strand.sticky_place (x : Strand) (f : Flags) (b : Bool) : (x.sticky f b).place = x.place := rfl
@[simp] theorem Strand.sticky_part (x : Strand) (f : Flags) (b : Bool) : (x.sticky f b).part = x.part := rfl
@[simp] theorem Strand.sticky_launch (x : Strand) (f : Flags) (b : Bool) : (x.sticky f b).launch = x.launch := rfl
@[simp] theorem Strand.sticky_flat (x : Strand) (f : Flags) (b : Bool) : (x.sticky f b).flat = x.flat := rfl
@[simp] theorem Strand.sticky_run (x : Strand) (f : Flags) (b : Bool) : (x.sticky f b).run = x.run := rfl
@[simp] theorem Strand.sticky_saved (x : Strand) (f : Flags) (b : Bool) : (x.sticky f b).saved = x.saved := rfl
@[simp] theorem Strand.sticky_due (x : Strand) (f : Flags) (b : Bool) : (x.sticky f b).due = x.due := rfl
@[simp] theorem Strand.sticky_pc (x : Strand) (f : Flags) (b : Bool) : (x.sticky f b).pc = x.pc := rfl
@[simp] theorem Strand.sticky_word (x : Strand) (f : Flags) (b : Bool) : (x.sticky f b).word = x.word := rfl
@[simp] theorem Strand.sticky_sregs (x : Strand) (f : Flags) (b : Bool) : (x.sticky f b).sregs = x.sregs := rfl
@[simp] theorem Strand.sticky_purses (x : Strand) (f : Flags) (b : Bool) : (x.sticky f b).purses = x.purses := rfl
@[simp] theorem Strand.sticky_masks (x : Strand) (f : Flags) (b : Bool) : (x.sticky f b).masks = x.masks := rfl
@[simp] theorem Strand.sticky_ctl (x : Strand) (f : Flags) (b : Bool) : (x.sticky f b).ctl = x.ctl.sticky f b := rfl
@[simp] theorem Strand.sticky_st (x : Strand) (f : Flags) (b : Bool) : (x.sticky f b).st = x.st := rfl
@[simp] theorem Strand.sticky_lvid (x : Strand) (f : Flags) (b : Bool) : (x.sticky f b).lvid = x.lvid := rfl
@[simp] theorem Strand.sticky_lvcnt (x : Strand) (f : Flags) (b : Bool) : (x.sticky f b).lvcnt = x.lvcnt := rfl
@[simp] theorem Strand.sticky_armed (x : Strand) (f : Flags) (b : Bool) : (x.sticky f b).armed = x.armed := rfl
@[simp] theorem Strand.sticky_residue (x : Strand) (f : Flags) (b : Bool) : (x.sticky f b).residue = x.residue := rfl
@[simp] theorem Strand.sticky_outer (x : Strand) (f : Flags) (b : Bool) : (x.sticky f b).outer = x.outer := rfl
@[simp] theorem Strand.sticky_links (x : Strand) (f : Flags) (b : Bool) : (x.sticky f b).links = x.links := rfl
@[simp] theorem Strand.sticky_arrivals (x : Strand) (f : Flags) (b : Bool) : (x.sticky f b).arrivals = x.arrivals := rfl
@[simp] theorem Strand.sticky_barHeld (x : Strand) (f : Flags) (b : Bool) : (x.sticky f b).barHeld = x.barHeld := rfl
@[simp] theorem Strand.sticky_ordHeld (x : Strand) (f : Flags) (b : Bool) : (x.sticky f b).ordHeld = x.ordHeld := rfl
@[simp] theorem Strand.sticky_trapPolicy (x : Strand) (f : Flags) (b : Bool) : (x.sticky f b).trapPolicy = x.trapPolicy := rfl
@[simp] theorem Strand.sticky_clean (x : Strand) (f : Flags) (b : Bool) : (x.sticky f b).clean = x.clean := rfl
@[simp] theorem Strand.sticky_segs (x : Strand) (f : Flags) (b : Bool) : (x.sticky f b).segs = x.segs := rfl
@[simp] theorem Strand.sticky_reserve (x : Strand) (f : Flags) (b : Bool) : (x.sticky f b).reserve = x.reserve := rfl
@[simp] theorem Strand.sticky_borrowed (x : Strand) (f : Flags) (b : Bool) : (x.sticky f b).borrowed = x.borrowed := rfl
@[simp] theorem Strand.sticky_prepLanes (x : Strand) (f : Flags) (b : Bool) : (x.sticky f b).prepLanes = x.prepLanes := rfl
@[simp] theorem Strand.sticky_prepSegs (x : Strand) (f : Flags) (b : Bool) : (x.sticky f b).prepSegs = x.prepSegs := rfl

@[simp] theorem Strand.setReceipt_place (x : Strand) (e a b d : Nat) (t : Bool) : (x.setReceipt e a b d t).place = x.place := rfl
@[simp] theorem Strand.setReceipt_part (x : Strand) (e a b d : Nat) (t : Bool) : (x.setReceipt e a b d t).part = x.part := rfl
@[simp] theorem Strand.setReceipt_launch (x : Strand) (e a b d : Nat) (t : Bool) : (x.setReceipt e a b d t).launch = x.launch := rfl
@[simp] theorem Strand.setReceipt_flat (x : Strand) (e a b d : Nat) (t : Bool) : (x.setReceipt e a b d t).flat = x.flat := rfl
@[simp] theorem Strand.setReceipt_run (x : Strand) (e a b d : Nat) (t : Bool) : (x.setReceipt e a b d t).run = x.run := rfl
@[simp] theorem Strand.setReceipt_saved (x : Strand) (e a b d : Nat) (t : Bool) : (x.setReceipt e a b d t).saved = x.saved := rfl
@[simp] theorem Strand.setReceipt_due (x : Strand) (e a b d : Nat) (t : Bool) : (x.setReceipt e a b d t).due = x.due := rfl
@[simp] theorem Strand.setReceipt_pc (x : Strand) (e a b d : Nat) (t : Bool) : (x.setReceipt e a b d t).pc = x.pc := rfl
@[simp] theorem Strand.setReceipt_word (x : Strand) (e a b d : Nat) (t : Bool) : (x.setReceipt e a b d t).word = x.word := rfl
@[simp] theorem Strand.setReceipt_sregs (x : Strand) (e a b d : Nat) (t : Bool) : (x.setReceipt e a b d t).sregs = x.sregs := rfl
@[simp] theorem Strand.setReceipt_purses (x : Strand) (e a b d : Nat) (t : Bool) : (x.setReceipt e a b d t).purses = x.purses := rfl
@[simp] theorem Strand.setReceipt_masks (x : Strand) (e a b d : Nat) (t : Bool) : (x.setReceipt e a b d t).masks = x.masks := rfl
@[simp] theorem Strand.setReceipt_st (x : Strand) (e a b d : Nat) (t : Bool) : (x.setReceipt e a b d t).st = x.st := rfl
@[simp] theorem Strand.setReceipt_lvid (x : Strand) (e a b d : Nat) (t : Bool) : (x.setReceipt e a b d t).lvid = x.lvid := rfl
@[simp] theorem Strand.setReceipt_lvcnt (x : Strand) (e a b d : Nat) (t : Bool) : (x.setReceipt e a b d t).lvcnt = x.lvcnt := rfl
@[simp] theorem Strand.setReceipt_armed (x : Strand) (e a b d : Nat) (t : Bool) : (x.setReceipt e a b d t).armed = x.armed := rfl
@[simp] theorem Strand.setReceipt_residue (x : Strand) (e a b d : Nat) (t : Bool) : (x.setReceipt e a b d t).residue = x.residue := rfl
@[simp] theorem Strand.setReceipt_outer (x : Strand) (e a b d : Nat) (t : Bool) : (x.setReceipt e a b d t).outer = x.outer := rfl
@[simp] theorem Strand.setReceipt_links (x : Strand) (e a b d : Nat) (t : Bool) : (x.setReceipt e a b d t).links = x.links := rfl
@[simp] theorem Strand.setReceipt_arrivals (x : Strand) (e a b d : Nat) (t : Bool) : (x.setReceipt e a b d t).arrivals = x.arrivals := rfl
@[simp] theorem Strand.setReceipt_barHeld (x : Strand) (e a b d : Nat) (t : Bool) : (x.setReceipt e a b d t).barHeld = x.barHeld := rfl
@[simp] theorem Strand.setReceipt_ordHeld (x : Strand) (e a b d : Nat) (t : Bool) : (x.setReceipt e a b d t).ordHeld = x.ordHeld := rfl
@[simp] theorem Strand.setReceipt_trapPolicy (x : Strand) (e a b d : Nat) (t : Bool) : (x.setReceipt e a b d t).trapPolicy = x.trapPolicy := rfl
@[simp] theorem Strand.setReceipt_clean (x : Strand) (e a b d : Nat) (t : Bool) : (x.setReceipt e a b d t).clean = x.clean := rfl
@[simp] theorem Strand.setReceipt_segs (x : Strand) (e a b d : Nat) (t : Bool) : (x.setReceipt e a b d t).segs = x.segs := rfl
@[simp] theorem Strand.setReceipt_reserve (x : Strand) (e a b d : Nat) (t : Bool) : (x.setReceipt e a b d t).reserve = x.reserve := rfl
@[simp] theorem Strand.setReceipt_borrowed (x : Strand) (e a b d : Nat) (t : Bool) : (x.setReceipt e a b d t).borrowed = x.borrowed := rfl
@[simp] theorem Strand.setReceipt_prepLanes (x : Strand) (e a b d : Nat) (t : Bool) : (x.setReceipt e a b d t).prepLanes = x.prepLanes := rfl
@[simp] theorem Strand.setReceipt_prepSegs (x : Strand) (e a b d : Nat) (t : Bool) : (x.setReceipt e a b d t).prepSegs = x.prepSegs := rfl

@[simp] theorem Strand.credit_place (x : Strand) (c : Bool) (l : List (Nat × Flags)) (t : Bool) : (x.credit c l t).place = x.place := rfl
@[simp] theorem Strand.credit_part (x : Strand) (c : Bool) (l : List (Nat × Flags)) (t : Bool) : (x.credit c l t).part = x.part := rfl
@[simp] theorem Strand.credit_launch (x : Strand) (c : Bool) (l : List (Nat × Flags)) (t : Bool) : (x.credit c l t).launch = x.launch := rfl
@[simp] theorem Strand.credit_flat (x : Strand) (c : Bool) (l : List (Nat × Flags)) (t : Bool) : (x.credit c l t).flat = x.flat := rfl
@[simp] theorem Strand.credit_run (x : Strand) (c : Bool) (l : List (Nat × Flags)) (t : Bool) : (x.credit c l t).run = x.run := rfl
@[simp] theorem Strand.credit_saved (x : Strand) (c : Bool) (l : List (Nat × Flags)) (t : Bool) : (x.credit c l t).saved = x.saved := rfl
@[simp] theorem Strand.credit_due (x : Strand) (c : Bool) (l : List (Nat × Flags)) (t : Bool) : (x.credit c l t).due = x.due := rfl
@[simp] theorem Strand.credit_pc (x : Strand) (c : Bool) (l : List (Nat × Flags)) (t : Bool) : (x.credit c l t).pc = x.pc := rfl
@[simp] theorem Strand.credit_word (x : Strand) (c : Bool) (l : List (Nat × Flags)) (t : Bool) : (x.credit c l t).word = x.word := rfl
@[simp] theorem Strand.credit_sregs (x : Strand) (c : Bool) (l : List (Nat × Flags)) (t : Bool) : (x.credit c l t).sregs = x.sregs := rfl
@[simp] theorem Strand.credit_purses (x : Strand) (c : Bool) (l : List (Nat × Flags)) (t : Bool) : (x.credit c l t).purses = x.purses := rfl
@[simp] theorem Strand.credit_masks (x : Strand) (c : Bool) (l : List (Nat × Flags)) (t : Bool) : (x.credit c l t).masks = x.masks := rfl
@[simp] theorem Strand.credit_st (x : Strand) (c : Bool) (l : List (Nat × Flags)) (t : Bool) : (x.credit c l t).st = x.st := rfl
@[simp] theorem Strand.credit_lvid (x : Strand) (c : Bool) (l : List (Nat × Flags)) (t : Bool) : (x.credit c l t).lvid = x.lvid := rfl
@[simp] theorem Strand.credit_lvcnt (x : Strand) (c : Bool) (l : List (Nat × Flags)) (t : Bool) : (x.credit c l t).lvcnt = x.lvcnt := rfl
@[simp] theorem Strand.credit_armed (x : Strand) (c : Bool) (l : List (Nat × Flags)) (t : Bool) : (x.credit c l t).armed = x.armed := rfl
@[simp] theorem Strand.credit_residue (x : Strand) (c : Bool) (l : List (Nat × Flags)) (t : Bool) : (x.credit c l t).residue = x.residue := rfl
@[simp] theorem Strand.credit_outer (x : Strand) (c : Bool) (l : List (Nat × Flags)) (t : Bool) : (x.credit c l t).outer = x.outer := rfl
@[simp] theorem Strand.credit_links (x : Strand) (c : Bool) (l : List (Nat × Flags)) (t : Bool) : (x.credit c l t).links = x.links := rfl
@[simp] theorem Strand.credit_arrivals (x : Strand) (c : Bool) (l : List (Nat × Flags)) (t : Bool) : (x.credit c l t).arrivals = x.arrivals := rfl
@[simp] theorem Strand.credit_barHeld (x : Strand) (c : Bool) (l : List (Nat × Flags)) (t : Bool) : (x.credit c l t).barHeld = x.barHeld := rfl
@[simp] theorem Strand.credit_ordHeld (x : Strand) (c : Bool) (l : List (Nat × Flags)) (t : Bool) : (x.credit c l t).ordHeld = x.ordHeld := rfl
@[simp] theorem Strand.credit_trapPolicy (x : Strand) (c : Bool) (l : List (Nat × Flags)) (t : Bool) : (x.credit c l t).trapPolicy = x.trapPolicy := rfl
@[simp] theorem Strand.credit_clean (x : Strand) (c : Bool) (l : List (Nat × Flags)) (t : Bool) : (x.credit c l t).clean = x.clean := rfl
@[simp] theorem Strand.credit_segs (x : Strand) (c : Bool) (l : List (Nat × Flags)) (t : Bool) : (x.credit c l t).segs = x.segs := rfl
@[simp] theorem Strand.credit_reserve (x : Strand) (c : Bool) (l : List (Nat × Flags)) (t : Bool) : (x.credit c l t).reserve = x.reserve := rfl
@[simp] theorem Strand.credit_borrowed (x : Strand) (c : Bool) (l : List (Nat × Flags)) (t : Bool) : (x.credit c l t).borrowed = x.borrowed := rfl
@[simp] theorem Strand.credit_prepLanes (x : Strand) (c : Bool) (l : List (Nat × Flags)) (t : Bool) : (x.credit c l t).prepLanes = x.prepLanes := rfl
@[simp] theorem Strand.credit_prepSegs (x : Strand) (c : Bool) (l : List (Nat × Flags)) (t : Bool) : (x.credit c l t).prepSegs = x.prepSegs := rfl

@[simp] theorem Strand.placePurse_place (x : Strand) (n : Nat) (p : Purse) : (x.placePurse n p).place = x.place := rfl
@[simp] theorem Strand.placePurse_part (x : Strand) (n : Nat) (p : Purse) : (x.placePurse n p).part = x.part := rfl
@[simp] theorem Strand.placePurse_launch (x : Strand) (n : Nat) (p : Purse) : (x.placePurse n p).launch = x.launch := rfl
@[simp] theorem Strand.placePurse_flat (x : Strand) (n : Nat) (p : Purse) : (x.placePurse n p).flat = x.flat := rfl
@[simp] theorem Strand.placePurse_run (x : Strand) (n : Nat) (p : Purse) : (x.placePurse n p).run = x.run := rfl
@[simp] theorem Strand.placePurse_saved (x : Strand) (n : Nat) (p : Purse) : (x.placePurse n p).saved = x.saved := rfl
@[simp] theorem Strand.placePurse_due (x : Strand) (n : Nat) (p : Purse) : (x.placePurse n p).due = x.due := rfl
@[simp] theorem Strand.placePurse_pc (x : Strand) (n : Nat) (p : Purse) : (x.placePurse n p).pc = x.pc := rfl
@[simp] theorem Strand.placePurse_word (x : Strand) (n : Nat) (p : Purse) : (x.placePurse n p).word = x.word := rfl
@[simp] theorem Strand.placePurse_sregs (x : Strand) (n : Nat) (p : Purse) : (x.placePurse n p).sregs = x.sregs := rfl
@[simp] theorem Strand.placePurse_purses (x : Strand) (n : Nat) (p : Purse) : (x.placePurse n p).purses = x.purses.setIfInBounds n p := rfl
@[simp] theorem Strand.placePurse_masks (x : Strand) (n : Nat) (p : Purse) : (x.placePurse n p).masks = x.masks := rfl
@[simp] theorem Strand.placePurse_ctl (x : Strand) (n : Nat) (p : Purse) : (x.placePurse n p).ctl = x.ctl := rfl
@[simp] theorem Strand.placePurse_st (x : Strand) (n : Nat) (p : Purse) : (x.placePurse n p).st = x.st := rfl
@[simp] theorem Strand.placePurse_lvid (x : Strand) (n : Nat) (p : Purse) : (x.placePurse n p).lvid = x.lvid := rfl
@[simp] theorem Strand.placePurse_lvcnt (x : Strand) (n : Nat) (p : Purse) : (x.placePurse n p).lvcnt = x.lvcnt := rfl
@[simp] theorem Strand.placePurse_armed (x : Strand) (n : Nat) (p : Purse) : (x.placePurse n p).armed = x.armed := rfl
@[simp] theorem Strand.placePurse_links (x : Strand) (n : Nat) (p : Purse) : (x.placePurse n p).links = x.links := rfl
@[simp] theorem Strand.placePurse_arrivals (x : Strand) (n : Nat) (p : Purse) : (x.placePurse n p).arrivals = x.arrivals := rfl
@[simp] theorem Strand.placePurse_barHeld (x : Strand) (n : Nat) (p : Purse) : (x.placePurse n p).barHeld = x.barHeld := rfl
@[simp] theorem Strand.placePurse_ordHeld (x : Strand) (n : Nat) (p : Purse) : (x.placePurse n p).ordHeld = x.ordHeld := rfl
@[simp] theorem Strand.placePurse_trapPolicy (x : Strand) (n : Nat) (p : Purse) : (x.placePurse n p).trapPolicy = x.trapPolicy := rfl
@[simp] theorem Strand.placePurse_clean (x : Strand) (n : Nat) (p : Purse) : (x.placePurse n p).clean = x.clean := rfl
@[simp] theorem Strand.placePurse_segs (x : Strand) (n : Nat) (p : Purse) : (x.placePurse n p).segs = x.segs := rfl
@[simp] theorem Strand.placePurse_reserve (x : Strand) (n : Nat) (p : Purse) : (x.placePurse n p).reserve = x.reserve := rfl
@[simp] theorem Strand.placePurse_borrowed (x : Strand) (n : Nat) (p : Purse) : (x.placePurse n p).borrowed = x.borrowed := rfl
@[simp] theorem Strand.placePurse_prepLanes (x : Strand) (n : Nat) (p : Purse) : (x.placePurse n p).prepLanes = x.prepLanes := rfl
@[simp] theorem Strand.placePurse_prepSegs (x : Strand) (n : Nat) (p : Purse) : (x.placePurse n p).prepSegs = x.prepSegs := rfl

@[simp] theorem Strand.setPurse_place (x : Strand) (n : Nat) (p : Purse) : (x.setPurse n p).place = x.place := rfl
@[simp] theorem Strand.setPurse_part (x : Strand) (n : Nat) (p : Purse) : (x.setPurse n p).part = x.part := rfl
@[simp] theorem Strand.setPurse_launch (x : Strand) (n : Nat) (p : Purse) : (x.setPurse n p).launch = x.launch := rfl
@[simp] theorem Strand.setPurse_flat (x : Strand) (n : Nat) (p : Purse) : (x.setPurse n p).flat = x.flat := rfl
@[simp] theorem Strand.setPurse_run (x : Strand) (n : Nat) (p : Purse) : (x.setPurse n p).run = x.run := rfl
@[simp] theorem Strand.setPurse_saved (x : Strand) (n : Nat) (p : Purse) : (x.setPurse n p).saved = x.saved := rfl
@[simp] theorem Strand.setPurse_due (x : Strand) (n : Nat) (p : Purse) : (x.setPurse n p).due = x.due := rfl
@[simp] theorem Strand.setPurse_pc (x : Strand) (n : Nat) (p : Purse) : (x.setPurse n p).pc = x.pc := rfl
@[simp] theorem Strand.setPurse_word (x : Strand) (n : Nat) (p : Purse) : (x.setPurse n p).word = x.word := rfl
@[simp] theorem Strand.setPurse_sregs (x : Strand) (n : Nat) (p : Purse) : (x.setPurse n p).sregs = x.sregs := rfl
@[simp] theorem Strand.setPurse_purses (x : Strand) (n : Nat) (p : Purse) : (x.setPurse n p).purses = x.purses.setIfInBounds n p := rfl
@[simp] theorem Strand.setPurse_masks (x : Strand) (n : Nat) (p : Purse) : (x.setPurse n p).masks = x.masks := rfl
@[simp] theorem Strand.setPurse_ctl (x : Strand) (n : Nat) (p : Purse) : (x.setPurse n p).ctl = x.ctl.seen p.tarn := rfl
@[simp] theorem Strand.setPurse_st (x : Strand) (n : Nat) (p : Purse) : (x.setPurse n p).st = x.st := rfl
@[simp] theorem Strand.setPurse_lvid (x : Strand) (n : Nat) (p : Purse) : (x.setPurse n p).lvid = x.lvid := rfl
@[simp] theorem Strand.setPurse_lvcnt (x : Strand) (n : Nat) (p : Purse) : (x.setPurse n p).lvcnt = x.lvcnt := rfl
@[simp] theorem Strand.setPurse_armed (x : Strand) (n : Nat) (p : Purse) : (x.setPurse n p).armed = x.armed := rfl
@[simp] theorem Strand.setPurse_links (x : Strand) (n : Nat) (p : Purse) : (x.setPurse n p).links = x.links := rfl
@[simp] theorem Strand.setPurse_arrivals (x : Strand) (n : Nat) (p : Purse) : (x.setPurse n p).arrivals = x.arrivals := rfl
@[simp] theorem Strand.setPurse_barHeld (x : Strand) (n : Nat) (p : Purse) : (x.setPurse n p).barHeld = x.barHeld := rfl
@[simp] theorem Strand.setPurse_ordHeld (x : Strand) (n : Nat) (p : Purse) : (x.setPurse n p).ordHeld = x.ordHeld := rfl
@[simp] theorem Strand.setPurse_trapPolicy (x : Strand) (n : Nat) (p : Purse) : (x.setPurse n p).trapPolicy = x.trapPolicy := rfl
@[simp] theorem Strand.setPurse_clean (x : Strand) (n : Nat) (p : Purse) : (x.setPurse n p).clean = x.clean := rfl
@[simp] theorem Strand.setPurse_segs (x : Strand) (n : Nat) (p : Purse) : (x.setPurse n p).segs = x.segs := rfl
@[simp] theorem Strand.setPurse_reserve (x : Strand) (n : Nat) (p : Purse) : (x.setPurse n p).reserve = x.reserve := rfl
@[simp] theorem Strand.setPurse_borrowed (x : Strand) (n : Nat) (p : Purse) : (x.setPurse n p).borrowed = x.borrowed := rfl
@[simp] theorem Strand.setPurse_prepLanes (x : Strand) (n : Nat) (p : Purse) : (x.setPurse n p).prepLanes = x.prepLanes := rfl
@[simp] theorem Strand.setPurse_prepSegs (x : Strand) (n : Nat) (p : Purse) : (x.setPurse n p).prepSegs = x.prepSegs := rfl

@[simp] theorem Strand.setReg_place (x : Strand) (f : BitVec 7) (v : TWord) : (x.setReg f v).place = x.place := by unfold Strand.setReg; split <;> rfl
@[simp] theorem Strand.setReg_part (x : Strand) (f : BitVec 7) (v : TWord) : (x.setReg f v).part = x.part := by unfold Strand.setReg; split <;> rfl
@[simp] theorem Strand.setReg_launch (x : Strand) (f : BitVec 7) (v : TWord) : (x.setReg f v).launch = x.launch := by unfold Strand.setReg; split <;> rfl
@[simp] theorem Strand.setReg_flat (x : Strand) (f : BitVec 7) (v : TWord) : (x.setReg f v).flat = x.flat := by unfold Strand.setReg; split <;> rfl
@[simp] theorem Strand.setReg_run (x : Strand) (f : BitVec 7) (v : TWord) : (x.setReg f v).run = x.run := by unfold Strand.setReg; split <;> rfl
@[simp] theorem Strand.setReg_saved (x : Strand) (f : BitVec 7) (v : TWord) : (x.setReg f v).saved = x.saved := by unfold Strand.setReg; split <;> rfl
@[simp] theorem Strand.setReg_due (x : Strand) (f : BitVec 7) (v : TWord) : (x.setReg f v).due = x.due := by unfold Strand.setReg; split <;> rfl
@[simp] theorem Strand.setReg_pc (x : Strand) (f : BitVec 7) (v : TWord) : (x.setReg f v).pc = x.pc := by unfold Strand.setReg; split <;> rfl
@[simp] theorem Strand.setReg_word (x : Strand) (f : BitVec 7) (v : TWord) : (x.setReg f v).word = x.word := by unfold Strand.setReg; split <;> rfl
@[simp] theorem Strand.setReg_purses (x : Strand) (f : BitVec 7) (v : TWord) : (x.setReg f v).purses = x.purses := by unfold Strand.setReg; split <;> rfl
@[simp] theorem Strand.setReg_masks (x : Strand) (f : BitVec 7) (v : TWord) : (x.setReg f v).masks = x.masks := by unfold Strand.setReg; split <;> rfl
@[simp] theorem Strand.setReg_st (x : Strand) (f : BitVec 7) (v : TWord) : (x.setReg f v).st = x.st := by unfold Strand.setReg; split <;> rfl
@[simp] theorem Strand.setReg_lvid (x : Strand) (f : BitVec 7) (v : TWord) : (x.setReg f v).lvid = x.lvid := by unfold Strand.setReg; split <;> rfl
@[simp] theorem Strand.setReg_lvcnt (x : Strand) (f : BitVec 7) (v : TWord) : (x.setReg f v).lvcnt = x.lvcnt := by unfold Strand.setReg; split <;> rfl
@[simp] theorem Strand.setReg_armed (x : Strand) (f : BitVec 7) (v : TWord) : (x.setReg f v).armed = x.armed := by unfold Strand.setReg; split <;> rfl
@[simp] theorem Strand.setReg_residue (x : Strand) (f : BitVec 7) (v : TWord) : (x.setReg f v).residue = x.residue := by unfold Strand.setReg; split <;> rfl
@[simp] theorem Strand.setReg_outer (x : Strand) (f : BitVec 7) (v : TWord) : (x.setReg f v).outer = x.outer := by unfold Strand.setReg; split <;> rfl
@[simp] theorem Strand.setReg_links (x : Strand) (f : BitVec 7) (v : TWord) : (x.setReg f v).links = x.links := by unfold Strand.setReg; split <;> rfl
@[simp] theorem Strand.setReg_arrivals (x : Strand) (f : BitVec 7) (v : TWord) : (x.setReg f v).arrivals = x.arrivals := by unfold Strand.setReg; split <;> rfl
@[simp] theorem Strand.setReg_barHeld (x : Strand) (f : BitVec 7) (v : TWord) : (x.setReg f v).barHeld = x.barHeld := by unfold Strand.setReg; split <;> rfl
@[simp] theorem Strand.setReg_ordHeld (x : Strand) (f : BitVec 7) (v : TWord) : (x.setReg f v).ordHeld = x.ordHeld := by unfold Strand.setReg; split <;> rfl
@[simp] theorem Strand.setReg_trapPolicy (x : Strand) (f : BitVec 7) (v : TWord) : (x.setReg f v).trapPolicy = x.trapPolicy := by unfold Strand.setReg; split <;> rfl
@[simp] theorem Strand.setReg_clean (x : Strand) (f : BitVec 7) (v : TWord) : (x.setReg f v).clean = x.clean := by unfold Strand.setReg; split <;> rfl
@[simp] theorem Strand.setReg_segs (x : Strand) (f : BitVec 7) (v : TWord) : (x.setReg f v).segs = x.segs := by unfold Strand.setReg; split <;> rfl
@[simp] theorem Strand.setReg_reserve (x : Strand) (f : BitVec 7) (v : TWord) : (x.setReg f v).reserve = x.reserve := by unfold Strand.setReg; split <;> rfl
@[simp] theorem Strand.setReg_borrowed (x : Strand) (f : BitVec 7) (v : TWord) : (x.setReg f v).borrowed = x.borrowed := by unfold Strand.setReg; split <;> rfl
@[simp] theorem Strand.setReg_prepLanes (x : Strand) (f : BitVec 7) (v : TWord) : (x.setReg f v).prepLanes = x.prepLanes := by unfold Strand.setReg; split <;> rfl
@[simp] theorem Strand.setReg_prepSegs (x : Strand) (f : BitVec 7) (v : TWord) : (x.setReg f v).prepSegs = x.prepSegs := by unfold Strand.setReg; split <;> rfl

@[simp] theorem Strand.setMask_place (x : Strand) (n : Nat) (m : KMask) : (x.setMask n m).place = x.place := by unfold Strand.setMask; split <;> rfl
@[simp] theorem Strand.setMask_part (x : Strand) (n : Nat) (m : KMask) : (x.setMask n m).part = x.part := by unfold Strand.setMask; split <;> rfl
@[simp] theorem Strand.setMask_launch (x : Strand) (n : Nat) (m : KMask) : (x.setMask n m).launch = x.launch := by unfold Strand.setMask; split <;> rfl
@[simp] theorem Strand.setMask_flat (x : Strand) (n : Nat) (m : KMask) : (x.setMask n m).flat = x.flat := by unfold Strand.setMask; split <;> rfl
@[simp] theorem Strand.setMask_run (x : Strand) (n : Nat) (m : KMask) : (x.setMask n m).run = x.run := by unfold Strand.setMask; split <;> rfl
@[simp] theorem Strand.setMask_saved (x : Strand) (n : Nat) (m : KMask) : (x.setMask n m).saved = x.saved := by unfold Strand.setMask; split <;> rfl
@[simp] theorem Strand.setMask_due (x : Strand) (n : Nat) (m : KMask) : (x.setMask n m).due = x.due := by unfold Strand.setMask; split <;> rfl
@[simp] theorem Strand.setMask_pc (x : Strand) (n : Nat) (m : KMask) : (x.setMask n m).pc = x.pc := by unfold Strand.setMask; split <;> rfl
@[simp] theorem Strand.setMask_word (x : Strand) (n : Nat) (m : KMask) : (x.setMask n m).word = x.word := by unfold Strand.setMask; split <;> rfl
@[simp] theorem Strand.setMask_sregs (x : Strand) (n : Nat) (m : KMask) : (x.setMask n m).sregs = x.sregs := by unfold Strand.setMask; split <;> rfl
@[simp] theorem Strand.setMask_purses (x : Strand) (n : Nat) (m : KMask) : (x.setMask n m).purses = x.purses := by unfold Strand.setMask; split <;> rfl
@[simp] theorem Strand.setMask_st (x : Strand) (n : Nat) (m : KMask) : (x.setMask n m).st = x.st := by unfold Strand.setMask; split <;> rfl
@[simp] theorem Strand.setMask_lvid (x : Strand) (n : Nat) (m : KMask) : (x.setMask n m).lvid = x.lvid := by unfold Strand.setMask; split <;> rfl
@[simp] theorem Strand.setMask_lvcnt (x : Strand) (n : Nat) (m : KMask) : (x.setMask n m).lvcnt = x.lvcnt := by unfold Strand.setMask; split <;> rfl
@[simp] theorem Strand.setMask_armed (x : Strand) (n : Nat) (m : KMask) : (x.setMask n m).armed = x.armed := by unfold Strand.setMask; split <;> rfl
@[simp] theorem Strand.setMask_residue (x : Strand) (n : Nat) (m : KMask) : (x.setMask n m).residue = x.residue := by unfold Strand.setMask; split <;> rfl
@[simp] theorem Strand.setMask_outer (x : Strand) (n : Nat) (m : KMask) : (x.setMask n m).outer = x.outer := by unfold Strand.setMask; split <;> rfl
@[simp] theorem Strand.setMask_links (x : Strand) (n : Nat) (m : KMask) : (x.setMask n m).links = x.links := by unfold Strand.setMask; split <;> rfl
@[simp] theorem Strand.setMask_arrivals (x : Strand) (n : Nat) (m : KMask) : (x.setMask n m).arrivals = x.arrivals := by unfold Strand.setMask; split <;> rfl
@[simp] theorem Strand.setMask_barHeld (x : Strand) (n : Nat) (m : KMask) : (x.setMask n m).barHeld = x.barHeld := by unfold Strand.setMask; split <;> rfl
@[simp] theorem Strand.setMask_ordHeld (x : Strand) (n : Nat) (m : KMask) : (x.setMask n m).ordHeld = x.ordHeld := by unfold Strand.setMask; split <;> rfl
@[simp] theorem Strand.setMask_trapPolicy (x : Strand) (n : Nat) (m : KMask) : (x.setMask n m).trapPolicy = x.trapPolicy := by unfold Strand.setMask; split <;> rfl
@[simp] theorem Strand.setMask_clean (x : Strand) (n : Nat) (m : KMask) : (x.setMask n m).clean = x.clean := by unfold Strand.setMask; split <;> rfl
@[simp] theorem Strand.setMask_segs (x : Strand) (n : Nat) (m : KMask) : (x.setMask n m).segs = x.segs := by unfold Strand.setMask; split <;> rfl
@[simp] theorem Strand.setMask_reserve (x : Strand) (n : Nat) (m : KMask) : (x.setMask n m).reserve = x.reserve := by unfold Strand.setMask; split <;> rfl
@[simp] theorem Strand.setMask_borrowed (x : Strand) (n : Nat) (m : KMask) : (x.setMask n m).borrowed = x.borrowed := by unfold Strand.setMask; split <;> rfl
@[simp] theorem Strand.setMask_prepLanes (x : Strand) (n : Nat) (m : KMask) : (x.setMask n m).prepLanes = x.prepLanes := by unfold Strand.setMask; split <;> rfl
@[simp] theorem Strand.setMask_prepSegs (x : Strand) (n : Nat) (m : KMask) : (x.setMask n m).prepSegs = x.prepSegs := by unfold Strand.setMask; split <;> rfl

@[simp] theorem Strand.recordClean_place (x : Strand) (h : List Nat) : (x.recordClean h).place = x.place := by unfold Strand.recordClean; split <;> rfl
@[simp] theorem Strand.recordClean_part (x : Strand) (h : List Nat) : (x.recordClean h).part = x.part := by unfold Strand.recordClean; split <;> rfl
@[simp] theorem Strand.recordClean_launch (x : Strand) (h : List Nat) : (x.recordClean h).launch = x.launch := by unfold Strand.recordClean; split <;> rfl
@[simp] theorem Strand.recordClean_flat (x : Strand) (h : List Nat) : (x.recordClean h).flat = x.flat := by unfold Strand.recordClean; split <;> rfl
@[simp] theorem Strand.recordClean_run (x : Strand) (h : List Nat) : (x.recordClean h).run = x.run := by unfold Strand.recordClean; split <;> rfl
@[simp] theorem Strand.recordClean_saved (x : Strand) (h : List Nat) : (x.recordClean h).saved = x.saved := by unfold Strand.recordClean; split <;> rfl
@[simp] theorem Strand.recordClean_due (x : Strand) (h : List Nat) : (x.recordClean h).due = x.due := by unfold Strand.recordClean; split <;> rfl
@[simp] theorem Strand.recordClean_pc (x : Strand) (h : List Nat) : (x.recordClean h).pc = x.pc := by unfold Strand.recordClean; split <;> rfl
@[simp] theorem Strand.recordClean_word (x : Strand) (h : List Nat) : (x.recordClean h).word = x.word := by unfold Strand.recordClean; split <;> rfl
@[simp] theorem Strand.recordClean_sregs (x : Strand) (h : List Nat) : (x.recordClean h).sregs = x.sregs := by unfold Strand.recordClean; split <;> rfl
@[simp] theorem Strand.recordClean_purses (x : Strand) (h : List Nat) : (x.recordClean h).purses = x.purses := by unfold Strand.recordClean; split <;> rfl
@[simp] theorem Strand.recordClean_masks (x : Strand) (h : List Nat) : (x.recordClean h).masks = x.masks := by unfold Strand.recordClean; split <;> rfl
@[simp] theorem Strand.recordClean_st (x : Strand) (h : List Nat) : (x.recordClean h).st = x.st := by unfold Strand.recordClean; split <;> rfl
@[simp] theorem Strand.recordClean_lvid (x : Strand) (h : List Nat) : (x.recordClean h).lvid = x.lvid := by unfold Strand.recordClean; split <;> rfl
@[simp] theorem Strand.recordClean_lvcnt (x : Strand) (h : List Nat) : (x.recordClean h).lvcnt = x.lvcnt := by unfold Strand.recordClean; split <;> rfl
@[simp] theorem Strand.recordClean_armed (x : Strand) (h : List Nat) : (x.recordClean h).armed = x.armed := by unfold Strand.recordClean; split <;> rfl
@[simp] theorem Strand.recordClean_residue (x : Strand) (h : List Nat) : (x.recordClean h).residue = x.residue := by unfold Strand.recordClean; split <;> rfl
@[simp] theorem Strand.recordClean_outer (x : Strand) (h : List Nat) : (x.recordClean h).outer = x.outer := by unfold Strand.recordClean; split <;> rfl
@[simp] theorem Strand.recordClean_links (x : Strand) (h : List Nat) : (x.recordClean h).links = x.links := by unfold Strand.recordClean; split <;> rfl
@[simp] theorem Strand.recordClean_arrivals (x : Strand) (h : List Nat) : (x.recordClean h).arrivals = x.arrivals := by unfold Strand.recordClean; split <;> rfl
@[simp] theorem Strand.recordClean_barHeld (x : Strand) (h : List Nat) : (x.recordClean h).barHeld = x.barHeld := by unfold Strand.recordClean; split <;> rfl
@[simp] theorem Strand.recordClean_ordHeld (x : Strand) (h : List Nat) : (x.recordClean h).ordHeld = x.ordHeld := by unfold Strand.recordClean; split <;> rfl
@[simp] theorem Strand.recordClean_trapPolicy (x : Strand) (h : List Nat) : (x.recordClean h).trapPolicy = x.trapPolicy := by unfold Strand.recordClean; split <;> rfl
@[simp] theorem Strand.recordClean_clean (x : Strand) (h : List Nat) : (x.recordClean h).clean = x.clean := by unfold Strand.recordClean; split <;> rfl
@[simp] theorem Strand.recordClean_segs (x : Strand) (h : List Nat) : (x.recordClean h).segs = x.segs := by unfold Strand.recordClean; split <;> rfl
@[simp] theorem Strand.recordClean_reserve (x : Strand) (h : List Nat) : (x.recordClean h).reserve = x.reserve := by unfold Strand.recordClean; split <;> rfl
@[simp] theorem Strand.recordClean_borrowed (x : Strand) (h : List Nat) : (x.recordClean h).borrowed = x.borrowed := by unfold Strand.recordClean; split <;> rfl
@[simp] theorem Strand.recordClean_prepLanes (x : Strand) (h : List Nat) : (x.recordClean h).prepLanes = x.prepLanes := by unfold Strand.recordClean; split <;> rfl
@[simp] theorem Strand.recordClean_prepSegs (x : Strand) (h : List Nat) : (x.recordClean h).prepSegs = x.prepSegs := by unfold Strand.recordClean; split <;> rfl

@[simp] theorem Strand.amaxOver_place (x : Strand) (l : List Ex) (b : Bool) : (x.amaxOver l b).place = x.place := by unfold Strand.amaxOver; split <;> rfl
@[simp] theorem Strand.amaxOver_part (x : Strand) (l : List Ex) (b : Bool) : (x.amaxOver l b).part = x.part := by unfold Strand.amaxOver; split <;> rfl
@[simp] theorem Strand.amaxOver_launch (x : Strand) (l : List Ex) (b : Bool) : (x.amaxOver l b).launch = x.launch := by unfold Strand.amaxOver; split <;> rfl
@[simp] theorem Strand.amaxOver_flat (x : Strand) (l : List Ex) (b : Bool) : (x.amaxOver l b).flat = x.flat := by unfold Strand.amaxOver; split <;> rfl
@[simp] theorem Strand.amaxOver_run (x : Strand) (l : List Ex) (b : Bool) : (x.amaxOver l b).run = x.run := by unfold Strand.amaxOver; split <;> rfl
@[simp] theorem Strand.amaxOver_saved (x : Strand) (l : List Ex) (b : Bool) : (x.amaxOver l b).saved = x.saved := by unfold Strand.amaxOver; split <;> rfl
@[simp] theorem Strand.amaxOver_due (x : Strand) (l : List Ex) (b : Bool) : (x.amaxOver l b).due = x.due := by unfold Strand.amaxOver; split <;> rfl
@[simp] theorem Strand.amaxOver_pc (x : Strand) (l : List Ex) (b : Bool) : (x.amaxOver l b).pc = x.pc := by unfold Strand.amaxOver; split <;> rfl
@[simp] theorem Strand.amaxOver_word (x : Strand) (l : List Ex) (b : Bool) : (x.amaxOver l b).word = x.word := by unfold Strand.amaxOver; split <;> rfl
@[simp] theorem Strand.amaxOver_sregs (x : Strand) (l : List Ex) (b : Bool) : (x.amaxOver l b).sregs = x.sregs := by unfold Strand.amaxOver; split <;> rfl
@[simp] theorem Strand.amaxOver_purses (x : Strand) (l : List Ex) (b : Bool) : (x.amaxOver l b).purses = x.purses := by unfold Strand.amaxOver; split <;> rfl
@[simp] theorem Strand.amaxOver_masks (x : Strand) (l : List Ex) (b : Bool) : (x.amaxOver l b).masks = x.masks := by unfold Strand.amaxOver; split <;> rfl
@[simp] theorem Strand.amaxOver_st (x : Strand) (l : List Ex) (b : Bool) : (x.amaxOver l b).st = x.st := by unfold Strand.amaxOver; split <;> rfl
@[simp] theorem Strand.amaxOver_lvid (x : Strand) (l : List Ex) (b : Bool) : (x.amaxOver l b).lvid = x.lvid := by unfold Strand.amaxOver; split <;> rfl
@[simp] theorem Strand.amaxOver_lvcnt (x : Strand) (l : List Ex) (b : Bool) : (x.amaxOver l b).lvcnt = x.lvcnt := by unfold Strand.amaxOver; split <;> rfl
@[simp] theorem Strand.amaxOver_armed (x : Strand) (l : List Ex) (b : Bool) : (x.amaxOver l b).armed = x.armed := by unfold Strand.amaxOver; split <;> rfl
@[simp] theorem Strand.amaxOver_residue (x : Strand) (l : List Ex) (b : Bool) : (x.amaxOver l b).residue = x.residue := by unfold Strand.amaxOver; split <;> rfl
@[simp] theorem Strand.amaxOver_outer (x : Strand) (l : List Ex) (b : Bool) : (x.amaxOver l b).outer = x.outer := by unfold Strand.amaxOver; split <;> rfl
@[simp] theorem Strand.amaxOver_links (x : Strand) (l : List Ex) (b : Bool) : (x.amaxOver l b).links = x.links := by unfold Strand.amaxOver; split <;> rfl
@[simp] theorem Strand.amaxOver_arrivals (x : Strand) (l : List Ex) (b : Bool) : (x.amaxOver l b).arrivals = x.arrivals := by unfold Strand.amaxOver; split <;> rfl
@[simp] theorem Strand.amaxOver_barHeld (x : Strand) (l : List Ex) (b : Bool) : (x.amaxOver l b).barHeld = x.barHeld := by unfold Strand.amaxOver; split <;> rfl
@[simp] theorem Strand.amaxOver_ordHeld (x : Strand) (l : List Ex) (b : Bool) : (x.amaxOver l b).ordHeld = x.ordHeld := by unfold Strand.amaxOver; split <;> rfl
@[simp] theorem Strand.amaxOver_trapPolicy (x : Strand) (l : List Ex) (b : Bool) : (x.amaxOver l b).trapPolicy = x.trapPolicy := by unfold Strand.amaxOver; split <;> rfl
@[simp] theorem Strand.amaxOver_clean (x : Strand) (l : List Ex) (b : Bool) : (x.amaxOver l b).clean = x.clean := by unfold Strand.amaxOver; split <;> rfl
@[simp] theorem Strand.amaxOver_segs (x : Strand) (l : List Ex) (b : Bool) : (x.amaxOver l b).segs = x.segs := by unfold Strand.amaxOver; split <;> rfl
@[simp] theorem Strand.amaxOver_reserve (x : Strand) (l : List Ex) (b : Bool) : (x.amaxOver l b).reserve = x.reserve := by unfold Strand.amaxOver; split <;> rfl
@[simp] theorem Strand.amaxOver_borrowed (x : Strand) (l : List Ex) (b : Bool) : (x.amaxOver l b).borrowed = x.borrowed := by unfold Strand.amaxOver; split <;> rfl
@[simp] theorem Strand.amaxOver_prepLanes (x : Strand) (l : List Ex) (b : Bool) : (x.amaxOver l b).prepLanes = x.prepLanes := by unfold Strand.amaxOver; split <;> rfl
@[simp] theorem Strand.amaxOver_prepSegs (x : Strand) (l : List Ex) (b : Bool) : (x.amaxOver l b).prepSegs = x.prepSegs := by unfold Strand.amaxOver; split <;> rfl

@[simp] theorem Strand.endRestart_place (x : Strand) (b : Bool) : (x.endRestart b).place = x.place := by unfold Strand.endRestart; split <;> rfl
@[simp] theorem Strand.endRestart_part (x : Strand) (b : Bool) : (x.endRestart b).part = x.part := by unfold Strand.endRestart; split <;> rfl
@[simp] theorem Strand.endRestart_launch (x : Strand) (b : Bool) : (x.endRestart b).launch = x.launch := by unfold Strand.endRestart; split <;> rfl
@[simp] theorem Strand.endRestart_flat (x : Strand) (b : Bool) : (x.endRestart b).flat = x.flat := by unfold Strand.endRestart; split <;> rfl
@[simp] theorem Strand.endRestart_run (x : Strand) (b : Bool) : (x.endRestart b).run = x.run := by unfold Strand.endRestart; split <;> rfl
@[simp] theorem Strand.endRestart_saved (x : Strand) (b : Bool) : (x.endRestart b).saved = x.saved := by unfold Strand.endRestart; split <;> rfl
@[simp] theorem Strand.endRestart_due (x : Strand) (b : Bool) : (x.endRestart b).due = x.due := by unfold Strand.endRestart; split <;> rfl
@[simp] theorem Strand.endRestart_pc (x : Strand) (b : Bool) : (x.endRestart b).pc = x.pc := by unfold Strand.endRestart; split <;> rfl
@[simp] theorem Strand.endRestart_word (x : Strand) (b : Bool) : (x.endRestart b).word = x.word := by unfold Strand.endRestart; split <;> rfl
@[simp] theorem Strand.endRestart_sregs (x : Strand) (b : Bool) : (x.endRestart b).sregs = x.sregs := by unfold Strand.endRestart; split <;> rfl
@[simp] theorem Strand.endRestart_purses (x : Strand) (b : Bool) : (x.endRestart b).purses = x.purses := by unfold Strand.endRestart; split <;> rfl
@[simp] theorem Strand.endRestart_masks (x : Strand) (b : Bool) : (x.endRestart b).masks = x.masks := by unfold Strand.endRestart; split <;> rfl
@[simp] theorem Strand.endRestart_st (x : Strand) (b : Bool) : (x.endRestart b).st = x.st := by unfold Strand.endRestart; split <;> rfl
@[simp] theorem Strand.endRestart_lvid (x : Strand) (b : Bool) : (x.endRestart b).lvid = x.lvid := by unfold Strand.endRestart; split <;> rfl
@[simp] theorem Strand.endRestart_lvcnt (x : Strand) (b : Bool) : (x.endRestart b).lvcnt = x.lvcnt := by unfold Strand.endRestart; split <;> rfl
@[simp] theorem Strand.endRestart_armed (x : Strand) (b : Bool) : (x.endRestart b).armed = x.armed := by unfold Strand.endRestart; split <;> rfl
@[simp] theorem Strand.endRestart_outer (x : Strand) (b : Bool) : (x.endRestart b).outer = x.outer := by unfold Strand.endRestart; split <;> rfl
@[simp] theorem Strand.endRestart_links (x : Strand) (b : Bool) : (x.endRestart b).links = x.links := by unfold Strand.endRestart; split <;> rfl
@[simp] theorem Strand.endRestart_arrivals (x : Strand) (b : Bool) : (x.endRestart b).arrivals = x.arrivals := by unfold Strand.endRestart; split <;> rfl
@[simp] theorem Strand.endRestart_barHeld (x : Strand) (b : Bool) : (x.endRestart b).barHeld = x.barHeld := by unfold Strand.endRestart; split <;> rfl
@[simp] theorem Strand.endRestart_ordHeld (x : Strand) (b : Bool) : (x.endRestart b).ordHeld = x.ordHeld := by unfold Strand.endRestart; split <;> rfl
@[simp] theorem Strand.endRestart_trapPolicy (x : Strand) (b : Bool) : (x.endRestart b).trapPolicy = x.trapPolicy := by unfold Strand.endRestart; split <;> rfl
@[simp] theorem Strand.endRestart_clean (x : Strand) (b : Bool) : (x.endRestart b).clean = x.clean := by unfold Strand.endRestart; split <;> rfl
@[simp] theorem Strand.endRestart_segs (x : Strand) (b : Bool) : (x.endRestart b).segs = x.segs := by unfold Strand.endRestart; split <;> rfl
@[simp] theorem Strand.endRestart_reserve (x : Strand) (b : Bool) : (x.endRestart b).reserve = x.reserve := by unfold Strand.endRestart; split <;> rfl
@[simp] theorem Strand.endRestart_borrowed (x : Strand) (b : Bool) : (x.endRestart b).borrowed = x.borrowed := by unfold Strand.endRestart; split <;> rfl
@[simp] theorem Strand.endRestart_prepLanes (x : Strand) (b : Bool) : (x.endRestart b).prepLanes = x.prepLanes := by unfold Strand.endRestart; split <;> rfl
@[simp] theorem Strand.endRestart_prepSegs (x : Strand) (b : Bool) : (x.endRestart b).prepSegs = x.prepSegs := by unfold Strand.endRestart; split <;> rfl

@[simp] theorem Strand.enter_place (x : Strand) (b : Bool) (w : Word) (t : Trap) : (x.enter b w t).place = x.place := rfl
@[simp] theorem Strand.enter_part (x : Strand) (b : Bool) (w : Word) (t : Trap) : (x.enter b w t).part = x.part := rfl
@[simp] theorem Strand.enter_launch (x : Strand) (b : Bool) (w : Word) (t : Trap) : (x.enter b w t).launch = x.launch := rfl
@[simp] theorem Strand.enter_flat (x : Strand) (b : Bool) (w : Word) (t : Trap) : (x.enter b w t).flat = x.flat := rfl
@[simp] theorem Strand.enter_run (x : Strand) (b : Bool) (w : Word) (t : Trap) : (x.enter b w t).run = x.run := rfl
@[simp] theorem Strand.enter_saved (x : Strand) (b : Bool) (w : Word) (t : Trap) : (x.enter b w t).saved = x.saved := rfl
@[simp] theorem Strand.enter_due (x : Strand) (b : Bool) (w : Word) (t : Trap) : (x.enter b w t).due = x.due := rfl
@[simp] theorem Strand.enter_pc (x : Strand) (b : Bool) (w : Word) (t : Trap) : (x.enter b w t).pc = x.ctl.tvec.val.setWidth 52 := rfl
@[simp] theorem Strand.enter_word (x : Strand) (b : Bool) (w : Word) (t : Trap) : (x.enter b w t).word = x.word := rfl
@[simp] theorem Strand.enter_sregs (x : Strand) (b : Bool) (w : Word) (t : Trap) : (x.enter b w t).sregs = x.sregs := rfl
@[simp] theorem Strand.enter_purses (x : Strand) (b : Bool) (w : Word) (t : Trap) : (x.enter b w t).purses = x.purses := rfl
@[simp] theorem Strand.enter_masks (x : Strand) (b : Bool) (w : Word) (t : Trap) : (x.enter b w t).masks = x.masks := rfl
@[simp] theorem Strand.enter_ctl (x : Strand) (b : Bool) (w : Word) (t : Trap) : (x.enter b w t).ctl = x.ctl.trapRegs w (causeWord t 0 false b) t := rfl
@[simp] theorem Strand.enter_st (x : Strand) (b : Bool) (w : Word) (t : Trap) : (x.enter b w t).st = { x.st with tr := true, tarn := false } := rfl
@[simp] theorem Strand.enter_lvid (x : Strand) (b : Bool) (w : Word) (t : Trap) : (x.enter b w t).lvid = x.lvid := rfl
@[simp] theorem Strand.enter_lvcnt (x : Strand) (b : Bool) (w : Word) (t : Trap) : (x.enter b w t).lvcnt = x.lvcnt := rfl
@[simp] theorem Strand.enter_armed (x : Strand) (b : Bool) (w : Word) (t : Trap) : (x.enter b w t).armed = none := rfl
@[simp] theorem Strand.enter_residue (x : Strand) (b : Bool) (w : Word) (t : Trap) : (x.enter b w t).residue = none := rfl
@[simp] theorem Strand.enter_outer (x : Strand) (b : Bool) (w : Word) (t : Trap) : (x.enter b w t).outer = x.stopResidue t := rfl
@[simp] theorem Strand.enter_links (x : Strand) (b : Bool) (w : Word) (t : Trap) : (x.enter b w t).links = x.links := rfl
@[simp] theorem Strand.enter_arrivals (x : Strand) (b : Bool) (w : Word) (t : Trap) : (x.enter b w t).arrivals = x.arrivals := rfl
@[simp] theorem Strand.enter_barHeld (x : Strand) (b : Bool) (w : Word) (t : Trap) : (x.enter b w t).barHeld = x.barHeld := rfl
@[simp] theorem Strand.enter_ordHeld (x : Strand) (b : Bool) (w : Word) (t : Trap) : (x.enter b w t).ordHeld = x.ordHeld := rfl
@[simp] theorem Strand.enter_trapPolicy (x : Strand) (b : Bool) (w : Word) (t : Trap) : (x.enter b w t).trapPolicy = x.trapPolicy := rfl
@[simp] theorem Strand.enter_clean (x : Strand) (b : Bool) (w : Word) (t : Trap) : (x.enter b w t).clean = x.clean := rfl
@[simp] theorem Strand.enter_segs (x : Strand) (b : Bool) (w : Word) (t : Trap) : (x.enter b w t).segs = x.segs := rfl
@[simp] theorem Strand.enter_reserve (x : Strand) (b : Bool) (w : Word) (t : Trap) : (x.enter b w t).reserve = x.reserve := rfl
@[simp] theorem Strand.enter_borrowed (x : Strand) (b : Bool) (w : Word) (t : Trap) : (x.enter b w t).borrowed = x.borrowed := rfl
@[simp] theorem Strand.enter_prepLanes (x : Strand) (b : Bool) (w : Word) (t : Trap) : (x.enter b w t).prepLanes = x.prepLanes := rfl
@[simp] theorem Strand.enter_prepSegs (x : Strand) (b : Bool) (w : Word) (t : Trap) : (x.enter b w t).prepSegs = x.prepSegs := rfl

@[simp] theorem Strand.leave_place (x : Strand) : (x.leave).place = x.place := rfl
@[simp] theorem Strand.leave_part (x : Strand) : (x.leave).part = x.part := rfl
@[simp] theorem Strand.leave_launch (x : Strand) : (x.leave).launch = x.launch := rfl
@[simp] theorem Strand.leave_flat (x : Strand) : (x.leave).flat = x.flat := rfl
@[simp] theorem Strand.leave_run (x : Strand) : (x.leave).run = x.run := rfl
@[simp] theorem Strand.leave_saved (x : Strand) : (x.leave).saved = x.saved := rfl
@[simp] theorem Strand.leave_due (x : Strand) : (x.leave).due = x.due := rfl
@[simp] theorem Strand.leave_pc (x : Strand) : (x.leave).pc = x.ctl.tpc.val.setWidth 52 := rfl
@[simp] theorem Strand.leave_word (x : Strand) : (x.leave).word = x.word := rfl
@[simp] theorem Strand.leave_sregs (x : Strand) : (x.leave).sregs = x.sregs := rfl
@[simp] theorem Strand.leave_purses (x : Strand) : (x.leave).purses = x.purses := rfl
@[simp] theorem Strand.leave_masks (x : Strand) : (x.leave).masks = x.masks := rfl
@[simp] theorem Strand.leave_ctl (x : Strand) : (x.leave).ctl = x.ctl := rfl
@[simp] theorem Strand.leave_st (x : Strand) : (x.leave).st = { x.st with tr := false, tarn := x.ctl.tpc.tarn || x.ctl.resume.tarn } := rfl
@[simp] theorem Strand.leave_lvid (x : Strand) : (x.leave).lvid = x.lvid := rfl
@[simp] theorem Strand.leave_lvcnt (x : Strand) : (x.leave).lvcnt = x.lvcnt := rfl
@[simp] theorem Strand.leave_residue (x : Strand) : (x.leave).residue = x.leaveResidue := rfl
@[simp] theorem Strand.leave_outer (x : Strand) : (x.leave).outer = none := rfl
@[simp] theorem Strand.leave_links (x : Strand) : (x.leave).links = x.links := rfl
@[simp] theorem Strand.leave_arrivals (x : Strand) : (x.leave).arrivals = x.arrivals := rfl
@[simp] theorem Strand.leave_barHeld (x : Strand) : (x.leave).barHeld = x.barHeld := rfl
@[simp] theorem Strand.leave_ordHeld (x : Strand) : (x.leave).ordHeld = x.ordHeld := rfl
@[simp] theorem Strand.leave_trapPolicy (x : Strand) : (x.leave).trapPolicy = x.trapPolicy := rfl
@[simp] theorem Strand.leave_clean (x : Strand) : (x.leave).clean = x.clean := rfl
@[simp] theorem Strand.leave_segs (x : Strand) : (x.leave).segs = x.segs := rfl
@[simp] theorem Strand.leave_reserve (x : Strand) : (x.leave).reserve = x.reserve := rfl
@[simp] theorem Strand.leave_borrowed (x : Strand) : (x.leave).borrowed = x.borrowed := rfl
@[simp] theorem Strand.leave_prepLanes (x : Strand) : (x.leave).prepLanes = x.prepLanes := rfl
@[simp] theorem Strand.leave_prepSegs (x : Strand) : (x.leave).prepSegs = x.prepSegs := rfl

/-! ## Updates of the control registers -/

@[simp] theorem Ctl.seen_mode (x : Ctl) (b : Bool) : (x.seen b).mode = x.mode := by unfold Ctl.seen; split <;> rfl
@[simp] theorem Ctl.seen_winb (x : Ctl) (b : Bool) : (x.seen b).winb = x.winb := by unfold Ctl.seen; split <;> rfl
@[simp] theorem Ctl.seen_ring (x : Ctl) (b : Bool) : (x.seen b).ring = x.ring := by unfold Ctl.seen; split <;> rfl
@[simp] theorem Ctl.seen_laps (x : Ctl) (b : Bool) : (x.seen b).laps = x.laps := by unfold Ctl.seen; split <;> rfl
@[simp] theorem Ctl.seen_amr (x : Ctl) (b : Bool) : (x.seen b).amr = x.amr := by unfold Ctl.seen; split <;> rfl
@[simp] theorem Ctl.seen_tvec (x : Ctl) (b : Bool) : (x.seen b).tvec = x.tvec := by unfold Ctl.seen; split <;> rfl
@[simp] theorem Ctl.seen_tpc (x : Ctl) (b : Bool) : (x.seen b).tpc = x.tpc := by unfold Ctl.seen; split <;> rfl
@[simp] theorem Ctl.seen_tcause (x : Ctl) (b : Bool) : (x.seen b).tcause = x.tcause := by unfold Ctl.seen; split <;> rfl
@[simp] theorem Ctl.seen_telem (x : Ctl) (b : Bool) : (x.seen b).telem = x.telem := by unfold Ctl.seen; split <;> rfl
@[simp] theorem Ctl.seen_taddr (x : Ctl) (b : Bool) : (x.seen b).taddr = x.taddr := by unfold Ctl.seen; split <;> rfl
@[simp] theorem Ctl.seen_resume (x : Ctl) (b : Bool) : (x.seen b).resume = x.resume := by unfold Ctl.seen; split <;> rfl
@[simp] theorem Ctl.seen_flags (x : Ctl) (b : Bool) : (x.seen b).flags = x.flags := by unfold Ctl.seen; split <;> rfl
@[simp] theorem Ctl.seen_firstx (x : Ctl) (b : Bool) : (x.seen b).firstx = x.firstx := by unfold Ctl.seen; split <;> rfl
@[simp] theorem Ctl.seen_amax (x : Ctl) (b : Bool) : (x.seen b).amax = x.amax := by unfold Ctl.seen; split <;> rfl
@[simp] theorem Ctl.seen_seed (x : Ctl) (b : Bool) : (x.seen b).seed = x.seed := by unfold Ctl.seen; split <;> rfl
@[simp] theorem Ctl.seen_srb (x : Ctl) (b : Bool) : (x.seen b).srb = x.srb := by unfold Ctl.seen; split <;> rfl
@[simp] theorem Ctl.seen_tol (x : Ctl) (b : Bool) : (x.seen b).tol = x.tol := by unfold Ctl.seen; split <;> rfl
@[simp] theorem Ctl.seen_tmode (x : Ctl) (b : Bool) : (x.seen b).tmode = x.tmode := by unfold Ctl.seen; split <;> rfl
@[simp] theorem Ctl.seen_ordtag (x : Ctl) (b : Bool) : (x.seen b).ordtag = x.ordtag := by unfold Ctl.seen; split <;> rfl
@[simp] theorem Ctl.seen_rc (x : Ctl) (b : Bool) : (x.seen b).rc = x.rc := by unfold Ctl.seen; split <;> rfl
@[simp] theorem Ctl.seen_grant (x : Ctl) (b : Bool) : (x.seen b).grant = x.grant := by unfold Ctl.seen; split <;> rfl
@[simp] theorem Ctl.seen_share (x : Ctl) (b : Bool) : (x.seen b).share = x.share := by unfold Ctl.seen; split <;> rfl
@[simp] theorem Ctl.seen_lanes (x : Ctl) (b : Bool) : (x.seen b).lanes = x.lanes := by unfold Ctl.seen; split <;> rfl
@[simp] theorem Ctl.seen_vregs (x : Ctl) (b : Bool) : (x.seen b).vregs = x.vregs := by unfold Ctl.seen; split <;> rfl
@[simp] theorem Ctl.seen_codes (x : Ctl) (b : Bool) : (x.seen b).codes = x.codes := by unfold Ctl.seen; split <;> rfl

@[simp] theorem Ctl.sticky_mode (x : Ctl) (f : Flags) (b : Bool) : (x.sticky f b).mode = x.mode := by unfold Ctl.sticky; split <;> simp
@[simp] theorem Ctl.sticky_winb (x : Ctl) (f : Flags) (b : Bool) : (x.sticky f b).winb = x.winb := by unfold Ctl.sticky; split <;> simp
@[simp] theorem Ctl.sticky_ring (x : Ctl) (f : Flags) (b : Bool) : (x.sticky f b).ring = x.ring := by unfold Ctl.sticky; split <;> simp
@[simp] theorem Ctl.sticky_laps (x : Ctl) (f : Flags) (b : Bool) : (x.sticky f b).laps = x.laps := by unfold Ctl.sticky; split <;> simp
@[simp] theorem Ctl.sticky_amr (x : Ctl) (f : Flags) (b : Bool) : (x.sticky f b).amr = x.amr := by unfold Ctl.sticky; split <;> simp
@[simp] theorem Ctl.sticky_tvec (x : Ctl) (f : Flags) (b : Bool) : (x.sticky f b).tvec = x.tvec := by unfold Ctl.sticky; split <;> simp
@[simp] theorem Ctl.sticky_tpc (x : Ctl) (f : Flags) (b : Bool) : (x.sticky f b).tpc = x.tpc := by unfold Ctl.sticky; split <;> simp
@[simp] theorem Ctl.sticky_tcause (x : Ctl) (f : Flags) (b : Bool) : (x.sticky f b).tcause = x.tcause := by unfold Ctl.sticky; split <;> simp
@[simp] theorem Ctl.sticky_telem (x : Ctl) (f : Flags) (b : Bool) : (x.sticky f b).telem = x.telem := by unfold Ctl.sticky; split <;> simp
@[simp] theorem Ctl.sticky_taddr (x : Ctl) (f : Flags) (b : Bool) : (x.sticky f b).taddr = x.taddr := by unfold Ctl.sticky; split <;> simp
@[simp] theorem Ctl.sticky_resume (x : Ctl) (f : Flags) (b : Bool) : (x.sticky f b).resume = x.resume := by unfold Ctl.sticky; split <;> simp
@[simp] theorem Ctl.sticky_firstx (x : Ctl) (f : Flags) (b : Bool) : (x.sticky f b).firstx = x.firstx := by unfold Ctl.sticky; split <;> simp
@[simp] theorem Ctl.sticky_amax (x : Ctl) (f : Flags) (b : Bool) : (x.sticky f b).amax = x.amax := by unfold Ctl.sticky; split <;> simp
@[simp] theorem Ctl.sticky_seed (x : Ctl) (f : Flags) (b : Bool) : (x.sticky f b).seed = x.seed := by unfold Ctl.sticky; split <;> simp
@[simp] theorem Ctl.sticky_srb (x : Ctl) (f : Flags) (b : Bool) : (x.sticky f b).srb = x.srb := by unfold Ctl.sticky; split <;> simp
@[simp] theorem Ctl.sticky_tol (x : Ctl) (f : Flags) (b : Bool) : (x.sticky f b).tol = x.tol := by unfold Ctl.sticky; split <;> simp
@[simp] theorem Ctl.sticky_tmode (x : Ctl) (f : Flags) (b : Bool) : (x.sticky f b).tmode = x.tmode := by unfold Ctl.sticky; split <;> simp
@[simp] theorem Ctl.sticky_ordtag (x : Ctl) (f : Flags) (b : Bool) : (x.sticky f b).ordtag = x.ordtag := by unfold Ctl.sticky; split <;> simp
@[simp] theorem Ctl.sticky_rc (x : Ctl) (f : Flags) (b : Bool) : (x.sticky f b).rc = x.rc := by unfold Ctl.sticky; split <;> simp
@[simp] theorem Ctl.sticky_grant (x : Ctl) (f : Flags) (b : Bool) : (x.sticky f b).grant = x.grant := by unfold Ctl.sticky; split <;> simp
@[simp] theorem Ctl.sticky_share (x : Ctl) (f : Flags) (b : Bool) : (x.sticky f b).share = x.share := by unfold Ctl.sticky; split <;> simp
@[simp] theorem Ctl.sticky_lanes (x : Ctl) (f : Flags) (b : Bool) : (x.sticky f b).lanes = x.lanes := by unfold Ctl.sticky; split <;> simp
@[simp] theorem Ctl.sticky_vregs (x : Ctl) (f : Flags) (b : Bool) : (x.sticky f b).vregs = x.vregs := by unfold Ctl.sticky; split <;> simp
@[simp] theorem Ctl.sticky_codes (x : Ctl) (f : Flags) (b : Bool) : (x.sticky f b).codes = x.codes := by unfold Ctl.sticky; split <;> simp

@[simp] theorem Ctl.trapRegs_mode (x : Ctl) (p c : Word) (t : Trap) : (x.trapRegs p c t).mode = x.mode := rfl
@[simp] theorem Ctl.trapRegs_winb (x : Ctl) (p c : Word) (t : Trap) : (x.trapRegs p c t).winb = x.winb := rfl
@[simp] theorem Ctl.trapRegs_ring (x : Ctl) (p c : Word) (t : Trap) : (x.trapRegs p c t).ring = x.ring := rfl
@[simp] theorem Ctl.trapRegs_laps (x : Ctl) (p c : Word) (t : Trap) : (x.trapRegs p c t).laps = x.laps := rfl
@[simp] theorem Ctl.trapRegs_amr (x : Ctl) (p c : Word) (t : Trap) : (x.trapRegs p c t).amr = x.amr := rfl
@[simp] theorem Ctl.trapRegs_tvec (x : Ctl) (p c : Word) (t : Trap) : (x.trapRegs p c t).tvec = x.tvec := rfl
@[simp] theorem Ctl.trapRegs_tpc (x : Ctl) (p c : Word) (t : Trap) : (x.trapRegs p c t).tpc = .of p := rfl
@[simp] theorem Ctl.trapRegs_tcause (x : Ctl) (p c : Word) (t : Trap) : (x.trapRegs p c t).tcause = .of c := rfl
@[simp] theorem Ctl.trapRegs_telem (x : Ctl) (p c : Word) (t : Trap) : (x.trapRegs p c t).telem = .of (BitVec.ofNat 64 t.elem) := rfl
@[simp] theorem Ctl.trapRegs_taddr (x : Ctl) (p c : Word) (t : Trap) : (x.trapRegs p c t).taddr = .of t.addr := rfl
@[simp] theorem Ctl.trapRegs_resume (x : Ctl) (p c : Word) (t : Trap) : (x.trapRegs p c t).resume = .of (t.resume.getD 0) := rfl
@[simp] theorem Ctl.trapRegs_flags (x : Ctl) (p c : Word) (t : Trap) : (x.trapRegs p c t).flags = x.flags := rfl
@[simp] theorem Ctl.trapRegs_firstx (x : Ctl) (p c : Word) (t : Trap) : (x.trapRegs p c t).firstx = x.firstx := rfl
@[simp] theorem Ctl.trapRegs_amax (x : Ctl) (p c : Word) (t : Trap) : (x.trapRegs p c t).amax = x.amax := rfl
@[simp] theorem Ctl.trapRegs_seed (x : Ctl) (p c : Word) (t : Trap) : (x.trapRegs p c t).seed = x.seed := rfl
@[simp] theorem Ctl.trapRegs_srb (x : Ctl) (p c : Word) (t : Trap) : (x.trapRegs p c t).srb = x.srb := rfl
@[simp] theorem Ctl.trapRegs_tol (x : Ctl) (p c : Word) (t : Trap) : (x.trapRegs p c t).tol = x.tol := rfl
@[simp] theorem Ctl.trapRegs_tmode (x : Ctl) (p c : Word) (t : Trap) : (x.trapRegs p c t).tmode = x.tmode := rfl
@[simp] theorem Ctl.trapRegs_ordtag (x : Ctl) (p c : Word) (t : Trap) : (x.trapRegs p c t).ordtag = x.ordtag := rfl
@[simp] theorem Ctl.trapRegs_rc (x : Ctl) (p c : Word) (t : Trap) : (x.trapRegs p c t).rc = x.rc := rfl
@[simp] theorem Ctl.trapRegs_grant (x : Ctl) (p c : Word) (t : Trap) : (x.trapRegs p c t).grant = x.grant := rfl
@[simp] theorem Ctl.trapRegs_share (x : Ctl) (p c : Word) (t : Trap) : (x.trapRegs p c t).share = x.share := rfl
@[simp] theorem Ctl.trapRegs_lanes (x : Ctl) (p c : Word) (t : Trap) : (x.trapRegs p c t).lanes = x.lanes := rfl
@[simp] theorem Ctl.trapRegs_vregs (x : Ctl) (p c : Word) (t : Trap) : (x.trapRegs p c t).vregs = x.vregs := rfl
@[simp] theorem Ctl.trapRegs_tarnr (x : Ctl) (p c : Word) (t : Trap) : (x.trapRegs p c t).tarnr = x.tarnr := rfl
@[simp] theorem Ctl.trapRegs_codes (x : Ctl) (p c : Word) (t : Trap) : (x.trapRegs p c t).codes = x.codes := rfl

end Sys2Proof.Machine
end

