-- ==== Sys2Proof/Laws/Memory.lean ====
section
/-! SUPPORT. Memory: a write is read back, leaves every other byte alone, and keeps the canonical form. -/

namespace Sys2Proof.Machine

/-- Every key of a canonical list above `lo` lies above `lo`, so a read at or below it gives what is unlisted. -/
theorem Mem.read_of_wfFrom {m : List Host.Cell} {lo : Option Nat} {l a : Nat} (h : Mem.wfFrom lo m = true) (e : lo = some l) (hl : a ≤ l) :
    Mem.read m a = Mem.unlisted := by
  cases m with
  | nil => rfl
  | cons c xs =>
    obtain ⟨k, b⟩ := c
    subst e
    simp only [Mem.wfFrom, Bool.and_eq_true, decide_eq_true_eq] at h
    have : a < k := by omega
    simp [Mem.read, this]

/-- A canonical list stays canonical under a smaller bound. -/
theorem Mem.wfFrom_mono {m : List Host.Cell} {l l' : Nat} (h : Mem.wfFrom (some l) m = true) (hl : l' ≤ l) : Mem.wfFrom (some l') m = true := by
  cases m with
  | nil => rfl
  | cons c xs =>
    simp only [Mem.wfFrom, Bool.and_eq_true, decide_eq_true_eq] at h ⊢
    exact ⟨⟨by omega, h.1.2⟩, h.2⟩

theorem Mem.wf_of_wfFrom {m : List Host.Cell} {lo : Option Nat} (h : Mem.wfFrom lo m = true) : Memory.wf m = true := by
  cases m with
  | nil => rfl
  | cons c xs =>
    simp only [Memory.wf, Mem.wfFrom, Bool.and_eq_true] at h ⊢
    exact ⟨⟨trivial, h.1.2⟩, h.2⟩

/-- A write above the bound keeps the canonical form above it. -/
theorem Mem.wfFrom_write {m : List Host.Cell} {lo : Option Nat} {a : Nat} (v : Byte) (h : Mem.wfFrom lo m = true) (ha : ∀ l, lo = some l → l < a) :
    Mem.wfFrom lo (Mem.write m a v) = true := by
  induction m generalizing lo with
  | nil =>
    cases lo with
    | none => by_cases hv : v = Mem.unlisted <;> simp [Mem.write, hv, Mem.wfFrom]
    | some l => by_cases hv : v = Mem.unlisted <;> simp [Mem.write, hv, Mem.wfFrom, ha l rfl]
  | cons c xs ih =>
    obtain ⟨k, b⟩ := c
    simp only [Mem.wfFrom, Bool.and_eq_true, decide_eq_true_eq] at h
    obtain ⟨⟨h1, h2⟩, h3⟩ := h
    simp only [Mem.write]
    by_cases hk : a < k
    · by_cases hv : v = Mem.unlisted
      · simp only [hk, hv, if_true]; simp [Mem.wfFrom, h1, h2, h3]
      · simp only [hk, hv, if_true, if_false]
        cases lo with
        | none => simp [Mem.wfFrom, hv, hk, h2, h3]
        | some l => simp [Mem.wfFrom, hv, hk, h2, h3, ha l rfl]
    · by_cases hk2 : a = k
      · by_cases hv : v = Mem.unlisted
        · simp only [hk2, hv, if_true, lt_irrefl, if_false]
          cases lo with
          | none => exact Mem.wf_of_wfFrom h3
          | some l => exact Mem.wfFrom_mono h3 (by simp at h1; omega)
        · simp [hk2, hv, Mem.wfFrom, h1, h3]
      · simp only [hk, hk2, if_false]
        have := ih h3 (by intro l e; cases e; omega)
        simp [Mem.wfFrom, h1, h2, this]

/-- A write keeps the canonical form. -/
theorem Memory.wf_write {m : List Host.Cell} (a : Nat) (v : Byte) (h : Memory.wf m = true) : Memory.wf (Mem.write m a v) = true :=
  Mem.wfFrom_write v h (by simp)

/-- So does a store of `n` bytes. -/
theorem Memory.wf_writeLE {m : List Host.Cell} (a n v : Nat) (h : Memory.wf m = true) : Memory.wf (Mem.writeLE m a n v) = true := by
  induction n generalizing m a v with
  | zero => exact h
  | succ n ih => exact ih (a + 1) (v / 256) (Memory.wf_write a _ h)

/-- And a store of a list of bytes. -/
theorem Memory.wf_put {m : List Host.Cell} (a : Nat) (bs : List Byte) (h : Memory.wf m = true) : Memory.wf (Mem.put m a bs) = true := by
  induction bs generalizing m a with
  | nil => exact h
  | cons b bs ih => exact ih (a + 1) (Memory.wf_write a b h)

/-- The memory of the reset state is canonical. -/
theorem Memory.wf_reset : Memory.wf State.reset.mem = true := rfl

/-- A byte written is read back. -/
theorem Mem.read_write_self {m : List Host.Cell} {lo : Option Nat} (a : Nat) (v : Byte) (h : Mem.wfFrom lo m = true) :
    Mem.read (Mem.write m a v) a = v := by
  induction m generalizing lo with
  | nil => by_cases hv : v = Mem.unlisted <;> simp [Mem.write, Mem.read, hv]
  | cons c xs ih =>
    obtain ⟨k, b⟩ := c
    simp only [Mem.wfFrom, Bool.and_eq_true] at h
    simp only [Mem.write]
    by_cases hk : a < k
    · by_cases hv : v = Mem.unlisted <;> simp [hk, hv, Mem.read]
    · by_cases hk2 : a = k
      · subst hk2
        by_cases hv : v = Mem.unlisted
        · simp only [lt_irrefl, if_false, if_true, hv]
          exact Mem.read_of_wfFrom h.2 rfl (Nat.le_refl a)
        · simp [hv, Mem.read]
      · simp only [hk, hk2, if_false, Mem.read]
        exact ih h.2

/-- A write leaves every other byte alone. -/
theorem Mem.read_write_of_ne {m : List Host.Cell} {lo : Option Nat} {a x : Nat} (v : Byte) (h : Mem.wfFrom lo m = true) (hx : x ≠ a) :
    Mem.read (Mem.write m a v) x = Mem.read m x := by
  induction m generalizing lo with
  | nil =>
    by_cases hv : v = Mem.unlisted
    · simp [Mem.write, hv]
    · by_cases hxa : x < a <;> simp [Mem.write, Mem.read, hv, hxa, hx]
  | cons c xs ih =>
    obtain ⟨k, b⟩ := c
    have h' := h
    simp only [Mem.wfFrom, Bool.and_eq_true] at h
    simp only [Mem.write]
    by_cases hk : a < k
    · by_cases hv : v = Mem.unlisted
      · simp [hk, hv]
      · simp only [hk, hv, if_true, if_false]
        by_cases hxa : x < a
        · have : x < k := by omega
          simp [Mem.read, hxa, this]
        · simp [Mem.read, hxa, hx]
    · by_cases hk2 : a = k
      · subst hk2
        by_cases hv : v = Mem.unlisted
        · simp only [lt_irrefl, if_false, if_true, hv, Mem.read, hx]
          by_cases hxa : x < a
          · simp only [hxa, if_true]
            exact Mem.read_of_wfFrom h.2 rfl (Nat.le_of_lt hxa)
          · simp [hxa]
        · by_cases hxa : x < a <;> simp [hv, Mem.read, hxa, hx]
      · simp only [hk, hk2, if_false, Mem.read, ih h.2]

/-- A store of `n` bytes leaves every byte outside them alone. -/
theorem Mem.read_writeLE_of_outside {m : List Host.Cell} (a n v : Nat) {x : Nat} (h : Memory.wf m = true) (hx : x < a ∨ a + n ≤ x) :
    Mem.read (Mem.writeLE m a n v) x = Mem.read m x := by
  induction n generalizing m a v with
  | zero => rfl
  | succ n ih =>
    simp only [Mem.writeLE]
    rw [ih (a + 1) (v / 256) (Memory.wf_write a _ h) (by omega)]
    exact Mem.read_write_of_ne _ h (by omega)

/-- What a store of `n` bytes wrote is read back. -/
theorem Mem.readLE_writeLE_self {m : List Host.Cell} (a n v : Nat) (h : Memory.wf m = true) : Mem.readLE (Mem.writeLE m a n v) a n = v % 256 ^ n := by
  induction n generalizing m a v with
  | zero => simp [Mem.readLE, Nat.mod_one]
  | succ n ih =>
    simp only [Mem.readLE, Mem.writeLE]
    rw [ih (a + 1) (v / 256) (Memory.wf_write a _ h),
      Mem.read_writeLE_of_outside (a + 1) n _ (Memory.wf_write a _ h) (Or.inl (Nat.lt_succ_self a)), Mem.read_write_self a _ h]
    rw [BitVec.toNat_ofNat, show 256 ^ (n + 1) = 256 * 256 ^ n from Nat.pow_succ', Nat.mod_mul]

/-! ## Little-endian bytes -/

@[simp] theorem leBytes_length (n v : Nat) : (leBytes n v).length = n := by
  induction n generalizing v with
  | zero => rfl
  | succ n ih => simp [leBytes, ih]

/-- Bytes of a number give it back, as far as they hold it. -/
theorem leNat_leBytes (n v : Nat) : leNat (leBytes n v) = v % 256 ^ n := by
  induction n generalizing v with
  | zero => simp [leBytes, leNat, Nat.mod_one]
  | succ n ih =>
    have h : v % 256 ^ (n + 1) = v % 256 + 256 * (v / 256 % 256 ^ n) := by rw [Nat.pow_succ', Nat.mod_mul]
    simp [leBytes, leNat, ih, h]

theorem leNat_lt (bs : List Byte) : leNat bs < 256 ^ bs.length := by
  induction bs with
  | nil => simp [leNat]
  | cons b bs ih =>
    have hb := b.isLt
    simp only [leNat, List.length_cons, Nat.pow_succ']
    omega

end Sys2Proof.Machine
end

