-- ==== Sys2Proof/Laws/Fabric.lean ====
section
/-! SUPPORT. Laws of flits (R407): what `makeFlit` builds is whole, and its fields read back. -/

namespace Sys2Proof.Machine

variable (seq ack : BitVec 12) (packet : List Byte)

theorem makeFlit_length (h : packet.length = 248) : (makeFlit seq ack packet).length = 256 := by
  simp [makeFlit, h]

theorem flitSeq_makeFlit : flitSeq (makeFlit seq ack packet) = seq := by
  have hs := seq.isLt
  simp [flitSeq, makeFlit, leNat_leBytes, Nat.mod_eq_of_lt (show seq.toNat < 65536 by omega)]

theorem flitAck_makeFlit : flitAck (makeFlit seq ack packet) = ack := by
  have ha := ack.isLt
  simp [flitAck, makeFlit, leNat_leBytes, Nat.mod_eq_of_lt (show ack.toNat < 65536 by omega)]

theorem flitOk_makeFlit (h : packet.length = 248) : flitOk (makeFlit seq ack packet) = true := by
  have hb : (leBytes 2 seq.toNat ++ leBytes 2 ack.toNat ++ packet).length = 252 := by simp [h]
  have hc := (crc32 (leBytes 2 seq.toNat ++ leBytes 2 ack.toNat ++ packet)).isLt
  have hc' : (crc32 (leBytes 2 seq.toNat ++ leBytes 2 ack.toNat ++ packet)).toNat < 256 ^ 4 := hc
  rw [flitOk, Bool.and_eq_true, decide_eq_true_eq, decide_eq_true_eq]
  refine ⟨makeFlit_length seq ack packet h, ?_⟩
  rw [makeFlit, List.drop_left' hb, List.take_left' hb, leNat_leBytes, Nat.mod_eq_of_lt hc']

end Sys2Proof.Machine
end

