-- ==== Sys2Proof/Laws/Ops.lean ====
section
/-! SUPPORT. What each shared operation can do, said once: meanings in steps, register and mask reads after writes, the checks before an
access, and how a trap is taken. -/

namespace Sys2Proof.Machine

/-! ## Meanings in steps -/

@[simp] theorem M.pure_run {α : Type} (a : α) (s : State) : (pure a : M α) s = .ok a s := rfl
@[simp] theorem M.throw_run {α : Type} (e : Stop) (s : State) : (throw e : M α) s = .error e s := rfl
@[simp] theorem M.raise_run {α : Type} (x : Trap) (s : State) : (raise x : M α) s = .error (.trap x) s := rfl
@[simp] theorem M.get_run (s : State) : (get : M State) s = .ok s s := rfl
@[simp] theorem M.set_run (t s : State) : (set t : M PUnit) s = .ok ⟨⟩ t := rfl
@[simp] theorem M.modify_run (f : State → State) (s : State) : (modify f : M PUnit) s = .ok ⟨⟩ (f s) := rfl
@[simp] theorem M.getS_run (s : State) : getS s = .ok s.strand s := rfl
@[simp] theorem M.modS_run (f : Strand → Strand) (s : State) : modS f s = .ok ⟨⟩ (s.mapStrand f) := rfl

/-- A sequence whose first part completes goes on from what it leaves. -/
theorem M.bind_ok {α β : Type} {m : M α} {f : α → M β} {s t : State} {a : α} (h : m s = .ok a t) : (m >>= f) s = f a t := by
  simp only [bind, EStateM.bind, h]

/-- A sequence whose first part stops, stops there. -/
theorem M.bind_error {α β : Type} {m : M α} {f : α → M β} {s t : State} {e : Stop} (h : m s = .error e t) : (m >>= f) s = .error e t := by
  simp only [bind, EStateM.bind, h]

/-- A meaning that completes gives the next state it leaves. -/
theorem runM_ok {vec : Bool} {m : M Unit} {s t : State} (h : m s = .ok () t) : runM vec m s = .next t := by simp only [runM, h]

/-- A vector meaning that traps before its first element, restarted, records the point it was to start from; a scalar one has none. -/
def trapOf (vec : Bool) (t : Strand) (x : Trap) : Trap := if vec then t.keepPoint x else x

@[simp] theorem trapOf_false (t : Strand) (x : Trap) : trapOf false t x = x := rfl

/-- A meaning that traps: what was done before stands, and the trap is taken at the instruction. -/
theorem runM_trap {vec : Bool} {m : M Unit} {s t : State} {x : Trap} (h : m s = .error (.trap x) t) :
    runM vec m s = .next (t.takeTrap vec s.strand.pc (trapOf vec s.strand x)) := by simp only [runM, h, trapOf]

/-- A meaning that waits leaves the state as it was, but that a breakpoint at it has been passed. -/
theorem runM_wait {vec : Bool} {m : M Unit} {s t : State} (h : m s = .error .wait t) : runM vec m s = .next s.waits := by simp only [runM, h]

/-- A meaning in steps always gives a next state. -/
theorem runM_next (vec : Bool) (m : M Unit) (s : State) : ∃ t, runM vec m s = .next t := by
  unfold runM
  split <;> exact ⟨_, rfl⟩

theorem runStep_ok {vec : Bool} {m : M Unit} {s t : State} (h : m s = .ok () t) : runStep vec m s = .next (t.mapStrand Strand.advance) :=
  runM_ok (by rw [M.bind_ok h]; rfl)

theorem runStep_trap {vec : Bool} {m : M Unit} {s t : State} {x : Trap} (h : m s = .error (.trap x) t) :
    runStep vec m s = .next (t.takeTrap vec s.strand.pc (trapOf vec s.strand x)) := runM_trap (M.bind_error h)

theorem runStep_wait {vec : Bool} {m : M Unit} {s t : State} (h : m s = .error .wait t) : runStep vec m s = .next s.waits :=
  runM_wait (M.bind_error h)

/-! ## Device registers -/

theorem devGet_filter_self (l : List (Nat × Word)) (a : Nat) : devGet (l.filter fun x => decide (x.1 ≠ a)) a = devReset a := by
  induction l with
  | nil => rfl
  | cons x xs ih =>
    rw [List.filter_cons]
    split
    · rename_i h
      have : ¬ a = x.1 := fun e => by simp [e] at h
      simp only [devGet, this, if_false]
      exact ih
    · exact ih

theorem devGet_filter_of_ne (l : List (Nat × Word)) {a b : Nat} (h : b ≠ a) : devGet (l.filter fun x => decide (x.1 ≠ a)) b = devGet l b := by
  induction l with
  | nil => rfl
  | cons x xs ih =>
    rw [List.filter_cons]
    split
    · simp only [devGet, ih]
    · rename_i hx
      have hx : x.1 = a := by simpa using hx
      have : ¬ b = x.1 := fun e => h (e.trans hx)
      simp only [devGet, this, if_false]
      exact ih

theorem devGet_devPut_self (l : List (Nat × Word)) (a : Nat) (v : Word) : devGet (devPut l a v) a = v := by
  induction l with
  | nil => simp only [devPut, devGet, if_true]
  | cons x xs ih =>
    simp only [devPut]
    split
    · simp only [devGet, if_true]
    · split
      · simp only [devGet, if_true]
      · rename_i h
        simp only [devGet, h, if_false]
        exact ih

theorem devGet_devPut_of_ne (l : List (Nat × Word)) {a b : Nat} (v : Word) (h : b ≠ a) : devGet (devPut l a v) b = devGet l b := by
  induction l with
  | nil => simp only [devPut, devGet, h, if_false]
  | cons x xs ih =>
    simp only [devPut]
    split
    · simp only [devGet, h, if_false]
    · split
      · rename_i e
        subst e
        simp only [devGet, h, if_false]
      · simp only [devGet, ih]

/-- A device register reads back what was stored. -/
theorem State.reg64_setReg64_self (s : State) (a : Nat) (v : Word) : (s.setReg64 a v).reg64 a = v := by
  simp only [State.reg64, State.setReg64, devSet]
  split
  · rename_i h
    rw [devGet_filter_self, h]
  · exact devGet_devPut_self _ _ _

/-- Storing one device register leaves the others as they were. -/
theorem State.reg64_setReg64_of_ne (s : State) {a b : Nat} (v : Word) (h : b ≠ a) : (s.setReg64 a v).reg64 b = s.reg64 b := by
  simp only [State.reg64, State.setReg64, devSet]
  split
  · exact devGet_filter_of_ne _ h
  · exact devGet_devPut_of_ne _ _ h

/-! ## Registers (R27, R30) -/

@[simp] theorem Strand.reg_zero (t : Strand) : t.reg 0#7 = .zero := rfl
@[simp] theorem Strand.setReg_zero (t : Strand) (v : TWord) : t.setReg 0#7 v = t := rfl

/-- Two fields name one physical register only when they are the same field (R27). -/
theorem physReg_injective {w : Nat} {f g : BitVec 7} (h : physReg w f = physReg w g) : f = g := by
  have hf := f.isLt
  have hg := g.isLt
  apply BitVec.eq_of_toNat_eq
  unfold physReg at h
  split at h <;> split at h <;> simp only [Fin.mk.injEq] at h <;> omega

/-- A register that is written reads back, and s0 reads as zero. -/
theorem Strand.reg_setReg_self (t : Strand) (d : BitVec 7) (v : TWord) : (t.setReg d v).reg d = if d = 0 then .zero else v := by
  by_cases h : d = 0
  · simp [h]
  · simp only [Strand.setReg, Strand.reg, h, if_false, Ctl.seen_winb]
    simp

/-- A write leaves every register of another field alone. -/
theorem Strand.reg_setReg_of_ne (t : Strand) {d f : BitVec 7} (v : TWord) (h : f ≠ d) : (t.setReg d v).reg f = t.reg f := by
  by_cases hd : d = 0
  · simp [hd]
  · by_cases hf : f = 0
    · simp [hf]
    · simp only [Strand.setReg, Strand.reg, hd, hf, if_false, Ctl.seen_winb]
      have : physReg t.ctl.winb.val.toNat d ≠ physReg t.ctl.winb.val.toNat f := fun e => h (physReg_injective e.symm)
      exact Vector.getElem_set_ne _ _ (by intro e; exact this (Fin.ext e))

/-- k0 reads as ones, whatever is written to it. -/
@[simp] theorem Strand.mask_zero (t : Strand) : t.mask 0 = .ones := rfl
@[simp] theorem Strand.setMask_zero (t : Strand) (m : KMask) : t.setMask 0 m = t := rfl

/-! ## Taking a trap (R138, R140, R142) -/

/-- A cause routed Own with a usable handler enters it, and nothing else of the machine changes. -/
theorem State.takeTrap_own {s : State} {vec : Bool} {next : Addr} {x : Trap} (h : x.cause < 0x10) (hr : s.strand.st.tr = false)
    (hv : s.strand.tvecOk = true) : s.takeTrap vec next x = s.mapStrand fun t => t.enter vec (next.setWidth 64) x := by
  simp [State.takeTrap, routeOf, h, hr, hv]

/-- A cause routed Suspend or Freeze stops the strand with a record. -/
theorem State.takeTrap_stop {s : State} {vec : Bool} {next : Addr} {x : Trap} (h : ¬ x.cause < 0x10) :
    s.takeTrap vec next x = s.stopStrand (routeOf x.cause) false vec x := by
  have : routeOf x.cause ≠ 0 := by unfold routeOf; split <;> [omega; split <;> omega]
  simp [State.takeTrap, this]

/-- A trap inside a handler suspends, and the outer trap's registers stand. -/
theorem State.takeTrap_nested {s : State} {vec : Bool} {next : Addr} {x : Trap} (h : x.cause < 0x10) (hr : s.strand.st.tr = true) :
    s.takeTrap vec next x = s.stopStrand 1 true vec x := by
  simp [State.takeTrap, routeOf, h, hr]

/-! ## The checks before an access (R108) -/

/-- A misaligned access stops before anything else. -/
theorem accessCheck_misaligned {o : Acc} {va : Word} {z : Nat} {s : State} (h : va.toNat % z ≠ 0) :
    accessCheck o va z s = .error (.trap (o.trap 0x05 0 va.toNat)) s := by
  simp only [accessCheck, h, ne_eq, not_false_eq_true, if_true]
  rfl

/-- An access whose checks pass goes on with the address translated. -/
theorem accessCheck_ok {o : Acc} {va : Word} {z : Nat} {s s1 : State} {x : Xl} (ha : va.toNat % z = 0)
    (hr : s.noTagRoom s.strand x.key = false) (hc : s.check s.strand o va.toNat z = (s1, .ok x))
    (hb : s1.blocked s1.strand x.key z = false) (hd : s1.drainWaits s1.strand o x = false) (hp : s1.badWord o.mode x.key z = none) :
    accessCheck o va z s = .ok x s1 := by
  simp only [accessCheck, ha, ne_eq, not_true_eq_false, if_false, checkBytes]
  simp [bind, EStateM.bind, hc, hb, hd, hp, hr]

end Sys2Proof.Machine
end

