-- ==== Sys2Proof/Laws/PerInstr.lean ====
section
/-! SUPPORT. Statements about every instruction, one lemma per constructor. Family Encoding: a well-formed instruction's word decodes to
the instruction, every operand at every value. -/

namespace Sys2Proof.Laws

/-- The word of a well-formed instruction decodes to it; a step of the device has no word. -/
def Encoding.Statement (i : Instr) : Prop := i.wf = true → ∀ w, encode i = some w → decodeWord w = .ok i

theorem Encoding.add : ∀ d a b, Encoding.Statement (.add d a b) := by
  intro d a b h w e
  obtain rfl := Option.some.inj e
  change (true : Bool) = true at h
  rw [decodeWord_01 _ (congrArg BitVec.toNat (packR_fields _ _ _ _ _).1)]
  simp_all [decode01, packR_fields, checked]

theorem Encoding.sub : ∀ d a b, Encoding.Statement (.sub d a b) := by
  intro d a b h w e
  obtain rfl := Option.some.inj e
  change (true : Bool) = true at h
  rw [decodeWord_01 _ (congrArg BitVec.toNat (packR_fields _ _ _ _ _).1)]
  simp_all [decode01, packR_fields, checked]

theorem Encoding.and : ∀ d a b, Encoding.Statement (.and d a b) := by
  intro d a b h w e
  obtain rfl := Option.some.inj e
  change (true : Bool) = true at h
  rw [decodeWord_01 _ (congrArg BitVec.toNat (packR_fields _ _ _ _ _).1)]
  simp_all [decode01, packR_fields, checked]

theorem Encoding.or : ∀ d a b, Encoding.Statement (.or d a b) := by
  intro d a b h w e
  obtain rfl := Option.some.inj e
  change (true : Bool) = true at h
  rw [decodeWord_01 _ (congrArg BitVec.toNat (packR_fields _ _ _ _ _).1)]
  simp_all [decode01, packR_fields, checked]

theorem Encoding.xor : ∀ d a b, Encoding.Statement (.xor d a b) := by
  intro d a b h w e
  obtain rfl := Option.some.inj e
  change (true : Bool) = true at h
  rw [decodeWord_01 _ (congrArg BitVec.toNat (packR_fields _ _ _ _ _).1)]
  simp_all [decode01, packR_fields, checked]

theorem Encoding.andn : ∀ d a b, Encoding.Statement (.andn d a b) := by
  intro d a b h w e
  obtain rfl := Option.some.inj e
  change (true : Bool) = true at h
  rw [decodeWord_01 _ (congrArg BitVec.toNat (packR_fields _ _ _ _ _).1)]
  simp_all [decode01, packR_fields, checked]

theorem Encoding.orn : ∀ d a b, Encoding.Statement (.orn d a b) := by
  intro d a b h w e
  obtain rfl := Option.some.inj e
  change (true : Bool) = true at h
  rw [decodeWord_01 _ (congrArg BitVec.toNat (packR_fields _ _ _ _ _).1)]
  simp_all [decode01, packR_fields, checked]

theorem Encoding.xnor : ∀ d a b, Encoding.Statement (.xnor d a b) := by
  intro d a b h w e
  obtain rfl := Option.some.inj e
  change (true : Bool) = true at h
  rw [decodeWord_01 _ (congrArg BitVec.toNat (packR_fields _ _ _ _ _).1)]
  simp_all [decode01, packR_fields, checked]

theorem Encoding.sll : ∀ d a b, Encoding.Statement (.sll d a b) := by
  intro d a b h w e
  obtain rfl := Option.some.inj e
  change (true : Bool) = true at h
  rw [decodeWord_01 _ (congrArg BitVec.toNat (packR_fields _ _ _ _ _).1)]
  simp_all [decode01, packR_fields, checked]

theorem Encoding.srl : ∀ d a b, Encoding.Statement (.srl d a b) := by
  intro d a b h w e
  obtain rfl := Option.some.inj e
  change (true : Bool) = true at h
  rw [decodeWord_01 _ (congrArg BitVec.toNat (packR_fields _ _ _ _ _).1)]
  simp_all [decode01, packR_fields, checked]

theorem Encoding.sra : ∀ d a b, Encoding.Statement (.sra d a b) := by
  intro d a b h w e
  obtain rfl := Option.some.inj e
  change (true : Bool) = true at h
  rw [decodeWord_01 _ (congrArg BitVec.toNat (packR_fields _ _ _ _ _).1)]
  simp_all [decode01, packR_fields, checked]

theorem Encoding.rol : ∀ d a b, Encoding.Statement (.rol d a b) := by
  intro d a b h w e
  obtain rfl := Option.some.inj e
  change (true : Bool) = true at h
  rw [decodeWord_01 _ (congrArg BitVec.toNat (packR_fields _ _ _ _ _).1)]
  simp_all [decode01, packR_fields, checked]

theorem Encoding.ror : ∀ d a b, Encoding.Statement (.ror d a b) := by
  intro d a b h w e
  obtain rfl := Option.some.inj e
  change (true : Bool) = true at h
  rw [decodeWord_01 _ (congrArg BitVec.toNat (packR_fields _ _ _ _ _).1)]
  simp_all [decode01, packR_fields, checked]

theorem Encoding.slt : ∀ d a b, Encoding.Statement (.slt d a b) := by
  intro d a b h w e
  obtain rfl := Option.some.inj e
  change (true : Bool) = true at h
  rw [decodeWord_01 _ (congrArg BitVec.toNat (packR_fields _ _ _ _ _).1)]
  simp_all [decode01, packR_fields, checked]

theorem Encoding.sltu : ∀ d a b, Encoding.Statement (.sltu d a b) := by
  intro d a b h w e
  obtain rfl := Option.some.inj e
  change (true : Bool) = true at h
  rw [decodeWord_01 _ (congrArg BitVec.toNat (packR_fields _ _ _ _ _).1)]
  simp_all [decode01, packR_fields, checked]

theorem Encoding.seq : ∀ d a b, Encoding.Statement (.seq d a b) := by
  intro d a b h w e
  obtain rfl := Option.some.inj e
  change (true : Bool) = true at h
  rw [decodeWord_01 _ (congrArg BitVec.toNat (packR_fields _ _ _ _ _).1)]
  simp_all [decode01, packR_fields, checked]

theorem Encoding.sne : ∀ d a b, Encoding.Statement (.sne d a b) := by
  intro d a b h w e
  obtain rfl := Option.some.inj e
  change (true : Bool) = true at h
  rw [decodeWord_01 _ (congrArg BitVec.toNat (packR_fields _ _ _ _ _).1)]
  simp_all [decode01, packR_fields, checked]

theorem Encoding.min : ∀ d a b, Encoding.Statement (.min d a b) := by
  intro d a b h w e
  obtain rfl := Option.some.inj e
  change (true : Bool) = true at h
  rw [decodeWord_01 _ (congrArg BitVec.toNat (packR_fields _ _ _ _ _).1)]
  simp_all [decode01, packR_fields, checked]

theorem Encoding.max : ∀ d a b, Encoding.Statement (.max d a b) := by
  intro d a b h w e
  obtain rfl := Option.some.inj e
  change (true : Bool) = true at h
  rw [decodeWord_01 _ (congrArg BitVec.toNat (packR_fields _ _ _ _ _).1)]
  simp_all [decode01, packR_fields, checked]

theorem Encoding.minu : ∀ d a b, Encoding.Statement (.minu d a b) := by
  intro d a b h w e
  obtain rfl := Option.some.inj e
  change (true : Bool) = true at h
  rw [decodeWord_01 _ (congrArg BitVec.toNat (packR_fields _ _ _ _ _).1)]
  simp_all [decode01, packR_fields, checked]

theorem Encoding.maxu : ∀ d a b, Encoding.Statement (.maxu d a b) := by
  intro d a b h w e
  obtain rfl := Option.some.inj e
  change (true : Bool) = true at h
  rw [decodeWord_01 _ (congrArg BitVec.toNat (packR_fields _ _ _ _ _).1)]
  simp_all [decode01, packR_fields, checked]

theorem Encoding.mul : ∀ d a b, Encoding.Statement (.mul d a b) := by
  intro d a b h w e
  obtain rfl := Option.some.inj e
  change (true : Bool) = true at h
  rw [decodeWord_02 _ (congrArg BitVec.toNat (packR_fields _ _ _ _ _).1)]
  simp_all [decode02, packR_fields, checked]

theorem Encoding.mulh : ∀ d a b, Encoding.Statement (.mulh d a b) := by
  intro d a b h w e
  obtain rfl := Option.some.inj e
  change (true : Bool) = true at h
  rw [decodeWord_02 _ (congrArg BitVec.toNat (packR_fields _ _ _ _ _).1)]
  simp_all [decode02, packR_fields, checked]

theorem Encoding.mulhu : ∀ d a b, Encoding.Statement (.mulhu d a b) := by
  intro d a b h w e
  obtain rfl := Option.some.inj e
  change (true : Bool) = true at h
  rw [decodeWord_02 _ (congrArg BitVec.toNat (packR_fields _ _ _ _ _).1)]
  simp_all [decode02, packR_fields, checked]

theorem Encoding.mulhsu : ∀ d a b, Encoding.Statement (.mulhsu d a b) := by
  intro d a b h w e
  obtain rfl := Option.some.inj e
  change (true : Bool) = true at h
  rw [decodeWord_02 _ (congrArg BitVec.toNat (packR_fields _ _ _ _ _).1)]
  simp_all [decode02, packR_fields, checked]

theorem Encoding.div : ∀ d a b, Encoding.Statement (.div d a b) := by
  intro d a b h w e
  obtain rfl := Option.some.inj e
  change (true : Bool) = true at h
  rw [decodeWord_02 _ (congrArg BitVec.toNat (packR_fields _ _ _ _ _).1)]
  simp_all [decode02, packR_fields, checked]

theorem Encoding.divu : ∀ d a b, Encoding.Statement (.divu d a b) := by
  intro d a b h w e
  obtain rfl := Option.some.inj e
  change (true : Bool) = true at h
  rw [decodeWord_02 _ (congrArg BitVec.toNat (packR_fields _ _ _ _ _).1)]
  simp_all [decode02, packR_fields, checked]

theorem Encoding.rem : ∀ d a b, Encoding.Statement (.rem d a b) := by
  intro d a b h w e
  obtain rfl := Option.some.inj e
  change (true : Bool) = true at h
  rw [decodeWord_02 _ (congrArg BitVec.toNat (packR_fields _ _ _ _ _).1)]
  simp_all [decode02, packR_fields, checked]

theorem Encoding.remu : ∀ d a b, Encoding.Statement (.remu d a b) := by
  intro d a b h w e
  obtain rfl := Option.some.inj e
  change (true : Bool) = true at h
  rw [decodeWord_02 _ (congrArg BitVec.toNat (packR_fields _ _ _ _ _).1)]
  simp_all [decode02, packR_fields, checked]

theorem Encoding.clz : ∀ d a, Encoding.Statement (.clz d a) := by
  intro d a h w e
  obtain rfl := Option.some.inj e
  change (true : Bool) = true at h
  rw [decodeWord_03 _ (congrArg BitVec.toNat (packR_fields _ _ _ _ _).1)]
  simp_all [decode03, packR_fields, checked]

theorem Encoding.ctz : ∀ d a, Encoding.Statement (.ctz d a) := by
  intro d a h w e
  obtain rfl := Option.some.inj e
  change (true : Bool) = true at h
  rw [decodeWord_03 _ (congrArg BitVec.toNat (packR_fields _ _ _ _ _).1)]
  simp_all [decode03, packR_fields, checked]

theorem Encoding.popc : ∀ d a, Encoding.Statement (.popc d a) := by
  intro d a h w e
  obtain rfl := Option.some.inj e
  change (true : Bool) = true at h
  rw [decodeWord_03 _ (congrArg BitVec.toNat (packR_fields _ _ _ _ _).1)]
  simp_all [decode03, packR_fields, checked]

theorem Encoding.brev : ∀ d a, Encoding.Statement (.brev d a) := by
  intro d a h w e
  obtain rfl := Option.some.inj e
  change (true : Bool) = true at h
  rw [decodeWord_03 _ (congrArg BitVec.toNat (packR_fields _ _ _ _ _).1)]
  simp_all [decode03, packR_fields, checked]

theorem Encoding.bswap : ∀ d a, Encoding.Statement (.bswap d a) := by
  intro d a h w e
  obtain rfl := Option.some.inj e
  change (true : Bool) = true at h
  rw [decodeWord_03 _ (congrArg BitVec.toNat (packR_fields _ _ _ _ _).1)]
  simp_all [decode03, packR_fields, checked]

theorem Encoding.sextb : ∀ d a, Encoding.Statement (.sextb d a) := by
  intro d a h w e
  obtain rfl := Option.some.inj e
  change (true : Bool) = true at h
  rw [decodeWord_03 _ (congrArg BitVec.toNat (packR_fields _ _ _ _ _).1)]
  simp_all [decode03, packR_fields, checked]

theorem Encoding.sexth : ∀ d a, Encoding.Statement (.sexth d a) := by
  intro d a h w e
  obtain rfl := Option.some.inj e
  change (true : Bool) = true at h
  rw [decodeWord_03 _ (congrArg BitVec.toNat (packR_fields _ _ _ _ _).1)]
  simp_all [decode03, packR_fields, checked]

theorem Encoding.sextw : ∀ d a, Encoding.Statement (.sextw d a) := by
  intro d a h w e
  obtain rfl := Option.some.inj e
  change (true : Bool) = true at h
  rw [decodeWord_03 _ (congrArg BitVec.toNat (packR_fields _ _ _ _ _).1)]
  simp_all [decode03, packR_fields, checked]

theorem Encoding.addi : ∀ d a imm, Encoding.Statement (.addi d a imm) := by
  intro d a imm h w e
  obtain rfl := Option.some.inj e
  change (true : Bool) = true at h
  rw [decodeWord_04 _ (congrArg BitVec.toNat (packI_fields _ _ _ _).1)]
  simp_all [decode04, packI_fields, checked]

theorem Encoding.andi : ∀ d a imm, Encoding.Statement (.andi d a imm) := by
  intro d a imm h w e
  obtain rfl := Option.some.inj e
  change (true : Bool) = true at h
  rw [decodeWord_05 _ (congrArg BitVec.toNat (packI_fields _ _ _ _).1)]
  simp_all [decode05, packI_fields, checked]

theorem Encoding.ori : ∀ d a imm, Encoding.Statement (.ori d a imm) := by
  intro d a imm h w e
  obtain rfl := Option.some.inj e
  change (true : Bool) = true at h
  rw [decodeWord_06 _ (congrArg BitVec.toNat (packI_fields _ _ _ _).1)]
  simp_all [decode06, packI_fields, checked]

theorem Encoding.xori : ∀ d a imm, Encoding.Statement (.xori d a imm) := by
  intro d a imm h w e
  obtain rfl := Option.some.inj e
  change (true : Bool) = true at h
  rw [decodeWord_07 _ (congrArg BitVec.toNat (packI_fields _ _ _ _).1)]
  simp_all [decode07, packI_fields, checked]

theorem Encoding.slti : ∀ d a imm, Encoding.Statement (.slti d a imm) := by
  intro d a imm h w e
  obtain rfl := Option.some.inj e
  change (true : Bool) = true at h
  rw [decodeWord_08 _ (congrArg BitVec.toNat (packI_fields _ _ _ _).1)]
  simp_all [decode08, packI_fields, checked]

theorem Encoding.sltui : ∀ d a imm, Encoding.Statement (.sltui d a imm) := by
  intro d a imm h w e
  obtain rfl := Option.some.inj e
  change (true : Bool) = true at h
  rw [decodeWord_09 _ (congrArg BitVec.toNat (packI_fields _ _ _ _).1)]
  simp_all [decode09, packI_fields, checked]

theorem Encoding.slli : ∀ d a amt, Encoding.Statement (.slli d a amt) := by
  intro d a amt h w e
  obtain rfl := Option.some.inj e
  change (true : Bool) = true at h
  rw [decodeWord_0A _ (congrArg BitVec.toNat (packS_fields _ _ _ _ _).1)]
  simp_all [decode0A, packS_fields, checked]

theorem Encoding.srli : ∀ d a amt, Encoding.Statement (.srli d a amt) := by
  intro d a amt h w e
  obtain rfl := Option.some.inj e
  change (true : Bool) = true at h
  rw [decodeWord_0A _ (congrArg BitVec.toNat (packS_fields _ _ _ _ _).1)]
  simp_all [decode0A, packS_fields, checked]

theorem Encoding.srai : ∀ d a amt, Encoding.Statement (.srai d a amt) := by
  intro d a amt h w e
  obtain rfl := Option.some.inj e
  change (true : Bool) = true at h
  rw [decodeWord_0A _ (congrArg BitVec.toNat (packS_fields _ _ _ _ _).1)]
  simp_all [decode0A, packS_fields, checked]

theorem Encoding.rori : ∀ d a amt, Encoding.Statement (.rori d a amt) := by
  intro d a amt h w e
  obtain rfl := Option.some.inj e
  change (true : Bool) = true at h
  rw [decodeWord_0A _ (congrArg BitVec.toNat (packS_fields _ _ _ _ _).1)]
  simp_all [decode0A, packS_fields, checked]

theorem Encoding.lih : ∀ d imm, Encoding.Statement (.lih d imm) := by
  intro d imm h w e
  obtain rfl := Option.some.inj e
  change (true : Bool) = true at h
  rw [decodeWord_0B _ (congrArg BitVec.toNat (packU_fields _ _ _).1)]
  simp_all [decode0B, packU_fields, checked]

theorem Encoding.pcadd : ∀ d imm, Encoding.Statement (.pcadd d imm) := by
  intro d imm h w e
  obtain rfl := Option.some.inj e
  change (true : Bool) = true at h
  rw [decodeWord_0C _ (congrArg BitVec.toNat (packU_fields _ _ _).1)]
  simp_all [decode0C, packU_fields, checked]

theorem Encoding.ldb : ∀ d a off, Encoding.Statement (.ldb d a off) := by
  intro d a off h w e
  obtain rfl := Option.some.inj e
  change (true : Bool) = true at h
  rw [decodeWord_0D _ (congrArg BitVec.toNat (packM_fields _ _ _ _ _).1)]
  simp_all [decode0D, packM_fields, checked]

theorem Encoding.ldh : ∀ d a off, Encoding.Statement (.ldh d a off) := by
  intro d a off h w e
  obtain rfl := Option.some.inj e
  change (true : Bool) = true at h
  rw [decodeWord_0D _ (congrArg BitVec.toNat (packM_fields _ _ _ _ _).1)]
  simp_all [decode0D, packM_fields, checked]

theorem Encoding.ldw : ∀ d a off, Encoding.Statement (.ldw d a off) := by
  intro d a off h w e
  obtain rfl := Option.some.inj e
  change (true : Bool) = true at h
  rw [decodeWord_0D _ (congrArg BitVec.toNat (packM_fields _ _ _ _ _).1)]
  simp_all [decode0D, packM_fields, checked]

theorem Encoding.ldd : ∀ d a off, Encoding.Statement (.ldd d a off) := by
  intro d a off h w e
  obtain rfl := Option.some.inj e
  change (true : Bool) = true at h
  rw [decodeWord_0D _ (congrArg BitVec.toNat (packM_fields _ _ _ _ _).1)]
  simp_all [decode0D, packM_fields, checked]

theorem Encoding.ldbu : ∀ d a off, Encoding.Statement (.ldbu d a off) := by
  intro d a off h w e
  obtain rfl := Option.some.inj e
  change (true : Bool) = true at h
  rw [decodeWord_0D _ (congrArg BitVec.toNat (packM_fields _ _ _ _ _).1)]
  simp_all [decode0D, packM_fields, checked]

theorem Encoding.ldhu : ∀ d a off, Encoding.Statement (.ldhu d a off) := by
  intro d a off h w e
  obtain rfl := Option.some.inj e
  change (true : Bool) = true at h
  rw [decodeWord_0D _ (congrArg BitVec.toNat (packM_fields _ _ _ _ _).1)]
  simp_all [decode0D, packM_fields, checked]

theorem Encoding.ldwu : ∀ d a off, Encoding.Statement (.ldwu d a off) := by
  intro d a off h w e
  obtain rfl := Option.some.inj e
  change (true : Bool) = true at h
  rw [decodeWord_0D _ (congrArg BitVec.toNat (packM_fields _ _ _ _ _).1)]
  simp_all [decode0D, packM_fields, checked]

theorem Encoding.stb : ∀ b a off, Encoding.Statement (.stb b a off) := by
  intro b a off h w e
  obtain rfl := Option.some.inj e
  change (true : Bool) = true at h
  rw [decodeWord_0E _ (congrArg BitVec.toNat (packM_fields _ _ _ _ _).1)]
  simp_all [decode0E, packM_fields, checked]

theorem Encoding.sth : ∀ b a off, Encoding.Statement (.sth b a off) := by
  intro b a off h w e
  obtain rfl := Option.some.inj e
  change (true : Bool) = true at h
  rw [decodeWord_0E _ (congrArg BitVec.toNat (packM_fields _ _ _ _ _).1)]
  simp_all [decode0E, packM_fields, checked]

theorem Encoding.stw : ∀ b a off, Encoding.Statement (.stw b a off) := by
  intro b a off h w e
  obtain rfl := Option.some.inj e
  change (true : Bool) = true at h
  rw [decodeWord_0E _ (congrArg BitVec.toNat (packM_fields _ _ _ _ _).1)]
  simp_all [decode0E, packM_fields, checked]

theorem Encoding.std : ∀ b a off, Encoding.Statement (.std b a off) := by
  intro b a off h w e
  obtain rfl := Option.some.inj e
  change (true : Bool) = true at h
  rw [decodeWord_0E _ (congrArg BitVec.toNat (packM_fields _ _ _ _ _).1)]
  simp_all [decode0E, packM_fields, checked]

theorem Encoding.ldab : ∀ d a sc off, Encoding.Statement (.ldab d a sc off) := by
  intro d a sc off h w e
  obtain rfl := Option.some.inj e
  change (fieldLe sc 6 : Bool) = true at h
  rw [decodeWord_0F _ (congrArg BitVec.toNat (packA_fields _ _ _ _ _ _).1)]
  simp_all [decode0F, packA_fields, checked]

theorem Encoding.ldah : ∀ d a sc off, Encoding.Statement (.ldah d a sc off) := by
  intro d a sc off h w e
  obtain rfl := Option.some.inj e
  change (fieldLe sc 6 : Bool) = true at h
  rw [decodeWord_0F _ (congrArg BitVec.toNat (packA_fields _ _ _ _ _ _).1)]
  simp_all [decode0F, packA_fields, checked]

theorem Encoding.ldaw : ∀ d a sc off, Encoding.Statement (.ldaw d a sc off) := by
  intro d a sc off h w e
  obtain rfl := Option.some.inj e
  change (fieldLe sc 6 : Bool) = true at h
  rw [decodeWord_0F _ (congrArg BitVec.toNat (packA_fields _ _ _ _ _ _).1)]
  simp_all [decode0F, packA_fields, checked]

theorem Encoding.ldad : ∀ d a sc off, Encoding.Statement (.ldad d a sc off) := by
  intro d a sc off h w e
  obtain rfl := Option.some.inj e
  change (fieldLe sc 6 : Bool) = true at h
  rw [decodeWord_0F _ (congrArg BitVec.toNat (packA_fields _ _ _ _ _ _).1)]
  simp_all [decode0F, packA_fields, checked]

theorem Encoding.stlb : ∀ b a sc off, Encoding.Statement (.stlb b a sc off) := by
  intro b a sc off h w e
  obtain rfl := Option.some.inj e
  change (fieldLe sc 6 : Bool) = true at h
  rw [decodeWord_0F _ (congrArg BitVec.toNat (packA_fields _ _ _ _ _ _).1)]
  simp_all [decode0F, packA_fields, checked]

theorem Encoding.stlh : ∀ b a sc off, Encoding.Statement (.stlh b a sc off) := by
  intro b a sc off h w e
  obtain rfl := Option.some.inj e
  change (fieldLe sc 6 : Bool) = true at h
  rw [decodeWord_0F _ (congrArg BitVec.toNat (packA_fields _ _ _ _ _ _).1)]
  simp_all [decode0F, packA_fields, checked]

theorem Encoding.stlw : ∀ b a sc off, Encoding.Statement (.stlw b a sc off) := by
  intro b a sc off h w e
  obtain rfl := Option.some.inj e
  change (fieldLe sc 6 : Bool) = true at h
  rw [decodeWord_0F _ (congrArg BitVec.toNat (packA_fields _ _ _ _ _ _).1)]
  simp_all [decode0F, packA_fields, checked]

theorem Encoding.stld : ∀ b a sc off, Encoding.Statement (.stld b a sc off) := by
  intro b a sc off h w e
  obtain rfl := Option.some.inj e
  change (fieldLe sc 6 : Bool) = true at h
  rw [decodeWord_0F _ (congrArg BitVec.toNat (packA_fields _ _ _ _ _ _).1)]
  simp_all [decode0F, packA_fields, checked]

theorem Encoding.amoadd : ∀ d a b, Encoding.Statement (.amoadd d a b) := by
  intro d a b h w e
  obtain rfl := Option.some.inj e
  change (true : Bool) = true at h
  rw [decodeWord_10 _ (congrArg BitVec.toNat (packR_fields _ _ _ _ _).1)]
  simp_all [decode10, packR_fields, checked]

theorem Encoding.amoand : ∀ d a b, Encoding.Statement (.amoand d a b) := by
  intro d a b h w e
  obtain rfl := Option.some.inj e
  change (true : Bool) = true at h
  rw [decodeWord_10 _ (congrArg BitVec.toNat (packR_fields _ _ _ _ _).1)]
  simp_all [decode10, packR_fields, checked]

theorem Encoding.amoor : ∀ d a b, Encoding.Statement (.amoor d a b) := by
  intro d a b h w e
  obtain rfl := Option.some.inj e
  change (true : Bool) = true at h
  rw [decodeWord_10 _ (congrArg BitVec.toNat (packR_fields _ _ _ _ _).1)]
  simp_all [decode10, packR_fields, checked]

theorem Encoding.amoxor : ∀ d a b, Encoding.Statement (.amoxor d a b) := by
  intro d a b h w e
  obtain rfl := Option.some.inj e
  change (true : Bool) = true at h
  rw [decodeWord_10 _ (congrArg BitVec.toNat (packR_fields _ _ _ _ _).1)]
  simp_all [decode10, packR_fields, checked]

theorem Encoding.amomin : ∀ d a b, Encoding.Statement (.amomin d a b) := by
  intro d a b h w e
  obtain rfl := Option.some.inj e
  change (true : Bool) = true at h
  rw [decodeWord_10 _ (congrArg BitVec.toNat (packR_fields _ _ _ _ _).1)]
  simp_all [decode10, packR_fields, checked]

theorem Encoding.amomax : ∀ d a b, Encoding.Statement (.amomax d a b) := by
  intro d a b h w e
  obtain rfl := Option.some.inj e
  change (true : Bool) = true at h
  rw [decodeWord_10 _ (congrArg BitVec.toNat (packR_fields _ _ _ _ _).1)]
  simp_all [decode10, packR_fields, checked]

theorem Encoding.amominu : ∀ d a b, Encoding.Statement (.amominu d a b) := by
  intro d a b h w e
  obtain rfl := Option.some.inj e
  change (true : Bool) = true at h
  rw [decodeWord_10 _ (congrArg BitVec.toNat (packR_fields _ _ _ _ _).1)]
  simp_all [decode10, packR_fields, checked]

theorem Encoding.amomaxu : ∀ d a b, Encoding.Statement (.amomaxu d a b) := by
  intro d a b h w e
  obtain rfl := Option.some.inj e
  change (true : Bool) = true at h
  rw [decodeWord_10 _ (congrArg BitVec.toNat (packR_fields _ _ _ _ _).1)]
  simp_all [decode10, packR_fields, checked]

theorem Encoding.amoswap : ∀ d a b, Encoding.Statement (.amoswap d a b) := by
  intro d a b h w e
  obtain rfl := Option.some.inj e
  change (true : Bool) = true at h
  rw [decodeWord_10 _ (congrArg BitVec.toNat (packR_fields _ _ _ _ _).1)]
  simp_all [decode10, packR_fields, checked]

theorem Encoding.amocas : ∀ d a b, Encoding.Statement (.amocas d a b) := by
  intro d a b h w e
  obtain rfl := Option.some.inj e
  change (true : Bool) = true at h
  rw [decodeWord_10 _ (congrArg BitVec.toNat (packR_fields _ _ _ _ _).1)]
  simp_all [decode10, packR_fields, checked]

theorem Encoding.amofadd32 : ∀ d a b, Encoding.Statement (.amofadd32 d a b) := by
  intro d a b h w e
  obtain rfl := Option.some.inj e
  change (true : Bool) = true at h
  rw [decodeWord_10 _ (congrArg BitVec.toNat (packR_fields _ _ _ _ _).1)]
  simp_all [decode10, packR_fields, checked]

theorem Encoding.amofadd64 : ∀ d a b, Encoding.Statement (.amofadd64 d a b) := by
  intro d a b h w e
  obtain rfl := Option.some.inj e
  change (true : Bool) = true at h
  rw [decodeWord_10 _ (congrArg BitVec.toNat (packR_fields _ _ _ _ _).1)]
  simp_all [decode10, packR_fields, checked]

theorem Encoding.amoaddO : ∀ d a b, Encoding.Statement (.amoaddO d a b) := by
  intro d a b h w e
  obtain rfl := Option.some.inj e
  change (true : Bool) = true at h
  rw [decodeWord_10 _ (congrArg BitVec.toNat (packR_fields _ _ _ _ _).1)]
  simp_all [decode10, packR_fields, checked]

theorem Encoding.amoandO : ∀ d a b, Encoding.Statement (.amoandO d a b) := by
  intro d a b h w e
  obtain rfl := Option.some.inj e
  change (true : Bool) = true at h
  rw [decodeWord_10 _ (congrArg BitVec.toNat (packR_fields _ _ _ _ _).1)]
  simp_all [decode10, packR_fields, checked]

theorem Encoding.amoorO : ∀ d a b, Encoding.Statement (.amoorO d a b) := by
  intro d a b h w e
  obtain rfl := Option.some.inj e
  change (true : Bool) = true at h
  rw [decodeWord_10 _ (congrArg BitVec.toNat (packR_fields _ _ _ _ _).1)]
  simp_all [decode10, packR_fields, checked]

theorem Encoding.amoxorO : ∀ d a b, Encoding.Statement (.amoxorO d a b) := by
  intro d a b h w e
  obtain rfl := Option.some.inj e
  change (true : Bool) = true at h
  rw [decodeWord_10 _ (congrArg BitVec.toNat (packR_fields _ _ _ _ _).1)]
  simp_all [decode10, packR_fields, checked]

theorem Encoding.amominO : ∀ d a b, Encoding.Statement (.amominO d a b) := by
  intro d a b h w e
  obtain rfl := Option.some.inj e
  change (true : Bool) = true at h
  rw [decodeWord_10 _ (congrArg BitVec.toNat (packR_fields _ _ _ _ _).1)]
  simp_all [decode10, packR_fields, checked]

theorem Encoding.amomaxO : ∀ d a b, Encoding.Statement (.amomaxO d a b) := by
  intro d a b h w e
  obtain rfl := Option.some.inj e
  change (true : Bool) = true at h
  rw [decodeWord_10 _ (congrArg BitVec.toNat (packR_fields _ _ _ _ _).1)]
  simp_all [decode10, packR_fields, checked]

theorem Encoding.amominuO : ∀ d a b, Encoding.Statement (.amominuO d a b) := by
  intro d a b h w e
  obtain rfl := Option.some.inj e
  change (true : Bool) = true at h
  rw [decodeWord_10 _ (congrArg BitVec.toNat (packR_fields _ _ _ _ _).1)]
  simp_all [decode10, packR_fields, checked]

theorem Encoding.amomaxuO : ∀ d a b, Encoding.Statement (.amomaxuO d a b) := by
  intro d a b h w e
  obtain rfl := Option.some.inj e
  change (true : Bool) = true at h
  rw [decodeWord_10 _ (congrArg BitVec.toNat (packR_fields _ _ _ _ _).1)]
  simp_all [decode10, packR_fields, checked]

theorem Encoding.amoswapO : ∀ d a b, Encoding.Statement (.amoswapO d a b) := by
  intro d a b h w e
  obtain rfl := Option.some.inj e
  change (true : Bool) = true at h
  rw [decodeWord_10 _ (congrArg BitVec.toNat (packR_fields _ _ _ _ _).1)]
  simp_all [decode10, packR_fields, checked]

theorem Encoding.amocasO : ∀ d a b, Encoding.Statement (.amocasO d a b) := by
  intro d a b h w e
  obtain rfl := Option.some.inj e
  change (true : Bool) = true at h
  rw [decodeWord_10 _ (congrArg BitVec.toNat (packR_fields _ _ _ _ _).1)]
  simp_all [decode10, packR_fields, checked]

theorem Encoding.amofadd32O : ∀ d a b, Encoding.Statement (.amofadd32O d a b) := by
  intro d a b h w e
  obtain rfl := Option.some.inj e
  change (true : Bool) = true at h
  rw [decodeWord_10 _ (congrArg BitVec.toNat (packR_fields _ _ _ _ _).1)]
  simp_all [decode10, packR_fields, checked]

theorem Encoding.amofadd64O : ∀ d a b, Encoding.Statement (.amofadd64O d a b) := by
  intro d a b h w e
  obtain rfl := Option.some.inj e
  change (true : Bool) = true at h
  rw [decodeWord_10 _ (congrArg BitVec.toNat (packR_fields _ _ _ _ _).1)]
  simp_all [decode10, packR_fields, checked]

theorem Encoding.beq : ∀ a b off, Encoding.Statement (.beq a b off) := by
  intro a b off h w e
  obtain rfl := Option.some.inj e
  change (true : Bool) = true at h
  rw [decodeWord_11 _ (congrArg BitVec.toNat (packI_fields _ _ _ _).1)]
  simp_all [decode11, packI_fields, checked]

theorem Encoding.bne : ∀ a b off, Encoding.Statement (.bne a b off) := by
  intro a b off h w e
  obtain rfl := Option.some.inj e
  change (true : Bool) = true at h
  rw [decodeWord_12 _ (congrArg BitVec.toNat (packI_fields _ _ _ _).1)]
  simp_all [decode12, packI_fields, checked]

theorem Encoding.blt : ∀ a b off, Encoding.Statement (.blt a b off) := by
  intro a b off h w e
  obtain rfl := Option.some.inj e
  change (true : Bool) = true at h
  rw [decodeWord_13 _ (congrArg BitVec.toNat (packI_fields _ _ _ _).1)]
  simp_all [decode13, packI_fields, checked]

theorem Encoding.bge : ∀ a b off, Encoding.Statement (.bge a b off) := by
  intro a b off h w e
  obtain rfl := Option.some.inj e
  change (true : Bool) = true at h
  rw [decodeWord_14 _ (congrArg BitVec.toNat (packI_fields _ _ _ _).1)]
  simp_all [decode14, packI_fields, checked]

theorem Encoding.bltu : ∀ a b off, Encoding.Statement (.bltu a b off) := by
  intro a b off h w e
  obtain rfl := Option.some.inj e
  change (true : Bool) = true at h
  rw [decodeWord_15 _ (congrArg BitVec.toNat (packI_fields _ _ _ _).1)]
  simp_all [decode15, packI_fields, checked]

theorem Encoding.bgeu : ∀ a b off, Encoding.Statement (.bgeu a b off) := by
  intro a b off h w e
  obtain rfl := Option.some.inj e
  change (true : Bool) = true at h
  rw [decodeWord_16 _ (congrArg BitVec.toNat (packI_fields _ _ _ _).1)]
  simp_all [decode16, packI_fields, checked]

theorem Encoding.loopr : ∀ off, Encoding.Statement (.loopr off) := by
  intro off h w e
  obtain rfl := Option.some.inj e
  change (true : Bool) = true at h
  rw [decodeWord_17 _ (congrArg BitVec.toNat (packI_fields _ _ _ _).1)]
  simp_all [decode17, packI_fields, checked]

theorem Encoding.j : ∀ off, Encoding.Statement (.j off) := by
  intro off h w e
  obtain rfl := Option.some.inj e
  change (true : Bool) = true at h
  rw [decodeWord_18 _ (congrArg BitVec.toNat (packJ_fields _ _).1)]
  simp_all [decode18, packJ_fields, checked]

theorem Encoding.call : ∀ off, Encoding.Statement (.call off) := by
  intro off h w e
  obtain rfl := Option.some.inj e
  change (true : Bool) = true at h
  rw [decodeWord_19 _ (congrArg BitVec.toNat (packJ_fields _ _).1)]
  simp_all [decode19, packJ_fields, checked]

theorem Encoding.jr : ∀ d a imm, Encoding.Statement (.jr d a imm) := by
  intro d a imm h w e
  obtain rfl := Option.some.inj e
  change (true : Bool) = true at h
  rw [decodeWord_1A _ (congrArg BitVec.toNat (packI_fields _ _ _ _).1)]
  simp_all [decode1A, packI_fields, checked]

theorem Encoding.trap : ∀ n, Encoding.Statement (.trap n) := by
  intro n h w e
  obtain rfl := Option.some.inj e
  change (true : Bool) = true at h
  rw [decodeWord_1B _ (congrArg BitVec.toNat (packR_fields _ _ _ _ _).1)]
  simp_all [decode1B, packR_fields, checked]

theorem Encoding.tret : Encoding.Statement .tret := by
  intro h w e
  obtain rfl := Option.some.inj e
  change (true : Bool) = true at h
  rw [decodeWord_1B _ (congrArg BitVec.toNat (packR_fields _ _ _ _ _).1)]
  simp_all [decode1B, packR_fields, checked]

theorem Encoding.exit : ∀ a, Encoding.Statement (.exit a) := by
  intro a h w e
  obtain rfl := Option.some.inj e
  change (true : Bool) = true at h
  rw [decodeWord_1B _ (congrArg BitVec.toNat (packR_fields _ _ _ _ _).1)]
  simp_all [decode1B, packR_fields, checked]

theorem Encoding.fence : ∀ n, Encoding.Statement (.fence n) := by
  intro n h w e
  obtain rfl := Option.some.inj e
  change (fieldLe n 6 : Bool) = true at h
  rw [decodeWord_1B _ (congrArg BitVec.toNat (packR_fields _ _ _ _ _).1)]
  simp_all [decode1B, packR_fields, checked]

theorem Encoding.winb : ∀ n, Encoding.Statement (.winb n) := by
  intro n h w e
  obtain rfl := Option.some.inj e
  change (fieldLe n 14 : Bool) = true at h
  rw [decodeWord_1B _ (congrArg BitVec.toNat (packR_fields _ _ _ _ _).1)]
  simp_all [decode1B, packR_fields, checked]

theorem Encoding.rcpt : ∀ d, Encoding.Statement (.rcpt d) := by
  intro d h w e
  obtain rfl := Option.some.inj e
  change (true : Bool) = true at h
  rw [decodeWord_1B _ (congrArg BitVec.toNat (packR_fields _ _ _ _ _).1)]
  simp_all [decode1B, packR_fields, checked]

theorem Encoding.addrc : ∀ d a n, Encoding.Statement (.addrc d a n) := by
  intro d a n h w e
  obtain rfl := Option.some.inj e
  change (fieldLe n 6 : Bool) = true at h
  rw [decodeWord_1B _ (congrArg BitVec.toNat (packR_fields _ _ _ _ _).1)]
  simp_all [decode1B, packR_fields, checked]

theorem Encoding.nop : Encoding.Statement .nop := by
  intro h w e
  obtain rfl := Option.some.inj e
  change (true : Bool) = true at h
  rw [decodeWord_1B _ (congrArg BitVec.toNat (packR_fields _ _ _ _ _).1)]
  simp_all [decode1B, packR_fields, checked]

theorem Encoding.crd : ∀ d imm, Encoding.Statement (.crd d imm) := by
  intro d imm h w e
  obtain rfl := Option.some.inj e
  change (true : Bool) = true at h
  rw [decodeWord_1C _ (congrArg BitVec.toNat (packI_fields _ _ _ _).1)]
  simp_all [decode1C, packI_fields, checked]

theorem Encoding.cwr : ∀ a imm, Encoding.Statement (.cwr a imm) := by
  intro a imm h w e
  obtain rfl := Option.some.inj e
  change (true : Bool) = true at h
  rw [decodeWord_1D _ (congrArg BitVec.toNat (packI_fields _ _ _ _).1)]
  simp_all [decode1D, packI_fields, checked]

theorem Encoding.cset : ∀ a imm, Encoding.Statement (.cset a imm) := by
  intro a imm h w e
  obtain rfl := Option.some.inj e
  change (true : Bool) = true at h
  rw [decodeWord_1E _ (congrArg BitVec.toNat (packI_fields _ _ _ _).1)]
  simp_all [decode1E, packI_fields, checked]

theorem Encoding.cclr : ∀ a imm, Encoding.Statement (.cclr a imm) := by
  intro a imm h w e
  obtain rfl := Option.some.inj e
  change (true : Bool) = true at h
  rw [decodeWord_1F _ (congrArg BitVec.toNat (packI_fields _ _ _ _).1)]
  simp_all [decode1F, packI_fields, checked]

theorem Encoding.illegalInstruction : ∀ w, Encoding.Statement (.illegalInstruction w) := by
  intro w _ w e; exact absurd e (by rintro ⟨⟩)

theorem Encoding.vadd : ∀ d a b ca cb mk, Encoding.Statement (.vadd d a b ca cb mk) := by
  intro d a b ca cb mk h w e
  obtain rfl := Option.some.inj e
  change (true : Bool) = true at h
  rw [decodeWord_20 _ (congrArg BitVec.toNat (packV_fields _ _ _ _ _ _ _ _).1)]
  simp_all [decode20, packV_fields, checked]

theorem Encoding.vsub : ∀ d a b ca cb mk, Encoding.Statement (.vsub d a b ca cb mk) := by
  intro d a b ca cb mk h w e
  obtain rfl := Option.some.inj e
  change (true : Bool) = true at h
  rw [decodeWord_20 _ (congrArg BitVec.toNat (packV_fields _ _ _ _ _ _ _ _).1)]
  simp_all [decode20, packV_fields, checked]

theorem Encoding.vmul : ∀ d a b ca cb mk, Encoding.Statement (.vmul d a b ca cb mk) := by
  intro d a b ca cb mk h w e
  obtain rfl := Option.some.inj e
  change (true : Bool) = true at h
  rw [decodeWord_20 _ (congrArg BitVec.toNat (packV_fields _ _ _ _ _ _ _ _).1)]
  simp_all [decode20, packV_fields, checked]

theorem Encoding.vdiv : ∀ d a b ca cb mk, Encoding.Statement (.vdiv d a b ca cb mk) := by
  intro d a b ca cb mk h w e
  obtain rfl := Option.some.inj e
  change (true : Bool) = true at h
  rw [decodeWord_20 _ (congrArg BitVec.toNat (packV_fields _ _ _ _ _ _ _ _).1)]
  simp_all [decode20, packV_fields, checked]

theorem Encoding.vfma : ∀ d a b ca cb mk, Encoding.Statement (.vfma d a b ca cb mk) := by
  intro d a b ca cb mk h w e
  obtain rfl := Option.some.inj e
  change (true : Bool) = true at h
  rw [decodeWord_21 _ (congrArg BitVec.toNat (packV_fields _ _ _ _ _ _ _ _).1)]
  simp_all [decode21, packV_fields, checked]

theorem Encoding.vfms : ∀ d a b ca cb mk, Encoding.Statement (.vfms d a b ca cb mk) := by
  intro d a b ca cb mk h w e
  obtain rfl := Option.some.inj e
  change (true : Bool) = true at h
  rw [decodeWord_21 _ (congrArg BitVec.toNat (packV_fields _ _ _ _ _ _ _ _).1)]
  simp_all [decode21, packV_fields, checked]

theorem Encoding.vfnma : ∀ d a b ca cb mk, Encoding.Statement (.vfnma d a b ca cb mk) := by
  intro d a b ca cb mk h w e
  obtain rfl := Option.some.inj e
  change (true : Bool) = true at h
  rw [decodeWord_21 _ (congrArg BitVec.toNat (packV_fields _ _ _ _ _ _ _ _).1)]
  simp_all [decode21, packV_fields, checked]

theorem Encoding.vfnms : ∀ d a b ca cb mk, Encoding.Statement (.vfnms d a b ca cb mk) := by
  intro d a b ca cb mk h w e
  obtain rfl := Option.some.inj e
  change (true : Bool) = true at h
  rw [decodeWord_21 _ (congrArg BitVec.toNat (packV_fields _ _ _ _ _ _ _ _).1)]
  simp_all [decode21, packV_fields, checked]

theorem Encoding.vmin : ∀ d a b ca cb mk, Encoding.Statement (.vmin d a b ca cb mk) := by
  intro d a b ca cb mk h w e
  obtain rfl := Option.some.inj e
  change (true : Bool) = true at h
  rw [decodeWord_22 _ (congrArg BitVec.toNat (packV_fields _ _ _ _ _ _ _ _).1)]
  simp_all [decode22, packV_fields, checked]

theorem Encoding.vmax : ∀ d a b ca cb mk, Encoding.Statement (.vmax d a b ca cb mk) := by
  intro d a b ca cb mk h w e
  obtain rfl := Option.some.inj e
  change (true : Bool) = true at h
  rw [decodeWord_22 _ (congrArg BitVec.toNat (packV_fields _ _ _ _ _ _ _ _).1)]
  simp_all [decode22, packV_fields, checked]

theorem Encoding.vabs : ∀ d a ca mk, Encoding.Statement (.vabs d a ca mk) := by
  intro d a ca mk h w e
  obtain rfl := Option.some.inj e
  change (true : Bool) = true at h
  rw [decodeWord_22 _ (congrArg BitVec.toNat (packV_fields _ _ _ _ _ _ _ _).1)]
  simp_all [decode22, packV_fields, checked]

theorem Encoding.vneg : ∀ d a ca mk, Encoding.Statement (.vneg d a ca mk) := by
  intro d a ca mk h w e
  obtain rfl := Option.some.inj e
  change (true : Bool) = true at h
  rw [decodeWord_22 _ (congrArg BitVec.toNat (packV_fields _ _ _ _ _ _ _ _).1)]
  simp_all [decode22, packV_fields, checked]

theorem Encoding.vsqrt : ∀ d a ca mk, Encoding.Statement (.vsqrt d a ca mk) := by
  intro d a ca mk h w e
  obtain rfl := Option.some.inj e
  change (true : Bool) = true at h
  rw [decodeWord_23 _ (congrArg BitVec.toNat (packV_fields _ _ _ _ _ _ _ _).1)]
  simp_all [decode23, packV_fields, checked]

theorem Encoding.vrsqrt : ∀ d a ca mk, Encoding.Statement (.vrsqrt d a ca mk) := by
  intro d a ca mk h w e
  obtain rfl := Option.some.inj e
  change (true : Bool) = true at h
  rw [decodeWord_23 _ (congrArg BitVec.toNat (packV_fields _ _ _ _ _ _ _ _).1)]
  simp_all [decode23, packV_fields, checked]

theorem Encoding.vrecip : ∀ d a ca mk, Encoding.Statement (.vrecip d a ca mk) := by
  intro d a ca mk h w e
  obtain rfl := Option.some.inj e
  change (true : Bool) = true at h
  rw [decodeWord_23 _ (congrArg BitVec.toNat (packV_fields _ _ _ _ _ _ _ _).1)]
  simp_all [decode23, packV_fields, checked]

theorem Encoding.vexp2 : ∀ d a ca mk, Encoding.Statement (.vexp2 d a ca mk) := by
  intro d a ca mk h w e
  obtain rfl := Option.some.inj e
  change (true : Bool) = true at h
  rw [decodeWord_23 _ (congrArg BitVec.toNat (packV_fields _ _ _ _ _ _ _ _).1)]
  simp_all [decode23, packV_fields, checked]

theorem Encoding.vlog2 : ∀ d a ca mk, Encoding.Statement (.vlog2 d a ca mk) := by
  intro d a ca mk h w e
  obtain rfl := Option.some.inj e
  change (true : Bool) = true at h
  rw [decodeWord_23 _ (congrArg BitVec.toNat (packV_fields _ _ _ _ _ _ _ _).1)]
  simp_all [decode23, packV_fields, checked]

theorem Encoding.vand : ∀ d a b ca cb mk, Encoding.Statement (.vand d a b ca cb mk) := by
  intro d a b ca cb mk h w e
  obtain rfl := Option.some.inj e
  change (true : Bool) = true at h
  rw [decodeWord_24 _ (congrArg BitVec.toNat (packV_fields _ _ _ _ _ _ _ _).1)]
  simp_all [decode24, packV_fields, checked]

theorem Encoding.vor : ∀ d a b ca cb mk, Encoding.Statement (.vor d a b ca cb mk) := by
  intro d a b ca cb mk h w e
  obtain rfl := Option.some.inj e
  change (true : Bool) = true at h
  rw [decodeWord_24 _ (congrArg BitVec.toNat (packV_fields _ _ _ _ _ _ _ _).1)]
  simp_all [decode24, packV_fields, checked]

theorem Encoding.vxor : ∀ d a b ca cb mk, Encoding.Statement (.vxor d a b ca cb mk) := by
  intro d a b ca cb mk h w e
  obtain rfl := Option.some.inj e
  change (true : Bool) = true at h
  rw [decodeWord_24 _ (congrArg BitVec.toNat (packV_fields _ _ _ _ _ _ _ _).1)]
  simp_all [decode24, packV_fields, checked]

theorem Encoding.vshift : ∀ d a b ca cb mk, Encoding.Statement (.vshift d a b ca cb mk) := by
  intro d a b ca cb mk h w e
  obtain rfl := Option.some.inj e
  change (true : Bool) = true at h
  rw [decodeWord_24 _ (congrArg BitVec.toNat (packV_fields _ _ _ _ _ _ _ _).1)]
  simp_all [decode24, packV_fields, checked]

theorem Encoding.vcmpeq : ∀ d a b ca cb mk, Encoding.Statement (.vcmpeq d a b ca cb mk) := by
  intro d a b ca cb mk h w e
  obtain rfl := Option.some.inj e
  change (fieldLe d 15 : Bool) = true at h
  rw [decodeWord_25 _ (congrArg BitVec.toNat (packV_fields _ _ _ _ _ _ _ _).1)]
  simp_all [decode25, packV_fields, checked]

theorem Encoding.vcmplt : ∀ d a b ca cb mk, Encoding.Statement (.vcmplt d a b ca cb mk) := by
  intro d a b ca cb mk h w e
  obtain rfl := Option.some.inj e
  change (fieldLe d 15 : Bool) = true at h
  rw [decodeWord_25 _ (congrArg BitVec.toNat (packV_fields _ _ _ _ _ _ _ _).1)]
  simp_all [decode25, packV_fields, checked]

theorem Encoding.vcmple : ∀ d a b ca cb mk, Encoding.Statement (.vcmple d a b ca cb mk) := by
  intro d a b ca cb mk h w e
  obtain rfl := Option.some.inj e
  change (fieldLe d 15 : Bool) = true at h
  rw [decodeWord_25 _ (congrArg BitVec.toNat (packV_fields _ _ _ _ _ _ _ _).1)]
  simp_all [decode25, packV_fields, checked]

theorem Encoding.vcmpne : ∀ d a b ca cb mk, Encoding.Statement (.vcmpne d a b ca cb mk) := by
  intro d a b ca cb mk h w e
  obtain rfl := Option.some.inj e
  change (fieldLe d 15 : Bool) = true at h
  rw [decodeWord_25 _ (congrArg BitVec.toNat (packV_fields _ _ _ _ _ _ _ _).1)]
  simp_all [decode25, packV_fields, checked]

theorem Encoding.vsel : ∀ d a b ca cb, Encoding.Statement (.vsel d a b ca cb) := by
  intro d a b ca cb h w e
  obtain rfl := Option.some.inj e
  change (true : Bool) = true at h
  rw [decodeWord_26 _ (congrArg BitVec.toNat (packV_fields _ _ _ _ _ _ _ _).1)]
  simp_all [decode26, packV_fields, checked]

theorem Encoding.vcvt : ∀ d a ca mk, Encoding.Statement (.vcvt d a ca mk) := by
  intro d a ca mk h w e
  obtain rfl := Option.some.inj e
  change (true : Bool) = true at h
  rw [decodeWord_26 _ (congrArg BitVec.toNat (packV_fields _ _ _ _ _ _ _ _).1)]
  simp_all [decode26, packV_fields, checked]

theorem Encoding.vcode : ∀ d n, Encoding.Statement (.vcode d n) := by
  intro d n h w e
  obtain rfl := Option.some.inj e
  change (fieldLe n 7 : Bool) = true at h
  rw [decodeWord_26 _ (congrArg BitVec.toNat (packV_fields _ _ _ _ _ _ _ _).1)]
  simp_all [decode26, packV_fields, checked]

theorem Encoding.vbcast : ∀ d a b mk, Encoding.Statement (.vbcast d a b mk) := by
  intro d a b mk h w e
  obtain rfl := Option.some.inj e
  change (true : Bool) = true at h
  rw [decodeWord_26 _ (congrArg BitVec.toNat (packV_fields _ _ _ _ _ _ _ _).1)]
  simp_all [decode26, packV_fields, checked]

theorem Encoding.vredsum : ∀ d a ca mk, Encoding.Statement (.vredsum d a ca mk) := by
  intro d a ca mk h w e
  obtain rfl := Option.some.inj e
  change (true : Bool) = true at h
  rw [decodeWord_27 _ (congrArg BitVec.toNat (packV_fields _ _ _ _ _ _ _ _).1)]
  simp_all [decode27, packV_fields, checked]

theorem Encoding.vredmax : ∀ d a ca mk, Encoding.Statement (.vredmax d a ca mk) := by
  intro d a ca mk h w e
  obtain rfl := Option.some.inj e
  change (true : Bool) = true at h
  rw [decodeWord_27 _ (congrArg BitVec.toNat (packV_fields _ _ _ _ _ _ _ _).1)]
  simp_all [decode27, packV_fields, checked]

theorem Encoding.vredmin : ∀ d a ca mk, Encoding.Statement (.vredmin d a ca mk) := by
  intro d a ca mk h w e
  obtain rfl := Option.some.inj e
  change (true : Bool) = true at h
  rw [decodeWord_27 _ (congrArg BitVec.toNat (packV_fields _ _ _ _ _ _ _ _).1)]
  simp_all [decode27, packV_fields, checked]

theorem Encoding.vscan : ∀ d a ca mk, Encoding.Statement (.vscan d a ca mk) := by
  intro d a ca mk h w e
  obtain rfl := Option.some.inj e
  change (true : Bool) = true at h
  rw [decodeWord_27 _ (congrArg BitVec.toNat (packV_fields _ _ _ _ _ _ _ _).1)]
  simp_all [decode27, packV_fields, checked]

theorem Encoding.vgathr : ∀ d a b ca cb mk, Encoding.Statement (.vgathr d a b ca cb mk) := by
  intro d a b ca cb mk h w e
  obtain rfl := Option.some.inj e
  change (true : Bool) = true at h
  rw [decodeWord_28 _ (congrArg BitVec.toNat (packV_fields _ _ _ _ _ _ _ _).1)]
  simp_all [decode28, packV_fields, checked]

theorem Encoding.vslide : ∀ d a b ca mk, Encoding.Statement (.vslide d a b ca mk) := by
  intro d a b ca mk h w e
  obtain rfl := Option.some.inj e
  change (true : Bool) = true at h
  rw [decodeWord_28 _ (congrArg BitVec.toNat (packV_fields _ _ _ _ _ _ _ _).1)]
  simp_all [decode28, packV_fields, checked]

theorem Encoding.vcomp : ∀ d a b ca, Encoding.Statement (.vcomp d a b ca) := by
  intro d a b ca h w e
  obtain rfl := Option.some.inj e
  change (fieldLe b 15 : Bool) = true at h
  rw [decodeWord_28 _ (congrArg BitVec.toNat (packV_fields _ _ _ _ _ _ _ _).1)]
  simp_all [decode28, packV_fields, checked]

theorem Encoding.vexpd : ∀ d a b ca, Encoding.Statement (.vexpd d a b ca) := by
  intro d a b ca h w e
  obtain rfl := Option.some.inj e
  change (fieldLe b 15 : Bool) = true at h
  rw [decodeWord_28 _ (congrArg BitVec.toNat (packV_fields _ _ _ _ _ _ _ _).1)]
  simp_all [decode28, packV_fields, checked]

theorem Encoding.vid : ∀ d a mk, Encoding.Statement (.vid d a mk) := by
  intro d a mk h w e
  obtain rfl := Option.some.inj e
  change (true : Bool) = true at h
  rw [decodeWord_29 _ (congrArg BitVec.toNat (packV_fields _ _ _ _ _ _ _ _).1)]
  simp_all [decode29, packV_fields, checked]

theorem Encoding.vrand : ∀ d a mk, Encoding.Statement (.vrand d a mk) := by
  intro d a mk h w e
  obtain rfl := Option.some.inj e
  change (true : Bool) = true at h
  rw [decodeWord_29 _ (congrArg BitVec.toNat (packV_fields _ _ _ _ _ _ _ _).1)]
  simp_all [decode29, packV_fields, checked]

theorem Encoding.voffs : ∀ d a ca, Encoding.Statement (.voffs d a ca) := by
  intro d a ca h w e
  obtain rfl := Option.some.inj e
  change (true : Bool) = true at h
  rw [decodeWord_29 _ (congrArg BitVec.toNat (packV_fields _ _ _ _ _ _ _ _).1)]
  simp_all [decode29, packV_fields, checked]

theorem Encoding.vlens : ∀ d a ca, Encoding.Statement (.vlens d a ca) := by
  intro d a ca h w e
  obtain rfl := Option.some.inj e
  change (true : Bool) = true at h
  rw [decodeWord_29 _ (congrArg BitVec.toNat (packV_fields _ _ _ _ _ _ _ _).1)]
  simp_all [decode29, packV_fields, checked]

theorem Encoding.vadds : ∀ d a b ca mk, Encoding.Statement (.vadds d a b ca mk) := by
  intro d a b ca mk h w e
  obtain rfl := Option.some.inj e
  change (true : Bool) = true at h
  rw [decodeWord_2A _ (congrArg BitVec.toNat (packV_fields _ _ _ _ _ _ _ _).1)]
  simp_all [decode2A, packV_fields, checked]

theorem Encoding.vmuls : ∀ d a b ca mk, Encoding.Statement (.vmuls d a b ca mk) := by
  intro d a b ca mk h w e
  obtain rfl := Option.some.inj e
  change (true : Bool) = true at h
  rw [decodeWord_2A _ (congrArg BitVec.toNat (packV_fields _ _ _ _ _ _ _ _).1)]
  simp_all [decode2A, packV_fields, checked]

theorem Encoding.vshls : ∀ d a b ca mk, Encoding.Statement (.vshls d a b ca mk) := by
  intro d a b ca mk h w e
  obtain rfl := Option.some.inj e
  change (true : Bool) = true at h
  rw [decodeWord_2A _ (congrArg BitVec.toNat (packV_fields _ _ _ _ _ _ _ _).1)]
  simp_all [decode2A, packV_fields, checked]

theorem Encoding.vshrs : ∀ d a b ca mk, Encoding.Statement (.vshrs d a b ca mk) := by
  intro d a b ca mk h w e
  obtain rfl := Option.some.inj e
  change (true : Bool) = true at h
  rw [decodeWord_2A _ (congrArg BitVec.toNat (packV_fields _ _ _ _ _ _ _ _).1)]
  simp_all [decode2A, packV_fields, checked]

theorem Encoding.vands : ∀ d a b ca mk, Encoding.Statement (.vands d a b ca mk) := by
  intro d a b ca mk h w e
  obtain rfl := Option.some.inj e
  change (true : Bool) = true at h
  rw [decodeWord_2B _ (congrArg BitVec.toNat (packV_fields _ _ _ _ _ _ _ _).1)]
  simp_all [decode2B, packV_fields, checked]

theorem Encoding.vfmas : ∀ d a b ca mk, Encoding.Statement (.vfmas d a b ca mk) := by
  intro d a b ca mk h w e
  obtain rfl := Option.some.inj e
  change (true : Bool) = true at h
  rw [decodeWord_2B _ (congrArg BitVec.toNat (packV_fields _ _ _ _ _ _ _ _).1)]
  simp_all [decode2B, packV_fields, checked]

theorem Encoding.vmaxs : ∀ d a b ca mk, Encoding.Statement (.vmaxs d a b ca mk) := by
  intro d a b ca mk h w e
  obtain rfl := Option.some.inj e
  change (true : Bool) = true at h
  rw [decodeWord_2B _ (congrArg BitVec.toNat (packV_fields _ _ _ _ _ _ _ _).1)]
  simp_all [decode2B, packV_fields, checked]

theorem Encoding.vmins : ∀ d a b ca mk, Encoding.Statement (.vmins d a b ca mk) := by
  intro d a b ca mk h w e
  obtain rfl := Option.some.inj e
  change (true : Bool) = true at h
  rw [decodeWord_2B _ (congrArg BitVec.toNat (packV_fields _ _ _ _ _ _ _ _).1)]
  simp_all [decode2B, packV_fields, checked]

theorem Encoding.kand : ∀ d a b, Encoding.Statement (.kand d a b) := by
  intro d a b h w e
  obtain rfl := Option.some.inj e
  change (fieldLe d 15 && fieldLe a 15 && fieldLe b 15 : Bool) = true at h
  rw [decodeWord_2C _ (congrArg BitVec.toNat (packV_fields _ _ _ _ _ _ _ _).1)]
  simp_all [decode2C, packV_fields, checked]

theorem Encoding.kor : ∀ d a b, Encoding.Statement (.kor d a b) := by
  intro d a b h w e
  obtain rfl := Option.some.inj e
  change (fieldLe d 15 && fieldLe a 15 && fieldLe b 15 : Bool) = true at h
  rw [decodeWord_2C _ (congrArg BitVec.toNat (packV_fields _ _ _ _ _ _ _ _).1)]
  simp_all [decode2C, packV_fields, checked]

theorem Encoding.kxor : ∀ d a b, Encoding.Statement (.kxor d a b) := by
  intro d a b h w e
  obtain rfl := Option.some.inj e
  change (fieldLe d 15 && fieldLe a 15 && fieldLe b 15 : Bool) = true at h
  rw [decodeWord_2C _ (congrArg BitVec.toNat (packV_fields _ _ _ _ _ _ _ _).1)]
  simp_all [decode2C, packV_fields, checked]

theorem Encoding.kcnt : ∀ d a, Encoding.Statement (.kcnt d a) := by
  intro d a h w e
  obtain rfl := Option.some.inj e
  change (fieldLe a 15 : Bool) = true at h
  rw [decodeWord_2C _ (congrArg BitVec.toNat (packV_fields _ _ _ _ _ _ _ _).1)]
  simp_all [decode2C, packV_fields, checked]

theorem Encoding.knot : ∀ d a, Encoding.Statement (.knot d a) := by
  intro d a h w e
  obtain rfl := Option.some.inj e
  change (fieldLe d 15 && fieldLe a 15 : Bool) = true at h
  rw [decodeWord_2C _ (congrArg BitVec.toNat (packV_fields _ _ _ _ _ _ _ _).1)]
  simp_all [decode2C, packV_fields, checked]

theorem Encoding.kfirst : ∀ d a, Encoding.Statement (.kfirst d a) := by
  intro d a h w e
  obtain rfl := Option.some.inj e
  change (fieldLe a 15 : Bool) = true at h
  rw [decodeWord_2C _ (congrArg BitVec.toNat (packV_fields _ _ _ _ _ _ _ _).1)]
  simp_all [decode2C, packV_fields, checked]

theorem Encoding.setvl : ∀ d a b, Encoding.Statement (.setvl d a b) := by
  intro d a b h w e
  obtain rfl := Option.some.inj e
  change (true : Bool) = true at h
  rw [decodeWord_2D _ (congrArg BitVec.toNat (packV_fields _ _ _ _ _ _ _ _).1)]
  simp_all [decode2D, packV_fields, checked]

theorem Encoding.getvl : ∀ d, Encoding.Statement (.getvl d) := by
  intro d h w e
  obtain rfl := Option.some.inj e
  change (true : Bool) = true at h
  rw [decodeWord_2D _ (congrArg BitVec.toNat (packV_fields _ _ _ _ _ _ _ _).1)]
  simp_all [decode2D, packV_fields, checked]

theorem Encoding.vframe : ∀ d, Encoding.Statement (.vframe d) := by
  intro d h w e
  obtain rfl := Option.some.inj e
  change (true : Bool) = true at h
  rw [decodeWord_2D _ (congrArg BitVec.toNat (packV_fields _ _ _ _ _ _ _ _).1)]
  simp_all [decode2D, packV_fields, checked]

theorem Encoding.setmask : ∀ n, Encoding.Statement (.setmask n) := by
  intro n h w e
  obtain rfl := Option.some.inj e
  change (fieldLe n 15 : Bool) = true at h
  rw [decodeWord_2D _ (congrArg BitVec.toNat (packV_fields _ _ _ _ _ _ _ _).1)]
  simp_all [decode2D, packV_fields, checked]

theorem Encoding.vspill : ∀ d a, Encoding.Statement (.vspill d a) := by
  intro d a h w e
  obtain rfl := Option.some.inj e
  change (true : Bool) = true at h
  rw [decodeWord_2E _ (congrArg BitVec.toNat (packV_fields _ _ _ _ _ _ _ _).1)]
  simp_all [decode2E, packV_fields, checked]

theorem Encoding.vfill : ∀ d a, Encoding.Statement (.vfill d a) := by
  intro d a h w e
  obtain rfl := Option.some.inj e
  change (true : Bool) = true at h
  rw [decodeWord_2E _ (congrArg BitVec.toNat (packV_fields _ _ _ _ _ _ _ _).1)]
  simp_all [decode2E, packV_fields, checked]

theorem Encoding.vxch : ∀ d a b ca mk, Encoding.Statement (.vxch d a b ca mk) := by
  intro d a b ca mk h w e
  obtain rfl := Option.some.inj e
  change (true : Bool) = true at h
  rw [decodeWord_2E _ (congrArg BitVec.toNat (packV_fields _ _ _ _ _ _ _ _).1)]
  simp_all [decode2E, packV_fields, checked]

theorem Encoding.vappend : ∀ a b, Encoding.Statement (.vappend a b) := by
  intro a b h w e
  obtain rfl := Option.some.inj e
  change (fieldLe b 15 : Bool) = true at h
  rw [decodeWord_2E _ (congrArg BitVec.toNat (packV_fields _ _ _ _ _ _ _ _).1)]
  simp_all [decode2E, packV_fields, checked]

theorem Encoding.vld : ∀ d a mk, Encoding.Statement (.vld d a mk) := by
  intro d a mk h w e
  obtain rfl := Option.some.inj e
  change (true : Bool) = true at h
  rw [decodeWord_30 _ (congrArg BitVec.toNat (packV_fields _ _ _ _ _ _ _ _).1)]
  simp_all [decode30, packV_fields, checked]

theorem Encoding.vst : ∀ d a mk, Encoding.Statement (.vst d a mk) := by
  intro d a mk h w e
  obtain rfl := Option.some.inj e
  change (true : Bool) = true at h
  rw [decodeWord_30 _ (congrArg BitVec.toNat (packV_fields _ _ _ _ _ _ _ _).1)]
  simp_all [decode30, packV_fields, checked]

theorem Encoding.vlds : ∀ d a b mk, Encoding.Statement (.vlds d a b mk) := by
  intro d a b mk h w e
  obtain rfl := Option.some.inj e
  change (true : Bool) = true at h
  rw [decodeWord_30 _ (congrArg BitVec.toNat (packV_fields _ _ _ _ _ _ _ _).1)]
  simp_all [decode30, packV_fields, checked]

theorem Encoding.vsts : ∀ d a b mk, Encoding.Statement (.vsts d a b mk) := by
  intro d a b mk h w e
  obtain rfl := Option.some.inj e
  change (true : Bool) = true at h
  rw [decodeWord_30 _ (congrArg BitVec.toNat (packV_fields _ _ _ _ _ _ _ _).1)]
  simp_all [decode30, packV_fields, checked]

theorem Encoding.vldc : ∀ d a, Encoding.Statement (.vldc d a) := by
  intro d a h w e
  obtain rfl := Option.some.inj e
  change (true : Bool) = true at h
  rw [decodeWord_31 _ (congrArg BitVec.toNat (packV_fields _ _ _ _ _ _ _ _).1)]
  simp_all [decode31, packV_fields, checked]

theorem Encoding.vldcf : ∀ d a, Encoding.Statement (.vldcf d a) := by
  intro d a h w e
  obtain rfl := Option.some.inj e
  change (true : Bool) = true at h
  rw [decodeWord_31 _ (congrArg BitVec.toNat (packV_fields _ _ _ _ _ _ _ _).1)]
  simp_all [decode31, packV_fields, checked]

theorem Encoding.vstc : ∀ d a, Encoding.Statement (.vstc d a) := by
  intro d a h w e
  obtain rfl := Option.some.inj e
  change (true : Bool) = true at h
  rw [decodeWord_31 _ (congrArg BitVec.toNat (packV_fields _ _ _ _ _ _ _ _).1)]
  simp_all [decode31, packV_fields, checked]

theorem Encoding.vpref : ∀ a b, Encoding.Statement (.vpref a b) := by
  intro a b h w e
  obtain rfl := Option.some.inj e
  change (true : Bool) = true at h
  rw [decodeWord_31 _ (congrArg BitVec.toNat (packV_fields _ _ _ _ _ _ _ _).1)]
  simp_all [decode31, packV_fields, checked]

theorem Encoding.vgth : ∀ d a b cb mk, Encoding.Statement (.vgth d a b cb mk) := by
  intro d a b cb mk h w e
  obtain rfl := Option.some.inj e
  change (true : Bool) = true at h
  rw [decodeWord_32 _ (congrArg BitVec.toNat (packV_fields _ _ _ _ _ _ _ _).1)]
  simp_all [decode32, packV_fields, checked]

theorem Encoding.vsct : ∀ d a b cb mk, Encoding.Statement (.vsct d a b cb mk) := by
  intro d a b cb mk h w e
  obtain rfl := Option.some.inj e
  change (true : Bool) = true at h
  rw [decodeWord_32 _ (congrArg BitVec.toNat (packV_fields _ _ _ _ _ _ _ _).1)]
  simp_all [decode32, packV_fields, checked]

theorem Encoding.vgl : ∀ d a b cb mk, Encoding.Statement (.vgl d a b cb mk) := by
  intro d a b cb mk h w e
  obtain rfl := Option.some.inj e
  change (true : Bool) = true at h
  rw [decodeWord_32 _ (congrArg BitVec.toNat (packV_fields _ _ _ _ _ _ _ _).1)]
  simp_all [decode32, packV_fields, checked]

theorem Encoding.vsc : ∀ d a b cb, Encoding.Statement (.vsc d a b cb) := by
  intro d a b cb h w e
  obtain rfl := Option.some.inj e
  change (true : Bool) = true at h
  rw [decodeWord_32 _ (congrArg BitVec.toNat (packV_fields _ _ _ _ _ _ _ _).1)]
  simp_all [decode32, packV_fields, checked]

theorem Encoding.vamoadd : ∀ d a b cb mk, Encoding.Statement (.vamoadd d a b cb mk) := by
  intro d a b cb mk h w e
  obtain rfl := Option.some.inj e
  change (true : Bool) = true at h
  rw [decodeWord_33 _ (congrArg BitVec.toNat (packV_fields _ _ _ _ _ _ _ _).1)]
  simp_all [decode33, packV_fields, checked]

theorem Encoding.vamomin : ∀ d a b cb mk, Encoding.Statement (.vamomin d a b cb mk) := by
  intro d a b cb mk h w e
  obtain rfl := Option.some.inj e
  change (true : Bool) = true at h
  rw [decodeWord_33 _ (congrArg BitVec.toNat (packV_fields _ _ _ _ _ _ _ _).1)]
  simp_all [decode33, packV_fields, checked]

theorem Encoding.vamomax : ∀ d a b cb mk, Encoding.Statement (.vamomax d a b cb mk) := by
  intro d a b cb mk h w e
  obtain rfl := Option.some.inj e
  change (true : Bool) = true at h
  rw [decodeWord_33 _ (congrArg BitVec.toNat (packV_fields _ _ _ _ _ _ _ _).1)]
  simp_all [decode33, packV_fields, checked]

theorem Encoding.vamoxch : ∀ d a b cb mk, Encoding.Statement (.vamoxch d a b cb mk) := by
  intro d a b cb mk h w e
  obtain rfl := Option.some.inj e
  change (true : Bool) = true at h
  rw [decodeWord_33 _ (congrArg BitVec.toNat (packV_fields _ _ _ _ _ _ _ _).1)]
  simp_all [decode33, packV_fields, checked]

theorem Encoding.vamoand : ∀ d a b cb mk, Encoding.Statement (.vamoand d a b cb mk) := by
  intro d a b cb mk h w e
  obtain rfl := Option.some.inj e
  change (true : Bool) = true at h
  rw [decodeWord_34 _ (congrArg BitVec.toNat (packV_fields _ _ _ _ _ _ _ _).1)]
  simp_all [decode34, packV_fields, checked]

theorem Encoding.vamoor : ∀ d a b cb mk, Encoding.Statement (.vamoor d a b cb mk) := by
  intro d a b cb mk h w e
  obtain rfl := Option.some.inj e
  change (true : Bool) = true at h
  rw [decodeWord_34 _ (congrArg BitVec.toNat (packV_fields _ _ _ _ _ _ _ _).1)]
  simp_all [decode34, packV_fields, checked]

theorem Encoding.vamoxor : ∀ d a b cb mk, Encoding.Statement (.vamoxor d a b cb mk) := by
  intro d a b cb mk h w e
  obtain rfl := Option.some.inj e
  change (true : Bool) = true at h
  rw [decodeWord_34 _ (congrArg BitVec.toNat (packV_fields _ _ _ _ _ _ _ _).1)]
  simp_all [decode34, packV_fields, checked]

theorem Encoding.vamoo : ∀ d a b cb mk, Encoding.Statement (.vamoo d a b cb mk) := by
  intro d a b cb mk h w e
  obtain rfl := Option.some.inj e
  change (true : Bool) = true at h
  rw [decodeWord_34 _ (congrArg BitVec.toNat (packV_fields _ _ _ _ _ _ _ _).1)]
  simp_all [decode34, packV_fields, checked]

theorem Encoding.cmdb : ∀ d a ca mk, Encoding.Statement (.cmdb d a ca mk) := by
  intro d a ca mk h w e
  obtain rfl := Option.some.inj e
  change (fieldLe d 15 : Bool) = true at h
  rw [decodeWord_35 _ (congrArg BitVec.toNat (packV_fields _ _ _ _ _ _ _ _).1)]
  simp_all [decode35, packV_fields, checked]

theorem Encoding.cwait : ∀ a b, Encoding.Statement (.cwait a b) := by
  intro a b h w e
  obtain rfl := Option.some.inj e
  change (true : Bool) = true at h
  rw [decodeWord_35 _ (congrArg BitVec.toNat (packV_fields _ _ _ _ _ _ _ _).1)]
  simp_all [decode35, packV_fields, checked]

theorem Encoding.ctok : ∀ d a, Encoding.Statement (.ctok d a) := by
  intro d a h w e
  obtain rfl := Option.some.inj e
  change (true : Bool) = true at h
  rw [decodeWord_35 _ (congrArg BitVec.toNat (packV_fields _ _ _ _ _ _ _ _).1)]
  simp_all [decode35, packV_fields, checked]

theorem Encoding.scbq : ∀ d a b, Encoding.Statement (.scbq d a b) := by
  intro d a b h w e
  obtain rfl := Option.some.inj e
  change (true : Bool) = true at h
  rw [decodeWord_35 _ (congrArg BitVec.toNat (packV_fields _ _ _ _ _ _ _ _).1)]
  simp_all [decode35, packV_fields, checked]

theorem Encoding.bar : ∀ n, Encoding.Statement (.bar n) := by
  intro n h w e
  obtain rfl := Option.some.inj e
  change (fieldLe n 63 : Bool) = true at h
  rw [decodeWord_36 _ (congrArg BitVec.toNat (packV_fields _ _ _ _ _ _ _ _).1)]
  simp_all [decode36, packV_fields, checked]

theorem Encoding.bara : ∀ n, Encoding.Statement (.bara n) := by
  intro n h w e
  obtain rfl := Option.some.inj e
  change (fieldLe n 63 : Bool) = true at h
  rw [decodeWord_36 _ (congrArg BitVec.toNat (packV_fields _ _ _ _ _ _ _ _).1)]
  simp_all [decode36, packV_fields, checked]

theorem Encoding.barw : ∀ n, Encoding.Statement (.barw n) := by
  intro n h w e
  obtain rfl := Option.some.inj e
  change (fieldLe n 63 : Bool) = true at h
  rw [decodeWord_36 _ (congrArg BitVec.toNat (packV_fields _ _ _ _ _ _ _ _).1)]
  simp_all [decode36, packV_fields, checked]

theorem Encoding.bari : ∀ n b, Encoding.Statement (.bari n b) := by
  intro n b h w e
  obtain rfl := Option.some.inj e
  change (fieldLe n 63 : Bool) = true at h
  rw [decodeWord_36 _ (congrArg BitVec.toNat (packV_fields _ _ _ _ _ _ _ _).1)]
  simp_all [decode36, packV_fields, checked]

theorem Encoding.acq : ∀ n, Encoding.Statement (.acq n) := by
  intro n h w e
  obtain rfl := Option.some.inj e
  change (fieldLe n 6 : Bool) = true at h
  rw [decodeWord_37 _ (congrArg BitVec.toNat (packV_fields _ _ _ _ _ _ _ _).1)]
  simp_all [decode37, packV_fields, checked]

theorem Encoding.rel : ∀ n, Encoding.Statement (.rel n) := by
  intro n h w e
  obtain rfl := Option.some.inj e
  change (fieldLe n 6 : Bool) = true at h
  rw [decodeWord_37 _ (congrArg BitVec.toNat (packV_fields _ _ _ _ _ _ _ _).1)]
  simp_all [decode37, packV_fields, checked]

theorem Encoding.cflush : ∀ a b, Encoding.Statement (.cflush a b) := by
  intro a b h w e
  obtain rfl := Option.some.inj e
  change (true : Bool) = true at h
  rw [decodeWord_37 _ (congrArg BitVec.toNat (packV_fields _ _ _ _ _ _ _ _).1)]
  simp_all [decode37, packV_fields, checked]

theorem Encoding.cinv : ∀ a b, Encoding.Statement (.cinv a b) := by
  intro a b h w e
  obtain rfl := Option.some.inj e
  change (true : Bool) = true at h
  rw [decodeWord_37 _ (congrArg BitVec.toNat (packV_fields _ _ _ _ _ _ _ _).1)]
  simp_all [decode37, packV_fields, checked]

theorem Encoding.tshape : ∀ d a, Encoding.Statement (.tshape d a) := by
  intro d a h w e
  obtain rfl := Option.some.inj e
  change (true : Bool) = true at h
  rw [decodeWord_38 _ (congrArg BitVec.toNat (packV_fields _ _ _ _ _ _ _ _).1)]
  simp_all [decode38, packV_fields, checked]

theorem Encoding.tzero : ∀ d, Encoding.Statement (.tzero d) := by
  intro d h w e
  obtain rfl := Option.some.inj e
  change (true : Bool) = true at h
  rw [decodeWord_38 _ (congrArg BitVec.toNat (packV_fields _ _ _ _ _ _ _ _).1)]
  simp_all [decode38, packV_fields, checked]

theorem Encoding.tmma : ∀ d a b, Encoding.Statement (.tmma d a b) := by
  intro d a b h w e
  obtain rfl := Option.some.inj e
  change (true : Bool) = true at h
  rw [decodeWord_38 _ (congrArg BitVec.toNat (packV_fields _ _ _ _ _ _ _ _).1)]
  simp_all [decode38, packV_fields, checked]

theorem Encoding.tlru : ∀ d a b ca cb, Encoding.Statement (.tlru d a b ca cb) := by
  intro d a b ca cb h w e
  obtain rfl := Option.some.inj e
  change (true : Bool) = true at h
  rw [decodeWord_38 _ (congrArg BitVec.toNat (packV_fields _ _ _ _ _ _ _ _).1)]
  simp_all [decode38, packV_fields, checked]

theorem Encoding.tmmal : ∀ d a b, Encoding.Statement (.tmmal d a b) := by
  intro d a b h w e
  obtain rfl := Option.some.inj e
  change (true : Bool) = true at h
  rw [decodeWord_39 _ (congrArg BitVec.toNat (packV_fields _ _ _ _ _ _ _ _).1)]
  simp_all [decode39, packV_fields, checked]

theorem Encoding.tadd : ∀ d a, Encoding.Statement (.tadd d a) := by
  intro d a h w e
  obtain rfl := Option.some.inj e
  change (true : Bool) = true at h
  rw [decodeWord_39 _ (congrArg BitVec.toNat (packV_fields _ _ _ _ _ _ _ _).1)]
  simp_all [decode39, packV_fields, checked]

theorem Encoding.trecomp : ∀ d, Encoding.Statement (.trecomp d) := by
  intro d h w e
  obtain rfl := Option.some.inj e
  change (true : Bool) = true at h
  rw [decodeWord_39 _ (congrArg BitVec.toNat (packV_fields _ _ _ _ _ _ _ _).1)]
  simp_all [decode39, packV_fields, checked]

theorem Encoding.tdense : ∀ d a, Encoding.Statement (.tdense d a) := by
  intro d a h w e
  obtain rfl := Option.some.inj e
  change (true : Bool) = true at h
  rw [decodeWord_39 _ (congrArg BitVec.toNat (packV_fields _ _ _ _ _ _ _ _).1)]
  simp_all [decode39, packV_fields, checked]

theorem Encoding.trank : ∀ d a, Encoding.Statement (.trank d a) := by
  intro d a h w e
  obtain rfl := Option.some.inj e
  change (true : Bool) = true at h
  rw [decodeWord_3A _ (congrArg BitVec.toNat (packV_fields _ _ _ _ _ _ _ _).1)]
  simp_all [decode3A, packV_fields, checked]

theorem Encoding.tscale : ∀ a, Encoding.Statement (.tscale a) := by
  intro a h w e
  obtain rfl := Option.some.inj e
  change (true : Bool) = true at h
  rw [decodeWord_3A _ (congrArg BitVec.toNat (packV_fields _ _ _ _ _ _ _ _).1)]
  simp_all [decode3A, packV_fields, checked]

theorem Encoding.tdup : ∀ d a, Encoding.Statement (.tdup d a) := by
  intro d a h w e
  obtain rfl := Option.some.inj e
  change (true : Bool) = true at h
  rw [decodeWord_3A _ (congrArg BitVec.toNat (packV_fields _ _ _ _ _ _ _ _).1)]
  simp_all [decode3A, packV_fields, checked]

theorem Encoding.tcvt : ∀ d a, Encoding.Statement (.tcvt d a) := by
  intro d a h w e
  obtain rfl := Option.some.inj e
  change (true : Bool) = true at h
  rw [decodeWord_3A _ (congrArg BitVec.toNat (packV_fields _ _ _ _ _ _ _ _).1)]
  simp_all [decode3A, packV_fields, checked]

theorem Encoding.ewin : ∀ a b, Encoding.Statement (.ewin a b) := by
  intro a b h w e
  obtain rfl := Option.some.inj e
  change (true : Bool) = true at h
  rw [decodeWord_3C _ (congrArg BitVec.toNat (packV_fields _ _ _ _ _ _ _ _).1)]
  simp_all [decode3C, packV_fields, checked]

theorem Encoding.ersv : ∀ a b ca mk, Encoding.Statement (.ersv a b ca mk) := by
  intro a b ca mk h w e
  obtain rfl := Option.some.inj e
  change (true : Bool) = true at h
  rw [decodeWord_3C _ (congrArg BitVec.toNat (packV_fields _ _ _ _ _ _ _ _).1)]
  simp_all [decode3C, packV_fields, checked]

theorem Encoding.echk : ∀ d a b ca mk, Encoding.Statement (.echk d a b ca mk) := by
  intro d a b ca mk h w e
  obtain rfl := Option.some.inj e
  change (fieldLe d 15 : Bool) = true at h
  rw [decodeWord_3C _ (congrArg BitVec.toNat (packV_fields _ _ _ _ _ _ _ _).1)]
  simp_all [decode3C, packV_fields, checked]

theorem Encoding.eadv : ∀ a b, Encoding.Statement (.eadv a b) := by
  intro a b h w e
  obtain rfl := Option.some.inj e
  change (fieldLe b 15 : Bool) = true at h
  rw [decodeWord_3C _ (congrArg BitVec.toNat (packV_fields _ _ _ _ _ _ _ _).1)]
  simp_all [decode3C, packV_fields, checked]

theorem Encoding.issueSlot : ∀ core ready chain, Encoding.Statement (.issueSlot core ready chain) := by
  intro core ready chain _ w e; exact absurd e (by rintro ⟨⟩)

theorem Encoding.levelBarrierRelease : ∀ launch level group, Encoding.Statement (.levelBarrierRelease launch level group) := by
  intro launch level group _ w e; exact absurd e (by rintro ⟨⟩)

theorem Encoding.copy : ∀ die eng, Encoding.Statement (.copy die eng) := by
  intro die eng _ w e; exact absurd e (by rintro ⟨⟩)

theorem Encoding.fill : ∀ die eng, Encoding.Statement (.fill die eng) := by
  intro die eng _ w e; exact absurd e (by rintro ⟨⟩)

theorem Encoding.scales : ∀ die eng, Encoding.Statement (.scales die eng) := by
  intro die eng _ w e; exact absurd e (by rintro ⟨⟩)

theorem Encoding.convert : ∀ die eng, Encoding.Statement (.convert die eng) := by
  intro die eng _ w e; exact absurd e (by rintro ⟨⟩)

theorem Encoding.hostCopy : ∀ die eng, Encoding.Statement (.hostCopy die eng) := by
  intro die eng _ w e; exact absurd e (by rintro ⟨⟩)

theorem Encoding.exchFill : ∀ die eng, Encoding.Statement (.exchFill die eng) := by
  intro die eng _ w e; exact absurd e (by rintro ⟨⟩)

theorem Encoding.reduce : ∀ stack, Encoding.Statement (.reduce stack) := by
  intro stack _ w e; exact absurd e (by rintro ⟨⟩)

theorem Encoding.search : ∀ stack, Encoding.Statement (.search stack) := by
  intro stack _ w e; exact absurd e (by rintro ⟨⟩)

theorem Encoding.listRequest : ∀ stack ctx node, Encoding.Statement (.listRequest stack ctx node) := by
  intro stack ctx node _ w e; exact absurd e (by rintro ⟨⟩)

theorem Encoding.distanceRequest : ∀ stack ctx node, Encoding.Statement (.distanceRequest stack ctx node) := by
  intro stack ctx node _ w e; exact absurd e (by rintro ⟨⟩)

theorem Encoding.answer : ∀ stack ctx node, Encoding.Statement (.answer stack ctx node) := by
  intro stack ctx node _ w e; exact absurd e (by rintro ⟨⟩)

theorem Encoding.engineCompletion : ∀ cmd, Encoding.Statement (.engineCompletion cmd) := by
  intro cmd _ w e; exact absurd e (by rintro ⟨⟩)

theorem Encoding.orderedAtomicArrival : ∀ n, Encoding.Statement (.orderedAtomicArrival n) := by
  intro n _ w e; exact absurd e (by rintro ⟨⟩)

theorem Encoding.orderedAtomicApply : ∀ die slice id, Encoding.Statement (.orderedAtomicApply die slice id) := by
  intro die slice id _ w e; exact absurd e (by rintro ⟨⟩)

theorem Encoding.dirtyFifoDrain : ∀ core, Encoding.Statement (.dirtyFifoDrain core) := by
  intro core _ w e; exact absurd e (by rintro ⟨⟩)

theorem Encoding.l1Writeback : ∀ line metaLost, Encoding.Statement (.l1Writeback line metaLost) := by
  intro line metaLost _ w e; exact absurd e (by rintro ⟨⟩)

theorem Encoding.relayout : ∀ die slice page chunks part, Encoding.Statement (.relayout die slice page chunks part) := by
  intro die slice page chunks part _ w e; exact absurd e (by rintro ⟨⟩)

theorem Encoding.stalledWriteResume : ∀ die part chunks, Encoding.Statement (.stalledWriteResume die part chunks) := by
  intro die part chunks _ w e; exact absurd e (by rintro ⟨⟩)

theorem Encoding.patrolScrub : ∀ unit failing correctable, Encoding.Statement (.patrolScrub unit failing correctable) := by
  intro unit failing correctable _ w e; exact absurd e (by rintro ⟨⟩)

theorem Encoding.pageMigration : ∀ old new entry part, Encoding.Statement (.pageMigration old new entry part) := by
  intro old new entry part _ w e; exact absurd e (by rintro ⟨⟩)

theorem Encoding.trefiExpiry : ∀ stack pch, Encoding.Statement (.trefiExpiry stack pch) := by
  intro stack pch _ w e; exact absurd e (by rintro ⟨⟩)

theorem Encoding.refresh : ∀ stack pch, Encoding.Statement (.refresh stack pch) := by
  intro stack pch _ w e; exact absurd e (by rintro ⟨⟩)

theorem Encoding.selfRefreshEntry : ∀ stack pch, Encoding.Statement (.selfRefreshEntry stack pch) := by
  intro stack pch _ w e; exact absurd e (by rintro ⟨⟩)

theorem Encoding.selfRefreshExit : ∀ stack pch, Encoding.Statement (.selfRefreshExit stack pch) := by
  intro stack pch _ w e; exact absurd e (by rintro ⟨⟩)

theorem Encoding.pchRetrain : ∀ stack pch on, Encoding.Statement (.pchRetrain stack pch on) := by
  intro stack pch on _ w e; exact absurd e (by rintro ⟨⟩)

theorem Encoding.preemption : ∀ place, Encoding.Statement (.preemption place) := by
  intro place _ w e; exact absurd e (by rintro ⟨⟩)

theorem Encoding.restore : ∀ place, Encoding.Statement (.restore place) := by
  intro place _ w e; exact absurd e (by rintro ⟨⟩)

theorem Encoding.clusterDrain : ∀ die cluster bnf, Encoding.Statement (.clusterDrain die cluster bnf) := by
  intro die cluster bnf _ w e; exact absurd e (by rintro ⟨⟩)

theorem Encoding.clusterRetire : ∀ die cluster target, Encoding.Statement (.clusterRetire die cluster target) := by
  intro die cluster target _ w e; exact absurd e (by rintro ⟨⟩)

theorem Encoding.lgenWrite : ∀ core v, Encoding.Statement (.lgenWrite core v) := by
  intro core v _ w e; exact absurd e (by rintro ⟨⟩)

theorem Encoding.trootWrite : ∀ part v, Encoding.Statement (.trootWrite part v) := by
  intro part v _ w e; exact absurd e (by rintro ⟨⟩)

theorem Encoding.tlbinvAll : ∀ part, Encoding.Statement (.tlbinvAll part) := by
  intro part _ w e; exact absurd e (by rintro ⟨⟩)

theorem Encoding.tlbinvRange : ∀ part v, Encoding.Statement (.tlbinvRange part v) := by
  intro part v _ w e; exact absurd e (by rintro ⟨⟩)

theorem Encoding.gAppend : ∀ part tail, Encoding.Statement (.gAppend part tail) := by
  intro part tail _ w e; exact absurd e (by rintro ⟨⟩)

theorem Encoding.kernel : ∀ part node places tops, Encoding.Statement (.kernel part node places tops) := by
  intro part node places tops _ w e; exact absurd e (by rintro ⟨⟩)

theorem Encoding.copyNode : ∀ part node, Encoding.Statement (.copyNode part node) := by
  intro part node _ w e; exact absurd e (by rintro ⟨⟩)

theorem Encoding.convertNode : ∀ part node, Encoding.Statement (.convertNode part node) := by
  intro part node _ w e; exact absurd e (by rintro ⟨⟩)

theorem Encoding.reduceNode : ∀ part node, Encoding.Statement (.reduceNode part node) := by
  intro part node _ w e; exact absurd e (by rintro ⟨⟩)

theorem Encoding.hostCopyNode : ∀ part node, Encoding.Statement (.hostCopyNode part node) := by
  intro part node _ w e; exact absurd e (by rintro ⟨⟩)

theorem Encoding.searchBatch : ∀ part node, Encoding.Statement (.searchBatch part node) := by
  intro part node _ w e; exact absurd e (by rintro ⟨⟩)

theorem Encoding.compress : ∀ part node, Encoding.Statement (.compress part node) := by
  intro part node _ w e; exact absurd e (by rintro ⟨⟩)

theorem Encoding.decompress : ∀ part node, Encoding.Statement (.decompress part node) := by
  intro part node _ w e; exact absurd e (by rintro ⟨⟩)

theorem Encoding.signal : ∀ part node, Encoding.Statement (.signal part node) := by
  intro part node _ w e; exact absurd e (by rintro ⟨⟩)

theorem Encoding.wait : ∀ part node, Encoding.Statement (.wait part node) := by
  intro part node _ w e; exact absurd e (by rintro ⟨⟩)

theorem Encoding.join : ∀ part node, Encoding.Statement (.join part node) := by
  intro part node _ w e; exact absurd e (by rintro ⟨⟩)

theorem Encoding.nodeEnd : ∀ part node, Encoding.Statement (.nodeEnd part node) := by
  intro part node _ w e; exact absurd e (by rintro ⟨⟩)

theorem Encoding.hostWrite : ∀ part addr data, Encoding.Statement (.hostWrite part addr data) := by
  intro part addr data _ w e; exact absurd e (by rintro ⟨⟩)

theorem Encoding.fabricRequest : ∀ part addr op data, Encoding.Statement (.fabricRequest part addr op data) := by
  intro part addr op data _ w e; exact absurd e (by rintro ⟨⟩)

theorem Encoding.flit : ∀ link data, Encoding.Statement (.flit link data) := by
  intro link data _ w e; exact absurd e (by rintro ⟨⟩)

theorem Encoding.flitReplay : ∀ link seq, Encoding.Statement (.flitReplay link seq) := by
  intro link seq _ w e; exact absurd e (by rintro ⟨⟩)

theorem Encoding.heartbeat : ∀ link, Encoding.Statement (.heartbeat link) := by
  intro link _ w e; exact absurd e (by rintro ⟨⟩)

theorem Encoding.heartbeatTimeout : ∀ dev, Encoding.Statement (.heartbeatTimeout dev) := by
  intro dev _ w e; exact absurd e (by rintro ⟨⟩)

theorem Encoding.fatalErrorFlit : ∀ dev, Encoding.Statement (.fatalErrorFlit dev) := by
  intro dev _ w e; exact absurd e (by rintro ⟨⟩)

theorem Encoding.devFail : ∀ dev, Encoding.Statement (.devFail dev) := by
  intro dev _ w e; exact absurd e (by rintro ⟨⟩)

theorem Encoding.linkRecalibration : ∀ link lane, Encoding.Statement (.linkRecalibration link lane) := by
  intro link lane _ w e; exact absurd e (by rintro ⟨⟩)

theorem Encoding.create : ∀ part, Encoding.Statement (.create part) := by
  intro part _ w e; exact absurd e (by rintro ⟨⟩)

theorem Encoding.resize : ∀ part, Encoding.Statement (.resize part) := by
  intro part _ w e; exact absurd e (by rintro ⟨⟩)

theorem Encoding.destroy : ∀ part, Encoding.Statement (.destroy part) := by
  intro part _ w e; exact absurd e (by rintro ⟨⟩)

theorem Encoding.release : ∀ part, Encoding.Statement (.release part) := by
  intro part _ w e; exact absurd e (by rintro ⟨⟩)

theorem Encoding.resumeStrand : ∀ part seq, Encoding.Statement (.resumeStrand part seq) := by
  intro part seq _ w e; exact absurd e (by rintro ⟨⟩)

theorem Encoding.kill : ∀ part seq, Encoding.Statement (.kill part seq) := by
  intro part seq _ w e; exact absurd e (by rintro ⟨⟩)

theorem Encoding.fwLoad : ∀ comp, Encoding.Statement (.fwLoad comp) := by
  intro comp _ w e; exact absurd e (by rintro ⟨⟩)

theorem Encoding.fwSwitch : ∀ comp starts, Encoding.Statement (.fwSwitch comp starts) := by
  intro comp starts _ w e; exact absurd e (by rintro ⟨⟩)

theorem Encoding.chrExp : Encoding.Statement .chrExp := by
  intro _ w e; exact absurd e (by rintro ⟨⟩)

theorem Encoding.getCertificate : ∀ fn, Encoding.Statement (.getCertificate fn) := by
  intro fn _ w e; exact absurd e (by rintro ⟨⟩)

theorem Encoding.challenge : ∀ fn nonce, Encoding.Statement (.challenge fn nonce) := by
  intro fn nonce _ w e; exact absurd e (by rintro ⟨⟩)

theorem Encoding.getMeasurements : ∀ fn, Encoding.Statement (.getMeasurements fn) := by
  intro fn _ w e; exact absurd e (by rintro ⟨⟩)

theorem Encoding.srtBaseWrite : ∀ stack v, Encoding.Statement (.srtBaseWrite stack v) := by
  intro stack v _ w e; exact absurd e (by rintro ⟨⟩)

theorem Encoding.debugRead : ∀ part addr len, Encoding.Statement (.debugRead part addr len) := by
  intro part addr len _ w e; exact absurd e (by rintro ⟨⟩)

theorem Encoding.registerWrite : ∀ addr v, Encoding.Statement (.registerWrite addr v) := by
  intro addr v _ w e; exact absurd e (by rintro ⟨⟩)

theorem Encoding.thermalThrottle : Encoding.Statement .thermalThrottle := by
  intro _ w e; exact absurd e (by rintro ⟨⟩)

theorem Encoding.fatalShutdown : Encoding.Statement .fatalShutdown := by
  intro _ w e; exact absurd e (by rintro ⟨⟩)

theorem Encoding.powerUp : Encoding.Statement .powerUp := by
  intro _ w e; exact absurd e (by rintro ⟨⟩)

theorem Encoding.coldReset : Encoding.Statement .coldReset := by
  intro _ w e; exact absurd e (by rintro ⟨⟩)

theorem Encoding.warmReset : Encoding.Statement .warmReset := by
  intro _ w e; exact absurd e (by rintro ⟨⟩)

theorem Encoding.fqHeadWrite : ∀ part v, Encoding.Statement (.fqHeadWrite part v) := by
  intro part v _ w e; exact absurd e (by rintro ⟨⟩)

theorem Encoding.hostRead : ∀ part addr len, Encoding.Statement (.hostRead part addr len) := by
  intro part addr len _ w e; exact absurd e (by rintro ⟨⟩)

theorem Encoding.pcieCompletion : ∀ cmd, Encoding.Statement (.pcieCompletion cmd) := by
  intro cmd _ w e; exact absurd e (by rintro ⟨⟩)

theorem Encoding.hot : ∀ stack on, Encoding.Statement (.hot stack on) := by
  intro stack on _ w e; exact absurd e (by rintro ⟨⟩)

theorem Encoding.cont : Encoding.Statement .cont := by
  intro _ w e; exact absurd e (by rintro ⟨⟩)

theorem Encoding.killedByTheHost : ∀ part node, Encoding.Statement (.killedByTheHost part node) := by
  intro part node _ w e; exact absurd e (by rintro ⟨⟩)

end Sys2Proof.Laws
end

