-- ==== Sys2Proof/Tests/Slice0.lean ====
section
/-! SUPPORT. Tests: terms that the range checks refuse, words written out from the spec's encodings, single steps with results worked out from the
rules, and for every statement with hypotheses a concrete state and operands that meet them. -/

open Sys2Proof Sys2Proof.Machine Sys2Proof.Claims

set_option Elab.async false

namespace Sys2Proof.Tests

/-! ## Ill-formed terms: one at least for each check, just outside its range -/

/-- No term of the list is well-formed. -/
def ill (l : List Instr) : Bool := l.all fun i => !i.wf

theorem illFormed_mask : ill [.vcmpeq 16 0 0 false false false, .vcmplt 16 0 0 false false false, .vcmple 16 0 0 false false false,
    .vcmpne 16 0 0 false false false, .vcomp 0 0 16 false, .vexpd 0 0 16 false, .kand 16 15 15, .kand 15 16 15, .kand 15 15 16, .kor 16 0 0, .kor 0 16 0,
    .kor 0 0 16, .kxor 16 0 0, .kxor 0 16 0, .kxor 0 0 16, .knot 16 0, .knot 0 16, .kcnt 0 16, .kfirst 0 16, .vappend 0 16, .cmdb 16 0 false false,
    .echk 16 0 0 false false, .eadv 0 16, .setmask 16] = true := by decide
theorem illFormed_scope : ill [.ldab 0 0 7 0, .ldah 0 0 7 0, .ldaw 0 0 7 0, .ldad 0 0 7 0, .stlb 0 0 7 0, .stlh 0 0 7 0, .stlw 0 0 7 0, .stld 0 0 7 0,
    .fence 7, .acq 7, .rel 7] = true := by decide
theorem illFormed_literal : ill [.winb 15, .addrc 0 0 7, .vcode 0 8, .bar 64, .bara 64, .barw 64, .bari 64 0] = true := by decide
theorem illFormed_core : ill [.issueSlot 256 0 none, .issueSlot 255 0 (some 4), .dirtyFifoDrain 256, .lgenWrite 256 0, .levelBarrierRelease 0 8 0] = true := by
  decide
theorem illFormed_engine : ill [.copy 4 0, .copy 0 4, .fill 4 0, .fill 0 4, .scales 4 0, .scales 0 4, .convert 4 0, .convert 0 4, .hostCopy 4 0,
    .hostCopy 0 4, .exchFill 4 0, .exchFill 0 4, .reduce 8, .search 8, .listRequest 8 0 0, .listRequest 7 64 0, .distanceRequest 8 0 0, .distanceRequest 7 64 0,
    .answer 8 0 0, .answer 7 64 0] = true := by decide
theorem illFormed_slice : ill [.orderedAtomicApply 4 0 0, .orderedAtomicApply 3 32 0, .orderedAtomicApply 3 31 256, .relayout 4 0 0 0 0, .relayout 3 32 0 0 0,
    .relayout 3 31 0 0 32, .stalledWriteResume 4 0 0, .stalledWriteResume 3 32 0, .pageMigration 0 0 0 32] = true := by decide
theorem illFormed_stack : ill [.trefiExpiry 8 0, .trefiExpiry 7 128, .refresh 8 0, .refresh 7 128, .selfRefreshEntry 8 0, .selfRefreshEntry 7 128,
    .selfRefreshExit 8 0, .selfRefreshExit 7 128, .pchRetrain 8 0 true, .pchRetrain 7 128 true, .srtBaseWrite 8 0, .hot 8 true] = true := by decide
theorem illFormed_place : ill [.preemption 1024, .restore 1024, .clusterDrain 4 0 true, .clusterDrain 3 8 true, .clusterRetire 4 0 none, .clusterRetire 3 8 none,
    .clusterRetire 3 7 (some 32)] = true := by decide
theorem illFormed_partition : ill [.trootWrite 32 0, .tlbinvAll 32, .tlbinvRange 32 0, .gAppend 32 0, .kernel 32 0 [] [], .copyNode 32 0, .convertNode 32 0,
    .reduceNode 32 0, .hostCopyNode 32 0, .searchBatch 32 0, .compress 32 0, .decompress 32 0, .signal 32 0, .wait 32 0, .join 32 0, .nodeEnd 32 0, .create 32,
    .resize 32, .destroy 32, .release 32, .resumeStrand 32 0, .kill 32 0, .killedByTheHost 32 0] = true := by decide
theorem illFormed_host : ill [.hostWrite 33 0 [], .hostRead 33 0 0, .fqHeadWrite 33 0, .fabricRequest 32 0 0 [], .fabricRequest 31 0 14 [], .getCertificate 33,
    .challenge 33 [], .getMeasurements 33, .debugRead 33 0 0, .debugRead 192 0 0, .fwLoad 0, .fwLoad 5, .fwSwitch 0 true, .fwSwitch 5 true] = true := by decide
theorem illFormed_link : ill [.flit 16 (List.replicate 256 0), .flit 15 (List.replicate 255 0), .flitReplay 16 0, .heartbeat 16, .linkRecalibration 16 none,
    .linkRecalibration 15 (some 8), .heartbeatTimeout 16384, .fatalErrorFlit 16384, .devFail 16384] = true := by decide +kernel

/-! ## Words: every encoded instruction once, its fixed bits and fields written from the encoding tables of the spec (R67 to R74) -/

/-- Every word of the list decodes to the instruction beside it. -/
def decodes (l : List (BitVec 32 × Instr)) : Bool := l.all fun p => decide (decodeWord p.1 = .ok p.2)
/-- No word of the list encodes an instruction. -/
def refused (l : List (BitVec 32)) : Bool := l.all fun w => match decodeWord w with | .ok _ => false | .error _ => true

theorem test_words_arithmetic : decodes [
    (0x06B29E60, .add 86 41 115), (0x06B29E61, .sub 86 41 115), (0x06B29E62, .and 86 41 115), (0x06B29E63, .or 86 41 115),
    (0x06B29E64, .xor 86 41 115), (0x06B29E65, .andn 86 41 115), (0x06B29E66, .orn 86 41 115), (0x06B29E67, .xnor 86 41 115),
    (0x06B29E68, .sll 86 41 115), (0x06B29E69, .srl 86 41 115), (0x06B29E6A, .sra 86 41 115), (0x06B29E6B, .rol 86 41 115),
    (0x06B29E6C, .ror 86 41 115), (0x06B29E6D, .slt 86 41 115), (0x06B29E6E, .sltu 86 41 115), (0x06B29E6F, .seq 86 41 115),
    (0x06B29E70, .sne 86 41 115), (0x06B29E71, .min 86 41 115), (0x06B29E72, .max 86 41 115), (0x06B29E73, .minu 86 41 115),
    (0x06B29E74, .maxu 86 41 115), (0x0AB29E60, .mul 86 41 115), (0x0AB29E61, .mulh 86 41 115), (0x0AB29E62, .mulhu 86 41 115),
    (0x0AB29E63, .mulhsu 86 41 115), (0x0AB29E64, .div 86 41 115), (0x0AB29E65, .divu 86 41 115), (0x0AB29E66, .rem 86 41 115),
    (0x0AB29E67, .remu 86 41 115), (0x0EB29000, .clz 86 41), (0x0EB29001, .ctz 86 41), (0x0EB29002, .popc 86 41), (0x0EB29003, .brev 86 41),
    (0x0EB29004, .bswap 86 41), (0x0EB29005, .sextb 86 41), (0x0EB29006, .sexth 86 41), (0x0EB29007, .sextw 86 41)] = true := by decide
theorem test_words_immediates : decodes [
    (0x12B29A53, .addi 86 41 2643), (0x16B29A53, .andi 86 41 2643), (0x1AB29A53, .ori 86 41 2643), (0x1EB29A53, .xori 86 41 2643),
    (0x22B29A53, .slti 86 41 2643), (0x26B29A53, .sltui 86 41 2643), (0x2AB2902D, .slli 86 41 45), (0x2AB2942D, .srli 86 41 45),
    (0x2AB2982D, .srai 86 41 45), (0x2AB29C2D, .rori 86 41 45), (0x2EB5A3C7, .lih 86 369607), (0x32B5A3C7, .pcadd 86 369607)] = true := by decide
theorem test_words_scalarMemory : decodes [
    (0x36B29155, .ldb 86 41 341), (0x36B29355, .ldh 86 41 341), (0x36B29555, .ldw 86 41 341), (0x36B29755, .ldd 86 41 341),
    (0x36B29955, .ldbu 86 41 341), (0x36B29B55, .ldhu 86 41 341), (0x36B29D55, .ldwu 86 41 341), (0x3B9A9155, .stb 115 41 341),
    (0x3B9A9355, .sth 115 41 341), (0x3B9A9555, .stw 115 41 341), (0x3B9A9755, .std 115 41 341), (0x3EB290ED, .ldab 86 41 3 45),
    (0x3EB292ED, .ldah 86 41 3 45), (0x3EB294ED, .ldaw 86 41 3 45), (0x3EB296ED, .ldad 86 41 3 45), (0x3F9A98ED, .stlb 115 41 3 45),
    (0x3F9A9AED, .stlh 115 41 3 45), (0x3F9A9CED, .stlw 115 41 3 45), (0x3F9A9EED, .stld 115 41 3 45)] = true := by decide
theorem test_words_atomics : decodes [
    (0x42B29E60, .amoadd 86 41 115), (0x42B29E61, .amoand 86 41 115), (0x42B29E62, .amoor 86 41 115), (0x42B29E63, .amoxor 86 41 115),
    (0x42B29E64, .amomin 86 41 115), (0x42B29E65, .amomax 86 41 115), (0x42B29E66, .amominu 86 41 115), (0x42B29E67, .amomaxu 86 41 115),
    (0x42B29E68, .amoswap 86 41 115), (0x42B29E69, .amocas 86 41 115), (0x42B29E6A, .amofadd32 86 41 115), (0x42B29E6B, .amofadd64 86 41 115),
    (0x42B29E70, .amoaddO 86 41 115), (0x42B29E71, .amoandO 86 41 115), (0x42B29E72, .amoorO 86 41 115), (0x42B29E73, .amoxorO 86 41 115),
    (0x42B29E74, .amominO 86 41 115), (0x42B29E75, .amomaxO 86 41 115), (0x42B29E76, .amominuO 86 41 115), (0x42B29E77, .amomaxuO 86 41 115),
    (0x42B29E78, .amoswapO 86 41 115), (0x42B29E79, .amocasO 86 41 115), (0x42B29E7A, .amofadd32O 86 41 115),
    (0x42B29E7B, .amofadd64O 86 41 115)] = true := by decide
theorem test_words_control : decodes [
    (0x454F3A53, .beq 41 115 2643), (0x494F3A53, .bne 41 115 2643), (0x4D4F3A53, .blt 41 115 2643), (0x514F3A53, .bge 41 115 2643),
    (0x554F3A53, .bltu 41 115 2643), (0x594F3A53, .bgeu 41 115 2643), (0x5C000A53, .loopr 2643), (0x62D3A5C9, .j 47424969),
    (0x66D3A5C9, .call 47424969), (0x6AB29A53, .jr 86 41 2643), (0x6C000BA0, .trap 93), (0x6C000001, .tret), (0x6C029002, .exit 41),
    (0x6C006003, .fence 6), (0x6C00B004, .winb 11), (0x6EB00005, .rcpt 86), (0x6EB290A6, .addrc 86 41 5), (0x6C000007, .nop),
    (0x72B00A53, .crd 86 2643), (0x74029A53, .cwr 41 2643), (0x78029A53, .cset 41 2643), (0x7C029A53, .cclr 41 2643)] = true := by decide
theorem test_words_vectorTwoSource : decodes [
    (0x82B29E74, .vadd 86 41 115 true false true), (0x82B29E75, .vsub 86 41 115 true false true), (0x82B29E76, .vmul 86 41 115 true false true),
    (0x82B29E77, .vdiv 86 41 115 true false true), (0x86B29E74, .vfma 86 41 115 true false true), (0x86B29E75, .vfms 86 41 115 true false true),
    (0x86B29E76, .vfnma 86 41 115 true false true), (0x86B29E77, .vfnms 86 41 115 true false true)] = true := by decide
theorem test_words_vectorMore : decodes [
    (0x8AB29E74, .vmin 86 41 115 true false true), (0x8AB29E75, .vmax 86 41 115 true false true), (0x8AB29016, .vabs 86 41 true true),
    (0x8AB29017, .vneg 86 41 true true), (0x8EB29014, .vsqrt 86 41 true true), (0x8EB29034, .vrsqrt 86 41 true true),
    (0x8EB29015, .vrecip 86 41 true true), (0x8EB29016, .vexp2 86 41 true true), (0x8EB29017, .vlog2 86 41 true true),
    (0x92B29E74, .vand 86 41 115 true false true), (0x92B29E75, .vor 86 41 115 true false true), (0x92B29E76, .vxor 86 41 115 true false true),
    (0x92B29E77, .vshift 86 41 115 true false true), (0x946A9E74, .vcmpeq 13 41 115 true false true),
    (0x946A9E75, .vcmplt 13 41 115 true false true), (0x946A9E76, .vcmple 13 41 115 true false true),
    (0x946A9E77, .vcmpne 13 41 115 true false true)] = true := by decide
theorem test_words_vectorMoves : decodes [
    (0x9AB29E74, .vsel 86 41 115 true false), (0x9AB29015, .vcvt 86 41 true true), (0x9AB06002, .vcode 86 6),
    (0x9AB29E67, .vbcast 86 41 115 true), (0x9EB29014, .vredsum 86 41 true true), (0x9EB29015, .vredmax 86 41 true true),
    (0x9EB29016, .vredmin 86 41 true true), (0x9EB29017, .vscan 86 41 true true), (0xA2B29E74, .vgathr 86 41 115 true false true),
    (0xA2B29E75, .vslide 86 41 115 true true), (0xA2B29172, .vcomp 86 41 11 true), (0xA2B29173, .vexpd 86 41 11 true),
    (0xA6B29004, .vid 86 41 true), (0xA6B29005, .vrand 86 41 true), (0xA6B29012, .voffs 86 41 true), (0xA6B29013, .vlens 86 41 true),
    (0xAAB29E74, .vadds 86 41 115 true true), (0xAAB29E75, .vmuls 86 41 115 true true), (0xAAB29E76, .vshls 86 41 115 true true),
    (0xAAB29E77, .vshrs 86 41 115 true true)] = true := by decide
theorem test_words_masksAndState : decodes [
    (0xAEB29E74, .vands 86 41 115 true true), (0xAEB29E75, .vfmas 86 41 115 true true), (0xAEB29E76, .vmaxs 86 41 115 true true),
    (0xAEB29E77, .vmins 86 41 115 true true), (0xB0686160, .kand 13 6 11), (0xB0686161, .kor 13 6 11), (0xB0686162, .kxor 13 6 11),
    (0xB2B06003, .kcnt 86 6), (0xB0686023, .knot 13 6), (0xB2B06043, .kfirst 86 6), (0xB6B29E60, .setvl 86 41 115), (0xB6B00001, .getvl 86),
    (0xB6B00002, .vframe 86), (0xB4009003, .setmask 9), (0xBAB29000, .vspill 86 41), (0xBAB29001, .vfill 86 41),
    (0xBAB29E76, .vxch 86 41 115 true true), (0xB8029163, .vappend 41 11)] = true := by decide
theorem test_words_vectorMemory : decodes [
    (0xC2B29004, .vld 86 41 true), (0xC2B29005, .vst 86 41 true), (0xC2B29E66, .vlds 86 41 115 true), (0xC2B29E67, .vsts 86 41 115 true),
    (0xC6B29000, .vldc 86 41), (0xC6B29001, .vldcf 86 41), (0xC6B29002, .vstc 86 41), (0xC4029E63, .vpref 41 115),
    (0xCAB29E64, .vgth 86 41 115 false true), (0xCAB29E65, .vsct 86 41 115 false true), (0xCAB29E66, .vgl 86 41 115 false true),
    (0xCAB29E67, .vsc 86 41 115 false), (0xCEB29E64, .vamoadd 86 41 115 false true), (0xCEB29E65, .vamomin 86 41 115 false true),
    (0xCEB29E66, .vamomax 86 41 115 false true), (0xCEB29E67, .vamoxch 86 41 115 false true)] = true := by decide
theorem test_words_commandsAndBarriers : decodes [
    (0xD2B29E64, .vamoand 86 41 115 false true), (0xD2B29E65, .vamoor 86 41 115 false true), (0xD2B29E66, .vamoxor 86 41 115 false true),
    (0xD2B29E67, .vamoo 86 41 115 false true), (0xD46A9014, .cmdb 13 41 true true), (0xD4029E61, .cwait 41 115), (0xD6B29002, .ctok 86 41),
    (0xD6B29E63, .scbq 86 41 115), (0xD8025000, .bar 37), (0xD8025001, .bara 37), (0xD8025002, .barw 37), (0xD8025E63, .bari 37 115),
    (0xDC005000, .acq 5), (0xDC004001, .rel 4), (0xDC029E62, .cflush 41 115), (0xDC029E63, .cinv 41 115)] = true := by decide
theorem test_words_tiles : decodes [
    (0xE2B29000, .tshape 86 41), (0xE2B00001, .tzero 86), (0xE2B29E62, .tmma 86 41 115), (0xE2B29E73, .tlru 86 41 115 true false),
    (0xE6B29E60, .tmmal 86 41 115), (0xE6B29001, .tadd 86 41), (0xE6B00002, .trecomp 86), (0xE6B29003, .tdense 86 41),
    (0xEAB29000, .trank 86 41), (0xE8029001, .tscale 41), (0xEAB29002, .tdup 86 41), (0xEAB29003, .tcvt 86 41)] = true := by decide
theorem test_words_escrow : decodes [
    (0xF0029E60, .ewin 41 115), (0xF0029E75, .ersv 41 115 true true), (0xF06A9E76, .echk 13 41 115 true true), (0xF0029163, .eadv 41 11)] = true := by decide

/-- Words that the encoding tables leave undefined: a mask field above k15, bits that must be zero, an undefined mk, a selector or a major without a row
(R63, R70, R74, R76). -/
theorem test_words_illegal : refused [0x00000000, 0xFFFFFFFF, 0x04000015, 0x08000008, 0x0C000008, 0x0C60D020, 0x28000040, 0x34A02FFD, 0x40A152DC, 0x98301040,
    0xD8040001, 0xD8005005, 0xA0301046, 0xC4414004, 0xF0014203, 0x6C007803, 0xEC000000, 0xF4000000] = true := by decide
/-- Worked words of the spec beside those of the statement WorkedWords. -/
theorem test_words_worked : decodes [(0x042050C0, .add 4 5 6), (0x0C60D000, .clz 12 13), (0x40A152C9, .amocas 20 21 22), (0x5C000FFC, .loopr 0xFFC),
    (0x68001000, .jr 0 1 0), (0x6C004003, .fence 4), (0x6C003004, .winb 3), (0x6C600005, .rcpt 12), (0x7400C002, .cwr 12 2), (0x48280FFD, .bne 5 0 0xFFD),
    (0x80181032, .vmul 3 1 1 true false false), (0x80181022, .vmul 3 1 1 false false false), (0x98301044, .vsel 6 1 2 false false), (0xD8005001, .bara 5),
    (0xC0817001, .vst 16 23 false), (0x6C000007, .nop)] = true := by decide

/-! ## Small states -/

/-- The acting strand of a minimal launch stands ready at 0x100000, on a page it may read, write and execute. -/
def base : State := State.reset.minimalLaunch

/-- A register set in the acting strand, its control registers changed, a word of memory written. -/
def withReg (s : State) (f : BitVec 7) (v : Word) : State := s.mapStrand (·.setReg f (.of v))
def withCtl (s : State) (f : Ctl → Ctl) : State := s.mapStrand fun t => { t with ctl := f t.ctl }
def put8 (s : State) (a v : Nat) : State := { s with mem := Mem.writeLE s.mem a 8 v }
def put4 (s : State) (a v : Nat) : State := { s with mem := Mem.writeLE s.mem a 4 v }

/-- s2 points into the mapped page, s3 past its first word, s4 = 5 and s5 = 7 are data; the page holds a word of data at 0x100040. -/
def pointed : State := put8 (withReg (withReg (withReg (withReg base 2 0x100040) 3 0x100041) 4 5) 5 7) 0x100040 0x8877665544332281

/-- A D context under the trap policy whose s4 is tarnished. -/
def strict : State := pointed.mapStrand fun t =>
  { t.setReg 4 { val := 5, tarn := true } with st := { t.st with d := true }, trapPolicy := true }

/-- A handler at 0x100080. -/
def handled (s : State) : State := withCtl s fun c => { c with tvec := .of 0x100080 }

/-- The result satisfies a test. -/
def runs {ε σ α : Type} (r : EStateM.Result ε σ α) (k : α → σ → Bool) : Bool := match r with | .ok a s => k a s | .error _ _ => false
theorem runs_iff {ε σ α : Type} {r : EStateM.Result ε σ α} {k : α → σ → Bool} (h : runs r k = true) : ∃ a t, r = .ok a t ∧ k a t = true := by
  cases r with
  | ok a t => exact ⟨a, t, rfl, h⟩
  | error e t => exact absurd h (by simp [runs])

/-- An access goes through, and what it leaves satisfies a test. -/
def passed (s : State) (o : Acc) (va : Word) (z : Nat) (k : State → Xl → Bool) : Bool :=
  decide (va.toNat % z = 0) && match s.check s.strand o va.toNat z with
    | (s1, .ok x) => !s1.blocked s1.strand x.key z && !s1.drainWaits s1.strand o x && (!o.assay || !s.noTagRoom s.strand x.key) && (s1.badWord o.mode x.key z).isNone && k s1 x
    | _ => false
theorem passed_iff {s : State} {o : Acc} {va : Word} {z : Nat} {k : State → Xl → Bool} (h : passed s o va z k = true) :
    ∃ s1 x, Passes s o va z s1 x ∧ k s1 x = true := by
  unfold passed at h
  split at h
  · rename_i s1 x hc
    simp only [Bool.and_eq_true, decide_eq_true_eq, Bool.not_eq_true', Option.isNone_iff_eq_none] at h
    refine ⟨s1, x, ⟨h.1, hc, h.2.1.1.1.1, h.2.1.1.1.2, fun ha => ?_, h.2.1.2⟩, h.2.2⟩
    simpa [ha] using h.2.1.1.2
  · simp at h

/-- The next state of an outcome satisfies a test. -/
def after (r : Result) (k : State → Bool) : Bool := match r with | .next t => k t | _ => false

/-- Witness of a state that can act, and whose fetch satisfies a test. -/
def fetches (s : State) (k : State → BitVec 32 → Bool) : Bool := match s.fetch with | (s1, .ok w) => k s1 w | _ => false
theorem fetches_iff {s : State} {k : State → BitVec 32 → Bool} (h : fetches s k = true) : ∃ s1 w, s.fetch = (s1, .ok w) ∧ k s1 w = true := by
  unfold fetches at h
  split at h
  · rename_i s1 w hc; exact ⟨s1, w, hc, h⟩
  · simp at h

/-! ## Single steps -/

/-- The whole step runs the word that `withFetchWord` places (R60, R130). -/
theorem test_step_nop : after (step (State.reset.withFetchWord 32 0x6C000007)) (fun t => t.strand.pc == 0x100004) = true := by decide +kernel
/-- SUB wraps (R102): 5 - 7 = 2^64 - 2. -/
theorem test_sub_wraps : after (exec (.sub 6 4 5) pointed) (fun t => t.strand.reg 6 == .of 0xFFFFFFFFFFFFFFFE) = true := by decide +kernel
/-- A source that is also the destination is read first (R122): JR s2, s2 jumps to the old s2. -/
theorem test_jr_same : after (exec (.jr 2 2 0) pointed) (fun t => t.strand.pc == 0x100040 && t.strand.reg 2 == .of 0x100004) = true := by decide +kernel
/-- DIV of the most negative number by -1 (R103): the result is 2^63, and only FLAGS[2] rises. -/
theorem test_div_overflow : after (exec (.div 6 7 8) (withReg (withReg base 7 0x8000000000000000) 8 0xFFFFFFFFFFFFFFFF)) (fun t =>
    t.strand.reg 6 == .of 0x8000000000000000 && t.strand.ctl.flags == .of 4) = true := by decide +kernel
/-- LDB sign-extends, LDBU does not (R109). -/
theorem test_ldb : after (exec (.ldb 6 2 0) pointed) (fun t => t.strand.reg 6 == .of 0xFFFFFFFFFFFFFF81) = true := by decide +kernel
theorem test_ldbu : after (exec (.ldbu 6 2 7) pointed) (fun t => t.strand.reg 6 == .of 0x88) = true := by decide +kernel
/-- STH at a negative offset stores two bytes, the low one first (R110). -/
theorem test_sth : after (exec (.sth 4 2 0x1FF) (withReg pointed 4 0xABCD)) (fun t =>
    Mem.bytes t.mem 0x10003D 4 == [0, 0xCD, 0xAB, 0x81]) = true := by decide +kernel
/-- AMOCAS compares with s[d], writes s[b] and returns the old value, tarnished (R115, R116). -/
theorem test_amocas : after (exec (.amocas 6 2 5) (withReg pointed 6 0x8877665544332281)) (fun t =>
    Mem.readLE t.mem 0x100040 8 == 7 && t.strand.reg 6 == { val := 0x8877665544332281, tarn := true }) = true := by decide +kernel
/-- An address of 2^52 does not translate (R108): PAGE_FAULT with SUB 7, and without a handler the strand suspends. -/
theorem test_load_beyond : after (exec (.ldd 6 6 0) (withReg base 6 0x10000000000000)) (fun t =>
    t.strand.isSuspended && t.strand.pc == 0x100000) = true := by decide +kernel
/-- TRAP 5 enters the handler with TPC the next word and SUB 5 (R124, R138). -/
theorem test_trap : after (exec (.trap 5) (handled base)) (fun t =>
    t.strand.pc == 0x100080 && t.strand.ctl.tpc.val == 0x100004 && t.strand.ctl.tcause.val == 0x50006 && t.strand.st.tr) = true := by decide +kernel

/-! ## Witnesses: for every statement with hypotheses, states and operands that meet them, clause by clause -/

theorem witness_DecodeOfEncode : (Instr.kand 15 15 15).wf = true ∧ encode (.kand 15 15 15) ≠ none ∧ (Instr.ldad 127 127 6 63).wf = true ∧
    encode (.ldad 127 127 6 63) ≠ none := by decide +kernel
theorem witness_EncodeOfDecode : decodeWord 0x042050C0 = .ok (.add 4 5 6) ∧ decodeWord 0xFFFFFFFF ≠ .ok .nop := by decide +kernel

/-- The word that a state's fetch finds is NOP. -/
def nopNext : State := put4 base 0x100000 0x6C000007
theorem witness_StepRunsDecoded : (Runs nopNext ∧ ∃ s1 w, (turn nopNext).fetch = (s1, .ok w) ∧ decodeWord w = .ok .nop) ∧
    ({ base with agenda := [.thermalThrottle] } : State).agenda = .thermalThrottle :: [] := by
  refine ⟨⟨by unfold Runs; decide +kernel, ?_⟩, rfl⟩
  obtain ⟨s1, w, h, hk⟩ := fetches_iff (s := turn nopNext) (k := fun _ w => w == 0x6C000007) (by decide +kernel)
  exact ⟨s1, w, h, by rw [eq_of_beq hk]; decide⟩
theorem witness_FetchReadsTheWord : (base.strand.pc.extractLsb' 0 2 = 0 ∧
      (∃ s1 x, base.check base.strand { mode := .fetch, kind := .plain, target := .any, assay := false, poison := true, seen := [] } base.strand.pc.toNat 4 = (s1, .ok x) ∧
        s1.oldCode = [] ∧ (s1.core (coreOf base.strand.place)).fifo = [])) ∧
    (base.mapStrand (·.jump 0x100003)).strand.pc.extractLsb' 0 2 ≠ 0 := by
  refine ⟨⟨by decide +kernel, ?_⟩, by decide +kernel⟩
  obtain ⟨s1, x, h, hk⟩ := passed_iff (s := base) (o := { mode := .fetch, kind := .plain, target := .any, assay := false, poison := true, seen := [] })
    (va := 0x100000) (z := 4) (k := fun t _ => decide (t.oldCode = [] ∧ (t.core (coreOf base.strand.place)).fifo = [])) (by decide +kernel)
  exact ⟨s1, x, h.2.1, of_decide_eq_true hk⟩
/-- Memory that nothing has written reads as zero, which encodes no instruction. -/
theorem witness_IllegalWordTraps : Runs base ∧ ∃ s1 w r, (turn base).fetch = (s1, .ok w) ∧ decodeWord w = .error r := by
  refine ⟨by unfold Runs; decide +kernel, ?_⟩
  obtain ⟨s1, w, h, hk⟩ := fetches_iff (s := turn base) (k := fun _ w => w == 0) (by decide +kernel)
  rw [eq_of_beq hk] at h
  exact ⟨s1, 0, _, h, rfl⟩
theorem witness_MemoryStaysCanonical : pointed.Inv ∧ after (step pointed) (fun _ => true) = true := by
  refine ⟨by unfold State.Inv; decide +kernel, by decide +kernel⟩
theorem witness_CanonicalMemory : Memory.wf [(3, 1), (7, 255)] = true ∧ Memory.wf [(3, 0)] = false ∧ Memory.wf [(3, 1), (3, 2)] = false := by decide
theorem witness_ScalarFieldsNameRegisters : (0 : BitVec 7) = 0 ∧ 1 ≤ (1 : BitVec 7).toNat ∧ (15 : BitVec 7).toNat < 16 ∧ 16 ≤ (16 : BitVec 7).toNat ∧
    (127 : BitVec 7) ≠ 0 ∧ (127 : BitVec 7) ≠ 16 := by decide
theorem witness_CountsAndRearrangements : (1 : BitVec 7) ≠ 0 := by decide
theorem witness_ImmediateForms : (0x28000040 : BitVec 32).extractLsb' 26 6 = 0x0A ∧ (0x28000040 : BitVec 32).extractLsb' 6 4 ≠ 0 := by decide
/-- An access at the last word of the page, and one below it by the least offset. -/
theorem witness_LoadsComplete : (∃ s1 x, Passes (withReg base 2 0x1017F8) .read (eaSigned (withReg base 2 0x1017F8) 2 0x100 3) 8 s1 x) ∧
    (∃ s1 x, Passes pointed .read (eaUnsigned pointed 2 63 3) 8 s1 x) ∧ (3 : BitVec 3).toNat < 4 ∧ 4 ≤ (4 : BitVec 3).toNat := by
  refine ⟨?_, ?_, by decide⟩
  · obtain ⟨s1, x, h, _⟩ := passed_iff (s := withReg base 2 0x1017F8) (o := .read) (va := eaSigned (withReg base 2 0x1017F8) 2 0x100 3) (z := 8)
      (k := fun _ _ => true) (by decide +kernel)
    exact ⟨s1, x, h⟩
  · obtain ⟨s1, x, h, _⟩ := passed_iff (s := pointed) (o := .read) (va := eaUnsigned pointed 2 63 3) (z := 8) (k := fun _ _ => true) (by decide +kernel)
    exact ⟨s1, x, h⟩
theorem witness_HomeMemory : AtHome base { key := 0x100078, unc := false } ∧ (0x100078 : Nat) % 64 + 8 ≤ 64 ∧ base.Inv := by
  refine ⟨by unfold AtHome; decide +kernel, by decide, by unfold State.Inv; decide +kernel⟩
/-- An untarnished store, a tarnished one without the trap policy, and one in its line's last byte. -/
theorem witness_StoresComplete : (∃ s1 x, Passes pointed .write (eaSigned pointed 2 63 0) 1 s1 x ∧ CleanOk s1 (eaSigned pointed 2 63 0) 1 false) ∧
    (∃ s1 x, Passes pointed .write (eaUnsigned pointed 2 0 3) 8 s1 x ∧ CleanOk s1 (eaUnsigned pointed 2 0 3) 8 true) := by
  refine ⟨?_, ?_⟩
  · obtain ⟨s1, x, h, _⟩ := passed_iff (s := pointed) (o := .write) (va := eaSigned pointed 2 63 0) (z := 1) (k := fun _ _ => true) (by decide +kernel)
    exact ⟨s1, x, h, .inl rfl⟩
  · obtain ⟨s1, x, h, hk⟩ := passed_iff (s := pointed) (o := .write) (va := eaUnsigned pointed 2 0 3) (z := 8) (k := fun t _ => !t.strand.trapPolicy)
      (by decide +kernel)
    exact ⟨s1, x, h, .inr (.inl (by simpa using hk))⟩
theorem witness_ChecksChangeNoData : pointed.Inv ∧ pointed.upsets = [] ∧ pointed.flips = [] ∧ (∃ r, (pointed.check pointed.strand .read 0x100040 8) = r) ∧
    (∀ stack < 8, ∀ pch < 128, pointed.selfRefresh stack pch = false ∧ pointed.refreshRec stack pch ≠ -8) := by
  refine ⟨by unfold State.Inv; decide +kernel, rfl, rfl, ⟨_, rfl⟩, by decide +kernel⟩

/-- FP32, INT32 and UINT8 in code registers 0 to 2, an undefined kind in register 7 (R42). -/
def codes : Vector TWord 8 :=
  ((((Vector.replicate 8 TWord.zero).set 0 (.of 0x2000000000000000)).set 1 (.of 0x9200000000000000)).set 2 (.of 0xA000000000000000)).set 7 (.of 0xF000000000000000)
/-- A purse's bits, fill and tag. -/
def hold (s : State) (n bits fill : Nat) (tag : BitVec 3) : State :=
  s.mapStrand fun t => t.placePurse n { bits := bits, fill := fill, tag := tag, tarn := false, hdr0 := 0, hdr1 := 0 }
/-- The strand with those codes, a grant of 512 bits and sixteen purses: purses 0 and 1 hold two FP32 elements (1.0, 2.0), purses 2 and 5 two
INT32 ones (0, 1), purse 4 is FP32 and empty, purse 6 has the code of
register 7. s7 is a stride, s8 the nibble address of s2. -/
def lanes : State :=
  let s := withCtl (withReg (withReg pointed 7 8) 8 0x200080) fun c => { c with codes := codes, grant := .of 512, vregs := .of 16 }
  hold (hold (hold (hold (hold s 0 0x400000003F800000 64 0) 1 0x400000003F800000 64 0) 2 0x100000000 64 1) 5 0x100000000 64 1) 6 0 0 7

theorem witness_EarlyTraps : (eaSigned pointed 3 0 1).toNat % 2 ^ 1 ≠ 0 ∧ (val pointed 3).toNat % amoSize .fadd32 ≠ 0 ∧
    ((([0, 16, 17].map (purseOf lanes)).filter fun k => decide (lanes.strand.vregs ≤ k)).min? = some 16) ∧ purseOf lanes 6 < lanes.strand.vregs ∧
    purseOf lanes 0 < lanes.strand.vregs ∧ purseOf lanes 15 < lanes.strand.vregs ∧ ((codeOf lanes 6).vectorOk && anyCode (codeOf lanes 6)) = false ∧
    ((codeOf lanes 0).vectorOk && integerCode (codeOf lanes 0)) = false := by decide +kernel

theorem witness_AtomicsComplete : pointed.Inv ∧ (∃ s1 x h, Passes pointed (AmoOp.add.acc .unordered) (val pointed 2) (amoSize .add) s1 x ∧
      CleanOk s1 (val pointed 2) (amoSize .add) true ∧ atHome x (amoSize .add) s1 = .ok () h) ∧
    (∃ s1 x h, Passes pointed (AmoOp.fadd32.acc .unordered) (val pointed 2) (amoSize .fadd32) s1 x ∧
      CleanOk s1 (val pointed 2) (amoSize .fadd32) true ∧ atHome x (amoSize .fadd32) s1 = .ok () h) := by
  refine ⟨by unfold State.Inv; decide +kernel, ?_, ?_⟩
  · obtain ⟨s1, x, h, hk⟩ := passed_iff (s := pointed) (o := AmoOp.add.acc .unordered) (va := val pointed 2) (z := amoSize .add)
      (k := fun t x => !t.strand.trapPolicy && runs (atHome x (amoSize .add) t) fun _ _ => true) (by decide +kernel)
    rw [Bool.and_eq_true] at hk
    obtain ⟨_, u, hu, _⟩ := runs_iff hk.2
    exact ⟨s1, x, u, h, .inr (.inl (by simpa using hk.1)), hu⟩
  · obtain ⟨s1, x, h, hk⟩ := passed_iff (s := pointed) (o := AmoOp.fadd32.acc .unordered) (va := val pointed 2) (z := amoSize .fadd32)
      (k := fun t x => !t.strand.trapPolicy && runs (atHome x (amoSize .fadd32) t) fun _ _ => true) (by decide +kernel)
    rw [Bool.and_eq_true] at hk
    obtain ⟨_, u, hu, _⟩ := runs_iff hk.2
    exact ⟨s1, x, u, h, .inr (.inl (by simpa using hk.1)), hu⟩

/-- OrdFirst as a test. -/
def firstOrd (s : State) (i : Instr) : Bool :=
  let e := ordEntry s i
  decide (s.ordEntries = [] ∧ (∀ x ∈ s.ordStreams, x.die = e.die → x.slice = e.slice → x.stream = e.stream → x.launch = e.launch) ∧ s.ordNext e = e.tag)
theorem firstOrd_iff {s : State} {i : Instr} (h : firstOrd s i = true) : OrdFirst s i := by
  simp only [firstOrd, decide_eq_true_eq] at h
  exact h
/-- A word after a fresh state: tag 0 of a stream that has no state. -/
theorem witness_OrderedAtomicsComplete : pointed.Inv ∧ pointed.strand.canRun = true ∧ ∃ s1 s2 h x y, s1.strand.ordHeld = false ∧
    Passes pointed { AmoOp.add.acc (.ordered (getBits pointed.strand.ctl.ordtag.val 32 8)) with assay := false, poison := false } (val pointed 2) (amoSize .add) s1 x ∧
    OrdFirst s1 (.amoaddO 6 2 4) ∧
    Passes (ordHeld s1 (.amoaddO 6 2 4) (tarn2 pointed 2 4 || (AmoOp.add = .cas && tarn1 pointed 6))) (AmoOp.add.acc (.ordered (getBits pointed.strand.ctl.ordtag.val 32 8))) (val pointed 2) (amoSize .add) s2 y ∧
    CleanOk s2 (val pointed 2) (amoSize .add) (tarn2 pointed 2 4 || (AmoOp.add = .cas && tarn1 pointed 6)) ∧ atHome y (amoSize .add) s2 = .ok () h := by
  refine ⟨by unfold State.Inv; decide +kernel, by decide +kernel, ?_⟩
  obtain ⟨s1, x, h, hk⟩ := passed_iff (s := pointed) (o := { AmoOp.add.acc (.ordered (getBits pointed.strand.ctl.ordtag.val 32 8)) with assay := false, poison := false })
    (va := val pointed 2) (z := amoSize .add)
    (k := fun t _ => !t.strand.ordHeld && (firstOrd t (.amoaddO 6 2 4) && passed (ordHeld t (.amoaddO 6 2 4) (tarn2 pointed 2 4 || (AmoOp.add = .cas && tarn1 pointed 6))) (AmoOp.add.acc (.ordered (getBits pointed.strand.ctl.ordtag.val 32 8)))
      (val pointed 2) (amoSize .add) fun u y => runs (atHome y (amoSize .add) u) fun _ _ => true)) (by decide +kernel)
  rw [Bool.and_eq_true, Bool.and_eq_true] at hk
  obtain ⟨s2, y, h2, hk2⟩ := passed_iff hk.2.2
  obtain ⟨_, u, hu, _⟩ := runs_iff hk2
  exact ⟨s1, s2, u, x, y, by simpa using hk.1, h, firstOrd_iff hk.2.1, h2, .inl (by decide +kernel), hu⟩
theorem witness_BranchesComplete : ¬ (TrapsOnTarnish pointed ∧ tarn2 pointed 4 5 = true) ∧ (TrapsOnTarnish strict ∧ tarn2 strict 4 5 = true) ∧
    (TrapsOnTarnish (withCtl strict fun c => { c with laps := { c.laps with tarn := true } }) ∧
      loopTarn (withCtl strict fun c => { c with laps := { c.laps with tarn := true } }) = true) ∧ tarn1 strict 4 = true := by
  unfold TrapsOnTarnish; decide +kernel
theorem witness_LoopCompletes : ¬ (TrapsOnTarnish strict ∧ loopTarn strict = true) := by unfold TrapsOnTarnish; decide +kernel
theorem witness_JumpsComplete : ¬ (TrapsOnTarnish pointed ∧ tarn1 pointed 2 = true) ∧
    (BitVec.ofInt 52 ((val pointed 2).toNat + (0x800 : BitVec 12).toInt)).extractLsb' 0 2 = 0 ∧
    (BitVec.ofInt 52 ((val pointed 3).toNat + (0 : BitVec 12).toInt)).extractLsb' 0 2 ≠ 0 := by unfold TrapsOnTarnish; decide +kernel
theorem witness_HandlerEntry : (plainTrap 0x0F 0).cause < 0x10 ∧ (handled base).strand.st.tr = false ∧ (handled base).strand.ctl.tvec.val ≠ 0 ∧
    (handled base).strand.ctl.tvec.val.extractLsb' 0 2 = 0 := by decide +kernel
/-- In a handler; and with no handler, or a misaligned one. -/
theorem witness_SuspendedTraps : 0x10 ≤ (plainTrap 0x10 0).cause ∧ 0x10 ≤ (plainTrap 0x20 0).cause ∧ (plainTrap 0x0F 0).cause < 0x10 ∧
    ((handled base).mapStrand fun t => { t with st := { t.st with tr := true } }).strand.st.tr = true ∧ base.strand.st.tr = false ∧ base.strand.ctl.tvec.val = 0 ∧
    (withCtl base fun c => { c with tvec := .of 0x100082 }).strand.ctl.tvec.val.extractLsb' 0 2 ≠ 0 := by decide +kernel
theorem witness_SystemInstructions : (withCtl base fun c => { c with tpc := .of 0x100010 }).strand.ctl.tpc.val.extractLsb' 0 2 = 0 ∧
    (withCtl base fun c => { c with tpc := .of 0x100011 }).strand.ctl.tpc.val.extractLsb' 0 2 ≠ 0 ∧ (6 : BitVec 7).toNat ≤ 6 ∧ 4 ≤ (4 : BitVec 7).toNat ∧
    (3 : BitVec 7).toNat < 4 := by decide +kernel

/-- A COPY command of the acting strand with barrier completion (R228): 64 bytes from 0x100400 to 0x100440, physical, mode S. -/
def copyBits : Nat := 1 + 0x100400 * 2 ^ 64 + 0x100440 * 2 ^ 128 + 64 * 2 ^ 192
def copying (p : CmdPhase) : Cmd :=
  { id := 5, place := 0, flat := 0, part := 0, launch := 0, node := none, queue := 0, bits := copyBits, tarn := false, sup := true, det := false, seed := 0, srb := 0,
    nseg := 1, group := none, phase := p, whole := false, dest := (true, 0x100440, 64), addr := 0, seenBy := [], seenChunks := [], told := [], noted := false, done := 0, snap := [], wrote := [],
    tokKey := none, racing := [], fails := 0 }
theorem witness_ExitEndsTheStrand : base.strand.run = .ready ∧
    (∀ c ∈ ({ base with cmds := [copying .queued] } : State).cmds, ∀ u v w, c.phase ≠ .owes u v w) ∧
    (∃ c ∈ ({ base with cmds := [copying .queued] } : State).cmds, c.place = base.strand.place ∧ c.launch = base.strand.launch ∧ c.node = none ∧ c.busy = true) ∧
    (∀ c ∈ ({ base with cmds := [copying .signalled] } : State).cmds, c.busy = false) := by
  refine ⟨by decide +kernel, ?_, ⟨copying .queued, .head _, by decide +kernel⟩, ?_⟩
  · intro c hc u v w h
    rw [List.mem_singleton] at hc
    subst hc
    cases h
  · intro c hc
    rw [List.mem_singleton] at hc
    subst hc
    decide
/-- WINB takes 14 and refuses 15; a number that R33 does not assign. -/
theorem witness_ControlRegisterAccess : (∀ row ∈ crRows, (base.strand.ctlRead 0 row.1).isSome = true) ∧ ¬ (15 ≤ (14 : Word).toNat) ∧ 15 ≤ (15 : Word).toNat ∧
    (∀ row ∈ crRows, row.1 ≠ (0x006 : BitVec 12).toNat) := by decide +kernel

theorem maskFree_no (s : State) : MaskFree s false := fun h => by cases h
theorem maskFree_nil {s : State} (h : s.cmds = []) (mk : Bool) : MaskFree s mk := by
  cases mk <;> simp [MaskFree, NoneOwed, observed, gov, State.chunksRead, h]
theorem useOk_of {s : State} {f : BitVec 7} {k : Code → Bool} (h : (decide (purseOf s f < s.strand.vregs) && ((codeOf s f).vectorOk && k (codeOf s f))) = true) :
    UseOk s f k := by simpa [UseOk] using h
theorem lanes_fresh : Fresh lanes := by unfold Fresh; decide +kernel
theorem lanes_maskFree (mk : Bool) : MaskFree lanes mk := maskFree_nil (by decide +kernel) mk
/-- The last purse below VREGS is usable as well as the first. -/
theorem lanes_any : UseOk lanes 15 anyCode ∧ UseOk lanes 0 anyCode ∧ UseOk lanes 1 anyCode ∧ UseOk lanes 4 anyCode :=
  ⟨useOk_of (by decide +kernel), useOk_of (by decide +kernel), useOk_of (by decide +kernel), useOk_of (by decide +kernel)⟩
theorem lanes_integer : UseOk lanes 2 integerCode ∧ UseOk lanes 5 integerCode := ⟨useOk_of (by decide +kernel), useOk_of (by decide +kernel)⟩
theorem lanes_kinds : UseOk lanes 4 floatingCode ∧ UseOk lanes 4 fixedCode ∧ UseOk lanes 4 fixedOrBlock ∧ UseOk lanes 0 fixedCode ∧ UseOk lanes 0 fixedOrBlock :=
  ⟨useOk_of (by decide +kernel), useOk_of (by decide +kernel), useOk_of (by decide +kernel), useOk_of (by decide +kernel), useOk_of (by decide +kernel)⟩

theorem witness_VectorArithmeticCompletes : UseOk lanes 4 anyCode ∧ UseOk lanes 0 anyCode ∧ UseOk lanes 1 anyCode ∧ UseOk lanes 2 integerCode ∧ Fresh lanes ∧
    MaskFree lanes true := ⟨lanes_any.2.2.2, lanes_any.2.1, lanes_any.2.2.1, lanes_integer.1, lanes_fresh, lanes_maskFree true⟩
theorem witness_VectorUnaryCompletes : UseOk lanes 4 floatingCode ∧ UseOk lanes 4 anyCode ∧ UseOk lanes 0 anyCode ∧ Fresh lanes ∧ MaskFree lanes true :=
  ⟨lanes_kinds.1, lanes_any.2.2.2, lanes_any.2.1, lanes_fresh, lanes_maskFree true⟩
theorem witness_VectorScalarCompletes : UseOk lanes 5 integerCode ∧ UseOk lanes 2 integerCode ∧ UseOk lanes 0 anyCode ∧ Fresh lanes ∧ MaskFree lanes false :=
  ⟨lanes_integer.2, lanes_integer.1, lanes_any.2.1, lanes_fresh, maskFree_no lanes⟩
theorem witness_VectorComparesComplete : (15 : BitVec 7).toNat < 16 ∧ UseOk lanes 0 anyCode ∧ UseOk lanes 1 anyCode ∧ Fresh lanes ∧ MaskFree lanes true :=
  ⟨by decide, lanes_any.2.1, lanes_any.2.2.1, lanes_fresh, lanes_maskFree true⟩
theorem witness_GeneratedStreamsComplete : UseOk lanes 15 anyCode ∧ UseOk lanes 0 anyCode ∧ Fresh lanes ∧ MaskFree lanes true :=
  ⟨lanes_any.1, lanes_any.2.1, lanes_fresh, lanes_maskFree true⟩
theorem witness_ReductionsComplete : UseOk lanes 4 anyCode ∧ UseOk lanes 0 anyCode ∧ Fresh lanes ∧ MaskFree lanes true :=
  ⟨lanes_any.2.2.2, lanes_any.2.1, lanes_fresh, lanes_maskFree true⟩
/-- The selected elements fit the grant exactly: mask k1 of all ones selects both of purse 0. -/
theorem witness_ElementMovesComplete : UseOk lanes 4 anyCode ∧ UseOk lanes 0 anyCode ∧ UseOk lanes 2 integerCode ∧ Fresh lanes ∧ MaskFree lanes true ∧
    lanes.strand.st.span = false ∧ (codeOf lanes 4).isFixed = true ∧ (codeOf lanes 4).isBlock = false ∧ (codeOf lanes 0).isBlock = false ∧
    (((List.range (elemsOf lanes 0).length).filter fun i => (maskOf lanes 0).bits.getLsbD i).length) * (codeOf lanes 4).fixedBits ≤ lanes.strand.grant :=
  ⟨lanes_any.2.2.2, lanes_any.2.1, lanes_integer.1, lanes_fresh, lanes_maskFree true, by decide +kernel⟩
theorem witness_MasksAndGrantsComplete : (15 : BitVec 7).toNat < 16 ∧ (15 : BitVec 7).toNat ≠ 0 ∧ purseOf lanes 15 < lanes.strand.vregs := by decide +kernel
theorem witness_GrantNegotiation : lanes.strand.st.span = false ∧ lanes.strand.reserve ≤ 12 ∧
    (lanes.mapStrand fun t => { t with st := { t.st with d := true }, reserve := 12 }).strand.st.d = true := by decide +kernel

/-- A loop that ends without a fault, or with one. -/
theorem runs_none {ε σ α β : Type} {r : EStateM.Result ε σ (α × Option β)} (h : runs r (fun a _ => a.2.isNone) = true) : ∃ a t, r = .ok (a, none) t := by
  obtain ⟨⟨a, o⟩, t, h1, h2⟩ := runs_iff h
  cases o with
  | none => exact ⟨a, t, h1⟩
  | some x => cases h2
theorem runs_none2 {ε σ α β γ : Type} {r : EStateM.Result ε σ (α × β × Option γ)} (h : runs r (fun a _ => a.2.2.isNone) = true) : ∃ a b t, r = .ok (a, b, none) t := by
  obtain ⟨⟨a, b, o⟩, t, h1, h2⟩ := runs_iff h
  cases o with
  | none => exact ⟨a, b, t, h1⟩
  | some x => cases h2
theorem runs_stop {ε σ α : Type} {r : EStateM.Result ε σ (α × Option Trap)} (h : runs r (fun a _ => a.2.any fun (x : Trap) => decide (x.cause < 0x10)) = true) :
    ∃ a x t, r = .ok (a, some x) t ∧ x.cause < 0x10 := by
  obtain ⟨⟨a, o⟩, t, h1, h2⟩ := runs_iff h
  cases o with
  | none => cases h2
  | some x => exact ⟨a, x, t, h1, by simpa using h2⟩
theorem runs_any {ε σ α : Type} {r : EStateM.Result ε σ α} (h : runs r (fun _ _ => true) = true) : ∃ a t, r = .ok a t := by
  obtain ⟨a, t, h1, _⟩ := runs_iff h
  exact ⟨a, t, h1⟩

/-- Contiguous, strided by 8 bytes, gathered, and coded loads. -/
theorem witness_VectorLoadsComplete : UseOk lanes 4 fixedOrBlock ∧ UseOk lanes 4 fixedCode ∧ UseOk lanes 2 integerCode ∧ Fresh lanes ∧ MaskFree lanes false ∧
    (∃ st s1, loadLoop (vldPlan lanes none 4 2 false) lanes.strand.room (vldPlan lanes none 4 2 false).n
      (loadStart (tarn1 lanes 2) (gov lanes false)) (observed lanes false) = .ok (st, none) s1) ∧
    (∃ st s1, loadLoop (vldPlan lanes (some 7) 4 2 false) lanes.strand.room (vldPlan lanes (some 7) 4 2 false).n
      (loadStart (tarn1 lanes 2 || tarn1 lanes 7) (gov lanes false)) (observed lanes false) = .ok (st, none) s1) ∧
    (∃ st s1, loadLoop (gatherPlan lanes false 4 2 2 false) lanes.strand.room (gatherPlan lanes false 4 2 2 false).n
      (loadStart (tarn1 lanes 2 || tarnOf lanes 2) (gov lanes false)) (observed lanes false) = .ok (st, none) s1) ∧
    (∃ st s1, loadLoop (gatherPlan lanes true 4 2 2 false) lanes.strand.room (gatherPlan lanes true 4 2 2 false).n
      (loadStart (tarn1 lanes 2 || tarnOf lanes 2) (gov lanes false)) ((observed lanes false).mapStrand fun u => { u with links := [] }) = .ok (st, none) s1) ∧
    (∃ st s1, streamLoop none (codeOf lanes 4) (val lanes 8) lanes.strand.room lanes.strand.grant 4096
      { j := 0, oa := 0, pos := (0, 0), od := 0, bits := 0, tarn := tarn1 lanes 8 } lanes = .ok (st, none) s1) :=
  ⟨lanes_kinds.2.2.1, lanes_kinds.2.1, lanes_integer.1, lanes_fresh, maskFree_no lanes, runs_none (by decide +kernel), runs_none (by decide +kernel),
    runs_none (by decide +kernel), runs_none (by decide +kernel), runs_none (by decide +kernel)⟩

/-- Mask k1 selects elements 0 and 2, and governs. -/
def masked : State := lanes.mapStrand fun t => { t.setMask 1 { bits := 5, tarn := false } with ctl := { t.ctl with amr := .of 1 } }
theorem masked_fresh : Fresh masked := by unfold Fresh; decide +kernel
theorem witness_VectorStoresComplete : UseOk lanes 0 fixedOrBlock ∧ UseOk lanes 0 fixedCode ∧ UseOk lanes 2 integerCode ∧ UseOk lanes 0 anyCode ∧ Fresh lanes ∧
    MaskFree lanes false ∧
    (∃ u s1, storeLoop (vstPlan lanes none 0 2 false) (vstPlan lanes none 0 2 false).n 0 (observed lanes false) = .ok (u, none) s1) ∧
    (∃ u s1, storeLoop (vstPlan lanes (some 7) 0 2 false) (vstPlan lanes (some 7) 0 2 false).n 0 (observed lanes false) = .ok (u, none) s1) ∧
    (∃ u s1, storeLoop (scatterPlan lanes 0 2 2 false) (scatterPlan lanes 0 2 2 false).n 0 (observed lanes false) = .ok (u, none) s1) ∧
    (UseOk masked 0 fixedCode ∧ UseOk masked 2 integerCode ∧ Fresh masked ∧ MaskFree masked true ∧ masked.strand.amr ≠ 0 ∧
      ∃ u m s1, linkedLoop (scatterPlan masked 0 2 2 true) (scatterPlan masked 0 2 2 true).n 0 (scatterPlan masked 0 2 2 true).gov.bits.toNat
        (observed masked true) = .ok (u, m, none) s1) ∧ lanes.strand.amr = 0 ∧
    (∃ j oa s1, storeCodes none (val lanes 8) (codeOf lanes 0).unitElems ((lanes.strand.purse (purseOf lanes 0)).tarn || tarn1 lanes 8) 0 0
      (((codeOf lanes 0).items (lanes.strand.purse (purseOf lanes 0)).bits (lanes.strand.purse (purseOf lanes 0)).fill (codeOf lanes 0).maxItems 0).take
        ((4096 + (codeOf lanes 0).unitElems - 1) / (codeOf lanes 0).unitElems)) lanes = .ok (j, oa, none) s1) :=
  ⟨lanes_kinds.2.2.2.2, lanes_kinds.2.2.2.1, lanes_integer.1, lanes_any.2.1, lanes_fresh, maskFree_no lanes, runs_none (by decide +kernel), runs_none (by decide +kernel),
    runs_none (by decide +kernel), ⟨useOk_of (by decide +kernel), useOk_of (by decide +kernel), masked_fresh, maskFree_nil (by decide +kernel) true, by decide +kernel,
      runs_none2 (by decide +kernel)⟩, by decide +kernel, runs_none2 (by decide +kernel)⟩
/-- The load's second line is poisoned: element 14 faults. -/
def poisoned : State := { withReg (handled lanes) 2 0x100048 with poison := [0x100080 / 64] }
theorem witness_ElementPreciseStops : UseOk poisoned 4 fixedOrBlock ∧ Fresh poisoned ∧ MaskFree poisoned false ∧
    (∃ st x s1, loadLoop (vldPlan poisoned none 4 2 false) poisoned.strand.room (vldPlan poisoned none 4 2 false).n
      (loadStart (tarn1 poisoned 2) (gov poisoned false)) (observed poisoned false) = .ok (st, some x) s1 ∧ x.cause < 0x10 ∧ st.u = 14) ∧
    poisoned.strand.st.tr = false ∧ poisoned.strand.tvecOk = true := by
  refine ⟨useOk_of (by decide +kernel), by unfold Fresh; decide +kernel, maskFree_no _, ?_, by decide +kernel, by decide +kernel⟩
  obtain ⟨⟨st, o⟩, s1, h, hk⟩ := runs_iff (r := loadLoop (vldPlan poisoned none 4 2 false) poisoned.strand.room (vldPlan poisoned none 4 2 false).n
      (loadStart (tarn1 poisoned 2) (gov poisoned false)) (observed poisoned false))
    (k := fun a _ => a.2.any (fun (x : Trap) => decide (x.cause < 0x10)) && decide (a.1.u = 14)) (by decide +kernel)
  cases o with
  | none => simp at hk
  | some x => simp at hk; exact ⟨st, x, s1, h, hk⟩
/-- A gather whose second element is poisoned, a strided store whose second element is misaligned, and a scatter whose first is. -/
def edged : State := { withReg (withReg (handled lanes) 2 0x10007C) 7 6 with poison := [0x100080 / 64] }
theorem witness_ElementPreciseStops_more : UseOk edged 0 fixedCode ∧ UseOk edged 2 integerCode ∧ Fresh edged ∧ MaskFree edged false ∧
    (edged.strand.st.tr = false ∧ edged.strand.tvecOk = true) ∧
    (∃ st x s1, loadLoop (gatherPlan edged false 4 2 2 false) edged.strand.room (gatherPlan edged false 4 2 2 false).n
      (loadStart (tarn1 edged 2 || tarnOf edged 2) (gov edged false)) (observed edged false) = .ok (st, some x) s1 ∧ x.cause < 0x10) ∧
    (∃ u x s1, storeLoop (vstPlan edged (some 7) 0 2 false) (vstPlan edged (some 7) 0 2 false).n 0 (observed edged false) = .ok (u, some x) s1 ∧ x.cause < 0x10) ∧
    ∃ u x s1, storeLoop (scatterPlan edged 0 3 2 false) (scatterPlan edged 0 3 2 false).n 0 (observed edged false) = .ok (u, some x) s1 ∧ x.cause < 0x10 :=
  ⟨useOk_of (by decide +kernel), useOk_of (by decide +kernel), by unfold Fresh; decide +kernel, maskFree_no _, by decide +kernel,
    runs_stop (by decide +kernel), runs_stop (by decide +kernel), runs_stop (by decide +kernel)⟩

/-- Two elements of an INT32 purse at s2, indexes 0 and 1. -/
theorem witness_VectorAtomicsComplete : UseOk lanes 5 (VamoOp.codeOk .add) ∧ UseOk lanes 2 integerCode ∧ Fresh lanes ∧ MaskFree lanes false ∧ lanes.strand.canRun = true ∧
    (∃ l s1 r s2, checkTargets (vamoAcc .unordered true (vamoPlanOf lanes 5 2 2 false).gov.seen) ((vamoPlanOf lanes 5 2 2 false).c.fixedBits / 8) true
        (vamoPlanOf lanes 5 2 2 false).at_ (observed lanes false) = .ok l s1 ∧
      vamoGroups .add (vamoPlanOf lanes 5 2 2 false).c (fun j => bitsAt (lanes.strand.purse (purseOf lanes 5)).bits (j * (vamoPlanOf lanes 5 2 2 false).c.fixedBits)
        (vamoPlanOf lanes 5 2 2 false).c.fixedBits) true (groupTargets l []) s1 = .ok r s2) ∧
    (∃ l s1 m s2 r s3,
      let i := Instr.vamoo 5 2 2 false false
      let k := AccessKind.ordered (getBits lanes.strand.ctl.ordtag.val 32 8)
      let p := vamoPlanOf lanes 5 2 2 false
      let u := ordHeld s1 i p.src
      let p2 := vamoPlanOf u 5 2 2 false
      checkTargets (vamoAcc k false p.gov.seen) (p.c.fixedBits / 8) p.src p.at_ (observed lanes false) = .ok l s1 ∧ OrdFirst s1 i ∧
      checkTargets (vamoAcc k true p2.gov.seen) (p.c.fixedBits / 8) p2.src p2.at_ (observed u false) = .ok m s2 ∧
      vamoGroups .add p.c (fun j => bitsAt (lanes.strand.purse (purseOf lanes 5)).bits (j * p.c.fixedBits) p.c.fixedBits) p2.src (groupTargets m []) s2 = .ok r s3) := by
  refine ⟨useOk_of (by decide +kernel), lanes_integer.1, lanes_fresh, maskFree_no lanes, by decide +kernel, ?_, ?_⟩
  · obtain ⟨l, s1, h, hk⟩ := runs_iff (r := checkTargets (vamoAcc .unordered true (vamoPlanOf lanes 5 2 2 false).gov.seen)
        ((vamoPlanOf lanes 5 2 2 false).c.fixedBits / 8) true (vamoPlanOf lanes 5 2 2 false).at_ (observed lanes false))
      (k := fun l s1 => runs (vamoGroups .add (vamoPlanOf lanes 5 2 2 false).c (fun j => bitsAt (lanes.strand.purse (purseOf lanes 5)).bits
        (j * (vamoPlanOf lanes 5 2 2 false).c.fixedBits) (vamoPlanOf lanes 5 2 2 false).c.fixedBits) true (groupTargets l []) s1) fun _ _ => true) (by decide +kernel)
    obtain ⟨r, s2, h2⟩ := runs_any hk
    exact ⟨l, s1, r, s2, h, h2⟩
  · obtain ⟨l, s1, h, hk⟩ := runs_iff (r := checkTargets (vamoAcc (.ordered (getBits lanes.strand.ctl.ordtag.val 32 8)) false (vamoPlanOf lanes 5 2 2 false).gov.seen)
        ((vamoPlanOf lanes 5 2 2 false).c.fixedBits / 8) (vamoPlanOf lanes 5 2 2 false).src (vamoPlanOf lanes 5 2 2 false).at_ (observed lanes false))
      (k := fun _ s1 =>
        let u := ordHeld s1 (.vamoo 5 2 2 false false) (vamoPlanOf lanes 5 2 2 false).src
        let p2 := vamoPlanOf u 5 2 2 false
        firstOrd s1 (.vamoo 5 2 2 false false) && runs (checkTargets (vamoAcc (.ordered (getBits lanes.strand.ctl.ordtag.val 32 8)) true p2.gov.seen)
          ((vamoPlanOf lanes 5 2 2 false).c.fixedBits / 8) p2.src p2.at_ (observed u false)) fun m s2 =>
          runs (vamoGroups .add (vamoPlanOf lanes 5 2 2 false).c (fun j => bitsAt (lanes.strand.purse (purseOf lanes 5)).bits
            (j * (vamoPlanOf lanes 5 2 2 false).c.fixedBits) (vamoPlanOf lanes 5 2 2 false).c.fixedBits) p2.src (groupTargets m []) s2)
            fun _ _ => true) (by decide +kernel)
    rw [Bool.and_eq_true] at hk
    obtain ⟨m, s2, h2, hk2⟩ := runs_iff hk.2
    obtain ⟨r, s3, h3⟩ := runs_any hk2
    exact ⟨l, s1, m, s2, r, s3, h, firstOrd_iff hk.1, h2, h3⟩

/-- A queue word at 0x100080 (s9): base 0x100100, capacity 8, head 0, tail 3, bound 0, index base 100. A spilled purse at 0x100180 (s10): fill 32, code 1. -/
def queued : State :=
  put8 (put8 (put8 (put8 (put8 (put8 (withReg (withReg masked 9 0x100080) 10 0x100180) 0x100080 0x100100) 0x100088 8) 0x100098 3) 0x1000A8 100)
    0x100180 0x20020) 0x100188 77
theorem queued_fresh : Fresh queued := by unfold Fresh; decide +kernel
theorem cleanOk_of {s : State} {va : Word} {z : Nat} {t : Bool} (h : (!s.strand.trapPolicy) = true) : CleanOk s va z t := .inr (.inl (by simpa using h))

theorem witness_SpillsAndAppendsComplete : (purseOf queued 15 < queued.strand.vregs ∧ purseOf queued 0 < queued.strand.vregs) ∧
    (∃ ws s1 s2, checkWords .write (val queued 2) (1 + (((queued.strand.purse (purseOf queued 0)).fill + 7) / 8 + 7) / 8) queued = .ok ws s1 ∧
      cleanWords false ws s1 = .ok () s1 ∧ storeWords false ws (leBytes 8 (queued.strand.purse (purseOf queued 0)).header ++
        leBytes (((queued.strand.purse (purseOf queued 0)).fill + 7) / 8) ((queued.strand.purse (purseOf queued 0)).bits % 2 ^ (queued.strand.purse (purseOf queued 0)).fill)) s1
        = .ok () s2) ∧
    (∃ h s1 hb ht s2 ws s3 bs bt s4, checkWords .read (val queued 10) 1 queued = .ok h s1 ∧ loadWords h 8 s1 = .ok (hb, ht) s2 ∧ leNat hb = 0x20020 ∧
      checkWords .read (val queued 10 + 8) (((32 + 7) / 8 + 7) / 8) s2 = .ok ws s3 ∧ loadWords ws ((32 + 7) / 8) s3 = .ok (bs, bt) s4) ∧ Fresh queued := by
  refine ⟨by decide +kernel, ?_, ?_, queued_fresh⟩
  · obtain ⟨ws, s1, h, hk⟩ := runs_iff (r := checkWords .write (val queued 2) (1 + (((queued.strand.purse (purseOf queued 0)).fill + 7) / 8 + 7) / 8) queued)
      (k := fun ws s1 => !s1.strand.trapPolicy && runs (storeWords false ws (leBytes 8 (queued.strand.purse (purseOf queued 0)).header ++
        leBytes (((queued.strand.purse (purseOf queued 0)).fill + 7) / 8) ((queued.strand.purse (purseOf queued 0)).bits % 2 ^ (queued.strand.purse (purseOf queued 0)).fill)) s1)
        fun _ _ => true) (by decide +kernel)
    rw [Bool.and_eq_true] at hk
    obtain ⟨_, s2, h2, _⟩ := runs_iff hk.2
    have clean : ∀ l : List (Xl × Word), cleanWords false l s1 = .ok () s1 := by
      intro l
      induction l with
      | nil => rfl
      | cons p l ih => exact ih
    exact ⟨ws, s1, s2, h, clean ws, h2⟩
  · obtain ⟨l, s1, h, hk⟩ := runs_iff (r := checkWords .read (val queued 10) 1 queued)
      (k := fun l s1 => runs (loadWords l 8 s1) fun p s2 => decide (leNat p.1 = 0x20020) &&
        runs (checkWords .read (val queued 10 + 8) (((32 + 7) / 8 + 7) / 8) s2) fun ws s3 => runs (loadWords ws ((32 + 7) / 8) s3) fun _ _ => true) (by decide +kernel)
    obtain ⟨⟨hb, ht⟩, s2, h2, hk2⟩ := runs_iff hk
    rw [Bool.and_eq_true] at hk2
    obtain ⟨ws, s3, h3, hk3⟩ := runs_iff hk2.2
    obtain ⟨⟨bs, bt⟩, s4, h4, _⟩ := runs_iff hk3
    exact ⟨l, s1, hb, ht, s2, ws, s3, bs, bt, s4, h, h2, of_decide_eq_true hk2.1, h3, h4⟩
theorem cleanEntries_kept {s : State} (h : (!s.strand.trapPolicy) = true) : ∀ l : List (Xl × Word), cleanEntries true l s = .ok () s
  | [] => rfl
  | p :: l => by
    have ht : s.strand.trapPolicy = false := by simpa using h
    have hc : cleanCheck p.2.toNat 4 true s = .ok () s := by
      simp [cleanCheck, getS, bind, EStateM.bind, get, getThe, MonadStateOf.get, EStateM.get, pure, EStateM.pure, ht]
    show (cleanCheck p.2.toNat 4 true >>= fun _ => cleanEntries true l) s = _
    simp only [bind, EStateM.bind, hc]
    exact cleanEntries_kept h l
/-- With mask k1 two entries fit from tail 3; with k2, no bit set, nothing is selected. -/
theorem witness_SpillsAndAppendsComplete_append : (∃ ws s1 hs s2 bs lt s3, checkWordsAligned (appendAcc queued.strand.st.d) (val queued 9) queued = .ok ws s1 ∧
      homeWords 8 ws s1 = .ok hs s2 ∧ loadWords hs 64 s2 = .ok (bs, lt) s3 ∧ leNat ((bs.drop 0).take 8) % 4 = 0 ∧ leNat ((bs.drop 8).take 8) = 8 ∧
      leNat ((bs.drop 24).take 8) + 2 ≤ leNat ((bs.drop 8).take 8) + leNat ((bs.drop 16).take 8) ∧
      ∃ es s4 eh s5 s6 s7, checkEntries (appendAcc queued.strand.st.d) 0x100100 8 3 2 s3 = .ok es s4 ∧ homeWords 4 es s4 = .ok eh s5 ∧ cleanEntries true eh s5 = .ok () s5 ∧
        CleanOk s5 (val queued 9) 64 true ∧ ((3 + 2 : Int) - leNat ((bs.drop 32).take 8) < (queued.strand.grant / 32 : Nat)) ∧
        storeEntries true 100 eh [0, 2] s5 = .ok () s6 ∧ storeWords true ((hs.drop 3).take 1) (leBytes 8 5) s6 = .ok () s7) ∧
    (List.range 4096).filter (fun j => (maskOf queued 1).bits.getLsbD j) = [0, 2] ∧ (List.range 4096).filter (fun j => (maskOf queued 2).bits.getLsbD j) = [] := by
  refine ⟨?_, by decide +kernel, by decide +kernel⟩
  obtain ⟨ws, s1, h, hk⟩ := runs_iff (r := checkWordsAligned (appendAcc queued.strand.st.d) (val queued 9) queued)
    (k := fun ws s1 => runs (homeWords 8 ws s1) fun hs s2 => runs (loadWords hs 64 s2) fun p s3 => decide (leNat ((p.1.drop 0).take 8) % 4 = 0 ∧ leNat ((p.1.drop 8).take 8) = 8 ∧
      leNat ((p.1.drop 24).take 8) + 2 ≤ leNat ((p.1.drop 8).take 8) + leNat ((p.1.drop 16).take 8) ∧
      ((3 + 2 : Int) - leNat ((p.1.drop 32).take 8) < (queued.strand.grant / 32 : Nat))) &&
      runs (checkEntries (appendAcc queued.strand.st.d) 0x100100 8 3 2 s3) fun es s4 => runs (homeWords 4 es s4) fun eh s5 =>
        !s5.strand.trapPolicy && runs (storeEntries true 100 eh [0, 2] s5) fun _ s6 => runs (storeWords true ((hs.drop 3).take 1) (leBytes 8 5) s6) fun _ _ => true)
    (by decide +kernel)
  obtain ⟨hs, s2, h2, hk⟩ := runs_iff hk
  obtain ⟨⟨bs, lt⟩, s3, h3, hk⟩ := runs_iff hk
  rw [Bool.and_eq_true] at hk
  obtain ⟨es, s4, h4, hk4⟩ := runs_iff hk.2
  obtain ⟨eh, s5, h5, hk5⟩ := runs_iff hk4
  rw [Bool.and_eq_true] at hk5
  obtain ⟨_, s6, h6, hk6⟩ := runs_iff hk5.2
  obtain ⟨_, s7, h7, _⟩ := runs_iff hk6
  have hd := of_decide_eq_true hk.1
  exact ⟨ws, s1, hs, s2, bs, lt, s3, h, h2, h3, hd.1, hd.2.1, hd.2.2.1, es, s4, eh, s5, s6, s7, h4, h5, cleanEntries_kept hk5.1 eh, cleanOk_of hk5.1, hd.2.2.2, h6, h7⟩

/-- Purse 3 holds a FILL command of 64 bytes from 0x100400 on with barrier completion, and with `n = 2` a malformed one after it. -/
def fillBits : Nat := 2 + 0x100400 * 2 ^ 128 + 64 * 2 ^ 192
def commanding (n : Nat) : State := hold lanes 3 fillBits (512 * n) 0
theorem commanding_free (n : Nat) (mk : Bool) : MaskFree (commanding n) mk := maskFree_nil rfl mk
/-- The purse needs a grant of 1,024 bits for two commands. -/
def twoCommands : State := withCtl (commanding 2) fun c => { c with grant := .of 1024 }
theorem witness_CommandsAndTokensComplete : ((15 : BitVec 7).toNat < 16 ∧ purseOf (commanding 1) 3 < (commanding 1).strand.vregs ∧ MaskFree (commanding 1) true) ∧
    ((List.range (min 128 (((commanding 1).strand.purse (purseOf (commanding 1) 3)).fill / 512))).filter (gov (commanding 1) false).on = [0] ∧
      (commanding 1).cmdFault ((commanding 1).makeCmd (bitsAt fillBits 0 512) false 0) = none ∧
      ∃ m s1, acceptAll false fillBits [] [0] (commanding 1) = .ok m s1) ∧
    (twoCommands.cmdFault (twoCommands.makeCmd (bitsAt fillBits 512 512) false 1) = some 0x21 ∧
      twoCommands.cmdFault (twoCommands.makeCmd (bitsAt fillBits 0 512) false 0) = none) ∧
    (∃ s1 x v tn s2, Passes lanes { Acc.read with seen := lanes.ownTokens lanes.strand (val lanes 2).toNat } (val lanes 2) 8 s1 x ∧
      loadAcquire x (val lanes 2) 8 4 s1 = .ok (v, tn) s2 ∧ s2.strand.st.d = false ∧
      (s1.wordNow s1.strand x.key = v) ∧ (val lanes 2).toNat ≤ v ∧
      let toks := s1.tokensRead lanes.strand.launch x.key v
      (s2.observeAll (toks ++ toks.flatMap s1.coveredBy) lanes.strand.flat).cmds = []) := by
  refine ⟨⟨by decide, by decide +kernel, commanding_free 1 true⟩, ⟨by decide +kernel, by decide +kernel, runs_any (by decide +kernel)⟩,
    ⟨by decide +kernel, by decide +kernel⟩, ?_⟩
  obtain ⟨s1, x, h, hk⟩ := passed_iff (s := lanes) (o := { Acc.read with seen := lanes.ownTokens lanes.strand (val lanes 2).toNat }) (va := val lanes 2) (z := 8)
    (k := fun s1 x => runs (loadAcquire x (val lanes 2) 8 4 s1) fun r s2 => !s2.strand.st.d && decide (s1.wordNow s1.strand x.key = r.1 ∧ (val lanes 2).toNat ≤ r.1 ∧
      (s2.observeAll (s1.tokensRead lanes.strand.launch x.key r.1 ++ (s1.tokensRead lanes.strand.launch x.key r.1).flatMap s1.coveredBy)
        lanes.strand.flat).cmds = [])) (by decide +kernel)
  obtain ⟨⟨v, tn⟩, s2, h2, hk2⟩ := runs_iff hk
  rw [Bool.and_eq_true] at hk2
  exact ⟨s1, x, v, tn, s2, h, h2, by simpa using hk2.1, of_decide_eq_true hk2.2⟩

/-- A strand whose own arrival at barrier 63 is not yet completed; a barrier with bytes pending; a launch whose level 0, of two strands, binds barrier 5. -/
def arrived : State := base.mapStrand fun t => { t with arrivals := [63] }
def pendingBar : State := { base with barriers := [{ core := 0, bar := 63, owner := none, count := 1, arr := 0, gone := 0, pend := 64 }] }
def pairLaunch : Launch :=
  { id := 9, part := 0, node := 0, levels := [BitVec.ofNat 64 (2 ^ 32 * 0 + 2 + 5 * 2 ^ 48 + 2 ^ 40)], det := false, esc := none, fpol := false, statarr := 0, gkey := 0, fidx := 0,
    ndev := 1, devs := [], strands := [(0, 0), (1, 1)], ended := [], tarns := 0, killed := none, quiesced := false }
def boundBar : State := { base with launches := [pairLaunch] }
theorem base_noCmds : base.cmds = [] := by decide +kernel
theorem witness_BarriersComplete : (63 : BitVec 7).toNat ∉ base.strand.arrivals ∧ (63 : BitVec 7).toNat ∈ arrived.strand.arrivals ∧
    (base.barrier (coreOf base.strand.place) 63 (base.ownerOf base.strand 63)).pend = 0 ∧
    (pendingBar.barrier (coreOf pendingBar.strand.place) 63 (pendingBar.ownerOf pendingBar.strand 63)).pend ≠ 0 := by decide +kernel
theorem witness_BarriersComplete_free : (∀ c ∈ base.cmds, ∀ p q r, c.phase ≠ .owes p q r) ∧
    ∀ c ∈ (base.observeAll (base.countedBy 0 63 (base.ownerOf base.strand 63)) base.strand.flat).cmds, ∀ p q r, c.phase ≠ .owes p q r := by
  have h : (base.observeAll (base.countedBy 0 63 (base.ownerOf base.strand 63)) base.strand.flat).cmds = [] := by decide +kernel
  refine ⟨fun c hc => ?_, fun c hc => ?_⟩
  · rw [base_noCmds] at hc; cases hc
  · rw [h] at hc; cases hc
theorem witness_BarriersComplete_init : (¬ ∃ l ∈ base.launches, (∃ lev, l.levelOf 5 = some lev) ∧ ∃ m ∈ l.strands, coreOf m.2 = 0) ∧
    ∃ l ∈ boundBar.launches, (∃ lev, l.levelOf 5 = some lev) ∧ ∃ m ∈ l.strands, coreOf m.2 = 0 := by
  refine ⟨?_, pairLaunch, .head _, ⟨0, by decide +kernel⟩, (1, 1), by decide, by decide⟩
  rintro ⟨l, h, _⟩
  rw [show base.launches = [] by decide +kernel] at h
  cases h
theorem witness_BarriersComplete_last : base.strand.run = .ready ∧ (63 : BitVec 7).toNat ∉ base.strand.arrivals ∧ base.ownerOf base.strand 63 = none ∧
    (∀ t ∈ base.parked, t.place ≠ base.strand.place ∧ 63 ∉ t.arrivals) ∧ (∀ c ∈ base.cmds, c.ck = 0 → c.ca ≠ 63) ∧
    (let b := base.barrier (coreOf base.strand.place) 63 none; b.count ≤ b.arr + 1 + b.gone ∧ b.pend = 0) := by decide +kernel
theorem witness_CacheControlCompletes : (3 : BitVec 7).toNat < 4 ∧ 4 ≤ (4 : BitVec 7).toNat := by decide

/-- The launch's escrow context in a round state, its queue the one of `queued`, opened at head 3 with one slot, none carried forward yet. -/
def escrowed (r : Round) : State :=
  { queued with escrow := [{ launch := 0, st := r, wn := 1, qw := 0x100080, h0 := 3, next := 0, ns := 1, mr := 0, cur := 0 }] }
/-- s11 asks for one slot from iteration 0 on. -/
def opening (r : Round) : State := withReg (escrowed r) 11 0x100000000
theorem witness_EscrowCompletes : (∀ r ∈ [Round.closed, .settled], Fresh (opening r) ∧
      (∃ ws s1 bs tq s2 e, checkWordsAligned .read (val (opening r) 9) (opening r) = .ok ws s1 ∧ loadWords ws 64 s1 = .ok (bs, tq) s2 ∧
        s2.escrowOf (opening r).strand = some e ∧ e.st = r ∧ queueField bs 8 = 8 ∧ queueField bs 0 % 4 = 0 ∧ (queueField bs 24 + 2 ^ 64 - queueField bs 16) % 2 ^ 64 ≤ 8)) ∧
    (val (opening .closed) 11).toNat / 2 ^ 32 % 2 ^ 17 = 1 := by
  refine ⟨?_, by decide +kernel⟩
  intro r hr
  have key : (runs (checkWordsAligned .read (val (opening r) 9) (opening r)) fun ws s1 => runs (loadWords ws 64 s1) fun p s2 =>
      match s2.escrowOf (opening r).strand with
      | some e => decide (e.st = r ∧ queueField p.1 8 = 8 ∧ queueField p.1 0 % 4 = 0 ∧ (queueField p.1 24 + 2 ^ 64 - queueField p.1 16) % 2 ^ 64 ≤ 8)
      | none => false) = true ∧ Fresh (opening r) := by
    unfold Fresh
    simp only [List.mem_cons, List.not_mem_nil, or_false] at hr
    rcases hr with rfl | rfl <;> decide +kernel
  refine ⟨key.2, ?_⟩
  obtain ⟨ws, s1, h, hk⟩ := runs_iff key.1
  obtain ⟨⟨bs, tq⟩, s2, h2, hk2⟩ := runs_iff hk
  split at hk2
  · rename_i e he
    have hd := of_decide_eq_true hk2
    exact ⟨ws, s1, bs, tq, s2, e, h, h2, he, hd.1, hd.2.1, hd.2.2.1, hd.2.2.2⟩
  · simp at hk2
/-- ERSV in the reserve state, ECHK in the clearing state, for the cells that purse 2 names; purse 2's elements are the addresses 0x100200 and 0x100208. -/
def celled (r : Round) : State := hold (escrowed r) 2 0x0010020800100200 64 1
theorem witness_EscrowCompletes_cells : (observed (celled .reserve) false).upsets = [] ∧ (observed (celled .clearing) false).upsets = [] ∧ (∃ e cells s1, (observed (celled .reserve) false).escrowOpen .reserve 5 = some e ∧ UseOk (celled .reserve) 2 integerCode ∧
      checkCells .write (gov (celled .reserve) false) 0 (elemsOf (celled .reserve) 2) (observed (celled .reserve) false) = .ok cells s1) ∧
    (∃ e cells s1, (observed (celled .clearing) false).escrowOpen .clearing 5 = some e ∧ UseOk (celled .clearing) 2 integerCode ∧
      checkCells .read (gov (celled .clearing) false) 0 (elemsOf (celled .clearing) 2) (observed (celled .clearing) false) = .ok cells s1) := by
  refine ⟨by decide +kernel, by decide +kernel, ?_, ?_⟩
  · obtain ⟨cells, s1, h⟩ := runs_any (r := checkCells .write (gov (celled .reserve) false) 0 (elemsOf (celled .reserve) 2) (observed (celled .reserve) false)) (by decide +kernel)
    obtain ⟨e, he⟩ := Option.isSome_iff_exists.mp (show ((observed (celled .reserve) false).escrowOpen .reserve 5).isSome = true by decide +kernel)
    exact ⟨e, cells, s1, he, useOk_of (by decide +kernel), h⟩
  · obtain ⟨cells, s1, h⟩ := runs_any (r := checkCells .read (gov (celled .clearing) false) 0 (elemsOf (celled .clearing) 2) (observed (celled .clearing) false)) (by decide +kernel)
    obtain ⟨e, he⟩ := Option.isSome_iff_exists.mp (show ((observed (celled .clearing) false).escrowOpen .clearing 5).isSome = true by decide +kernel)
    exact ⟨e, cells, s1, he, useOk_of (by decide +kernel), h⟩
/-- The clearing is over: of a window of `n` slots, mask k1 marks slots 0 and 2 as not committed. -/
def settled (n : Nat) : State :=
  { queued with escrow := [{ launch := 0, st := .settled, wn := 1, qw := 0x100080, h0 := 3, next := 0, ns := n, mr := 0, cur := 0 }] }
theorem settled_strand (n : Nat) : (settled n).strand = queued.strand := by simp only [settled]
theorem settled_fresh (n : Nat) : Fresh (settled n) := by unfold Fresh; rw [settled_strand]; exact queued_fresh
theorem witness_EscrowCompletes_settled (n : Nat) : ∃ e, (settled n).escrowOf (settled n).strand = some e ∧ e.st = .settled ∧ e.qw = val (settled n) 9 ∧ e.ns = n ∧
    e.mr = 0 ∧ e.cur = 0 ∧ e.h0 = 3 :=
  ⟨{ launch := 0, st := .settled, wn := 1, qw := 0x100080, h0 := 3, next := 0, ns := n, mr := 0, cur := 0 }, rfl, rfl, by
    unfold val; rw [settled_strand]; exact (by decide +kernel : (0x100080 : Word) = (queued.strand.reg 9).val), rfl, rfl, rfl, rfl⟩
/-- Advancing by `slots` of a window: every access of EADV goes through, the last of them when the window closes. -/
def advances (n : Nat) (slots : List Nat) : Bool :=
  let e : Escrow := { launch := 0, st := .settled, wn := 1, qw := 0x100080, h0 := 3, next := 0, ns := n, mr := 0, cur := 0 }
  runs (checkWordsAligned { Acc.write with mode := .both } (val (settled n) 9) (settled n)) fun ws s1 => runs (homeWords 8 ws s1) fun hs s2 => runs (loadWords hs 64 s2) fun p s3 =>
    decide (queueField p.1 0 = 0x100100 ∧ queueField p.1 8 = 8 ∧ queueField p.1 24 = 3) &&
    runs (slotIterations e 0x100100 8 ((val (settled n) 9).toNat / 256 :: (List.range slots.length).map fun i => (0x100100 + 4 * ((3 + i) % 2 ^ 64 % 8)) % 2 ^ 64 / 256) slots s3)
      fun l s4 => runs (checkEntries .write 0x100100 8 3 slots.length s4) fun es s5 => !s5.strand.trapPolicy && runs (homeWords 4 es s5) fun eh s6 =>
        runs (storeEntries true 0 eh l.1 s6) fun _ s7 => runs (storeWords true ((hs.drop 3).take 1) (leBytes 8 (3 + slots.length)) s7) fun _ s8 =>
          runs (storeWords true ((hs.drop 2).take 1) (leBytes 8 3) s8) fun _ _ => true
/-- A window of one slot closes; one of 5,000 does not, and has two slots to carry forward. -/
theorem witness_EscrowCompletes_advance : advances 1 [0] = true ∧ advances 5000 [0, 2] = true ∧
    (((List.range 1).filter fun j => (maskOf (settled 1) 1).bits.getLsbD j).map (0 + ·)) = [0] ∧
    (((List.range 4096).filter fun j => (maskOf (settled 5000) 1).bits.getLsbD j).map (0 + ·)) = [0, 2] := by decide +kernel

/-- A grant of 8,192 bits. Purse 0 is a dense 16 by 16 tile of FP32 zeros, purse 1 a factor pair of one component of two, purses 3 and 4 hold a column of
ones, s12 names a descriptor whose operands are FP32, s13 = 1 is KT. -/
def tiled : State :=
  let tile := fun (s : State) (x : Tile) (fill : Nat) => s.mapStrand fun t =>
    t.placePurse x.base { bits := 0, fill := fill, tag := 0, tarn := false, hdr0 := x.header, hdr1 := 0 }
  let s := withCtl lanes fun c => { c with grant := .of 8192 }
  let s := tile s { base := 0, pair := false, qres := 0, q := 0, m := 16, n := 16, gl := 1 } 8192
  let s := tile s { base := 1, pair := true, qres := 2, q := 1, m := 16, n := 16, gl := 1 } 1024
  let ones := (List.range 16).foldl (fun b i => b + 0x3F800000 * 2 ^ (32 * i)) 0
  let s := hold (hold s 3 ones 512 0) 4 ones 512 0
  put8 (put8 (put8 (put8 (withReg (withReg s 12 0x100080) 13 1) 0x100080 0x100200) 0x100088 0x100200) 0x100090 8) 0x100098 8
def denseTile : Tile := { base := 0, pair := false, qres := 0, q := 0, m := 16, n := 16, gl := 1 }
def pairTile : Tile := { base := 1, pair := true, qres := 2, q := 1, m := 16, n := 16, gl := 1 }
theorem tiled_tiles : TileAt tiled 0 denseTile ∧ TileAt tiled 1 pairTile := by
  unfold TileAt; decide +kernel
theorem witness_TilesAreShapedAndAdded :
    (16 * (getBits tiled.strand.ctl.tmode.val 1 3 + 1) = 16 ∧ tiled.strand.ctl.tmode.val.getLsbD 17 = false ∧ GroupHolds tiled { base := purseOf tiled 15, pair := false, qres := 0, q := 0, m := 16, n := 16, gl := 1 } 256 ∧
      (codeOf tiled 15).isFp32 = true ∧ (codeOf tiled 15).valid = true) ∧
    (TileAt tiled 0 denseTile ∧ TileAt tiled 1 pairTile ∧ pairTile.m = denseTile.m ∧ TakesDense tiled denseTile ∧ GroupHolds tiled denseTile 256 ∧
      pairTile.q + pairTile.q ≤ pairTile.qres ∧ GroupHolds tiled pairTile (32 * 2)) ∧
    (min (min (min 4096 ((tiled.strand.purse (purseOf tiled 3)).fill / 32) / 16) (min 4096 ((tiled.strand.purse (purseOf tiled 4)).fill / 32) / 16)) 32 = 1 ∧
      (∀ f ∈ [(0 : BitVec 7), 3, 4], (codeOf tiled f).valid = true ∧ (codeOf tiled f).isFp32 = true)) := by
  refine ⟨?_, ⟨tiled_tiles.1, tiled_tiles.2, ?_⟩, ?_⟩
  · unfold GroupHolds; decide +kernel
  · unfold TakesDense GroupHolds; decide +kernel
  · decide +kernel
/-- One product a strip: KT = 1. The loads change neither purses nor control registers. -/
theorem witness_MatrixProductsComplete : TileAt tiled 0 denseTile ∧ (val tiled 0).toNat = 0 ∧ (val tiled 13).toNat = 1 ∧
    (∃ desc td s1 dm tm s2 ra ta s3 rb tb s4, loadDescriptor (val tiled 12) tiled = .ok (desc, td) s1 ∧ loadMap true denseTile 1 s1 = .ok (dm, tm) s2 ∧
      loadRows { base := descWord desc 0, stride := descWord desc 2, rows := 16, code := tiled.strand.codeOf (BitVec.ofNat 3 (bitsAt desc 256 3)), scales := getBits tiled.strand.ctl.tmode.val 18 16 } 1 0 16 s2 = .ok (ra, ta) s3 ∧
      loadRows { base := descWord desc 1, stride := descWord desc 3, rows := 16, code := tiled.strand.codeOf (BitVec.ofNat 3 (bitsAt desc 264 3)), scales := getBits tiled.strand.ctl.tmode.val 34 16 } 1 0 16 s3 = .ok (rb, tb) s4 ∧
      s4.strand.purses = tiled.strand.purses ∧ s4.strand.ctl = tiled.strand.ctl) ∧
    ((codeOf tiled 0).valid && operandOk (codeOf tiled 0) (codeOf tiled 0)) = true ∧ TakesDense tiled denseTile ∧ GroupHolds tiled denseTile 256 ∧
    (TileAt tiled 1 pairTile ∧ pairTile.pair = true ∧ pairTile.m = denseTile.m ∧ pairTile.q ≠ 0) := by
  refine ⟨tiled_tiles.1, by decide +kernel, by decide +kernel, ?_, by decide +kernel, by unfold TakesDense; decide, by unfold GroupHolds; decide +kernel,
    ⟨tiled_tiles.2, rfl, rfl, by decide⟩⟩
  obtain ⟨⟨desc, td⟩, s1, h1, hk⟩ := runs_iff (r := loadDescriptor (val tiled 12) tiled)
    (k := fun p s1 => runs (loadMap true denseTile 1 s1) fun _ s2 =>
      runs (loadRows { base := descWord p.1 0, stride := descWord p.1 2, rows := 16, code := tiled.strand.codeOf (BitVec.ofNat 3 (bitsAt p.1 256 3)), scales := getBits tiled.strand.ctl.tmode.val 18 16 } 1 0 16 s2) fun _ s3 =>
      runs (loadRows { base := descWord p.1 1, stride := descWord p.1 3, rows := 16, code := tiled.strand.codeOf (BitVec.ofNat 3 (bitsAt p.1 264 3)), scales := getBits tiled.strand.ctl.tmode.val 34 16 } 1 0 16 s3) fun _ s4 =>
      decide (s4.strand.purses = tiled.strand.purses ∧ s4.strand.ctl = tiled.strand.ctl)) (by decide +kernel)
  obtain ⟨⟨dm, tm⟩, s2, h2, hk⟩ := runs_iff hk
  obtain ⟨⟨ra, ta⟩, s3, h3, hk⟩ := runs_iff hk
  obtain ⟨⟨rb, tb⟩, s4, h4, hk⟩ := runs_iff hk
  have hd := of_decide_eq_true hk
  exact ⟨desc, td, s1, dm, tm, s2, ra, ta, s3, rb, tb, s4, h1, h2, h3, h4, hd.1, hd.2⟩
/-- A pair of finite components; the same with a NaN; a target below VREGS for TDENSE; an aligned map address; a member purse for TCVT. -/
theorem witness_TilesAreRecompressedAndMoved : TileAt tiled 0 denseTile ∧ denseTile.pair = false ∧ TileAt tiled 1 pairTile ∧ pairTile.pair = true ∧ pairTile.q ≠ 0 ∧
    (((tiled.strand.factors pairTile).1 ++ (tiled.strand.factors pairTile).2).any fun c => c.any fun v => match v with | .fin _ _ _ _ => false | _ => true) = false ∧
    (let t := hold tiled 1 0x7FC00000 1024 0
     (((t.strand.factors pairTile).1 ++ (t.strand.factors pairTile).2).any fun c => c.any fun v => match v with | .fin _ _ _ _ => false | _ => true) = true) ∧
    GroupHolds tiled pairTile ((pairTile.m + pairTile.n) * pairTile.qres) ∧
    GroupHolds tiled { base := purseOf tiled 15, pair := false, qres := 0, q := 0, m := 16, n := 16, gl := tiled.strand.denseGroup 16 16 } (16 * 16) ∧
    purseOf tiled 15 + tiled.strand.denseGroup 16 16 ≤ tiled.strand.vregs ∧ (val (withReg tiled 12 0xFFFFFFFFFFF00) 12).toNat % 256 = 0 ∧
    (val (withReg tiled 12 0xFFFFFFFFFFF00) 12).toNat < 2 ^ 52 ∧ tiled.strand.tileOver (purseOf tiled 0) = some denseTile ∧
    UseOk tiled 4 anyCode := by
  refine ⟨?_, by decide, ?_, by decide, by decide, by decide +kernel, by decide +kernel, ?_, ?_, by decide +kernel, by decide +kernel, by decide +kernel,
    by decide +kernel, useOk_of (by decide +kernel)⟩
  · exact tiled_tiles.1
  · exact tiled_tiles.2
  · unfold GroupHolds; decide +kernel
  · unfold GroupHolds; decide +kernel
/-- What the other clauses ask: TZERO's, TLRU's and TDENSE's groups lie below VREGS, the rank of a factor pair has room for one more column, and the base purses of TCVT have legal codes. -/
theorem witness_TilesAreRecompressedAndMoved_groups : purseOf tiled 15 + 1 ≤ tiled.strand.vregs ∧ 0 < tiled.strand.denseGroup 16 16 ∧ pairTile.q + 1 ≤ pairTile.qres ∧
    pairTile.qres ≤ 32 ∧ pairTile.m + pairTile.n ≤ 256 ∧ 0 < pairTile.gl ∧ pairTile.base + pairTile.gl ≤ tiled.strand.vregs ∧
    (let c := tiled.strand.codeOf (tiled.strand.purse denseTile.base).tag
     c.valid = true ∧ c.isFp32 = true) := by decide +kernel
/-- TMMAL over the factor pair's sixteen rows of B. -/
theorem witness_MatrixProductsComplete_low : ∃ desc td s1 dm tm s2 rb tb s3, loadDescriptor (val tiled 12) tiled = .ok (desc, td) s1 ∧
    loadMap false denseTile 16 s1 = .ok (dm, tm) s2 ∧
    loadRows { base := descWord desc 1, stride := descWord desc 3, rows := 16, code := tiled.strand.codeOf (BitVec.ofNat 3 (bitsAt desc 264 3)), scales := getBits tiled.strand.ctl.tmode.val 34 16 } 16 0 16 s2 = .ok (rb, tb) s3 := by
  obtain ⟨⟨desc, td⟩, s1, h1, hk⟩ := runs_iff (r := loadDescriptor (val tiled 12) tiled)
    (k := fun p s1 => runs (loadMap false denseTile 16 s1) fun _ s2 =>
      runs (loadRows { base := descWord p.1 1, stride := descWord p.1 3, rows := 16, code := tiled.strand.codeOf (BitVec.ofNat 3 (bitsAt p.1 264 3)), scales := getBits tiled.strand.ctl.tmode.val 34 16 } 16 0 16 s2) fun _ _ => true) (by decide +kernel)
  obtain ⟨⟨dm, tm⟩, s2, h2, hk⟩ := runs_iff hk
  obtain ⟨⟨rb, tb⟩, s3, h3, _⟩ := runs_iff hk
  exact ⟨desc, td, s1, dm, tm, s2, rb, tb, s3, h1, h2, h3⟩

/-- A physical, mode-S command of one line of HBM (op 1 COPY from 0x100400, op 2 FILL) to 0x100440, 64 bytes, in a phase. -/
def lineCmd (op : Nat) (p : CmdPhase) : Cmd :=
  { copying p with bits := op + 2 ^ 23 + (if op = 1 then 0x100400 * 2 ^ 64 else 0) + 0x100440 * 2 ^ 128 + 64 * 2 ^ 192 }
def engines (cs : List Cmd) : State := { base with cmds := cs }
theorem oneLine_of {s : State} {c : Cmd} (h : (decide (s.cmd? c.id = some c ∧ s.flips = []) && (c.phys && !c.det && decide (c.done = 0 ∧ c.snap = [] ∧ 0 < c.dword 24 ∧
      c.dword 16 % 64 + c.dword 24 ≤ 64 ∧ c.dword 16 + c.dword 24 ≤ hbmEnd ∧ s.inRanges c.part (c.dword 16) = true ∧
      s.locked.contains (c.dword 16 / 4096) = false ∧ (s.core (coreOf c.place)).fifo = [] ∧ s.rivals c (c.dword 16) (c.dword 24) = [] ∧ s.metaGone (c.dword 16) = false))) = true) : OneLine s c := by
  simp only [Bool.and_eq_true, decide_eq_true_eq, Bool.not_eq_true'] at h
  exact ⟨h.1.1, h.1.2, h.2.1.1, h.2.1.2, h.2.2⟩
/-- A command with barrier completion, one with chunk bits, and one with a token at 0x1005C0, each performed. -/
def ckCmd (ck : Nat) : Cmd :=
  { copying .performed with bits := copyBits + ck * 2 ^ 16 + (if ck = 1 then 3 * 2 ^ 24 + 8 * 2 ^ 32 else 0) + (if ck = 2 then 7 * 2 ^ 384 + 0x1005C0 * 2 ^ 448 else 0) }
/-- The one with chunk bits, of 320 bytes: two chunks of 256 bytes. -/
def twoChunks : Cmd := { ckCmd 1 with bits := (ckCmd 1).bits + 2 ^ 200, done := 320 }
theorem witness_EnginesPerform :
    (CopyReady (engines [lineCmd 1 .queued]) 0 0 (lineCmd 1 .queued) ∧ (lineCmd 1 .queued).op = 1 ∧ OneLine (engines [lineCmd 1 .queued]) (lineCmd 1 .queued) ∧
      SourceLine (engines [lineCmd 1 .queued]) (lineCmd 1 .queued) ∧ ∃ ph t, performCopy (lineCmd 1 .queued) (engines [lineCmd 1 .queued]) = .ok ph t) ∧
    (CopyReady (engines [lineCmd 2 .queued]) 0 0 (lineCmd 2 .queued) ∧ (lineCmd 2 .queued).op = 2 ∧ OneLine (engines [lineCmd 2 .queued]) (lineCmd 2 .queued)) ∧
    (∃ x t, performCopy (copying .queued) { engines [copying .queued] with poison := [], dev := [] } = .error x t) ∧
    (let c := { lineCmd 6 .queued with queue := 16 }
     (∀ o ∈ (engines [c]).cmds, ¬ o.id < c.id) ∧ (engines [c]).nextQueued 16 = some c ∧ (engines [c]).frozenQ.contains 16 = false ∧ c.fails + (engines [c]).upsetOf (1024 + 16) < 2 ∧
      2 ≤ { c with fails := 1 }.fails + ({ engines [c] with upsets := [(1024 + 16, 1)] } : State).upsetOf (1024 + 16)) ∧
    ((engines [copying .awaitHost]).cmd? 5 = some (copying .awaitHost)) ∧
    (∀ ck ∈ [0, 1, 2], (engines [ckCmd ck]).cmd? 5 = some (ckCmd ck) ∧ (ckCmd ck).ck = ck ∧ (engines [ckCmd ck]).inOrder (ckCmd ck) = true ∧
      (engines [ckCmd ck]).frozenQ.contains (ckCmd ck).queue = false ∧ (ckCmd ck).node = none) ∧
    ((ckCmd 1).untold.length = 1 ∧ twoChunks.untold.length = 2 ∧ (engines [twoChunks]).cmd? 5 = some twoChunks ∧ twoChunks.phase = .performed ∧ twoChunks.ck = 1 ∧
      twoChunks.tellable ≠ []) ∧
    (∃ t, writeToken (ckCmd 2) (engines [ckCmd 2]) = .ok () t) := by
  refine ⟨⟨by unfold CopyReady; decide +kernel, by decide +kernel, oneLine_of (by decide +kernel), by unfold SourceLine; decide +kernel, runs_any (by decide +kernel)⟩,
    ⟨by unfold CopyReady; decide +kernel, by decide +kernel, oneLine_of (by decide +kernel)⟩, ?_, by decide +kernel, by decide +kernel, by decide +kernel, by decide +kernel, ?_⟩
  · have h : (match performCopy (copying .queued) { engines [copying .queued] with poison := [], dev := [] } with | .ok _ _ => false | .error _ _ => true) = true := by
      decide +kernel
    split at h
    · cases h
    · rename_i e t he
      exact ⟨e, t, he⟩
  · obtain ⟨_, t, h⟩ := runs_any (r := writeToken (ckCmd 2) (engines [ckCmd 2])) (by decide +kernel)
    exact ⟨t, h⟩

/-- A search command of stack 0 on its queue; and the same running in context 0, with a list request to stack 1 for node 3 that waits. -/
def searchCmd (p : CmdPhase) : Cmd := { copying p with bits := 7 + 2 * 2 ^ 16, queue := 24 }
def queryOf (answered : Bool) : Query :=
  { stack := 0, ctx := 0, cmd := 5, desc := some ((List.replicate 192 0).set 9 1 |>.set 68 9), vec := some [], cands := [], best := [], seen := [], expanded := 0,
    popped := some 3, rest := none, status := none,
    reqs := [{ stack := 1, node := 3, isList := true, answer := if answered then some (true, []) else none, arrived := false }], tarn := false }
def searching (answered : Bool) : State := { engines [searchCmd .running] with queries := [queryOf answered] }
/-- A query that has ended and has its result block of one result still to write, to 0x100600. -/
def resultCmd : Cmd := { copying .running with bits := 7 + 2 * 2 ^ 16 + 0x100600 * 2 ^ 192 + 2 ^ 288, queue := 24 }
def finished : State := { engines [resultCmd] with queries := [{ queryOf false with status := some 3, reqs := [] }] }
/-- An ordered atomic that stands in its slice's buffer alone, with the tag its stream expects; its strand waits for it. -/
def ordered (arrived : Bool) : State :=
  { pointed.mapStrand fun t => { t with run := .waitOrd } with
    ordEntries := [{ id := 9, place := 0, launch := 0, die := 0, slice := 0, stream := 0, tag := 0, instr := .amoaddO 6 2 4, inBuffer := arrived, tagTarn := false }],
    ordStreams := [{ launch := 0, die := 0, slice := 0, stream := 0, next := 0 }] }
/-- A launch of two strands whose level 0 is a core's and joins barrier 7, and whose members have both arrived. -/
def leveled : State :=
  { base with
    launches := [{ id := 0, part := 0, node := 0, levels := [0x0007010000000002], det := false, esc := none, fpol := false, statarr := 0, gkey := 0, fidx := 0, ndev := 1,
                   devs := [], strands := [(0, 0), (1, 1)], ended := [], tarns := 0, killed := none, quiesced := false }],
    barriers := [{ core := 0, bar := 7, owner := some (0, 0, 0), count := 2, arr := 2, gone := 0, pend := 0 }] }
theorem witness_SearchAndSliceSteps :
    (finished.resumable 0 = some resultCmd ∧ ∃ ph t, runQuery 5 resultCmd.searchFuel finished = .ok ph t) ∧
    ((engines [searchCmd .queued]).resumable 0 = none ∧ (engines [searchCmd .queued]).nextQueued 24 = some (searchCmd .queued) ∧
      (engines [searchCmd .queued]).freeContexts 0 ≠ [] ∧ (engines [searchCmd .queued]).sramUsed 0 + (searchCmd .queued).sram ≤ 4 * 2 ^ 20 ∧
      (engines [searchCmd .queued]).frozenQ.contains 24 = false ∧ resultCmd.fails + finished.upsetOf 1048 < 2) ∧
    ((searching false).inContext 0 0 = some (searchCmd .running, queryOf false) ∧ (queryOf false).desc ≠ none ∧
      ((queryOf false).reqs.find? fun x => x.node = 3 && x.isList = true && x.answer.isNone) ≠ none ∧ (searching false).frozenQ.contains 25 = false ∧
      (Graph.read ((queryOf false).desc.getD [])).find 3 ≠ none) ∧
    ((searching true).inContext 0 0 = some (searchCmd .running, queryOf true) ∧
      ((queryOf true).reqs.find? fun x => x.node = 3 && x.answer.isSome && !x.arrived) ≠ none) ∧
    ((ordered true).ordEntries.length = 1 ∧ (∀ e ∈ (ordered true).ordEntries, e.tag = (ordered true).ordNext e ∧
        (∃ x ∈ (ordered true).ordStreams, x.launch = e.launch ∧ x.die = e.die ∧ x.slice = e.slice ∧ x.stream = e.stream) ∧
        (((ordered true).performOrd e).2 = .done) ∧ (∀ x ∈ ((ordered true).performOrd e).1.ordEntries, x.id = e.id))) ∧
    (∃ l, leveled.launch? 0 = some l ∧ l.levelOf (levelBar (l.levels.getD 0 0)) = some 0 ∧ leveled.groupReady l 0 0 (levelBar (l.levels.getD 0 0)) = true) ∧
    (contenders base 0 1 = [0] ∧ contenders base 0 0 = [] ∧ contenders base 0 2 = []) ∧
    (((({ base with cores := [{ core := 0, ages := [0, 0, 0, 0], last := 3, score := [], fifo := [{ place := 0, key := 0x100400, data := [1], tarn := false }] }] } : State).core
      0).fifo ≠ []) ∧
    ({ searching true with frozenQ := [24] } : State).frozenQ.contains 24 = true) := by
  refine ⟨⟨by decide +kernel, runs_any (by decide +kernel)⟩, by decide +kernel, by decide +kernel, by decide +kernel, by decide +kernel, ?_, by decide +kernel, by decide +kernel⟩
  have h : (match leveled.launch? 0 with
    | some l => decide (l.levelOf (levelBar (l.levels.getD 0 0)) = some 0) && leveled.groupReady l 0 0 (levelBar (l.levels.getD 0 0))
    | none => false) = true := by decide +kernel
  split at h
  · rename_i l hl
    rw [Bool.and_eq_true, decide_eq_true_eq] at h
    exact ⟨l, hl, h.1, h.2⟩
  · cases h

/-- A page of compressed attribute under the launch's band; the pool of die 0 and partition 0 holds four chunks. -/
def pooled (free : Word) : State := ({ base with compressed := [0x100] } : State).setReg64 (poolst 0 0) free
/-- A write of slice 0 that waits for two chunks on page 256. -/
def stalledPage : Stalled := { die := 0, slice := 0, part := 0, page := 256, frames := 1, need := 2, relay := true }
theorem pooled_slice : ((pooled 4).sliceOf 0 4096).2 = 0 := by
  have hr : regionOf (4096 * 256) = .hbm 0 := by decide +kernel
  have hs : (pooled 4).slices 0 0 = [0] := by decide +kernel
  simp only [State.sliceOf, hr, hs, List.length_singleton, Nat.max_self, Nat.mod_one, List.getD_cons_zero]
theorem pooled_layout : (pooled 4).mayLayOut 0 0 0 256 = true := by
  have h : ((pooled 4).compressed.contains 256 && !(pooled 4).locked.contains 256 && (pooled 4).inBands 0 (256 * 4096) && decide (256 * 4096 / hbmDie = 0) &&
    ((pooled 4).slices 0 0).contains 0) = true := by decide +kernel
  rw [State.mayLayOut, h, Bool.true_and]
  exact List.any_eq_true.mpr ⟨0, by decide, by simpa using pooled_slice⟩
/-- The last unit of HBM with a flipped bit in its first data byte, and with one in its first sector's CRC. -/
def lastUnit : Nat := hbmEnd / 512 - 1
def flippedData : State := { base with flips := [{ cell := lastUnit * 512, wrote := 0, holds := 1 }] }
def flippedSide : State :=
  let b := (base.sideband (8 * lastUnit)).extractLsb' 0 8
  { base with flips := [{ cell := sideCell (8 * lastUnit) 0, wrote := b, holds := b ^^^ 1 }] }
/-- One flipped bit is corrected and counted (R347). -/
theorem test_scrub_corrects_one_bit : (match exec (.patrolScrub lastUnit 0 true) flippedData with
    | .next t => decide (getBits (t.reg64 (pcherr 7 126)) 0 32 = 1 ∧ t.flips = [] ∧ t.poison = []) | _ => false) = true := by decide +kernel
/-- A flipped bit in the CRC is beyond the code, which covers the data alone: the sector is poisoned (R346, R347). -/
theorem test_scrub_poisons_failing_sector : (match exec (.patrolScrub lastUnit 0 true) flippedSide with
    | .next t => decide (getBits (t.reg64 (pcherr 7 126)) 32 16 = 1 ∧ t.poison = [8 * lastUnit]) | _ => false) = true := by decide +kernel
theorem witness_MemoryUpkeep_flips :
    (base.flips = [] ∧ (0x80 : BitVec 8).getLsbD 7 = true ∧ ∀ j < 7, (0x80 : BitVec 8).getLsbD j = false) ∧
    (lastUnit * 512 < hbmEnd ∧ (∀ c < 4, flippedData.wrongBytes lastUnit c ≤ 4) ∧ flippedData.passes (8 * lastUnit) (flippedData.heldData (8 * lastUnit)) = false ∧
      ∀ j < 8, flippedData.passes (8 * lastUnit + j) (flippedData.sectorData (8 * lastUnit + j)) = true) ∧
    (flippedSide.Inv ∧ (∀ c < 4, flippedSide.wrongBytes lastUnit c ≤ 4) ∧ flippedSide.passes (8 * lastUnit) (flippedSide.heldData (8 * lastUnit)) = false ∧
      flippedSide.passes (8 * lastUnit) (flippedSide.sectorData (8 * lastUnit)) = false ∧ ∀ j < 8, j ≠ 0 → ∀ f ∈ flippedSide.flips, f.cell / 64 ≠ 8 * lastUnit + j ∧
      (f.cell < sideCell (8 * lastUnit + j) 0 ∨ sideCell (8 * lastUnit + j) 4 ≤ f.cell)) := by
  refine ⟨by decide +kernel, ⟨?_, ?_, ?_, ?_⟩, ?_, ?_, ?_, ?_, ?_⟩
  case refine_5 => unfold State.Inv; decide +kernel
  all_goals decide +kernel
theorem witness_MemoryUpkeep : (256 ∉ (pooled 4).compressed → False) ∧ 256 ∉ (pooled 4).locked ∧
    (pooled 4).ownerPart (0x4000 * 64) = some 0 ∧ (pooled 4).mayLayOut 0 0 0 256 = true ∧ 4 ≤ (pooled 4).freeChunks 0 0 ∧ (pooled 3).freeChunks 0 0 < 4 ∧
    (base.freeChunks 0 0 + 2 < 2 ^ 32 ∧ (∀ x ∈ base.stalled, x.die ≠ 0 ∨ x.part ≠ 0)) ∧
    (({ pooled 0 with stalled := [stalledPage], locked := [256] } : State).stalled = [stalledPage] ∧ stalledPage.need ≤ (pooled 0).freeChunks 0 0 + 2) ∧
    (base.migrate? 256 512 0x3000 0).isSome = true ∧ 256 ∉ base.migrate ∧ 256 ∈ ({ base with migrate := [256] } : State).migrate ∧
    ({ base with badBands := [0] } : State).badBands.contains (bandOf (256 * 4096)) = true ∧
    (base.setReg64 (descAddr 0 0) 0x60000 |>.setReg64 (descAddr 0 0x78) 0x42 |>.setReg64 (descAddr 0 0x10) 3 |>.setReg64 (descAddr 0 0x90) 2).bandMoves 0 (256 * 4096) (hbmBand) = true ∧
    (base.selfRefresh 7 127 = false ∧ -8 < base.refreshRec 7 127 ∧ base.refreshRec 7 127 < 8 ∧ base.retraining 7 127 = false) ∧
    ({ base with upsets := [(pchUnit 7 127, 1)] } : State).upsetOf (pchUnit 7 127) ≠ 0 := by
  and_intros <;> first | exact pooled_layout | decide +kernel

/-- A strand of place 0 with its context area at 0x200000, and the same after its save. -/
def savedStrand : State := base.mapStrand fun t => { t with saved := some t.pc }
def drained (on : Bool) : State :=
  let s := base.setReg64 (clusterCtl 0) 0x10
  if on then { s with strand := { s.strand with saved := some s.strand.pc } } else { s with strand := { s.strand with run := .vacant } }
/-- Every line of its image is poisoned. -/
def badImage : State := { savedStrand with poison := linesOf savedStrand.strand.area savedStrand.strand.imageSize }
theorem any_self (l : List Nat) (h : l ≠ []) : l.any l.contains = true := by
  cases l with
  | nil => exact absurd rfl h
  | cons a l => simp
theorem badImage_bad : badImage.imageBad savedStrand.strand = true := by
  have hs : savedStrand.strand.imageSize ≠ 0 := by decide +kernel
  have hp : badImage.poison = linesOf savedStrand.strand.area savedStrand.strand.imageSize := by simp only [badImage]
  unfold State.imageBad
  rw [hp]
  generalize savedStrand.strand.imageSize = n at *
  generalize savedStrand.strand.area = k
  exact any_self _ (by rw [linesOf, if_neg hs]; simp)
theorem goodImage : savedStrand.imageBad savedStrand.strand = false := by
  have hp : savedStrand.poison = [] := by decide +kernel
  unfold State.imageBad
  rw [hp]
  simp
/-- A command that names one of the strand's masks is not finished; the strand waits at a barrier; it is frozen. -/
def busyMask : State := { base with cmds := [{ ckCmd 1 with phase := .queued }] }
def atBarrier : State := base.mapStrand fun t => { t with run := .waitBar 63 }
def frozenStrand : State := base.mapStrand fun t => { t with run := .frozen 3 }
theorem witness_ContextsAreSavedAndMoved_preemption : base.strandAt 0 = some base.strand ∧ base.savable base.strand = true ∧ base.strand.run = .ready ∧
    atBarrier.strandAt 0 = some atBarrier.strand ∧ atBarrier.savable atBarrier.strand = true ∧ atBarrier.strand.run ≠ .ready ∧
    busyMask.strandAt 0 = some busyMask.strand ∧ busyMask.strand.saved = none ∧ busyMask.maskBusy busyMask.strand = true ∧ busyMask.strand.run = .ready ∧
    frozenStrand.strandAt 0 = some frozenStrand.strand ∧ frozenStrand.strand.run = .frozen 3 :=
  ⟨rfl, by decide +kernel, by decide +kernel, rfl, by decide +kernel, by decide +kernel, rfl, by decide +kernel, by decide +kernel, by decide +kernel, rfl, rfl⟩
theorem base_canonical : base.Inv := by unfold State.Inv; decide +kernel
theorem savedStrand_holds : savedStrand.strandAt 0 = some savedStrand.strand ∧ savedStrand.strand.saved.isSome = true ∧ savedStrand.strand.isSuspended = false ∧
    savedStrand.strand.saved = some savedStrand.strand.pc := ⟨rfl, by decide +kernel, by decide +kernel, rfl⟩
theorem witness_ContextsAreSavedAndMoved_restore : badImage.imageBad savedStrand.strand = true ∧ savedStrand.imageBad savedStrand.strand = false ∧
    savedStrand.strandAt 0 = some savedStrand.strand ∧ savedStrand.strand.saved.isSome = true :=
  ⟨badImage_bad, goodImage, savedStrand_holds.1, savedStrand_holds.2.1⟩
/-- A drained cluster is ready to leave its partition. -/
def leaves (s : State) : Bool := decide (s.clusterPart 0 = some 0 ∧ s.clusterState 0 = 1) && s.clusterSaved 0 && !s.clusterBusy 0
/-- With strands, and a second cluster of the partition that is free; and the same in a RESIZE that takes cluster 0 out. -/
def beside : State := (drained true).setReg64 (descAddr 0 0x08) 3
def resizingOut : State := (((beside.setReg64 (descAddr 0 0) 0x60000).setReg64 (descAddr 0 0x78) 0x42)).setReg64 (descAddr 0 0x88) 2
theorem witness_ContextsAreSavedAndMoved_clusters : base.clusterState (8 * 0 + 0) = 0 ∧ (drained true).clusterState (8 * 0 + 0) ≠ 0 ∧
    leaves (drained true) = true ∧ (drained true).onCluster 0 ≠ [] ∧ (∀ d < 32, (drained true).clusterFree 0 d = false) ∧ (drained true).removing 0 0 = false ∧
    leaves (drained false) = true ∧ (drained false).onCluster 0 = [] ∧ leaves beside = true ∧ beside.onCluster 0 ≠ [] ∧ beside.clusterFree 0 1 = true ∧
    leaves resizingOut = true ∧ resizingOut.onCluster 0 ≠ [] ∧ resizingOut.removing 0 0 = true := by decide +kernel

/-! ### Nodes, partitions and the outside -/

/-- A dispatched node 3 of a type, its BODY as one number. -/
def nodeOf (type body : Nat) : Node :=
  { part := 0, index := 3, bytes := leBytes 128 (type + body * 2 ^ 384), counter := 0, issued := 0, phase := .dispatched, state := 0, nerr := 0 }
/-- The partition's graph holds 16 nodes, of which the given ones are live. -/
def graph (l : List Node) : State := { base.setReg64 (vfAddr 0 0x08) 4 with nodes := l }
/-- Node 3 is the node the step finds. -/
def found (s : State) (type : Nat) (going : Bool) (n : Node) : Prop := s.nodeFor 0 3 type going = some n ∧ n.ok = true
/-- A launch record at 0x100400: entry 0x100000, a budget of 512 bits, one register, one level of one strand, one lane group; STACK as given. -/
def recorded (s : State) (stack : Nat) : State :=
  put8 (put8 (put8 (put8 (put8 s 0x100400 0x100000) 0x100410 stack) 0x100420 (0x01010101 * 2 ^ 32 + 512)) 0x100428 0x10000) 0x100440 1
/-- A KERNEL node on that record, and one whose record does not translate. -/
def kernelNode : Node := nodeOf 1 (0x100400 + 2 ^ 288)
def lostNode : Node := nodeOf 1 (0x100 + 2 ^ 288)
def kernels (stack : Nat) : State := recorded (graph [kernelNode]) stack
/-- What a computation that may end in an error answers satisfies a test. -/
def okIf {ε α : Type} (r : Except ε α) (k : α → Bool) : Bool := match r with | .ok a => k a | .error _ => false
theorem okIf_iff {ε α : Type} {r : Except ε α} {k : α → Bool} (h : okIf r k = true) : ∃ a, r = .ok a ∧ k a = true := by
  cases r with
  | ok a => exact ⟨a, rfl, h⟩
  | error e => cases h
theorem error_iff {ε α : Type} {r : Except ε α} (h : okIf r (fun _ => true) = false) : ∃ e, r = .error e := by
  cases r with
  | ok a => cases h
  | error e => exact ⟨e, rfl⟩
/-- None of the hub's reads for a KERNEL waits. -/
def Readable (s : State) (n : Node) : Prop := ∀ r ∈ s.kernelReads n, s.hubStopped n.part r.1 r.2 = false
theorem readable_of {s : State} {n : Node} (h : (!s.vfStopped n.part && decide (s.locked = [])) = true) : Readable s n := by
  intro r _
  simp only [Bool.and_eq_true, Bool.not_eq_true', decide_eq_true_eq] at h
  simp [State.hubStopped, h]
/-- The places given for one strand do, or do not; the stacks given do. -/
def placed (s : State) (n : Node) (r : LaunchRec) (places : List Nat) : Bool := s.placementOk n.part r places && s.barsFree (s.launchOf n r places)
/-- The mebibyte below 0x300000 is one page that the partition may read and write. -/
def withStack (s : State) : State := put8 s 0x2810 (codeLeaf 0x200000 + 2 ^ 62)
/-- Both together: the places do, and the record leaves the stacks to the runtime. -/
def unstacked (s : State) (n : Node) (r : LaunchRec) (places tops : List Nat) : Bool :=
  placed s n r places && decide (r.stack = 0) && decide (tops.length = (s.launchOf n r places).strands.length) && stacksApart tops && tops.all (s.stackOk r)
/-! A read of the hub within one page takes one walk. -/
theorem walkFrom_page (s : State) (part : Nat) {va vb : Nat} (h : va / 4096 = vb / 4096) : ∀ n t, s.walkFrom part va n t = s.walkFrom part vb n t
  | 0, _ => rfl
  | n + 1, t => by
    have e : va / 2 ^ (8 * n + 12) = vb / 2 ^ (8 * n + 12) := by
      rw [Nat.pow_add, Nat.mul_comm, ← Nat.div_div_eq_div_mul, ← Nat.div_div_eq_div_mul]
      exact congrArg (· / _) h
    simp only [State.walkFrom, e, walkFrom_page s part h n]
theorem translate_page {s : State} {part va vb : Nat} {e : Word} {l addr : Nat} (h : va / 4096 = vb / 4096) (hp : part ≠ 32) (hv : va < 0xFFC0000000000)
    (hw : s.walk part vb = .ok (l, e, addr)) (ht : ∀ t ∈ s.tlb, t.stale (some e) = false) (hq : s.hbmQuiet = true) (ha : s.leafCheck (hubParty part) e (leafPa e + va % pageBytes (leafSize e)) .read = .ok (leafPa e + va % pageBytes (leafSize e))) :
    (s.translate (hubParty part) va .read).2 = .ok { key := leafPa e + va % pageBytes (leafSize e), unc := e.getLsbD 6 } := by
  have w : s.walk part va = .ok (l, e, addr) := by
    rw [← hw]
    simp only [State.walk, walkFrom_page s part h]
  have st : s.staleLeaves part va (some e) = [] := by
    rw [State.staleLeaves, List.filter_eq_nil_iff]
    intro t m
    simp [ht t m]
  have q : (hubParty part).part = part := rfl
  simp [State.translate, State.translateNow, State.touchWalk, hq, q, hp, Nat.not_le.mpr hv, w, st, State.useLeaf, ha]
theorem hubRead_page {s : State} {part vb : Nat} {e : Word} {l addr : Nat} (hp : part ≠ 32) (hw : s.walk part vb = .ok (l, e, addr))
    (ht : ∀ t ∈ s.tlb, t.stale (some e) = false) (hq : s.hbmQuiet = true) (hs : s.poison = []) : ∀ n va, (∀ i < n, (va + i) / 4096 = vb / 4096 ∧ va + i < 0xFFC0000000000 ∧
      s.leafCheck (hubParty part) e (leafPa e + (va + i) % pageBytes (leafSize e)) .read = .ok (leafPa e + (va + i) % pageBytes (leafSize e))) →
    s.hubRead part va n = some ((List.range n).map fun i => Mem.read s.mem (leafPa e + (va + i) % pageBytes (leafSize e)))
  | 0, _, _ => rfl
  | n + 1, va, h => by
    have h0 := h 0 (by omega)
    rw [State.hubRead, translate_page (by simpa using h0.1) hp (by simpa using h0.2.1) hw ht hq (by simpa using h0.2.2)]
    have ih := hubRead_page hp hw ht hq hs n (va + 1) fun i hi => by
      have := h (i + 1) (by omega)
      rwa [show va + 1 + i = va + (i + 1) by omega]
    simp only [hs, ih, List.contains_nil, Bool.false_eq_true, if_false, Option.map_some, List.range_succ_eq_map, List.map_cons, List.map_map, Nat.add_zero]
    congr 2
    apply List.map_congr_left
    intro i _
    simp only [Function.comp, Nat.succ_eq_add_one]
    rw [show va + 1 + i = va + (i + 1) by omega]

/-- The launch record's bytes as the hub reads them. -/
def recordBytes (s : State) : List (BitVec 8) := (List.range 256).map fun i => Mem.read s.mem (0x100000 + (0x100400 + i) % 4096)
theorem kernelRead {s : State} (hw : s.walk 0 0x100400 = .ok (0, codeLeaf 0x100000, 0x3000)) (ht : ∀ t ∈ s.tlb, t.stale (some (codeLeaf 0x100000)) = false)
    (hq : s.hbmQuiet = true) (hs : s.poison = []) (hl : ∀ i < 256, s.leafCheck (hubParty 0) (codeLeaf 0x100000) (0x100400 + i) .read = .ok (0x100400 + i)) :
    s.hubRead 0 0x100400 256 = some (recordBytes s) := by
  have pa : leafPa (codeLeaf 0x100000) = 0x100000 ∧ pageBytes (leafSize (codeLeaf 0x100000)) = 4096 := by decide +kernel
  rw [hubRead_page (e := codeLeaf 0x100000) (by decide) hw ht hq hs 256 0x100400, recordBytes, pa.1, pa.2]
  intro i hi
  rw [pa.1, pa.2, show 0x100000 + (0x100400 + i) % 4096 = 0x100400 + i by omega]
  exact ⟨by omega, by omega, hl i hi⟩
/-- A state whose page of the record is mapped and whose record names no table: what the hub reads of it, before and after its marks. -/
def readsRecord (s : State) : Bool :=
  decide (s.walk 0 0x100400 = .ok (0, codeLeaf 0x100000, 0x3000)) && s.tlb.all (fun t => !t.stale (some (codeLeaf 0x100000))) && decide (s.poison = []) && s.hbmQuiet &&
    (List.range 256).all fun i => decide (s.leafCheck (hubParty 0) (codeLeaf 0x100000) (0x100400 + i) .read = .ok (0x100400 + i))
theorem record_read {s : State} (h : readsRecord s = true) : s.hubRead 0 0x100400 256 = some (recordBytes s) := by
  simp only [readsRecord, Bool.and_eq_true, List.all_eq_true, decide_eq_true_eq, Bool.not_eq_true', List.mem_range] at h
  exact kernelRead h.1.1.1.1 h.1.1.1.2 h.1.2 h.1.1.2 h.2
theorem kernelNode_fields : kernelNode.body 0 8 = 0x100400 ∧ kernelNode.body 36 4 = 1 ∧ kernelNode.part = 0 := by decide +kernel
theorem touched_record {s : State} (h : readsRecord s = true) (hc : (LaunchRec.ofBytes (recordBytes s)).clean = 0) :
    kernelTouched s kernelNode = s.hubTouch 0 0x100400 256 := by
  simp [kernelTouched, State.kernelReads, kernelNode_fields, record_read h, hc]
theorem record_of {s : State} {n : Node} {b : List (BitVec 8)} (h : s.hubRead n.part (n.body 0 8) 256 = some b) : s.record n =
    match s.cleanOf n.part (LaunchRec.ofBytes b) with
    | none => .error 2
    | some c =>
      if !(LaunchRec.ofBytes b).ok n.part || decide (countProduct (LaunchRec.ofBytes b).outer ≠ n.body 36 4) then .error 2
      else if (LaunchRec.ofBytes b).tooBig then .error 3
      else .ok (LaunchRec.ofBytes b, c) := by
  rw [State.record, h] <;> rfl
/-- A launch record that the hub can read passes a test with its clean ranges. -/
theorem record_passes {s : State} {k : LaunchRec × List (Nat × Nat × Nat) → Bool} (h : readsRecord s = true)
    (hk : okIf (match s.cleanOf 0 (LaunchRec.ofBytes (recordBytes s)) with
      | none => .error 2
      | some c =>
        if !(LaunchRec.ofBytes (recordBytes s)).ok 0 || decide (countProduct (LaunchRec.ofBytes (recordBytes s)).outer ≠ 1) then .error 2
        else if (LaunchRec.ofBytes (recordBytes s)).tooBig then Except.error 3
        else .ok (LaunchRec.ofBytes (recordBytes s), c)) k = true) : ∃ r, s.record kernelNode = .ok r ∧ k r = true := by
  rw [record_of (b := recordBytes s) (by rw [kernelNode_fields.2.2, kernelNode_fields.1, record_read h]), kernelNode_fields.2.2, kernelNode_fields.2.1]
  exact okIf_iff hk

theorem witness_NodesAreDispatched_kernel : found (kernels 0x101000) 1 false kernelNode ∧ kernelNode.part = 0 ∧
    (Readable (graph [lostNode]) lostNode ∧ ∃ e, (kernelTouched (graph [lostNode]) lostNode).record lostNode = .error e) ∧
    ((kernelNode.body 0 8, 256) ∈ ({ kernels 0 with locked := [256] } : State).kernelReads kernelNode ∧
      ({ kernels 0 with locked := [256] } : State).hubStopped 0 (kernelNode.body 0 8) 256 = true) :=
  ⟨by unfold found; decide +kernel, rfl, ⟨readable_of (by decide +kernel), error_iff (by decide +kernel)⟩,
    by unfold State.kernelReads; exact List.mem_append_left _ List.mem_cons_self, by decide +kernel⟩
theorem witness_NodesAreDispatched_stack : Readable (kernels 0x101000) kernelNode ∧
    ∃ r, (kernelTouched (kernels 0x101000) kernelNode).record kernelNode = .ok r ∧
      (placed (kernelTouched (kernels 0x101000) kernelNode) kernelNode r.1 [4] && decide (r.1.stack ≠ 0) &&
        !placed (kernelTouched (kernels 0x101000) kernelNode) kernelNode r.1 []) = true := by
  rw [touched_record (by decide +kernel) (by decide +kernel)]
  exact ⟨readable_of (by decide +kernel), record_passes (by decide +kernel) (by decide +kernel)⟩
theorem witness_NodesAreDispatched_stacks : Readable (withStack (kernels 0)) kernelNode ∧
    ∃ r, (kernelTouched (withStack (kernels 0)) kernelNode).record kernelNode = .ok r ∧
      unstacked (kernelTouched (withStack (kernels 0)) kernelNode) kernelNode r.1 [4] [0x300000] = true := by
  rw [touched_record (by decide +kernel) (by decide +kernel)]
  exact ⟨readable_of (by decide +kernel), record_passes (by decide +kernel) (by decide +kernel)⟩
/-- Engine nodes with a right OP (and one refused because its queue is frozen), a wrong OP, a malformed body; a malformed header. -/
def copyNodeOf (bits : Nat) : Node := nodeOf 2 bits
theorem witness_NodesAreDispatched_engines :
    (found (graph [copyNodeOf copyBits]) 2 false (copyNodeOf copyBits) ∧ (copyNodeOf copyBits).body 0 64 % 256 = 1 ∧
      ((graph [copyNodeOf copyBits]).nodeCmd (copyNodeOf copyBits) copyBits false 0).wellFormed = true ∧
      (graph [copyNodeOf copyBits]).refuses ((graph [copyNodeOf copyBits]).nodeCmd (copyNodeOf copyBits) copyBits false 0) = false ∧
      ({ graph [copyNodeOf copyBits] with frozenQ := [0] } : State).refuses ((graph [copyNodeOf copyBits]).nodeCmd (copyNodeOf copyBits) copyBits false 0) = true) ∧
    ((copyNodeOf 2).body 0 64 % 256 ≠ 1 ∧ ((graph [copyNodeOf (1 + 2 ^ 319)]).nodeCmd (copyNodeOf (1 + 2 ^ 319)) (1 + 2 ^ 319) false 0).wellFormed = false) ∧
    ((graph [{ copyNodeOf 1 with bytes := leBytes 128 (2 + 2 ^ 8 * 9) }]).nodeFor 0 3 2 false).any (fun n => !n.ok) = true := by
  unfold found; decide +kernel
/-- A batch of search commands at 0x100600, one or two; ranges of no page and of one page to compress; signals without and with an interrupt; a wait. -/
def batchNode (k : Nat) : Node := nodeOf 7 (0x100600 + k * 2 ^ 64)
def batch (k : Nat) : State := put8 (put8 (graph [batchNode k]) 0x100600 0x20007) 0x100620 (2 ^ 32 * 0x00010801)
/-- A test of the batch's next command. -/
def nextCommand (s : State) (n : Node) (k : Cmd → Nat → Bool) : Bool :=
  let va := n.body 0 8 + 64 * n.issued
  !s.hubStopped 0 va 64 && ((s.hubTouch 0 va 64).hubRead 0 va 64).any fun b => k ((s.hubTouch 0 va 64).nodeCmd n (leNat b) true va) (leNat b % 256)
theorem witness_NodesAreDispatched_batch :
    (∀ k ∈ [1, 2], found (batch k) 7 true (batchNode k) ∧ (batchNode k).issued + 1 ≤ (batchNode k).body 8 4 ∧
      nextCommand (batch k) (batchNode k) (fun c op => decide (op = 7) && c.wellFormed && !((batch k).hubTouch 0 0x100600 64).refuses c) = true) ∧
    (batchNode 1).issued + 1 = (batchNode 1).body 8 4 ∧ (batchNode 2).issued + 1 < (batchNode 2).body 8 4 ∧
    nextCommand (graph [batchNode 1]) (batchNode 1) (fun _ op => decide (op ≠ 7)) = true ∧
    ({ batch 1 with locked := [256] } : State).hubStopped 0 0x100600 64 = true ∧
    nextCommand { batch 1 with frozenQ := [24, 25, 26, 27, 28, 29, 30, 31] } (batchNode 1) (fun c op => decide (op = 7) && c.wellFormed &&
      (({ batch 1 with frozenQ := [24, 25, 26, 27, 28, 29, 30, 31] } : State).hubTouch 0 0x100600 64).refuses c) = true ∧
    ((graph [nodeOf 7 (0x100 + 2 ^ 64)]).hubTouch 0 0x100 64).hubRead 0 0x100 64 = none := by
  unfold found; and_intros <;> decide +kernel
/-- A full ring of interrupts. -/
def ringFull (s : State) : State := s.setReg64 (vfAddr 0 0x78) 16
theorem witness_NodesAreDispatched_others :
    (found (graph [nodeOf 4 0]) 4 true (nodeOf 4 0) ∧ (nodeOf 4 0).body 8 8 = 0) ∧
    (found (graph [nodeOf 5 (0x100000 + 4096 * 2 ^ 64)]) 5 true (nodeOf 5 (0x100000 + 4096 * 2 ^ 64)) ∧ (nodeOf 5 (0x100000 + 4096 * 2 ^ 64)).body 8 8 = 4096 ∧
      (graph []).pageLocked 0 0x100000 = false ∧ ((graph []).compressPage 0 0x100000 false).isSome = true) ∧
    (found (graph [nodeOf 9 0]) 9 false (nodeOf 9 0) ∧ (nodeOf 9 0).body 0 8 = 0 ∧ ((nodeOf 9 0).body 18 1).testBit 0 = false) ∧
    (found (graph [nodeOf 9 (0x100600 + 2 ^ 144)]) 9 false (nodeOf 9 (0x100600 + 2 ^ 144)) ∧ (graph []).hubWritable 0 0x100600 = true ∧
      (graph []).hubWritable 0 0 = false ∧ ((nodeOf 9 (0x100600 + 2 ^ 144)).body 18 1).testBit 0 = true ∧ (graph []).interruptRoom 0 = true ∧
      (ringFull (graph [])).interruptRoom 0 = false) ∧
    (found (graph [nodeOf 10 0x100600]) 10 true (nodeOf 10 0x100600) ∧ (graph []).hubStopped 0 0x100600 8 = false ∧ ((graph []).hubRead 0 0x100600 8).isSome = true ∧
      (graph []).hubRead 0 0 8 = none ∧ ({ graph [] with locked := [256] } : State).hubStopped 0 0x100600 8 = true) := by
  unfold found; and_intros <;> decide +kernel

/-- A node of a type not over, over, ended and of no known type. -/
def closing (n : Node) : State := graph [n]
theorem witness_NodesEnd : ((graph []).node? 0 3 = none) ∧
    ((closing { nodeOf 2 0 with state := 1 }).node? 0 3 = some { nodeOf 2 0 with state := 1 } ∧ (closing { nodeOf 2 0 with state := 1 }).nodeOver { nodeOf 2 0 with state := 1 } = true ∧
      { nodeOf 2 0 with state := 1 }.phase ≠ .ended) ∧
    ((closing { nodeOf 2 0 with phase := .ended }).node? 0 3 = some { nodeOf 2 0 with phase := .ended }) ∧
    ((closing (nodeOf 12 0)).node? 0 3 = some (nodeOf 12 0) ∧ (closing (nodeOf 12 0)).nodeOver (nodeOf 12 0) = false ∧ (closing (nodeOf 12 0)).dispatches 0 = true ∧
      ¬ (1 ≤ (nodeOf 12 0).type ∧ (nodeOf 12 0).type ≤ 11)) ∧
    ((closing (nodeOf 10 0)).node? 0 3 = some (nodeOf 10 0) ∧ (nodeOf 10 0).phase ≠ .ended ∧ (closing (nodeOf 10 0)).nodeOver (nodeOf 10 0) = false ∧
      1 ≤ (nodeOf 10 0).type ∧ (nodeOf 10 0).type ≤ 11) := by and_intros <;> decide +kernel

/-- Node 2, ended in a state, or appended with a counter. -/
def childOf (state : Nat) : Node := { nodeOf 2 0 with index := 2, phase := .ended, state := state }
def waitingNode (counter : Nat) : Node := { nodeOf 2 0 with index := 2, phase := .appended, counter := counter }
/-- A COPY node 3, done, whose one successor is node 2. -/
def before2 : Node := { nodeOf 2 0 with bytes := leBytes 128 (2 + 2 ^ 8 + 2 * 2 ^ 128), state := 1 }
/-- The launch of node 3, all its strands ended, one of them killed after a fault. -/
def overLaunch : Launch :=
  { id := launchId 0 3, part := 0, node := 3, levels := [1], det := false, esc := none, fpol := false, statarr := 0, gkey := 0, fidx := 0, ndev := 1,
    devs := [], strands := [(0, 4)], ended := [(0, some 0x40F)], tarns := 0, killed := none, quiesced := false }
def launched : State := { graph [kernelNode] with launches := [overLaunch] }
theorem witness_NodesEnd_ending : ((graph [before2, childOf 1]).node? 0 3 = some before2 ∧ before2.succs = [2] ∧ before2.type ≠ 1 ∧ before2.type ≠ 11 ∧
      (graph [before2, childOf 1]).node? 0 2 = some (childOf 1) ∧ (childOf 1).phase = .ended) ∧
    (∀ c ∈ [1, 2], (graph [before2, waitingNode c]).node? 0 3 = some before2 ∧ (graph [before2, waitingNode c]).node? 0 2 = some (waitingNode c) ∧
      (waitingNode c).phase ≠ .ended ∧ (waitingNode c).counter ≠ 0) ∧ (graph [before2, waitingNode 1]).dispatches 0 = true ∧
    (launched.node? 0 3 = some kernelNode ∧ launched.nodeLaunch kernelNode = some overLaunch ∧ overLaunch.fpol = false ∧ launched.nodeOver kernelNode = true) := by
  and_intros <;> decide +kernel
/-- Its command stopped on a fault, and not. -/
def stoppedCmd (p : CmdPhase) : State := { graph [nodeOf 2 0] with cmds := [{ copying p with node := some 3 }] }
theorem witness_NodesEnd_killing : ((stoppedCmd (.faulted 6)).node? 0 3 = some (nodeOf 2 0) ∧ (nodeOf 2 0).phase ≠ .ended ∧ (stoppedCmd (.faulted 6)).hostNerr (nodeOf 2 0) = 5 ∧
      (stoppedCmd .queued).hostNerr (nodeOf 2 0) = 7) ∧
    (found (graph [nodeOf 11 (2 ^ 384 + 2 * 2 ^ 128), childOf 3]) 11 false (nodeOf 11 (2 ^ 384 + 2 * 2 ^ 128)) ∧ (nodeOf 11 (2 ^ 384 + 2 * 2 ^ 128)).children = [2] ∧
      ((graph [nodeOf 11 (2 ^ 391)]).nodeFor 0 3 11 false).any (fun n => !n.ok) = true) := by unfold found; and_intros <;> decide +kernel
theorem witness_NodesEnd_appending :
    2 ^ 31 ≤ ((0x80000000 : BitVec 32).toNat + 2 ^ 32 - getBits ((graph []).reg64 (vfAddr 0 0x10)) 0 32) % 2 ^ 32 ∧
    2 ^ getBits ((graph []).reg64 (vfAddr 0 0x08)) 0 5 < ((17 : BitVec 32).toNat + 2 ^ 32 - getBits ((graph []).reg64 (vfAddr 0 0x18)) 0 32) % 2 ^ 32 ∧
    ((16 : BitVec 32).toNat + 2 ^ 32 - getBits ((graph []).reg64 (vfAddr 0 0x18)) 0 32) % 2 ^ 32 ≤ 2 ^ getBits ((graph []).reg64 (vfAddr 0 0x08)) 0 5 ∧
    (∀ k < 1, (graph []).hubStopped 0 ((graph []).slotAddr 0 k) 128 = false) ∧
    ({ (graph []).setReg64 (vfAddr 0 0x00) 0x100000 with locked := [256] } : State).hubStopped 0
      (({ (graph []).setReg64 (vfAddr 0 0x00) 0x100000 with locked := [256] } : State).slotAddr 0 0) 128 = true := by and_intros <;> decide +kernel

/-- Lane group 7 held by no strand of core 255; groups 0 of core 0 a home group of the acting strand, and group 1 one that it holds beside it. -/
def homed : State := withCtl base fun c => { c with lanes := .of 0xFF0103 }
/-- Group 2 of core 0 is off; partition 0 has BUSY with a RESIZE in progress. -/
def gated : State := base.setReg64 (coreCtl 0 + 0x40) 0xFB
def inResize : State := base.setReg64 (descAddr 0 0) 0x60000 |>.setReg64 (descAddr 0 0x78) 0x42
theorem witness_RegisterWritesComplete : ((255 : Nat) < 256 ∧ (∀ u ∈ base.onCore 255, (u.homeOn 255).testBit 7 = false ∧ (u.heldOn 255).testBit 7 = false) ∧
      (base.reg64 (coreCtl 255 + 0x40)).getLsbD 7 = true ∧ (0x7F : BitVec 64).getLsbD 7 = false) ∧
    ((homed.onCore 0).any (fun u => (u.homeOn 0).testBit 0) = true ∧ (homed.reg64 (coreCtl 0 + 0x40)).getLsbD 0 = true) ∧
    ((∀ u ∈ homed.onCore 0, (u.homeOn 0).testBit 1 = false) ∧ ((homed.onCore 0).find? fun x => (x.heldOn 0).testBit 1).isSome = true) ∧
    ((gated.reg64 (coreCtl 0 + 0x40)).getLsbD 2 = false) ∧ (∀ r ∈ base.records, r.posted = true) ∧ regMasks 0x20000000004 = none := by
  and_intros <;> decide +kernel
theorem witness_RegisterWritesComplete_commands : (base.reg64 (descAddr 31 0)).getLsbD 18 = false ∧
    (inResize.pcmd 0 = 2 ∧ getBits (inResize.reg64 (descAddr 0 0x78)) 3 3 = 0) ∧ base.fwcmd = none ∧ base.inRanges 0 0x0 = true ∧ regionOf 0 = .hbm 0 := by
  and_intros <;> decide +kernel
/-- A trace buffer of 4 KiB at 0 lies in partition 0's first band; one at the end of a die's memory does not. -/
theorem firstPage (k : Nat) (h : k < 4096) : regionOf k = .hbm 0 ∧ base.inRanges 0 k = true := by
  have lt : k < hbmEnd := Nat.lt_trans h (by decide)
  have die : k / hbmDie = 0 := Nat.div_eq_of_lt (Nat.lt_trans h (by decide))
  have band : k % hbmDie / hbmBand = 0 := by
    rw [Nat.mod_eq_of_lt (Nat.lt_trans h (by decide)), Nat.div_eq_of_lt (Nat.lt_trans h (by decide))]
  have e : regionOf k = .hbm 0 := by rw [regionOf, if_pos lt, die]
  refine ⟨e, ?_⟩
  rw [State.inRanges, e]
  simp only [band]
  decide +kernel
theorem witness_RegisterWritesComplete_trace : (∃ p < 32, ∀ k, 0 ≤ k → k < 0 + 4096 → (k < 2 ^ 48 ∧ regionOf k ≠ .fabric ∧ base.inRanges p k = true)) ∧
    ¬ ∃ p < 32, ∀ k, hbmBand * 16 ≤ k → k < hbmBand * 16 + 4096 → (k < 2 ^ 48 ∧ regionOf k ≠ .fabric ∧ base.inRanges p k = true) := by
  refine ⟨⟨0, by decide, fun k _ h => ⟨by omega, ?_, (firstPage k (by omega)).2⟩⟩, ?_⟩
  · rw [(firstPage k (by omega)).1]; decide
  rintro ⟨p, hp, h⟩
  have none : ∀ p < 32, base.inRanges p (hbmBand * 16) = false := by decide +kernel
  exact Bool.noConfusion ((none p hp).symm.trans (h _ (Nat.le_refl _) (by omega)).2.2)

/-- PCMD of partition `p` holds a command in progress. -/
def commanded (s : State) (p c : Nat) : State := s.setReg64 (descAddr p 0x78) (BitVec.ofNat 64 c) |>.setReg64 (descAddr p 0) (s.reg64 (descAddr p 0) ||| 0x40000)
/-- NEXT of partition 1 asks for cluster 1, band 1 and slice 1 of die 0. -/
def asking (c : Nat) : State :=
  commanded (base.setReg64 (descAddr 1 0x88) 2 |>.setReg64 (descAddr 1 0x90) 2 |>.setReg64 (descAddr 1 0x98) 2) 1 c
/-- Partition 1 has cluster 1, and partition 0's NEXT asks for it; partition 0's NEXT is its own descriptor, and its translation is off; it is frozen; its strand has ended. -/
def taken : State := base.setReg64 (descAddr 1 0x08) 2 |>.setReg64 (descAddr 0 0x88) 3
def staying : State := base.setReg64 (descAddr 0 0x88) 1 |>.setReg64 (descAddr 0 0x90) 1 |>.setReg64 (descAddr 0 0x98) 1 |>.setReg64 (descAddr 0 0x30) 0
def frozenPart : State := base.setReg64 (descAddr 0 0) 0x30000
def emptied (s : State) : State := { s with strand := { s.strand with run := .vacant } }
theorem witness_PartitionCommandsComplete_create :
    ((asking 1).pcmd 1 = 1 ∧ (asking 1).partState 1 = 0 ∧ (asking 1).nextOk 1 = true) ∧
    ((commanded (base.setReg64 (descAddr 2 0x88) 1) 2 1).pcmd 2 = 1 ∧ (commanded (base.setReg64 (descAddr 2 0x88) 1) 2 1).nextOk 2 = false) ∧
    (base.pcmd 0 ≠ 1 ∧ base.pcmd 0 ≠ 2 ∧ base.asked 0 3 = false ∧ base.asked 0 4 = false) := by and_intros <;> decide +kernel
theorem witness_PartitionCommandsComplete_resize :
    ((commanded taken 0 2).pcmd 0 = 2 ∧ (commanded taken 0 2).resizing 0 = false ∧ (commanded taken 0 2).nextOk 0 = false) ∧
    ((asking 2).pcmd 1 = 2 ∧ (asking 2).resizing 1 = false ∧ (asking 2).partState 1 = 0) ∧
    ((commanded staying 0 2).pcmd 0 = 2 ∧ (commanded staying 0 2).resizing 0 = false ∧ (commanded staying 0 2).partState 0 ≠ 0 ∧ (commanded staying 0 2).nextOk 0 = true) ∧
    ((commanded staying 0 0x42).pcmd 0 = 2 ∧ (commanded staying 0 0x42).resizing 0 = true ∧
      (commanded staying 0 0x42).cur 0 0x08 &&& ~~~((commanded staying 0 0x42).nextDesc 0 0x08) = 0 ∧
      (commanded staying 0 0x42).partMeets 0 ((commanded staying 0 0x42).inLostBand 0) = false) := by and_intros <;> decide +kernel
theorem witness_PartitionCommandsComplete_destroy :
    ((commanded base 0 3).asked 0 3 = true ∧ (commanded base 0 3).partState 0 ≠ 0) ∧ ((commanded base 0 0x5A).asked 0 3 = true ∧ (commanded base 0 0x5A).pcmd 0 = 2) ∧
    ((commanded base 1 3).asked 1 3 = true ∧ (commanded base 1 3).partState 1 = 0) := by and_intros <;> decide +kernel
/-- A strand and a queue frozen by a violation. -/
def freezing (place cmd : Option Nat) : Record :=
  { ring := 0, seq := 6, kind := 7, words := [0, 0, 0x10, 0, 0, 0], place := place, cmd := cmd, posted := true, pending := true }
def frozenCmd : Cmd := copying (.faulted 6)
def frozenQueue : State := { emptied base with cmds := [frozenCmd], frozenQ := [0], records := [freezing none (some 5)] }
def frozenHere : State := { base.mapStrand (fun t => { t with run := .frozen 6 }) with records := [freezing (some 0) none] }
/-- The live strands of partition 0. -/
def inPart0 (s : State) : List Strand := s.strands.filter fun u => u.live && decide (u.part = 0)
theorem witness_PartitionCommandsComplete_release :
    ((commanded (emptied base) 0 4).asked 0 4 = true ∧ inPart0 (commanded (emptied base) 0 4) = [] ∧ (commanded (emptied base) 0 4).cmds = [] ∧
      (commanded (emptied base) 0 4).partState 0 ≠ 3) ∧
    ((commanded (emptied frozenPart) 0 4).asked 0 4 = true ∧ (commanded (emptied frozenPart) 0 4).partState 0 = 3 ∧ inPart0 (commanded (emptied frozenPart) 0 4) = []) ∧
    ((commanded frozenHere 0 4).asked 0 4 = true ∧ inPart0 (commanded frozenHere 0 4) = [frozenHere.strand] ∧ frozenHere.strand.run = .frozen 6 ∧
      (commanded frozenHere 0 4).strandAt frozenHere.strand.place = some frozenHere.strand) ∧
    ((commanded frozenQueue 0 4).asked 0 4 = true ∧ inPart0 (commanded frozenQueue 0 4) = [] ∧ (commanded frozenQueue 0 4).cmds = [frozenCmd] ∧
      (commanded frozenQueue 0 4).froze frozenCmd = true) := by
  refine ⟨?_, ?_, ⟨by decide +kernel, rfl, rfl, rfl⟩, ?_⟩ <;> and_intros <;> decide +kernel
/-- A suspended strand and its pending record; a faulted command and its. -/
def suspended : State :=
  { base.mapStrand (fun t => { t with run := .suspended 6 }) with
    records := [{ ring := 0, seq := 6, kind := 0, words := [0, 0, 0x10, 0, 0, 0], place := some 0, cmd := none, posted := true, pending := true }] }
def faulted : State :=
  { engines [copying (.faulted 6)] with
    records := [{ ring := 0, seq := 6, kind := 1, words := [0, 0, 0x10, 0], place := none, cmd := some 5, posted := true, pending := true }] }
theorem witness_PartitionCommandsComplete : standing base 0 6 = none ∧
    ((standing suspended 0 6).any (fun r => decide (r.kind = 0 ∧ r.place = some 0)) = true ∧ suspended.strandAt 0 = some suspended.strand ∧
      suspended.strand.run = .suspended 6) ∧
    ((standing { suspended with strand := base.strand } 0 6).isSome = true ∧ base.strandAt 0 = some base.strand ∧ base.strand.run ≠ .suspended 6) ∧
    ((standing faulted 0 6).any (fun r => decide (r.kind = 1 ∧ r.cmd = some 5)) = true ∧
      (faulted.cmds.find? fun c => some c.id = some 5 && c.phase = .faulted 6) = some (copying (.faulted 6))) ∧
    (standing frozenQueue 0 6).any (fun r => decide (r.kind ≠ 0 ∧ r.kind ≠ 1)) = true := by
  and_intros <;> first | rfl | decide +kernel


/-- A flit with SEQ 0, ACK 0 and zero bytes, as a fresh link expects it. -/
def zeroFlit : List (BitVec 8) := makeFlit 0 0 (List.replicate 248 0)
/-- Partition 0's VF has failed with a DMA fault; a page of HBM is locked; link 15 keeps as many flits as it can. -/
def frozenVf : State := base.setReg64 (descAddr 0 0) 0x30000
def pageHeld : State := { base with locked := [256] }
def fullLink : State := base.setLink { base.link 15 with replay := List.replicate 1024 zeroFlit }
theorem witness_HostAndFabricComplete :
    (HostMay base 0 0x100400 8 ∧ (regionOf 0x100400).isCtl = false) ∧ (HostMay base 32 (descAddr 0 0x30) 8 ∧ (regionOf (descAddr 0 0x30)).isCtl = true) ∧
    (base.partState 0 ≠ 3 ∧ base.hostReaches 0 (hbmBand + 0) = false ∧ base.hostReaches 0 (hbmBand - 1) = true) ∧ frozenVf.partState 0 = 3 ∧
    (pageHeld.partState 0 ≠ 3 ∧ (∀ i < 8, pageHeld.hostReaches 0 (0x100400 + i) = true) ∧ pageHeld.rangeLocked 0x100400 8 = true) := by
  unfold HostMay; and_intros <;> decide +kernel
theorem witness_HostAndFabricComplete_requests :
    (∀ i < requestLen 13 [], base.hostReaches 31 (0x100400 + i) = false) ∧ (∀ i < requestLen 13 [], base.hostReaches 0 (0x100400 + i) = true) ∧
      base.rangeLocked 0x100400 (requestLen 13 []) = false ∧ pageHeld.rangeLocked 0x100400 (requestLen 13 []) = true ∧
      requestAmo 2 = some .add ∧ requestAmo 11 = some .cas ∧ 0x100400 % AmoOp.add.size = 0 ∧ base.poison.contains (lineOf 0x100400) = false := by
  and_intros <;> decide +kernel
theorem witness_HostAndFabricComplete_links :
    (flitOk zeroFlit = true ∧ flitSeq zeroFlit = (base.link 15).good + 1 ∧ flitOk [] = false ∧ flitSeq (makeFlit 1 0 (List.replicate 248 0)) ≠ (base.link 15).good + 1) ∧
    (base.link 15).replay.length < 1024 ∧ 1024 ≤ (fullLink.link 15).replay.length ∧ 7 ∉ base.failed ∧ 7 ∈ ({ base with failed := [7] } : State).failed := by
  refine ⟨⟨flitOk_makeFlit 0 0 _ List.length_replicate, by rw [zeroFlit, flitSeq_makeFlit]; decide +kernel, by decide, by rw [flitSeq_makeFlit]; decide +kernel⟩, ?_⟩
  and_intros <;> decide +kernel

/-- FWCMD, FWADDR and FWLEN. -/
def firmware (op comp addr len : Nat) : State :=
  base.setReg64 (vfAddr 32 0x1010) (BitVec.ofNat 64 (op + comp * 2 ^ 8)) |>.setReg64 (vfAddr 32 0x1018) (BitVec.ofNat 64 addr) |>.setReg64 (vfAddr 32 0x1020) (BitVec.ofNat 64 len)
    |>.setReg64 fwstat 1
/-- An image of component 4 stands in slot B; a reduction runs on base die 0; the other dies have switched; a DEVFAIL waits. -/
def loaded : State := { firmware 2 4 0 0 with fw := [{ comp := 4, slot := 1, version := 1, svn := 1, hash := [] }] }
def runningBase : State := { loaded with cmds := [{ copying .running with queue := 16 }] }
/-- Units of component 4 that have switched or can now. -/
def readyUnits (s : State) : List Nat := (List.range (switchUnits 4)).filter fun u => s.switched.contains u || s.unitReady 4 u
theorem witness_ServiceAndResetsComplete :
    ((firmware 1 4 1 0).fwcmd = some (1, 4) ∧ (firmware 1 4 1 0).devfail = [] ∧ (firmware 1 4 1 0).verify 4 = .error 1 ∧ (firmware 1 1 0x100400 255).verify 1 = .error 5) ∧
    ((firmware 2 4 0 0).fwcmd = some (2, 4) ∧ ((firmware 2 4 0 0).image 4 (1 - (firmware 2 4 0 0).activeSlot 4)).isNone = true) ∧
    ((firmware 3 0 0x100401 0).fwcmd = some (3, 0) ∧ fwAddrOk (firmware 3 0 0x100401 0).fwAddr = false ∧ fwAddrOk (firmware 3 0 0x100400 524427).fwAddr = true ∧
      (firmware 3 0 0x100400 524427).fwLen < 524428 ∧ 524428 ≤ (firmware 3 0 0x100400 524428).fwLen) ∧
    (({ base with halted := true } : State).halted = true ∧ State.reset.down = false ∧ State.reset.powered = false ∧
      ({ base with powered := true } : State).powered = true) := by and_intros <;> decide +kernel
theorem witness_ServiceAndResetsComplete_switch :
    (loaded.fwcmd = some (2, 4) ∧ (loaded.image 4 (1 - loaded.activeSlot 4)).isSome = true ∧ loaded.devfail = [] ∧ readyUnits loaded ≠ loaded.switched ∧
      readyUnits loaded = List.range (switchUnits 4)) ∧
    (runningBase.fwcmd = some (2, 4) ∧ readyUnits runningBase ≠ runningBase.switched ∧ (readyUnits runningBase).length < switchUnits 4) ∧
    readyUnits { runningBase with switched := List.range' 1 7 } = List.range' 1 7 := by and_intros <;> decide +kernel
/-- The debug port at a mapped address of partition 0, and the strand that reads it. -/
theorem witness_ServiceAndResetsComplete_debug : base.strand.part = 0 ∧ base.strand.live = true ∧ (0x100400 : Nat) < 2 ^ 52 ∧
    (base.translate base.strand.party 0x100400 .read).2 = .ok { key := 0x100400, unc := false } ∧ (regionOf 0x100400).isCtl = false := by and_intros <;> decide +kernel
/-- A DEVFAIL that waits for a switch which then ends. -/
theorem witness_ServiceAndResetsComplete_waiting : ∃ u, exec (.fwSwitch 4 false) { ({ loaded with devfail := [7] } : State) with devfail := [] } = .next u ∧ u.fwcmd = none :=
  ⟨_, rfl, by decide +kernel⟩
theorem witness_HostAndFabricComplete_failing : loaded.switching = true ∧ base.switching = false ∧ ∃ u, exec (.fatalErrorFlit 7) base = .next u := by
  exact ⟨by decide +kernel, by decide +kernel, _, rfl⟩

/-! ## Witnesses in a core's scratchpad -/

/-- s2 names the last line of the core's scratchpad, where purse 2 of the strand holds the indexes 0 and 1, and purse 8 the index 0 alone. -/
def scratched : State := hold (withReg lanes 2 0xFFE000007FFC0) 8 0 32 1
theorem scratched_inv : scratched.Inv := by unfold State.Inv; decide +kernel
theorem scratched_fresh : Fresh scratched := by unfold Fresh; decide +kernel
theorem witness_VectorLoadsComplete_scratch : UseOk scratched 0 fixedCode ∧ Fresh scratched ∧ scratched.strand.st.span = false ∧
    (let z := (codeOf scratched 0).fixedBits / 8
     (val scratched 2).toNat % z = 0 ∧ InScratch scratched (val scratched 2).toNat (min 4096 (scratched.strand.grant / (codeOf scratched 0).fixedBits) * z)) ∧
    min 4096 (scratched.strand.grant / (codeOf scratched 0).fixedBits) = 16 :=
  ⟨useOk_of (by decide +kernel), scratched_fresh, by unfold InScratch; decide +kernel⟩
theorem witness_VectorStoresComplete_scratch : scratched.Inv ∧ UseOk scratched 0 fixedCode ∧ Fresh scratched ∧
    (let n := min 4096 ((scratched.strand.purse (purseOf scratched 0)).fill / (codeOf scratched 0).fixedBits)
     n = 2 ∧ (val scratched 2).toNat % ((codeOf scratched 0).fixedBits / 8) = 0 ∧
      InScratch scratched (val scratched 2).toNat (n * ((codeOf scratched 0).fixedBits / 8))) ∧
    tarn1 scratched 2 = false ∧ tarn1 (scratched.mapStrand fun t => t.setReg 2 { val := 0xFFE000007FFC0, tarn := true }) 2 = true :=
  ⟨scratched_inv, useOk_of (by decide +kernel), scratched_fresh, by unfold InScratch; decide +kernel⟩
theorem witness_VectorAtomicsComplete_scratch : scratched.Inv ∧ UseOk scratched 2 wideInteger ∧ UseOk scratched 8 integerCode ∧ Fresh scratched ∧
    (elemsOf scratched 8).length = 1 ∧
    (let w := (codeOf scratched 2).fixedBits
     let z := w / 8
     let va := (val scratched 2 + BitVec.ofInt 64 (((valsOf scratched 8).headD (.zero false)).toInt * (z : Nat))).toNat
     w ≤ (scratched.strand.purse (purseOf scratched 2)).fill ∧ va % z = 0 ∧ InScratch scratched va z) :=
  ⟨scratched_inv, useOk_of (by decide +kernel), useOk_of (by decide +kernel), scratched_fresh, by decide +kernel, by unfold InScratch; decide +kernel⟩
/-- The line holds a frame of 64 bits and, at s9, a queue of eight words of one line: base the line before it, capacity 8, tail 3, index base 100. -/
def framed : State := put8 (put8 scratched (scratchOf scratched 0xFFE000007FFC0) 0x20040) (scratchOf scratched 0xFFE000007FFC8) 0x1234
def appending : State :=
  let at_ := fun (o : Nat) => scratchOf scratched (0xFFE000007FFC0 + o)
  put8 (put8 (put8 (put8 (scratched.mapStrand fun t => t.setMask 2 { bits := 5, tarn := false } |>.setMask 3 { bits := 4, tarn := false }) (at_ 0) 0xFFE000007FF80) (at_ 8) 8)
    (at_ 24) 3) (at_ 40) 100
theorem witness_SpillsAndAppendsComplete_scratch : (scratched.Inv ∧ purseOf scratched 0 < scratched.strand.vregs) ∧
    ((scratched.strand.purse (purseOf scratched 0)).fill ≤ 64 ∧ (val scratched 2).toNat % 8 = 0 ∧ InScratch scratched (val scratched 2).toNat 16) ∧
    (let h := Mem.readLE framed.mem (scratchOf framed (val framed 2).toNat) 8
     h < 2 ^ 21 ∧ h % 2 ^ 17 = 64 ∧ 64 ≤ framed.strand.grant ∧ (val framed 2).toNat % 8 = 0 ∧ InScratch framed (val framed 2).toNat 16) := by
  refine ⟨⟨scratched_inv, by decide +kernel⟩, ?_, ?_⟩ <;> (unfold InScratch; decide +kernel)
theorem witness_SpillsAndAppendsComplete_queue : (appending.Inv ∧ Fresh appending ∧ (2 : Nat) < 4096 ∧ ∀ i < 4096, (maskOf appending 3).bits.getLsbD i = decide (i = 2)) ∧
    (let va := (val appending 2).toNat
     let fld := fun (o n : Nat) => Mem.readLE appending.mem (scratchOf appending va + o) n
     let e := fld 0 8 + 4 * (fld 24 8 % fld 8 8)
     va % 64 = 0 ∧ InScratch appending va 64 ∧ fld 0 8 % 4 = 0 ∧ fld 8 8 ≠ 0 ∧ fld 24 8 + 1 ≤ fld 8 8 + fld 16 8 ∧ fld 24 8 + 1 < 2 ^ 64 ∧
       (fld 24 8 : Int) + 1 - fld 32 8 < (appending.strand.grant / 32 : Nat) ∧ InScratch appending e 4 ∧ e + 4 ≤ va) := by
  refine ⟨⟨?_, ?_, by decide, ?_⟩, ?_⟩
  · unfold State.Inv; decide +kernel
  · unfold Fresh; decide +kernel
  · have h : (maskOf appending 3).bits = (4 : BitVec 4096) := by decide +kernel
    intro i hi
    rw [h, show (4 : BitVec 4096) = BitVec.twoPow 4096 2 by decide +kernel, BitVec.getLsbD_twoPow]
    simp
    omega
  · unfold InScratch; decide +kernel

/-! ## Tile operands that trap -/

/-- A tile's header in a purse. -/
def putTile (s : State) (x : Tile) (fill : Nat) (tag : BitVec 3) : State :=
  s.mapStrand fun t => t.placePurse x.base { bits := 0, fill := fill, tag := tag, tarn := false, hdr0 := x.header, hdr1 := 0 }
/-- Beside the tiles of `tiled`: a group that reaches VREGS, a tile of another shape, one whose code is undefined, a full factor pair and an empty one. -/
def beyondTile : Tile := { base := 15, pair := true, qres := 2, q := 1, m := 16, n := 16, gl := 2 }
def wideTile : Tile := { base := 5, pair := true, qres := 2, q := 1, m := 32, n := 16, gl := 1 }
def oddTile : Tile := { base := 6, pair := true, qres := 2, q := 1, m := 16, n := 16, gl := 1 }
def fullTile : Tile := { base := 7, pair := true, qres := 2, q := 2, m := 16, n := 16, gl := 1 }
def emptyTile : Tile := { base := 8, pair := true, qres := 2, q := 0, m := 16, n := 16, gl := 1 }
def tileTraps : State :=
  putTile (putTile (putTile (putTile (putTile tiled beyondTile 1024 0) wideTile 1536 0) oddTile 1024 7) fullTile 2048 0) emptyTile 0 0
/-- s13 = 1 is KT and s12 names a descriptor whose ACODE, or BCODE, is the undefined code 7. -/
def badCodes (a b : Nat) : State := put8 tileTraps 0x1000A0 (a + 256 * b)
theorem tileTraps_tiles : TileAt tileTraps 0 denseTile ∧ TileAt tileTraps 1 pairTile ∧ TileAt tileTraps 7 fullTile ∧ TileAt tileTraps 8 emptyTile ∧
    TileBase tileTraps 0 denseTile ∧ TileBase tileTraps 1 pairTile ∧ TileBase tileTraps 5 wideTile ∧ TileBase tileTraps 6 oddTile := by
  unfold TileAt TileBase; decide +kernel
theorem witness_TilesAreShapedAndAdded_traps : ¬ (purseOf tileTraps 3 < tileTraps.strand.vregs ∧ (tileTraps.strand.tile? (purseOf tileTraps 3)).isSome = true) ∧
    (purseOf tileTraps 15 < tileTraps.strand.vregs ∧ tileTraps.strand.tile? (purseOf tileTraps 15) = some beyondTile ∧
      tileTraps.strand.vregs < beyondTile.base + beyondTile.gl) ∧
    (TileBase tileTraps 6 oddTile ∧ tileCodeOk tileTraps 6 oddTile = false) ∧ TileBase tileTraps 1 pairTile ∧
    (TileBase tileTraps 5 wideTile ∧ ¬ (wideTile.m = pairTile.m ∧ wideTile.n = pairTile.n) ∧ ¬ (wideTile.pair = true ∧ wideTile.m = pairTile.m)) := by
  unfold TileBase; decide +kernel
theorem witness_TilesAreShapedAndAdded_overflow : (TileAt tileTraps 7 fullTile ∧ fullTile.pair = true ∧ ¬ TakesDense tileTraps fullTile) ∧
    (TileAt tileTraps 0 denseTile ∧ denseTile.m = fullTile.m ∧ denseTile.n = fullTile.n ∧ ¬ (denseTile.pair = true ∧ fullTile.q + denseTile.q ≤ fullTile.qres)) ∧
    (purseOf tileTraps 3 < tileTraps.strand.vregs ∧ purseOf tileTraps 4 < tileTraps.strand.vregs ∧
      (∀ f ∈ [(7 : BitVec 7), 3, 4], (codeOf tileTraps f).valid = true ∧ (codeOf tileTraps f).isFp32 = true) ∧
      min (min (min 4096 ((tileTraps.strand.purse (purseOf tileTraps 3)).fill / 32) / 16) (min 4096 ((tileTraps.strand.purse (purseOf tileTraps 4)).fill / 32) / 16)) 32 = 1 ∧
      fullTile.qres < fullTile.q + 1) := by
  unfold TileAt TakesDense; decide +kernel
theorem witness_MatrixProductsComplete_codes : min (val tileTraps 13).toNat 65536 ≠ 0 ∧ TileAt (badCodes 7 0) 0 denseTile ∧ TileAt (badCodes 0 7) 0 denseTile ∧
    (∃ desc td s1, loadDescriptor (val (badCodes 7 0) 12) (badCodes 7 0) = .ok (desc, td) s1 ∧
      (((badCodes 7 0).strand.codeOf (BitVec.ofNat 3 (bitsAt desc 256 3))).valid &&
        operandOk (codeOf (badCodes 7 0) 0) ((badCodes 7 0).strand.codeOf (BitVec.ofNat 3 (bitsAt desc 256 3)))) = false) ∧
    (∃ desc td s1, loadDescriptor (val (badCodes 0 7) 12) (badCodes 0 7) = .ok (desc, td) s1 ∧
      (((badCodes 0 7).strand.codeOf (BitVec.ofNat 3 (bitsAt desc 256 3))).valid &&
        operandOk (codeOf (badCodes 0 7) 0) ((badCodes 0 7).strand.codeOf (BitVec.ofNat 3 (bitsAt desc 256 3)))) = true ∧
      (((badCodes 0 7).strand.codeOf (BitVec.ofNat 3 (bitsAt desc 264 3))).valid &&
        operandOk (codeOf (badCodes 0 7) 0) ((badCodes 0 7).strand.codeOf (BitVec.ofNat 3 (bitsAt desc 264 3)))) = false) := by
  refine ⟨by decide +kernel, by unfold TileAt; decide +kernel, by unfold TileAt; decide +kernel, ?_, ?_⟩
  · obtain ⟨⟨desc, td⟩, s1, h, hk⟩ := runs_iff (r := loadDescriptor (val (badCodes 7 0) 12) (badCodes 7 0))
      (k := fun p _ => decide ((((badCodes 7 0).strand.codeOf (BitVec.ofNat 3 (bitsAt p.1 256 3))).valid &&
        operandOk (codeOf (badCodes 7 0) 0) ((badCodes 7 0).strand.codeOf (BitVec.ofNat 3 (bitsAt p.1 256 3)))) = false)) (by decide +kernel)
    exact ⟨desc, td, s1, h, of_decide_eq_true hk⟩
  · obtain ⟨⟨desc, td⟩, s1, h, hk⟩ := runs_iff (r := loadDescriptor (val (badCodes 0 7) 12) (badCodes 0 7))
      (k := fun p _ => decide ((((badCodes 0 7).strand.codeOf (BitVec.ofNat 3 (bitsAt p.1 256 3))).valid &&
          operandOk (codeOf (badCodes 0 7) 0) ((badCodes 0 7).strand.codeOf (BitVec.ofNat 3 (bitsAt p.1 256 3)))) = true ∧
        (((badCodes 0 7).strand.codeOf (BitVec.ofNat 3 (bitsAt p.1 264 3))).valid &&
          operandOk (codeOf (badCodes 0 7) 0) ((badCodes 0 7).strand.codeOf (BitVec.ofNat 3 (bitsAt p.1 264 3)))) = false)) (by decide +kernel)
    exact ⟨desc, td, s1, h, of_decide_eq_true hk⟩
/-- TMMA into the full factor pair, whose TMODE.OVF is 0. -/
theorem witness_MatrixProductsComplete_overflow : TileAt tileTraps 7 fullTile ∧ fullTile.pair = true ∧ ¬ TakesDense tileTraps fullTile ∧
    ∃ desc td s1 dm tm s2 ra ta s3 rb tb s4, loadDescriptor (val tileTraps 12) tileTraps = .ok (desc, td) s1 ∧ loadMap true fullTile 1 s1 = .ok (dm, tm) s2 ∧
      loadRows { base := descWord desc 0, stride := descWord desc 2, rows := 16, code := tileTraps.strand.codeOf (BitVec.ofNat 3 (bitsAt desc 256 3)), scales := getBits tileTraps.strand.ctl.tmode.val 18 16 } 1 0 16 s2 = .ok (ra, ta) s3 ∧
      loadRows { base := descWord desc 1, stride := descWord desc 3, rows := 16, code := tileTraps.strand.codeOf (BitVec.ofNat 3 (bitsAt desc 264 3)), scales := getBits tileTraps.strand.ctl.tmode.val 34 16 } 1 0 16 s3 = .ok (rb, tb) s4 := by
  refine ⟨tileTraps_tiles.2.2.1, rfl, by unfold TakesDense; decide +kernel, ?_⟩
  obtain ⟨⟨desc, td⟩, s1, h1, hk⟩ := runs_iff (r := loadDescriptor (val tileTraps 12) tileTraps)
    (k := fun p s1 => runs (loadMap true fullTile 1 s1) fun _ s2 =>
      runs (loadRows { base := descWord p.1 0, stride := descWord p.1 2, rows := 16, code := tileTraps.strand.codeOf (BitVec.ofNat 3 (bitsAt p.1 256 3)), scales := getBits tileTraps.strand.ctl.tmode.val 18 16 } 1 0 16 s2) fun _ s3 =>
      runs (loadRows { base := descWord p.1 1, stride := descWord p.1 3, rows := 16, code := tileTraps.strand.codeOf (BitVec.ofNat 3 (bitsAt p.1 264 3)), scales := getBits tileTraps.strand.ctl.tmode.val 34 16 } 1 0 16 s3) fun _ _ => true) (by decide +kernel)
  obtain ⟨⟨dm, tm⟩, s2, h2, hk⟩ := runs_iff hk
  obtain ⟨⟨ra, ta⟩, s3, h3, hk⟩ := runs_iff hk
  obtain ⟨⟨rb, tb⟩, s4, h4, _⟩ := runs_iff hk
  exact ⟨desc, td, s1, dm, tm, s2, ra, ta, s3, rb, tb, s4, h1, h2, h3, h4⟩
/-- TMMAL from an empty factor pair, and into a full one. -/
theorem witness_MatrixProductsComplete_lowCorners : (TileAt tileTraps 8 emptyTile ∧ emptyTile.pair = true ∧ emptyTile.m = denseTile.m ∧ emptyTile.q = 0) ∧
    (TileAt tileTraps 1 pairTile ∧ pairTile.pair = true ∧ pairTile.m = fullTile.m ∧ pairTile.q ≠ 0 ∧ ¬ TakesDense tileTraps fullTile) := by
  refine ⟨⟨tileTraps_tiles.2.2.2.1, rfl, rfl, rfl⟩, tileTraps_tiles.2.1, rfl, rfl, by decide, by unfold TakesDense; decide +kernel⟩

/-! ## Waiting behind a locked page, and the corners of the scalar forms -/

/-- The core's oldest store waits for the locked page 512, at 0x200000. -/
def heldStore (s : State) : State :=
  { s with cores := [{ core := 0, ages := [0, 0, 0, 0], last := 3, score := [], fifo := [{ place := 0, key := 0x200000, data := [1], tarn := false }] }], locked := [512] }
/-- A strand of another die, whose core holds a copy of its word's line and a store to it; and the line poisoned at its home since. -/
def distant (poison : List Nat) : State :=
  { pointed.mapStrand fun t => { t with place := 256 } with
    guests := [{ core := 64, line := 0x4001, data := List.replicate 64 7, tarn := false, poison := false }], poison := poison,
    cores := [{ core := 64, ages := [0, 0, 0, 0], last := 3, score := [], fifo := [{ place := 256, key := 0x100048, data := [1], tarn := false }] }] }
/-- An acquire load of package scope finds its line sound at its home, or poisoned; or it waits for nothing and acts as the load. -/
theorem witness_LoadsComplete_acquire :
    (∃ s1 x, Passes (distant [0x4001]) .read (eaUnsigned (distant [0x4001]) 2 0 3) 8 s1 x ∧ s1.drainBlocked (coreOf s1.strand.place) = false ∧
      s1.poison.contains (lineOf x.key) = true) ∧
    (∃ s1 x, Passes (distant []) .read (eaUnsigned (distant []) 2 0 3) 8 s1 x ∧ s1.drainBlocked (coreOf s1.strand.place) = false ∧
      s1.poison.contains (lineOf x.key) = false) := by
  refine ⟨?_, ?_⟩
  · obtain ⟨s1, x, h, hk⟩ := passed_iff (s := distant [0x4001]) (o := .read) (va := eaUnsigned (distant [0x4001]) 2 0 3) (z := 8)
      (k := fun t x => !t.drainBlocked (coreOf t.strand.place) && t.poison.contains (lineOf x.key)) (by decide +kernel)
    rw [Bool.and_eq_true] at hk
    exact ⟨s1, x, h, by simpa using hk.1, hk.2⟩
  · obtain ⟨s1, x, h, hk⟩ := passed_iff (s := distant []) (o := .read) (va := eaUnsigned (distant []) 2 0 3) (z := 8)
      (k := fun t x => !t.drainBlocked (coreOf t.strand.place) && !t.poison.contains (lineOf x.key)) (by decide +kernel)
    rw [Bool.and_eq_true] at hk
    exact ⟨s1, x, h, by simpa using hk.1, by simpa using hk.2⟩
/-- A release store whose core has a store that waits. -/
theorem witness_StoresComplete_held : (heldStore pointed).strand.canRun = true ∧ 4 ≤ (4 : BitVec 3).toNat ∧ (3 : BitVec 3).toNat < 4 ∧
    ∃ s1 x, Passes (heldStore pointed) .write (eaUnsigned (heldStore pointed) 2 0 3) 8 s1 x ∧ CleanOk s1 (eaUnsigned (heldStore pointed) 2 0 3) 8 false ∧
      s1.drainBlocked (coreOf s1.strand.place) = true := by
  refine ⟨by decide +kernel, by decide, by decide, ?_⟩
  obtain ⟨s1, x, h, hk⟩ := passed_iff (s := heldStore pointed) (o := .write) (va := eaUnsigned (heldStore pointed) 2 0 3) (z := 8)
    (k := fun t _ => t.drainBlocked (coreOf t.strand.place)) (by decide +kernel)
  exact ⟨s1, x, h, .inl rfl, hk⟩
/-- A core whose store waits, and one without; a handler that returns to the load it handles, whose restart point is 0, and one that does not. -/
def handling (pc : Addr) : State :=
  (withCtl base fun c => { c with tpc := .of 0x100010 }).mapStrand fun t => { t with
    st := { t.st with tr := true },
    outer := some { pc := pc, purse := 4, bits := 0, fill := 0, tarn := false, mask := false, dirty := false, first := true } }
theorem witness_SystemInstructions_held : (heldStore base).drainBlocked (coreOf (heldStore base).strand.place) = true ∧
    base.drainBlocked (coreOf base.strand.place) = false ∧ returnsWith (handling 0x100010) ≠ none ∧ returnsWith (handling 0x100020) = none ∧
    (handling 0x100010).strand.ctl.resume.val = 0 := by decide +kernel
/-- Its status words, in a locked page that nothing else of the machine uses. -/
def statusAt (s : State) : State :=
  { s with
    launches := [{ pairLaunch with id := s.strand.launch, levels := [], statarr := 0x100800 }], locked := [256] }
theorem witness_ExitEndsTheStrand_held : (heldStore base).strand.run = .ready ∧ (∀ c ∈ (heldStore base).cmds, ∀ u v w, c.phase ≠ .owes u v w) ∧
    (heldStore base).drainBlocked (coreOf (heldStore base).strand.place) = true ∧ (statusAt base).statusLocked (statusAt base).strand = true ∧
    (base.drainBlocked (coreOf base.strand.place) = false ∧ base.statusLocked base.strand = false) := by
  refine ⟨by decide +kernel, fun c hc => ?_, by decide +kernel, by decide +kernel, by decide +kernel⟩
  rw [show (heldStore base).cmds = [] by decide +kernel] at hc
  cases hc
theorem witness_CacheControlCompletes_held : (heldStore base).drainBlocked (coreOf (heldStore base).strand.place) = true ∧
    base.drainBlocked (coreOf base.strand.place) = false := by decide +kernel
/-- A span strand of the cores 0 and 1 that is to leave core 0, with a command at work there and with none. -/
def leaving (cs : List Cmd) : State :=
  { (base.mapStrand fun t => { t with segs := [0, 4], prepSegs := some [4], st := { t.st with span := true, rgp := true } }) with cmds := cs }
theorem witness_MasksAndGrantsComplete_leaving : (leaving [copying .queued]).strand.shifts = true ∧ (leaving [copying .queued]).cmdsAtWork (leaving [copying .queued]).strand = true ∧
    (leaving []).cmdsAtWork (leaving []).strand = false ∧ (leaving []).drainBlocked (coreOf (leaving []).strand.place) = false ∧
    (heldStore (leaving [])).drainBlocked (coreOf (heldStore (leaving [])).strand.place) = true ∧ base.strand.shifts = false := by decide +kernel
/-- SETVL of a strand of one segment in either context, of a span strand in either, and one that changes nothing. -/
def spanning (d : Bool) : State := base.mapStrand fun t => { t with segs := [0, 4], st := { t.st with span := true, d := d } }
theorem witness_GrantNegotiation_forms : (base.strand.reserve ≤ 12 ∧ base.strand.live = true ∧ ¬ ((base.setvl 1024 4 false).strand.st.span = true ∧ (base.setvl 1024 4 false).strand.segs ≠ [])) ∧
    ((strict.strand.st.d = true ∧ strict.strand.live = true) ∧ ¬ ((strict.setvl 1024 4 false).strand.st.span = true ∧ (strict.setvl 1024 4 false).strand.segs ≠ [])) ∧
    (∀ d ∈ [true, false], (spanning d).strand.live = true ∧ ((spanning d).setvl 1024 4 false).strand.st.span = true ∧
      ((spanning d).setvl 1024 4 false).strand.segs = [0, 4] ∧ (spanning d).strand.shifts = false) ∧
    (base.setvl 1024 4 false).strand.grant ≠ base.strand.grant ∧
    ((base.setvl 1024 4 false).setvl 1024 4 false).strand.grant = (base.setvl 1024 4 false).strand.grant ∧
    ((base.setvl 1024 4 false).setvl 1024 4 false).strand.ctl.share.val = (base.setvl 1024 4 false).strand.ctl.share.val ∧ (leaving []).strand.shifts = true := by decide +kernel

/-! ## Upkeep, clusters, nodes and registers: the conditions of single clauses -/

/-- A store of core 0 to the word at 0x100400, with nothing in its way, to a block whose metadata is lost, and to a locked page. -/
def draining (s : State) : State :=
  { s with cores := [{ core := 0, ages := [0, 0, 0, 0], last := 3, score := [], fifo := [{ place := 0, key := 0x100400, data := [1], tarn := false }] }] }
def lostMeta (s : State) : State := { s with compressed := [256], upsets := [(metaUnit (0x100400 / 256), 1)] }
theorem witness_SearchAndSliceSteps_fifo : ((0x100400 / 4096 : Nat) ∉ (draining base).locked ∧ (draining base).metaGone 0x100400 = false) ∧
    ((0x100400 / 4096 : Nat) ∉ (draining (lostMeta base)).locked ∧ (draining (lostMeta base)).metaGone 0x100400 = true) ∧
    ((0x100400 / 4096 : Nat) ∈ ({ draining base with locked := [256] } : State).locked) := by decide +kernel
theorem witness_EnginesPerform_chunks : (engines [twoChunks]).frozenQ.contains twoChunks.queue = false ∧ twoChunks.phase ≠ .signalled ∧ twoChunks.phase ≠ .dropped ∧
    (engines [twoChunks]).cmd? 5 = some twoChunks ∧ twoChunks.tellable ≠ [] ∧ ¬ (twoChunks.untold.length ≤ 1) := by decide +kernel
/-- The page at 0x100000 of `base` may move to 0x200000: with frame 256 queued, with it and no other, in a failed band, and not at all. -/
theorem witness_MemoryUpkeep_moves : (base.migrate? 256 512 0x3000 0).any (fun t => decide (t.migrate = [])) = true ∧
    (({ base with migrate := [256] } : State).migrate? 256 512 0x3000 0).any (fun t => decide (t.migrate = [256])) = true ∧
    (base.migrate? 256 256 0x3000 0) = none ∧ base.Inv ∧ base.flips = [] ∧ (∀ c ∈ base.cores, c.fifo = []) ∧
    (let e := base.tableWord 0x3000 0
     leafPa e = 0x100000 ∧ pageBytes (leafSize e) = 4096 ∧ (pageLevel (leafSize e)).map (·.2) = some 1 ∧ (0x3000 + 8 ≤ leafPa e) ∧ 0x3000 + 8 ≤ 512 * 4096) := by
  refine ⟨by decide +kernel, by decide +kernel, by decide +kernel, base_canonical, by decide +kernel⟩
theorem witness_MemoryUpkeep_resume : (let s : State := { pooled 0 with stalled := [stalledPage], locked := [256] }
    s.stalled = [stalledPage] ∧ stalledPage.slice < 32 ∧ stalledPage.need ≤ s.freeChunks 0 0 + 2 ∧ s.freeChunks 0 0 + 2 < 2 ^ 32 ∧
      (∀ r ∈ s.records, r.posted = true) ∧ getBits (s.reg64 (vfAddr 0 0x10)) 32 32 = 0) := by decide +kernel

theorem witness_ContextsAreSavedAndMoved_retire : (drained true).clusterState 0 = 1 ∧ (heldStore (drained true)).clusterHeld 0 = true ∧
    ((drained true).clusterHeld 0 = false ∧ (drained false).clusterHeld 0 = false ∧ beside.clusterHeld 0 = false ∧ resizingOut.clusterHeld 0 = false) ∧
    (let s := (drained false).setReg64 (descAddr 0 0x08) 0
     s.clusterState 0 = 1 ∧ s.clusterSaved 0 = true ∧ s.clusterBusy 0 = false ∧ s.clusterHeld 0 = false ∧ s.clusterPart 0 = none) ∧
    beside.clusterTarget 0 0 1 = true ∧ (∀ d < 32, (drained true).clusterTarget 0 0 d = false) := by decide +kernel

theorem witness_NodesAreDispatched_waiting : (∀ p ∈ [4], base.drainBlocked (coreOf p) = false) ∧ (heldStore base).drainBlocked (coreOf 0) = true ∧
    ((graph []).hubWritable 0 0x100600 = true ∧ (graph []).hubLocked 0 0x100600 8 = false ∧
      ({ graph [] with locked := [256] } : State).hubWritable 0 0x100600 = true ∧ ({ graph [] with locked := [256] } : State).hubLocked 0 0x100600 8 = true) ∧
    (((graph []).hubTouch 0 0x100600 8).hubRead 0 0x100600 8).isSome = true ∧ ((graph []).hubTouch 0 0 8).hubRead 0 0 8 = none := by
  and_intros <;> decide +kernel
/-- A node whose status word at 0x100600 lies in a locked page, and one of a JOIN's whose wake does. -/
def reporting : Node := { nodeOf 2 0 with bytes := leBytes 128 (2 + 0x100600 * 2 ^ 64), state := 1 }
theorem witness_NodesEnd_locked : ({ graph [reporting] with locked := [256] } : State).endLocked reporting = true ∧ (graph [reporting]).endLocked reporting = false ∧
    reporting.phase ≠ .ended ∧ ({ graph [nodeOf 11 0x100600] with locked := [256] } : State).endLocked (nodeOf 11 0x100600) = true ∧
    (graph [nodeOf 11 (2 ^ 384 + 2 * 2 ^ 128), childOf 3]).endLocked (nodeOf 11 (2 ^ 384 + 2 * 2 ^ 128)) = false ∧
    (graph [nodeOf 11 (2 ^ 391)]).endLocked (nodeOf 11 (2 ^ 391)) = false ∧ (closing (nodeOf 12 0)).endLocked (nodeOf 12 0) = false := by
  and_intros <;> decide +kernel

theorem witness_RegisterWritesComplete_translations : (heldStore base).partBlocked 0 = true ∧ base.partBlocked 0 = false ∧ base.ownsCluster 0 (0 / 8) = true ∧
    ((base.reg64 (coreCtl 255 + 0x40)).getLsbD 7 = true ∧ (gated.reg64 (coreCtl 0 + 0x40)).getLsbD 2 = false ∧ (4 : BitVec 64).getLsbD 2 = true) := by decide +kernel
/-- A write to TROOT behind a locked page; and a host's write of part of a block whose metadata is lost. -/
theorem witness_HostAndFabricComplete_waits : (HostMay (heldStore base) 32 (descAddr 0 0x30) 8 ∧ (heldStore base).regWaits (descAddr 0 0x30) 8 = true) ∧
    (base.regWaits (descAddr 0 0x30) 8 = false ∧ base.regWaits 0x100400 8 = false) ∧
    (HostMay (lostMeta base) 0 0x100400 8 ∧ (lostMeta base).regWaits 0x100400 8 = false ∧ (regionOf 0x100400).isCtl = false ∧ (lostMeta base).metaGone 0x100400 = true ∧
      0x100400 % 256 + 8 ≤ 256) ∧
    (∀ i < 8, base.hostReaches 0 (0x100400 + i) = true) ∧ base.flips = [] ∧ base.upsets = [] := by
  unfold HostMay; and_intros <;> decide +kernel
theorem witness_PartitionCommandsComplete_whole : ∀ k < 32, ((commanded staying 0 0x42).nextDesc 0 0x08).getLsbD k = true → (commanded staying 0 0x42).clusterState k ≠ 2 := by
  decide +kernel
theorem witness_PartitionCommandsComplete_bands : ∀ b < 64, ((commanded staying 0 0x42).nextDesc 0 0x10).getLsbD b = true → b ∈ (commanded staying 0 0x42).badBands →
    ((commanded staying 0 0x42).cur 0 0x10).getLsbD b = true := by
  decide +kernel
/-- An image outside the partition's memory is refused whatever its bytes are. -/
theorem witness_ServiceAndResetsComplete_verify : (let s := firmware 1 1 0x100400 255
    (s.reachRange s.fwAddr (min s.fwLen (256 + leNat (Mem.bytes s.mem (s.fwAddr + 16) 8))) false).verify 1 = .error 5) ∧ (0x100400 + 8 * 8 : Nat) ≤ 2 ^ 48 := by
  and_intros <;> decide +kernel

end Sys2Proof.Tests
end

section
/-! Every step keeps memory canonical (R13, R298): the invariant, and what it means that a meaning keeps it. One lemma per operation of the model
then follows the operation's own branches, so that a lemma's proof reads as the operation does. -/

namespace Sys2Proof.Machine

/-- The invariant as a structure, so that a proof about an updated state is found by its head symbol and not by unfolding the state. -/
structure State.Canonical (s : State) : Prop where
  wf : Memory.wf s.mem = true

/-- A state is canonical whose memory is, whatever its other fields hold. The fields stand one by one, so that an update of a state is matched
without unfolding what it updates. -/
theorem State.Canonical.of_wf {
    strand parked agenda fresh ticks resetAt coldAt mem tarn poison dev oldCode tlb guests assay resv escrow phases barriers cores
    cmds nextCmd frozenQ stored ordStreams ordEntries queries launches nodes held records hostHeld msix msixHeld chipUnits parity
    upsets flips l1Errors failures compressed locked stalled migrate retired badBands scrubs links failed devfail fw switched
    chron powered throttle down breaks halted goOn reply nonVolatile}
    (h : Memory.wf mem = true) : State.Canonical ⟨
      strand, parked, agenda, fresh, ticks, resetAt, coldAt, mem, tarn, poison, dev, oldCode, tlb, guests, assay, resv, escrow,
      phases, barriers, cores, cmds, nextCmd, frozenQ, stored, ordStreams, ordEntries, queries, launches, nodes, held, records,
      hostHeld, msix, msixHeld, chipUnits, parity, upsets, flips, l1Errors, failures, compressed, locked, stalled, migrate,
      retired, badBands, scrubs, links, failed, devfail, fw, switched, chron, powered, throttle, down, breaks, halted, goOn,
      reply, nonVolatile⟩ := ⟨h⟩

/-- The state in which a meaning ends, whatever it ends with. -/
def endState {ε α : Type} : EStateM.Result ε State α → State
  | .ok _ t => t
  | .error _ t => t

/-- A meaning keeps memory canonical, also where it stops. -/
structure Keeps {ε α : Type} (m : EStateM ε State α) : Prop where
  run : ∀ s : State, s.Canonical → (endState (m s)).Canonical

/-- Where an outcome gives a next state, its memory is canonical. -/
inductive NextCanonical : Host.Outcome State Fault Refusal → Prop
  | next {t : State} (h : t.Canonical) : NextCanonical (.next t)
  | fault {r : Fault} : NextCanonical (.fault r)
  | refused {r : Refusal} : NextCanonical (.refused r)

theorem NextCanonical.ite {c : Prop} {_ : Decidable c} {o o' : Host.Outcome State Fault Refusal} (h : NextCanonical o)
    (h' : NextCanonical o') : NextCanonical (if c then o else o') := by
  split <;> assumption

namespace Keeps

variable {ε α β : Type} {m m' : EStateM ε State α} {f : α → EStateM ε State β}

theorem pure {a : α} : Keeps (Pure.pure a : EStateM ε State α) := ⟨fun _ h => h⟩
theorem throw {e : ε} : Keeps (MonadExcept.throw e : EStateM ε State α) := ⟨fun _ h => h⟩
theorem raise {e : Trap} : Keeps (Machine.raise e : M α) := ⟨fun _ h => h⟩
theorem getS : Keeps Machine.getS := ⟨fun _ h => h⟩
theorem set {t : State} (h : t.Canonical) : Keeps (MonadStateOf.set t : EStateM ε State PUnit) := ⟨fun _ _ => h⟩
theorem modS {f : Strand → Strand} : Keeps (Machine.modS f) := ⟨fun _ h => ⟨h.wf⟩⟩

theorem bind (hm : Keeps m) (hf : ∀ a, Keeps (f a)) : Keeps (m >>= f) := by
  refine ⟨fun s h => ?_⟩
  have hs := hm.run s h
  simp only [Bind.bind, EStateM.bind]
  split
  · next e => rw [e] at hs; exact (hf _).run _ hs
  · next e => rw [e] at hs; exact hs

theorem get_bind {f : State → EStateM ε State β} (hf : ∀ s : State, s.Canonical → Keeps (f s)) : Keeps (MonadState.get >>= f) :=
  ⟨fun s h => (hf s h).run s h⟩

theorem ite {c : Prop} {_ : Decidable c} (h : Keeps m) (h' : Keeps m') : Keeps (if c then m else m') := by
  split <;> assumption

/-- What stands behind an `if` without `else`: the step where the condition holds, and what follows either way. -/
theorem whenThen {c : Prop} {_ : Decidable c} {m : EStateM ε State PUnit} {f : PUnit → EStateM ε State β} (h : Keeps m)
    (hf : ∀ a, Keeps (f a)) : Keeps (if c then m >>= f else f ⟨⟩) := .ite (.bind h hf) (hf _)

theorem unlessThen {c : Prop} {_ : Decidable c} {m : EStateM ε State PUnit} {f : PUnit → EStateM ε State β} (h : Keeps m)
    (hf : ∀ a, Keeps (f a)) : Keeps (if c then f ⟨⟩ else m >>= f) := .ite (hf _) (.bind h hf)

theorem eitherThen {c : Prop} {_ : Decidable c} (h : Keeps m) (h' : Keeps m') (hf : ∀ a, Keeps (f a)) :
    Keeps (if c then m >>= f else m' >>= f) := .ite (.bind h hf) (.bind h' hf)

theorem of_ok {s t : State} {a : α} (hm : Keeps m) (h : s.Canonical) (e : m s = .ok a t) : t.Canonical := by
  have hs := hm.run s h
  rwa [e] at hs

theorem of_error {s t : State} {a : ε} (hm : Keeps m) (h : s.Canonical) (e : m s = .error a t) : t.Canonical := by
  have hs := hm.run s h
  rwa [e] at hs

end Keeps

theorem Keeps.modify {ε : Type} {f : State → State} (h : ∀ s : State, s.Canonical → (f s).Canonical) :
    Keeps (modify f : EStateM ε State PUnit) := ⟨h⟩

namespace State.Canonical

variable {α : Type} {s t : State}

theorem ite {c : Prop} {_ : Decidable c} (h : s.Canonical) (h' : t.Canonical) : (if c then s else t).Canonical := by
  split <;> assumption

theorem fst_ite {c : Prop} {_ : Decidable c} {p q : State × α} (h : p.1.Canonical) (h' : q.1.Canonical) :
    (if c then p else q).1.Canonical := by
  split <;> assumption

theorem of_fst {p : State × α} {r : α} (h : p.1.Canonical) (e : p = (t, r)) : t.Canonical := by
  rwa [e] at h

theorem foldl {f : State → α → State} {l : List α} (h : s.Canonical) (hf : ∀ (u : State) x, u.Canonical → (f u x).Canonical) :
    (l.foldl f s).Canonical :=
  List.foldlRecOn l f h fun u hu x _ => hf u x hu

theorem fst_foldl {β : Type} {f : State × α → β → State × α} {l : List β} {p : State × α} (h : p.1.Canonical)
    (hf : ∀ (u : State × α) x, u.1.Canonical → (f u x).1.Canonical) : (l.foldl f p).1.Canonical :=
  List.foldlRecOn (motive := fun p : State × α => p.1.Canonical) l f h fun u hu x _ => hf u x hu

end State.Canonical

/-- A memory from which entries are left out stays canonical. -/
theorem Mem.wfFrom_filter {m : List Host.Cell} {lo : Option Nat} (p : Host.Cell → Bool) (h : Mem.wfFrom lo m = true) :
    Mem.wfFrom lo (m.filter p) = true := by
  induction m generalizing lo with
  | nil => rfl
  | cons c xs ih =>
    obtain ⟨k, b⟩ := c
    simp only [Mem.wfFrom, Bool.and_eq_true] at h
    obtain ⟨⟨hlo, hb⟩, hxs⟩ := h
    rw [List.filter_cons]
    split
    · simp only [Mem.wfFrom, Bool.and_eq_true]
      exact ⟨⟨hlo, hb⟩, ih hxs⟩
    · cases lo with
      | none => exact Mem.wf_of_wfFrom (ih hxs)
      | some l => exact Mem.wfFrom_mono (ih hxs) (Nat.le_of_lt (of_decide_eq_true hlo))

theorem Memory.wf_clear {m : List Host.Cell} (a n : Nat) (h : Memory.wf m = true) : Memory.wf (Mem.clear m a n) = true :=
  Mem.wfFrom_filter _ h

theorem Memory.wf_move {m : List Host.Cell} (a b n : Nat) (h : Memory.wf m = true) : Memory.wf (Mem.move m a b n) = true := by
  unfold Mem.move
  exact List.foldlRecOn (motive := fun m => Memory.wf m = true) _ _ (Memory.wf_clear _ _ h) fun _ h _ _ => Memory.wf_write _ _ h

end Sys2Proof.Machine
end

section
/-! Steps keep memory canonical: registers, HBM, and the operations that every unit shares. -/

namespace Sys2Proof.Machine

variable {s : State}

theorem State.Canonical.reset : State.reset.Canonical := ⟨Memory.wf_reset⟩
theorem State.Canonical.setReg64 {a v} (h : s.Canonical) : (s.setReg64 a v).Canonical := ⟨h.wf⟩
theorem State.Canonical.setField {a lo n v} (h : s.Canonical) : (s.setField a lo n v).Canonical := h.setReg64
theorem State.Canonical.setRec {stack pch v} (h : s.Canonical) : (s.setRec stack pch v).Canonical := h.setField
theorem State.Canonical.request {k} (h : s.Canonical) : (s.request k).Canonical :=
  .ite (.setRec (.ite h.setField h)) (.ite h.setField h)
theorem State.Canonical.countCorrected {k} (h : s.Canonical) : (s.countCorrected k).Canonical := h.setField
theorem State.Canonical.countFailed {k} (h : s.Canonical) : (s.countFailed k).Canonical := h.setField
theorem State.Canonical.noteCorrection {frame} (h : s.Canonical) : (s.noteCorrection frame).Canonical := ⟨h.wf⟩

theorem State.Canonical.putSector {line data} (h : s.Canonical) : (s.putSector line data).Canonical := by
  refine ⟨?_⟩
  unfold State.putSector
  dsimp only
  split
  · exact h.wf
  · exact Memory.wf_put _ _ h.wf

theorem State.Canonical.putUnit {unit data} (h : s.Canonical) : (s.putUnit unit data).Canonical :=
  .of_wf (State.Canonical.wf (h.foldl fun _ _ h1 => h1.putSector))
theorem State.Canonical.handleUnit {line} (h : s.Canonical) : (s.handleUnit line).Canonical :=
  .ite h.putUnit.countCorrected.noteCorrection (.of_wf (State.Canonical.wf (.countFailed (h.foldl fun _ _ h1 => h1.putSector))))
theorem State.Canonical.readSector {line} (h : s.Canonical) : (s.readSector line).Canonical :=
  .ite h (.ite (.of_wf h.putSector.wf) h.handleUnit)
theorem State.Canonical.strike {unit failing correctable} (h : s.Canonical) : (s.strike unit failing correctable).Canonical :=
  ⟨h.wf⟩
theorem State.Canonical.reachHbm {k whole} (h : s.Canonical) : (s.reachHbm k whole).Canonical :=
  .ite h (.ite ⟨h.wf⟩ (.ite (.request ⟨h.wf⟩) (.readSector (.request ⟨h.wf⟩))))
theorem State.Canonical.reachRange {k n write} (h : s.Canonical) : (s.reachRange k n write).Canonical :=
  .ite h (h.foldl fun _ _ h1 => h1.reachHbm)
theorem State.Canonical.writeCells {k n} (h : s.Canonical) : (s.writeCells k n).Canonical := .ite h ⟨h.wf⟩
theorem State.Canonical.mapStrand {f} (h : s.Canonical) : (s.mapStrand f).Canonical := ⟨h.wf⟩
theorem State.Canonical.updateAt {place f} (h : s.Canonical) : (s.updateAt place f).Canonical := ⟨h.wf⟩

theorem State.Canonical.touchTables {part va n a} (h : s.Canonical) : (s.touchTables part va n a).Canonical := by
  induction n generalizing s a with
  | zero => exact h
  | succ n ih => exact .ite h (.ite h.reachHbm (ih h.reachHbm))

theorem State.Canonical.touchWalk {part va} (h : s.Canonical) : (s.touchWalk part va).Canonical := .ite h h.touchTables
theorem State.Canonical.cacheLeaf {part va e addr} (h : s.Canonical) : (s.cacheLeaf part va e addr).Canonical :=
  .ite ⟨h.wf⟩ ⟨h.wf⟩
theorem State.Canonical.setAD {addr e a} (h : s.Canonical) : (s.setAD addr e a).Canonical :=
  .ite h (.writeCells (.of_wf (Memory.wf_writeLE _ _ _ h.wf)))

theorem State.Canonical.useEntry {q e va a addr} (h : s.Canonical) :
    (match s.useLeaf q e va a with
      | .error f => (s, Except.error f)
      | .ok x => ((s.setAD addr e a).cacheLeaf q.part va (e ||| a.marks) addr, Except.ok x)).1.Canonical := by
  split
  · exact h
  · exact h.setAD.cacheLeaf

theorem State.Canonical.translateNow {q va a} (h : s.Canonical) : (s.translateNow q va a).1.Canonical := by
  refine .fst_ite h (.fst_ite h ?_)
  dsimp only
  split
  · split
    · exact h
    · exact h.useEntry
  · have hu : State.Canonical { s with fresh := s.fresh + 1 } := ⟨h.wf⟩
    split
    · exact hu.useEntry
    · split
      · exact hu
      · exact hu.useEntry

theorem State.Canonical.translate {q va a} (h : s.Canonical) : (s.translate q va a).1.Canonical :=
  .translateNow (.ite h h.touchWalk)
theorem State.Canonical.breakLinks {by_ line} (h : s.Canonical) : (s.breakLinks by_ line).Canonical := ⟨h.wf⟩
theorem State.Canonical.noteStore {det k n} (h : s.Canonical) : (s.noteStore det k n).Canonical := ⟨h.wf⟩
theorem State.Canonical.hubPut {part k bs} (h : s.Canonical) : (s.hubPut part k bs).Canonical :=
  .ite ⟨h.wf⟩ (.foldl (.noteStore (.writeCells (.of_wf (Memory.wf_put _ _ h.reachRange.wf)))) fun _ _ h1 => h1.breakLinks)

theorem State.Canonical.hubBytes {part n va bs} (h : s.Canonical) : (s.hubBytes part n va bs).Canonical := by
  induction n generalizing s va bs with
  | zero => exact h
  | succ n ih =>
    cases bs with
    | nil => exact h
    | cons b bs =>
      refine ih ?_
      dsimp only
      split
      · exact h.translate.hubPut
      · exact h.translate

theorem State.Canonical.hubWrite {part va bs} (h : s.Canonical) : (s.hubWrite part va bs).Canonical := by
  refine h.hubBytes.foldl fun _ _ h1 => ?_
  split
  · exact ⟨h1.wf⟩
  · exact h1

theorem State.Canonical.interrupt {fn vec} (h : s.Canonical) : (s.interrupt fn vec).Canonical := .ite ⟨h.wf⟩ ⟨h.wf⟩
theorem State.Canonical.enterRecord {ring words} (h : s.Canonical) : (s.enterRecord ring words).Canonical :=
  .ite h.hubWrite.setField.interrupt h.hubWrite.setField
theorem State.Canonical.chronicle {source part cause a0 a1} (h : s.Canonical) : (s.chronicle source part cause a0 a1).Canonical :=
  .ite h ⟨h.wf⟩
theorem State.Canonical.chronicleRecord {ring kind words place cmd} (h : s.Canonical) :
    (s.chronicleRecord ring kind words place cmd).Canonical :=
  .ite h.chronicle (.ite h.chronicle h.chronicle)
theorem State.Canonical.postRecord {ring kind words place cmd} (h : s.Canonical) : (s.postRecord ring kind words place cmd).1.Canonical :=
  .ite (.of_wf h.chronicleRecord.wf) (.enterRecord (.of_wf h.chronicleRecord.wf))

theorem State.Canonical.stopStrand {route nest vec x} (h : s.Canonical) : (s.stopStrand route nest vec x).Canonical := by
  unfold State.stopStrand
  exact h.postRecord.mapStrand

theorem State.Canonical.takeTrap {vec next x} (h : s.Canonical) : (s.takeTrap vec next x).Canonical :=
  .ite h.stopStrand (.ite h.stopStrand (.ite h.mapStrand h.stopStrand.mapStrand))
theorem State.Canonical.useUpset {unit} (h : s.Canonical) : (s.useUpset unit).Canonical := ⟨h.wf⟩
theorem State.Canonical.tagStall {part granule} (h : s.Canonical) : (s.tagStall part granule).Canonical :=
  .ite h.useUpset h.useUpset.postRecord
theorem State.Canonical.waits (h : s.Canonical) : s.waits.Canonical := .ite h ⟨h.wf⟩

theorem NextCanonical.runM {vec m} (hm : Keeps m) (h : s.Canonical) : NextCanonical (runM vec m s) := by
  unfold Machine.runM
  split
  · next e => exact .next (hm.of_ok h e)
  · next e => exact .next (hm.of_error h e).takeTrap
  · exact .next h.waits
  · exact .next h.waits.tagStall

theorem NextCanonical.runStep {vec m} (hm : Keeps m) (h : s.Canonical) : NextCanonical (runStep vec m s) :=
  .runM (.bind hm fun _ => .modify fun _ h => h.mapStrand) h

end Sys2Proof.Machine
end

section
/-! Steps keep memory canonical: guest lines, dirty FIFOs, barriers and transfers. -/

namespace Sys2Proof.Machine

variable {s : State}

theorem State.Canonical.orTarn {line t} (h : s.Canonical) : (s.orTarn line t).Canonical := .ite ⟨h.wf⟩ h
theorem State.Canonical.codeRelease {place scope} (h : s.Canonical) : (s.codeRelease place scope).Canonical := ⟨h.wf⟩
theorem State.Canonical.codeCarry {place k n} (h : s.Canonical) : (s.codeCarry place k n).Canonical := ⟨h.wf⟩
theorem State.Canonical.codeObserve {place k n} (h : s.Canonical) : (s.codeObserve place k n).Canonical := ⟨h.wf⟩
theorem State.Canonical.codeObserveCopy {place k n} (h : s.Canonical) : (s.codeObserveCopy place k n).Canonical :=
  ⟨h.wf⟩
theorem State.Canonical.codeFill {core line} (h : s.Canonical) : (s.codeFill core line).Canonical := ⟨h.wf⟩
theorem State.Canonical.codeJoin {places scope} (h : s.Canonical) : (s.codeJoin places scope).Canonical := ⟨h.wf⟩
theorem State.Canonical.codeFence {place scope} (h : s.Canonical) : (s.codeFence place scope).Canonical := ⟨h.wf⟩
theorem State.Canonical.homeStore {place k bs t} (h : s.Canonical) : (s.homeStore place k bs t).Canonical :=
  .breakLinks (.orTarn (.noteStore (.writeCells (.of_wf (Memory.wf_put _ _ h.wf)))))
theorem State.Canonical.markLine {k n line t p} (h : s.Canonical) : (s.markLine k n line t p).Canonical := ⟨h.wf⟩
theorem State.Canonical.engineStore {det k bs t p} (h : s.Canonical) : (s.engineStore det k bs t p).Canonical :=
  .foldl (.noteStore (.writeCells (.of_wf (Memory.wf_put _ _ h.wf)))) fun _ _ h1 => h1.markLine.breakLinks
theorem State.Canonical.setCore {c} (h : s.Canonical) : (s.setCore c).Canonical := ⟨h.wf⟩

theorem State.Canonical.settlePoison {place k unc} (h : s.Canonical) : (s.settlePoison place k unc).Canonical := by
  unfold State.settlePoison
  dsimp only
  split
  · exact .ite h (.ite ⟨h.wf⟩ ⟨h.wf⟩)
  · exact h

theorem State.Canonical.touchGuest {place k unc} (h : s.Canonical) : (s.touchGuest place k unc).Canonical := by
  unfold State.touchGuest
  split
  · exact h
  · dsimp only
    split
    · exact .of_wf h.codeFill.wf
    · exact .ite h (.ite ⟨h.wf⟩ (.of_wf (State.Canonical.wf (.codeFill ⟨h.wf⟩))))

theorem State.Canonical.dropCopies {core lines} (h : s.Canonical) : (s.dropCopies core lines).Canonical := ⟨h.wf⟩

theorem State.Canonical.fillEarly {place line} (h : s.Canonical) : (s.fillEarly place line).Canonical := by
  unfold State.fillEarly
  split
  · exact .of_wf h.codeFill.wf
  · exact h

theorem State.Canonical.poisonBlock {k} (h : s.Canonical) : (s.poisonBlock k).Canonical := ⟨h.wf⟩
theorem State.Canonical.loseBlock {k} (h : s.Canonical) : (s.loseBlock k).Canonical := .of_wf h.useUpset.poisonBlock.wf
theorem State.Canonical.loseWriteback {part k} (h : s.Canonical) : (s.loseWriteback part k).Canonical :=
  h.loseBlock.postRecord

theorem State.Canonical.drainOne {core} (h : s.Canonical) : (s.drainOne core).Canonical := by
  unfold State.drainOne
  dsimp only
  split
  · exact h
  · exact .ite h (.ite h.setCore.loseWriteback h.setCore.reachHbm.homeStore)

theorem State.Canonical.drainN {core n} (h : s.Canonical) : (s.drainN core n).Canonical := by
  induction n generalizing s with
  | zero => exact h
  | succ n ih => exact ih h.drainOne

theorem State.Canonical.drainAll {core} (h : s.Canonical) : (s.drainAll core).Canonical := h.drainN

theorem State.Canonical.drainLine {core line n} (h : s.Canonical) : (s.drainLine core line n).Canonical := by
  induction n generalizing s with
  | zero => exact h
  | succ n ih => exact .ite (ih h.drainOne) h

theorem State.Canonical.drainWhile {core p n} (h : s.Canonical) : (s.drainWhile core p n).Canonical := by
  induction n generalizing s with
  | zero => exact h
  | succ n ih => exact .ite (ih h.drainOne) h

theorem State.Canonical.linkOrder {place k} (h : s.Canonical) : (s.linkOrder place k).Canonical := .ite h.drainWhile h
theorem State.Canonical.linkStore {place k} (h : s.Canonical) : (s.linkStore place k).Canonical := .ite ⟨h.wf⟩ h
theorem State.Canonical.guestStore {place k bs t unc} (h : s.Canonical) : (s.guestStore place k bs t unc).Canonical :=
  .of_wf (State.Canonical.wf (.setCore (.ite h.linkStore.touchGuest.drainOne h.linkStore.touchGuest)))
theorem State.Canonical.coverLine {place line t} (h : s.Canonical) : (s.coverLine place line t).Canonical :=
  .of_wf h.drainLine.wf
theorem State.Canonical.releaseAt {place scope} (h : s.Canonical) : (s.releaseAt place scope).Canonical :=
  .codeRelease (.ite h.drainAll h)
theorem State.Canonical.lineHome {place line} (h : s.Canonical) : (s.lineHome place line).Canonical :=
  .of_wf h.drainLine.wf
theorem State.Canonical.acquireAt {place scope} (h : s.Canonical) : (s.acquireAt place scope).Canonical := .ite h ⟨h.wf⟩
theorem State.Canonical.bumpPhase {launch level group} (h : s.Canonical) : (s.bumpPhase launch level group).Canonical :=
  ⟨h.wf⟩
theorem State.Canonical.setAssay {t} (h : s.Canonical) : (s.setAssay t).Canonical := ⟨h.wf⟩

theorem State.Canonical.assayCheck {t va k n a kind seen u} (h : s.Canonical) (e : s.assayCheck t va k n a kind seen = .ok u) :
    u.Canonical := by
  unfold State.assayCheck at e
  split at e
  · cases e; exact h
  · split at e
    · cases e
    · dsimp only at e
      split at e
      · cases e
      · split at e
        · split at e
          · cases e
          · cases e; exact h.setAssay
        · cases e; exact h.setAssay

theorem State.Canonical.setLaunch {l} (h : s.Canonical) : (s.setLaunch l).Canonical := ⟨h.wf⟩
theorem State.Canonical.setBarrier {b} (h : s.Canonical) : (s.setBarrier b).Canonical := ⟨h.wf⟩

theorem State.Canonical.recordWrite {c phys lo len} (h : s.Canonical) : (s.recordWrite c phys lo len).1.Canonical := by
  unfold State.recordWrite
  split
  · exact h
  · refine .fst_foldl h fun _ _ h1 => ?_
    refine .fst_ite h1 ?_
    dsimp only
    split
    · exact h1
    · split <;> exact ⟨h1.wf⟩

theorem State.Canonical.observe {cmd flat} (h : s.Canonical) : (s.observe cmd flat).Canonical := by
  unfold State.observe
  split
  · exact h
  · extract_lets s1 s2 s3 s4
    have h2 : s2.Canonical := by
      dsimp only [s2]
      split
      · exact ⟨h.wf⟩
      · exact .dropCopies ⟨h.wf⟩
    have h4 : s4.1.Canonical := by
      dsimp only [s4]
      split
      · exact h2.recordWrite.recordWrite
      · exact h2.recordWrite
    refine .ite h2 ?_
    split
    · exact h4
    · exact ⟨h4.wf⟩

theorem State.Canonical.observeAll {cmds flat} (h : s.Canonical) : (s.observeAll cmds flat).Canonical :=
  h.foldl fun _ _ h1 => h1.observe

theorem State.Canonical.observeIssuer {cmd} (h : s.Canonical) : (s.observeIssuer cmd).Canonical := by
  unfold State.observeIssuer
  split
  · exact h.observe
  · exact h

theorem State.Canonical.releaseInstance {b counted scope} (h : s.Canonical) : (s.releaseInstance b counted scope).Canonical :=
  .setBarrier (.foldl (.codeJoin (.foldl (.ite (h.foldl fun _ _ h1 => h1.observeIssuer) h) fun _ _ h1 => h1.observeAll.releaseAt))
    fun _ _ h1 => h1.acquireAt.updateAt)

theorem State.Canonical.advancePhases {l n group} (h : s.Canonical) : (s.advancePhases l n group).Canonical := by
  unfold State.advancePhases
  extract_lets top s1
  have h1 : s1.Canonical := .ite h (h.foldl fun _ _ h => h.foldl fun _ _ h => h.bumpPhase)
  split
  · exact .ite ⟨h1.wf⟩ h1
  · exact h1

theorem State.Canonical.suspendAt {place cause elem route} (h : s.Canonical) : (s.suspendAt place cause elem route).Canonical := by
  unfold State.suspendAt
  split
  · exact h
  · exact h.postRecord.updateAt

theorem State.Canonical.completeGroup {l n group bar} (h : s.Canonical) : (s.completeGroup l n group bar).Canonical :=
  .ite (h.foldl fun _ _ h1 => h1.suspendAt) (.advancePhases (.ite (h.foldl fun _ _ h1 => h1.releaseInstance) (.codeJoin (h.foldl
    fun _ _ h1 => h1.releaseInstance))))

theorem State.Canonical.evalBarrier {b} (h : s.Canonical) : (s.evalBarrier b).Canonical := by
  refine .ite h ?_
  dsimp only
  split
  · exact h.releaseInstance
  · split
    · exact h.releaseInstance
    · exact .ite h.completeGroup h

theorem State.Canonical.arrive {t bar} (h : s.Canonical) : (s.arrive t bar).Canonical :=
  h.setBarrier.updateAt.evalBarrier
theorem State.Canonical.lowerPend {c n} (h : s.Canonical) : (s.lowerPend c n).Canonical := h.setBarrier.evalBarrier

theorem State.Canonical.shiftBarrier {t core bar} (h : s.Canonical) : (s.shiftBarrier t core bar).Canonical := by
  unfold State.shiftBarrier
  split
  · exact h
  · exact h.setBarrier.setBarrier

theorem State.Canonical.shiftPlace {q} (h : s.Canonical) : (s.shiftPlace q).Canonical :=
  .ite h (.of_wf (State.Canonical.wf (.ite h (h.drainAll.foldl fun _ _ h1 => h1.shiftBarrier))))

theorem State.Canonical.endStrand {place status kill} (h : s.Canonical) : (s.endStrand place status kill).Canonical := by
  unfold State.endStrand
  split
  · exact h
  · split
    · exact h.updateAt
    · exact .foldl (.updateAt (.ite h.setLaunch h.setLaunch.hubWrite)) fun _ _ h1 => h1.setBarrier.evalBarrier

theorem State.Canonical.updateCmd {id f} (h : s.Canonical) : (s.updateCmd id f).Canonical := ⟨h.wf⟩
theorem State.Canonical.tellChunks {c is} (h : s.Canonical) : (s.tellChunks c is).Canonical := h.updateCmd.updateAt

end Sys2Proof.Machine
end

section
/-! Steps keep memory canonical: writes to device registers, accesses of a strand and atomics. -/

namespace Sys2Proof.Machine

variable {s : State}

theorem State.Canonical.actAs {place f} (h : s.Canonical) (hf : ∀ x0, State.Canonical x0 → (f x0).Canonical) :
    (s.actAs place f).Canonical := by
  refine .ite (hf _ h) ?_
  split
  · exact h
  · exact .of_wf (State.Canonical.wf (hf _ ⟨h.wf⟩))

theorem State.Canonical.zeroRange {k n} (h : s.Canonical) : (s.zeroRange k n).Canonical :=
  .of_wf (Memory.wf_clear _ _ h.wf)
theorem State.Canonical.zeroGroup {core g} (h : s.Canonical) : (s.zeroGroup core g).Canonical := h.zeroRange

theorem State.Canonical.groupOff {core g} (h : s.Canonical) : (s.groupOff core g).Canonical := by
  refine .ite h ?_
  split
  · exact h.setReg64.updateAt
  · exact h.setReg64.zeroGroup

theorem State.Canonical.writeLgen {core v} (h : s.Canonical) : (s.writeLgen core v).Canonical :=
  h.foldl fun _ _ h1 => .ite (.setReg64 (.ite h1 h1.zeroGroup)) (.ite h1.groupOff h1)
theorem State.Canonical.drainPart {part} (h : s.Canonical) : (s.drainPart part).Canonical :=
  h.foldl fun _ _ h1 => h1.drainAll
theorem State.Canonical.writeTroot {part v} (h : s.Canonical) : (s.writeTroot part v).Canonical :=
  .of_wf h.drainPart.setReg64.wf
theorem State.Canonical.writeTlbinv {part v} (h : s.Canonical) : (s.writeTlbinv part v).Canonical :=
  .of_wf h.drainPart.wf
theorem State.Canonical.graphError {part code index} (h : s.Canonical) : (s.graphError part code index).Canonical :=
  .ite h h.setReg64
theorem State.Canonical.setNode {n} (h : s.Canonical) : (s.setNode n).Canonical := ⟨h.wf⟩

theorem State.Canonical.hubTouch {part va n} (h : s.Canonical) : (s.hubTouch part va n).Canonical := by
  refine h.foldl fun _ _ h1 => ?_
  dsimp only
  split
  · next u2 _ e2 => exact .reachRange (.of_fst h1.translate e2)
  · next u2 _ e2 => exact (.of_fst h1.translate e2)

theorem State.Canonical.appendNode {part i} (h : s.Canonical) : (s.appendNode part i).Canonical :=
  .of_wf (State.Canonical.wf (.ite h.hubTouch.graphError h.hubTouch))
theorem State.Canonical.gappend {part tail1} (h : s.Canonical) : (s.gappend part tail1).Canonical :=
  .ite h.graphError (.ite h.setField (.setReg64 (h.foldl fun _ _ h1 => h1.appendNode)))
theorem State.Canonical.appendHeld {part} (h : s.Canonical) : (s.appendHeld part).Canonical := .ite h h.setField.gappend

theorem State.Canonical.flushRecords {ring n} (h : s.Canonical) : (s.flushRecords ring n).Canonical := by
  induction n generalizing s with
  | zero => exact h
  | succ n ih =>
    unfold State.flushRecords
    split
    · exact h
    · exact .ite h (ih (.of_wf h.enterRecord.wf))

theorem State.Canonical.writeFqHead {ring v} (h : s.Canonical) : (s.writeFqHead ring v).Canonical :=
  h.setField.flushRecords
theorem State.Canonical.setCmd {c} (h : s.Canonical) : (s.setCmd c).Canonical := ⟨h.wf⟩

theorem State.Canonical.stopCmd {c ph} (h : s.Canonical) : (s.stopCmd c ph).Canonical := by
  unfold State.stopCmd
  extract_lets told s0 s1 k s2
  have h0 : s0.Canonical := .setCmd (.ite h h.tellChunks)
  have h2 : s2.Canonical := .ite (.setCore ⟨h0.wf⟩) ⟨h0.wf⟩
  exact .ite h2.lowerPend h2

theorem State.Canonical.markNode {part node state nerr} (h : s.Canonical) : (s.markNode part node state nerr).Canonical := by
  unfold State.markNode
  split
  · exact h
  · split
    · exact h.setNode
    · exact h

theorem State.Canonical.factError {part} (h : s.Canonical) : (s.factError part).Canonical := h.setReg64
theorem State.Canonical.clearRecord {ring seq} (h : s.Canonical) : (s.clearRecord ring seq).Canonical := ⟨h.wf⟩

theorem State.Canonical.factResume {part seq} (h : s.Canonical) : (s.factResume part seq).Canonical := by
  unfold State.factResume
  split
  · exact h.factError
  · refine .ite ?_ (.ite ?_ h.factError)
    · split
      · exact h.factError
      · exact .ite h.clearRecord.updateAt h.factError
    · split
      · exact h.factError
      · exact h.clearRecord.setCmd

theorem State.Canonical.factKill {part seq} (h : s.Canonical) : (s.factKill part seq).Canonical := by
  unfold State.factKill
  split
  · exact h.factError
  · refine .ite ?_ (.ite ?_ h.factError)
    · split
      · exact h.factError
      · exact .ite h.clearRecord.drainAll.endStrand h.factError
    · split
      · exact h.factError
      · exact h.clearRecord.stopCmd.markNode

theorem State.Canonical.writeFact {part v} (h : s.Canonical) : (s.writeFact part v).Canonical :=
  .ite h.factResume (.ite h.factKill h.factError)
theorem State.Canonical.writeLbstat {a v} (h : s.Canonical) : (s.writeLbstat a v).Canonical := h.setReg64
theorem State.Canonical.writePcmd {a part op} (h : s.Canonical) : (s.writePcmd a part op).Canonical :=
  .ite h (.ite h.setField.setReg64 (.ite h.setField h))

theorem State.Canonical.regWrite {a v bytes} (h : s.Canonical) : (s.regWrite a v bytes).Canonical := by
  unfold State.regWrite
  split
  · exact h
  · dsimp only
    split
    · exact .ite (.ite h.writeLgen h) (.ite h.writeLbstat h.setReg64)
    · exact .ite h.setReg64 h.setReg64
    · exact .ite h.writeTroot (.ite h.writeTlbinv (.ite h.writePcmd h.setReg64))
    · exact .ite (.ite (.ite h.setReg64 h) (.ite h.gappend (.ite h.writeFqHead (.ite h.setReg64.flushRecords (.ite h.writeFact (.ite
        (.ite ⟨h.wf⟩ h) (.ite (.ite h (.ite h.setField.setReg64 h)) h.setReg64))))))) h.setReg64

theorem State.Canonical.regStore {a bs} (h : s.Canonical) : (s.regStore a bs).Canonical := .ite h.regWrite h
theorem State.Canonical.countL1 {core} (h : s.Canonical) : (s.countL1 core).Canonical := ⟨h.wf⟩
theorem State.Canonical.meetL1 {t k} (h : s.Canonical) : (s.meetL1 t k).Canonical :=
  .ite h (.chronicle (.ite (.countL1 ⟨h.wf⟩) (.of_wf (State.Canonical.wf (.setCore ⟨h.wf⟩)))))
theorem State.Canonical.meetTag {t k} (h : s.Canonical) : (s.meetTag t k).Canonical :=
  .ite h h.useUpset.setAssay.postRecord
theorem State.Canonical.meetUpsets {t k} (h : s.Canonical) : (s.meetUpsets t k).Canonical := .ite h h.meetL1.meetTag

theorem State.Canonical.check {t o va n} (h : s.Canonical) : (s.check t o va n).1.Canonical := by
  refine .fst_ite h ?_
  split
  · next e => exact .of_fst h.translate e
  · next s0 x e =>
    have h0 : (s0.meetUpsets t x.key).Canonical := .meetUpsets (.of_fst h.translate e)
    refine .fst_ite (.of_fst h.translate e) ?_
    dsimp only
    split
    · exact h0
    · next s1 e1 =>
      have h1 : s1.Canonical := by
        split at e1
        · exact h0.assayCheck e1
        · cases e1; exact h0
      exact .fst_ite (.ite h1.reachHbm.settlePoison h1)
        (.fst_ite (.loseBlock (.ite h1.reachHbm.settlePoison h1)) (.ite h1.reachHbm.settlePoison h1))

theorem State.Canonical.noteParity {k} (h : s.Canonical) : (s.noteParity k).Canonical := .ite h.setReg64 h

theorem State.Canonical.badRead {die part va k n} (h : s.Canonical) : (s.badRead die part va k n).Canonical := by
  unfold State.badRead
  split
  · exact h.noteParity.chronicle
  · exact h

theorem Keeps.checkBytes {o va n} : Keeps (checkBytes o va n) := by
  refine .get_bind fun _ h => ?_
  split
  · next u1 _ e1 => exact .bind (.set (.of_fst h.check e1)) fun _ => .raise
  · rename_i u1 _ e1
    refine .whenThen .throw fun _ => .whenThen .throw fun _ => ?_
    dsimp only
    split
    · exact .bind (.set (.chronicle (.noteParity (.of_fst h.check e1)))) fun _ => .bind .raise fun _ =>
        .bind (.set (.of_fst h.check e1)) fun _ => .pure
    · exact .bind (.set (.of_fst h.check e1)) fun _ => .pure

theorem Keeps.accessCheck {o va z} : Keeps (accessCheck o va z) := .whenThen .raise fun _ => .checkBytes
theorem State.Canonical.loadLine {t x va n seen} (h : s.Canonical) : (s.loadLine t x va n seen).1.Canonical :=
  .fst_ite h (.ite (.codeObserve (.ite h.linkOrder.lineHome h.linkOrder.touchGuest)) (.codeObserveCopy
    (.ite h.linkOrder.lineHome h.linkOrder.touchGuest)))
theorem Keeps.loadBytes {x va n seen} : Keeps (loadBytes x va n seen) :=
  .get_bind fun _ h => .bind (.set h.loadLine) fun _ => .pure
theorem Keeps.loadAcquire {x va n scope} : Keeps (loadAcquire x va n scope) :=
  .ite .loadBytes (.get_bind fun _ h => .whenThen .throw fun _ => .whenThen .raise fun _ =>
    .bind (.set h.loadLine.observeAll.acquireAt) fun _ => .pure)
theorem Keeps.cleanCheck {va n b} : Keeps (cleanCheck va n b) := .bind .getS fun _ => .ite .raise .pure
theorem State.Canonical.rememberCode {place k n} (h : s.Canonical) : (s.rememberCode place k n).Canonical :=
  .of_wf h.codeCarry.wf

theorem State.Canonical.storeLine {t x bs b} (h : s.Canonical) : (s.storeLine t x bs b).Canonical := by
  refine .ite h.regStore ?_
  dsimp only
  split
  · exact .guestStore (.of_wf (State.Canonical.wf (.rememberCode (.ite h.linkOrder.linkStore.lineHome h))))
  · exact .homeStore (.of_wf (State.Canonical.wf (.rememberCode (.ite h.linkOrder.linkStore.lineHome h))))

theorem Keeps.storeBytes {x va n v b} : Keeps (storeBytes x va n v b) := .get_bind fun _ h => .set h.storeLine.mapStrand
theorem Keeps.releaseHere {scope} : Keeps (releaseHere scope) :=
  .get_bind fun _ h => .whenThen .throw fun _ => .set h.releaseAt
theorem Keeps.atHome {x n} : Keeps (atHome x n) := .modify fun _ h => h.linkOrder.linkStore.lineHome.codeObserve

theorem State.Canonical.fetch (h : s.Canonical) : s.fetch.1.Canonical := by
  refine .fst_ite h ?_
  split
  · next u1 _ e1 => exact (.of_fst h.check e1)
  · next u1 _ e1 => exact .fst_ite (.of_wf (State.Canonical.wf (.of_fst h.check e1))) (.of_fst h.check e1)

theorem Keeps.amoEvent {f kind d a b} : Keeps (amoEvent f kind d a b) :=
  .bind .getS fun _ => .bind .accessCheck fun _ => .bind .cleanCheck fun _ => .bind .atHome fun _ =>
    .get_bind fun _ _ => .bind .storeBytes fun _ => .bind .modS fun _ => .pure
theorem Keeps.amo {f d a b} : Keeps (amo f d a b) := .bind .amoEvent fun _ => .pure

end Sys2Proof.Machine
end

section
/-! Steps keep memory canonical: commands of the engines, branches and control registers. -/

namespace Sys2Proof.Machine

variable {s : State}

theorem State.Canonical.withdraw {t bar} (h : s.Canonical) : (s.withdraw t bar).Canonical := by
  unfold State.withdraw
  split
  · exact h.setBarrier.updateAt
  · exact h

theorem State.Canonical.endWait {t bar} (h : s.Canonical) : (s.endWait t bar).Canonical := by
  unfold State.endWait
  refine .updateAt ?_
  split
  · exact h.withdraw
  · exact h.withdraw
  · exact h.withdraw
  · exact h

theorem State.Canonical.stopOwing {c cause sub addr} (h : s.Canonical) : (s.stopOwing c cause sub addr).Canonical := by
  unfold State.stopOwing
  split
  · exact h.stopCmd.markNode
  · split
    · exact h.stopCmd
    · exact .ite h.endWait.stopCmd (h.endWait.stopCmd.actAs fun _ h1 => h1.takeTrap)

theorem State.Canonical.engineStop {id x} (h : s.Canonical) : (s.engineStop id x).Canonical := by
  unfold State.engineStop
  split
  · exact h
  · split
    · exact h
    · exact h.stopOwing
    · exact .ite (.updateCmd (.of_wf h.postRecord.wf)) h.postRecord.updateCmd

theorem State.Canonical.engineXlate {c phys va a} (h : s.Canonical) : (s.engineXlate c phys va a).1.Canonical :=
  .fst_ite h (.fst_ite h h.translate)

theorem Keeps.engineReach {c phys va a} : Keeps (engineReach c phys va a) := by
  refine .get_bind fun _ h => ?_
  split
  · next u1 _ e1 => exact .bind (.set (.of_fst h.engineXlate e1)) fun _ => .throw
  · next u1 _ e1 =>
      exact .whenThen .throw fun _ => .whenThen .throw fun _ => .bind (.set (.reachHbm (.drainLine (.of_fst h.engineXlate e1)))) fun _ =>
          .pure

theorem State.Canonical.engineAssay {c va k n u} (h : s.Canonical) (e : s.engineAssay c va k n = .ok u) : u.Canonical := by
  unfold State.engineAssay at e
  dsimp only at e
  split at e
  · cases e; exact h
  · split at e
    · cases e
    · cases hr : AssayTag.read _ _ _ _ _ _ <;> rw [hr] at e <;> cases e
      exact h.setAssay

theorem Keeps.engineTagRoom {c k} : Keeps (engineTagRoom c k) :=
  .get_bind fun _ h => .ite (.bind (.set h.tagStall) fun _ => .throw) .pure

theorem Keeps.engineAssayCheck {c phys va k n} : Keeps (engineAssayCheck c phys va k n) := by
  refine .get_bind fun _ h => ?_
  split
  · exact .throw
  · next u1 e1 => exact .bind .engineTagRoom fun _ => .set (h.engineAssay e1)

theorem State.Canonical.notePoison {id va} (h : s.Canonical) : (s.notePoison id va).Canonical := by
  unfold State.notePoison
  split
  · exact .ite h h.postRecord.updateCmd
  · exact h

theorem Keeps.engineRead {c phys va n} : Keeps (engineRead c phys va n) :=
  .bind .engineReach fun _ => .ite (.get_bind fun _ _ => .pure) (.bind .engineAssayCheck fun _ =>
    .get_bind fun _ _ => .bind (.modify fun _ h1 => .ite h1.notePoison h1) fun _ => .bind (.modify fun _ h1 => .ite h1.badRead h1) fun _ =>
    .get_bind fun _ _ => .pure)
theorem State.Canonical.recordEngine {c hits} (h : s.Canonical) : (s.recordEngine c hits).Canonical :=
  .ite h.updateAt ⟨h.wf⟩

theorem Keeps.engineClean {c va n} : Keeps (engineClean c va n) := by
  refine .get_bind fun _ h => ?_
  split
  · exact .pure
  · exact .whenThen .throw fun _ => .set h.recordEngine

theorem State.Canonical.scaleTarn {old c k t} (h : s.Canonical) : (s.scaleTarn old c k t).Canonical := ⟨h.wf⟩

theorem Keeps.engineWriteAt {c phys va k data} : Keeps (engineWriteAt c phys va k data) := by
  refine .ite (.modify fun _ h => h.regStore) (.get_bind fun _ _ => .ite (.modify fun _ h1 => h1.loseBlock) (.get_bind fun _ _ => ?_))
  dsimp only
  split
  · exact .ite (.bind .throw fun _ => .bind .engineTagRoom fun _ => .whenThen .engineClean fun _ =>
      .modify fun _ h2 => .ite (.scaleTarn (.engineStore ⟨h2.wf⟩)) (.engineStore ⟨h2.wf⟩)) (.bind .engineTagRoom fun _ =>
      .whenThen .engineClean fun _ => .modify fun _ h2 => .ite (.scaleTarn (.engineStore ⟨h2.wf⟩)) (.engineStore ⟨h2.wf⟩))
  · exact .bind .engineTagRoom fun _ => .whenThen .engineClean fun _ =>
      .modify fun _ h2 => .ite (.scaleTarn (.engineStore ⟨h2.wf⟩)) (.engineStore ⟨h2.wf⟩)

theorem Keeps.readSource {id n} : Keeps (readSource id n) := by
  induction n with
  | zero => exact .pure
  | succ n ih =>
    refine .get_bind fun _ _ => ?_
    split
    · exact .pure
    · exact .ite .pure (.bind .engineRead fun _ => .bind (.modify fun _ h => h.updateCmd) fun _ => ih)

theorem Keeps.readCodes {id n} : Keeps (readCodes id n) := by
  induction n with
  | zero => exact .pure
  | succ n ih =>
    refine .get_bind fun _ _ => ?_
    split
    · exact .pure
    · exact .ite .pure (.bind .engineRead fun _ => .bind (.modify fun _ h => h.updateCmd) fun _ => ih)

theorem Keeps.engineDest {c va} : Keeps (engineDest c va) := .ite .pure .engineReach

theorem Keeps.writeDest {id total qs n} : Keeps (writeDest id total qs n) := by
  induction n with
  | zero => exact .pure
  | succ n ih =>
    refine .get_bind fun _ _ => ?_
    split
    · exact .pure
    · exact .ite .pure (.bind .engineDest fun _ => .get_bind fun _ _ => .bind .engineWriteAt fun _ =>
        .bind (.modify fun _ h => h.updateCmd) fun _ => ih)

theorem Keeps.performCopy {c} : Keeps (performCopy c) := .bind .readSource fun _ => .bind .writeDest fun _ => .pure

theorem Keeps.performConvert {c} : Keeps (performConvert c) := by
  refine .bind .readCodes fun _ => .get_bind fun _ _ => ?_
  split
  · exact .pure
  · exact .bind .writeDest fun _ => .pure

theorem Keeps.hostSides {c} : Keeps (hostSides c) :=
  .bind .engineReach fun _ => .bind .engineReach fun _ => .whenThen .throw fun _ => .whenThen .throw fun _ =>
    .bind (.modify fun _ h => h.updateCmd) fun _ => .pure

theorem Keeps.moveHost {id host n} : Keeps (moveHost id host n) := by
  induction n with
  | zero => exact .pure
  | succ n ih =>
    refine .get_bind fun _ _ => ?_
    split
    · exact .pure
    · exact .ite .pure (.bind .engineReach fun _ => .whenThen .throw fun _ => .bind .engineReach fun _ => .whenThen .throw fun _ =>
        .bind .engineRead fun _ => .bind .engineWriteAt fun _ => .bind (.modify fun _ h => h.updateCmd) fun _ => ih)

theorem Keeps.performHostCopy {c} : Keeps (performHostCopy c) :=
  .ite .pure (.bind .hostSides fun _ => .ite .pure (.bind .moveHost fun _ => .pure))
theorem Keeps.performCompletion {c} : Keeps (performCompletion c) := .whenThen .moveHost fun _ => .pure

theorem State.Canonical.fallPend {id before} (h : s.Canonical) : (s.fallPend id before).Canonical := by
  unfold State.fallPend
  split
  · exact .ite h.lowerPend h
  · exact h

theorem State.Canonical.work {c m} (h : s.Canonical) (hm : ∀ c, Keeps (m c)) : (s.work c m).Canonical := by
  unfold State.work
  split
  · next e => exact ((hm c).of_ok h e).updateCmd.fallPend
  · next e => exact ((hm c).of_error h e).fallPend.engineStop

theorem State.Canonical.clearUpset {unit} (h : s.Canonical) : (s.clearUpset unit).Canonical := ⟨h.wf⟩
theorem State.Canonical.workOn {queue c m} (h : s.Canonical) (hm : ∀ x0, Keeps (m x0)) : (s.workOn queue c m).Canonical :=
  .ite h.clearUpset.updateCmd.chronicle.stopOwing (h.clearUpset.updateCmd.work fun _ => hm _)
theorem State.Canonical.workChecked {c m} (h : s.Canonical) (hm : ∀ x0, Keeps (m x0)) : (s.workChecked c m).Canonical :=
  h.workOn fun _ => hm _

theorem State.Canonical.copyEvent {die eng op m} (h : s.Canonical) (hm : ∀ x0, Keeps (m x0)) : (s.copyEvent die eng op m).Canonical := by
  refine .ite h ?_
  split
  · exact .ite (h.work fun _ => hm _) h
  · exact h

theorem NextCanonical.execPcieCompletion {cmd} (h : s.Canonical) : NextCanonical (execPcieCompletion cmd s) := by
  unfold Machine.execPcieCompletion
  split
  · exact .next (.ite (h.work fun _ => .performCompletion) h)
  · exact .next h

theorem Keeps.writeToken {c} : Keeps (writeToken c) :=
  .bind .engineReach fun _ => .bind .engineWriteAt fun _ => .modify fun _ h => ⟨h.wf⟩

theorem State.Canonical.batchDone {part node} (h : s.Canonical) : (s.batchDone part node).Canonical := by
  unfold State.batchDone
  split
  · exact h
  · exact .ite h.markNode h

theorem State.Canonical.signalled {c} (h : s.Canonical) : (s.signalled c).Canonical := by
  unfold State.signalled
  extract_lets _ s0 k s1
  have h1 : s1.Canonical := .ite (.setCore ⟨h.wf⟩) ⟨h.wf⟩
  exact .ite h1 (.ite h1.batchDone h1.markNode)

theorem State.Canonical.complete {c} (h : s.Canonical) : (s.complete c).Canonical := by
  refine .ite ?_ (.ite h.tellChunks.signalled (.signalled (.ite h.lowerPend h)))
  split
  · next e => exact (Keeps.writeToken.of_ok h e).signalled
  · next e => exact (Keeps.writeToken.of_error h e).engineStop

theorem NextCanonical.execEngineCompletion {cmd} (h : s.Canonical) : NextCanonical (execEngineCompletion cmd s) := by
  unfold Machine.execEngineCompletion
  split
  · exact .next h
  · exact .next (.ite (.tellChunks ⟨h.wf⟩) (.ite h.complete h))

theorem Keeps.decide_ {b} : Keeps (decide_ b) := .bind .getS fun _ => .ite .raise .pure
theorem Keeps.branch {f a b off} : Keeps (branch f a b off) := .bind .getS fun _ => .bind .decide_ fun _ => .modS
theorem Keeps.loopStep {off} : Keeps (loopStep off) :=
  .bind .getS fun _ => .get_bind fun _ _ => .bind .decide_ fun _ => .modS
theorem Keeps.jumpRegister {d a imm} : Keeps (jumpRegister d a imm) :=
  .bind .getS fun _ => .bind .decide_ fun _ => .whenThen .raise fun _ => .modS
theorem Keeps.trapReturn : Keeps trapReturn := .bind .getS fun _ => .whenThen .raise fun _ => .modS

theorem Keeps.takeOwed {waitsOn} : Keeps (takeOwed waitsOn) := by
  refine .get_bind fun _ h => ?_
  dsimp only
  split
  · split
    · exact .bind (.set h.setCmd) fun _ => .raise
    · exact .pure
  · exact .pure

theorem Keeps.exitStrand {a} : Keeps (exitStrand a) :=
  .bind .takeOwed fun _ => .get_bind fun _ h => .whenThen .throw fun _ => .whenThen .throw fun _ => .set h.drainAll.endStrand
theorem State.Canonical.fence {scope} (h : s.Canonical) : (s.fence scope).Canonical := h.releaseAt.acquireAt.codeFence
theorem State.Canonical.illegal {w} (h : s.Canonical) : (s.illegal w).Canonical := h.takeTrap

theorem NextCanonical.execCrd {d imm} (h : s.Canonical) : NextCanonical (execCrd d imm s) := by
  unfold Machine.execCrd
  split
  · exact .next h.illegal
  · exact .next h.mapStrand

theorem State.Canonical.ctlWrite {word n old w b} (h : s.Canonical) : (s.ctlWrite word n old w b).Canonical :=
  .ite h.illegal (.ite h.mapStrand h.mapStrand)

theorem NextCanonical.execCwr {a imm} (h : s.Canonical) : NextCanonical (execCwr a imm s) := by
  unfold Machine.execCwr
  split
  · exact .next h.illegal
  · exact .next h.ctlWrite

theorem NextCanonical.execCset {a imm} (h : s.Canonical) : NextCanonical (execCset a imm s) := by
  unfold Machine.execCset
  split
  · exact .next h.illegal
  · exact .next h.ctlWrite

theorem NextCanonical.execCclr {a imm} (h : s.Canonical) : NextCanonical (execCclr a imm s) := by
  unfold Machine.execCclr
  split
  · exact .next h.illegal
  · exact .next h.ctlWrite

end Sys2Proof.Machine
end

section
/-! Steps keep memory canonical: block walks and the command instructions. -/

namespace Sys2Proof.Machine

variable {s : State}

theorem Keeps.useRegs {fs} : Keeps (useRegs fs) := by
  refine .bind .getS fun _ => ?_
  dsimp only
  split
  · exact .raise
  · exact .pure

theorem Keeps.useCode {f ok} : Keeps (useCode f ok) := .bind .getS fun _ => .ite .pure .raise
theorem State.Canonical.undoAssay {old} (h : s.Canonical) : (s.undoAssay old).Canonical := .ite h ⟨h.wf⟩

theorem Keeps.faultsFirst {m} (hm : Keeps m) : Keeps (faultsFirst m) := by
  refine ⟨fun s h => ?_⟩
  unfold Machine.faultsFirst
  split
  · next e => exact (hm.of_error h e).undoAssay
  · exact hm.run s h

theorem State.Canonical.observeChunk {x} (h : s.Canonical) : (s.observeChunk x).Canonical := by
  unfold State.observeChunk
  split
  · exact h
  · refine .ite h.dropCopies ?_
    dsimp only
    split
    · next u1 e1 => exact (.of_fst h.dropCopies.setCmd.recordWrite e1)
    · next u1 _ e1 => exact .stopCmd (.of_fst h.dropCopies.setCmd.recordWrite e1)

theorem Keeps.govern {mk} : Keeps (govern mk) :=
  .ite .pure (.bind .getS fun _ => .bind .takeOwed fun _ => .get_bind fun _ h => .bind (.set (h.foldl fun _ _ h1 => h1.observeChunk))
    fun _ => .bind .takeOwed fun _ => .pure)
theorem Keeps.writePurse {n bits fill tarn} : Keeps (writePurse n bits fill tarn) :=
  .get_bind fun _ h => .ite (.bind (.set ⟨h.wf⟩) fun _ => .pure) (.bind (.set ⟨h.wf⟩) fun _ => .pure)
theorem Keeps.depositOver {m f c block old cells src again} : Keeps (depositOver m f c block old cells src again) :=
  .bind .getS fun _ => .bind .writePurse fun _ => .bind .modS fun _ => .whenThen .modS fun _ => .pure
theorem Keeps.depositCells {m f c block cells src} : Keeps (depositCells m f c block cells src) :=
  .bind .getS fun _ => .depositOver
theorem Keeps.receipt {e a b d src} : Keeps (receipt e a b d src) := .modS
theorem Keeps.source {f c start} : Keeps (source f c start) := .bind .getS fun _ => .pure
theorem Keeps.accumulator {f c j} : Keeps (accumulator f c j) := .bind .getS fun _ => .pure
theorem Keeps.walk1 {m cd ca g d a extra rule} : Keeps (walk1 m cd ca g d a extra rule) :=
  .bind .getS fun _ => .bind .source fun _ => .bind .depositCells fun _ => .receipt
theorem Keeps.walk1Acc {cd ca g d a extra rule} : Keeps (walk1Acc cd ca g d a extra rule) :=
  .bind .getS fun _ => .bind .source fun _ => .bind .accumulator fun _ => .bind .depositCells fun _ => .receipt
theorem Keeps.walk2 {cd ca cb g d a b rule} : Keeps (walk2 cd ca cb g d a b rule) :=
  .bind .getS fun _ => .bind .source fun _ => .bind .source fun _ => .bind .depositCells fun _ => .receipt
theorem Keeps.walk2Acc {cd ca cb g d a b rule} : Keeps (walk2Acc cd ca cb g d a b rule) :=
  .bind .getS fun _ => .bind .source fun _ => .bind .source fun _ => .bind .accumulator fun _ => .bind .depositCells fun _ => .receipt
theorem Keeps.walk0 {m cd g d n src rule} : Keeps (walk0 m cd g d n src rule) :=
  .bind .getS fun _ => .bind .depositCells fun _ => .receipt

theorem State.Canonical.accept {c} (h : s.Canonical) : (s.accept c).Canonical := by
  unfold State.accept
  extract_lets s1 k s2
  have h2 : s2.Canonical := by
    dsimp only [s2]
    split
    · exact .setCore ⟨h.wf⟩
    · exact ⟨h.wf⟩
  exact .ite h2 (.ite h2.setBarrier (.ite h2.updateAt h2))

theorem Keeps.acceptAll {tarn bits refused l} : Keeps (acceptAll tarn bits refused l) := by
  induction l generalizing refused with
  | nil => exact .pure
  | cons i is ih => exact .get_bind fun _ h => .ite ih (.bind (.set h.accept) fun _ => .bind ih fun _ => .pure)

theorem Keeps.commandBatch {d a mk} : Keeps (commandBatch d a mk) := by
  refine .bind .useRegs fun _ => .bind .govern fun _ => .get_bind fun _ _ => ?_
  dsimp only
  split
  · exact .bind .raise fun _ => .bind .acceptAll fun _ => .modS
  · exact .bind .acceptAll fun _ => .modS

theorem Keeps.checkToken {va} : Keeps (checkToken va) := .bind .takeOwed fun _ => .get_bind fun _ _ => .accessCheck
theorem Keeps.takeWord {x va} : Keeps (takeWord x va) :=
  .get_bind fun _ _ => .whenThen .raise fun _ => .bind .loadAcquire fun _ => .bind (.modify fun _ h1 => h1.observeAll) fun _ =>
    .bind .takeOwed fun _ => .pure
theorem Keeps.waitToken {a b} : Keeps (waitToken a b) :=
  .bind .getS fun _ => .bind .checkToken fun _ => .get_bind fun _ _ => .ite .modS (.bind .takeWord fun _ => .modS)

theorem Keeps.finishToken {key unc} : Keeps (finishToken key unc) := by
  refine .bind .modS fun _ => .bind .getS fun _ => ?_
  split
  · exact .bind .takeOwed fun _ => .bind .takeWord fun _ => .modS
  · exact .pure

theorem Keeps.takeToken {d a} : Keeps (takeToken d a) :=
  .bind .getS fun _ => .bind .checkToken fun _ => .bind .takeWord fun _ => .modS

end Sys2Proof.Machine
end

section
/-! Steps keep memory canonical: drains, layouts, scrubbing and migration. -/

namespace Sys2Proof.Machine

variable {s : State}

theorem State.Canonical.giveTurn {p} (h : s.Canonical) : (s.giveTurn p).Canonical := by
  unfold State.giveTurn
  split
  · exact h
  · exact ⟨h.wf⟩

theorem State.Canonical.actIn {place} (h : s.Canonical) : (s.actIn place).Canonical := .ite h h.giveTurn
theorem State.Canonical.runAhead {core} (h : s.Canonical) : (s.runAhead core).Canonical :=
  .ite ⟨h.wf⟩ (.fillEarly ⟨h.wf⟩)

theorem State.Canonical.issueTo {core ready chain} (h : s.Canonical) : (s.issueTo core ready chain).Canonical := by
  unfold State.issueTo
  dsimp only
  split
  · exact h.runAhead.setCore
  · exact h.runAhead.setCore.actIn

theorem NextCanonical.execLevelBarrierRelease {launch level group} (h : s.Canonical) :
    NextCanonical (execLevelBarrierRelease launch level group s) := by
  unfold Machine.execLevelBarrierRelease
  split
  · exact .next h
  · exact .next (.ite h.completeGroup h)

theorem State.Canonical.takeChunks {die slice part need relay} (h : s.Canonical) : (s.takeChunks die slice part need relay).Canonical :=
  .ite h.setField.setField h.setField
theorem State.Canonical.layOut {die slice part page need relay} (h : s.Canonical) : (s.layOut die slice part page need relay).Canonical :=
  .ite h.takeChunks (.of_wf h.postRecord.setField.wf)
theorem State.Canonical.writeBack {part k metaLost} (h : s.Canonical) : (s.writeBack part k metaLost).Canonical :=
  .ite h (.ite h.loseWriteback (.ite ⟨h.wf⟩ (.layOut ⟨h.wf⟩)))

theorem NextCanonical.execL1Writeback {line metaLost} (h : s.Canonical) : NextCanonical (execL1Writeback line metaLost s) := by
  refine .next ?_
  split
  · exact h.writeBack
  · exact h

theorem State.Canonical.unlocked {part} (h : s.Canonical) : (s.unlocked part).Canonical := h.appendHeld.flushRecords

theorem State.Canonical.resumeStalled {die part n} (h : s.Canonical) : (s.resumeStalled die part n).Canonical := by
  induction n generalizing s with
  | zero => exact h
  | succ n ih =>
    unfold State.resumeStalled
    split
    · exact h.setField
    · exact .ite h (ih (.unlocked (.takeChunks ⟨h.wf⟩)))

theorem State.Canonical.movePage {a b n} (h : s.Canonical) : (s.movePage a b n).Canonical := by
  have hd : State.Canonical (s.cores.foldl (fun u c => c.fifo.foldl (fun v e =>
      if decide (a / 64 ≤ lineOf e.key) && decide (lineOf e.key < (a + n) / 64) then
      v.drainLine c.core (lineOf e.key) (v.core c.core).fifo.length else v) u) s) :=
    h.foldl fun _ _ h1 => h1.foldl fun _ _ h2 => .ite h2.drainLine h2
  exact ⟨Memory.wf_move _ _ _ hd.reachRange.reachRange.writeCells.wf⟩

theorem State.Canonical.retarget {entry size b} (h : s.Canonical) : (s.retarget entry size b).Canonical :=
  h.foldl fun _ _ h1 => .of_wf (Memory.wf_writeLE _ _ _ h1.wf)

theorem State.Canonical.migrate? {old new entry part u} (h : s.Canonical) (e : s.migrate? old new entry part = some u) : u.Canonical := by
  unfold State.migrate? at e
  dsimp only at e
  split at e
  · cases e; exact .of_wf h.movePage.retarget.wf
  · cases e

theorem State.Canonical.leaveBand {part band} (h : s.Canonical) : (s.leaveBand part band).Canonical := .ite h.setReg64 h
theorem State.Canonical.frameRetired {part old new} (h : s.Canonical) : (s.frameRetired part old new).Canonical :=
  .of_wf h.postRecord.wf
theorem State.Canonical.pageRetired {part old first n new} (h : s.Canonical) : (s.pageRetired part old first n new).Canonical :=
  h.foldl fun _ _ h1 => h1.frameRetired

theorem NextCanonical.execPageMigration {old new entry part} (h : s.Canonical) :
    NextCanonical (execPageMigration old new entry part s) := by
  refine .ite ?_ (.ite (.next ?_) (.next h))
  · split
    · next e => exact .next (.ite (h.migrate? e).pageRetired.leaveBand (h.migrate? e).pageRetired)
    · exact .next (.ite h.leaveBand h)
  · cases e : s.migrate? old new entry part with
    | none => exact h
    | some u => exact h.migrate? e

theorem State.Canonical.failPch {stack pch} (h : s.Canonical) : (s.failPch stack pch).Canonical :=
  .foldl (.of_wf h.useUpset.wf) fun _ _ h1 => h1.leaveBand

end Sys2Proof.Machine
end

section
/-! Steps keep memory canonical: vector meanings and moves, spills and fills. -/

namespace Sys2Proof.Machine

variable {s : State}

theorem Keeps.codes3 {kd ka kb d a b} : Keeps (codes3 kd ka kb d a b) :=
  .bind .useRegs fun _ => .bind .useCode fun _ => .bind .useCode fun _ => .bind .useCode fun _ => .pure
theorem Keeps.codes2 {kd ka d a} : Keeps (codes2 kd ka d a) :=
  .bind .useRegs fun _ => .bind .useCode fun _ => .bind .useCode fun _ => .pure
theorem Keeps.vecBinary {k f d a b mk} : Keeps (vecBinary k f d a b mk) :=
  .bind .codes3 fun _ => .bind .govern fun _ => .walk2
theorem Keeps.vecFused {negProd negAdd d a b mk} : Keeps (vecFused negProd negAdd d a b mk) :=
  .bind .codes3 fun _ => .bind .govern fun _ => .walk2Acc
theorem Keeps.vecUnary {kd f d a mk} : Keeps (vecUnary kd f d a mk) :=
  .bind .codes2 fun _ => .bind .govern fun _ => .walk1
theorem Keeps.vecScalar {k f d a b mk} : Keeps (vecScalar k f d a b mk) :=
  .bind .codes2 fun _ => .bind .govern fun _ => .bind .getS fun _ => .walk1
theorem Keeps.vecFusedScalar {d a b mk} : Keeps (vecFusedScalar d a b mk) :=
  .bind .codes2 fun _ => .bind .govern fun _ => .bind .getS fun _ => .walk1Acc
theorem Keeps.vecCompare {r d a b mk} : Keeps (vecCompare r d a b mk) :=
  .bind .useRegs fun _ => .bind .useCode fun _ => .bind .useCode fun _ => .bind .govern fun _ => .get_bind fun _ _ => .bind .source fun _ =>
    .bind .source fun _ => .bind .modS fun _ => .receipt
theorem Keeps.vecSelect {d a b} : Keeps (vecSelect d a b) := .bind .codes3 fun _ => .bind .govern fun _ => .walk2
theorem Keeps.vecConvert {d a mk} : Keeps (vecConvert d a mk) := .bind .codes2 fun _ => .bind .govern fun _ => .walk1
theorem Keeps.setTag {d n} : Keeps (setTag d n) := .bind .useRegs fun _ => .modS
theorem Keeps.vecBroadcast {d a b mk} : Keeps (vecBroadcast d a b mk) :=
  .bind .useRegs fun _ => .bind .useCode fun _ => .bind .govern fun _ => .bind .getS fun _ => .bind .getS fun _ => .walk0
theorem Keeps.vecReduce {f d a mk} : Keeps (vecReduce f d a mk) :=
  .bind .codes2 fun _ => .bind .govern fun _ => .bind .getS fun _ => .bind .source fun _ => .bind .writePurse fun _ => .bind .modS fun _ =>
    .receipt
theorem Keeps.vecScan {d a mk} : Keeps (vecScan d a mk) :=
  .bind .codes2 fun _ => .bind .govern fun _ => .bind .getS fun _ => .bind .source fun _ => .walk1
theorem Keeps.vecIndex {d a mk} : Keeps (vecIndex d a mk) :=
  .bind .useRegs fun _ => .bind .useCode fun _ => .bind .govern fun _ => .bind .getS fun _ => .walk0
theorem Keeps.vecRandom {d a mk} : Keeps (vecRandom d a mk) :=
  .bind .useRegs fun _ => .bind .useCode fun _ => .bind .govern fun _ => .bind .getS fun _ => .walk0
theorem Keeps.vecMeasure {f d a} : Keeps (vecMeasure f d a) :=
  .bind .codes2 fun _ => .bind .govern fun _ => .bind .getS fun _ => .bind .source fun _ => .walk1
theorem Keeps.depositReads {cd g d l src} : Keeps (depositReads cd g d l src) :=
  .bind .getS fun _ => .bind .depositCells fun _ => .receipt
theorem Keeps.vecGather {d a b mk} : Keeps (vecGather d a b mk) :=
  .bind .codes3 fun _ => .bind .govern fun _ => .bind .getS fun _ => .bind .source fun _ => .bind .source fun _ =>
    .bind .depositCells fun _ => .receipt
theorem Keeps.vecSlide {d a b mk} : Keeps (vecSlide d a b mk) :=
  .bind .codes2 fun _ => .bind .govern fun _ => .bind .getS fun _ => .bind .source fun _ => .depositReads
theorem Keeps.vecExchange {d a b mk} : Keeps (vecExchange d a b mk) :=
  .bind .codes2 fun _ => .bind .govern fun _ => .bind .getS fun _ => .bind .source fun _ => .depositReads
theorem Keeps.vecCompress {d a b} : Keeps (vecCompress d a b) :=
  .bind .codes2 fun _ => .get_bind fun _ _ => .bind .source fun _ => .bind .writePurse fun _ => .bind .modS fun _ => .receipt
theorem Keeps.vecExpand {d a b} : Keeps (vecExpand d a b) :=
  .bind .codes2 fun _ => .get_bind fun _ _ => .bind .source fun _ => .bind .depositOver fun _ => .receipt
theorem State.Canonical.powerOffPending {core released} (h : s.Canonical) : (s.powerOffPending core released).Canonical :=
  h.foldl fun _ _ h1 => .ite h1.setReg64.zeroGroup h1

theorem State.Canonical.setvl {a b src} (h : s.Canonical) : (s.setvl a b src).Canonical := by
  unfold State.setvl
  extract_lets s0 s1 s2
  have h1 : s1.Canonical := .mapStrand (.mapStrand (.ite h.shiftPlace h))
  have h2 : s2.Canonical := .ite h1 h1.powerOffPending.mapStrand
  exact h2.mapStrand

theorem Keeps.setVl {d a b} : Keeps (setVl d a b) :=
  .get_bind fun _ h => .whenThen .throw fun _ => .set h.setvl.mapStrand

theorem Keeps.checkWords {o va n} : Keeps (checkWords o va n) := by
  induction n generalizing va with
  | zero => exact .pure
  | succ n ih => exact .bind .accessCheck fun _ => .bind ih fun _ => .pure

theorem Keeps.storeWords {b ws bs} : Keeps (storeWords b ws bs) := by
  induction ws generalizing bs with
  | nil => exact .pure
  | cons w ws ih => exact .whenThen .storeBytes fun _ => ih

theorem Keeps.cleanWords {b ws} : Keeps (cleanWords b ws) := by
  induction ws with
  | nil => exact .pure
  | cons w ws ih => exact .bind .cleanCheck fun _ => ih

theorem Keeps.spill {d a} : Keeps (spill d a) :=
  .bind .useRegs fun _ => .bind .getS fun _ => .bind .checkWords fun _ => .bind .cleanWords fun _ => .storeWords

theorem Keeps.loadWords {ws n} : Keeps (loadWords ws n) := by
  induction ws generalizing n with
  | nil => exact .pure
  | cons w ws ih => exact .bind .loadBytes fun _ => .bind ih fun _ => .pure

theorem Keeps.refill {d a} : Keeps (refill d a) :=
  .bind .useRegs fun _ => .bind .getS fun _ => .bind .checkWords fun _ => .bind .loadWords fun _ => .whenThen .raise fun _ =>
    .bind .checkWords fun _ => .bind .loadWords fun _ => .modS

theorem Keeps.checkEntries {o base cap tail n} : Keeps (checkEntries o base cap tail n) := by
  induction n generalizing tail with
  | zero => exact .pure
  | succ n ih => exact .bind .accessCheck fun _ => .bind ih fun _ => .pure

theorem Keeps.storeEntries {b ibase ws js} : Keeps (storeEntries b ibase ws js) := by
  induction ws generalizing js with
  | nil => exact .pure
  | cons w ws ih =>
    cases js with
    | nil => exact .pure
    | cons j js => exact .bind .storeBytes fun _ => ih

theorem Keeps.checkWordsAligned {o va} : Keeps (checkWordsAligned o va) := .whenThen .raise fun _ => .checkWords

theorem Keeps.homeWords {n ws} : Keeps (homeWords n ws) := by
  induction ws with
  | nil => exact .pure
  | cons w ws ih => exact .bind .atHome fun _ => .bind ih fun _ => .pure

theorem Keeps.cleanEntries {b ws} : Keeps (cleanEntries b ws) := by
  induction ws with
  | nil => exact .pure
  | cons w ws ih => exact .bind .cleanCheck fun _ => ih

theorem Keeps.append {a b} : Keeps (append a b) :=
  .get_bind fun _ _ => .bind .checkWordsAligned fun _ => .bind .homeWords fun _ => .bind .loadWords fun _ =>
    .whenThen .raise fun _ => .ite .receipt (.bind .checkEntries fun _ => .bind .homeWords fun _ => .bind .cleanEntries fun _ =>
    .bind .cleanCheck fun _ => .whenThen .throw fun _ => .bind .storeEntries fun _ => .bind .storeWords fun _ =>
    .ite (.bind .storeWords fun _ => .bind (.modify fun _ h => h.arrive) fun _ => .receipt) .receipt)

theorem State.Canonical.writeImage {t} (h : s.Canonical) : (s.writeImage t).Canonical :=
  h.foldl fun _ _ h1 => h1.engineStore
theorem State.Canonical.save {t} (h : s.Canonical) : (s.save t).Canonical := h.writeImage.updateAt

end Sys2Proof.Machine
end

section
/-! Steps keep memory canonical: vector loads, stores and atomics. -/

namespace Sys2Proof.Machine

variable {s : State}

theorem Keeps.attempt {α : Type} {m : M α} (hm : Keeps m) : Keeps (attempt m) := by
  refine ⟨fun s h => ?_⟩
  unfold Machine.attempt
  split
  · next e => exact hm.of_ok h e
  · next e => exact (hm.of_error h e).undoAssay
  · next e => exact hm.of_error h e
  · next e => exact hm.of_error h e

theorem Keeps.stopAt {cut j} : Keeps (stopAt cut j) := by
  unfold Machine.stopAt
  split
  · exact .ite .raise .pure
  · exact .pure

theorem Keeps.checkPieces {o ps} : Keeps (checkPieces o ps) := by
  induction ps with
  | nil => exact .pure
  | cons p ps ih => exact .bind .checkBytes fun _ => .bind ih fun _ => .pure

theorem Keeps.loadPieces {seen ps} : Keeps (loadPieces seen ps) := by
  induction ps with
  | nil => exact .pure
  | cons p ps ih => exact .bind .loadBytes fun _ => .bind ih fun _ => .pure

theorem Keeps.cleanPieces {b ps} : Keeps (cleanPieces b ps) := by
  induction ps with
  | nil => exact .pure
  | cons p ps ih => exact .bind .cleanCheck fun _ => ih

theorem Keeps.storePieces {b ps v} : Keeps (storePieces b ps v) := by
  induction ps generalizing v with
  | nil => exact .pure
  | cons p ps ih => exact .bind .storeBytes fun _ => ih

theorem Keeps.homePieces {ps} : Keeps (homePieces ps) := by
  induction ps with
  | nil => exact .pure
  | cons p ps ih => exact .bind .atHome fun _ => .bind ih fun _ => .pure

theorem Keeps.loadUnit {p u} : Keeps (loadUnit p u) := by
  unfold Machine.loadUnit
  exact .whenThen .raise fun _ => .bind .checkPieces fun _ => .eitherThen .homePieces .pure fun _ => .bind .loadPieces fun _ =>
      .whenThen .modS fun _ => .pure

theorem Keeps.loadLoop {p room n st} : Keeps (loadLoop p room n st) := by
  induction n generalizing st with
  | zero => exact .pure
  | succ n ih =>
    refine .ite ?_ ?_
    · split
      · exact .pure
      · refine .bind (.attempt (.bind .stopAt fun _ => .loadUnit)) fun r => ?_
        split
        · exact .pure
        · exact ih
    · dsimp only
      split
      · exact .pure
      · exact ih

theorem Keeps.endLoad {k bits od e a b tarn x} : Keeps (endLoad k bits od e a b tarn x) := by
  refine .bind .getS fun _ => .bind .writePurse fun _ => ?_
  split
  · exact .bind .modS fun _ => .raise
  · exact .receipt

theorem Keeps.loadElements {d p src spans} : Keeps (loadElements d p src spans) :=
  .bind .getS fun _ => .bind .loadLoop fun _ => .endLoad
theorem Keeps.vecLoad {cut kinds stride d a mk} : Keeps (vecLoad cut kinds stride d a mk) :=
  .bind .useRegs fun _ => .bind .useCode fun _ => .bind .govern fun _ => .bind .getS fun _ => .loadElements
theorem Keeps.indexes {b cb} : Keeps (indexes b cb) := .bind .getS fun _ => .pure
theorem Keeps.vecGatherMem {cut link d a b mk} : Keeps (vecGatherMem cut link d a b mk) :=
  .bind .useRegs fun _ => .bind .useCode fun _ => .bind .useCode fun _ => .bind .govern fun _ => .bind .indexes fun _ =>
    .bind .getS fun _ => .whenThen .modS fun _ => .loadElements

theorem Keeps.storeUnit {p u} : Keeps (storeUnit p u) := by
  unfold Machine.storeUnit
  exact .whenThen .raise fun _ => .bind .checkPieces fun _ => .bind .cleanPieces fun _ => .bind .storePieces fun _ =>
      .modify fun _ h => h.foldl fun _ _ h1 => h1.coverLine

theorem Keeps.storeLoop {p n u} : Keeps (storeLoop p n u) := by
  induction n generalizing u with
  | zero => exact .pure
  | succ n ih =>
    refine .ite (.bind (.attempt (.bind .stopAt fun _ => .storeUnit)) fun r => ?_) ih
    split
    · exact .pure
    · exact ih

theorem Keeps.endStore {e a b d tarn x} : Keeps (endStore e a b d tarn x) := by
  unfold Machine.endStore
  split
  · exact .raise
  · exact .receipt

theorem Keeps.storeElements {p src spans} : Keeps (storeElements p src spans) :=
  .bind .getS fun _ => .bind .storeLoop fun _ => .endStore
theorem Keeps.vecStore {cut kinds stride d a mk} : Keeps (vecStore cut kinds stride d a mk) :=
  .bind .useRegs fun _ => .bind .useCode fun _ => .bind .govern fun _ => .bind .getS fun _ => .storeElements
theorem Keeps.vecScatter {cut d a b mk} : Keeps (vecScatter cut d a b mk) :=
  .bind .useRegs fun _ => .bind .useCode fun _ => .bind .useCode fun _ => .bind .govern fun _ => .bind .indexes fun _ =>
    .bind .getS fun _ => .storeElements

theorem Keeps.storeLinked {p u} : Keeps (storeLinked p u) := by
  unfold Machine.storeLinked
  exact .whenThen .raise fun _ => .bind .checkPieces fun _ => .bind .cleanPieces fun _ => .bind .getS fun _ =>
      .ite (.bind .homePieces fun _ => .bind .storePieces fun _ => .pure) .pure

theorem Keeps.linkedLoop {p n u m} : Keeps (linkedLoop p n u m) := by
  induction n generalizing u m with
  | zero => exact .pure
  | succ n ih =>
    refine .ite (.bind (.attempt (.bind .stopAt fun _ => .storeLinked)) fun r => ?_) ih
    split
    · exact .pure
    · exact ih

theorem Keeps.storeConditional {cut d a b} : Keeps (storeConditional cut d a b) :=
  .bind .useRegs fun _ => .bind .useCode fun _ => .bind .useCode fun _ => .bind .govern fun _ => .bind .indexes fun _ =>
    .bind .getS fun _ => .bind .linkedLoop fun _ => .bind .modS fun _ => .bind .modS fun _ => .endStore
theorem Keeps.readQuanta {o na n} : Keeps (readQuanta o na n) :=
  .bind .checkPieces fun _ => .bind .loadPieces fun _ => .pure
theorem Keeps.codeLength {c na} : Keeps (codeLength c na) :=
  .ite (.bind .readQuanta fun _ => .pure) (.ite .pure (.bind .readQuanta fun _ => .pure))

theorem Keeps.loadCode {c base room st} : Keeps (loadCode c base room st) := by
  refine .bind .codeLength fun _ => ?_
  split
  · exact .pure
  · exact .bind .readQuanta fun _ => .pure

theorem Keeps.streamLoop {cut c base room grant n st} : Keeps (streamLoop cut c base room grant n st) := by
  induction n generalizing st with
  | zero => exact .pure
  | succ n ih =>
    refine .ite .pure (.bind (.attempt (.bind .stopAt fun _ => .loadCode)) fun r => ?_)
    split
    · exact .pure
    · exact .pure
    · exact ih

theorem Keeps.vecLoadCoded {cut early d a} : Keeps (vecLoadCoded cut early d a) :=
  .bind .useRegs fun _ => .bind .useCode fun _ => .bind .getS fun _ => .bind .streamLoop fun _ => .ite (.bind .modS fun _ =>
    .endLoad) .endLoad
theorem Keeps.storeCode {na len raw b} : Keeps (storeCode na len raw b) :=
  .bind .checkPieces fun _ => .bind .cleanPieces fun _ => .ite .storePieces (.bind .homePieces fun _ => .get_bind fun _ _ => .storePieces)

theorem Keeps.storeCodes {cut base g b j oa l} : Keeps (storeCodes cut base g b j oa l) := by
  induction l generalizing j oa with
  | nil => exact .pure
  | cons i is ih =>
    refine .bind (.attempt (.bind .stopAt fun _ => .storeCode)) fun r => ?_
    split
    · exact .pure
    · exact ih

theorem Keeps.vecStoreCoded {cut d a} : Keeps (vecStoreCoded cut d a) :=
  .bind .useRegs fun _ => .bind .useCode fun _ => .bind .getS fun _ => .bind .storeCodes fun _ => .endStore

theorem Keeps.checkTargets {o z b l} : Keeps (checkTargets o z b l) := by
  induction l with
  | nil => exact .pure
  | cons p l ih =>
    refine .bind (.attempt (.bind .accessCheck fun _ => .bind .cleanCheck fun _ => .pure)) fun r => ?_
    split
    · exact .raise
    · exact .bind ih fun _ => .pure

theorem Keeps.vamoPlan {f d a b mk} : Keeps (vamoPlan f d a b mk) :=
  .bind .useRegs fun _ => .bind .useCode fun _ => .bind .useCode fun _ => .bind .govern fun _ => .bind .indexes fun _ =>
    .bind .getS fun _ => .pure

theorem Keeps.vamoCheck {p kind data} : Keeps (vamoCheck p kind data) := by
  refine .get_bind fun _ _ => .bind (.attempt .checkTargets) fun _ => ?_
  split
  · exact .bind (.modify fun _ h1 => h1.undoAssay) fun _ => .raise
  · exact .pure

theorem Keeps.vamoGroups {f c data b gs} : Keeps (vamoGroups f c data b gs) := by
  induction gs with
  | nil => exact .pure
  | cons g gs ih => exact .bind .atHome fun _ => .get_bind fun _ _ => .bind .storeBytes fun _ => .bind ih fun _ => .pure

theorem Keeps.vamoEvent {f kind d a b mk} : Keeps (vamoEvent f kind d a b mk) :=
  .bind .vamoPlan fun _ => .bind .vamoCheck fun _ => .bind .getS fun _ => .bind .vamoGroups fun _ => .bind .writePurse fun _ =>
    .bind .modS fun _ => .bind .receipt fun _ => .pure
theorem Keeps.vamo {f d a b mk} : Keeps (vamo f d a b mk) := .bind .vamoEvent fun _ => .pure

theorem Keeps.cutMeaning {cut amr i m} (e : cutMeaning cut amr i = some m) : Keeps m := by
  unfold Machine.cutMeaning at e
  split at e <;> (try split at e) <;> cases e
  · exact .vecLoad
  · exact .vecStore
  · exact .vecLoad
  · exact .vecStore
  · exact .vecLoadCoded
  · exact .vecStoreCoded
  · exact .vecGatherMem
  · exact .vecScatter
  · exact .vecGatherMem
  · exact .storeConditional

end Sys2Proof.Machine
end

section
/-! Steps keep memory canonical: ordered atomics, contexts and escrow windows. -/

namespace Sys2Proof.Machine

variable {s : State}

theorem State.Canonical.actAs2 {place f} (h : s.Canonical) (hf : ∀ u : State, u.Canonical → (f u).1.Canonical) :
    (s.actAs2 place f).1.Canonical := by
  refine .fst_ite (hf s h) ?_
  split
  · exact h
  · next i _ =>
    have hr := hf { s with strand := s.parked.getD i s.strand, parked := s.parked.set i s.strand } ⟨h.wf⟩
    exact ⟨hr.wf⟩

theorem Keeps.ordEvent {i stream} : Keeps (ordEvent i stream) := by
  unfold Machine.ordEvent
  split
  · exact .vamoEvent
  · split
    · exact .amoEvent
    · exact .pure

theorem Keeps.ordCheck {i stream} : Keeps (ordCheck i stream) := by
  unfold Machine.ordCheck
  split
  · exact .bind .vamoPlan fun _ => .bind .vamoCheck fun _ => .pure
  · split
    · exact .bind .getS fun _ => .bind .accessCheck fun _ => .pure
    · exact .pure

theorem State.Canonical.saveAgain {was} (h : s.Canonical) : (s.saveAgain was).Canonical := .ite h.save h
theorem State.Canonical.ordTrap {e x} (h : s.Canonical) : (s.ordTrap e x).Canonical := h.mapStrand.takeTrap.saveAgain

theorem State.Canonical.performOrd {e} (h : s.Canonical) : (s.performOrd e).1.Canonical := by
  unfold State.performOrd
  dsimp only
  split
  · exact h
  · refine .fst_ite h (.fst_ite h (.fst_ite h (h.actAs2 fun u hu => ?_)))
    have hr : State.Canonical { u with strand := { u.strand with run := .ready, saved := none } } := ⟨hu.wf⟩
    split
    · next e1 => exact (Keeps.ordEvent.of_ok hr e1).mapStrand.saveAgain
    · next e1 => exact (Keeps.ordEvent.of_error hr e1).mapStrand.ordTrap
    · exact hu
    · exact hu.tagStall

theorem State.Canonical.setOrdNext {e n} (h : s.Canonical) : (s.setOrdNext e n).Canonical := ⟨h.wf⟩

theorem State.Canonical.drainOrd {e n} (h : s.Canonical) : (s.drainOrd e n).Canonical := by
  induction n generalizing s with
  | zero => exact h
  | succ n ih =>
    unfold State.drainOrd
    split
    · exact h
    · dsimp only
      split
      · exact ih (.setOrdNext (.of_wf h.performOrd.wf))
      · exact (.of_wf h.performOrd.wf)
      · exact h.performOrd

theorem State.Canonical.holdOrd {e inBuffer} (h : s.Canonical) : (s.holdOrd e inBuffer).Canonical := ⟨h.wf⟩

theorem State.Canonical.ordArrive {e addr} (h : s.Canonical) : (s.ordArrive e addr).Canonical := by
  unfold State.ordArrive
  extract_lets held s0 next others gone
  have h0 : s0.Canonical := .ite h h.setOrdNext
  exact .ite h.holdOrd (.ite (.actAs ⟨h0.wf⟩ fun _ h => h.ordTrap) (.ite h0.holdOrd.drainOrd (.ite h0.holdOrd h0.holdOrd)))

theorem NextCanonical.issueOrdered {i} (h : s.Canonical) : NextCanonical (issueOrdered i s) := by
  unfold Machine.issueOrdered
  dsimp only
  split
  · next e => exact .next (Keeps.ordCheck.of_error h e).takeTrap
  · exact .next h.waits
  · exact .next h.waits.tagStall
  · next e => exact .next (.ordArrive ⟨(Keeps.ordCheck.of_ok h e).wf⟩)

theorem NextCanonical.execOrderedAtomicArrival {n} (h : s.Canonical) : NextCanonical (execOrderedAtomicArrival n s) := by
  unfold Machine.execOrderedAtomicArrival
  split
  · exact .next h
  · exact .next h.ordArrive

theorem NextCanonical.execOrderedAtomicApply {die slice id} (h : s.Canonical) : NextCanonical (execOrderedAtomicApply die slice id s) := by
  unfold Machine.execOrderedAtomicApply
  split
  · exact .next h
  · exact .next h.drainOrd

theorem State.Canonical.cutFlight (h : s.Canonical) : s.cutFlight.Canonical := by
  have hu : State.Canonical { s with fresh := s.fresh + 2 } := ⟨h.wf⟩
  refine .ite hu ?_
  split
  · next v w e =>
    have hv : v.Canonical := .of_fst hu.fetch e
    split
    · exact hu
    · dsimp only
      split
      · exact hu
      · next m em =>
        have hm : Keeps (do m; modS Strand.advance) := .bind (Keeps.cutMeaning em) fun _ => .modS
        split
        · next e1 => exact hm.of_ok hv.mapStrand e1
        · next e1 => exact .ite (hm.of_error hv.mapStrand e1).mapStrand (hm.of_error hv.mapStrand e1).takeTrap
        · exact hu
  · exact hu

theorem State.Canonical.preempt {place} (h : s.Canonical) : (s.preempt place).Canonical := by
  unfold State.preempt
  split
  · exact h
  · refine .ite ?_ (.ite h.updateAt h)
    dsimp only
    split
    · exact .ite (.save (.ite (h.actAs fun _ h1 => h1.cutFlight) h)) (.ite (h.actAs fun _ h1 => h1.cutFlight) h)
    · exact .ite (h.actAs fun _ h1 => h1.cutFlight) h

theorem State.Canonical.saveDue (h : s.Canonical) : s.saveDue.Canonical := h.foldl fun _ _ h1 => h1.preempt

theorem State.Canonical.restore {place} (h : s.Canonical) : (s.restore place).Canonical := by
  unfold State.restore
  split
  · exact h
  · refine .ite h (.ite (.ite h h.suspendAt) (.updateAt ?_))
    split
    · exact h.setLaunch
    · exact h

theorem State.Canonical.drainStrand {cluster bnf t} (h : s.Canonical) : (s.drainStrand cluster bnf t).Canonical :=
  .ite h.suspendAt (.ite (.ite h h.suspendAt) (.ite h.updateAt h.preempt))
theorem State.Canonical.drainCluster {cluster bnf} (h : s.Canonical) : (s.drainCluster cluster bnf).Canonical :=
  .foldl (.ite h.setField.setField h.setField) fun _ _ h1 => h1.drainStrand
theorem State.Canonical.rehome {m} (h : s.Canonical) : (s.rehome m).Canonical := ⟨h.wf⟩
theorem State.Canonical.zeroCluster {cluster} (h : s.Canonical) : (s.zeroCluster cluster).Canonical :=
  .of_wf (State.Canonical.wf (h.zeroRange.foldl fun _ _ h1 => h1.zeroRange.zeroRange.zeroRange))
theorem State.Canonical.killLaunches {launches} (h : s.Canonical) : (s.killLaunches launches).Canonical :=
  h.foldl fun _ _ h1 => h1.drainAll.endStrand
theorem State.Canonical.leaveCluster {part cluster} (h : s.Canonical) : (s.leaveCluster part cluster).Canonical :=
  h.zeroCluster.setField.setReg64
theorem State.Canonical.moveCores {m} (h : s.Canonical) : (s.moveCores m).Canonical :=
  .foldl (.rehome (h.foldl fun _ _ h1 => h1.drainAll)) fun _ _ h1 => h1.restore
theorem State.Canonical.carryCores {m} (h : s.Canonical) : (s.carryCores m).Canonical :=
  h.foldl fun _ _ h1 => h1.movePage.movePage.movePage
theorem State.Canonical.moveCluster {src dst} (h : s.Canonical) : (s.moveCluster src dst).Canonical :=
  .moveCores (.movePage (h.foldl fun _ _ h1 => h1.drainAll))

theorem State.Canonical.vacate {part cluster} (h : s.Canonical) : (s.vacate part cluster).Canonical := by
  unfold State.vacate
  dsimp only
  split
  · exact .leaveCluster (.moveCores (.carryCores ⟨h.wf⟩))
  · exact .leaveCluster (.moveCluster (.carryCores ⟨h.wf⟩))
  · exact ⟨h.wf⟩

theorem NextCanonical.execClusterRetire {die cluster target} (h : s.Canonical) :
    NextCanonical (execClusterRetire die cluster target s) := by
  refine .ite (.next h) ?_
  split
  · exact .next h.zeroCluster.setField
  · exact .next (.ite h.moveCluster.leaveCluster h)
  · exact .next (.ite h.vacate (.ite h h.killLaunches.leaveCluster))

theorem State.Canonical.setEscrow {e} (h : s.Canonical) : (s.setEscrow e).Canonical := ⟨h.wf⟩
theorem State.Canonical.setTag {r} (h : s.Canonical) : (s.setTag r).Canonical := ⟨h.wf⟩
theorem State.Canonical.reserveCell {e i b cell} (h : s.Canonical) : (s.reserveCell e i b cell).Canonical := h.setTag

theorem State.Canonical.meetCell {e cell} (h : s.Canonical) : (s.meetCell e cell).Canonical := by
  unfold State.meetCell
  split
  · exact h
  · exact .ite h h.useUpset.setTag.postRecord

theorem Keeps.meetCells {e cells} : Keeps (meetCells e cells) :=
  .modify fun _ h => .ite h (h.foldl fun _ _ h1 => h1.meetCell)

theorem Keeps.checkCell {mode va} : Keeps (checkCell mode va) := by
  refine .whenThen .raise fun _ => .get_bind fun _ h => ?_
  split
  · next u1 _ e1 => exact .bind (.set (.of_fst h.check e1)) fun _ => .raise
  · next u1 _ e1 => exact .bind (.set (.of_fst h.check e1)) fun _ => .pure

theorem Keeps.checkCells {mode g j es} : Keeps (checkCells mode g j es) := by
  induction es generalizing j with
  | nil => exact .pure
  | cons e es ih => exact .ite (.bind .checkCell fun _ => .bind ih fun _ => .pure) ih

theorem Keeps.cellPlan {a b mk} : Keeps (cellPlan a b mk) :=
  .bind .useRegs fun _ => .bind .useCode fun _ => .bind .govern fun _ => .bind .source fun _ => .bind .getS fun _ => .pure

theorem Keeps.openWindow {a b} : Keeps (openWindow a b) := by
  refine .bind .getS fun _ => .bind .checkWordsAligned fun _ => .bind .loadWords fun _ => .get_bind fun _ h => ?_
  split
  · exact .receipt
  · exact .ite .receipt (.bind (.set h.setEscrow) fun _ => .receipt)

theorem Keeps.reserveCells {a b mk} : Keeps (reserveCells a b mk) := by
  refine .bind .cellPlan fun _ => .get_bind fun _ _ => ?_
  split
  · exact .receipt
  · refine .bind .checkCells fun _ => ?_
    dsimp only
    split
    · exact .bind .throw fun _ => .bind .meetCells fun _ => .bind (.modify fun _ h1 => h1.foldl fun _ _ h2 => h2.reserveCell) fun _ =>
        .receipt
    · exact .bind .meetCells fun _ => .bind (.modify fun _ h1 => h1.foldl fun _ _ h2 => h2.reserveCell) fun _ => .receipt

theorem Keeps.checkReserved {d a b mk} : Keeps (checkReserved d a b mk) := by
  refine .bind .cellPlan fun _ => .get_bind fun _ _ => ?_
  split
  · exact .bind .modS fun _ => .receipt
  · exact .bind .checkCells fun _ => .bind .meetCells fun _ => .get_bind fun _ _ => .bind .modS fun _ => .receipt

theorem Keeps.slotIterations {e base cap own ts} : Keeps (slotIterations e base cap own ts) := by
  induction ts with
  | nil => exact .pure
  | cons t ts ih =>
    refine .ite ?_ (.bind ih fun _ => .pure)
    exact .get_bind fun _ _ => .bind .accessCheck fun _ => .whenThen (.modify fun _ h => ⟨h.wf⟩) fun _ => .bind .loadBytes fun _ =>
        .bind ih fun _ => .pure

theorem Keeps.advanceWindow {a b} : Keeps (advanceWindow a b) := by
  refine .get_bind fun _ _ => ?_
  dsimp only
  split
  · exact .receipt
  · exact .bind .checkWordsAligned fun _ => .bind .homeWords fun _ => .bind .loadWords fun _ =>
      .ite .receipt (.bind .slotIterations fun _ => .bind .checkEntries fun _ => .bind .cleanEntries fun _ => .bind .cleanCheck fun _ =>
      .whenThen .cleanCheck fun _ => .bind .homeWords fun _ => .bind .storeEntries fun _ => .bind .storeWords fun _ =>
      .ite (.bind .storeWords fun _ => .bind (.modify fun _ h1 => ⟨h1.wf⟩) fun _ => .bind (.modify fun _ h1 => h1.setEscrow) fun _ =>
      .receipt) (.bind (.modify fun _ h1 => h1.setEscrow) fun _ => .receipt))

end Sys2Proof.Machine
end

section
/-! Steps keep memory canonical: launches and graph nodes. -/

namespace Sys2Proof.Machine

variable {s : State}

theorem State.Canonical.settleCore {core} (h : s.Canonical) : (s.settleCore core).Canonical := .of_wf h.drainAll.wf
theorem State.Canonical.startLaunch {r l segs tops clean} (h : s.Canonical) : (s.startLaunch r l segs tops clean).Canonical :=
  .foldl (.of_wf (State.Canonical.wf (h.foldl fun _ _ h1 => h1.settleCore))) fun _ _ h1 => h1.actAs fun _ h2 => h2.setvl
theorem State.Canonical.freeLaunch {id} (h : s.Canonical) : (s.freeLaunch id).Canonical := ⟨h.wf⟩
theorem State.Canonical.killLaunch {l nerr} (h : s.Canonical) : (s.killLaunch l nerr).Canonical :=
  .of_wf (State.Canonical.wf (h.foldl fun _ _ h1 => h1.drainAll.endStrand))
theorem State.Canonical.runNode {n state nerr} (h : s.Canonical) : (s.runNode n state nerr).Canonical := h.setNode

theorem NextCanonical.withNode {part i type going f} (h : s.Canonical) (hf : ∀ x0, (f x0).Canonical) :
    NextCanonical (s.withNode part i type going f) := by
  unfold State.withNode
  split
  · exact .next h
  · exact .next (.ite (hf _) h.runNode)

theorem State.Canonical.placeKernel {n places tops} (h : s.Canonical) : (s.placeKernel n places tops).Canonical := by
  unfold State.placeKernel
  split
  · exact h.runNode
  · exact .ite h.startLaunch.runNode h

theorem State.Canonical.startKernel {n places tops} (h : s.Canonical) : (s.startKernel n places tops).Canonical :=
  .ite h (.placeKernel (h.foldl fun _ _ h1 => h1.hubTouch))
theorem State.Canonical.issueNode {n op} (h : s.Canonical) : (s.issueNode n op).Canonical :=
  .ite h.runNode (.ite h.runNode (.ite h h.accept.runNode))

theorem State.Canonical.issueBatch {part i n} (h : s.Canonical) : (s.issueBatch part i n).Canonical := by
  induction n generalizing s with
  | zero => exact h
  | succ n ih =>
    unfold State.issueBatch
    split
    · exact h
    · refine .ite h (.ite h ?_)
      dsimp only
      split
      · exact h.hubTouch.runNode
      · exact .ite h.hubTouch.runNode (.ite h.hubTouch (ih h.hubTouch.accept.runNode))

theorem State.Canonical.compressPage {part va on u} (h : s.Canonical) (e : s.compressPage part va on = some u) : u.Canonical := by
  unfold State.compressPage at e
  dsimp only at e
  split at e
  · cases e
  · split at e
    · split at e <;> cases e
      · exact h.touchWalk
      · exact .layOut (.of_wf (State.Canonical.wf (h.touchWalk.foldl fun _ _ h1 => .of_wf (Memory.wf_writeLE _ _ _ h1.wf))))
    · cases e

theorem State.Canonical.compressRange {n on k} (h : s.Canonical) : (s.compressRange n on k).Canonical := by
  induction k generalizing s with
  | zero => exact h.runNode
  | succ k ih =>
    refine .ite h.runNode ?_
    split
    · exact h.runNode
    · next e => exact ih (h.compressPage e)

theorem State.Canonical.postInterrupt {part vector index value} (h : s.Canonical) : (s.postInterrupt part vector index value).Canonical :=
  h.hubWrite.setField.interrupt
theorem State.Canonical.signal {n} (h : s.Canonical) : (s.signal n).Canonical :=
  .ite h.runNode (.ite h (.ite h (.runNode (.ite (.postInterrupt (.ite h h.hubWrite)) (.ite h h.hubWrite)))))

theorem NextCanonical.execWait {part node} (h : s.Canonical) : NextCanonical (execWait part node s) := by
  refine .withNode h fun _ => .ite h ?_
  dsimp only
  split
  · exact h.hubTouch.runNode
  · exact .ite h.hubTouch.runNode h.hubTouch.runNode

theorem State.Canonical.decrement {part j} (h : s.Canonical) : (s.decrement part j).Canonical := by
  unfold State.decrement
  split
  · exact ⟨h.wf⟩
  · exact .ite h.graphError (.ite h.graphError h.setNode)

theorem State.Canonical.retireNodes {part n} (h : s.Canonical) : (s.retireNodes part n).Canonical := by
  induction n generalizing s with
  | zero => exact h
  | succ n ih =>
    unfold State.retireNodes
    dsimp only
    split
    · exact .ite (ih h.setField) h
    · exact h

theorem State.Canonical.killNode {n nerr} (h : s.Canonical) : (s.killNode n nerr).Canonical := by
  refine .setNode (.foldl ?_ fun _ _ h1 => .ite (.of_wf h1.stopCmd.wf) h1.stopCmd)
  split
  · exact h.killLaunch
  · exact h

theorem State.Canonical.joinPolicy {n} (h : s.Canonical) : (s.joinPolicy n).Canonical := by
  refine h.foldl fun _ _ h1 => ?_
  split
  · exact .ite h1.killNode h1
  · exact h1

theorem State.Canonical.endNode {n} (h : s.Canonical) : (s.endNode n).Canonical := by
  unfold State.endNode
  split
  extract_lets s1 s2 kills s3 s4 s5
  have h1 : s1.Canonical := .ite h h.hubWrite
  have h2 : s2.Canonical := .ite h1.hubWrite h1
  have h3 : s3.Canonical := by
    dsimp only [s3]
    split
    · exact h2.freeLaunch
    · exact h2
  have h5 : s5.Canonical := .ite h3.setNode.joinPolicy h3.setNode
  exact (h5.foldl fun _ _ h => h.decrement).retireNodes

theorem NextCanonical.execNodeEnd {part node} (h : s.Canonical) : NextCanonical (execNodeEnd part node s) := by
  unfold Machine.execNodeEnd
  split
  · exact .next h
  · exact .ite (.next h) (.ite (.next h.endNode) (.ite (.next h.endNode) (.next h)))

theorem NextCanonical.execJoin {part node} (h : s.Canonical) : NextCanonical (execJoin part node s) := by
  unfold Machine.execJoin
  split
  · exact .next h
  · exact .next (.ite h (.ite h.endNode h.endNode))

theorem State.Canonical.hostKill {n} (h : s.Canonical) : (s.hostKill n).Canonical := by
  unfold State.hostKill
  dsimp only
  split
  · exact .ite h.killNode.endNode h.killNode
  · exact h.killNode

theorem NextCanonical.execKilledByTheHost {part node} (h : s.Canonical) : NextCanonical (execKilledByTheHost part node s) := by
  unfold Machine.execKilledByTheHost
  split
  · exact .next h
  · exact .next (.ite h h.hostKill)

end Sys2Proof.Machine
end

section
/-! Steps keep memory canonical: writes to the hub, host and fabric requests. -/

namespace Sys2Proof.Machine

variable {s : State}

theorem State.Canonical.endPcmd {part} (h : s.Canonical) : (s.endPcmd part).Canonical := h.setField.setReg64
theorem State.Canonical.endOp {part op} (h : s.Canonical) : (s.endOp part op).Canonical := .ite h.endPcmd h.setField
theorem State.Canonical.endResize {part} (h : s.Canonical) : (s.endResize part).Canonical := .ite h.endPcmd h.setReg64
theorem State.Canonical.refusePcmd {part} (h : s.Canonical) : (s.refusePcmd part).Canonical := h.setField.endResize
theorem State.Canonical.setPartState {part v} (h : s.Canonical) : (s.setPartState part v).Canonical := h.setField
theorem State.Canonical.zeroUnit {d u} (h : s.Canonical) : (s.zeroUnit d u).Canonical := h.zeroRange
theorem State.Canonical.growUnits {part d n} (h : s.Canonical) : (s.growUnits part d n).Canonical :=
  .foldl ⟨h.wf⟩ fun _ _ h1 => h1.zeroUnit
theorem State.Canonical.shrinkUnits {part d n} (h : s.Canonical) : (s.shrinkUnits part d n).Canonical :=
  .foldl ⟨h.wf⟩ fun _ _ h1 => h1.zeroUnit
theorem State.Canonical.takeNext {part} (h : s.Canonical) : (s.takeNext part).Canonical :=
  .setPartState (.setField (h.foldl fun _ _ h1 => h1.setReg64))
theorem State.Canonical.createPart {part} (h : s.Canonical) : (s.createPart part).Canonical :=
  .endPcmd (.takeNext (.foldl (h.foldl fun _ _ h1 => h1.zeroCluster) fun _ _ h1 => h1.growUnits))
theorem State.Canonical.beginResize {part} (h : s.Canonical) : (s.beginResize part).Canonical := h.setPartState.setField
theorem State.Canonical.addNext {part} (h : s.Canonical) : (s.addNext part).Canonical :=
  .beginResize (.setField (.foldl (.foldl (.foldl (h.foldl fun _ _ h1 => h1.zeroCluster) fun _ _ h1 => h1.growUnits) fun _ _ h1 =>
    h1.setReg64) fun _ _ h1 => h1.setField))
theorem State.Canonical.removeCluster {part cluster} (h : s.Canonical) : (s.removeCluster part cluster).Canonical :=
  .ite h (.ite (.ite h h.leaveCluster) (.ite h.drainCluster h))
theorem State.Canonical.workResize {part} (h : s.Canonical) : (s.workResize part).Canonical :=
  .ite (.postRecord (.endResize (.takeNext (.foldl (h.foldl fun _ _ h1 => h1.removeCluster) fun _ _ h1 => h1.shrinkUnits)))) (h.foldl
    fun _ _ h1 => h1.removeCluster)
theorem State.Canonical.dropCommands {part} (h : s.Canonical) : (s.dropCommands part).Canonical :=
  h.foldl fun _ _ h1 => .ite (.of_wf h1.stopCmd.wf) h1.stopCmd

theorem State.Canonical.killPart {part} (h : s.Canonical) : (s.killPart part).Canonical := by
  refine h.foldl fun _ _ h1 => ?_
  dsimp only
  split
  · exact h1.killNode.endNode
  · exact h1.killNode

theorem State.Canonical.destroyPart {part} (h : s.Canonical) : (s.destroyPart part).Canonical :=
  .endPcmd (.setPartState (.setField (.of_wf (State.Canonical.wf (.foldl (.foldl (h.killPart.dropCommands.foldl fun _ _ h1 =>
    h1.zeroCluster) fun _ _ h1 => h1.shrinkUnits) fun _ _ h1 => h1.setReg64)))))

theorem State.Canonical.thaw {t} (h : s.Canonical) : (s.thaw t).Canonical := by
  unfold State.thaw
  split
  · exact h.clearRecord.updateAt
  · exact h

theorem State.Canonical.thawQueue {c} (h : s.Canonical) : (s.thawQueue c).Canonical := by
  unfold State.thawQueue
  split
  · exact .ite (.of_wf h.clearRecord.stopCmd.markNode.wf) h
  · exact h

theorem State.Canonical.replayHost {part} (h : s.Canonical) : (s.replayHost part).Canonical :=
  .foldl ⟨h.wf⟩ fun _ _ h1 => .breakLinks (.noteStore (.of_wf (Memory.wf_write _ _ h1.wf)))
theorem State.Canonical.thawVf {part} (h : s.Canonical) : (s.thawVf part).Canonical :=
  .ite h h.setPartState.replayHost.appendHeld.flushRecords
theorem State.Canonical.releasePart {part} (h : s.Canonical) : (s.releasePart part).Canonical :=
  .endOp (.thawVf (.foldl (h.foldl fun _ _ h1 => h1.thaw) fun _ _ h1 => h1.thawQueue))
theorem State.Canonical.vfViolation {part addr} (h : s.Canonical) : (s.vfViolation part addr).Canonical :=
  .ite h h.postRecord.setPartState
theorem State.Canonical.markHost {k n line t} (h : s.Canonical) : (s.markHost k n line t).Canonical := ⟨h.wf⟩
theorem State.Canonical.outsidePut {k bs t} (h : s.Canonical) : (s.outsidePut k bs t).Canonical :=
  .foldl (.noteStore (.writeCells (.of_wf (Memory.wf_put _ _ h.reachRange.wf)))) fun _ _ h1 => h1.markHost.breakLinks
theorem State.Canonical.outsideStore {k bs t} (h : s.Canonical) : (s.outsideStore k bs t).Canonical :=
  .ite h.outsidePut (h.outsidePut.foldl fun _ _ h1 => h1.loseBlock)
theorem State.Canonical.outsideRegs {pf k bs} (h : s.Canonical) : (s.outsideRegs pf k bs).Canonical :=
  h.foldl fun _ _ h1 => .ite h1.regWrite h1.regStore
theorem State.Canonical.outsideRead {k n} (h : s.Canonical) : (s.outsideRead k n).Canonical :=
  .of_wf (State.Canonical.wf (.ite h h.reachRange))
theorem State.Canonical.outsideAmo {f k data} (h : s.Canonical) : (s.outsideAmo f k data).Canonical :=
  .of_wf h.outsideStore.wf

theorem NextCanonical.execFabricRequest {part addr op data} (h : s.Canonical) : NextCanonical (execFabricRequest part addr op data s) := by
  refine .ite (.next ⟨h.wf⟩) (.ite (.next h) ?_)
  split
  · exact .next h.outsideRead
  · exact .next (.ite (.of_wf (State.Canonical.wf (.ite h h.reachRange))) (.outsideAmo (.ite h h.reachRange)))
  · exact .next (.of_wf (State.Canonical.wf (.ite h.outsideRegs h.outsideStore)))

theorem State.Canonical.setLink {l} (h : s.Canonical) : (s.setLink l).Canonical := ⟨h.wf⟩
theorem State.Canonical.flood {packet} (h : s.Canonical) : (s.flood packet).Canonical :=
  h.foldl fun _ _ h1 => h1.setLink
theorem State.Canonical.learnFailed {dev} (h : s.Canonical) : (s.learnFailed dev).Canonical := .ite h (.flood ⟨h.wf⟩)
theorem State.Canonical.quiesce {l} (h : s.Canonical) : (s.quiesce l).Canonical :=
  h.setLaunch.foldl fun _ _ h1 => h1.preempt
theorem State.Canonical.quiesceFor {dev} (h : s.Canonical) : (s.quiesceFor dev).Canonical :=
  h.foldl fun _ _ h1 => h1.quiesce

end Sys2Proof.Machine
end

section
/-! Steps keep memory canonical: tiles, reductions and scalar meanings. -/

namespace Sys2Proof.Machine

variable {s : State}

theorem Keeps.groupBelow {x} : Keeps (groupBelow x) := .bind .getS fun _ => .ite .raise .pure

theorem Keeps.tileOperand {f ok} : Keeps (tileOperand f ok) := by
  refine .bind .getS fun _ => ?_
  dsimp only
  split
  · exact .bind .groupBelow fun _ => .ite .pure .raise
  · exact .raise

theorem Keeps.tagCode {tag ok} : Keeps (tagCode tag ok) := .bind .getS fun _ => .ite .pure .raise
theorem Keeps.tileCode {x} : Keeps (tileCode x) := .bind .getS fun _ => .tagCode
theorem Keeps.groupFits {base gl} : Keeps (groupFits base gl) := .bind .getS fun _ => .ite .raise (.ite .raise .pure)
theorem Keeps.storeTile {x codes tarn f} : Keeps (storeTile x codes tarn f) := .modS
theorem Keeps.denseTarget {c x} : Keeps (denseTarget c x) := .bind .getS fun _ => .whenThen .raise fun _ => .pure

theorem Keeps.grantShape {d a} : Keeps (grantShape d a) := by
  refine .bind .getS fun _ => ?_
  dsimp only
  split <;> exact .modS

theorem Keeps.zeroTile {d} : Keeps (zeroTile d) :=
  .bind .getS fun _ => .bind .groupFits fun _ => .bind .tileCode fun _ => .modS
theorem Keeps.loadOperand {va n} : Keeps (loadOperand va n) := .bind .checkPieces fun _ => .loadPieces

theorem Keeps.loadScale {o} : Keeps (loadScale o) := by
  refine .get_bind fun _ h => ?_
  dsimp only
  split
  · exact .raise
  · next u1 e1 => exact .bind (.set (h.assayCheck e1)) fun _ => .whenThen .raise fun _ => .pure

theorem Keeps.loadScales {o n} : Keeps (loadScales o n) := by
  induction n generalizing o with
  | zero => exact .pure
  | succ n ih => exact .bind .loadScale fun _ => .bind ih fun _ => .pure

theorem Keeps.loadRow {o kt r} : Keeps (loadRow o kt r) := by
  unfold Machine.loadRow
  exact .whenThen .raise fun _ => .bind .loadOperand fun _ => .ite .pure (.ite .pure (.bind .loadScales fun _ => .pure))

theorem Keeps.loadRows {o kt r n} : Keeps (loadRows o kt r n) := by
  induction n generalizing r with
  | zero => exact .pure
  | succ n ih => exact .bind .loadRow fun _ => .bind ih fun _ => .pure

theorem Keeps.loadDescriptor {va} : Keeps (loadDescriptor va) := by
  unfold Machine.loadDescriptor
  exact .whenThen .raise fun _ => .bind .checkPieces fun _ => .loadPieces

theorem Keeps.loadMap {all x kt} : Keeps (loadMap all x kt) :=
  .bind .getS fun _ => .ite .pure (.bind .loadOperand fun _ => .pure)
theorem Keeps.multiply {d a b} : Keeps (multiply d a b) :=
  .bind .tileOperand fun _ => .bind .tileCode fun _ => .bind .getS fun _ => .ite .pure (.bind .loadDescriptor fun _ =>
    .bind .tagCode fun _ => .bind .tagCode fun _ => .bind .loadMap fun _ => .bind .loadRows fun _ => .bind .loadRows fun _ =>
    .bind .denseTarget fun _ => .storeTile)
theorem Keeps.multiplyFactor {d a b} : Keeps (multiplyFactor d a b) :=
  .bind .tileOperand fun _ => .bind .tileOperand fun _ => .bind .tileCode fun _ => .bind .tileCode fun _ => .bind .getS fun _ =>
    .bind .loadDescriptor fun _ => .bind .tagCode fun _ => .bind .loadMap fun _ => .bind .loadRows fun _ =>
    .ite .pure (.bind .denseTarget fun _ => .storeTile)
theorem Keeps.setMap {d a} : Keeps (setMap d a) :=
  .bind .tileOperand fun _ => .bind .tileCode fun _ => .bind .getS fun _ => .whenThen .raise fun _ => .modS
theorem Keeps.lowRankUpdate {d a b} : Keeps (lowRankUpdate d a b) :=
  .bind .tileOperand fun _ => .bind .useRegs fun _ => .bind .getS fun _ => .bind .tagCode fun _ => .bind .tagCode fun _ =>
    .bind .tagCode fun _ => .ite .pure (.ite .storeTile (.bind .denseTarget fun _ => .storeTile))
theorem Keeps.addTile {d a} : Keeps (addTile d a) :=
  .bind .tileOperand fun _ => .bind .tileOperand fun _ => .bind .tileCode fun _ => .bind .tileCode fun _ => .bind .getS fun _ =>
    .ite .storeTile (.bind .denseTarget fun _ => .storeTile)

theorem Keeps.recompressTile {d} : Keeps (recompressTile d) :=
  .bind .tileOperand fun _ => .bind .tileCode fun _ => .get_bind fun _ h => .ite .pure
    (.ite .modS (.whenThen (.set ⟨h.wf⟩) fun _ => .storeTile))

theorem Keeps.densify {d a} : Keeps (densify d a) :=
  .bind .tileOperand fun _ => .bind .getS fun _ => .bind .groupFits fun _ => .bind .tagCode fun _ => .modS
theorem Keeps.rankOf {d a} : Keeps (rankOf d a) := .bind .useRegs fun _ => .modS

theorem Keeps.convertTile {d a} : Keeps (convertTile d a) := by
  refine .bind .getS fun _ => ?_
  dsimp only
  split
  · exact .raise
  · exact .bind .groupBelow fun _ => .bind .useRegs fun _ => .bind .useCode fun _ => .bind .tileCode fun _ => .bind .depositCells fun _ =>
      .receipt

theorem Keeps.engineReadRange {c phys n va k} : Keeps (engineReadRange c phys n va k) := by
  induction n generalizing va k with
  | zero => exact .pure
  | succ n ih => exact .ite .pure (.bind .engineRead fun _ => .bind ih fun _ => .pure)

theorem Keeps.writeResult {id base total n} : Keeps (writeResult id base total n) := by
  induction n with
  | zero => exact .pure
  | succ n ih =>
    refine .get_bind fun _ _ => ?_
    split
    · exact .pure
    · exact .ite .pure (.bind .engineReach fun _ => .bind .engineWriteAt fun _ => .bind (.modify fun _ h => h.updateCmd) fun _ => ih)

theorem Keeps.reachPages {c bad a base len l} : Keeps (reachPages c bad a base len l) := by
  induction l with
  | nil => exact .pure
  | cons i is ih =>
    refine .bind .engineReach fun _ => ?_
    split
    · exact ih
    · exact .throw

theorem Keeps.reachBuffers {c bad p l} : Keeps (reachBuffers c bad p l) := by
  induction l with
  | nil => exact .reachPages
  | cons b bs ih => exact .bind .reachPages fun _ => ih

theorem Keeps.readSources {c len l} : Keeps (readSources c len l) := by
  induction l with
  | nil => exact .pure
  | cons a as ih => exact .bind .engineReadRange fun _ => .bind ih fun _ => .pure

theorem Keeps.performReduce {c} : Keeps (performReduce c) := by
  refine .ite (.bind .writeResult fun _ => .pure) (.bind .engineReadRange fun _ => ?_)
  split
  · exact .throw
  · exact .bind .reachBuffers fun _ => .bind .readSources fun _ => .bind (.modify fun _ h => h.updateCmd) fun _ =>
      .bind .writeResult fun _ => .pure

theorem NextCanonical.execReduce {stack} (h : s.Canonical) : NextCanonical (execReduce stack s) := by
  refine .ite (.next h) ?_
  split
  · exact .ite (.next h) (.next (h.workChecked fun _ => .performReduce))
  · exact .next h

theorem State.Canonical.result {d v t} (h : s.Canonical) : (s.result d v t).Canonical := h.mapStrand
theorem Keeps.loadInto {lz sx d a va} : Keeps (loadInto lz sx d a va) :=
  .bind .getS fun _ => .bind .accessCheck fun _ => .bind .loadBytes fun _ => .modS
theorem Keeps.loadAcquireInto {lz scope d a va} : Keeps (loadAcquireInto lz scope d a va) :=
  .bind .getS fun _ => .bind .accessCheck fun _ => .bind .loadAcquire fun _ => .modS
theorem Keeps.storeFrom {lz b a va} : Keeps (storeFrom lz b a va) :=
  .bind .getS fun _ => .bind .accessCheck fun _ => .bind .cleanCheck fun _ => .storeBytes
theorem Keeps.storeReleaseFrom {lz scope b a va} : Keeps (storeReleaseFrom lz scope b a va) :=
  .bind .getS fun _ => .bind .accessCheck fun _ => .bind .cleanCheck fun _ => .bind .releaseHere fun _ => .storeBytes

end Sys2Proof.Machine
end

section
/-! Steps keep memory canonical: searches, service commands and acquires. -/

namespace Sys2Proof.Machine

variable {s : State}

theorem State.Canonical.updateQuery {cmd f} (h : s.Canonical) : (s.updateQuery cmd f).Canonical := ⟨h.wf⟩
theorem State.Canonical.traceStore {part k bs} (h : s.Canonical) : (s.traceStore part k bs).Canonical :=
  .ite (h.foldl fun _ _ h1 => h1.regStore) (.ite ⟨h.wf⟩ h.engineStore)
theorem State.Canonical.trace {w kind info stack node dist} (h : s.Canonical) : (s.trace w kind info stack node dist).Canonical :=
  .ite h h.traceStore.setReg64
theorem Keeps.note {w kind info stack node dist} : Keeps (note w kind info stack node dist) :=
  .modify fun _ h => h.updateQuery.trace
theorem Keeps.keep {w} : Keeps (keep w) := .modify fun _ h => h.updateQuery
theorem Keeps.queryRead {c va n} : Keeps (queryRead c va n) :=
  .bind .engineReadRange fun _ => .bind (.modify fun _ h => h.updateQuery) fun _ => .pure

theorem Keeps.readDistance {c g vec va} : Keeps (readDistance c g vec va) := by
  refine .bind .queryRead fun _ => ?_
  split <;> exact .pure

theorem Keeps.readList {c g va} : Keeps (readList c g va) := by
  refine .bind .queryRead fun _ => ?_
  split
  · exact .pure
  · refine .ite .pure (.bind .queryRead fun _ => ?_)
    split <;> exact .pure

theorem Keeps.endQuery {w status} : Keeps (endQuery w status) := .bind .note fun _ => .pure
theorem Keeps.sendRequest {w stack node isList} : Keeps (sendRequest w stack node isList) := .bind .note fun _ => .pure

theorem Keeps.distanceOf {w node va stack} : Keeps (distanceOf w node va stack) := by
  refine .ite (.bind .readDistance fun _ => .pure) ?_
  split
  · exact .bind .sendRequest fun _ => .pure
  · refine .ite .pure ?_
    split <;> exact .pure

theorem Keeps.requestAll {w l} : Keeps (requestAll w l) := by
  induction l generalizing w with
  | nil => exact .pure
  | cons n ns ih =>
    unfold Machine.requestAll
    split
    · exact .ite (.bind .sendRequest fun _ => ih) ih
    · exact ih

theorem Keeps.startStep {c q} : Keeps (startStep c q) := by
  unfold Machine.startStep
  split
  · refine .bind .queryRead fun _ => ?_
    split
    · exact .get_bind fun _ h => .endQuery
    · exact .get_bind fun _ h => .ite .endQuery (.ite .endQuery (.bind .keep fun _ => .pure))
  · dsimp only
    split
    · refine .bind .queryRead fun _ => ?_
      split
      · exact .get_bind fun _ h => .endQuery
      · exact .get_bind fun _ h => .bind .keep fun _ => .pure
    · split
      · exact .endQuery
      · refine .bind .distanceOf fun _ => ?_
        split
        · exact .pure
        · exact .get_bind fun _ h => .endQuery
        · exact .get_bind fun _ _ => .bind .note fun _ => .pure

theorem Keeps.popStep {w} : Keeps (popStep w) := by
  unfold Machine.popStep
  split
  · exact .endQuery
  · refine .bind .note fun _ => ?_
    dsimp only
    split
    · exact .ite .endQuery (.bind .keep fun _ => .pure)
    · exact .bind .keep fun _ => .pure

theorem Keeps.listOf {w node va stack} : Keeps (listOf w node va stack) := by
  refine .ite (.bind .readList fun _ => .pure) ?_
  split
  · exact .bind .sendRequest fun _ => .pure
  · refine .ite .pure ?_
    split <;> exact .pure

theorem Keeps.listStep {w node} : Keeps (listStep w node) := by
  unfold Machine.listStep
  split
  · exact .endQuery
  · refine .bind .listOf fun _ => .get_bind fun _ _ => ?_
    dsimp only
    split
    · exact .pure
    · exact .endQuery
    · exact .ite .endQuery (.bind .keep fun _ => .bind .requestAll fun _ => .pure)

theorem Keeps.expandStep {w ns} : Keeps (expandStep w ns) := by
  refine .ite .pure ?_
  split
  · exact .bind .keep fun _ => .pure
  · split
    · exact .endQuery
    · refine .ite (.bind .keep fun _ => .pure) (.ite .endQuery (.bind .distanceOf fun _ => ?_))
      split
      · exact .pure
      · refine .get_bind fun _ _ => ?_
        dsimp only
        split
        · exact .endQuery
        · exact .bind .note fun _ => .pure

theorem Keeps.runQuery {id n} : Keeps (runQuery id n) := by
  induction n with
  | zero => exact .pure
  | succ n ih =>
    refine .get_bind fun _ _ => ?_
    split
    · split
      · exact .whenThen (.modify fun _ h => h.updateCmd) fun _ => .bind .writeResult fun _ => .pure
      · dsimp only
        refine .ite (.bind .startStep fun _ => .ite ih .pure) ?_
        split
        · exact .bind .popStep fun _ => .ite ih .pure
        · exact .bind .listStep fun _ => .ite ih .pure
        · exact .bind .expandStep fun _ => .ite ih .pure
    · exact .pure

theorem State.Canonical.workQuery {c} (h : s.Canonical) : (s.workQuery c).Canonical := h.workChecked fun _ => .runQuery

theorem NextCanonical.execSearch {stack} (h : s.Canonical) : NextCanonical (execSearch stack s) := by
  refine .ite (.next h) ?_
  split
  · exact .next h.workQuery
  · split
    · exact .ite (.next h) (.next (.workQuery (.trace (.updateCmd ⟨h.wf⟩))))
    · exact .next h

theorem Keeps.serveRead {c g vec va isList} : Keeps (serveRead c g vec va isList) := by
  refine .ite (.bind .readList fun _ => ?_) (.bind .readDistance fun _ => ?_)
  · split <;> exact .pure
  · split <;> exact .pure

theorem State.Canonical.serve {c q node isList} (h : s.Canonical) : (s.serve c q node isList).Canonical := by
  unfold State.serve
  split
  · dsimp only
    split
    · exact h
    · exact h.workOn fun _ => .bind .serveRead fun _ => .bind (.modify fun _ h1 => h1.updateQuery) fun _ => .pure
  · exact h

theorem NextCanonical.execListRequest {stack ctx node} (h : s.Canonical) : NextCanonical (execListRequest stack ctx node s) := by
  unfold Machine.execListRequest
  split
  · exact .next h.serve
  · exact .next h

theorem NextCanonical.execDistanceRequest {stack ctx node} (h : s.Canonical) : NextCanonical (execDistanceRequest stack ctx node s) := by
  unfold Machine.execDistanceRequest
  split
  · exact .next h.serve
  · exact .next h

theorem NextCanonical.execAnswer {stack ctx node} (h : s.Canonical) : NextCanonical (execAnswer stack ctx node s) := by
  unfold Machine.execAnswer
  split
  · exact .next h
  · split
    · exact .next h
    · exact .next (.ite h.updateQuery.trace.workQuery h.updateQuery.trace)

theorem State.Canonical.setSecure (h : s.Canonical) : s.setSecure.Canonical := h.setField
theorem State.Canonical.endFw {result} (h : s.Canonical) : (s.endFw result).Canonical :=
  .foldl (.of_wf h.setField.setField.setReg64.setSecure.interrupt.wf) fun _ _ h1 => h1.quiesceFor
theorem State.Canonical.keepImage {i} (h : s.Canonical) : (s.keepImage i).Canonical := ⟨h.wf⟩

theorem NextCanonical.execFwLoad {comp} (h : s.Canonical) : NextCanonical (execFwLoad comp s) := by
  refine .next (.ite h ?_)
  dsimp only
  split
  · exact h.reachRange.endFw
  · exact h.reachRange.keepImage.endFw

theorem State.Canonical.switchFails (h : s.Canonical) : s.switchFails.Canonical := h.postRecord.endFw

theorem NextCanonical.execChrExp (h : s.Canonical) : NextCanonical (execChrExp s) := by
  refine .next ?_
  split
  · exact .ite h.endFw (.ite h.endFw h.outsideStore.endFw)
  · exact h

theorem State.Canonical.answer {msg} (h : s.Canonical) : (s.answer msg).Canonical := ⟨h.wf⟩
theorem State.Canonical.answerSigned {fn nonce msg} (h : s.Canonical) : (s.answerSigned fn nonce msg).Canonical :=
  h.answer
theorem Keeps.takeCounted {n} : Keeps (takeCounted n) := .takeOwed
theorem Keeps.arriveAs {n after} : Keeps (arriveAs n after) :=
  .bind .getS fun _ => .ite .modS (.bind .modS fun _ => .modify fun _ h => h.arrive)
theorem Keeps.barrierWait {n} : Keeps (barrierWait n) := .bind .takeCounted fun _ => .arriveAs
theorem Keeps.observeCounted {n} : Keeps (observeCounted n) :=
  .get_bind fun _ h => .bind (.set h.observeAll) fun _ => .bind .takeOwed fun _ => .modS
theorem Keeps.barrierOnlyWait {n} : Keeps (barrierOnlyWait n) :=
  .bind .takeCounted fun _ => .get_bind fun _ _ => .ite .modS (.ite .modS .observeCounted)
theorem Keeps.finishPend {n} : Keeps (finishPend n) := .bind .modS fun _ => .bind .takeCounted fun _ => .observeCounted

theorem NextCanonical.endOfWait {o} (h : s.Canonical) (e : s.endOfWait = some o) : NextCanonical o := by
  unfold State.endOfWait at e
  split at e <;> cases e
  · exact .runM .finishPend h
  · exact .runM .finishToken h

theorem Keeps.barrierInit {n b} : Keeps (barrierInit n b) :=
  .get_bind fun _ h => .whenThen .raise fun _ => .set h.setBarrier.evalBarrier
theorem State.Canonical.flushRange {va n} (h : s.Canonical) : (s.flushRange va n).Canonical :=
  h.foldl fun _ _ h1 => h1.drainLine
theorem State.Canonical.invalidateRange {va n} (h : s.Canonical) : (s.invalidateRange va n).Canonical :=
  .ite (.of_wf h.flushRange.wf) (.of_wf (State.Canonical.wf (.drainAll (.of_wf h.flushRange.wf))))

end Sys2Proof.Machine
end

section
/-! Steps keep memory canonical: dispatch, a turn of the acting strand, and a step. -/

namespace Sys2Proof.Machine

variable {s : State}

theorem NextCanonical.exec {i} (h : s.Canonical) : NextCanonical (exec i s) := by
  cases i with
  | add | sub | and | or | xor | andn | orn | xnor | sll | srl | sra | rol | ror | slt | sltu | seq | sne | min | max | minu | maxu | mul
  | mulh | mulhu | mulhsu | clz | ctz | popc | brev | bswap | sextb | sexth | sextw | addi | andi | ori | xori | slti | sltui | slli | srli
  | srai | rori | lih | pcadd => exact .next h.result
  | div | divu | rem | remu => exact .next h.mapStrand.result
  | ldb | ldh | ldw | ldd | ldbu | ldhu | ldwu => exact .runStep .loadInto h
  | stb | sth | stw | std => exact .runStep .storeFrom h
  | ldab | ldah | ldaw | ldad => exact .runStep .loadAcquireInto h
  | stlb | stlh | stlw | stld => exact .runStep .storeReleaseFrom h
  | amoadd | amoand | amoor | amoxor | amomin | amomax | amominu | amomaxu | amoswap | amocas | amofadd32 | amofadd64 =>
    exact .runStep .amo h
  | amoaddO | amoandO | amoorO | amoxorO | amominO | amomaxO | amominuO | amomaxuO | amoswapO | amocasO | amofadd32O | amofadd64O | vamoo =>
    exact .issueOrdered h
  | beq | bne | blt | bge | bltu | bgeu => exact .runM .branch h
  | loopr => exact .runM .loopStep h
  | j | call | winb | rcpt | addrc | nop | vpref | scbq => exact .next h.mapStrand
  | jr => exact .runM .jumpRegister h
  | trap => exact .next h.takeTrap
  | tret => exact .runM .trapReturn h
  | exit => exact .runM .exitStrand h
  | fence => exact .next (.ite h.waits h.fence.mapStrand)
  | crd => exact .execCrd h
  | cwr => exact .execCwr h
  | cset => exact .execCset h
  | cclr => exact .execCclr h
  | illegalInstruction => exact .next h.illegal
  | vadd | vsub | vmul | vdiv | vmin | vmax | vand | vor | vxor | vshift => exact .runStep .vecBinary h
  | vfma | vfms | vfnma | vfnms => exact .runStep .vecFused h
  | vabs | vneg | vsqrt | vrsqrt | vrecip | vexp2 | vlog2 => exact .runStep .vecUnary h
  | vcmpeq | vcmplt | vcmple | vcmpne => exact .runStep .vecCompare h
  | vsel => exact .runStep .vecSelect h
  | vcvt => exact .runStep .vecConvert h
  | vcode => exact .runStep .setTag h
  | vbcast => exact .runStep .vecBroadcast h
  | vredsum | vredmax | vredmin => exact .runStep .vecReduce h
  | vscan => exact .runStep .vecScan h
  | vgathr => exact .runStep .vecGather h
  | vslide => exact .runStep .vecSlide h
  | vcomp => exact .runStep .vecCompress h
  | vexpd => exact .runStep .vecExpand h
  | vid => exact .runStep .vecIndex h
  | vrand => exact .runStep .vecRandom h
  | voffs | vlens => exact .runStep .vecMeasure h
  | vadds | vmuls | vshls | vshrs | vands | vmaxs | vmins => exact .runStep .vecScalar h
  | vfmas => exact .runStep .vecFusedScalar h
  | kand | kor | kxor | kcnt | knot | kfirst | getvl | vframe | setmask | tscale => exact .next h.mapStrand.mapStrand
  | setvl => exact .runStep .setVl h
  | vspill => exact .runStep (.faultsFirst .spill) h
  | vfill => exact .runStep (.faultsFirst .refill) h
  | vxch => exact .runStep .vecExchange h
  | vappend => exact .runStep (.faultsFirst .append) h
  | vld | vlds => exact .runStep .vecLoad h
  | vst | vsts => exact .runStep .vecStore h
  | vldc | vldcf => exact .runStep .vecLoadCoded h
  | vstc => exact .runStep .vecStoreCoded h
  | vgth | vgl => exact .runStep .vecGatherMem h
  | vsct => exact .runStep .vecScatter h
  | vsc => exact .ite (.next h.illegal) (.runStep .storeConditional h)
  | vamoadd | vamomin | vamomax | vamoxch | vamoand | vamoor | vamoxor => exact .runStep .vamo h
  | cmdb => exact .runStep .commandBatch h
  | cwait => exact .runM .waitToken h
  | ctok => exact .runStep .takeToken h
  | bar => exact .runM .barrierWait h
  | bara => exact .runM .arriveAs h
  | barw => exact .runM .barrierOnlyWait h
  | bari => exact .runStep .barrierInit h
  | acq => exact .next h.acquireAt.mapStrand
  | rel => exact .next (.ite h.waits h.releaseAt.mapStrand)
  | cflush => exact .next (.ite h.waits h.flushRange.mapStrand)
  | cinv => exact .next (.ite h.waits h.invalidateRange.mapStrand)
  | tshape => exact .runStep .grantShape h
  | tzero => exact .runStep .zeroTile h
  | tmma => exact .runStep (.faultsFirst .multiply) h
  | tlru => exact .runStep .lowRankUpdate h
  | tmmal => exact .runStep (.faultsFirst .multiplyFactor) h
  | tadd => exact .runStep .addTile h
  | trecomp => exact .runStep .recompressTile h
  | tdense => exact .runStep .densify h
  | trank => exact .runStep .rankOf h
  | tdup => exact .runStep .setMap h
  | tcvt => exact .runStep .convertTile h
  | ewin => exact .runStep (.faultsFirst .openWindow) h
  | ersv => exact .runStep (.faultsFirst .reserveCells) h
  | echk => exact .runStep (.faultsFirst .checkReserved) h
  | eadv => exact .runStep (.faultsFirst .advanceWindow) h
  | issueSlot => exact .next (.ite h h.issueTo)
  | levelBarrierRelease => exact .execLevelBarrierRelease h
  | copy | fill | scales | exchFill => exact .next (h.copyEvent fun _ => .performCopy)
  | convert => exact .next (h.copyEvent fun _ => .performConvert)
  | hostCopy => exact .next (h.copyEvent fun _ => .performHostCopy)
  | reduce => exact .execReduce h
  | search => exact .execSearch h
  | listRequest => exact .execListRequest h
  | distanceRequest => exact .execDistanceRequest h
  | answer => exact .execAnswer h
  | engineCompletion => exact .execEngineCompletion h
  | orderedAtomicArrival => exact .execOrderedAtomicArrival h
  | orderedAtomicApply => exact .execOrderedAtomicApply h
  | dirtyFifoDrain => exact .next h.drainOne
  | l1Writeback => exact .execL1Writeback h
  | relayout => exact .next (.ite h.layOut h)
  | stalledWriteResume => exact .next (.ite h h.setField.resumeStalled)
  | patrolScrub => exact .next (.ite (h.strike.foldl fun _ _ h1 => h1.request.readSector) h)
  | pageMigration => exact .execPageMigration h
  | trefiExpiry | refresh => exact .next (.ite h.setRec h)
  | selfRefreshEntry => exact .next (.ite h.setField.setRec h)
  | selfRefreshExit => exact .next (.ite h.setField h)
  | pchRetrain => exact .next (.ite h (.ite h.setField.failPch h.setField))
  | preemption => exact .next h.preempt
  | restore => exact .next h.restore
  | clusterDrain => exact .next (.ite h h.drainCluster)
  | clusterRetire => exact .execClusterRetire h
  | lgenWrite => exact .next (.ite h.writeLgen h)
  | trootWrite => exact .next (.ite h.writeTroot h)
  | tlbinvAll | tlbinvRange => exact .next (.ite h h.writeTlbinv)
  | gAppend => exact .next (.ite h.gappend h)
  | kernel => exact .withNode h fun _ => h.startKernel
  | copyNode | convertNode | reduceNode | hostCopyNode => exact .withNode h fun _ => h.issueNode
  | searchBatch => exact .withNode h fun _ => h.issueBatch
  | compress | decompress => exact .withNode h fun _ => h.compressRange
  | signal => exact .withNode h fun _ => h.signal
  | wait => exact .execWait h
  | join => exact .execJoin h
  | nodeEnd => exact .execNodeEnd h
  | hostWrite => exact .ite (.next h) (.ite (.next h.vfViolation) (.ite (.next h) (.ite (.next h.outsideRegs) (.next h.outsideStore))))
  | fabricRequest => exact .execFabricRequest h
  | flit | flitReplay | heartbeat | linkRecalibration => exact .next (.ite h h.setLink)
  | heartbeatTimeout | fatalErrorFlit => exact .next h.learnFailed
  | devFail => exact .next (.ite (.of_wf h.learnFailed.wf) h.learnFailed.quiesceFor)
  | create => exact .next (.ite h (.ite h.refusePcmd h.createPart))
  | resize => exact .next (.ite h (.ite h.workResize (.ite h.refusePcmd h.addNext.workResize)))
  | destroy => exact .next (.ite h (.ite h.refusePcmd h.destroyPart))
  | release => exact .next (.ite h.releasePart h)
  | resumeStrand => exact .next (.ite h.factResume h)
  | kill => exact .next (.ite h.factKill h)
  | fwLoad => exact .execFwLoad h
  | fwSwitch => exact .next (.ite h (.ite h.endFw (.ite h (.ite h.switchFails (.ite ⟨h.wf⟩ h.setField.endFw)))))
  | chrExp => exact .execChrExp h
  | getCertificate => exact .next (.ite h.answer h)
  | challenge | getMeasurements => exact .next (.ite h.answerSigned h)
  | srtBaseWrite => exact .next (.ite h.regWrite h)
  | debugRead | thermalThrottle | warmReset => exact .next ⟨h.wf⟩
  | registerWrite => exact .next (.ite h h.regWrite)
  | fatalShutdown => exact .next (.of_wf h.setField.flood.wf)
  | powerUp => exact .next (.ite h (.of_wf h.setSecure.setField.wf))
  | coldReset => exact .next (.setField (.of_wf (State.Canonical.wf .reset)))
  | fqHeadWrite => exact .next (.ite h.writeFqHead h)
  | hostRead => exact .ite (.next h) (.ite (.next ⟨h.wf⟩) (.ite (.next (.of_wf h.vfViolation.wf)) (.ite (.next h) (.next h.outsideRead))))
  | pcieCompletion => exact .execPcieCompletion h
  | hot => exact .next (.ite h (h.foldl fun _ _ h1 => h1.setField))
  | cont => exact .next (.ite ⟨h.wf⟩ h)
  | killedByTheHost => exact .execKilledByTheHost h

theorem State.Canonical.markFailing {core} (h : s.Canonical) : (s.markFailing core).Canonical :=
  .ite h.setField.drainCluster h.setField
theorem State.Canonical.failBank {core bank} (h : s.Canonical) : (s.failBank core bank).Canonical :=
  .markFailing (.clearUpset (h.foldl fun _ _ h1 => h1.suspendAt))
theorem State.Canonical.countResidue {n} (h : s.Canonical) : (s.countResidue n).Canonical :=
  .ite (.markFailing (.chronicle ⟨h.wf⟩)) (.chronicle ⟨h.wf⟩)

theorem State.Canonical.failResidue (h : s.Canonical) : s.failResidue.2.Canonical ∧ ∀ {t}, s.failResidue.1 = some t → t.Canonical := by
  unfold State.failResidue
  dsimp only
  split
  · exact ⟨h, fun e => nomatch e⟩
  · split
    · exact ⟨h.clearUpset.countResidue, fun e => Option.some.inj e ▸ h.clearUpset.countResidue.suspendAt⟩
    · exact ⟨h.clearUpset.countResidue, fun e => nomatch e⟩

theorem NextCanonical.runNext (h : s.Canonical) : NextCanonical (runNext s) := by
  unfold Machine.runNext
  split
  · next u1 _ e1 => exact .next (.takeTrap (.mapStrand (.of_fst h.fetch e1)))
  · rename_i u1 _ e1
    dsimp only
    split <;> exact .exec (.mapStrand (.of_fst h.fetch e1))

theorem NextCanonical.runFailing (h : s.Canonical) : NextCanonical (runFailing s) := by
  unfold Machine.runFailing
  obtain ⟨ht, hs⟩ := h.failResidue
  split
  · exact .next h.failBank
  · split
    · next e => exact .next (hs (by rw [e]))
    · next e =>
      rw [e] at ht
      exact .ite (.runNext ht) (.next ht)

theorem State.Canonical.switchStrand (h : s.Canonical) : s.switchStrand.Canonical := h.giveTurn
theorem State.Canonical.begins (h : s.Canonical) : s.begins.Canonical := ⟨h.wf⟩
theorem NextCanonical.runReady (h : s.Canonical) : NextCanonical (runReady s) :=
  .ite (.next ⟨h.wf⟩) (.ite (.next h.waits) (.ite (.runNext h.begins) (.runFailing h.begins)))

theorem NextCanonical.runTurn (h : s.Canonical) : NextCanonical (runTurn s) := by
  refine .ite .fault (.ite (.next h) (.ite (.next h.saveDue) (.ite (.next h.switchStrand) ?_)))
  split
  · next e => exact .endOfWait h e
  · exact .runReady h

theorem NextCanonical.step (h : s.Canonical) : NextCanonical (step s) := by
  unfold Machine.step
  split
  · exact .exec ⟨h.wf⟩
  · exact .runTurn ⟨h.wf⟩

end Sys2Proof.Machine
end

section
open Sys2Proof Sys2Proof.Machine

/-- Settles O7: no step takes memory out of its canonical form, since every change of memory is a write of bytes, a clearing or a move of a
page, and each of these keeps it. -/
theorem memoryStaysCanonical : Obligations.MemoryStaysCanonical := by
  intro s t h e
  have hn : NextCanonical (step s) := .step ⟨h⟩
  rw [e] at hn
  cases hn with
  | next ht => exact ht.wf

end

section
/-! SUPPORT. Memory as data: canonical memories that read alike are equal, and lists of bytes agree with little-endian numbers. -/

namespace Sys2Proof.Machine

theorem Mem.read_cons_self {k : Nat} {b : Byte} {xs : List Host.Cell} : Mem.read ((k, b) :: xs) k = b := by
  simp [Mem.read]

theorem Mem.read_cons_of_lt {k a : Nat} {b : Byte} {xs : List Host.Cell} (h : a < k) : Mem.read ((k, b) :: xs) a = Mem.unlisted := by
  simp [Mem.read, h]

theorem Mem.read_cons_of_gt {k a : Nat} {b : Byte} {xs : List Host.Cell} (h : k < a) : Mem.read ((k, b) :: xs) a = Mem.read xs a := by
  simp [Mem.read, Nat.not_lt_of_gt h, Nat.ne_of_gt h]

theorem Mem.wfFrom_cons {lo : Option Nat} {k : Nat} {b : Byte} {xs : List Host.Cell} (h : Mem.wfFrom lo ((k, b) :: xs) = true) :
    b ≠ Mem.unlisted ∧ Mem.wfFrom (some k) xs = true := by
  simp only [Mem.wfFrom, Bool.and_eq_true, decide_eq_true_eq] at h
  exact ⟨h.1.2, h.2⟩

/-- The heads have the same key, since a head's key is the least at which its memory does not read as unlisted. -/
theorem Mem.eq_of_read_eq {m n : List Host.Cell} {lo : Option Nat} (hm : Mem.wfFrom lo m = true) (hn : Mem.wfFrom lo n = true)
    (h : ∀ a, Mem.read m a = Mem.read n a) : m = n := by
  induction m generalizing n lo with
  | nil =>
    cases n with
    | nil => rfl
    | cons c ys => exact absurd ((h c.1).trans Mem.read_cons_self).symm (Mem.wfFrom_cons hn).1
  | cons c xs ih =>
    obtain ⟨k, b⟩ := c
    obtain ⟨hb, hxs⟩ := Mem.wfFrom_cons hm
    cases n with
    | nil => exact absurd (Mem.read_cons_self.symm.trans (h k)) hb
    | cons d ys =>
      obtain ⟨k', b'⟩ := d
      obtain ⟨hb', hys⟩ := Mem.wfFrom_cons hn
      rcases Nat.lt_trichotomy k k' with hk | rfl | hk
      · exact absurd (Mem.read_cons_self.symm.trans ((h k).trans (Mem.read_cons_of_lt hk))) hb
      · have hbb : b = b' := Mem.read_cons_self.symm.trans ((h k).trans Mem.read_cons_self)
        have htail : xs = ys := ih hxs hys fun a => by
          rcases Nat.lt_or_ge k a with ha | ha
          · rw [← Mem.read_cons_of_gt ha, h a, Mem.read_cons_of_gt ha]
          · rw [Mem.read_of_wfFrom hxs rfl ha, Mem.read_of_wfFrom hys rfl ha]
        rw [hbb, htail]
      · exact absurd (Mem.read_cons_self.symm.trans ((h k').symm.trans (Mem.read_cons_of_lt hk))) hb'

theorem Mem.bytes_succ (m : List Host.Cell) (a n : Nat) : Mem.bytes m a (n + 1) = Mem.read m a :: Mem.bytes m (a + 1) n := by
  simp [Mem.bytes, List.range_succ_eq_map, Function.comp_def, Nat.add_assoc, Nat.add_comm 1]

theorem leNat_bytes (m : List Host.Cell) (a n : Nat) : leNat (Mem.bytes m a n) = Mem.readLE m a n := by
  induction n generalizing a with
  | zero => rfl
  | succ n ih => rw [Mem.bytes_succ, leNat, ih, Mem.readLE]

end Sys2Proof.Machine
end

section
open Sys2Proof Sys2Proof.Machine

/-- Settles O9: equality by comparing the heads of the two lists, the rest by the laws of `Mem.writeLE`. -/
theorem canonicalMemory : Obligations.CanonicalMemory :=
  ⟨fun _ _ hm hn h => Mem.eq_of_read_eq hm hn h,
    fun _ a n v h => ⟨Mem.readLE_writeLE_self a n v h, fun _ hx => Mem.read_writeLE_of_outside a n v h hx⟩⟩

end

section
namespace Sys2Proof.Machine

/-- With no store of the strand waiting, a byte of code is the one in memory. -/
theorem State.codeByte_of_fifo_nil {s : State} {place : Nat} (k : Nat) (h : (s.core (coreOf place)).fifo = []) :
    s.codeByte place k = Mem.read s.mem k := by
  simp [State.codeByte, h]

/-- With no replaced code pending and no store of the strand waiting, a fetch that passes its checks reads memory. -/
theorem State.fetch_of_check {s s1 : State} {x : Xl} (hpc : s.strand.pc.extractLsb' 0 2 = 0)
    (hc : s.check s.strand { mode := .fetch, kind := .plain, target := .any, assay := false, poison := true, seen := [] } s.strand.pc.toNat 4 =
      (s1, .ok x))
    (hold : s1.oldCode = []) (hf : (s1.core (coreOf s.strand.place)).fifo = []) :
    s.fetch = (s1, .ok (BitVec.ofNat 32 (Mem.readLE s1.mem x.key 4))) := by
  have hnew : (List.range 4).map (fun i => s1.codeByte s.strand.place (x.key + i)) = Mem.bytes s1.mem x.key 4 :=
    List.map_congr_left fun i _ => State.codeByte_of_fifo_nil _ hf
  simp only [State.fetch, hpc, ne_eq, not_true_eq_false, if_false, hc, hold, List.filter_nil, List.any_nil, Bool.false_eq_true, hnew,
    leNat_bytes]

theorem State.fetch_of_misaligned {s : State} (hpc : s.strand.pc.extractLsb' 0 2 ≠ 0) :
    s.fetch = (s, .error { cause := 0x04, sub := 0, acc := 3, elem := 0, addr := BitVec.ofNat 64 s.strand.pc.toNat, resume := none }) := by
  simp only [State.fetch, hpc, ne_eq, not_false_eq_true, if_true, Acc.trap]

end Sys2Proof.Machine
end

section
open Sys2Proof Sys2Proof.Machine

/-- Settles O5, by the two equations of `State.fetch`. -/
theorem fetchReadsTheWord : Obligations.FetchReadsTheWord :=
  ⟨fun _ _ _ hpc hc hold hf => State.fetch_of_check hpc hc hold hf, fun _ hpc => State.fetch_of_misaligned hpc⟩

end

section
/-! What a write that goes home leaves alone: the strand but for the lines it links, the cores and the locked pages. One lemma per operation of the
memory system, each in the shape of the operation, up to a record posted for a write-back that was lost. -/

namespace Sys2Proof.Machine

/-- `u` is `s` but for what the memory system, the hub and the chronograph keep. -/
structure State.KeepsContext (s u : State) : Prop where
  strand : u.strand = { s.strand with links := u.strand.links }
  cores : u.cores = s.cores
  locked : u.locked = s.locked

namespace State.KeepsContext

variable {α : Type} {s u v : State}

/-- The fields of the changed state stand one by one, so that an update of a state is matched without unfolding what it updates. -/
theorem of_fields {
    strand parked agenda fresh ticks resetAt coldAt mem tarn poison dev oldCode tlb guests assay resv escrow phases barriers cores
    cmds nextCmd frozenQ stored ordStreams ordEntries queries launches nodes held records hostHeld msix msixHeld chipUnits parity
    upsets flips l1Errors failures compressed locked stalled migrate retired badBands scrubs links failed devfail fw switched
    chron powered throttle down breaks halted goOn reply nonVolatile}
    (hs : strand = { s.strand with links := strand.links }) (hc : cores = s.cores) (hl : locked = s.locked) : s.KeepsContext ⟨
      strand, parked, agenda, fresh, ticks, resetAt, coldAt, mem, tarn, poison, dev, oldCode, tlb, guests, assay, resv, escrow,
      phases, barriers, cores, cmds, nextCmd, frozenQ, stored, ordStreams, ordEntries, queries, launches, nodes, held, records,
      hostHeld, msix, msixHeld, chipUnits, parity, upsets, flips, l1Errors, failures, compressed, locked, stalled, migrate,
      retired, badBands, scrubs, links, failed, devfail, fw, switched, chron, powered, throttle, down, breaks, halted, goOn,
      reply, nonVolatile⟩ := ⟨hs, hc, hl⟩

theorem refl (s : State) : s.KeepsContext s := ⟨rfl, rfl, rfl⟩

theorem ite {c : Prop} {_ : Decidable c} (h : s.KeepsContext u) (h' : s.KeepsContext v) : s.KeepsContext (if c then u else v) := by
  split <;> assumption

theorem fst_ite {c : Prop} {_ : Decidable c} {p q : State × α} (h : s.KeepsContext p.1) (h' : s.KeepsContext q.1) :
    s.KeepsContext (if c then p else q).1 := by
  split <;> assumption

theorem foldl {f : State → α → State} {l : List α} (h : s.KeepsContext u) (hf : ∀ v x, s.KeepsContext v → s.KeepsContext (f v x)) :
    s.KeepsContext (l.foldl f u) :=
  List.foldlRecOn l f h fun v hv x _ => hf v x hv

theorem setField {a lo n v} (h : s.KeepsContext u) : s.KeepsContext (u.setField a lo n v) := .of_fields h.strand h.cores h.locked

theorem request {k} (h : s.KeepsContext u) : s.KeepsContext (u.request k) := .ite (.setField (.ite h.setField h)) (.ite h.setField h)

theorem putSector {line data} (h : s.KeepsContext u) : s.KeepsContext (u.putSector line data) := .of_fields h.strand h.cores h.locked

theorem countCorrected {k} (h : s.KeepsContext u) : s.KeepsContext (u.countCorrected k) := h.setField

theorem countFailed {k} (h : s.KeepsContext u) : s.KeepsContext (u.countFailed k) := h.setField

theorem putUnit {unit data} (h : s.KeepsContext u) : s.KeepsContext (u.putUnit unit data) := by
  unfold State.putUnit
  extract_lets s1
  have h1 : s.KeepsContext s1 := h.foldl fun _ _ h => h.putSector
  exact .of_fields h1.strand h1.cores h1.locked

theorem noteCorrection {frame} (h : s.KeepsContext u) : s.KeepsContext (u.noteCorrection frame) := .of_fields h.strand h.cores h.locked

theorem handleUnit {line} (h : s.KeepsContext u) : s.KeepsContext (u.handleUnit line) := by
  unfold State.handleUnit
  extract_lets unit held data fails k s1
  have h1 : s.KeepsContext s1 := h.foldl fun _ _ h => h.putSector
  exact .ite h.putUnit.countCorrected.noteCorrection (.of_fields h1.countFailed.strand h1.countFailed.cores h1.countFailed.locked)

theorem readSector {line} (h : s.KeepsContext u) : s.KeepsContext (u.readSector line) :=
  .ite h (.ite (.of_fields h.putSector.strand h.putSector.cores h.putSector.locked) h.handleUnit)

theorem reachHbm {k whole} (h : s.KeepsContext u) : s.KeepsContext (u.reachHbm k whole) := by
  have hu : s.KeepsContext { u with fresh := u.fresh + 1 } := .of_fields h.strand h.cores h.locked
  exact .ite h (.ite hu (.ite hu.request hu.request.readSector))

theorem reachRange {k n write} (h : s.KeepsContext u) : s.KeepsContext (u.reachRange k n write) := .ite h (h.foldl fun _ _ h => h.reachHbm)

theorem writeCells {k n} (h : s.KeepsContext u) : s.KeepsContext (u.writeCells k n) := .ite h (.of_fields h.strand h.cores h.locked)

theorem setMem {m} (h : s.KeepsContext u) : s.KeepsContext { u with mem := m } := .of_fields h.strand h.cores h.locked

theorem noteStore {det k n} (h : s.KeepsContext u) : s.KeepsContext (u.noteStore det k n) := .of_fields h.strand h.cores h.locked

theorem orTarn {line t} (h : s.KeepsContext u) : s.KeepsContext (u.orTarn line t) := .ite (.of_fields h.strand h.cores h.locked) h

theorem breakLinks {by_ line} (h : s.KeepsContext u) : s.KeepsContext (u.breakLinks by_ line) := by
  refine ⟨?_, h.cores, h.locked⟩
  unfold State.breakLinks
  dsimp only
  split
  · exact h.strand
  · rw [h.strand]

theorem homeStore {place k bs t} (h : s.KeepsContext u) : s.KeepsContext (u.homeStore place k bs t) := h.setMem.writeCells.noteStore.orTarn.breakLinks

theorem loseBlock {k} (h : s.KeepsContext u) : s.KeepsContext (u.loseBlock k) := .of_fields h.strand h.cores h.locked

theorem chronicle {source part cause a0 a1} (h : s.KeepsContext u) : s.KeepsContext (u.chronicle source part cause a0 a1) :=
  .ite h (.of_fields h.strand h.cores h.locked)

theorem chronicleRecord {ring kind words place cmd} (h : s.KeepsContext u) : s.KeepsContext (u.chronicleRecord ring kind words place cmd) :=
  .ite h.chronicle (.ite h.chronicle h.chronicle)

theorem touchTables {part va n a} (h : s.KeepsContext u) : s.KeepsContext (u.touchTables part va n a) := by
  induction n generalizing u a with
  | zero => exact h
  | succ n ih => exact .ite h (.ite h.reachHbm (ih h.reachHbm))

theorem touchWalk {part va} (h : s.KeepsContext u) : s.KeepsContext (u.touchWalk part va) := .ite h h.touchTables

theorem cacheLeaf {part va e addr} (h : s.KeepsContext u) : s.KeepsContext (u.cacheLeaf part va e addr) :=
  .ite (.of_fields h.strand h.cores h.locked) (.of_fields h.strand h.cores h.locked)

theorem setAD {addr e a} (h : s.KeepsContext u) : s.KeepsContext (u.setAD addr e a) := .ite h h.setMem.writeCells

theorem useEntry {q e va a addr} (h : s.KeepsContext u) :
    s.KeepsContext (match u.useLeaf q e va a with
      | .error f => (u, Except.error f)
      | .ok x => ((u.setAD addr e a).cacheLeaf q.part va (e ||| a.marks) addr, Except.ok x)).1 := by
  split
  · exact h
  · exact h.setAD.cacheLeaf

theorem translateNow {q va a} (h : s.KeepsContext u) : s.KeepsContext (u.translateNow q va a).1 := by
  refine .fst_ite h (.fst_ite h ?_)
  dsimp only
  split
  · split
    · exact h
    · exact h.useEntry
  · have hu : s.KeepsContext { u with fresh := u.fresh + 1 } := .of_fields h.strand h.cores h.locked
    split
    · exact hu.useEntry
    · split
      · exact hu
      · exact hu.useEntry

theorem translate {q va a} (h : s.KeepsContext u) : s.KeepsContext (u.translate q va a).1 := .translateNow (.ite h h.touchWalk)

theorem hubPut {part k bs} (h : s.KeepsContext u) : s.KeepsContext (u.hubPut part k bs) :=
  .ite (.of_fields h.strand h.cores h.locked) (h.reachRange.setMem.writeCells.noteStore.foldl fun _ _ h => h.breakLinks)

theorem hubBytes {part n va bs} (h : s.KeepsContext u) : s.KeepsContext (u.hubBytes part n va bs) := by
  induction n generalizing u va bs with
  | zero => exact h
  | succ n ih =>
    cases bs with
    | nil => exact h
    | cons b bs =>
      refine ih ?_
      dsimp only
      split
      · exact h.translate.hubPut
      · exact h.translate

theorem hubWrite {part va bs} (h : s.KeepsContext u) : s.KeepsContext (u.hubWrite part va bs) := by
  refine h.hubBytes.foldl fun _ _ h => ?_
  split
  · exact .of_fields h.strand h.cores h.locked
  · exact h

theorem interrupt {fn vec} (h : s.KeepsContext u) : s.KeepsContext (u.interrupt fn vec) :=
  .ite (.of_fields h.strand h.cores h.locked) (.of_fields h.strand h.cores h.locked)

theorem enterRecord {ring words} (h : s.KeepsContext u) : s.KeepsContext (u.enterRecord ring words) :=
  .ite h.hubWrite.setField.interrupt h.hubWrite.setField

theorem postRecord {ring kind words place cmd} (h : s.KeepsContext u) : s.KeepsContext (u.postRecord ring kind words place cmd).1 := by
  have hc {l} : s.KeepsContext { u.chronicleRecord ring kind words place cmd with records := l } :=
    (.of_fields h.chronicleRecord.strand h.chronicleRecord.cores h.chronicleRecord.locked)
  exact .ite hc hc.enterRecord

theorem loseWriteback {part k} (h : s.KeepsContext u) : s.KeepsContext (u.loseWriteback part k) := h.loseBlock.postRecord

end State.KeepsContext

end Sys2Proof.Machine
end

section
/-! What draining dirty FIFOs leaves alone (R111, R294, R308), and when it leaves a FIFO empty. -/

namespace Sys2Proof.Machine

theorem State.core_core (s : State) (c : Nat) : (s.core c).core = c := by
  unfold State.core
  cases h : s.cores.find? (·.core = c) with
  | none => rfl
  | some k => simpa using List.find?_some h

/-- Where a core is listed, its entry after a replacement is the new one. -/
theorem find_replaceCore {l : List CoreSt} {k : CoreSt} (h : l.any (·.core = k.core) = true) :
    (l.map fun x => if x.core = k.core then k else x).find? (·.core = k.core) = some k := by
  induction l with
  | nil => simp at h
  | cons y ys ih =>
    by_cases hy : y.core = k.core
    · simp [hy]
    · simp only [List.any_cons, hy, decide_false, Bool.false_or] at h
      simpa [hy] using ih h

theorem State.core_setCore_self (s : State) (k : CoreSt) : (s.setCore k).core k.core = k := by
  unfold State.core State.setCore
  dsimp only
  split
  · next h => rw [find_replaceCore h, Option.getD_some]
  · next h =>
    have hn : s.cores.find? (·.core = k.core) = none := by simpa using h
    simp [List.find?_append, hn]

theorem State.core_setCore_of_ne (s : State) {k : CoreSt} {c : Nat} (hc : c ≠ k.core) : (s.setCore k).core c = s.core c := by
  unfold State.core State.setCore
  dsimp only
  split
  · induction s.cores with
    | nil => rfl
    | cons y ys ih =>
      by_cases hy : y.core = k.core
      · simpa [hy, Ne.symm hc] using ih
      · by_cases hyc : y.core = c <;> simp_all
  · simp [List.find?_append, Ne.symm hc]

theorem State.KeepsContext.core {s u : State} (h : s.KeepsContext u) (c : Nat) : u.core c = s.core c := by
  rw [State.core, State.core, h.cores]

/-- `u` comes from `s` by draining stores: of every FIFO the newest entries are left, and the strand is as it was but for the lines it links. -/
structure State.Drains (s u : State) : Prop where
  strand : u.strand = { s.strand with links := u.strand.links }
  locked : u.locked = s.locked
  fifo : ∀ c, (u.core c).fifo <:+ (s.core c).fifo

namespace State.Drains

variable {s u v : State}

theorem refl (s : State) : s.Drains s := ⟨rfl, rfl, fun _ => List.suffix_refl _⟩

theorem trans (h : s.Drains u) (h' : u.Drains v) : s.Drains v :=
  ⟨by rw [h'.strand, h.strand], h'.locked.trans h.locked, fun c => (h'.fifo c).trans (h.fifo c)⟩

theorem of_keepsContext (h : s.KeepsContext u) : s.Drains u :=
  ⟨h.strand, h.locked, fun c => by rw [h.core]⟩

theorem popFront {c : Nat} {e : FifoEntry} {es : List FifoEntry} (h : (s.core c).fifo = e :: es) :
    s.Drains (s.setCore { s.core c with fifo := es }) := by
  refine ⟨rfl, rfl, fun k => ?_⟩
  by_cases hk : k = c
  · subst hk
    have hself := State.core_setCore_self s { s.core k with fifo := es }
    rw [show ({ s.core k with fifo := es } : CoreSt).core = k from s.core_core k] at hself
    rw [hself, h]
    exact List.suffix_cons e es
  · rw [State.core_setCore_of_ne s (by rw [s.core_core]; exact hk)]

theorem drainOne (s : State) (c : Nat) : s.Drains (s.drainOne c) := by
  unfold State.drainOne
  dsimp only
  split
  · exact refl s
  · next e es he =>
    split
    · exact refl s
    · split
      · exact (popFront he).trans (of_keepsContext (State.KeepsContext.refl _).loseWriteback)
      · exact (popFront he).trans (of_keepsContext (State.KeepsContext.refl _).reachHbm.homeStore)

theorem drainN (s : State) (c n : Nat) : s.Drains (s.drainN c n) := by
  induction n generalizing s with
  | zero => exact refl s
  | succ n ih => exact (drainOne s c).trans (ih _)

theorem drainAll (s : State) (c : Nat) : s.Drains (s.drainAll c) := drainN s c _

theorem drainLine (s : State) (c line n : Nat) : s.Drains (s.drainLine c line n) := by
  induction n generalizing s with
  | zero => exact refl s
  | succ n ih =>
    unfold State.drainLine
    split
    · exact (drainOne s c).trans (ih _)
    · exact refl s

theorem lineHome (s : State) (place line : Nat) : s.Drains (s.lineHome place line) :=
  (drainLine s (coreOf place) line _).trans ⟨rfl, rfl, fun _ => List.suffix_refl _⟩

end State.Drains

/-- Of a FIFO whose oldest entry waits for no locked page, a drain takes that entry. -/
theorem State.fifo_drainOne {s : State} {c : Nat} {e : FifoEntry} {es : List FifoEntry} (he : (s.core c).fifo = e :: es)
    (hl : s.locked.contains (e.key / 4096) = false) : ((s.drainOne c).core c).fifo = es := by
  have hpop : ((s.setCore { s.core c with fifo := es }).core c).fifo = es := by
    have hself := State.core_setCore_self s { s.core c with fifo := es }
    rw [show ({ s.core c with fifo := es } : CoreSt).core = c from s.core_core c] at hself
    rw [hself]
  simp only [State.drainOne, he, hl, Bool.false_eq_true, if_false]
  split
  · rw [(State.KeepsContext.refl _).loseWriteback.core, hpop]
  · rw [(State.KeepsContext.refl _).reachHbm.homeStore.core, hpop]

theorem State.fifo_drainN {s : State} {c n : Nat} (hn : (s.core c).fifo.length ≤ n)
    (hl : ∀ e ∈ (s.core c).fifo, s.locked.contains (e.key / 4096) = false) : ((s.drainN c n).core c).fifo = [] := by
  induction n generalizing s with
  | zero => exact List.eq_nil_of_length_eq_zero (Nat.le_zero.mp hn)
  | succ n ih =>
    cases he : (s.core c).fifo with
    | nil =>
      have hs := (State.Drains.drainN s c (n + 1)).fifo c
      rw [he] at hs
      exact List.suffix_nil.mp hs
    | cons e es =>
      rw [he] at hn hl
      have hpop := State.fifo_drainOne he (hl e List.mem_cons_self)
      refine ih (by rw [hpop]; exact Nat.le_of_succ_le_succ hn) fun x hx => ?_
      rw [(State.Drains.drainOne s c).locked]
      exact hl x (List.mem_cons_of_mem _ (hpop ▸ hx))

/-- A FIFO that is not blocked drains whole. -/
theorem State.fifo_drainAll {s : State} {c : Nat} (hb : s.drainBlocked c = false) : ((s.drainAll c).core c).fifo = [] := by
  refine State.fifo_drainN (Nat.le_refl _) fun e he => ?_
  by_cases hl : s.locked = []
  · simp [hl]
  · simp only [State.drainBlocked, hl, ne_eq, not_false_eq_true, decide_true, Bool.true_and, List.any_eq_false] at hb
    exact Bool.eq_false_of_not_eq_true (hb e he)

theorem State.Drains.drainBlocked {s u : State} (h : s.Drains u) {c : Nat} (hb : s.drainBlocked c = false) : u.drainBlocked c = false := by
  simp only [State.drainBlocked, h.locked, Bool.and_eq_false_iff, List.any_eq_false] at hb ⊢
  exact hb.imp_right fun hb e he => hb e ((h.fifo c).subset he)

end Sys2Proof.Machine
end

section
/-! Memory that a core uses at its home (R13, R109 to R111): the access of a line, and the bytes and marks a store leaves. -/

namespace Sys2Proof.Machine

/-- Every bound of the physical map is a multiple of 4 KiB, and only a descriptor is smaller than that, with 256 bytes: a block whose size divides
both, or that lies elsewhere, lies in one region (R298). -/
theorem regionOf_of_block {g b k : Nat} (hg : g ∣ 4096) (hb : b % g = 0) (hk : b ≤ k) (hk' : k < b + g)
    (hdesc : g ∣ 0x100 ∨ b < descBase ∨ descBase + 32 * 0x100 ≤ b) : regionOf k = regionOf b := by
  have hpos : 0 < g := Nat.pos_of_dvd_of_pos hg (by decide)
  have hblock : k / g = b / g := by
    obtain ⟨q, rfl⟩ := Nat.dvd_of_mod_eq_zero hb
    rw [Nat.mul_div_cancel_left _ hpos]
    exact Nat.div_eq_of_lt_le (by rwa [Nat.mul_comm]) (by rwa [Nat.succ_mul, Nat.mul_comm])
  have hlt {c : Nat} (hc : g ∣ c) : k < c ↔ b < c := by
    obtain ⟨m, rfl⟩ := hc
    rw [Nat.mul_comm, ← Nat.div_lt_iff_lt_mul hpos, ← Nat.div_lt_iff_lt_mul hpos, hblock]
  have hle {c : Nat} (hc : g ∣ c) : c ≤ k ↔ c ≤ b := by rw [← Nat.not_lt, ← Nat.not_lt, hlt hc]
  have hdiv {c d : Nat} (hc : g ∣ c) (hd : g ∣ d) : (k - c) / d = (b - c) / d := by
    obtain ⟨m, rfl⟩ := hc
    obtain ⟨n, rfl⟩ := hd
    rw [← Nat.div_div_eq_div_mul, ← Nat.div_div_eq_div_mul, Nat.sub_mul_div, Nat.sub_mul_div, hblock]
  have hdiv0 {d : Nat} (hd : g ∣ d) : k / d = b / d := by simpa using hdiv (c := 0) (Nat.dvd_zero g) hd
  have of {c : Nat} (hc : 4096 ∣ c) : g ∣ c := hg.trans hc
  simp only [regionOf, hlt (c := hbmEnd) (of (by decide)), hle (c := 2 ^ 50) (of (by decide)), hle (c := 2 ^ 48) (of (by decide)),
    hle (c := hostBase) (of (by decide)), hle (c := fabricBase) (of (by decide)), hle (c := vfBase + 32 * 0x10000) (of (by decide)),
    hle (c := vfBase) (of (by decide)), hle (c := descBase + 32 * 0x100) (of (by decide)), hle (c := descBase) (of (by decide)),
    hle (c := apertureTable + 32 * 0x20000) (of (by decide)), hle (c := apertureTable) (of (by decide)),
    hle (c := stackBase + 8 * 0x100000) (of (by decide)), hle (c := stackBase) (of (by decide)),
    hle (c := ctlBase + 4 * 0x1000000) (of (by decide)), hle (c := ctlBase) (of (by decide)),
    hle (c := chipBase + 4 * chipDie) (of (by decide)), hle (c := chipBase) (of (by decide)),
    hdiv0 (d := hbmDie) (of (by decide)), hdiv0 (d := 2 ^ 48) (of (by decide)),
    hdiv (c := vfBase) (d := 0x10000) (of (by decide)) (of (by decide)),
    hdiv (c := apertureTable) (d := 0x20000) (of (by decide)) (of (by decide)),
    hdiv (c := stackBase) (d := 0x100000) (of (by decide)) (of (by decide)),
    hdiv (c := ctlBase) (d := 0x1000000) (of (by decide)) (of (by decide)),
    hdiv (c := chipBase) (d := chipDie) (of (by decide)) (of (by decide))]
  rcases hdesc with h | h | h
  · rw [hdiv (c := descBase) (d := 0x100) (of (by decide)) h]
  · simp only [Nat.not_le_of_lt h, if_false]
  · simp only [h, if_true]

theorem regionOf_of_lineOf {a b : Nat} (h : lineOf a = lineOf b) : regionOf a = regionOf b := by
  have hline (k : Nat) : regionOf k = regionOf (k / 64 * 64) :=
    regionOf_of_block (g := 64) (by decide) (Nat.mul_mod_left _ _) (by omega) (by omega) (Or.inl (by decide))
  rw [hline a, hline b, show a / 64 = b / 64 from h]

theorem State.guestScope_of_lineOf {s : State} {place a b : Nat} {unc : Bool} (h : lineOf a = lineOf b) :
    s.guestScope place a unc = s.guestScope place b unc := by
  have hline : a / 64 = b / 64 := h
  have hlink : a / 2 ^ 46 = b / 2 ^ 46 := by omega
  simp only [State.guestScope, regionOf_of_lineOf h, hlink]

/-! ## The access of a line at its home -/

section
variable {s : State} {place : Nat} {x : Xl}

theorem State.linkOrder_of_not_onCxl (h : s.onCxl x.key = false) : s.linkOrder place x.key = s := by
  simp [State.linkOrder, h]

theorem State.linkStore_of_not_onCxl (h : s.onCxl x.key = false) : s.linkStore place x.key = s := by
  simp [State.linkStore, h]

theorem State.touchGuest_of_home {k : Nat} {unc : Bool} (h : s.guestScope place k unc = none) : s.touchGuest place k unc = s := by
  simp [State.touchGuest, h]

theorem State.byteFor_of_home {k : Nat} {unc : Bool} (h : s.guestScope place k unc = none) : s.byteFor place k unc = Mem.read s.mem k := by
  simp [State.byteFor, h]

theorem State.tarnFor_of_home {k : Nat} {unc : Bool} (h : s.guestScope place k unc = none) :
    s.tarnFor place k unc = s.tarn.contains (lineOf k) := by
  simp [State.tarnFor, h]

end

/-- The bytes of a home line are those of memory. -/
theorem State.bytesFor_of_home {s : State} {place k n : Nat} {unc : Bool} (h : s.guestScope place k unc = none) (hn : k % 64 + n ≤ 64) :
    leNat ((List.range n).map fun i => s.byteFor place (k + i) unc) = Mem.readLE s.mem k n := by
  rw [← leNat_bytes, Mem.bytes]
  congr 1
  refine List.map_congr_left fun i hi => State.byteFor_of_home ?_
  have hline : lineOf (k + i) = lineOf k := by
    have hlt := List.mem_range.mp hi
    simp only [lineOf]
    omega
  rw [State.guestScope_of_lineOf hline, h]

/-- Bringing a line home does not make it a guest line. -/
theorem guestScope_broughtHome {s : State} {x : Xl} (h : s.guestScope s.strand.place x.key x.unc = none) :
    (Claims.broughtHome s x).guestScope s.strand.place x.key x.unc = none := by
  unfold Claims.broughtHome
  split
  · next hu => simp [State.guestScope, hu]
  · exact h

theorem State.loadLine_of_atHome {s : State} {x : Xl} (va : Nat) {n : Nat} (seen : List (Nat × Nat)) (ha : Claims.AtHome s x)
    (hn : x.key % 64 + n ≤ 64) :
    let h := (Claims.broughtHome s x).codeObserve s.strand.place x.key n
    s.loadLine s.strand x va n seen = (h, Mem.readLE (Claims.broughtHome s x).mem x.key n,
      (Claims.broughtHome s x).tarn.contains (lineOf x.key) ||
        (!s.strand.st.d && h.unobserved s.strand.launch s.strand.flat (some va) x.key n seen)) := by
  obtain ⟨hctl, hscope, hcxl⟩ := ha
  have hb := guestScope_broughtHome hscope
  have hline : (if x.unc = true then s.lineHome s.strand.place (lineOf x.key) else s) = Claims.broughtHome s x := rfl
  have hobs : ((Claims.broughtHome s x).codeObserve s.strand.place x.key n).guestScope s.strand.place x.key x.unc = none := hb
  have hbytes := State.bytesFor_of_home hobs hn
  have htarn := State.tarnFor_of_home hobs
  simp only [State.loadLine, hctl, Bool.false_eq_true, if_false, State.linkOrder_of_not_onCxl hcxl, State.touchGuest_of_home hscope, hline, hb,
    Option.isNone_none, if_true, hbytes, htarn]
  rfl

/-- The state in which a store to a home line puts its bytes there: what they replace is remembered (R111) and their parity is good again. -/
def readied (s : State) (x : Xl) (n : Nat) : State :=
  { (Claims.broughtHome s x).rememberCode s.strand.place x.key n with parity := clearParity s.parity x.key n }

theorem State.storeLine_of_atHome {s : State} {x : Xl} (bs : List Byte) (t : Bool) (ha : Claims.AtHome s x) :
    s.storeLine s.strand x bs t = (readied s x bs.length).homeStore s.strand.place x.key bs t := by
  obtain ⟨hctl, hscope, hcxl⟩ := ha
  simp only [State.storeLine, hctl, Bool.false_eq_true, if_false, hscope, State.linkOrder_of_not_onCxl hcxl, State.linkStore_of_not_onCxl hcxl]
  rfl

/-! ## What a store at home leaves -/

theorem mem_setInsert {a b : Nat} {l : List Nat} : b ∈ setInsert a l ↔ b = a ∨ b ∈ l := by
  induction l with
  | nil => simp [setInsert]
  | cons x xs ih =>
    unfold setInsert
    split
    · simp
    · split
      · next h => subst h; simp
      · simp only [List.mem_cons, ih]
        exact or_left_comm

theorem Mem.put_leBytes (m : List Host.Cell) (a n v : Nat) : Mem.put m a (leBytes n v) = Mem.writeLE m a n v := by
  induction n generalizing m a v with
  | zero => rfl
  | succ n ih => exact ih _ _ _

section
variable (s : State) (k n : Nat)

theorem State.mem_writeCells : (s.writeCells k n).mem = s.mem := by unfold State.writeCells; split <;> rfl
theorem State.tarn_writeCells : (s.writeCells k n).tarn = s.tarn := by unfold State.writeCells; split <;> rfl
theorem State.dev_writeCells : (s.writeCells k n).dev = s.dev := by unfold State.writeCells; split <;> rfl
theorem State.launches_writeCells : (s.writeCells k n).launches = s.launches := by unfold State.writeCells; split <;> rfl

theorem State.mem_orTarn (l : Nat) (t : Bool) : (s.orTarn l t).mem = s.mem := by unfold State.orTarn; split <;> rfl
theorem State.dev_orTarn (l : Nat) (t : Bool) : (s.orTarn l t).dev = s.dev := by unfold State.orTarn; split <;> rfl
theorem State.launches_orTarn (l : Nat) (t : Bool) : (s.orTarn l t).launches = s.launches := by unfold State.orTarn; split <;> rfl

theorem State.mem_tarn_orTarn (l l' : Nat) (t : Bool) : l ∈ (s.orTarn l' t).tarn ↔ l ∈ s.tarn ∨ (l = l' ∧ t = true) := by
  cases t with
  | false => simp [State.orTarn]
  | true => simp only [State.orTarn, if_true, mem_setInsert, and_true, or_comm]

end

section
variable (s : State) (place k : Nat) (bs : List Byte) (t : Bool)

theorem State.mem_homeStore : (s.homeStore place k bs t).mem = Mem.put s.mem k bs := by
  simp [State.homeStore, State.mem_orTarn, State.mem_writeCells]

theorem State.tarn_homeStore (l : Nat) : l ∈ (s.homeStore place k bs t).tarn ↔ l ∈ s.tarn ∨ (l = lineOf k ∧ t = true) := by
  simp [State.homeStore, State.mem_tarn_orTarn, State.tarn_writeCells]

theorem State.dev_homeStore : (s.homeStore place k bs t).dev = s.dev := by
  simp [State.homeStore, State.dev_orTarn, State.dev_writeCells]

theorem State.launches_homeStore : (s.homeStore place k bs t).launches = s.launches := by
  simp [State.homeStore, State.launches_orTarn, State.launches_writeCells]

end

theorem Strand.reg_congr {t u : Strand} (hs : t.sregs = u.sregs) (hw : t.ctl.winb = u.ctl.winb) (r : BitVec 7) : t.reg r = u.reg r := by
  simp only [Strand.reg, hs, hw]

theorem Strand.recordClean_winb (t : Strand) (l : List Nat) : (t.recordClean l).ctl.winb = t.ctl.winb := by
  unfold Strand.recordClean; split <;> rfl

theorem Strand.recordClean_flags (t : Strand) (l : List Nat) : (t.recordClean l).ctl.flags = t.ctl.flags := by
  unfold Strand.recordClean; split <;> rfl

section
variable {s : State} {x : Xl} {va : Word} {z : Nat} {v : Word} {t : Bool}

theorem inv_broughtHome (h : s.Inv) : (Claims.broughtHome s x).Inv := by
  have hc : s.Canonical := ⟨h⟩
  exact (State.Canonical.ite hc.lineHome hc).wf

theorem drains_broughtHome : s.Drains (Claims.broughtHome s x) := by
  unfold Claims.broughtHome
  split
  · exact .lineHome _ _ _
  · exact .refl _

/-- The strand after a store at home: as it was, but for the lines it links and what TARN records. -/
theorem strand_stored (ha : Claims.AtHome s x) : ∃ l h, (Claims.stored s x va z v t).strand =
    (Strand.seen { s.strand with links := l } t).recordClean h := by
  have hready : (readied s x (leBytes z v.toNat).length).strand = { s.strand with links := (Claims.broughtHome s x).strand.links } :=
    drains_broughtHome.strand
  have hstore := (State.KeepsContext.refl (readied s x (leBytes z v.toNat).length)).homeStore
    (place := s.strand.place) (k := x.key) (bs := leBytes z v.toNat) (t := t) |>.strand
  rw [hready] at hstore
  rw [Claims.stored, State.storeLine_of_atHome _ _ ha, State.mapStrand_strand, hstore]
  exact ⟨_, _, rfl⟩

theorem stored_of_atHome (ha : Claims.AtHome s x) : ∃ f, Claims.stored s x va z v t =
    ((readied s x z).homeStore s.strand.place x.key (leBytes z v.toNat) t).mapStrand f := by
  rw [Claims.stored, State.storeLine_of_atHome _ _ ha, leBytes_length]
  exact ⟨_, rfl⟩

end

end Sys2Proof.Machine
end

section
open Sys2Proof Sys2Proof.Machine Sys2Proof.Claims

/-- Settles O16: the load by the bytes of a home line, the store by the laws of `Mem.writeLE` after the line was brought home. -/
theorem homeMemory : Obligations.HomeMemory := by
  refine ⟨fun s x va n seen ha hn => State.loadLine_of_atHome va seen ha hn, fun s x va z v t hi ha _ _ => ?_⟩
  have hwf : Memory.wf (broughtHome s x).mem = true := inv_broughtHome hi
  obtain ⟨l, h, hstrand⟩ := strand_stored (va := va) (z := z) (v := v) (t := t) ha
  obtain ⟨f, hs⟩ := stored_of_atHome (va := va) (z := z) (v := v) (t := t) ha
  have hmem : (stored s x va z v t).mem = Mem.writeLE (broughtHome s x).mem x.key z v.toNat := by
    rw [hs, State.mapStrand_mem, State.mem_homeStore, Mem.put_leBytes]
    rfl
  refine ⟨?_, fun k hk => ?_, fun l => ?_, fun r => ?_, ?_, ?_, ?_, ?_, ?_⟩
  · rw [hmem, Mem.readLE_writeLE_self _ _ _ hwf]
  · rw [hmem, Mem.read_writeLE_of_outside _ _ _ hwf hk]
  · rw [hs, State.mapStrand_tarn, State.tarn_homeStore]
    rfl
  · rw [hstrand]
    exact Strand.reg_congr (by simp) (by simp [Strand.recordClean_winb]) r
  · simp [hstrand]
  · simp [hstrand]
  · simp [hstrand, Strand.recordClean_flags]
  · rw [hs, State.mapStrand_dev, State.dev_homeStore]
    rfl
  · rw [hs, State.mapStrand_launches, State.launches_homeStore]
    rfl

end

section
/-! Fields of 64-bit registers (R15): what `setBits` writes is what `getBits` reads, and other bits stay. -/

namespace Sys2Proof.Machine

theorem testBit_getBits (w : Word) (lo n i : Nat) : (getBits w lo n).testBit i = (decide (i < n) && w.getLsbD (lo + i)) := by
  rw [getBits, Nat.testBit_mod_two_pow, Nat.testBit_div_two_pow, BitVec.testBit_toNat, Nat.add_comm]

theorem getBits_congr {w x : Word} {lo n : Nat} (h : ∀ i < n, w.getLsbD (lo + i) = x.getLsbD (lo + i)) : getBits w lo n = getBits x lo n := by
  refine Nat.eq_of_testBit_eq fun i => ?_
  rw [testBit_getBits, testBit_getBits]
  by_cases hi : i < n
  · simp [hi, h i hi]
  · simp [hi]

theorem getLsbD_setBits (w : Word) {lo n : Nat} (v i : Nat) (hn : lo + n ≤ 64) :
    (setBits w lo n v).getLsbD i = if lo ≤ i ∧ i < lo + n then v.testBit (i - lo) else w.getLsbD i := by
  have hmask : (BitVec.ofNat 64 ((2 ^ n - 1) * 2 ^ lo)).getLsbD i = decide (lo ≤ i ∧ i < lo + n) := by
    rw [BitVec.getLsbD_ofNat, Nat.testBit_mul_two_pow, Nat.testBit_two_pow_sub_one, ← Bool.decide_and, ← Bool.decide_and]
    exact decide_eq_decide.mpr (by omega)
  simp only [setBits, BitVec.getLsbD_or, BitVec.getLsbD_and, BitVec.getLsbD_not, hmask]
  by_cases hi : lo ≤ i ∧ i < lo + n
  · have h64 : i < 64 := by omega
    rw [BitVec.getLsbD_ofNat, Nat.testBit_mul_two_pow]
    simp [hi, h64]
  · by_cases h64 : i < 64
    · simp [hi, h64]
    · simp [hi, BitVec.getLsbD_of_ge w i (Nat.le_of_not_lt h64)]

theorem getBits_setBits_self (w : Word) {lo n : Nat} (v : Nat) (hn : lo + n ≤ 64) : getBits (setBits w lo n v) lo n = v % 2 ^ n := by
  refine Nat.eq_of_testBit_eq fun i => ?_
  rw [testBit_getBits, getLsbD_setBits w v _ hn, Nat.testBit_mod_two_pow]
  by_cases hi : i < n <;> simp [hi]

theorem getBits_setBits_of_disjoint (w : Word) {lo n lo' n' : Nat} (v : Nat) (hn : lo + n ≤ 64) (h : lo' + n' ≤ lo ∨ lo + n ≤ lo') :
    getBits (setBits w lo n v) lo' n' = getBits w lo' n' :=
  getBits_congr fun i hi => by rw [getLsbD_setBits w v _ hn, if_neg (by omega)]

theorem getBits_zero (v : Word) (n : Nat) : getBits v 0 n = v.toNat % 2 ^ n := by simp [getBits]

/-- A write of bit 0 does not reach a field above it. -/
theorem getBits_clearBit0 (v : Word) {lo : Nat} (n : Nat) (hlo : 1 ≤ lo) : getBits (v &&& ~~~(1 : Word)) lo n = getBits v lo n :=
  getBits_congr fun i _ => by
    have h1 : (1 : Word).getLsbD (lo + i) = false := by
      rw [show (1 : Word) = BitVec.ofNat 64 (2 ^ 0) from rfl, BitVec.getLsbD_ofNat, Nat.testBit_two_pow_of_ne (by omega), Bool.and_false]
    rw [BitVec.getLsbD_and, BitVec.getLsbD_not, h1]
    by_cases h64 : lo + i < 64
    · simp [h64]
    · simp [BitVec.getLsbD_of_ge v _ (Nat.le_of_not_lt h64)]

theorem getLsbD_ofNat_two_pow {k i : Nat} (hk : k < 64) : (BitVec.ofNat 64 (2 ^ k)).getLsbD i = decide (i = k) := by
  rw [BitVec.getLsbD_ofNat, Nat.testBit_two_pow, ← Bool.decide_and]
  exact decide_eq_decide.mpr (by omega)

/-- The value a whole write of a register without bits that a 1 clears leaves (R15). -/
theorem regUpdate_whole (old v rw : Word) : regUpdate old v (BitVec.allOnes 64) rw 0 = (old &&& ~~~rw) ||| (v &&& rw) := by
  have hv : v &&& (0 : Word) = 0 := BitVec.and_zero
  have hn : ~~~(0 : Word) = BitVec.allOnes 64 := rfl
  simp only [regUpdate, BitVec.and_allOnes, hv, hn]

/-- And of one with nothing but such bits. -/
theorem regUpdate_clear (old v w1c : Word) : regUpdate old v (BitVec.allOnes 64) 0 w1c = old &&& ~~~(v &&& w1c) := by
  have hv : v &&& (0 : Word) = 0 := BitVec.and_zero
  have hn : ~~~(0 : Word) = BitVec.allOnes 64 := rfl
  have ho (w : Word) : w ||| (0 : Word) = w := BitVec.or_zero
  simp only [regUpdate, BitVec.and_allOnes, hv, hn, ho]

theorem State.reg64_setField_self (s : State) (a lo n v : Nat) : (s.setField a lo n v).reg64 a = setBits (s.reg64 a) lo n v :=
  State.reg64_setReg64_self s a _

theorem State.reg64_setField_of_ne (s : State) {a b : Nat} (lo n v : Nat) (h : b ≠ a) : (s.setField a lo n v).reg64 b = s.reg64 b :=
  State.reg64_setReg64_of_ne s _ h

end Sys2Proof.Machine
end

section
/-! The registers of a VF page, of a descriptor and of a stack's control block: where they lie (R298), and what a whole write does there (R15). -/

namespace Sys2Proof.Machine

/-- The bounds of the physical map as numbers, for arithmetic on addresses. -/
theorem mapBounds : hbmEnd = 0x7800000000 ∧ hostBase = 0x800000000000 ∧ fabricBase = 0x400000000000 ∧ vfBase = 0x20040000000 ∧
    descBase = 0x20030000000 ∧ apertureTable = 0x20020000000 ∧ stackBase = 0x20010000000 ∧ pfBase = 0x20040200000 :=
  ⟨rfl, rfl, rfl, rfl, rfl, rfl, rfl, rfl⟩

theorem regionOf_descAddr {part off : Nat} (hp : part < 32) (ho : off < 0x100) : regionOf (descAddr part off) = .desc part := by
  obtain ⟨_, _, _, _, _, _, _, _⟩ := mapBounds
  have ha : descAddr part off = descBase + part * 0x100 + off := rfl
  have hi : (descAddr part off - descBase) / 0x100 = part := by omega
  rw [regionOf, if_neg, if_neg, if_neg, if_neg, if_neg, if_neg, if_neg, if_neg, if_pos, hi] <;> omega

theorem regionOf_stackCtl {k off : Nat} (hk : k < 8) (ho : off < 0x100000) : regionOf (stackCtl k + off) = .stack k := by
  obtain ⟨_, _, _, _, _, _, _, _⟩ := mapBounds
  have ha : stackCtl k = stackBase + k * 0x100000 := rfl
  have hi : (stackCtl k + off - stackBase) / 0x100000 = k := by omega
  rw [regionOf, if_neg, if_neg, if_neg, if_neg, if_neg, if_neg, if_neg, if_neg, if_neg, if_neg, if_neg, if_neg, if_pos, hi] <;> omega

theorem vfAddr_eq (part off : Nat) : vfAddr part off = vfBase + part * 0x10000 + off := by
  obtain ⟨_, _, _, _, _, _, _, _⟩ := mapBounds
  unfold vfAddr
  split <;> omega

theorem regionOf_vfAddr {part off : Nat} (hp : part < 32) (ho : off < 0x10000) : regionOf (vfAddr part off) = .vf part := by
  obtain ⟨_, _, _, _, _, _, _, _⟩ := mapBounds
  have ha := vfAddr_eq part off
  have hi : (vfAddr part off - vfBase) / 0x10000 = part := by omega
  rw [regionOf, if_neg, if_neg, if_neg, if_neg, if_neg, if_neg, if_pos, hi] <;> omega

theorem regionOf_pfAddr {off : Nat} (ho : off < 0x10000) : regionOf (vfAddr 32 off) = .nowhere := by
  obtain ⟨_, _, _, _, _, _, _, _⟩ := mapBounds
  have ha := vfAddr_eq 32 off
  rw [regionOf, if_neg, if_neg, if_neg, if_neg, if_neg, if_pos] <;> omega

theorem descAddr_offset {part off : Nat} (ho : off < 0x100) : (descAddr part off - descBase) % 0x100 = off := by
  simp only [descAddr]
  omega

theorem stackCtl_offset {k off : Nat} (ho : off < 0x100000) : (stackCtl k + off - stackBase) % 0x100000 = off := by
  simp only [stackCtl]
  omega

theorem vfAddr_offset {part off : Nat} (ho : off < 0x10000) : (vfAddr part off - vfBase) % 0x10000 = off := by
  rw [vfAddr_eq]
  omega

theorem vfAddr_page {part off : Nat} (ho : off < 0x10000) : (vfAddr part off - vfBase) / 0x10000 = part := by
  rw [vfAddr_eq]
  omega

theorem vfAddr_mem {part off : Nat} (hp : part ≤ 32) (ho : off < 0x10000) :
    vfBase ≤ vfAddr part off ∧ vfAddr part off < pfBase + 0x10000 := by
  obtain ⟨_, _, _, _, _, _, _, _⟩ := mapBounds
  rw [vfAddr_eq]
  omega

/-! ## Masks: every partition's registers are like partition 0's, every stack's like stack 0's -/

theorem regMasks_descAddr {part off : Nat} (hp : part < 32) (ho : off < 0x100) : regMasks (descAddr part off) = regMasks (descAddr 0 off) := by
  simp only [regMasks, regionOf_descAddr hp ho, regionOf_descAddr (show 0 < 32 by decide) ho, descAddr_offset ho]

theorem regMasks_of_stack {a b j k : Nat} (ha : regionOf a = .stack j) (hb : regionOf b = .stack k)
    (h : (a - stackBase) % 0x100000 = (b - stackBase) % 0x100000) : regMasks a = regMasks b := by
  simp only [regMasks, ha, hb, h]

theorem regMasks_stackCtl {k off : Nat} (hk : k < 8) (ho : off < 0x100000) :
    regMasks (stackCtl k + off) = regMasks (stackCtl 0 + off) :=
  regMasks_of_stack (regionOf_stackCtl hk ho) (regionOf_stackCtl (by decide) ho) ((stackCtl_offset ho).trans (stackCtl_offset ho).symm)

theorem regMasks_vfAddr {part off : Nat} (hp : part < 32) (ho : off < 0x10000) : regMasks (vfAddr part off) = regMasks (vfAddr 0 off) := by
  obtain ⟨_, _, _, _, _, _, _, _⟩ := mapBounds
  have hpf {q : Nat} (hq : q < 32) : ¬ pfBase ≤ vfAddr q off := by rw [vfAddr_eq]; omega
  simp only [regMasks, regionOf_vfAddr hp ho, regionOf_vfAddr (show 0 < 32 by decide) ho, vfAddr_offset ho, vfAddr_mem (Nat.le_of_lt hp) ho,
    vfAddr_mem (show 0 ≤ 32 by decide) ho, hpf hp, hpf (show 0 < 32 by decide)]

/-! ## Whole writes of registers that do nothing else -/

section
variable (s : State) {part k off : Nat} (v : Word) {rw w1c : Word}

theorem State.regWrite_none {a : Nat} (bytes : Word) (h : regMasks a = none) : s.regWrite a v bytes = s := by
  simp only [State.regWrite, h]

theorem State.regWrite_desc (hp : part < 32) (ho : off < 0x100) (hm : regMasks (descAddr part off) = some (rw, w1c))
    (hplain : off ∉ [0x30, 0x38, 0x78]) : s.regWrite (descAddr part off) v (BitVec.allOnes 64) =
      s.setReg64 (descAddr part off) (regUpdate (s.reg64 (descAddr part off)) v (BitVec.allOnes 64) rw w1c) := by
  simp only [List.mem_cons, List.not_mem_nil, or_false, not_or] at hplain
  simp only [State.regWrite, hm, regionOf_descAddr hp ho, descAddr_offset ho, hplain, if_false]

theorem State.regWrite_of_stack {a : Nat} (ha : regionOf a = .stack k) (hm : regMasks a = some (rw, w1c))
    (hplain : (a - stackBase) % 0x100000 ≠ 0x20000) :
    s.regWrite a v (BitVec.allOnes 64) = s.setReg64 a (regUpdate (s.reg64 a) v (BitVec.allOnes 64) rw w1c) := by
  simp only [State.regWrite, hm, ha, hplain, if_false]

theorem State.regWrite_stack (hk : k < 8) (ho : off < 0x100000) (hm : regMasks (stackCtl k + off) = some (rw, w1c)) (hplain : off ≠ 0x20000) :
    s.regWrite (stackCtl k + off) v (BitVec.allOnes 64) =
      s.setReg64 (stackCtl k + off) (regUpdate (s.reg64 (stackCtl k + off)) v (BitVec.allOnes 64) rw w1c) :=
  s.regWrite_of_stack v (regionOf_stackCtl hk ho) hm (by rwa [stackCtl_offset ho])

theorem State.regWrite_vf (hp : part ≤ 32) (ho : off < 0x10000) (hm : regMasks (vfAddr part off) = some (rw, w1c))
    (hplain : off ∉ [0x00, 0x08, 0x10, 0x40, 0x48, 0x58, 0x1008, 0x1010]) : s.regWrite (vfAddr part off) v (BitVec.allOnes 64) =
      s.setReg64 (vfAddr part off) (regUpdate (s.reg64 (vfAddr part off)) v (BitVec.allOnes 64) rw w1c) := by
  simp only [List.mem_cons, List.not_mem_nil, or_false, not_or] at hplain
  rcases Nat.lt_or_eq_of_le hp with hlt | rfl
  · simp only [State.regWrite, hm, regionOf_vfAddr hlt ho, vfAddr_mem hp ho, vfAddr_offset ho, hplain, if_false, and_self, if_true, or_self]
  · simp only [State.regWrite, hm, regionOf_pfAddr ho, vfAddr_mem hp ho, vfAddr_offset ho, hplain, if_false, and_self, if_true, or_self]

end

/-! ## Which registers a write waits for -/

section
variable (s : State) {part k off : Nat}

theorem State.regWaits_of_not_desc {a : Nat} (h : ∀ i < 8, ∀ p, regionOf (a + i) ≠ .desc p) : s.regWaits a 8 = false := by
  rw [State.regWaits, Bool.and_eq_false_iff, List.any_eq_false]
  refine Or.inr fun i hi => ?_
  split
  · next p hp => exact absurd hp (h i (List.mem_range.mp hi) p)
  · exact Bool.false_ne_true

theorem State.regWaits_vf (hp : part ≤ 32) (ho : off + 8 ≤ 0x10000) : s.regWaits (vfAddr part off) 8 = false := by
  refine s.regWaits_of_not_desc fun i hi p => ?_
  have ha : vfAddr part off + i = vfAddr part (off + i) := by rw [vfAddr_eq, vfAddr_eq, Nat.add_assoc]
  rcases Nat.lt_or_eq_of_le hp with hlt | rfl
  · rw [ha, regionOf_vfAddr hlt (by omega)]
    exact Region.noConfusion
  · rw [ha, regionOf_pfAddr (by omega)]
    exact Region.noConfusion

theorem State.regWaits_stack (hk : k < 8) (ho : off + 8 ≤ 0x100000) : s.regWaits (stackCtl k + off) 8 = false := by
  refine s.regWaits_of_not_desc fun i hi p => ?_
  rw [Nat.add_assoc, regionOf_stackCtl hk (by omega)]
  exact Region.noConfusion

/-- Only TROOT and TLBINV of a descriptor, at 0x30 and 0x38, make a write wait. -/
theorem State.regWaits_desc (hp : part < 32) (ho : 0x40 ≤ off) (ho' : off + 8 ≤ 0x100) : s.regWaits (descAddr part off) 8 = false := by
  rw [State.regWaits, Bool.and_eq_false_iff, List.any_eq_false]
  refine Or.inr fun i hi => ?_
  have hlt := List.mem_range.mp hi
  have ha : descAddr part off + i = descAddr part (off + i) := by simp only [descAddr]; omega
  rw [ha, regionOf_descAddr hp (by omega), descAddr_offset (by omega)]
  have : ¬ off + i < 0x40 := by omega
  simp [this]

end

end Sys2Proof.Machine
end

section
/-! Whole writes of device registers by the host (R15, R394, R413, R418, R419, R426). -/

namespace Sys2Proof.Machine

open Claims

theorem onlyRegister_setReg64 (s : State) (a : Nat) (v : Word) : OnlyRegister s (s.setReg64 a v) a :=
  ⟨fun _ hb => State.reg64_setReg64_of_ne s v hb, rfl⟩

theorem exec_registerWrite {s : State} {a : Nat} (v : Word) (hw : s.regWaits a 8 = false) :
    exec (.registerWrite a v) s = .next (s.regWrite a v (BitVec.allOnes 64)) := by
  change Host.Outcome.next _ = _
  rw [hw, if_neg Bool.false_ne_true]

/-- An address without a register takes nothing. -/
theorem registerWrite_nowhere {a : Nat} (v : Word) (s : State) (h : regMasks a = none) : exec (.registerWrite a v) s = .next s := by
  change Host.Outcome.next _ = _
  rw [s.regWrite_none v _ h, ite_self]

/-- A write of a register without bits that a 1 clears takes the RW bits and keeps the others. -/
theorem registerWrite_plain {s : State} {a : Nat} {v rw : Word} (hw : s.regWaits a 8 = false)
    (hr : s.regWrite a v (BitVec.allOnes 64) = s.setReg64 a (regUpdate (s.reg64 a) v (BitVec.allOnes 64) rw 0)) :
    ∃ t, exec (.registerWrite a v) s = .next t ∧ OnlyRegister s t a ∧ t.reg64 a = (s.reg64 a &&& ~~~rw) ||| (v &&& rw) := by
  refine ⟨_, exec_registerWrite v hw, ?_⟩
  rw [hr, regUpdate_whole]
  exact ⟨onlyRegister_setReg64 _ _ _, State.reg64_setReg64_self _ _ _⟩

section
variable {part stack : Nat} (hp : part < 32) (hk : stack < 8)
include hp hk

theorem plainRegs_written (s : State) (v : Word) : ∀ row ∈ plainRegs part stack, ∃ t, exec (.registerWrite row.1 v) s = .next t ∧
    OnlyRegister s t row.1 ∧ t.reg64 row.1 = (s.reg64 row.1 &&& ~~~row.2) ||| (v &&& row.2) := by
  have vf {off : Nat} {rw : Word} (ho : off + 8 ≤ 0x10000) (hm : regMasks (vfAddr 0 off) = some (rw, 0))
      (hn : off ∉ [0x00, 0x08, 0x10, 0x40, 0x48, 0x58, 0x1008, 0x1010]) := registerWrite_plain (s.regWaits_vf (Nat.le_of_lt hp) ho)
    (s.regWrite_vf v (Nat.le_of_lt hp) (by omega) ((regMasks_vfAddr hp (by omega)).trans hm) hn)
  have pf {off : Nat} {rw : Word} (ho : off + 8 ≤ 0x10000) (hm : regMasks (vfAddr 32 off) = some (rw, 0))
      (hn : off ∉ [0x00, 0x08, 0x10, 0x40, 0x48, 0x58, 0x1008, 0x1010]) := registerWrite_plain (s.regWaits_vf (Nat.le_refl 32) ho)
    (s.regWrite_vf v (Nat.le_refl 32) (by omega) hm hn)
  have desc {off : Nat} {rw : Word} (ho : 0x40 ≤ off ∧ off + 8 ≤ 0x100) (hm : regMasks (descAddr 0 off) = some (rw, 0))
      (hn : off ∉ [0x30, 0x38, 0x78]) := registerWrite_plain (s.regWaits_desc hp ho.1 ho.2)
    (s.regWrite_desc v hp (by omega) ((regMasks_descAddr hp (by omega)).trans hm) hn)
  have stk {off : Nat} {rw : Word} (ho : off + 8 ≤ 0x100000) (hm : regMasks (stackCtl 0 + off) = some (rw, 0))
      (hn : off ≠ 0x20000) := registerWrite_plain (s.regWaits_stack hk ho)
    (s.regWrite_stack v hk (by omega) ((regMasks_stackCtl hk (by omega)).trans hm) hn)
  simp only [plainRegs, List.forall_mem_cons, List.not_mem_nil, false_imp_iff, implies_true, and_true]
  exact ⟨vf (by decide) rfl (by decide), vf (by decide) rfl (by decide), desc (by decide) rfl (by decide), desc (by decide) rfl (by decide),
    desc (by decide) rfl (by decide), desc (by decide) rfl (by decide), desc (by decide) rfl (by decide), desc (by decide) rfl (by decide),
    stk (by decide) rfl (by decide), stk (by decide) rfl (by decide), pf (by decide) rfl (by decide), pf (by decide) rfl (by decide)⟩

end

section
variable {part : Nat} (hp : part < 32) (s : State) (v : Word)
include hp

/-- GERR.VALID falls by a one written to it. -/
theorem gerr_written : ∃ t, exec (.registerWrite (vfAddr part 0x20) v) s = .next t ∧ OnlyRegister s t (vfAddr part 0x20) ∧
    t.reg64 (vfAddr part 0x20) = s.reg64 (vfAddr part 0x20) &&& ~~~(v &&& 0x10000000000) := by
  have hm : regMasks (vfAddr part 0x20) = some (0, 0x10000000000) := (regMasks_vfAddr hp (by decide)).trans rfl
  refine ⟨_, exec_registerWrite v (s.regWaits_vf (Nat.le_of_lt hp) (by decide)), ?_⟩
  rw [s.regWrite_vf v (Nat.le_of_lt hp) (by decide) hm (by decide), regUpdate_clear]
  exact ⟨onlyRegister_setReg64 _ _ _, State.reg64_setReg64_self _ _ _⟩

theorem regWrite_pcmd : s.regWrite (descAddr part 0x78) v (BitVec.allOnes 64) = s.writePcmd (descAddr part 0x78) part (v.toNat % 8) := by
  have hm : regMasks (descAddr part 0x78) = some (0, 0) := (regMasks_descAddr hp (by decide)).trans rfl
  simp only [State.regWrite, hm, regionOf_descAddr hp (show 0x78 < 0x100 by decide), descAddr_offset (part := part) (show 0x78 < 0x100 by decide),
    BitVec.and_allOnes, getBits_zero, Nat.reduceEqDiff, if_false, if_true]
  rfl

/-- A PCMD of 1 to 4 sets BUSY and stands in its register. -/
theorem pcmd_begins (h1 : 1 ≤ v.toNat % 8) (h4 : v.toNat % 8 ≤ 4) (hb : (s.reg64 (descAddr part 0)).getLsbD 18 = false) :
    ∃ t, exec (.registerWrite (descAddr part 0x78) v) s = .next t ∧ t.pcmd part = v.toNat % 8 ∧ t = { s with dev := t.dev } := by
  refine ⟨_, exec_registerWrite v (s.regWaits_desc hp (by decide) (by decide)), ?_⟩
  have hop : (v.toNat % 8 = 0 || 4 < v.toNat % 8) = false := by
    rw [Bool.or_eq_false_iff, decide_eq_false_iff_not, decide_eq_false_iff_not]
    omega
  have hne : descAddr part 0 ≠ descAddr part 0x78 := by simp only [descAddr]; omega
  rw [regWrite_pcmd hp, State.writePcmd, hop, hb]
  refine ⟨?_, rfl⟩
  have hbusy : (setBits (s.reg64 (descAddr part 0)) 18 1 1).getLsbD 18 = true := by rw [getLsbD_setBits _ _ _ (by decide)]; rfl
  have hfield : getBits (BitVec.ofNat 64 (v.toNat % 8)) 0 3 = v.toNat % 8 := by rw [getBits_zero, BitVec.toNat_ofNat]; omega
  simp [State.pcmd, hp, State.reg64_setReg64_self, State.reg64_setReg64_of_ne _ _ hne, State.reg64_setField_self, hbusy, hfield]

/-- While a RESIZE is in progress a RELEASE or a DESTROY is taken beside it. -/
theorem pcmd_joinsResize (h3 : 3 ≤ v.toNat % 8) (h4 : v.toNat % 8 ≤ 4) (hr : s.pcmd part = 2)
    (hfree : getBits (s.reg64 (descAddr part 0x78)) 3 3 = 0) :
    ∃ t, exec (.registerWrite (descAddr part 0x78) v) s = .next t ∧ t.pcmd part = 2 ∧ t.asked part (v.toNat % 8) = true ∧
      t = { s with dev := t.dev } := by
  refine ⟨_, exec_registerWrite v (s.regWaits_desc hp (by decide) (by decide)), ?_⟩
  have hop : (v.toNat % 8 = 0 || 4 < v.toNat % 8) = false := by
    rw [Bool.or_eq_false_iff, decide_eq_false_iff_not, decide_eq_false_iff_not]
    omega
  have hne : descAddr part 0 ≠ descAddr part 0x78 := by simp only [descAddr]; omega
  have hbusy : (s.reg64 (descAddr part 0)).getLsbD 18 = true ∧ getBits (s.reg64 (descAddr part 0x78)) 0 3 = 2 := by
    unfold State.pcmd at hr
    split at hr
    · next h => exact ⟨by simpa [hp] using h, hr⟩
    · exact absurd hr (by decide)
  obtain ⟨hbusy, htwo⟩ := hbusy
  have hcmd : getBits (setBits (s.reg64 (descAddr part 0x78)) 3 3 (v.toNat % 8)) 0 3 = 2 := by
    rw [getBits_setBits_of_disjoint _ _ (by decide) (by decide), htwo]
  have hbeside : getBits (setBits (s.reg64 (descAddr part 0x78)) 3 3 (v.toNat % 8)) 3 3 = v.toNat % 8 := by
    rw [getBits_setBits_self _ _ (by decide)]; omega
  have hpcmd : (s.setField (descAddr part 0x78) 3 3 (v.toNat % 8)).pcmd part = 2 := by
    simp [State.pcmd, hp, State.reg64_setField_self, State.reg64_setField_of_ne _ _ _ _ hne, hbusy, hcmd]
  have hnz : v.toNat % 8 ≠ 0 := by omega
  have hwrite : s.writePcmd (descAddr part 0x78) part (v.toNat % 8) = s.setField (descAddr part 0x78) 3 3 (v.toNat % 8) := by
    simp [State.writePcmd, hop, hbusy, htwo, hfree, h3]
  rw [regWrite_pcmd hp, hwrite]
  refine ⟨hpcmd, ?_, rfl⟩
  simp [State.asked, hp, hnz, hpcmd, State.reg64_setField_self, State.reg64_setField_of_ne _ _ _ _ hne, hbusy, hbeside]

/-- FACT without an action sets FERR. -/
theorem fact_without_action (h : v.toNat % 4 = 0 ∨ v.toNat % 4 = 3) :
    exec (.registerWrite (vfAddr part 0x58) v) s = .next (s.setReg64 (vfAddr part 0x60) 1) := by
  have hm : regMasks (vfAddr part 0x58) = some (0, 0) := (regMasks_vfAddr hp (by decide)).trans rfl
  have hact : getBits v 0 2 ≠ 1 ∧ getBits v 0 2 ≠ 2 := by rw [getBits_zero]; omega
  rw [exec_registerWrite v (s.regWaits_vf (Nat.le_of_lt hp) (by decide))]
  simp only [State.regWrite, hm, regionOf_vfAddr hp (show 0x58 < 0x10000 by decide), vfAddr_mem (Nat.le_of_lt hp) (show 0x58 < 0x10000 by decide),
    vfAddr_offset (part := part) (show 0x58 < 0x10000 by decide), vfAddr_page (part := part) (show 0x58 < 0x10000 by decide), and_self, if_true,
    BitVec.and_allOnes, Nat.reduceEqDiff, if_false, or_self, State.writeFact, hact.1, hact.2, State.factError]

end

/-- A FWCMD of 1 to 3 begins when none is in progress. -/
theorem fwcmd_begins (s : State) (v : Word) (h1 : 1 ≤ v.toNat % 16) (h3 : v.toNat % 16 ≤ 3) (hn : s.fwcmd = none) :
    ∃ t, exec (.registerWrite (vfAddr 32 0x1010) v) s = .next t ∧ t.fwcmd = some (v.toNat % 16, v.toNat / 2 ^ 8 % 16) ∧
      t = { s with dev := t.dev } := by
  refine ⟨_, exec_registerWrite v (s.regWaits_vf (Nat.le_refl 32) (by decide)), ?_⟩
  have hidle : (s.reg64 fwstat).getLsbD 0 = false := by
    unfold State.fwcmd at hn
    split at hn
    · exact absurd hn (Option.some_ne_none _)
    · next h => exact Bool.eq_false_of_not_eq_true h
  have hop : getBits v 0 4 = v.toNat % 16 := getBits_zero v 4
  have hwrite : s.regWrite (vfAddr 32 0x1010) v (BitVec.allOnes 64) =
      (s.setField fwstat 0 1 1).setReg64 (vfAddr 32 0x1010) (v &&& 0xF0F) := by
    have hm : regMasks (vfAddr 32 0x1010) = some (0, 0) := rfl
    have hgo : (decide (1 ≤ getBits v 0 4) && decide (getBits v 0 4 ≤ 3)) = true := by simp [hop, h1, h3]
    simp only [State.regWrite, hm, regionOf_pfAddr (show 0x1010 < 0x10000 by decide), vfAddr_mem (Nat.le_refl 32) (show 0x1010 < 0x10000 by decide),
      vfAddr_offset (part := 32) (show 0x1010 < 0x10000 by decide), and_self, if_true, BitVec.and_allOnes, Nat.reduceEqDiff, if_false, or_self,
      hgo, show (s.reg64 (vfAddr 32 0x1028)).getLsbD 0 = false from hidle, Bool.false_eq_true]
    rfl
  have hne : fwstat ≠ vfAddr 32 0x1010 := by decide
  have hset : (setBits (s.reg64 fwstat) 0 1 1).getLsbD 0 = true := by rw [getLsbD_setBits _ _ _ (by decide)]; rfl
  have hfield {lo : Nat} (hlo : lo = 0 ∨ lo = 8) : getBits (v &&& 0xF0F) lo 4 = getBits v lo 4 :=
    getBits_congr fun i hi => by
      have hbit : ∀ i < 4, (0xF0F : Word).getLsbD (0 + i) = true ∧ (0xF0F : Word).getLsbD (8 + i) = true := by decide
      rw [BitVec.getLsbD_and]
      rcases hlo with rfl | rfl
      · rw [(hbit i hi).1, Bool.and_true]
      · rw [(hbit i hi).2, Bool.and_true]
  rw [hwrite]
  refine ⟨?_, rfl⟩
  rw [State.fwcmd, State.reg64_setReg64_of_ne _ _ hne, State.reg64_setField_self, if_pos hset, State.reg64_setReg64_self,
    hfield (Or.inl rfl), hfield (Or.inr rfl), hop]
  rfl

end Sys2Proof.Machine
end

section
/-! The fault queues' registers (R418, R419) and SRTBASE (R375, R415). -/

namespace Sys2Proof.Machine

open Claims

/-! ## FQHEAD and FQBASE -/

theorem State.flushRecords_of_posted {s : State} {ring : Nat} (n : Nat) (h : ∀ r ∈ s.records, r.ring = ring → r.posted = true) :
    s.flushRecords ring n = s := by
  cases n with
  | zero => rfl
  | succ n =>
    have hnone : (s.records.find? fun r => r.ring = ring && !r.posted) = none := by
      rw [List.find?_eq_none]
      intro r hr hw
      rw [Bool.and_eq_true, decide_eq_true_eq, Bool.not_eq_true'] at hw
      exact Bool.false_ne_true (hw.2.symm.trans (h r hr hw.1))
    rw [State.flushRecords, hnone]

section
variable {ring : Nat} (hr : ring ≤ 32) (s : State)
include hr

theorem exec_fqHeadWrite (v : BitVec 32) :
    exec (.fqHeadWrite ring v) s = .next ((s.setField (vfAddr ring 0x48) 0 32 v.toNat).flushRecords ring s.records.length) := by
  change Host.Outcome.next _ = _
  rw [if_pos hr]
  rfl

variable (hposted : ∀ r ∈ s.records, r.ring = ring → r.posted = true)
include hposted

theorem fqHead_written (v : BitVec 32) : ∃ t, exec (.fqHeadWrite ring v) s = .next t ∧ OnlyRegister s t (vfAddr ring 0x48) ∧
    getBits (t.reg64 (vfAddr ring 0x48)) 0 32 = v.toNat := by
  have hflush : (s.setField (vfAddr ring 0x48) 0 32 v.toNat).flushRecords ring s.records.length = s.setField (vfAddr ring 0x48) 0 32 v.toNat :=
    State.flushRecords_of_posted _ hposted
  refine ⟨_, exec_fqHeadWrite hr s v, ?_⟩
  rw [hflush]
  refine ⟨onlyRegister_setReg64 _ _ _, ?_⟩
  rw [State.reg64_setField_self, getBits_setBits_self _ _ (by decide)]
  exact Nat.mod_eq_of_lt v.isLt

theorem fqBase_written (w : Word) : ∃ t, exec (.registerWrite (vfAddr ring 0x40) w) s = .next t ∧ OnlyRegister s t (vfAddr ring 0x40) ∧
    t.reg64 (vfAddr ring 0x40) = (s.reg64 (vfAddr ring 0x40) &&& ~~~0xFFFFFFFFFFFCF) ||| (w &&& 0xFFFFFFFFFFFCF) := by
  have ho : 0x40 < 0x10000 := by decide
  have hflush (x : Word) (n : Nat) : (s.setReg64 (vfAddr ring 0x40) x).flushRecords ring n = s.setReg64 (vfAddr ring 0x40) x :=
    State.flushRecords_of_posted _ hposted
  refine registerWrite_plain (s.regWaits_vf hr (by decide)) ?_
  rcases Nat.lt_or_eq_of_le hr with hlt | rfl
  · have hm : regMasks (vfAddr ring 0x40) = some (0xFFFFFFFFFFFCF, 0) := (regMasks_vfAddr hlt ho).trans rfl
    simp only [State.regWrite, hm, regionOf_vfAddr hlt ho, vfAddr_mem hr ho, vfAddr_offset ho, vfAddr_page ho, and_self, if_true,
      Nat.reduceEqDiff, if_false, or_self, hflush]
  · have hm : regMasks (vfAddr 32 0x40) = some (0xFFFFFFFFFFFCF, 0) := rfl
    simp only [State.regWrite, hm, regionOf_pfAddr ho, vfAddr_mem hr ho, vfAddr_offset ho, vfAddr_page ho, and_self, if_true,
      Nat.reduceEqDiff, if_false, or_self, hflush]

end

/-! ## SRTBASE -/

theorem regionOf_desc {k : Nat} (h1 : descBase ≤ k) (h2 : k < descBase + 32 * 0x100) : regionOf k = .desc ((k - descBase) / 0x100) := by
  have hk : k = descAddr ((k - descBase) / 0x100) ((k - descBase) % 0x100) := by simp only [descAddr]; omega
  rw [hk, regionOf_descAddr (by omega) (Nat.mod_lt _ (by decide)), ← hk]

theorem State.ownRange_iff {s : State} {part k : Nat} :
    s.ownRange part k = true ↔ k < 2 ^ 48 ∧ regionOf k ≠ .fabric ∧ s.inRanges part k = true := by
  simp [State.ownRange, and_assoc]

/-- The ranges of a partition are cut at multiples of 4 KiB but for descriptors. -/
theorem State.inRanges_of_page {s : State} {part base k : Nat} (hb : base % 4096 = 0) (hk : base ≤ k) (hk' : k < base + 4096)
    (hr : regionOf k = regionOf base) : s.inRanges part k = s.inRanges part base := by
  have hdie : hbmDie = 0x1E00000000 := rfl
  have hband : hbmBand = 0x1E0000000 := rfl
  have hchip : chipBase = 0x10000000000 := rfl
  have hchipDie : chipDie = 0x4000000 := rfl
  have hctl : ctlBase = 0x20000000000 := rfl
  have e1 : k % hbmDie / hbmBand = base % hbmDie / hbmBand := by rw [hdie, hband]; omega
  have e2 : (k - chipBase) % chipDie / 0x100000 = (base - chipBase) % chipDie / 0x100000 := by rw [hchipDie]; omega
  have e3 : (k - ctlBase) % 0x1000000 / 0x100000 = (base - ctlBase) % 0x1000000 / 0x100000 := by omega
  have e4 : (k - ctlBase) % 0x1000000 < 0x800000 ↔ (base - ctlBase) % 0x1000000 < 0x800000 := by omega
  simp only [State.inRanges, hr, e1, e2, e3, e4]

/-- A 4 KiB page whose first and last byte lie in ranges of a partition lies in them whole: a page of descriptors belongs to several partitions. -/
theorem State.ownRange_page {s : State} {part base k : Nat} (hb : base % 4096 = 0) (h1 : s.ownRange part base = true)
    (h2 : s.ownRange part (base + 4095) = true) (hk : base ≤ k) (hk' : k < base + 4096) : s.ownRange part k = true := by
  rw [State.ownRange_iff] at h1 h2 ⊢
  obtain ⟨hlt, hfabric, hin⟩ := h1
  obtain ⟨_, _, hlast⟩ := h2
  by_cases hd : descBase ≤ base ∧ base < descBase + 32 * 0x100
  · have hbase : descBase = 0x20030000000 := rfl
    obtain ⟨last, hl⟩ : ∃ l, l = base + 4095 := ⟨_, rfl⟩
    rw [← hl, State.inRanges, regionOf_desc (by omega) (by omega), decide_eq_true_eq] at hlast
    rw [State.inRanges, regionOf_desc hd.1 hd.2, decide_eq_true_eq] at hin
    omega
  · have hr : regionOf k = regionOf base := regionOf_of_block (g := 4096) (by decide) hb hk hk' (by omega)
    exact ⟨by omega, hr ▸ hfabric, (State.inRanges_of_page hb hk hk' hr).trans hin⟩

/-- Testing the first and last byte of every 4 KiB is testing every byte. -/
theorem State.ownRange_pages_iff {s : State} {part lo n : Nat} (hlo : lo % 4096 = 0) :
    ((List.range n).all fun i => s.ownRange part (lo + 4096 * i) && s.ownRange part (lo + 4096 * i + 4095)) = true ↔
      ∀ k, lo ≤ k → k < lo + 4096 * n → k < 2 ^ 48 ∧ regionOf k ≠ .fabric ∧ s.inRanges part k = true := by
  simp only [List.all_eq_true, List.mem_range, Bool.and_eq_true, ← State.ownRange_iff]
  constructor
  · intro h k hk hk'
    have hi : (k - lo) / 4096 < n := by omega
    obtain ⟨hfirst, hlast⟩ := h _ hi
    exact State.ownRange_page (by omega) hfirst hlast (by omega) (by omega)
  · exact fun h i hi => ⟨h _ (by omega) (by omega), h _ (by omega) (by omega)⟩

/-- The test of `State.srtFix` in the words of R375: one partition's ranges hold the buffer. -/
theorem State.srtFits_iff {s : State} {w : Word} :
    ((List.range 32).any fun p => (List.range (2 ^ min (getBits w 1 4) 12)).all fun i =>
      s.ownRange p (getBits w 12 36 * 4096 + 4096 * i) && s.ownRange p (getBits w 12 36 * 4096 + 4096 * i + 4095)) = true ↔
    ∃ p < 32, ∀ k, w.toNat / 2 ^ 12 % 2 ^ 36 * 4096 ≤ k → k < w.toNat / 2 ^ 12 % 2 ^ 36 * 4096 + 4096 * 2 ^ min (w.toNat / 2 % 16) 12 →
      (k < 2 ^ 48 ∧ regionOf k ≠ .fabric ∧ s.inRanges p k = true) := by
  simp only [List.any_eq_true, List.mem_range, State.ownRange_pages_iff (Nat.mul_mod_left _ _)]
  rfl

theorem State.regWrite_srtBase (s : State) {a k : Nat} {rw w1c : Word} (v : Word) (ha : regionOf a = .stack k) (hm : regMasks a = some (rw, w1c))
    (ho : (a - stackBase) % 0x100000 = 0x20000) :
    s.regWrite a v (BitVec.allOnes 64) = s.setReg64 a (s.srtFix (regUpdate (s.reg64 a) v (BitVec.allOnes 64) rw w1c)) := by
  simp only [State.regWrite, hm, ha, ho, if_true]

theorem srtBase_written {stack : Nat} (hk : stack < 8) (v : Word) (s : State) : let a := stackCtl stack + 0x20000
    let new := (s.reg64 a &&& ~~~(0xFFFFFFFFF01F : Word)) ||| (v &&& 0xFFFFFFFFF01F)
    let lo := new.toNat / 2 ^ 12 % 2 ^ 36 * 4096
    let size := 4096 * 2 ^ min (new.toNat / 2 % 16) 12
    let fits := ∃ p < 32, ∀ k, lo ≤ k → k < lo + size → (k < 2 ^ 48 ∧ regionOf k ≠ .fabric ∧ s.inRanges p k = true)
    ∃ t, exec (.srtBaseWrite stack v) s = .next t ∧ OnlyRegister s t a ∧
      (fits → t.reg64 a = new) ∧ (¬ fits → t.reg64 a = new &&& ~~~(1 : Word)) := by
  intro a new lo size fits
  have ho : 0x20000 < 0x100000 := by decide
  have hm : regMasks a = some (0xFFFFFFFFF01F, 0) := (regMasks_stackCtl hk ho).trans rfl
  have hwrite : s.regWrite a v (BitVec.allOnes 64) = s.setReg64 a (s.srtFix new) := by
    rw [s.regWrite_srtBase v (regionOf_stackCtl hk ho) hm (stackCtl_offset ho), regUpdate_whole]
  have hfix : fits → s.srtFix new = new := fun hf => if_pos (s.srtFits_iff.mpr hf)
  have hdrop : ¬ fits → s.srtFix new = new &&& ~~~(1 : Word) := fun hf => if_neg fun h => hf (s.srtFits_iff.mp h)
  refine ⟨_, rfl, ?_⟩
  rw [if_pos hk, hwrite]
  exact ⟨onlyRegister_setReg64 _ _ _, fun hf => (State.reg64_setReg64_self _ _ _).trans (hfix hf),
    fun hf => (State.reg64_setReg64_self _ _ _).trans (hdrop hf)⟩

end Sys2Proof.Machine
end

section
/-! Writes of TROOT and TLBINV (R294, R303): the stores that wait in the partition's cores are performed first. -/

namespace Sys2Proof.Machine

theorem State.Drains.drainCores (s : State) (l : List Nat) : s.Drains (l.foldl State.drainAll s) :=
  List.foldlRecOn l State.drainAll (.refl s) fun _ h c _ => h.trans (.drainAll _ c)

theorem State.fifo_drainCores {s : State} {l : List Nat} (h : ∀ c ∈ l, s.drainBlocked c = false) :
    ∀ c ∈ l, ((l.foldl State.drainAll s).core c).fifo = [] := by
  induction l generalizing s with
  | nil => exact fun c hc => absurd hc List.not_mem_nil
  | cons a as ih =>
    intro c hc
    rcases List.mem_cons.mp hc with rfl | hc
    · have hrest := (State.Drains.drainCores (s.drainAll c) as).fifo c
      rw [State.fifo_drainAll (h c List.mem_cons_self)] at hrest
      exact List.suffix_nil.mp hrest
    · exact ih (fun k hk => (State.Drains.drainAll s a).drainBlocked (h k (List.mem_cons_of_mem _ hk))) c hc

theorem State.fifo_of_not_listed {s : State} {c : Nat} (h : c ∉ s.cores.map (·.core)) : (s.core c).fifo = [] := by
  have hnone : s.cores.find? (·.core = c) = none :=
    List.find?_eq_none.mpr fun k hk hc => h (List.mem_map.mpr ⟨k, hk, of_decide_eq_true hc⟩)
  rw [State.core, hnone]
  rfl

theorem State.drainBlocked_of_partBlocked {s : State} {part c : Nat} (hb : s.partBlocked part = false) (hc : c ∈ s.partCores part) :
    s.drainBlocked c = false := by
  rw [State.partBlocked, Bool.and_eq_false_iff, List.any_eq_false] at hb
  rcases hb with hl | hb
  · rw [State.drainBlocked, hl, Bool.false_and]
  · exact Bool.eq_false_of_not_eq_true (hb c hc)

/-- Where none of the partition's cores waits for a locked page, all their FIFOs drain whole. -/
theorem State.fifo_drainPart {s : State} {part c : Nat} (hb : s.partBlocked part = false) (ho : s.ownsCluster part (c / 8) = true) :
    ((s.drainPart part).core c).fifo = [] := by
  by_cases hc : c ∈ s.partCores part
  · exact State.fifo_drainCores (fun k hk => State.drainBlocked_of_partBlocked hb hk) c hc
  · have hlist : c ∉ s.cores.map (·.core) := fun hm => hc (List.mem_filter.mpr ⟨hm, ho⟩)
    have hs := (State.Drains.drainCores s (s.partCores part)).fifo c
    rw [State.fifo_of_not_listed hlist] at hs
    exact List.suffix_nil.mp hs

section
variable {part : Nat} {s : State} (v : Word)

theorem exec_trootWrite (hp : part < 32) (hb : s.partBlocked part = false) : exec (.trootWrite part v) s = .next (s.writeTroot part v) := by
  change Host.Outcome.next _ = _
  rw [hb, decide_eq_true hp]
  rfl

theorem exec_tlbinvAll (hb : s.partBlocked part = false) : exec (.tlbinvAll part) s = .next (s.writeTlbinv part 1) := by
  change Host.Outcome.next _ = _
  rw [hb, if_neg Bool.false_ne_true]

theorem exec_tlbinvRange (hb : s.partBlocked part = false) : exec (.tlbinvRange part v) s = .next (s.writeTlbinv part (v &&& ~~~(1 : Word))) := by
  change Host.Outcome.next _ = _
  rw [hb, if_neg Bool.false_ne_true]

/-- While a store waits for a locked page, the write waits. -/
theorem translationWrites_wait (hb : s.partBlocked part = true) :
    exec (.trootWrite part v) s = .next s ∧ exec (.tlbinvAll part) s = .next s ∧ exec (.tlbinvRange part v) s = .next s := by
  refine ⟨?_, ?_, ?_⟩ <;> change Host.Outcome.next _ = _
  · rw [hb, Bool.not_true, Bool.and_false, if_neg Bool.false_ne_true]
  · rw [hb, if_pos rfl]
  · rw [hb, if_pos rfl]

theorem State.mem_tlb_writeTroot (e : TlbEntry) : e ∈ (s.writeTroot part v).tlb ↔ e ∈ (s.drainPart part).tlb ∧ e.part ≠ part := by
  simp [State.writeTroot]

theorem State.mem_tlb_writeTlbinv (e : TlbEntry) : e ∈ (s.writeTlbinv part v).tlb ↔ e ∈ (s.drainPart part).tlb ∧
    (e.part ≠ part ∨ if v.getLsbD 0 then e.leaf.getLsbD 9 = true else
      e.base + pageBytes e.size ≤ getBits v 12 40 * 4096 / pageBytes (min (getBits v 1 4) 12) * pageBytes (min (getBits v 1 4) 12) ∨
      getBits v 12 40 * 4096 / pageBytes (min (getBits v 1 4) 12) * pageBytes (min (getBits v 1 4) 12) + pageBytes (min (getBits v 1 4) 12) ≤
        e.base) := by
  simp only [State.writeTlbinv, List.mem_filter, Bool.or_eq_true, decide_eq_true_eq]
  split <;> simp

end

/-- The clauses of O57 about a partition's translations. -/
theorem translations_written (part : Nat) (v : Word) (s : State) :
    let d := s.drainPart part
    (s.partBlocked part = true →
      exec (.trootWrite part v) s = .next s ∧ exec (.tlbinvAll part) s = .next s ∧ exec (.tlbinvRange part v) s = .next s) ∧
    (s.partBlocked part = false → ∀ c, s.ownsCluster part (c / 8) = true → (d.core c).fifo = []) ∧
    (part < 32 → s.partBlocked part = false → ∃ t, exec (.trootWrite part v) s = .next t ∧
      t.reg64 (descAddr part 0x30) = v &&& 0xFFFFFFFFF801 ∧
      (∀ b, b ≠ descAddr part 0x30 → t.reg64 b = d.reg64 b) ∧ (∀ e, e ∈ t.tlb ↔ e ∈ d.tlb ∧ e.part ≠ part) ∧
      t = { d with dev := t.dev, tlb := t.tlb }) ∧
    (s.partBlocked part = false → ∃ t, exec (.tlbinvAll part) s = .next t ∧ t = { d with tlb := t.tlb } ∧
      ∀ e, e ∈ t.tlb ↔ e ∈ d.tlb ∧ (e.part ≠ part ∨ e.leaf.getLsbD 9 = true)) ∧
    (let n := pageBytes (min (v.toNat / 2 % 16) 12)
     let lo := v.toNat / 2 ^ 12 % 2 ^ 40 * 4096 / n * n
     s.partBlocked part = false → ∃ t, exec (.tlbinvRange part v) s = .next t ∧ t = { d with tlb := t.tlb } ∧
      ∀ e, e ∈ t.tlb ↔ e ∈ d.tlb ∧ (e.part ≠ part ∨ e.base + pageBytes e.size ≤ lo ∨ lo + n ≤ e.base)) := by
  intro d
  refine ⟨translationWrites_wait v, fun hb c hc => State.fifo_drainPart hb hc, fun hp hb => ?_, fun hb => ?_, fun hb => ?_⟩
  · exact ⟨_, exec_trootWrite v hp hb, State.reg64_setReg64_self _ _ _, fun b hne => State.reg64_setReg64_of_ne _ _ hne,
      State.mem_tlb_writeTroot v, rfl⟩
  · exact ⟨_, exec_tlbinvAll hb, rfl, State.mem_tlb_writeTlbinv 1⟩
  · refine ⟨_, exec_tlbinvRange v hb, rfl, fun e => ?_⟩
    have hall : (v &&& ~~~(1 : Word)).getLsbD 0 = false := by
      rw [BitVec.getLsbD_and, show (~~~(1 : Word)).getLsbD 0 = false from rfl, Bool.and_false]
    rw [State.mem_tlb_writeTlbinv, hall, if_neg Bool.false_ne_true, getBits_clearBit0 v 40 (by decide), getBits_clearBit0 v 4 (by decide)]
    rfl

end Sys2Proof.Machine
end

section
/-! A write to LGEN (R159), group by group: what the write of one group's EN bit does, what it leaves alone, and so what the whole write does. -/

namespace Sys2Proof.Machine

theorem Mem.read_of_no_cell {m : List Host.Cell} {k : Nat} (h : ∀ c ∈ m, c.1 ≠ k) : Mem.read m k = Mem.unlisted := by
  induction m with
  | nil => rfl
  | cons c m ih =>
    obtain ⟨a, b⟩ := c
    have hne : a ≠ k := h (a, b) List.mem_cons_self
    rcases Nat.lt_or_gt_of_ne hne with hlt | hgt
    · rw [Mem.read_cons_of_gt hlt, ih fun c hc => h c (List.mem_cons_of_mem _ hc)]
    · exact Mem.read_cons_of_lt hgt

theorem getLsbD_or_two_pow (w : Word) {k i : Nat} (hk : k < 64) :
    (w ||| BitVec.ofNat 64 (2 ^ k)).getLsbD i = (w.getLsbD i || decide (i = k)) := by
  rw [BitVec.getLsbD_or, getLsbD_ofNat_two_pow hk]

theorem getLsbD_clear_two_pow (w : Word) {k i : Nat} (hk : k < 64) :
    (w &&& ~~~(BitVec.ofNat 64 (2 ^ k))).getLsbD i = (w.getLsbD i && !decide (i = k)) := by
  rw [BitVec.getLsbD_and, BitVec.getLsbD_not, getLsbD_ofNat_two_pow hk]
  by_cases hi : i < 64
  · rw [decide_eq_true hi, Bool.true_and]
  · rw [BitVec.getLsbD_of_ge w i (Nat.le_of_not_lt hi), Bool.false_and, Bool.false_and]

/-- A group's EN bit and the one of its pending power-off, cleared together. -/
theorem clear_group (w : Word) {g : Nat} (hg : g < 8) : w &&& ~~~(BitVec.ofNat 64 (2 ^ g + 2 ^ (8 + g))) =
    (w &&& ~~~(BitVec.ofNat 64 (2 ^ g))) &&& ~~~(BitVec.ofNat 64 (2 ^ (8 + g))) := by
  have hsum : ∀ g < 8, BitVec.ofNat 64 (2 ^ g + 2 ^ (8 + g)) = BitVec.ofNat 64 (2 ^ g) ||| BitVec.ofNat 64 (2 ^ (8 + g)) := by decide
  rw [hsum g hg, BitVec.not_or, BitVec.and_assoc]

/-! ## Strands asked to regrant -/

/-- ST.RGP is set. -/
def Strand.askRegrant (t : Strand) : Strand := { t with st := { t.st with rgp := true } }

/-- And of the live strand at a place, as `State.updateAt` sets it. -/
def askAt (place : Nat) (t : Strand) : Strand := if t.place = place && t.run ≠ .vacant && t.run ≠ .ended then t.askRegrant else t

/-- A change of strands that at most asks them to regrant. -/
def OnlyAsks (f : Strand → Strand) : Prop := ∀ t, f t = t ∨ f t = t.askRegrant

namespace OnlyAsks
variable {f g : Strand → Strand}

theorem id : OnlyAsks fun t => t := fun _ => .inl rfl

theorem comp (hf : OnlyAsks f) (hg : OnlyAsks g) : OnlyAsks (g ∘ f) := fun t => by
  rw [Function.comp_apply]
  rcases hg (f t) with e | e <;> rcases hf t with e' | e' <;> rw [e, e']
  · exact .inl rfl
  · exact .inr rfl
  · exact .inr rfl
  · exact .inr rfl

theorem askAt (place : Nat) : OnlyAsks (askAt place) := fun t => by
  unfold Machine.askAt
  split
  · exact .inr rfl
  · exact .inl rfl

/-- What ST.RGP has no part in is as before. -/
theorem keeps {β : Type} (h : OnlyAsks f) {p : Strand → β} (hp : ∀ t : Strand, p t.askRegrant = p t) (t : Strand) : p (f t) = p t := by
  rcases h t with e | e
  · rw [e]
  · rw [e, hp]

theorem rgp (h : OnlyAsks f) {t : Strand} (ht : t.st.rgp = true) : (f t).st.rgp = true := by
  rcases h t with e | e
  · rw [e, ht]
  · rw [e]; rfl

theorem homeOn (h : OnlyAsks f) (core : Nat) (t : Strand) : (f t).homeOn core = t.homeOn core := h.keeps (p := (·.homeOn core)) (fun _ => rfl) t

theorem heldOn (h : OnlyAsks f) (core : Nat) (t : Strand) : (f t).heldOn core = t.heldOn core := h.keeps (p := (·.heldOn core)) (fun _ => rfl) t

theorem place (h : OnlyAsks f) (t : Strand) : (f t).place = t.place := h.keeps (fun _ => rfl) t

end OnlyAsks

theorem State.onCore_map {s u : State} {f : Strand → Strand} (hf : OnlyAsks f) (h : u.strands = s.strands.map f) (core : Nat) :
    u.onCore core = (s.onCore core).map f := by
  rw [State.onCore, h, List.filter_map, State.onCore]
  exact congrArg (List.map f) (List.filter_congr fun t _ =>
    hf.keeps (p := fun t => t.live && t.places.any fun p => coreOf p = core) (fun _ => rfl) t)

theorem State.strandAt_map {s u : State} {f : Strand → Strand} (hf : OnlyAsks f) (h : u.strands = s.strands.map f) (place : Nat) :
    u.strandAt place = (s.strandAt place).map f := by
  rw [State.strandAt, h, List.find?_map, State.strandAt]
  refine congrArg (Option.map f) (congrArg (s.strands.find? ·) (funext fun t => ?_))
  exact hf.keeps (p := fun t => decide (t.place = place) && decide (t.run ≠ .vacant) && decide (t.run ≠ .ended)) (fun _ => rfl) t

theorem State.strands_updateAt_askRegrant (s : State) (place : Nat) : (s.updateAt place Strand.askRegrant).strands = s.strands.map (askAt place) :=
  rfl

theorem State.reg64_updateAt (s : State) (place : Nat) (f : Strand → Strand) (a : Nat) : (s.updateAt place f).reg64 a = s.reg64 a := rfl

/-- The strand found at a strand's place is asked, once that place is. -/
theorem State.rgp_updateAt_askRegrant {s : State} {core : Nat} {t : Strand} (ht : t ∈ s.onCore core) :
    ((s.updateAt t.place Strand.askRegrant).strandAt t.place).map (·.st.rgp) = some true := by
  obtain ⟨hmem, hlive⟩ := List.mem_filter.mp ht
  have hrun : t.live = true := (Bool.and_eq_true_iff.mp hlive).1
  have hsome : (s.strandAt t.place).isSome = true := by
    rw [State.strandAt, List.find?_isSome]
    exact ⟨t, hmem, by simpa [Strand.live] using hrun⟩
  obtain ⟨u, hu⟩ := Option.isSome_iff_exists.mp hsome
  have hask : askAt t.place u = u.askRegrant := if_pos (List.find?_some hu)
  rw [State.strandAt_map (.askAt t.place) (State.strands_updateAt_askRegrant s t.place), hu, Option.map_some, hask]
  rfl

/-! ## What the write of an EN bit leaves alone -/

/-- Every register but LGEN, the strands but for ST.RGP; and no byte is listed in memory that was not. -/
structure LgenFrame (a : Nat) (s u : State) : Prop where
  dev : ∀ b, b ≠ a → u.reg64 b = s.reg64 b
  strands : ∃ f, OnlyAsks f ∧ u.strands = s.strands.map f
  mem : ∀ c ∈ u.mem, c ∈ s.mem

/-- LGEN's two bits of a group are as before. -/
def KeepsGroup (a g : Nat) (s u : State) : Prop :=
  (u.reg64 a).getLsbD g = (s.reg64 a).getLsbD g ∧
    (u.reg64 a).getLsbD (8 + g) = (s.reg64 a).getLsbD (8 + g)

theorem KeepsGroup.trans {a g : Nat} {s u v : State} (h : KeepsGroup a g s u) (h' : KeepsGroup a g u v) : KeepsGroup a g s v :=
  ⟨h'.1.trans h.1, h'.2.trans h.2⟩

namespace LgenFrame
variable {a : Nat} {s u v : State}

theorem refl (a : Nat) (s : State) : LgenFrame a s s := ⟨fun _ _ => rfl, ⟨_, .id, (List.map_id' _).symm⟩, fun _ h => h⟩

theorem trans (h : LgenFrame a s u) (h' : LgenFrame a u v) : LgenFrame a s v := by
  obtain ⟨f, hf, e⟩ := h.strands
  obtain ⟨g, hg, e'⟩ := h'.strands
  exact ⟨fun b hb => (h'.dev b hb).trans (h.dev b hb), ⟨g ∘ f, hf.comp hg, by rw [e', e, List.map_map]⟩, fun c hc => h.mem c (h'.mem c hc)⟩

theorem ite {c : Prop} {_ : Decidable c} (h : LgenFrame a s u) (h' : LgenFrame a s v) : LgenFrame a s (if c then u else v) := by
  split <;> assumption

theorem setReg64 (h : LgenFrame a s u) (w : Word) : LgenFrame a s (u.setReg64 a w) :=
  ⟨fun b hb => (State.reg64_setReg64_of_ne u w hb).trans (h.dev b hb), h.strands, h.mem⟩

theorem zeroGroup (h : LgenFrame a s u) (core g : Nat) : LgenFrame a s (u.zeroGroup core g) :=
  ⟨h.dev, h.strands, fun c hc => h.mem c (List.mem_filter.mp hc).1⟩

theorem askAt (h : LgenFrame a s u) (place : Nat) : LgenFrame a s (u.updateAt place Strand.askRegrant) :=
  h.trans ⟨fun _ _ => rfl, ⟨Machine.askAt place, OnlyAsks.askAt place, State.strands_updateAt_askRegrant u place⟩, fun _ hc => hc⟩

theorem onCore (h : LgenFrame a s u) (core : Nat) : ∃ f, OnlyAsks f ∧ u.onCore core = (s.onCore core).map f :=
  let ⟨f, hf, e⟩ := h.strands
  ⟨f, hf, State.onCore_map hf e core⟩

/-- The home groups of the core's strands are as before. -/
theorem no_home (h : LgenFrame a s u) {core g : Nat} (hs : ∀ t ∈ s.onCore core, (t.homeOn core).testBit g = false) :
    ∀ t ∈ u.onCore core, (t.homeOn core).testBit g = false := by
  obtain ⟨f, hf, e⟩ := h.onCore core
  rw [e]
  intro t ht
  obtain ⟨t0, h0, rfl⟩ := List.mem_map.mp ht
  rw [hf.homeOn, hs t0 h0]

theorem some_home (h : LgenFrame a s u) {core g : Nat} (hs : ∃ t ∈ s.onCore core, (t.homeOn core).testBit g = true) :
    ∃ t ∈ u.onCore core, (t.homeOn core).testBit g = true := by
  obtain ⟨f, hf, e⟩ := h.onCore core
  obtain ⟨t, ht, hb⟩ := hs
  exact ⟨f t, e ▸ List.mem_map_of_mem ht, by rw [hf.homeOn, hb]⟩

/-- And so is the strand that holds a group. -/
theorem find_held (h : LgenFrame a s u) (core g : Nat) : ∃ f, OnlyAsks f ∧
    ((u.onCore core).find? fun t => (t.heldOn core).testBit g) = ((s.onCore core).find? fun t => (t.heldOn core).testBit g).map f := by
  obtain ⟨f, hf, e⟩ := h.onCore core
  refine ⟨f, hf, ?_⟩
  rw [e, List.find?_map]
  refine congrArg (Option.map f) (congrArg ((s.onCore core).find? ·) (funext fun t => ?_))
  rw [Function.comp_apply, hf.heldOn]

theorem strand (h : LgenFrame a s u) : u.strand.sregs = s.strand.sregs ∧ u.strand.ctl = s.strand.ctl := by
  obtain ⟨f, hf, e⟩ := h.strands
  have hs : u.strand = f s.strand := (List.cons.inj e).1
  rw [hs]
  exact ⟨hf.keeps (p := (·.sregs)) (fun _ => rfl) _, hf.keeps (p := (·.ctl)) (fun _ => rfl) _⟩

/-- A strand that has been asked stays asked. -/
theorem rgp (h : LgenFrame a s u) {place : Nat} (hr : (s.strandAt place).map (·.st.rgp) = some true) :
    (u.strandAt place).map (·.st.rgp) = some true := by
  obtain ⟨f, hf, e⟩ := h.strands
  obtain ⟨t, ht, htr⟩ := Option.map_eq_some_iff.mp hr
  rw [State.strandAt_map hf e, ht]
  exact congrArg some (hf.rgp htr)

/-- An emptied range stays empty. -/
theorem read (h : LgenFrame a s u) {k : Nat} (hk : ∀ c ∈ s.mem, c.1 ≠ k) : Mem.read u.mem k = Mem.unlisted :=
  Mem.read_of_no_cell fun c hc => hk c (h.mem c hc)

end LgenFrame

/-! ## One EN bit -/

/-- The write of one group's EN bit. -/
def State.writeGroup (core : Nat) (v : Word) (s : State) (g : Nat) : State :=
  if v.getLsbD g then
    (if (s.reg64 (coreCtl core + 0x40)).getLsbD g then s else s.zeroGroup core g).setReg64 (coreCtl core + 0x40)
      ((s.reg64 (coreCtl core + 0x40) ||| BitVec.ofNat 64 (2 ^ g)) &&& ~~~(BitVec.ofNat 64 (2 ^ (8 + g))))
  else if (s.reg64 (coreCtl core + 0x40)).getLsbD g then s.groupOff core g else s

theorem State.writeLgen_eq (s : State) (core : Nat) (v : Word) : s.writeLgen core v = (List.range 8).foldl (State.writeGroup core v) s := rfl

theorem State.onCore_setReg64 (s : State) (a : Nat) (w : Word) (core : Nat) : (s.setReg64 a w).onCore core = s.onCore core := rfl

theorem State.reg64_zeroGroup (s : State) (core g a : Nat) : (s.zeroGroup core g).reg64 a = s.reg64 a := rfl

theorem State.not_mem_zeroGroup {s : State} {core g o : Nat} (ho : o < 0x8000) :
    ∀ c ∈ (s.zeroGroup core g).mem, c.1 ≠ laneKey core (g * 0x8000) + o := by
  intro c hc hk
  have hout := (List.mem_filter.mp hc).2
  rw [hk] at hout
  simp [ho] at hout

section
variable {s : State} {core g : Nat}

theorem State.groupOff_home (h : ∃ u ∈ s.onCore core, (u.homeOn core).testBit g = true) : s.groupOff core g = s :=
  if_pos (List.any_eq_true.mpr h)

theorem State.groupOff_not_home (h : ∀ u ∈ s.onCore core, (u.homeOn core).testBit g = false) : s.groupOff core g =
    match (s.onCore core).find? fun t => (t.heldOn core).testBit g with
    | some t => (s.setReg64 (coreCtl core + 0x40) (s.reg64 (coreCtl core + 0x40) ||| BitVec.ofNat 64 (2 ^ (8 + g)))).updateAt t.place
        Strand.askRegrant
    | none => (s.setReg64 (coreCtl core + 0x40)
        (s.reg64 (coreCtl core + 0x40) &&& ~~~(BitVec.ofNat 64 (2 ^ g + 2 ^ (8 + g))))).zeroGroup core g :=
  if_neg fun ha => by
    obtain ⟨u, hu, hb⟩ := List.any_eq_true.mp ha
    rw [h u hu] at hb
    exact Bool.false_ne_true hb

theorem State.groupOff_held (h : ∀ u ∈ s.onCore core, (u.homeOn core).testBit g = false) {t : Strand}
    (ht : ((s.onCore core).find? fun t => (t.heldOn core).testBit g) = some t) : s.groupOff core g =
      (s.setReg64 (coreCtl core + 0x40) (s.reg64 (coreCtl core + 0x40) ||| BitVec.ofNat 64 (2 ^ (8 + g)))).updateAt t.place Strand.askRegrant := by
  rw [State.groupOff_not_home h, ht]

theorem State.groupOff_free (h : ∀ u ∈ s.onCore core, (u.homeOn core).testBit g = false)
    (hn : ((s.onCore core).find? fun t => (t.heldOn core).testBit g) = none) : s.groupOff core g =
      (s.setReg64 (coreCtl core + 0x40) (s.reg64 (coreCtl core + 0x40) &&& ~~~(BitVec.ofNat 64 (2 ^ g + 2 ^ (8 + g))))).zeroGroup core g := by
  rw [State.groupOff_not_home h, hn]

/-- What `groupOff` can do. -/
theorem State.groupOff_cases (s : State) (core g : Nat) : s.groupOff core g = s ∨
    (∃ place, s.groupOff core g =
      (s.setReg64 (coreCtl core + 0x40) (s.reg64 (coreCtl core + 0x40) ||| BitVec.ofNat 64 (2 ^ (8 + g)))).updateAt place Strand.askRegrant) ∨
    s.groupOff core g =
      (s.setReg64 (coreCtl core + 0x40) (s.reg64 (coreCtl core + 0x40) &&& ~~~(BitVec.ofNat 64 (2 ^ g + 2 ^ (8 + g))))).zeroGroup core g := by
  by_cases hh : ∃ u ∈ s.onCore core, (u.homeOn core).testBit g = true
  · exact .inl (State.groupOff_home hh)
  · have hn : ∀ u ∈ s.onCore core, (u.homeOn core).testBit g = false := fun u hu => Bool.eq_false_of_not_eq_true fun hb => hh ⟨u, hu, hb⟩
    cases hf : (s.onCore core).find? fun t => (t.heldOn core).testBit g with
    | some t => exact .inr (.inl ⟨t.place, State.groupOff_held hn hf⟩)
    | none => exact .inr (.inr (State.groupOff_free hn hf))

theorem LgenFrame.groupOff (s : State) (core g : Nat) : LgenFrame (coreCtl core + 0x40) s (s.groupOff core g) := by
  rcases State.groupOff_cases s core g with e | ⟨place, e⟩ | e <;> rw [e]
  · exact .refl _ s
  · exact ((refl _ s).setReg64 _).askAt place
  · exact ((refl _ s).setReg64 _).zeroGroup core g

theorem LgenFrame.writeGroup (core : Nat) (v : Word) (s : State) (g : Nat) : LgenFrame (coreCtl core + 0x40) s (s.writeGroup core v g) :=
  .ite ((LgenFrame.ite (.refl _ s) ((refl _ s).zeroGroup core g)).setReg64 _) (.ite (.groupOff s core g) (.refl _ s))

end

/-! ## What the write of an EN bit does -/

section
variable {s : State} {core g : Nat} {v : Word}

theorem State.writeGroup_on (hv : v.getLsbD g = true) : s.writeGroup core v g =
    (if (s.reg64 (coreCtl core + 0x40)).getLsbD g then s else s.zeroGroup core g).setReg64 (coreCtl core + 0x40)
      ((s.reg64 (coreCtl core + 0x40) ||| BitVec.ofNat 64 (2 ^ g)) &&& ~~~(BitVec.ofNat 64 (2 ^ (8 + g)))) := if_pos hv

theorem State.writeGroup_off (hv : v.getLsbD g = false) :
    s.writeGroup core v g = if (s.reg64 (coreCtl core + 0x40)).getLsbD g then s.groupOff core g else s := if_neg (by simp [hv])

/-- Bits outside the written group's two are as before. -/
theorem State.writeGroup_bit (hg : g < 8) {i : Nat} (hi : i ≠ g) (hi' : i ≠ 8 + g) :
    ((s.writeGroup core v g).reg64 (coreCtl core + 0x40)).getLsbD i = (s.reg64 (coreCtl core + 0x40)).getLsbD i := by
  have h64 : g < 64 := by omega
  have h64' : 8 + g < 64 := by omega
  cases hv : v.getLsbD g with
  | true =>
    rw [State.writeGroup_on hv, State.reg64_setReg64_self, getLsbD_clear_two_pow _ h64', getLsbD_or_two_pow _ h64]
    simp [hi, hi']
  | false =>
    rw [State.writeGroup_off hv]
    split
    · rcases State.groupOff_cases s core g with e | ⟨place, e⟩ | e <;> rw [e]
      · rw [State.reg64_updateAt, State.reg64_setReg64_self, getLsbD_or_two_pow _ h64']
        simp [hi']
      · rw [State.reg64_zeroGroup, State.reg64_setReg64_self, clear_group _ hg, getLsbD_clear_two_pow _ h64', getLsbD_clear_two_pow _ h64]
        simp [hi, hi']
    · rfl

theorem KeepsGroup.writeGroup (hg : g < 8) {g' : Nat} (hg' : g' < 8) (h : g ≠ g') :
    KeepsGroup (coreCtl core + 0x40) g s (s.writeGroup core v g') :=
  ⟨State.writeGroup_bit hg' h (by omega), State.writeGroup_bit hg' (by omega) (by omega)⟩

/-- A 1 written: the group is on, with no power-off pending, and empty when it was off. -/
theorem State.writeGroup_powersOn (hg : g < 8) (hv : v.getLsbD g = true) :
    ((s.writeGroup core v g).reg64 (coreCtl core + 0x40)).getLsbD g = true ∧
      ((s.writeGroup core v g).reg64 (coreCtl core + 0x40)).getLsbD (8 + g) = false ∧
      ((s.reg64 (coreCtl core + 0x40)).getLsbD g = false →
        ∀ o < 0x8000, ∀ c ∈ (s.writeGroup core v g).mem, c.1 ≠ laneKey core (g * 0x8000) + o) := by
  have h64 : g < 64 := by omega
  have h64' : 8 + g < 64 := by omega
  rw [State.writeGroup_on hv, State.reg64_setReg64_self]
  refine ⟨?_, ?_, fun hoff o ho => ?_⟩
  · rw [getLsbD_clear_two_pow _ h64', getLsbD_or_two_pow _ h64]
    simp
  · rw [getLsbD_clear_two_pow _ h64']
    simp
  · rw [hoff, if_neg Bool.false_ne_true]
    exact State.not_mem_zeroGroup ho

theorem State.writeGroup_stays_off (hv : v.getLsbD g = false) (hoff : (s.reg64 (coreCtl core + 0x40)).getLsbD g = false) :
    s.writeGroup core v g = s := by
  rw [State.writeGroup_off hv, hoff, if_neg Bool.false_ne_true]

section
variable (hv : v.getLsbD g = false) (hon : (s.reg64 (coreCtl core + 0x40)).getLsbD g = true)
include hv hon

theorem State.writeGroup_groupOff : s.writeGroup core v g = s.groupOff core g := by rw [State.writeGroup_off hv, if_pos hon]

theorem State.writeGroup_home (h : ∃ u ∈ s.onCore core, (u.homeOn core).testBit g = true) : s.writeGroup core v g = s := by
  rw [State.writeGroup_groupOff hv hon, State.groupOff_home h]

/-- A 0 written to a group held beyond a home set: its power-off is pending and its holder asked. -/
theorem State.writeGroup_held (hg : g < 8) (h : ∀ u ∈ s.onCore core, (u.homeOn core).testBit g = false) {t : Strand}
    (ht : ((s.onCore core).find? fun t => (t.heldOn core).testBit g) = some t) :
    ((s.writeGroup core v g).reg64 (coreCtl core + 0x40)).getLsbD g = true ∧
      ((s.writeGroup core v g).reg64 (coreCtl core + 0x40)).getLsbD (8 + g) = true ∧
      ((s.writeGroup core v g).strandAt t.place).map (·.st.rgp) = some true := by
  have h64' : 8 + g < 64 := by omega
  rw [State.writeGroup_groupOff hv hon, State.groupOff_held h ht, State.reg64_updateAt, State.reg64_setReg64_self]
  refine ⟨?_, ?_, State.rgp_updateAt_askRegrant (core := core) ?_⟩
  · rw [getLsbD_or_two_pow _ h64', hon, Bool.true_or]
  · rw [getLsbD_or_two_pow _ h64', decide_eq_true rfl, Bool.or_true]
  · rw [State.onCore_setReg64]
    exact List.mem_of_find?_eq_some ht

/-- A 0 written to a group that no strand holds: it is off and empty. -/
theorem State.writeGroup_free (hg : g < 8) (h : ∀ u ∈ s.onCore core, (u.homeOn core).testBit g = false)
    (hn : ((s.onCore core).find? fun t => (t.heldOn core).testBit g) = none) :
    ((s.writeGroup core v g).reg64 (coreCtl core + 0x40)).getLsbD g = false ∧
      ((s.writeGroup core v g).reg64 (coreCtl core + 0x40)).getLsbD (8 + g) = false ∧
      ∀ o < 0x8000, ∀ c ∈ (s.writeGroup core v g).mem, c.1 ≠ laneKey core (g * 0x8000) + o := by
  have h64 : g < 64 := by omega
  have h64' : 8 + g < 64 := by omega
  rw [State.writeGroup_groupOff hv hon, State.groupOff_free h hn, State.reg64_zeroGroup, State.reg64_setReg64_self, clear_group _ hg]
  refine ⟨?_, ?_, fun o ho => State.not_mem_zeroGroup ho⟩
  · rw [getLsbD_clear_two_pow _ h64', getLsbD_clear_two_pow _ h64]
    simp
  · rw [getLsbD_clear_two_pow _ h64']
    simp

end
end

/-! ## The whole write -/

theorem exec_lgenWrite {core : Nat} (hc : core < 256) (v : Word) (s : State) : exec (.lgenWrite core v) s = .next (s.writeLgen core v) := by
  change Host.Outcome.next _ = _
  rw [if_pos hc]

theorem exec_lgenWrite_of_le {core : Nat} (hc : 256 ≤ core) (v : Word) (s : State) : exec (.lgenWrite core v) s = .next s := by
  change Host.Outcome.next _ = _
  rw [if_neg (Nat.not_lt.mpr hc)]

theorem LgenFrame.foldl (core : Nat) (v : Word) (s : State) (l : List Nat) :
    LgenFrame (coreCtl core + 0x40) s (l.foldl (State.writeGroup core v) s) := by
  induction l generalizing s with
  | nil => exact .refl _ s
  | cons g l ih => exact (LgenFrame.writeGroup core v s g).trans (ih _)

theorem KeepsGroup.foldl {g : Nat} (hg : g < 8) (core : Nat) (v : Word) (s : State) {l : List Nat} (hl : ∀ g' ∈ l, g' < 8 ∧ g ≠ g') :
    KeepsGroup (coreCtl core + 0x40) g s (l.foldl (State.writeGroup core v) s) := by
  induction l generalizing s with
  | nil => exact ⟨rfl, rfl⟩
  | cons g' l ih =>
    obtain ⟨hg', hne⟩ := hl g' List.mem_cons_self
    exact (KeepsGroup.writeGroup hg hg' hne).trans (ih _ fun k hk => hl k (List.mem_cons_of_mem _ hk))

/-- For one group the whole write is the write of its own EN bit: what comes before and after keeps the group's bits. -/
theorem State.writeLgen_at (s : State) (core : Nat) (v : Word) {g : Nat} (hg : g < 8) : ∃ x,
    (LgenFrame (coreCtl core + 0x40) s x ∧ KeepsGroup (coreCtl core + 0x40) g s x) ∧
    (LgenFrame (coreCtl core + 0x40) (x.writeGroup core v g) (s.writeLgen core v) ∧
      KeepsGroup (coreCtl core + 0x40) g (x.writeGroup core v g) (s.writeLgen core v)) := by
  obtain ⟨pre, post, hsplit⟩ := List.append_of_mem (List.mem_range.mpr hg)
  have hnodup : g ∉ pre ++ post := by
    have h := List.nodup_range (n := 8)
    rw [hsplit, List.nodup_middle, List.nodup_cons] at h
    exact h.1
  have hother : ∀ g' ∈ pre ++ post, g' < 8 ∧ g ≠ g' := fun g' hm =>
    ⟨List.mem_range.mp (hsplit ▸ List.mem_append.mpr ((List.mem_append.mp hm).imp_right (List.mem_cons_of_mem g))), fun e => hnodup (e ▸ hm)⟩
  have hpre : ∀ g' ∈ pre, g' < 8 ∧ g ≠ g' := fun g' hm => hother g' (List.mem_append_left _ hm)
  have hpost : ∀ g' ∈ post, g' < 8 ∧ g ≠ g' := fun g' hm => hother g' (List.mem_append_right _ hm)
  refine ⟨pre.foldl (State.writeGroup core v) s, ⟨.foldl core v s pre, .foldl hg core v s hpre⟩, ?_⟩
  rw [State.writeLgen_eq, hsplit, List.foldl_append, List.foldl_cons]
  exact ⟨.foldl core v _ post, .foldl hg core v _ hpost⟩

theorem LgenFrame.writeLgen (s : State) (core : Nat) (v : Word) : LgenFrame (coreCtl core + 0x40) s (s.writeLgen core v) :=
  .foldl core v s (List.range 8)

section
variable {core g : Nat} {v : Word} {s : State} (hg : g < 8)
include hg

theorem State.writeLgen_powersOn (hv : v.getLsbD g = true) :
    ((s.writeLgen core v).reg64 (coreCtl core + 0x40)).getLsbD g = true ∧
      ((s.writeLgen core v).reg64 (coreCtl core + 0x40)).getLsbD (8 + g) = false ∧
      ((s.reg64 (coreCtl core + 0x40)).getLsbD g = false →
        ∀ o < 0x8000, Mem.read (s.writeLgen core v).mem (laneKey core (g * 0x8000) + o) = Mem.unlisted) := by
  obtain ⟨x, ⟨-, hen, -⟩, hlater, hen', hpend'⟩ := s.writeLgen_at core v hg
  obtain ⟨hon, hpend, hempty⟩ := State.writeGroup_powersOn (s := x) (core := core) hg hv
  exact ⟨hen'.trans hon, hpend'.trans hpend, fun hoff o ho => hlater.read (hempty (hen.trans hoff) o ho)⟩

section
variable (hv : v.getLsbD g = false)
include hv

theorem State.writeLgen_stays_off (hoff : (s.reg64 (coreCtl core + 0x40)).getLsbD g = false) :
    ((s.writeLgen core v).reg64 (coreCtl core + 0x40)).getLsbD g = false ∧
      ((s.writeLgen core v).reg64 (coreCtl core + 0x40)).getLsbD (8 + g) = (s.reg64 (coreCtl core + 0x40)).getLsbD (8 + g) := by
  obtain ⟨x, ⟨-, hen, hpend⟩, -, hen', hpend'⟩ := s.writeLgen_at core v hg
  rw [State.writeGroup_stays_off hv (hen.trans hoff)] at hen' hpend'
  exact ⟨hen'.trans (hen.trans hoff), hpend'.trans hpend⟩

variable (hon : (s.reg64 (coreCtl core + 0x40)).getLsbD g = true)
include hon

theorem State.writeLgen_home (h : ∃ u ∈ s.onCore core, (u.homeOn core).testBit g = true) :
    ((s.writeLgen core v).reg64 (coreCtl core + 0x40)).getLsbD g = true ∧
      ((s.writeLgen core v).reg64 (coreCtl core + 0x40)).getLsbD (8 + g) = (s.reg64 (coreCtl core + 0x40)).getLsbD (8 + g) := by
  obtain ⟨x, ⟨hx, hen, hpend⟩, -, hen', hpend'⟩ := s.writeLgen_at core v hg
  rw [State.writeGroup_home hv (hen.trans hon) (hx.some_home h)] at hen' hpend'
  exact ⟨hen'.trans (hen.trans hon), hpend'.trans hpend⟩

variable (hhome : ∀ u ∈ s.onCore core, (u.homeOn core).testBit g = false)
include hhome

theorem State.writeLgen_held {u : Strand} (hu : ((s.onCore core).find? fun x => (x.heldOn core).testBit g) = some u) :
    ((s.writeLgen core v).reg64 (coreCtl core + 0x40)).getLsbD g = true ∧
      ((s.writeLgen core v).reg64 (coreCtl core + 0x40)).getLsbD (8 + g) = true ∧
      ((s.writeLgen core v).strandAt u.place).map (·.st.rgp) = some true := by
  obtain ⟨x, ⟨hx, hen, -⟩, hlater, hen', hpend'⟩ := s.writeLgen_at core v hg
  obtain ⟨f, hf, hheld⟩ := hx.find_held core g
  obtain ⟨ha, hb, hc⟩ := State.writeGroup_held hv (hen.trans hon) hg (hx.no_home hhome) (t := f u) (by rw [hheld, hu]; rfl)
  rw [hf.place] at hc
  exact ⟨hen'.trans ha, hpend'.trans hb, hlater.rgp hc⟩

theorem State.writeLgen_free (hheld : ∀ u ∈ s.onCore core, (u.heldOn core).testBit g = false) :
    ((s.writeLgen core v).reg64 (coreCtl core + 0x40)).getLsbD g = false ∧
      ((s.writeLgen core v).reg64 (coreCtl core + 0x40)).getLsbD (8 + g) = false ∧
      ∀ o < 0x8000, Mem.read (s.writeLgen core v).mem (laneKey core (g * 0x8000) + o) = Mem.unlisted := by
  obtain ⟨x, ⟨hx, hen, -⟩, hlater, hen', hpend'⟩ := s.writeLgen_at core v hg
  obtain ⟨f, -, hfind⟩ := hx.find_held core g
  have hnone : ((s.onCore core).find? fun t => (t.heldOn core).testBit g) = none :=
    List.find?_eq_none.mpr fun u hu hb => Bool.false_ne_true ((hheld u hu).symm.trans hb)
  obtain ⟨ha, hb, hc⟩ := State.writeGroup_free hv (hen.trans hon) hg (hx.no_home hhome) (by rw [hfind, hnone]; rfl)
  exact ⟨hen'.trans ha, hpend'.trans hb, fun o ho => hlater.read (hc o ho)⟩

end
end

end Sys2Proof.Machine
end

section
/-! The writes of O57, assembled. -/

namespace Sys2Proof.Machine

/-- A write to LGEN of a core that exists, clause by clause. -/
theorem lgen_written {core : Nat} (hc : core < 256) (v : Word) (s : State) : let a := coreCtl core + 0x40
    ∃ t, exec (.lgenWrite core v) s = .next t ∧ (∀ b, b ≠ a → t.reg64 b = s.reg64 b) ∧ t.strand.sregs = s.strand.sregs ∧
      t.strand.ctl = s.strand.ctl ∧
      (∀ g < 8, v.getLsbD g = true → (t.reg64 a).getLsbD g = true ∧ (t.reg64 a).getLsbD (8 + g) = false ∧
        ((s.reg64 a).getLsbD g = false → ∀ o < 0x8000, Mem.read t.mem (laneKey core (g * 0x8000) + o) = Mem.unlisted)) ∧
      (∀ g < 8, v.getLsbD g = false → (s.reg64 a).getLsbD g = false →
        (t.reg64 a).getLsbD g = false ∧ (t.reg64 a).getLsbD (8 + g) = (s.reg64 a).getLsbD (8 + g)) ∧
      (∀ g < 8, v.getLsbD g = false → (s.reg64 a).getLsbD g = true →
        ((∃ u ∈ s.onCore core, (u.homeOn core).testBit g = true) →
          (t.reg64 a).getLsbD g = true ∧ (t.reg64 a).getLsbD (8 + g) = (s.reg64 a).getLsbD (8 + g)) ∧
        ((∀ u ∈ s.onCore core, (u.homeOn core).testBit g = false) →
          ∀ u, ((s.onCore core).find? fun x => (x.heldOn core).testBit g) = some u →
          (t.reg64 a).getLsbD g = true ∧ (t.reg64 a).getLsbD (8 + g) = true ∧ (t.strandAt u.place).map (·.st.rgp) = some true) ∧
        ((∀ u ∈ s.onCore core, (u.homeOn core).testBit g = false ∧ (u.heldOn core).testBit g = false) → (t.reg64 a).getLsbD g = false ∧
          (t.reg64 a).getLsbD (8 + g) = false ∧ ∀ o < 0x8000, Mem.read t.mem (laneKey core (g * 0x8000) + o) = Mem.unlisted)) := by
  intro a
  have hframe := LgenFrame.writeLgen s core v
  refine ⟨s.writeLgen core v, exec_lgenWrite hc v s, hframe.dev, hframe.strand.1, hframe.strand.2, fun g hg hv => State.writeLgen_powersOn hg hv,
    fun g hg hv hoff => State.writeLgen_stays_off hg hv hoff,
    fun g hg hv hon => ⟨State.writeLgen_home hg hv hon, fun hhome u hu => ?_, fun h => ?_⟩⟩
  · exact State.writeLgen_held hg hv hon hhome hu
  · exact State.writeLgen_free hg hv hon (fun u hu => (h u hu).1) fun u hu => (h u hu).2

end Sys2Proof.Machine
end

section
open Sys2Proof Sys2Proof.Machine Sys2Proof.Claims

/-- Settles O57: one lemma for each register, `exec` being the model's function for the write. -/
theorem registerWritesComplete : Obligations.RegisterWritesComplete :=
  ⟨fun _ v s => ⟨fun hc => exec_lgenWrite_of_le hc v s, fun hc => lgen_written hc v s⟩,
    translations_written,
    fun _ v s hk => srtBase_written hk v s,
    fun _ v s hr => ⟨exec_fqHeadWrite hr s v, fun hposted => ⟨fqHead_written hr s hposted v, fqBase_written hr s hposted⟩⟩,
    fun _ _ v s hp hk => ⟨plainRegs_written hp hk s v, gerr_written hp s v, pcmd_begins hp s v, pcmd_joinsResize hp s v, fwcmd_begins s v,
      fact_without_action hp s v, fun _ hm => registerWrite_nowhere v s hm⟩⟩

end

section
/-! The scalar window (R27): where a field's register stands. -/

namespace Sys2Proof.Machine

theorem physReg_low {w : Nat} {f : BitVec 7} (h : f.toNat < 16) : (physReg w f).val = f.toNat := by
  simp only [physReg, h, if_true]
  omega

theorem physReg_window {w : Nat} {f : BitVec 7} (h : 16 ≤ f.toNat) : (physReg w f).val = 16 + (f.toNat - 16 + 16 * w) % 240 := by
  simp only [physReg, Nat.not_lt.mpr h, if_false]
  omega

/-- A field other than 0 reads the register at its physical position. -/
theorem Strand.reg_eq_getD {t : Strand} {f : BitVec 7} (h : f ≠ 0) : t.reg f = t.sregs.getD (physReg t.ctl.winb.val.toNat f).val .zero := by
  rw [Strand.reg, if_neg h]
  simp [Vector.getD, Array.getD]

theorem field_ne_zero {f : BitVec 7} (h : 1 ≤ f.toNat) : f ≠ 0 := fun e => by simp [e] at h

end Sys2Proof.Machine
end

section
open Sys2Proof Sys2Proof.Machine

/-- Settles O8: the reset state's memory is empty, and its control registers stand at their launch values. -/
theorem resetIsCanonical : Obligations.ResetIsCanonical :=
  ⟨Memory.wf_reset, rfl, rfl, by decide⟩

/-- Settles O10: a field's register is the one at its physical position, and `physReg` is injective. -/
theorem scalarFieldsNameRegisters : Obligations.ScalarFieldsNameRegisters := by
  intro t f d v
  refine ⟨fun h => ?_, fun h1 h => ?_, fun h => ?_, fun h => ?_, fun h => Strand.reg_setReg_of_ne t v h⟩
  · subst h
    exact ⟨t.reg_zero, t.setReg_zero v⟩
  · rw [Strand.reg_eq_getD (field_ne_zero h1), physReg_low h]
  · rw [Strand.reg_eq_getD (field_ne_zero (Nat.le_trans (by omega) h)), physReg_window h]
  · rw [Strand.reg_setReg_self, if_neg h]

end

section
/-! Control flow (R26, R120 to R123): jumps, and a turn of LOOPR's loop. -/

namespace Sys2Proof.Machine
open Sys2Proof.Claims

variable {s : State}

/-- Deciding operands that do not trap let the instruction go on (R101). -/
theorem decide_passes {b : Bool} (h : ¬ (TrapsOnTarnish s ∧ b = true)) : decide_ b s = .ok () s := by
  have hf : ¬ ((b && s.strand.st.d && s.strand.trapPolicy) = true) := by
    simp only [Bool.and_eq_true]
    exact fun ⟨⟨hb, hd⟩, hp⟩ => h ⟨⟨hd, hp⟩, hb⟩
  rw [decide_, M.bind_ok (M.getS_run s), if_neg hf, M.pure_run]

/-- A relative target: the pc plus four times the signed offset, mod 2^52 (R120, R122). -/
theorem relative_target (pc : Addr) {n : Nat} (off : BitVec n) (hn : n ≤ 52) :
    pc + (off.signExtend 52 <<< 2) = BitVec.ofInt 52 (pc.toNat + off.toInt * 4) := by
  have hoff : off.signExtend 52 = BitVec.ofInt 52 off.toInt := by rw [← BitVec.toInt_signExtend_of_le hn, BitVec.ofInt_toInt]
  have hpc : BitVec.ofInt 52 pc.toNat = pc := by rw [BitVec.ofInt_natCast, BitVec.ofNat_toNat, BitVec.setWidth_eq]
  rw [BitVec.ofInt_add, BitVec.ofInt_mul, hpc, hoff, BitVec.shiftLeft_eq_mul_twoPow]
  rfl

theorem relative12_target (s : State) (off : BitVec 12) : relative12 s.strand.pc off = target s off.toInt := relative_target _ off (by decide)

theorem relative26_target (s : State) (off : BitVec 26) : relative26 s.strand.pc off = target s off.toInt := relative_target _ off (by decide)

theorem exec_j (off : BitVec 26) (s : State) : exec (.j off) s = .next (goesTo s (target s off.toInt)) := by
  rw [← relative26_target]
  rfl

/-- A write of a register and a jump touch different fields. -/
theorem Strand.setReg_jump (t : Strand) (d : BitVec 7) (v : TWord) (a : Addr) : (t.jump a).setReg d v = (t.setReg d v).jump a := by
  by_cases h : d = 0
  · simp [h]
  · simp only [Strand.setReg, h, if_false]
    rfl

theorem exec_call (off : BitVec 26) (s : State) : exec (.call off) s = .next ((goesTo s (target s off.toInt)).mapStrand fun u =>
    u.setReg 1 { val := (s.strand.pc + 4).setWidth 64, tarn := false }) := by
  rw [← relative26_target]
  simp only [goesTo, State.mapStrand, Strand.setReg_jump]
  rfl

/-- The target of JR: base plus immediate, mod 2^52 (R123). -/
theorem jr_target (x : Word) (imm : BitVec 12) : (x + simm imm).setWidth 52 = (BitVec.ofInt 52 (x.toNat + imm.toInt) : Addr) := by
  have hx : x + simm imm = BitVec.ofInt 64 (x.toNat + imm.toInt) := by
    rw [BitVec.ofInt_add, simm, BitVec.signExtend, BitVec.ofInt_natCast, BitVec.ofNat_toNat, BitVec.setWidth_eq]
  rw [hx]
  refine BitVec.eq_of_toNat_eq ?_
  simp only [BitVec.toNat_setWidth, BitVec.toNat_ofInt]
  omega

section
variable {d a : BitVec 7} {imm : BitVec 12} {dest : Addr}

/-- JR with a word-aligned target links and jumps (R123). -/
theorem jumpRegister_aligned (h : ¬ (TrapsOnTarnish s ∧ tarn1 s a = true)) (ht : (val s a + simm imm).setWidth 52 = dest)
    (ha : dest.extractLsb' 0 2 = 0) :
    jumpRegister d a imm s = .ok () (s.mapStrand fun u => (u.setReg d (.of ((u.pc + 4).setWidth 64))).jump dest) := by
  have hp : decide_ (s.strand.reg a).tarn s = .ok () s := decide_passes h
  simp only [val] at ht
  rw [jumpRegister, M.bind_ok (M.getS_run s), M.bind_ok hp]
  simp only [ht, ha, ne_eq, not_true_eq_false, if_false, M.modS_run]

/-- JR with a misaligned target takes MISALIGNED_FETCH before any effect (R26, R123). -/
theorem jumpRegister_misaligned (h : ¬ (TrapsOnTarnish s ∧ tarn1 s a = true)) (ht : (val s a + simm imm).setWidth 52 = dest)
    (ha : dest.extractLsb' 0 2 ≠ 0) :
    jumpRegister d a imm s = .error (.trap { plainTrap 0x04 (dest.setWidth 64) with acc := 3 }) s := by
  have hp : decide_ (s.strand.reg a).tarn s = .ok () s := decide_passes h
  simp only [val] at ht
  rw [jumpRegister, M.bind_ok (M.getS_run s), M.bind_ok hp]
  simp only [ht, ha, ne_eq, not_false_eq_true, if_true]
  exact M.bind_error (M.raise_run _ s)

end

end Sys2Proof.Machine
end

section
open Sys2Proof Sys2Proof.Machine Sys2Proof.Claims

/-- Settles O24: jumps are one update of the strand, and JR is its checks in order. -/
theorem jumpsComplete : Obligations.JumpsComplete := by
  refine ⟨fun off s => ⟨exec_j off s, exec_call off s⟩, fun d a imm s h => ?_⟩
  constructor
  · intro hd
    refine (runM_ok (jumpRegister_aligned h (jr_target _ _) hd)).trans (congrArg Host.Outcome.next ?_)
    simp only [goesTo, State.mapStrand, Strand.setReg_jump, TWord.of]
  · intro hd
    exact runM_trap (jumpRegister_misaligned h (jr_target _ _) hd)

end

section
/-! A turn of LOOPR's loop (R30, R121): the registers and masks that it writes, the masks it tests, and where it goes. -/

namespace Sys2Proof.Machine
open Sys2Proof.Claims

variable {s : State}

/-- The lowest field of a register written, as a number. -/
theorem setBits_zero (w : Word) {n : Nat} (v : Nat) (hn : n ≤ 64) :
    setBits w 0 n v = BitVec.ofNat 64 (w.toNat / 2 ^ n * 2 ^ n + v % 2 ^ n) := by
  refine BitVec.eq_of_getLsbD_eq fun i hi => ?_
  rw [getLsbD_setBits w v i (by omega), BitVec.getLsbD_ofNat, Nat.mul_comm, Nat.testBit_two_pow_mul_add _ (Nat.mod_lt _ (Nat.two_pow_pos n))]
  by_cases h : i < n
  · simp [h, hi, Nat.testBit_mod_two_pow]
  · rw [if_neg (by omega), if_neg h, Nat.testBit_div_two_pow, Nat.sub_add_cancel (Nat.le_of_not_lt h), BitVec.testBit_toNat]
    simp [hi]

theorem depth_le (s : State) : depth s ≤ 7 := Nat.le_of_lt_succ (Nat.mod_lt _ (by decide))

/-! ## The masks after a turn -/

section
variable {m : Vector KMask 16} {w j : Nat} {first : KMask}

theorem shiftMasks_getD_first : (shiftMasks m w first).getD 8 .zero = first := by
  simp [shiftMasks, Vector.getD, Array.getD]

theorem shiftMasks_getD_window (h9 : 9 ≤ j) (hj : j ≤ 8 + w) (h16 : j < 16) :
    (shiftMasks m w first).getD j .zero = m.getD (j - 1) .zero := by
  have h8 : j ≠ 8 := by omega
  have hin : 8 < j ∧ j ≤ 8 + w := by omega
  simp [shiftMasks, Vector.getD, Array.getD, h8, hin, h16]

theorem shiftMasks_getD_outside (h : j < 8 ∨ 8 + w < j) : (shiftMasks m w first).getD j .zero = m.getD j .zero := by
  have h8 : j ≠ 8 := by omega
  have hout : ¬ (8 < j ∧ j ≤ 8 + w) := by omega
  simp [shiftMasks, Vector.getD, Array.getD, h8, hout]

end

/-! ## The strand after a turn -/

section
variable {t : Strand} {j : Nat}

theorem Strand.loopTurn_laps (t : Strand) : t.loopTurn.ctl.laps =
    { t.ctl.laps with val := setBits t.ctl.laps.val 0 32 (getBits t.ctl.laps.val 0 32 - 1) } := Ctl.seen_laps _ _

theorem Strand.loopTurn_ring (t : Strand) : t.loopTurn.ctl.ring =
    { t.ctl.ring with val := setBits t.ctl.ring.val 0 6 (t.turn + 1) } := Ctl.seen_ring _ _

theorem Strand.loopTurn_sregs (t : Strand) : t.loopTurn.sregs = t.sregs := by simp only [Strand.loopTurn]

theorem Strand.loopTurn_purses (t : Strand) : t.loopTurn.purses = t.purses := by simp only [Strand.loopTurn]

theorem Strand.loopTurn_flags (t : Strand) : t.loopTurn.ctl.flags = t.ctl.flags := Ctl.seen_flags _ _

theorem Strand.mask_of_ne_zero {t : Strand} {j : Nat} (h : j ≠ 0) : t.mask j = t.masks.getD j .zero := if_neg h

theorem Strand.loopTurn_masks (t : Strand) : t.loopTurn.masks =
    shiftMasks t.masks t.depth (if 1 < getBits t.ctl.laps.val 0 32 then .ones else .zero) := rfl

theorem Strand.mask_jump (t : Strand) (a : Addr) (j : Nat) : (t.jump a).mask j = t.mask j := rfl

theorem Strand.mask_loopTurn_first (t : Strand) : t.loopTurn.mask 8 = if 1 < getBits t.ctl.laps.val 0 32 then .ones else .zero := by
  rw [Strand.mask_of_ne_zero (by decide), Strand.loopTurn_masks, shiftMasks_getD_first]

theorem Strand.mask_loopTurn_window (h9 : 9 ≤ j) (hj : j ≤ 8 + t.depth) (h16 : j < 16) : t.loopTurn.mask j = t.mask (j - 1) := by
  rw [Strand.mask_of_ne_zero (by omega), Strand.mask_of_ne_zero (by omega), Strand.loopTurn_masks, shiftMasks_getD_window h9 hj h16]

theorem Strand.mask_loopTurn_outside (h : j < 8 ∨ 8 + t.depth < j) : t.loopTurn.mask j = t.mask j := by
  by_cases h0 : j = 0
  · rw [h0, Strand.mask_zero, Strand.mask_zero]
  · rw [Strand.mask_of_ne_zero h0, Strand.mask_of_ne_zero h0, Strand.loopTurn_masks, shiftMasks_getD_outside h]

theorem Strand.windowAny_iff {w : Nat} : t.windowAny w = true ↔ ∃ j, j ≤ w ∧ (t.mask (8 + j)).bits ≠ 0 := by
  simp only [Strand.windowAny, List.any_eq_true, List.mem_range, Nat.lt_succ_iff, decide_eq_true_eq]

end

/-- A turn of the loop whose deciding operands do not trap. -/
theorem exec_loopr {off : BitVec 12} (h : ¬ (TrapsOnTarnish s ∧ loopTarn s = true)) : exec (.loopr off) s =
    .next (s.mapStrand fun u => u.loopTurn.jump (if u.loopTurn.windowAny u.depth then relative12 u.pc off else u.pc + 4)) := by
  have hp : decide_ (s.strand.ctl.laps.tarn || s.windowTarn s.strand.depth) s = .ok () s := decide_passes h
  refine runM_ok ?_
  rw [loopStep, M.bind_ok (M.getS_run s), M.bind_ok (M.get_run s), M.bind_ok hp, M.modS_run]
  rfl

end Sys2Proof.Machine
end

section
open Sys2Proof Sys2Proof.Machine Sys2Proof.Claims

/-- Settles O23: one turn is one update of the strand, read field by field. -/
theorem loopCompletes : Obligations.LoopCompletes := by
  intro off s h
  refine ⟨_, exec_loopr h, ?_⟩
  simp only [State.mapStrand_strand, State.mapStrand_mem, Strand.jump_ctl, Strand.jump_pc, Strand.jump_sregs, Strand.jump_purses, Strand.mask_jump,
    Strand.loopTurn_laps, Strand.loopTurn_ring, Strand.loopTurn_flags, Strand.loopTurn_sregs,
    Strand.loopTurn_purses, Strand.mask_loopTurn_first, relative12_target, Strand.windowAny_iff]
  have hw : s.strand.depth = depth s := rfl
  have hd := depth_le s
  have hrem : getBits s.strand.ctl.laps.val 0 32 = rem s := getBits_zero _ _
  have hlt : rem s < 2 ^ 32 := Nat.mod_lt _ (by decide)
  refine ⟨?_, ?_, trivial, trivial, by rw [hrem], fun j h9 hj => ?_, fun j hj => ?_, ?_, trivial, trivial, trivial, trivial⟩
  · rw [setBits_zero _ _ (by decide), hrem, Nat.mod_eq_of_lt (by omega)]
  · rw [setBits_zero _ _ (by decide), Strand.turn, getBits_zero]
    rfl
  · exact Strand.mask_loopTurn_window h9 (hw ▸ hj) (by omega)
  · exact Strand.mask_loopTurn_outside (hw ▸ hj)
  · rw [hw]

end

section
/-! Control registers by number (R33, R131): what is assigned, what a number reads, and what a write of another number leaves. -/

namespace Sys2Proof.Machine
open Sys2Proof.Claims

variable {s : State} {t : Strand} {c : Word} {n k : Nat} {v : TWord}

theorem ctlMask_of_row : ∀ row ∈ crRows, ctlMask row.1 = row.2 := by decide

theorem crRows_number : ∀ row ∈ crRows, (BitVec.ofNat 12 row.1).toNat = row.1 := by decide

/-- The three blocks of eight registers are among the numbers that R33 assigns. -/
theorem crRows_blocks : ∀ i < 8, 0x40 + i ∈ crRows.map (·.1) ∧ 0x80 + i ∈ crRows.map (·.1) ∧ 0x88 + i ∈ crRows.map (·.1) := by decide

theorem Strand.ctlRead_code (h : 0x40 ≤ n ∧ n < 0x48) : t.ctlRead c n = some (t.ctl.codes.getD (n - 0x40) .zero) := by
  unfold Strand.ctlRead
  split
  case h_29 => rw [if_pos h]
  all_goals omega

/-- A number that R33 does not assign reads nothing. -/
theorem Strand.ctlRead_unassigned (h : n ∉ crRows.map (·.1)) : t.ctlRead c n = none := by
  have hblock {base : Nat} (hb : ∀ i < 8, base + i ∈ crRows.map (·.1)) : ¬ (base ≤ n ∧ n < base + 8) := fun ⟨h1, h2⟩ =>
    h (Nat.add_sub_cancel' h1 ▸ hb (n - base) (by omega))
  unfold Strand.ctlRead
  split
  case h_29 =>
    rw [if_neg (hblock fun i hi => (crRows_blocks i hi).1), if_neg (hblock fun i hi => (crRows_blocks i hi).2.1),
      if_neg (hblock fun i hi => (crRows_blocks i hi).2.2)]
  all_goals exact absurd (by decide) h

/-- And one that it assigns a value. -/
theorem Strand.ctlRead_assigned {row : Nat × Word} (h : row ∈ crRows) : ∃ v, t.ctlRead c row.1 = some v := by
  fin_cases h <;> exact ⟨_, rfl⟩

/-- The strand with a control register written (R131). -/
def Strand.putCtl (t : Strand) (n : Nat) (v : TWord) : Strand := { t with ctl := t.ctl.put n v }

theorem Ctl.codes_put (c : Ctl) (h : 0x40 ≤ k ∧ k < 0x48) : c.put k v = { c with codes := c.codes.setIfInBounds (k - 0x40) v } := by
  unfold Ctl.put
  split
  case h_21 => rw [if_pos h]
  all_goals omega

/-- A control register that is written reads back. -/
theorem Strand.ctlRead_putCtl_self (h : ctlMask n ≠ 0) : (t.putCtl n v).ctlRead c n = some v := by
  unfold ctlMask at h
  split at h
  case h_21 =>
    have hn : 0x40 ≤ n ∧ n < 0x48 := by
      by_contra hout
      exact h (if_neg hout)
    have hi : n - 0x40 < 8 := by omega
    rw [Strand.ctlRead_code hn, Strand.putCtl, Ctl.codes_put _ hn]
    simp [Vector.getD, hi]
  all_goals rfl

theorem Strand.ctlRead_codes_of_ne (h : n ≠ k) (hk : 0x40 ≤ k) :
    ({ t with ctl := { t.ctl with codes := t.ctl.codes.setIfInBounds (k - 0x40) v } } : Strand).ctlRead c n = t.ctlRead c n := by
  by_cases hn : 0x40 ≤ n ∧ n < 0x48
  · have hi : k - 0x40 ≠ n - 0x40 := by omega
    rw [Strand.ctlRead_code hn, Strand.ctlRead_code hn]
    simp [Vector.getD, Array.getD_eq_getD_getElem?, hi]
  · unfold Strand.ctlRead
    split
    case h_29 => rw [if_neg hn, if_neg hn]
    all_goals rfl

/-- A write leaves the registers of other numbers as they were. -/
theorem Strand.ctlRead_putCtl_of_ne (h : n ≠ k) : (t.putCtl k v).ctlRead c n = t.ctlRead c n := by
  unfold Strand.putCtl Ctl.put
  split
  case h_21 =>
    split
    · next hk => exact Strand.ctlRead_codes_of_ne h hk.1
    · rfl
  all_goals (unfold Strand.ctlRead; split <;> trivial)

/-- TARN.SEEN is read in TARN alone. -/
theorem Strand.ctlRead_seen (b : Bool) (h : n ≠ 0x032) : (t.seen b).ctlRead c n = t.ctlRead c n := by
  cases b with
  | false => rfl
  | true => unfold Strand.ctlRead; split <;> trivial

theorem Strand.ctlRead_advance : t.advance.ctlRead c n = t.ctlRead c n := rfl

/-! ## Words that trap -/

theorem getLsbD_packI (op : BitVec 6) (d a : BitVec 7) (imm : BitVec 12) : (packI op d a imm).getLsbD 31 = op.getLsbD 5 := by
  simp only [packI, BitVec.getLsbD_append]
  rfl

/-- The illegal-instruction trap of a word whose major lies below 0x20. -/
theorem State.illegal_of_scalar {w : BitVec 32} (h : w.getLsbD 31 = false) :
    s.illegal w = s.takeTrap false s.strand.pc (plainTrap 0x01 (w.setWidth 64)) := by
  rw [State.illegal, h]
  rfl

/-- The word of a scalar instruction, for its illegal-instruction trap. -/
def ScalarWord (i : Instr) : Prop := ∃ w, encode i = some w ∧ w.getLsbD 31 = false

/-- A scalar instruction that takes the illegal-instruction trap, with its word as TADDR (R78). -/
theorem ScalarWord.traps {i : Instr} (h : ScalarWord i) (he : exec i s = .next (s.illegal (wordOf i))) :
    ∃ w, encode i = some w ∧ exec i s = .next (s.takeTrap false s.strand.pc (plainTrap 0x01 (w.setWidth 64))) := by
  obtain ⟨w, hw, h31⟩ := h
  refine ⟨w, hw, ?_⟩
  rw [he, wordOf, hw, Option.getD_some, State.illegal_of_scalar h31]

theorem scalarWord_crd (d : BitVec 7) (imm : BitVec 12) : ScalarWord (.crd d imm) := ⟨_, rfl, getLsbD_packI _ _ _ _⟩

theorem scalarWord_crWrite (a : BitVec 7) (imm : BitVec 12) : ∀ op ∈ crWriteRows, ScalarWord (op.1 a imm) := by
  simp only [crWriteRows, List.forall_mem_cons]
  exact ⟨⟨_, rfl, getLsbD_packI _ _ _ _⟩, ⟨_, rfl, getLsbD_packI _ _ _ _⟩, ⟨_, rfl, getLsbD_packI _ _ _ _⟩, List.forall_mem_nil _⟩

/-! ## CRD, CWR, CSET and CCLR -/

section
variable {imm : BitVec 12} (d a : BitVec 7)

theorem exec_cwr : exec (.cwr a imm) s = execCwr a imm s := rfl
theorem exec_cset : exec (.cset a imm) s = execCset a imm s := rfl
theorem exec_cclr : exec (.cclr a imm) s = execCclr a imm s := rfl

theorem exec_crd_assigned (h : s.strand.ctlRead s.cycle imm.toNat = some v) : exec (.crd d imm) s = .next (wrote s d v.val v.tarn) := by
  change execCrd d imm s = _
  simp only [execCrd, h]
  rfl

theorem exec_crd_unassigned (h : s.strand.ctlRead s.cycle imm.toNat = none) : exec (.crd d imm) s = .next (s.illegal (wordOf (.crd d imm))) := by
  change execCrd d imm s = _
  simp only [execCrd, h]

theorem exec_crWrite_unassigned (h : s.strand.ctlRead s.cycle imm.toNat = none) :
    ∀ op ∈ crWriteRows, exec (op.1 a imm) s = .next (s.illegal (wordOf (op.1 a imm))) := by
  simp only [crWriteRows, List.forall_mem_cons, exec_cwr, exec_cset, exec_cclr, execCwr, execCset, execCclr, h]
  exact ⟨trivial, trivial, trivial, List.forall_mem_nil _⟩

/-- A write gives `ctlWrite` the row's w, with the tarnish of R132. -/
theorem exec_crWrite_assigned (h : s.strand.ctlRead s.cycle imm.toNat = some v) : ∀ op ∈ crWriteRows, exec (op.1 a imm) s =
    .next (s.ctlWrite (wordOf (op.1 a imm)) imm.toNat v.val (op.2.1 v.val (val s a)) (tarn1 s a || (op.2.2 && v.tarn))) := by
  simp only [crWriteRows, List.forall_mem_cons, exec_cwr, exec_cset, exec_cclr, execCwr, execCset, execCclr, h, Bool.false_and, Bool.or_false, Bool.true_and]
  exact ⟨rfl, by rw [Bool.or_comm]; rfl, by rw [Bool.or_comm]; rfl, List.forall_mem_nil _⟩

end

section
variable {word : BitVec 32} {old w : Word} {b : Bool}

theorem State.ctlWrite_window (hn : n = 0x002) (hw : 15 ≤ w.toNat) : s.ctlWrite word n old w b = s.illegal word := by
  simp only [State.ctlWrite, hn, hw, decide_true, Bool.and_self, if_true]

theorem State.ctlWrite_readOnly (h : ctlMask n = 0) : s.ctlWrite word n old w b = goesTo s (s.strand.pc + 4) := by
  have hn : n ≠ 0x002 := fun e => by simp [e, ctlMask] at h
  simp only [State.ctlWrite, hn, h, decide_false, Bool.false_and, Bool.false_eq_true, if_false, if_true]
  rfl

theorem State.ctlWrite_masked (hn : ¬ (n = 0x002 ∧ 15 ≤ w.toNat)) (h : ctlMask n ≠ 0) : s.ctlWrite word n old w b = s.mapStrand fun t =>
    ((t.putCtl n { val := (old &&& ~~~ctlMask n) ||| (w &&& ctlMask n), tarn := b }).seen b).advance := by
  have hc : (decide (n = 0x002) && decide (15 ≤ w.toNat)) = false := by rw [← Bool.decide_and, decide_eq_false hn]
  simp only [State.ctlWrite, hc, h, Bool.false_eq_true, if_false]
  rfl

end

/-- What a write of an assigned control register leaves: the register with its RW fields written, every other one as before (R131). -/
theorem ctlWrite_written {word : BitVec 32} {old w : Word} {b : Bool} (hn : ¬ (n = 0x002 ∧ 15 ≤ w.toNat)) :
    let u := s.ctlWrite word n old w b
    u.strand.pc = s.strand.pc + 4 ∧
      (ctlMask n ≠ 0 → u.strand.ctlRead s.cycle n = some { val := (old &&& ~~~ctlMask n) ||| (w &&& ctlMask n), tarn := b }) ∧
      (ctlMask n = 0 → u = goesTo s (s.strand.pc + 4)) ∧
      (∀ k, k ≠ n → k ≠ 0x032 → u.strand.ctlRead s.cycle k = s.strand.ctlRead s.cycle k) ∧
      u.strand.sregs = s.strand.sregs ∧ u.strand.purses = s.strand.purses ∧ u.strand.masks = s.strand.masks ∧ u.mem = s.mem := by
  intro u
  by_cases h : ctlMask n = 0
  · have hu : u = goesTo s (s.strand.pc + 4) := State.ctlWrite_readOnly h
    rw [hu]
    exact ⟨rfl, fun h' => absurd h h', fun _ => rfl, fun _ _ _ => rfl, rfl, rfl, rfl, rfl⟩
  · have hTarn : n ≠ 0x032 := fun e => h (by rw [e]; rfl)
    rw [show u = _ from State.ctlWrite_masked hn h]
    refine ⟨rfl, fun _ => ?_, fun h' => absurd h' h, fun k hk hk' => ?_, rfl, rfl, rfl, rfl⟩
    · rw [State.mapStrand_strand, Strand.ctlRead_advance, Strand.ctlRead_seen b hTarn, Strand.ctlRead_putCtl_self h]
    · rw [State.mapStrand_strand, Strand.ctlRead_advance, Strand.ctlRead_seen b hk', Strand.ctlRead_putCtl_of_ne hk]

end Sys2Proof.Machine
end

section
open Sys2Proof Sys2Proof.Machine Sys2Proof.Claims

/-- Settles O29: the number of a row is read and written by `ctlRead` and `Ctl.put`, and a number without one traps. -/
theorem controlRegisterAccess : Obligations.ControlRegisterAccess := by
  refine ⟨fun row hrow s => ⟨fun d => ?_, fun op hop a v hv => ?_⟩, fun n s hn => ?_⟩
  · obtain ⟨v, hv⟩ := Strand.ctlRead_assigned hrow
    refine ⟨v, hv, exec_crd_assigned d ?_⟩
    rwa [crRows_number row hrow]
  · have hexec := exec_crWrite_assigned a ((crRows_number row hrow).symm ▸ hv) op hop
    rw [crRows_number row hrow] at hexec
    refine ⟨fun h2 hw => ?_, fun hn => ⟨_, hexec, ?_⟩⟩
    · exact (scalarWord_crWrite a _ op hop).traps (hexec.trans (congrArg _ (State.ctlWrite_window h2 hw)))
    · rw [← ctlMask_of_row row hrow]
      exact ctlWrite_written hn
  · have hread : s.strand.ctlRead s.cycle n.toNat = none := Strand.ctlRead_unassigned fun h => by
      obtain ⟨row, hrow, e⟩ := List.mem_map.mp h
      exact hn row hrow e
    exact ⟨fun d => (scalarWord_crd d n).traps (exec_crd_unassigned d hread),
      fun op hop a => (scalarWord_crWrite a n op hop).traps (exec_crWrite_unassigned a hread op hop)⟩

end

section
/-! Compares write masks (R187), and why O33 does not hold of every state. A predicated compare observes the written chunks that its mask
shows, and the model finds each chunk's command by its number (R40, R313). Command numbers are never used twice, but O33 does not ask for
that: where two commands have one number, the observation of a chunk of one reaches the other, and a conflict of that one's write stops it
and tells its own chunks in its own mask (R434). `MaskFree` does not see it, since no command of the governing mask owes a trap. -/

namespace Sys2Proof.Machine
open Sys2Proof.Claims

/-- A COPY of 64 bytes, performed, whose completion is one chunk of 256 bits in mask `k` (R228, R229). -/
def chunkCopy (k : Nat) (det : Bool) (told : List Nat) : Cmd :=
  { id := 0, place := 0, flat := 0, part := 0, launch := 0, node := none, queue := 0,
    bits := 1 + 2 ^ 16 + k * 2 ^ 24 + 8 * 2 ^ 32 + 64 * 2 ^ 192, tarn := false, sup := true, det := det, seed := 0, srb := 0, nseg := 1,
    group := none, phase := .performed, whole := false, dest := (true, 0, 64), addr := 0, seenBy := [], seenChunks := [], told := told,
    noted := false, done := 64, snap := [], wrote := [], tokKey := none, racing := [], fails := 0 }

/-- A launch of one strand. -/
def oneStrandLaunch : Launch :=
  { id := 0, part := 0, node := 0, levels := [], det := true, esc := none, fpol := false, statarr := 0, gkey := 0, fidx := 0, ndev := 1,
    devs := [], strands := [(0, 0)], ended := [], tarns := 0, killed := none, quiesced := false }

/-- A strand that can run, governed by k1, which is all ones. -/
def governedByOnes : Strand :=
  { Strand.reset with run := .ready, masks := Strand.reset.masks.set 1 .ones, ctl := { Ctl.reset with amr := .of 1 } }

/-- Two commands numbered 0: the first, issued in a D context, completes in k2 and has told nothing; the second completes in k1 and has told
its chunk. The assay tag of the granule that they write has been lost, so that every later access to it conflicts (R319). -/
def twinCommands : State :=
  { State.reset with
    strand := governedByOnes, cmds := [chunkCopy 2 true [], chunkCopy 1 false [0]], launches := [oneStrandLaunch],
    assay := [{ launch := 0, granule := 0, writer := none, readers := none, lost := true }] }

/-- VCMPEQ k0, v0, v0 under the governing mask: both sources are empty. -/
def emptyCompare : Instr := .vcmpeq 0 0 0 false false true

theorem twinCommands_useOk : UseOk twinCommands 0 anyCode := by
  unfold UseOk
  decide +kernel

theorem twinCommands_fresh : Fresh twinCommands := by
  unfold Fresh
  decide +kernel

theorem twinCommands_maskFree : MaskFree twinCommands true := by
  have hamr : twinCommands.strand.amr = 1 := by decide +kernel
  have hbefore : ∀ c ∈ twinCommands.cmds, c.phase = .performed := by decide +kernel
  have hafter : ∀ c ∈ (observed twinCommands true).cmds, c.ca = 2 := by decide +kernel
  refine fun _ => ⟨fun c hc _ _ _ _ _ x y z h => ?_, fun c hc _ _ _ _ hca => ?_⟩
  · rw [hbefore c hc] at h
    cases h
  · rw [hafter c hc, hamr] at hca
    cases hca

/-- Bit 0 of k2 in the state an outcome gives. -/
def firstBitOfK2 : Result → Option Bool
  | .next t => some ((t.strand.mask 2).bits.getLsbD 0)
  | _ => none

/-- The compare ends with the first command's chunk told in k2. -/
theorem emptyCompare_tells : firstBitOfK2 (exec emptyCompare twinCommands) = some true := by decide +kernel

theorem twinCommands_k2 : (twinCommands.strand.mask 2).bits.getLsbD 0 = false := by decide +kernel

end Sys2Proof.Machine
end

section
open Sys2Proof Sys2Proof.Machine

/-- Refutes O33: in `twinCommands`, where two commands have one number, a compare into k0 changes k2. -/
theorem not_vectorComparesComplete : ¬ Obligations.VectorComparesComplete := by
  intro h
  obtain ⟨t, ht, -, -, -, -, hmasks, -⟩ := h (.vcmpeq, .eq) (.head _) 0 0 0 false false true twinCommands (by decide) twinCommands_useOk
    twinCommands_useOk twinCommands_fresh twinCommands_maskFree
  have htold : firstBitOfK2 (.next t) = some true := ht ▸ emptyCompare_tells
  rw [firstBitOfK2, hmasks 2 (by decide), twinCommands_k2] at htold
  cases htold

end

section
/-! What the hub's reads and writes leave alone: the graph's nodes, the held decrements, the launches, and every register from the VFs' pages on.
A read leaves strands and commands too. One lemma per operation of the memory system, each in the shape of the operation. -/

namespace Sys2Proof.Machine

theorem refrec_lt {k : Nat} (h : k < hbmEnd) : refrec (pchOf k).1 (pchOf k).2 < vfBase := by
  simp only [refrec, pchOf, stackCtl, hbmEnd, hbmDie, hbmBand, stackBase, vfBase] at h ⊢
  omega

theorem pcherr_lt {k : Nat} (h : k < hbmEnd) : pcherr (pchOf k).1 (pchOf k).2 < vfBase := by
  simp only [pcherr, pchOf, stackCtl, hbmEnd, hbmDie, hbmBand, stackBase, vfBase] at h ⊢
  omega

theorem vfBase_le_vfAddr (part off : Nat) : vfBase ≤ vfAddr part off := by
  rw [vfAddr_eq]
  omega

/-- `u` is `s` after what the hub does to memory for accesses, of which some are writes when `writes` holds. -/
structure State.HubAccess (writes : Bool) (s u : State) : Prop where
  nodes : u.nodes = s.nodes
  held : u.held = s.held
  launches : u.launches = s.launches
  regs : ∀ a, vfBase ≤ a → u.reg64 a = s.reg64 a
  actors : writes = false → u.strand = s.strand ∧ u.parked = s.parked ∧ u.cmds = s.cmds

namespace State.HubAccess

variable {α : Type} {w : Bool} {s u v : State}

/-- An update of fields that the frame does not speak of. The fields stand one by one, so that the update is matched without unfolding what it
updates. -/
theorem of_fields {
    agenda fresh ticks resetAt coldAt mem tarn poison oldCode tlb guests assay resv escrow phases barriers cores nextCmd frozenQ stored
    ordStreams ordEntries queries records hostHeld msix msixHeld chipUnits parity upsets flips l1Errors failures compressed locked
    stalled migrate retired badBands scrubs links failed devfail fw switched chron powered throttle down breaks halted goOn reply
    nonVolatile} (h : s.HubAccess w u) : s.HubAccess w ⟨
      u.strand, u.parked, agenda, fresh, ticks, resetAt, coldAt, mem, tarn, poison, u.dev, oldCode, tlb, guests, assay, resv, escrow,
      phases, barriers, cores, u.cmds, nextCmd, frozenQ, stored, ordStreams, ordEntries, queries, u.launches, u.nodes, u.held, records,
      hostHeld, msix, msixHeld, chipUnits, parity, upsets, flips, l1Errors, failures, compressed, locked, stalled, migrate,
      retired, badBands, scrubs, links, failed, devfail, fw, switched, chron, powered, throttle, down, breaks, halted, goOn,
      reply, nonVolatile⟩ := ⟨h.nodes, h.held, h.launches, h.regs, h.actors⟩

theorem refl (s : State) : s.HubAccess w s := ⟨rfl, rfl, rfl, fun _ _ => rfl, fun _ => ⟨rfl, rfl, rfl⟩⟩

theorem ite {c : Prop} {_ : Decidable c} (h : s.HubAccess w u) (h' : s.HubAccess w v) : s.HubAccess w (if c then u else v) := by
  split <;> assumption

theorem fst_ite {c : Prop} {_ : Decidable c} {p q : State × α} (h : s.HubAccess w p.1) (h' : s.HubAccess w q.1) :
    s.HubAccess w (if c then p else q).1 := by
  split <;> assumption

theorem of_fst {p : State × α} {r : α} (h : s.HubAccess w p.1) (e : p = (v, r)) : s.HubAccess w v := by
  rwa [e] at h

theorem foldl {f : State → α → State} {l : List α} (h : s.HubAccess w u) (hf : ∀ v x, s.HubAccess w v → s.HubAccess w (f v x)) :
    s.HubAccess w (l.foldl f u) :=
  List.foldlRecOn l f h fun v hv x _ => hf v x hv

theorem dispatches (h : s.HubAccess w u) (part : Nat) : u.dispatches part = s.dispatches part := by
  simp only [State.dispatches, h.regs _ (vfBase_le_vfAddr _ _)]

theorem slotAddr (h : s.HubAccess w u) (part i : Nat) : u.slotAddr part i = s.slotAddr part i := by
  simp only [State.slotAddr, h.regs _ (vfBase_le_vfAddr _ _)]

theorem node? (h : s.HubAccess w u) (part i : Nat) : u.node? part i = s.node? part i := by
  rw [State.node?, State.node?, h.nodes]

theorem nodeLaunch (h : s.HubAccess w u) (n : Node) : u.nodeLaunch n = s.nodeLaunch n := by
  simp only [State.nodeLaunch, State.launch?, h.launches]

theorem setField {a lo n v} (ha : a < vfBase) (h : s.HubAccess w u) : s.HubAccess w (u.setField a lo n v) :=
  ⟨h.nodes, h.held, h.launches, fun b hb => (State.reg64_setField_of_ne u lo n v (by omega)).trans (h.regs b hb), h.actors⟩

theorem request {k} (hk : k < hbmEnd) (h : s.HubAccess w u) : s.HubAccess w (u.request k) := by
  have hf {v : State} {lo n x} (hv : s.HubAccess w v) := hv.setField (lo := lo) (n := n) (v := x) (refrec_lt hk)
  exact .ite (hf (.ite (hf h) h)) (.ite (hf h) h)

theorem countCorrected {k} (hk : k < hbmEnd) (h : s.HubAccess w u) : s.HubAccess w (u.countCorrected k) := h.setField (pcherr_lt hk)

theorem countFailed {k} (hk : k < hbmEnd) (h : s.HubAccess w u) : s.HubAccess w (u.countFailed k) := h.setField (pcherr_lt hk)

theorem putSector {line data} (h : s.HubAccess w u) : s.HubAccess w (u.putSector line data) := .of_fields h

theorem putUnit {unit data} (h : s.HubAccess w u) : s.HubAccess w (u.putUnit unit data) := .of_fields (h.foldl fun _ _ h => h.putSector)

theorem noteCorrection {frame} (h : s.HubAccess w u) : s.HubAccess w (u.noteCorrection frame) := .of_fields h

/-- The first of a unit's sectors that fail lies in the unit. -/
theorem firstFailing_lt (p : Nat → Bool) : ((List.range 8).filter p).headD 0 < 8 := by
  cases h : (List.range 8).filter p with
  | nil => exact Nat.zero_lt_succ 7
  | cons i is => exact List.mem_range.mp (List.mem_of_mem_filter (h ▸ List.mem_cons_self))

theorem handleUnit {line} (hl : 64 * line < hbmEnd) (h : s.HubAccess w u) : s.HubAccess w (u.handleUnit line) := by
  unfold State.handleUnit
  extract_lets unit held data fails k s1
  have hk : k < hbmEnd := by
    have hi : (fails held).headD 0 < 8 := firstFailing_lt _
    simp only [k, unit, hbmEnd] at hl ⊢
    omega
  have h1 : s.HubAccess w s1 := h.foldl fun _ _ h => h.putSector
  exact .ite (h.putUnit.countCorrected hk).noteCorrection (.of_fields (h1.countFailed hk))

theorem readSector {line} (hl : 64 * line < hbmEnd) (h : s.HubAccess w u) : s.HubAccess w (u.readSector line) :=
  .ite h (.ite (.of_fields h.putSector) (h.handleUnit hl))

theorem reachHbm {k whole} (h : s.HubAccess w u) : s.HubAccess w (u.reachHbm k whole) := by
  unfold State.reachHbm
  split
  · exact h
  · next hc =>
    have hk : k < hbmEnd := by
      simp only [Bool.not_eq_true', Bool.not_eq_false, Bool.and_eq_true, decide_eq_true_eq] at hc
      exact hc.1
    have hl : 64 * lineOf k < hbmEnd := by
      rw [lineOf]
      omega
    have hu : s.HubAccess w { u with fresh := u.fresh + 1 } := .of_fields h
    exact .ite hu (.ite (hu.request hk) ((hu.request hk).readSector hl))

theorem reachRange {k n write} (h : s.HubAccess w u) : s.HubAccess w (u.reachRange k n write) := .ite h (h.foldl fun _ _ h => h.reachHbm)

theorem writeCells {k n} (h : s.HubAccess w u) : s.HubAccess w (u.writeCells k n) := .ite h (.of_fields h)

theorem setMem {m} (h : s.HubAccess w u) : s.HubAccess w { u with mem := m } := .of_fields h

theorem touchTables {part va n a} (h : s.HubAccess w u) : s.HubAccess w (u.touchTables part va n a) := by
  induction n generalizing u a with
  | zero => exact h
  | succ n ih => exact .ite h (.ite h.reachHbm (ih h.reachHbm))

theorem touchWalk {part va} (h : s.HubAccess w u) : s.HubAccess w (u.touchWalk part va) := .ite h h.touchTables

theorem cacheLeaf {part va e addr} (h : s.HubAccess w u) : s.HubAccess w (u.cacheLeaf part va e addr) := .ite (.of_fields h) (.of_fields h)

theorem setAD {addr e a} (h : s.HubAccess w u) : s.HubAccess w (u.setAD addr e a) := .ite h h.setMem.writeCells

theorem useEntry {q e va a addr} (h : s.HubAccess w u) :
    s.HubAccess w (match u.useLeaf q e va a with
      | .error f => (u, Except.error f)
      | .ok x => ((u.setAD addr e a).cacheLeaf q.part va (e ||| a.marks) addr, Except.ok x)).1 := by
  split
  · exact h
  · exact h.setAD.cacheLeaf

theorem translateNow {q va a} (h : s.HubAccess w u) : s.HubAccess w (u.translateNow q va a).1 := by
  refine .fst_ite h (.fst_ite h ?_)
  dsimp only
  split
  · split
    · exact h
    · exact h.useEntry
  · have hu : s.HubAccess w { u with fresh := u.fresh + 1 } := .of_fields h
    split
    · exact hu.useEntry
    · split
      · exact hu
      · exact hu.useEntry

theorem translate {q va a} (h : s.HubAccess w u) : s.HubAccess w (u.translate q va a).1 := .translateNow (.ite h h.touchWalk)

theorem hubTouch {part va n} (h : s.HubAccess w u) : s.HubAccess w (u.hubTouch part va n) := by
  refine h.foldl fun _ _ h => ?_
  dsimp only
  split
  · next e => exact .reachRange (.of_fst h.translate e)
  · next e => exact .of_fst h.translate e

theorem noteStore {det k n} (h : s.HubAccess true u) : s.HubAccess true (u.noteStore det k n) :=
  ⟨h.nodes, h.held, h.launches, h.regs, nofun⟩

theorem breakLinks {by_ line} (h : s.HubAccess true u) : s.HubAccess true (u.breakLinks by_ line) :=
  ⟨h.nodes, h.held, h.launches, h.regs, nofun⟩

theorem orTarn {line t} (h : s.HubAccess w u) : s.HubAccess w (u.orTarn line t) := .ite (.of_fields h) h

theorem homeStore {place k bs t} (h : s.HubAccess true u) : s.HubAccess true (u.homeStore place k bs t) :=
  h.setMem.writeCells.noteStore.orTarn.breakLinks

theorem hubPut {part k bs} (h : s.HubAccess true u) : s.HubAccess true (u.hubPut part k bs) :=
  .ite (.of_fields h) (h.reachRange.setMem.writeCells.noteStore.foldl fun _ _ h => h.breakLinks)

theorem hubBytes {part n va bs} (h : s.HubAccess true u) : s.HubAccess true (u.hubBytes part n va bs) := by
  induction n generalizing u va bs with
  | zero => exact h
  | succ n ih =>
    cases bs with
    | nil => exact h
    | cons b bs =>
      refine ih ?_
      dsimp only
      split
      · exact h.translate.hubPut
      · exact h.translate

theorem hubWrite {part va bs} (h : s.HubAccess true u) : s.HubAccess true (u.hubWrite part va bs) := by
  refine h.hubBytes.foldl fun _ _ h => ?_
  split
  · exact .of_fields h
  · exact h

end State.HubAccess
end Sys2Proof.Machine
end

section
/-! What killing a strand or stopping a command leaves alone: the graph's nodes. One lemma per operation, each in the shape of the operation. -/

namespace Sys2Proof.Machine

/-- `u` holds the nodes of `s`. -/
structure State.KeepsNodes (s u : State) : Prop where
  nodes : u.nodes = s.nodes

namespace State.KeepsNodes

variable {α : Type} {s u v : State}

theorem refl (s : State) : s.KeepsNodes s := ⟨rfl⟩

theorem node? (h : s.KeepsNodes u) (part i : Nat) : u.node? part i = s.node? part i := by
  rw [State.node?, State.node?, h.nodes]

theorem ite {c : Prop} {_ : Decidable c} (h : s.KeepsNodes u) (h' : s.KeepsNodes v) : s.KeepsNodes (if c then u else v) := by
  split <;> assumption

theorem fst_ite {c : Prop} {_ : Decidable c} {p q : State × α} (h : s.KeepsNodes p.1) (h' : s.KeepsNodes q.1) :
    s.KeepsNodes (if c then p else q).1 := by
  split <;> assumption

theorem foldl {f : State → α → State} {l : List α} (h : s.KeepsNodes u) (hf : ∀ v x, s.KeepsNodes v → s.KeepsNodes (f v x)) :
    s.KeepsNodes (l.foldl f u) :=
  List.foldlRecOn l f h fun v hv x _ => hf v x hv

theorem fst_foldl {β : Type} {f : State × α → β → State × α} {l : List β} {p : State × α} (h : s.KeepsNodes p.1)
    (hf : ∀ (v : State × α) x, s.KeepsNodes v.1 → s.KeepsNodes (f v x).1) : s.KeepsNodes (l.foldl f p).1 :=
  List.foldlRecOn (motive := fun p : State × α => s.KeepsNodes p.1) l f h fun v hv x _ => hf v x hv

theorem access {w} (h : s.KeepsNodes u) (ha : u.HubAccess w v) : s.KeepsNodes v := ⟨ha.nodes.trans h.nodes⟩

theorem hubWrite {part va bs} (h : s.KeepsNodes u) : s.KeepsNodes (u.hubWrite part va bs) := h.access (.hubWrite (.refl u))

theorem reachHbm {k whole} (h : s.KeepsNodes u) : s.KeepsNodes (u.reachHbm k whole) := h.access (w := true) (.reachHbm (.refl u))

theorem homeStore {place k bs t} (h : s.KeepsNodes u) : s.KeepsNodes (u.homeStore place k bs t) := h.access (.homeStore (.refl u))

theorem updateAt {place f} (h : s.KeepsNodes u) : s.KeepsNodes (u.updateAt place f) := ⟨h.nodes⟩

/-! ## Records -/

theorem setField {a lo n v} (h : s.KeepsNodes u) : s.KeepsNodes (u.setField a lo n v) := ⟨h.nodes⟩

theorem interrupt {fn vec} (h : s.KeepsNodes u) : s.KeepsNodes (u.interrupt fn vec) := .ite ⟨h.nodes⟩ ⟨h.nodes⟩

theorem enterRecord {ring words} (h : s.KeepsNodes u) : s.KeepsNodes (u.enterRecord ring words) :=
  .ite h.hubWrite.setField.interrupt h.hubWrite.setField

theorem chronicle {source part cause a0 a1} (h : s.KeepsNodes u) : s.KeepsNodes (u.chronicle source part cause a0 a1) := .ite h ⟨h.nodes⟩

theorem chronicleRecord {ring kind words place cmd} (h : s.KeepsNodes u) : s.KeepsNodes (u.chronicleRecord ring kind words place cmd) :=
  .ite h.chronicle (.ite h.chronicle h.chronicle)

theorem postRecord {ring kind words place cmd} (h : s.KeepsNodes u) : s.KeepsNodes (u.postRecord ring kind words place cmd).1 := by
  have hc {l} : s.KeepsNodes { u.chronicleRecord ring kind words place cmd with records := l } := ⟨h.chronicleRecord.nodes⟩
  exact .ite hc hc.enterRecord

theorem suspendAt {place cause elem route} (h : s.KeepsNodes u) : s.KeepsNodes (u.suspendAt place cause elem route) := by
  unfold State.suspendAt
  split
  · exact h
  · exact h.postRecord.updateAt

/-! ## Dirty FIFOs -/

theorem setCore {c} (h : s.KeepsNodes u) : s.KeepsNodes (u.setCore c) := ⟨h.nodes⟩

theorem loseWriteback {part k} (h : s.KeepsNodes u) : s.KeepsNodes (u.loseWriteback part k) := .postRecord (u := u.loseBlock k) ⟨h.nodes⟩

theorem drainOne {core} (h : s.KeepsNodes u) : s.KeepsNodes (u.drainOne core) := by
  unfold State.drainOne
  dsimp only
  split
  · exact h
  · exact .ite h (.ite h.setCore.loseWriteback h.setCore.reachHbm.homeStore)

theorem drainN {core n} (h : s.KeepsNodes u) : s.KeepsNodes (u.drainN core n) := by
  induction n generalizing u with
  | zero => exact h
  | succ n ih => exact ih h.drainOne

theorem drainAll {core} (h : s.KeepsNodes u) : s.KeepsNodes (u.drainAll core) := h.drainN

theorem codeRelease {place scope} (h : s.KeepsNodes u) : s.KeepsNodes (u.codeRelease place scope) := ⟨h.nodes⟩

theorem releaseAt {place scope} (h : s.KeepsNodes u) : s.KeepsNodes (u.releaseAt place scope) := .codeRelease (.ite h.drainAll h)

theorem acquireAt {place scope} (h : s.KeepsNodes u) : s.KeepsNodes (u.acquireAt place scope) := .ite h ⟨h.nodes⟩

/-! ## Observing a command -/

theorem recordWrite {c phys lo len} (h : s.KeepsNodes u) : s.KeepsNodes (u.recordWrite c phys lo len).1 := by
  unfold State.recordWrite
  split
  · exact h
  · refine .fst_foldl h fun _ _ h1 => .fst_ite h1 ?_
    dsimp only
    split
    · exact h1
    · split <;> exact ⟨h1.nodes⟩

theorem observe {cmd flat} (h : s.KeepsNodes u) : s.KeepsNodes (u.observe cmd flat) := by
  unfold State.observe
  split
  · exact h
  · extract_lets s1 s2 s3 s4
    have h2 : s.KeepsNodes s2 := by
      dsimp only [s2]
      split <;> exact ⟨h.nodes⟩
    have h4 : s.KeepsNodes s4.1 := by
      dsimp only [s4]
      split
      · exact h2.recordWrite.recordWrite
      · exact h2.recordWrite
    refine .ite h2 ?_
    split
    · exact h4
    · exact ⟨h4.nodes⟩

theorem observeAll {cmds flat} (h : s.KeepsNodes u) : s.KeepsNodes (u.observeAll cmds flat) := h.foldl fun _ _ h => h.observe

theorem observeIssuer {cmd} (h : s.KeepsNodes u) : s.KeepsNodes (u.observeIssuer cmd) := by
  unfold State.observeIssuer
  split
  · exact h.observe
  · exact h

/-! ## Barriers -/

theorem setBarrier {b} (h : s.KeepsNodes u) : s.KeepsNodes (u.setBarrier b) := ⟨h.nodes⟩

theorem codeJoin {places scope} (h : s.KeepsNodes u) : s.KeepsNodes (u.codeJoin places scope) := ⟨h.nodes⟩

theorem releaseInstance {b counted scope} (h : s.KeepsNodes u) : s.KeepsNodes (u.releaseInstance b counted scope) :=
  .setBarrier (.foldl (.codeJoin (.foldl (.ite (h.foldl fun _ _ h1 => h1.observeIssuer) h) fun _ _ h1 => h1.observeAll.releaseAt))
    fun _ _ h1 => h1.acquireAt.updateAt)

theorem bumpPhase {launch level group} (h : s.KeepsNodes u) : s.KeepsNodes (u.bumpPhase launch level group) := ⟨h.nodes⟩

theorem advancePhases {l n group} (h : s.KeepsNodes u) : s.KeepsNodes (u.advancePhases l n group) := by
  unfold State.advancePhases
  extract_lets top s1
  have h1 : s.KeepsNodes s1 := .ite h (h.foldl fun _ _ h => h.foldl fun _ _ h => h.bumpPhase)
  split
  · exact .ite ⟨h1.nodes⟩ h1
  · exact h1

theorem completeGroup {l n group bar} (h : s.KeepsNodes u) : s.KeepsNodes (u.completeGroup l n group bar) :=
  .ite (h.foldl fun _ _ h1 => h1.suspendAt) (.advancePhases (.ite (h.foldl fun _ _ h1 => h1.releaseInstance)
    (.codeJoin (h.foldl fun _ _ h1 => h1.releaseInstance))))

theorem evalBarrier {b} (h : s.KeepsNodes u) : s.KeepsNodes (u.evalBarrier b) := by
  refine .ite h ?_
  dsimp only
  split
  · exact h.releaseInstance
  · split
    · exact h.releaseInstance
    · exact .ite h.completeGroup h

theorem lowerPend {c n} (h : s.KeepsNodes u) : s.KeepsNodes (u.lowerPend c n) := h.setBarrier.evalBarrier

/-! ## The ends of strands, launches and commands -/

theorem setLaunch {l} (h : s.KeepsNodes u) : s.KeepsNodes (u.setLaunch l) := ⟨h.nodes⟩

theorem endStrand {place status kill} (h : s.KeepsNodes u) : s.KeepsNodes (u.endStrand place status kill) := by
  unfold State.endStrand
  split
  · exact h
  · split
    · exact h.updateAt
    · exact .foldl (.updateAt (.ite h.setLaunch h.setLaunch.hubWrite)) fun _ _ h1 => h1.setBarrier.evalBarrier

theorem killLaunch {l nerr} (h : s.KeepsNodes u) : s.KeepsNodes (u.killLaunch l nerr) := by
  unfold State.killLaunch
  extract_lets s1
  have h1 : s.KeepsNodes s1 := h.foldl fun _ _ h => h.drainAll.endStrand
  exact ⟨h1.nodes⟩

theorem setCmd {c} (h : s.KeepsNodes u) : s.KeepsNodes (u.setCmd c) := ⟨h.nodes⟩

theorem tellChunks {c is} (h : s.KeepsNodes u) : s.KeepsNodes (u.tellChunks c is) := ⟨h.nodes⟩

theorem stopCmd {c ph} (h : s.KeepsNodes u) : s.KeepsNodes (u.stopCmd c ph) := by
  unfold State.stopCmd
  extract_lets told s0 s1 k s2
  have h0 : s.KeepsNodes s0 := .setCmd (.ite h h.tellChunks)
  have h1 : s.KeepsNodes s1 := ⟨h0.nodes⟩
  have h2 : s.KeepsNodes s2 := .ite h1.setCore h1
  exact .ite h2.lowerPend h2

end State.KeepsNodes

end Sys2Proof.Machine
end

section
/-! Nodes by number (R400): what replacing one leaves, and the kill of one (R402, R412). -/

namespace Sys2Proof.Machine

variable {s u : State}

theorem State.node?_key {part i : Nat} {n : Node} (h : s.node? part i = some n) : n.part = part ∧ n.index = i := by
  simpa using List.find?_some h

theorem State.node?_setNode_self {n m : Node} (h : s.node? n.part n.index = some m) : (s.setNode n).node? n.part n.index = some n := by
  obtain ⟨hp, hi⟩ := State.node?_key h
  have hk : (fun x : Node => decide (x.part = n.part) && decide (x.index = n.index)) ∘
      (fun x : Node => if x.part = n.part && x.index = n.index then n else x) = fun x => decide (x.part = n.part) && decide (x.index = n.index) := by
    funext x
    by_cases hx : (x.part = n.part && x.index = n.index) = true
    · simp only [Function.comp, hx, if_true, decide_true, Bool.and_self]
    · simp only [Function.comp, hx]
      simp [hx]
  rw [State.node?] at h
  rw [State.node?, State.setNode, List.find?_map, hk, h]
  simp [hp, hi]

theorem State.node?_setNode_of_ne {n : Node} {part i : Nat} (h : ¬ (n.part = part ∧ n.index = i)) :
    (s.setNode n).node? part i = s.node? part i := by
  have hk : (fun x : Node => decide (x.part = part) && decide (x.index = i)) ∘
      (fun x : Node => if x.part = n.part && x.index = n.index then n else x) = fun x => decide (x.part = part) && decide (x.index = i) := by
    funext x
    by_cases hx : x.part = n.part ∧ x.index = n.index
    · have hn : (decide (n.part = part) && decide (n.index = i)) = false := by simpa using h
      simp only [Function.comp, hx, decide_true, Bool.and_self, if_true, hn]
    · simp [Function.comp, hx]
  rw [State.node?, State.node?, State.setNode, List.find?_map, hk]
  cases hf : s.nodes.find? (fun x : Node => decide (x.part = part) && decide (x.index = i)) with
  | none => rfl
  | some m =>
    obtain ⟨hp, hi⟩ := State.node?_key (s := s) hf
    have hm : ¬ (m.part = n.part ∧ m.index = n.index) := by rintro ⟨e1, e2⟩; exact h ⟨e1.symm.trans hp, e2.symm.trans hi⟩
    simp [hm]

/-- A kill leaves the nodes as they are, but for the one killed. -/
theorem State.killNode_eq (s : State) (n : Node) (nerr : Nat) :
    ∃ u, s.KeepsNodes u ∧ s.killNode n nerr = u.setNode { n with state := 3, nerr := nerr } := by
  refine ⟨_, ?_, rfl⟩
  refine .foldl ?_ fun v c hv => ?_
  · split
    · exact (State.KeepsNodes.refl s).killLaunch
    · exact .refl s
  · exact .ite ⟨hv.stopCmd.nodes⟩ hv.stopCmd

theorem State.node?_killNode_self {n m : Node} (nerr : Nat) (h : s.node? n.part n.index = some m) :
    (s.killNode n nerr).node? n.part n.index = some { n with state := 3, nerr := nerr } := by
  obtain ⟨u, hu, e⟩ := s.killNode_eq n nerr
  rw [e]
  exact State.node?_setNode_self (n := { n with state := 3, nerr := nerr }) ((hu.node? _ _).trans h)

theorem State.node?_killNode_of_ne {n : Node} {part i : Nat} (nerr : Nat) (h : ¬ (n.part = part ∧ n.index = i)) :
    (s.killNode n nerr).node? part i = s.node? part i := by
  obtain ⟨u, hu, e⟩ := s.killNode_eq n nerr
  rw [e]
  exact (State.node?_setNode_of_ne (n := { n with state := 3, nerr := nerr }) h).trans (hu.node? part i)

/-- The reason that the host's kill gives (R402, R412): 5 while an engine fault of the node's command stands that has frozen no queue, else 7. -/
theorem State.hostNerr_eq_five_iff (s : State) (n : Node) :
    s.hostNerr n = 5 ↔ ∃ c ∈ s.cmds, c.part = n.part ∧ c.node = some n.index ∧ s.froze c = false ∧ ∃ q, c.phase = .faulted q := by
  have h75 (p : Prop) [Decidable p] : (if p then 5 else 7) = 5 ↔ p := by simp
  rw [State.hostNerr, h75]
  simp only [List.any_eq_true, Bool.and_eq_true, decide_eq_true_eq, Bool.not_eq_true', and_assoc]
  constructor
  · rintro ⟨c, hc, hp, hn, hf, hq⟩
    split at hq
    · next q e => exact ⟨c, hc, hp, hn, hf, q, e⟩
    · cases hq
  · rintro ⟨c, hc, hp, hn, hf, q, hq⟩
    exact ⟨c, hc, hp, hn, hf, by rw [hq]⟩

theorem State.hostNerr_of_ne_five {n : Node} (h : s.hostNerr n ≠ 5) : s.hostNerr n = 7 := by
  unfold State.hostNerr at h ⊢
  split
  · next hc => exact absurd (if_pos hc) h
  · rfl

end Sys2Proof.Machine
end

section
/-! The end of a node (R402, R403), stage by stage: what it writes, the node marked and its launch freed, the policy of its JOINs, and the counters of
its successors. -/

namespace Sys2Proof.Machine
open Sys2Proof.Claims

variable {s : State} {n : Node}

/-! ## The stages -/

/-- The status word and a JOIN's wake are written. -/
def State.endWrites (s : State) (n : Node) : State :=
  let u := statusWritten s n (s.verdict n).2.2.1 (s.verdict n).2.2.2
  if n.type = 11 ∧ n.body 0 8 ≠ 0 then u.hubWrite n.part (n.body 0 8) (leBytes 8 (n.body 8 8)) else u

/-- Then its launch is freed. -/
def State.endFreed (s : State) (n : Node) : State :=
  match (s.endWrites n).nodeLaunch n with
  | some l => (s.endWrites n).freeLaunch l.id
  | none => s.endWrites n

/-- Then the node is marked as ended. -/
def State.endMarked (s : State) (n : Node) : State :=
  (s.endFreed n).setNode { n with phase := .ended, state := (s.verdict n).1, nerr := (s.verdict n).2.1 }

/-- The node is a faulted KERNEL under the kill policy. -/
def State.endKills (s : State) (n : Node) : Bool := n.type = 1 && (s.verdict n).1 = 2 && (s.endWrites n).killsSiblings n

/-- Then the policy of its JOINs is done. -/
def State.endPoliced (s : State) (n : Node) : State := if s.endKills n then (s.endMarked n).joinPolicy n else s.endMarked n

/-- `endNode` goes through the stages, then decrements the successors and retires what has ended. -/
theorem State.endNode_eq (s : State) (n : Node) : s.endNode n =
    (n.succs.foldl (fun u j => u.decrement n.part j) (s.endPoliced n)).retireNodes n.part (s.endPoliced n).nodes.length := by
  have h2 : s.endWrites n = (let (_, _, w0, w1) := s.verdict n
      let s1 := if n.status = 0 || n.status % 16 ≠ 0 then s else s.hubWrite n.part n.status (leBytes 8 w0 ++ leBytes 8 w1)
      if n.type = 11 && n.body 0 8 ≠ 0 then s1.hubWrite n.part (n.body 0 8) (leBytes 8 (n.body 8 8)) else s1) := by
    simp only [State.endWrites, statusWritten, Bool.or_eq_true, Bool.and_eq_true, decide_eq_true_eq]
  rw [State.endPoliced, State.endKills, State.endMarked, State.endFreed, h2]
  rfl

/-! ## What the hub writes -/

theorem State.HubAccess.endWrites (s : State) (n : Node) : s.HubAccess true (s.endWrites n) := by
  have h : s.HubAccess true (statusWritten s n (s.verdict n).2.2.1 (s.verdict n).2.2.2) := .ite (.refl s) (State.HubAccess.refl s).hubWrite
  exact .ite h.hubWrite h

/-- The node is no KERNEL: its verdict is its own mark. -/
theorem State.verdict_of_not_kernel (h : n.type ≠ 1) : s.verdict n = (n.state, n.nerr, n.state + n.nerr * 2 ^ 8, 0) := by
  simp only [State.verdict, State.nodeLaunch, if_neg h]

theorem State.endWrites_of_plain (h1 : n.type ≠ 1) (h11 : n.type ≠ 11) :
    s.endWrites n = statusWritten s n (n.state + n.nerr * 2 ^ 8) 0 := by
  simp only [State.endWrites, State.verdict_of_not_kernel h1, h11, false_and, if_false]

theorem State.endWrites_of_join (h : n.type = 11) : s.endWrites n =
    (let u := statusWritten s n (n.state + n.nerr * 2 ^ 8) 0
      if n.body 0 8 = 0 then u else u.hubWrite n.part (n.body 0 8) (leBytes 8 (n.body 8 8))) := by
  have h1 : n.type ≠ 1 := by omega
  simp only [State.endWrites, State.verdict_of_not_kernel h1, h, true_and, ite_not]

/-- A launch's verdict is the word of R402, with the strands' tarnishes. -/
theorem State.verdict_of_launch {l : Launch} (h : s.nodeLaunch n = some l) :
    (s.verdict n).2.2.1 = kernelWord l ∧ (s.verdict n).2.2.2 = l.tarns.toNat := by
  simp only [State.verdict, h, kernelWord]
  cases l.killed <;> cases l.faulted <;> simp [Nat.add_assoc]

/-- Only a KERNEL has a launch. -/
theorem State.type_of_nodeLaunch {l : Launch} (h : s.nodeLaunch n = some l) : n.type = 1 := by
  by_contra h1
  simp [State.nodeLaunch, h1] at h

theorem State.endWrites_of_launch {l : Launch} (h : s.nodeLaunch n = some l) : s.endWrites n = statusWritten s n (kernelWord l) l.tarns.toNat := by
  obtain ⟨e0, e1⟩ := State.verdict_of_launch h
  have h11 : n.type ≠ 11 := by simp [State.type_of_nodeLaunch h]
  simp only [State.endWrites, e0, e1, h11, false_and, if_false]

/-! ## The node marked -/

theorem State.endMarked_mem (s : State) (n : Node) : (s.endMarked n).mem = (s.endWrites n).mem := by
  unfold State.endMarked State.endFreed
  split <;> rfl

theorem State.endMarked_reg64 (s : State) (n : Node) {a : Nat} (ha : vfBase ≤ a) : (s.endMarked n).reg64 a = s.reg64 a := by
  rw [← (State.HubAccess.endWrites s n).regs a ha]
  unfold State.endMarked State.endFreed
  split <;> rfl

theorem State.endMarked_dispatches (s : State) (n : Node) (part : Nat) : (s.endMarked n).dispatches part = s.dispatches part := by
  simp only [State.dispatches, State.endMarked_reg64 s n (vfBase_le_vfAddr _ _)]

/-- The end of a KERNEL frees the launch that the node has at the start. -/
theorem State.endMarked_launches {l : Launch} (h : s.nodeLaunch n = some l) : ∀ x ∈ (s.endMarked n).launches, x.id ≠ l.id := by
  have hl : (s.endWrites n).nodeLaunch n = some l := ((State.HubAccess.endWrites s n).nodeLaunch n).trans h
  rw [State.endMarked, State.endFreed, hl]
  intro x hx
  simpa using (List.mem_filter.mp hx).2

theorem State.endFreed_node? (s : State) (n : Node) (part i : Nat) : (s.endFreed n).node? part i = s.node? part i := by
  rw [← (State.HubAccess.endWrites s n).node? part i]
  unfold State.endFreed
  split <;> rfl

theorem State.endMarked_node?_of_ne {part i : Nat} (h : ¬ (n.part = part ∧ n.index = i)) : (s.endMarked n).node? part i = s.node? part i :=
  (State.node?_setNode_of_ne (n := { n with phase := .ended, state := (s.verdict n).1, nerr := (s.verdict n).2.1 }) h).trans
    (State.endFreed_node? s n part i)

/-! ## The node stays ended -/

/-- The node of a number has ended. -/
def State.EndedAt (s : State) (part i : Nat) : Prop := (s.node? part i).map (·.phase) = some .ended

theorem State.EndedAt.endMarked {m : Node} (h : s.node? n.part n.index = some m) : (s.endMarked n).EndedAt n.part n.index := by
  have hs := State.node?_setNode_self (n := { n with phase := .ended, state := (s.verdict n).1, nerr := (s.verdict n).2.1 })
    ((State.endFreed_node? s n n.part n.index).trans h)
  exact congrArg (Option.map (·.phase)) hs

/-- A kill of another node. -/
theorem State.EndedAt.killNode {part i nerr : Nat} {c : Node} (h : s.EndedAt part i) (hc : c.index ≠ i) : (s.killNode c nerr).EndedAt part i := by
  rw [State.EndedAt, State.node?_killNode_of_ne nerr fun e => hc e.2]
  exact h

theorem State.EndedAt.ite {c : Prop} {_ : Decidable c} {u : State} {part i : Nat} (h : s.EndedAt part i) (h' : u.EndedAt part i) :
    (if c then s else u).EndedAt part i := by
  split <;> assumption

/-- The policy of a node's JOINs kills other nodes only. -/
theorem State.EndedAt.joinPolicy (h : s.EndedAt n.part n.index) : (s.joinPolicy n).EndedAt n.part n.index := by
  unfold State.joinPolicy
  extract_lets joins others
  refine List.foldlRecOn (motive := fun u => State.EndedAt u n.part n.index) others _ h fun u hu i hi => ?_
  have hne : i ≠ n.index := by simpa using (List.mem_filter.mp hi).2
  split
  · next c hc =>
    have hci : c.index ≠ n.index := fun e => hne ((State.node?_key hc).2.symm.trans e)
    exact .ite (hu.killNode hci) hu
  · exact hu

/-- A graph error changes at most GERR. -/
theorem State.graphError_eq (s : State) (part code index : Nat) :
    s.graphError part code index = s ∨ ∃ v, s.graphError part code index = s.setReg64 (vfAddr part 0x20) v := by
  unfold State.graphError
  extract_lets a
  split
  · exact .inl rfl
  · exact .inr ⟨_, rfl⟩

theorem State.graphError_graph (s : State) (part code index : Nat) :
    (s.graphError part code index).nodes = s.nodes ∧ (s.graphError part code index).held = s.held := by
  obtain e | ⟨v, e⟩ := s.graphError_eq part code index <;> rw [e] <;> exact ⟨rfl, rfl⟩

theorem State.graphError_node? (part code index p i : Nat) : (s.graphError part code index).node? p i = s.node? p i := by
  rw [State.node?, State.node?, (s.graphError_graph part code index).1]

/-- A node that has ended, or whose counter is zero, is decremented no further (R403). -/
theorem State.decrement_of_error {part j : Nat} {m : Node} (h : s.node? part j = some m) (he : m.phase = .ended ∨ m.counter = 0) :
    ∃ code, s.decrement part j = s.graphError part code j := by
  unfold State.decrement
  rw [h]
  dsimp only
  by_cases hp : m.phase = .ended
  · exact ⟨3, if_pos hp⟩
  · exact ⟨2, (if_neg hp).trans (if_pos (he.resolve_left hp))⟩

/-- A decrement: the counter falls by one, and an appended node whose counter reaches zero is dispatched (R403). -/
theorem State.decrement_of_counts {part j : Nat} {m : Node} (h : s.node? part j = some m) (hp : m.phase ≠ .ended) (hc : m.counter ≠ 0) :
    s.decrement part j = s.setNode { m with
      counter := m.counter - 1, phase := if m.counter = 1 ∧ m.phase = .appended ∧ s.dispatches part = true then .dispatched else m.phase } := by
  unfold State.decrement
  rw [h]
  dsimp only
  rw [if_neg hp, if_neg hc]
  simp only [Bool.and_eq_true, decide_eq_true_eq, and_assoc]

theorem State.decrement_of_none {part j : Nat} (h : s.node? part j = none) : (s.decrement part j).nodes = s.nodes := by
  unfold State.decrement
  rw [h]

theorem State.EndedAt.decrement {part i p j : Nat} (h : s.EndedAt part i) : (s.decrement p j).EndedAt part i := by
  cases hm : s.node? p j with
  | none => rwa [State.EndedAt, State.node?, State.decrement_of_none hm]
  | some m =>
    by_cases he : m.phase = .ended ∨ m.counter = 0
    · obtain ⟨code, e⟩ := State.decrement_of_error hm he
      rwa [e, State.EndedAt, State.graphError_node?]
    · obtain ⟨hp, hc⟩ := not_or.mp he
      have hne : ¬ (m.part = part ∧ m.index = i) := by
        obtain ⟨rfl, rfl⟩ := State.node?_key hm
        rintro ⟨rfl, rfl⟩
        rw [State.EndedAt, hm] at h
        exact hp (by simpa using h)
      rwa [State.decrement_of_counts hm hp hc, State.EndedAt, State.node?_setNode_of_ne (by exact hne)]

/-! ## What the counters and the retirement leave -/

theorem State.decrement_keeps (s : State) (part j : Nat) :
    (s.decrement part j).mem = s.mem ∧ (s.decrement part j).launches = s.launches := by
  have he (code : Nat) : (s.graphError part code j).mem = s.mem ∧ (s.graphError part code j).launches = s.launches := by
    obtain e | ⟨v, e⟩ := s.graphError_eq part code j <;> rw [e] <;> exact ⟨rfl, rfl⟩
  unfold State.decrement
  split
  · exact ⟨rfl, rfl⟩
  · split
    · exact he 3
    · split
      · exact he 2
      · exact ⟨rfl, rfl⟩

/-- Retirement changes registers only. -/
theorem State.retireNodes_eq (s : State) (part k : Nat) : ∃ dev, s.retireNodes part k = { s with dev := dev } := by
  induction k generalizing s with
  | zero => exact ⟨s.dev, rfl⟩
  | succ k ih =>
    unfold State.retireNodes
    dsimp only
    split
    · split
      · exact ih _
      · exact ⟨s.dev, rfl⟩
    · exact ⟨s.dev, rfl⟩

/-- The end of a node: what it has written and the launches after it, when its policy kills nobody. -/
theorem State.endNode_of_no_kill (h : s.endKills n = false) :
    (s.endNode n).mem = (s.endWrites n).mem ∧ (s.endNode n).launches = (s.endMarked n).launches := by
  obtain ⟨dev, e⟩ := State.retireNodes_eq (n.succs.foldl (fun u j => u.decrement n.part j) (s.endPoliced n)) n.part (s.endPoliced n).nodes.length
  have hp : s.endPoliced n = s.endMarked n := by simp only [State.endPoliced, h, Bool.false_eq_true, if_false]
  rw [State.endNode_eq, e, hp, ← State.endMarked_mem s n]
  refine List.foldlRecOn (motive := fun u => State.mem u = (s.endMarked n).mem ∧ State.launches u = (s.endMarked n).launches) _ _
    ⟨rfl, rfl⟩ fun u ⟨hm, hl⟩ j _ => ?_
  obtain ⟨em, el⟩ := u.decrement_keeps n.part j
  exact ⟨em.trans hm, el.trans hl⟩

theorem State.EndedAt.endNode {m : Node} (h : s.node? n.part n.index = some m) : (s.endNode n).EndedAt n.part n.index := by
  obtain ⟨dev, e⟩ := State.retireNodes_eq (n.succs.foldl (fun u j => u.decrement n.part j) (s.endPoliced n)) n.part (s.endPoliced n).nodes.length
  have hp : (s.endPoliced n).EndedAt n.part n.index := by
    unfold State.endPoliced
    split
    · exact (State.EndedAt.endMarked h).joinPolicy
    · exact .endMarked h
  rw [State.endNode_eq, e]
  exact List.foldlRecOn (motive := fun u => State.EndedAt u n.part n.index) _ _ hp fun u hu j _ => hu.decrement

theorem State.endKills_of_not_kernel (h : n.type ≠ 1) : s.endKills n = false := by
  simp [State.endKills, h]

theorem State.endKills_of_policy {l : Launch} (h : s.nodeLaunch n = some l) (hf : l.fpol = false) : s.endKills n = false := by
  have hl : (s.endWrites n).nodeLaunch n = some l := ((State.HubAccess.endWrites s n).nodeLaunch n).trans h
  simp [State.endKills, State.killsSiblings, hl, hf]

/-- The only successor of a node that is no KERNEL, after the node's end. -/
theorem State.endNode_node?_succ {j : Nat} (h1 : n.type ≠ 1) (hj : n.succs = [j]) (p i : Nat) :
    (s.endNode n).node? p i = ((s.endMarked n).decrement n.part j).node? p i := by
  obtain ⟨dev, e⟩ := State.retireNodes_eq (n.succs.foldl (fun u j => u.decrement n.part j) (s.endPoliced n)) n.part (s.endPoliced n).nodes.length
  have hp : s.endPoliced n = s.endMarked n := by simp only [State.endPoliced, State.endKills_of_not_kernel h1, Bool.false_eq_true, if_false]
  rw [State.endNode_eq, e, hj, hp]
  rfl

end Sys2Proof.Machine
end

section
/-! NODE_END, JOIN, KILLED_BY_THE_HOST (R402, R403, R412): what each event does with a node. -/

namespace Sys2Proof.Machine
open Sys2Proof.Claims

variable {s : State} {n : Node} {part node : Nat}

theorem exec_nodeEnd_of_none (h : s.node? part node = none) : exec (.nodeEnd part node) s = .next s := by
  change execNodeEnd part node s = _
  rw [execNodeEnd, h]

/-- NODE_END at a node (R402, R403). -/
theorem exec_nodeEnd (h : s.node? part node = some n) : exec (.nodeEnd part node) s =
    .next (if n.phase = .ended ∨ s.endLocked n = true then s
      else if s.nodeOver n = true then s.endNode n
      else if n.phase = .dispatched ∧ s.dispatches part = true ∧ ¬ (1 ≤ n.type ∧ n.type ≤ 11) then s.endNode { n with state := 2, nerr := 1 }
      else s) := by
  change execNodeEnd part node s = _
  simp only [execNodeEnd, h, Bool.or_eq_true, Bool.and_eq_true, Bool.not_eq_true', decide_eq_true_eq, decide_eq_false_iff_not, and_assoc,
    apply_ite Host.Outcome.next]

/-- A node whose work is not over stays, unless it is dispatched and of no known type. -/
theorem exec_nodeEnd_stays (h : s.node? part node = some n) (ho : s.nodeOver n = false)
    (hn : n.phase ≠ .dispatched ∨ s.dispatches part = false ∨ (1 ≤ n.type ∧ n.type ≤ 11)) : exec (.nodeEnd part node) s = .next s := by
  have hd : ¬ (n.phase = .dispatched ∧ s.dispatches part = true ∧ ¬ (1 ≤ n.type ∧ n.type ≤ 11)) := by
    rintro ⟨hp, hs, ht⟩
    obtain h1 | h2 | h3 := hn
    · exact h1 hp
    · simp [h2] at hs
    · exact ht h3
  rw [exec_nodeEnd h, if_neg (c := s.nodeOver n = true) (by simp [ho]), if_neg hd, ite_self]

theorem exec_killedByTheHost_of_none (h : s.node? part node = none) : exec (.killedByTheHost part node) s = .next s := by
  change execKilledByTheHost part node s = _
  rw [execKilledByTheHost, h]

theorem exec_killedByTheHost_of_ended (h : s.node? part node = some n) (he : n.phase = .ended) :
    exec (.killedByTheHost part node) s = .next s := by
  change execKilledByTheHost part node s = _
  rw [execKilledByTheHost, h]
  exact congrArg Host.Outcome.next (if_pos he)

/-- The host's kill: the node is marked with STATE 3, and ends when nothing of it is left to wait for (R402, R403). -/
theorem exec_killedByTheHost (h : s.node? part node = some n) (he : n.phase ≠ .ended) : exec (.killedByTheHost part node) s =
    .next (let k := s.killNode n (s.hostNerr n)
      let m := { n with state := 3, nerr := s.hostNerr n }
      if k.nodeOver m = true ∧ k.endLocked m = false then k.endNode m else k) := by
  obtain ⟨rfl, rfl⟩ := State.node?_key h
  change execKilledByTheHost n.part n.index s = _
  rw [execKilledByTheHost, h]
  dsimp only
  rw [if_neg he, State.hostKill]
  rw [State.node?_killNode_self _ h]
  simp only [Bool.and_eq_true, Bool.not_eq_true']

/-! ## JOIN -/

theorem exec_join_of_none (h : s.nodeFor part node 11 false = none) : exec (.join part node) s = .next s := by
  change execJoin part node s = _
  rw [execJoin, h]

theorem exec_join (h : s.nodeFor part node 11 false = some n) : exec (.join part node) s =
    .next (if s.endLocked n = true then s else if n.ok = true then s.endNode { n with state := s.worstChild n }
      else s.endNode { n with state := 2, nerr := 1 }) := by
  change execJoin part node s = _
  rw [execJoin, h]

/-- What the command processor works on is the node of that number, and of that type. -/
theorem State.nodeFor_some {type : Nat} {going : Bool} (h : s.nodeFor part node type going = some n) :
    s.node? part node = some n ∧ n.type = type := by
  rw [State.nodeFor, Option.filter_eq_some_iff] at h
  obtain ⟨hn, hp⟩ := h
  simp only [Bool.and_eq_true, decide_eq_true_eq, and_assoc] at hp
  exact ⟨hn, hp.1⟩

/-- The STATE of a JOIN is the worst of its children's. -/
theorem State.worstChild_eq (s : State) (n : Node) : s.worstChild n =
    (let kids := n.children.filterMap fun i => (s.node? n.part i).map (·.state)
      if 2 ∈ kids then 2 else if 3 ∈ kids then 3 else 1) := by
  simp only [State.worstChild, List.contains_iff_mem]

/-! ## The ends of nodes -/

/-- A node that is no KERNEL and no JOIN ends with its status word written and nothing else in memory. -/
theorem State.endNode_mem_of_plain (h1 : n.type ≠ 1) (h11 : n.type ≠ 11) :
    (s.endNode n).mem = (statusWritten s n (n.state + n.nerr * 2 ^ 8) 0).mem := by
  rw [(State.endNode_of_no_kill (State.endKills_of_not_kernel h1)).1, State.endWrites_of_plain h1 h11]

/-- A successor that has ended, or whose counter is zero, stays as it is. -/
theorem State.endNode_succ_of_error {j : Nat} {m : Node} (h1 : n.type ≠ 1) (hj : n.succs = [j]) (hne : j ≠ n.index)
    (hm : s.node? n.part j = some m) (he : m.phase = .ended ∨ m.counter = 0) : (s.endNode n).node? n.part j = some m := by
  have hm' : (s.endMarked n).node? n.part j = some m := (State.endMarked_node?_of_ne fun e => hne e.2.symm).trans hm
  obtain ⟨code, e⟩ := State.decrement_of_error hm' he
  rw [State.endNode_node?_succ h1 hj, e, State.graphError_node?, hm']

/-- A successor with a counter above zero is decremented, and dispatched when its counter reaches zero. -/
theorem State.endNode_succ_of_counts {j : Nat} {m : Node} (h1 : n.type ≠ 1) (hj : n.succs = [j]) (hne : j ≠ n.index)
    (hm : s.node? n.part j = some m) (hp : m.phase ≠ .ended) (hc : m.counter ≠ 0) : (s.endNode n).node? n.part j = some { m with
      counter := m.counter - 1,
      phase := if m.counter = 1 ∧ m.phase = .appended ∧ s.dispatches n.part = true then .dispatched else m.phase } := by
  have hm' : (s.endMarked n).node? n.part j = some m := (State.endMarked_node?_of_ne fun e => hne e.2.symm).trans hm
  obtain ⟨hmp, hmi⟩ := State.node?_key hm
  rw [State.endNode_node?_succ h1 hj, State.decrement_of_counts hm' hp hc, State.endMarked_dispatches]
  subst hmi
  rw [← hmp] at hm' ⊢
  exact State.node?_setNode_self (n := { m with
    counter := m.counter - 1, phase := if m.counter = 1 ∧ m.phase = .appended ∧ s.dispatches m.part = true then .dispatched else m.phase }) hm'

/-- A KERNEL whose launch kills no siblings ends with its launch's verdict written, and without the launch. -/
theorem State.endNode_of_launch {l : Launch} (h : s.nodeLaunch n = some l) (hf : l.fpol = false) :
    (s.endNode n).mem = (statusWritten s n (kernelWord l) l.tarns.toNat).mem ∧ ∀ x ∈ (s.endNode n).launches, x.id ≠ l.id := by
  obtain ⟨em, el⟩ := State.endNode_of_no_kill (State.endKills_of_policy h hf)
  rw [em, el, State.endWrites_of_launch h]
  exact ⟨rfl, State.endMarked_launches h⟩

/-- A JOIN ends with its status word and its wake written. -/
theorem State.endNode_mem_of_join (h : n.type = 11) : (s.endNode n).mem =
    (let u := statusWritten s n (n.state + n.nerr * 2 ^ 8) 0
      if n.body 0 8 = 0 then u else u.hubWrite n.part (n.body 0 8) (leBytes 8 (n.body 8 8))).mem := by
  rw [(State.endNode_of_no_kill (State.endKills_of_not_kernel (by omega))).1, State.endWrites_of_join h]

end Sys2Proof.Machine
end

section
/-! GAPPEND (R394, R403): what the append of one node does, and of a range of them. -/

namespace Sys2Proof.Machine

variable {s u v : State} {part i j : Nat} {m : Node}

/-! ## One node -/

/-- The node that an append makes: as the hub reads it, with the decrements held for it taken off its counter (R403). -/
def State.appendedNode (s : State) (part i : Nat) : Node :=
  let bytes := ((s.hubTouch part (s.slotAddr part i) 128).hubRead part (s.slotAddr part i) 128).getD []
  let c := leNat ((bytes.drop 2).take 2) - ((s.held.find? (·.1 = (part, i))).map (·.2)).getD 0
  { part := part, index := i, bytes := bytes, counter := c, issued := 0,
    phase := if c = 0 ∧ s.dispatches part = true then .dispatched else .appended, state := 0, nerr := 0 }

theorem State.appendedNode_bytes (s : State) (part i : Nat) : (s.appendedNode part i).bytes =
    ((s.hubTouch part (s.slotAddr part i) 128).hubRead part (s.slotAddr part i) 128).getD [] := rfl

/-- The read of the node, and the graph error when more decrements are held than the node awaits. -/
def State.appendRead (s : State) (part i : Nat) : State :=
  let u := s.hubTouch part (s.slotAddr part i) 128
  if leNat (((s.appendedNode part i).bytes.drop 2).take 2) < ((s.held.find? (·.1 = (part, i))).map (·.2)).getD 0 then u.graphError part 2 i else u

theorem State.appendRead_eq (s : State) (part i : Nat) :
    s.appendRead part i = s.hubTouch part (s.slotAddr part i) 128 ∨
      s.appendRead part i = (s.hubTouch part (s.slotAddr part i) 128).graphError part 2 i := by
  unfold State.appendRead
  extract_lets u
  split
  · exact .inr rfl
  · exact .inl rfl

theorem State.appendNode_eq (s : State) (part i : Nat) : s.appendNode part i = { s.appendRead part i with
    nodes := (s.appendRead part i).nodes.filter (fun n => !(n.part = part && n.index = i)) ++ [s.appendedNode part i],
    held := (s.appendRead part i).held.filter (·.1 ≠ (part, i)) } := by
  have h : s.HubAccess false (s.hubTouch part (s.slotAddr part i) 128) := .hubTouch (.refl s)
  unfold State.appendNode State.appendRead State.appendedNode
  simp only [h.slotAddr, h.held, h.dispatches, Bool.and_eq_true, decide_eq_true_eq]

/-- What appending nodes of a partition leaves alone: strands, commands, and the VFs' registers but for GERR. -/
structure State.Appends (part : Nat) (s u : State) : Prop where
  strand : u.strand = s.strand
  parked : u.parked = s.parked
  cmds : u.cmds = s.cmds
  regs : ∀ a, vfBase ≤ a → a ≠ vfAddr part 0x20 → u.reg64 a = s.reg64 a

theorem State.Appends.dispatches (h : s.Appends part u) : u.dispatches part = s.dispatches part := by
  have hne : vfAddr part 0x08 ≠ vfAddr part 0x20 := by simp only [vfAddr_eq]; omega
  simp only [State.dispatches, h.regs _ (vfBase_le_vfAddr _ _) hne]

theorem State.Appends.trans (h : s.Appends part u) (h' : u.Appends part v) : s.Appends part v :=
  ⟨h'.strand.trans h.strand, h'.parked.trans h.parked, h'.cmds.trans h.cmds, fun a ha hne => (h'.regs a ha hne).trans (h.regs a ha hne)⟩

theorem State.Appends.graphError (h : s.Appends part u) {code index : Nat} : s.Appends part (u.graphError part code index) := by
  obtain e | ⟨v, e⟩ := u.graphError_eq part code index <;> rw [e]
  · exact h
  · exact ⟨h.strand, h.parked, h.cmds, fun a ha hne => (State.reg64_setReg64_of_ne u _ hne).trans (h.regs a ha hne)⟩

theorem State.Appends.appendRead : s.Appends part (s.appendRead part i) := by
  have h : s.HubAccess false (s.hubTouch part (s.slotAddr part i) 128) := .hubTouch (.refl s)
  obtain ⟨hs, hp, hc⟩ := h.actors rfl
  have ht : s.Appends part (s.hubTouch part (s.slotAddr part i) 128) := ⟨hs, hp, hc, fun a ha _ => h.regs a ha⟩
  obtain e | e := s.appendRead_eq part i
  · rwa [e]
  · rw [e]
    exact ht.graphError

theorem State.Appends.appendNode : s.Appends part (s.appendNode part i) := by
  have h : s.Appends part (s.appendRead part i) := .appendRead
  have hdev : (s.appendNode part i).dev = (s.appendRead part i).dev := by rw [State.appendNode_eq]
  refine ⟨?_, ?_, ?_, fun a ha hne => ?_⟩
  · rw [State.appendNode_eq, ← h.strand]
  · rw [State.appendNode_eq, ← h.parked]
  · rw [State.appendNode_eq, ← h.cmds]
  · rw [← h.regs a ha hne, State.reg64, State.reg64, hdev]

theorem State.appendRead_graph (s : State) (part i : Nat) :
    (s.appendRead part i).nodes = s.nodes ∧ (s.appendRead part i).held = s.held := by
  have h : s.HubAccess false (s.hubTouch part (s.slotAddr part i) 128) := .hubTouch (.refl s)
  obtain e | e := s.appendRead_eq part i
  · rw [e]
    exact ⟨h.nodes, h.held⟩
  · obtain ⟨en, eh⟩ := (s.hubTouch part (s.slotAddr part i) 128).graphError_graph part 2 i
    rw [e]
    exact ⟨en.trans h.nodes, eh.trans h.held⟩

theorem State.appendNode_nodes (s : State) (part i : Nat) :
    (s.appendNode part i).nodes = s.nodes.filter (fun n => !(n.part = part && n.index = i)) ++ [s.appendedNode part i] := by
  rw [State.appendNode_eq, ← (s.appendRead_graph part i).1]

theorem State.appendNode_held (s : State) (part i : Nat) : (s.appendNode part i).held = s.held.filter (·.1 ≠ (part, i)) := by
  rw [State.appendNode_eq, ← (s.appendRead_graph part i).2]

theorem State.node?_appendNode_self : (s.appendNode part i).node? part i = some (s.appendedNode part i) := by
  have hnone : (s.nodes.filter (fun n => !(n.part = part && n.index = i))).find? (fun n => n.part = part && n.index = i) = none := by
    rw [List.find?_eq_none]
    intro n hn
    simpa [← not_and_or] using (List.mem_filter.mp hn).2
  have hself : ((s.appendedNode part i).part = part && (s.appendedNode part i).index = i) = true := by simp [State.appendedNode]
  rw [State.node?, State.appendNode_nodes, List.find?_append, hnone, Option.none_or, List.find?_singleton, if_pos hself]

theorem State.node?_appendNode_of_ne (h : j ≠ i) : (s.appendNode part i).node? part j = s.node? part j := by
  have hother : ((s.appendedNode part i).part = part && (s.appendedNode part i).index = j) = false := by
    simp [State.appendedNode, Ne.symm h]
  have hp : (fun n : Node => decide ((!(n.part = part && n.index = i)) = true ∧ (n.part = part && n.index = j) = true)) =
      fun n : Node => decide (n.part = part) && decide (n.index = j) := by
    funext n
    by_cases hn : n.index = j
    · simp [hn, h]
    · simp [hn]
  rw [State.node?, State.appendNode_nodes, List.find?_append, List.find?_singleton, hother, List.find?_filter, hp]
  simp [State.node?]

/-- The decrements held for other nodes stay held. -/
theorem State.find_held_appendNode_of_ne (h : j ≠ i) :
    (s.appendNode part i).held.find? (·.1 = (part, j)) = s.held.find? (·.1 = (part, j)) := by
  have hp : (fun x : (Nat × Nat) × Nat => decide (decide (x.1 ≠ (part, i)) = true ∧ decide (x.1 = (part, j)) = true)) = fun x => decide (x.1 = (part, j)) := by
    funext x
    by_cases hx : x.1 = (part, j)
    · simp [hx, h]
    · simp [hx]
  rw [State.appendNode_held, List.find?_filter, hp]

/-! ## A range of nodes -/

/-- `m` is a node just appended: nothing has been done of it, the decrements held for it in `s` are off its counter, and it is dispatched at 0. -/
structure State.Fresh (s : State) (part i : Nat) (m : Node) : Prop where
  state : m.state = 0
  issued : m.issued = 0
  counter : m.counter = leNat ((m.bytes.drop 2).take 2) - ((s.held.find? (·.1 = (part, i))).map (·.2)).getD 0
  phase : m.phase = if m.counter = 0 ∧ s.dispatches part = true then .dispatched else .appended

theorem State.Fresh.appendedNode : s.Fresh part i (s.appendedNode part i) := ⟨rfl, rfl, rfl, rfl⟩

/-- What a node awaits does not turn on other nodes appended before it. -/
theorem State.Fresh.of_appendNode (h : (s.appendNode part i).Fresh part j m) (hne : j ≠ i) : s.Fresh part j m := by
  obtain ⟨h0, hi, hc, hp⟩ := h
  rw [State.find_held_appendNode_of_ne hne] at hc
  rw [State.Appends.appendNode.dispatches] at hp
  exact ⟨h0, hi, hc, hp⟩

/-- Append nodes of a partition in order. -/
def State.appendNodes (s : State) (part : Nat) (is : List Nat) : State := is.foldl (fun u i => u.appendNode part i) s

theorem State.Appends.appendNodes (is : List Nat) : s.Appends part (s.appendNodes part is) :=
  List.foldlRecOn is _ ⟨rfl, rfl, rfl, fun _ _ _ => rfl⟩ fun _ h _ _ => h.trans .appendNode

theorem State.node?_appendNodes_of_not_mem {is : List Nat} (h : j ∉ is) : (s.appendNodes part is).node? part j = s.node? part j := by
  refine List.foldlRecOn (motive := fun u => State.node? u part j = s.node? part j) is _ rfl fun u hu i hi => ?_
  exact (State.node?_appendNode_of_ne fun e : j = i => h (e ▸ hi)).trans hu

/-- The first of some nodes that differ is appended as the state before them has it. -/
theorem State.node?_appendNodes_head {is : List Nat} (h : i ∉ is) :
    (s.appendNodes part (i :: is)).node? part i = some (s.appendedNode part i) :=
  (State.node?_appendNodes_of_not_mem h).trans State.node?_appendNode_self

/-- Every one of some nodes that differ is appended. -/
theorem State.node?_appendNodes {is : List Nat} (hd : is.Nodup) (hj : j ∈ is) :
    ∃ m, (s.appendNodes part is).node? part j = some m ∧ s.Fresh part j m := by
  induction is generalizing s with
  | nil => cases hj
  | cons i is ih =>
    obtain ⟨hi, hd'⟩ := List.nodup_cons.mp hd
    by_cases e : j = i
    · subst e
      exact ⟨_, State.node?_appendNodes_head hi, .appendedNode⟩
    · obtain ⟨m, hm, hf⟩ := ih (s := s.appendNode part i) hd' ((List.mem_cons.mp hj).resolve_left e)
      exact ⟨m, hm, hf.of_appendNode e⟩

/-! ## The write of GTAIL -/

/-- The numbers that a write of GTAIL appends: as many as the tail rises by. -/
def State.appendNumbers (s : State) (part tail : Nat) : List Nat :=
  (List.range ((tail + 2 ^ 32 - getBits (s.reg64 (vfAddr part 0x10)) 0 32) % 2 ^ 32)).map fun k =>
    (getBits (s.reg64 (vfAddr part 0x10)) 0 32 + k) % 2 ^ 32

theorem State.nodup_appendNumbers (s : State) (part tail : Nat) : (s.appendNumbers part tail).Nodup := by
  refine List.Nodup.map_on (fun x hx y hy e => ?_) List.nodup_range
  have hx' := List.mem_range.mp hx
  have hy' := List.mem_range.mp hy
  omega

/-- The first number of an append that is not empty is the old tail. -/
theorem State.appendNumbers_head {tail : Nat} (h : 0 < (tail + 2 ^ 32 - getBits (s.reg64 (vfAddr part 0x10)) 0 32) % 2 ^ 32) :
    ∃ is, s.appendNumbers part tail = (getBits (s.reg64 (vfAddr part 0x10)) 0 32 + 0) % 2 ^ 32 :: is := by
  obtain ⟨k, hk⟩ := Nat.exists_eq_add_of_lt h
  rw [State.appendNumbers, hk, List.range_succ_eq_map]
  exact ⟨_, rfl⟩

/-- The tail is out of range: more than the buffer holds, or behind the old one. -/
def State.tailRefused (s : State) (part tail : Nat) : Prop :=
  2 ^ 31 ≤ (tail + 2 ^ 32 - getBits (s.reg64 (vfAddr part 0x10)) 0 32) % 2 ^ 32 ∨
    2 ^ getBits (s.reg64 (vfAddr part 0x08)) 0 5 < (tail + 2 ^ 32 - getBits (s.reg64 (vfAddr part 0x18)) 0 32) % 2 ^ 32

/-- The state after an append that nothing stops: the nodes appended and GTAIL written. -/
def State.appendedTo (s : State) (part : Nat) (tail : BitVec 32) : State :=
  (s.appendNodes part (s.appendNumbers part tail.toNat)).setReg64 (vfAddr part 0x10) (tail.setWidth 64)

theorem State.gappend_of_refused {tail : Nat} (h : s.tailRefused part tail) :
    s.gappend part tail = s.graphError part 1 (getBits (s.reg64 (vfAddr part 0x10)) 0 32) := by
  unfold State.gappend
  exact if_pos (by simpa [State.tailRefused] using h)

theorem State.gappend_of_stopped {tail : Nat} (h : ¬ s.tailRefused part tail)
    (hs : ∃ i ∈ s.appendNumbers part tail, s.hubStopped part (s.slotAddr part i) 128 = true) :
    s.gappend part tail = s.setField (vfAddr part 0x10) 32 32 ((tail + 2 ^ 32 - getBits (s.reg64 (vfAddr part 0x10)) 0 32) % 2 ^ 32) := by
  unfold State.gappend
  refine (if_neg (by simpa [State.tailRefused] using h)).trans (if_pos ?_)
  rwa [State.appendNumbers, ← List.any_eq_true, List.any_map] at hs

theorem State.gappend_of_open {tail : BitVec 32} (h : ¬ s.tailRefused part tail.toNat)
    (hs : ∀ i ∈ s.appendNumbers part tail.toNat, s.hubStopped part (s.slotAddr part i) 128 = false) :
    s.gappend part tail.toNat = s.appendedTo part tail := by
  have hn : (s.appendNumbers part tail.toNat).any (fun i => s.hubStopped part (s.slotAddr part i) 128) = false := by
    simpa only [List.any_eq_false, Bool.not_eq_true] using hs
  have hw : tail.setWidth 64 = BitVec.ofNat 64 (tail.toNat % 2 ^ 32) := by rw [Nat.mod_eq_of_lt tail.isLt, BitVec.ofNat_toNat]
  rw [State.appendNumbers, List.any_map] at hn
  rw [State.appendedTo, State.appendNodes, State.appendNumbers, List.foldl_map, hw]
  unfold State.gappend
  exact (if_neg (by simpa [State.tailRefused] using h)).trans (if_neg (by rw [Bool.not_eq_true]; exact hn))

section
variable {tail : BitVec 32}

theorem State.reg64_appendedTo : (s.appendedTo part tail).reg64 (vfAddr part 0x10) = tail.setWidth 64 :=
  State.reg64_setReg64_self _ _ _

theorem State.node?_setReg64 (s : State) (a : Nat) (v : Word) (p i : Nat) : (s.setReg64 a v).node? p i = s.node? p i := rfl

theorem State.appendedTo_keeps : (s.appendedTo part tail).strand = s.strand ∧ (s.appendedTo part tail).parked = s.parked ∧
    (s.appendedTo part tail).cmds = s.cmds := by
  have keeps (u : State) (a : Nat) (v : Word) :
      (u.setReg64 a v).strand = u.strand ∧ (u.setReg64 a v).parked = u.parked ∧ (u.setReg64 a v).cmds = u.cmds := ⟨rfl, rfl, rfl⟩
  have ha : s.Appends part (s.appendNodes part (s.appendNumbers part tail.toNat)) := .appendNodes _
  obtain ⟨hs, hp, hc⟩ := keeps (s.appendNodes part (s.appendNumbers part tail.toNat)) (vfAddr part 0x10) (tail.setWidth 64)
  exact ⟨hs.trans ha.strand, hp.trans ha.parked, hc.trans ha.cmds⟩

theorem State.node?_appendedTo (h : j ∈ s.appendNumbers part tail.toNat) :
    ∃ m, (s.appendedTo part tail).node? part j = some m ∧ s.Fresh part j m := by
  rw [State.appendedTo, State.node?_setReg64]
  exact State.node?_appendNodes (s.nodup_appendNumbers part tail.toNat) h

/-- The first node of an append is read before anything is appended. -/
theorem State.node?_appendedTo_first (h : 0 < (tail.toNat + 2 ^ 32 - getBits (s.reg64 (vfAddr part 0x10)) 0 32) % 2 ^ 32) :
    (s.appendedTo part tail).node? part ((getBits (s.reg64 (vfAddr part 0x10)) 0 32 + 0) % 2 ^ 32) =
      some (s.appendedNode part ((getBits (s.reg64 (vfAddr part 0x10)) 0 32 + 0) % 2 ^ 32)) := by
  obtain ⟨is, e⟩ := State.appendNumbers_head h
  have hd := s.nodup_appendNumbers part tail.toNat
  rw [e] at hd
  rw [State.appendedTo, State.node?_setReg64, e, State.node?_appendNodes_head (List.nodup_cons.mp hd).1]

end

theorem exec_gAppend {tail : BitVec 32} (hp : part < 32) : exec (.gAppend part tail) s = .next (s.gappend part tail.toNat) := by
  change execGAppend part tail s = _
  rw [execGAppend, if_pos hp]

end Sys2Proof.Machine
end

section
open Sys2Proof Sys2Proof.Machine Sys2Proof.Claims

/-- Settles O56: NODE_END and the host's kill by the node's state, the end of a node stage by stage, and GAPPEND by induction over the nodes that
it appends. -/
theorem nodesEnd : Obligations.NodesEnd := by
  refine ⟨fun part node s => ⟨fun h => ⟨exec_nodeEnd_of_none h, exec_killedByTheHost_of_none h⟩, fun n h => ?_⟩, fun n s h => ?_,
    fun part node s => ⟨exec_join_of_none, fun n h => ?_⟩, fun part tail s hp => ?_⟩
  · obtain ⟨hpart, hnode⟩ := State.node?_key h
    refine ⟨fun he => ⟨?_, exec_killedByTheHost_of_ended h he⟩, fun hl => ?_, fun he hl ho => ?_, fun hd hl ho hs ht => ?_,
      fun _ ho hn => exec_nodeEnd_stays h ho hn, fun he => ⟨?_, State.hostNerr_of_ne_five, ?_⟩⟩
    · rw [exec_nodeEnd h, if_pos (.inl he)]
    · rw [exec_nodeEnd h, if_pos (.inr hl)]
    · rw [exec_nodeEnd h, if_neg (by simp [he, hl]), if_pos ho]
    · rw [exec_nodeEnd h, if_neg (by simp [hd, hl]), if_neg (by simp [ho]), if_pos ⟨hd, hs, ht⟩]
    · rw [← hpart, ← hnode]
      exact s.hostNerr_eq_five_iff n
    · refine ⟨{ n with state := 3, nerr := s.hostNerr n }, ?_, rfl, rfl, exec_killedByTheHost h he⟩
      rw [← hpart, ← hnode] at h ⊢
      exact State.node?_killNode_self _ h
  · refine ⟨State.EndedAt.endNode h, fun h1 h11 => ⟨State.endNode_mem_of_plain h1 h11, fun j m hj hne hm => ⟨?_, fun hp hc => ?_⟩⟩,
      fun l hl hf => State.endNode_of_launch hl hf⟩
    · exact State.endNode_succ_of_error h1 hj hne hm
    · exact ⟨_, State.endNode_succ_of_counts h1 hj hne hm hp hc, rfl, rfl, rfl⟩
  · obtain ⟨hn, ht⟩ := State.nodeFor_some h
    refine ⟨fun hl => ?_, fun hl ho => ?_, fun hl ho => ?_⟩
    · rw [exec_join h, if_pos hl]
    · rw [exec_join h, if_neg (by simp [hl]), if_neg (by simp [ho])]
    · obtain ⟨rfl, rfl⟩ := State.node?_key hn
      intro kids worst
      have hw : s.worstChild n = worst := s.worstChild_eq n
      have he : exec (.join n.part n.index) s = .next (s.endNode { n with state := worst }) := by
        rw [exec_join h, if_neg (by simp [hl]), if_pos ho, hw]
      exact ⟨_, he, rfl, State.EndedAt.endNode (n := { n with state := worst }) hn, State.endNode_mem_of_join (n := { n with state := worst }) ht⟩
  · intro old lg n room i
    rw [exec_gAppend hp]
    refine ⟨fun h => congrArg _ (State.gappend_of_refused h), fun hn hr => ?_⟩
    have hok : ¬ s.tailRefused part tail.toNat := by
      rintro (h | h)
      · exact absurd hn (Nat.not_lt.mpr h)
      · exact absurd hr (Nat.not_le.mpr h)
    have hmem {k : Nat} (hk : k < n) : i k ∈ s.appendNumbers part tail.toNat := List.mem_map_of_mem (List.mem_range.mpr hk)
    refine ⟨fun ⟨k, hk, hs⟩ => congrArg _ (State.gappend_of_stopped hok ⟨i k, hmem hk, hs⟩), fun hs => ?_⟩
    have hopen : ∀ j ∈ s.appendNumbers part tail.toNat, s.hubStopped part (s.slotAddr part j) 128 = false := by
      intro j hj
      obtain ⟨k, hk, rfl⟩ := List.mem_map.mp hj
      exact hs k (List.mem_range.mp hk)
    obtain ⟨hstrand, hparked, hcmds⟩ := State.appendedTo_keeps (s := s) (part := part) (tail := tail)
    refine ⟨s.appendedTo part tail, congrArg _ (State.gappend_of_open hok hopen), State.reg64_appendedTo, hstrand, hparked, hcmds,
      fun m h0 hm => ?_, fun k hk => ?_⟩
    · have hfirst : (s.appendedTo part tail).node? part (i 0) = some (s.appendedNode part (i 0)) := State.node?_appendedTo_first h0
      rw [hfirst] at hm
      rw [← Option.some.inj hm]
      exact s.appendedNode_bytes part (i 0)
    · obtain ⟨m, hm, hstate, hissued, hcounter, hphase⟩ := State.node?_appendedTo (hmem hk)
      exact ⟨m, hm, hstate, hissued, hcounter, hphase⟩

end

section
/-! Vector arithmetic, one-source forms, reductions and element moves (R181 to R198), and why O30, O31, O35 and O36 do not hold of every state.
All four say of a predicated form that no mask changes, under premises that `twinCommands` meets (as for O33): there the form observes the
chunk that its governing mask k1 shows, finds the other command of that number, and stops it, which tells that command's chunk in k2. -/

namespace Sys2Proof.Machine
open Sys2Proof.Claims

/-- One predicated form of each family, over v0, which is empty in `twinCommands`. -/
def emptyForms : List Instr :=
  [.vadd 0 0 0 false false true, .vabs 0 0 false true, .vredsum 0 0 false true, .vslide 0 0 0 false true]

/-- Each ends with the chunk of k2 told, though no field of it names k2. -/
theorem emptyForms_tell : ∀ i ∈ emptyForms, firstBitOfK2 (exec i twinCommands) = some true := by decide +kernel

theorem emptyForms_change_masks {i : Instr} {t : State} (hi : i ∈ emptyForms) (ht : exec i twinCommands = .next t) :
    t.strand.masks ≠ twinCommands.strand.masks := by
  intro hmasks
  have htold : firstBitOfK2 (.next t) = some true := ht ▸ emptyForms_tell i hi
  have hkept : t.strand.mask 2 = twinCommands.strand.mask 2 := by rw [Strand.mask, Strand.mask, hmasks]
  rw [firstBitOfK2, hkept, twinCommands_k2] at htold
  cases htold

/-- The masks stand after what a walk is claimed to leave. -/
theorem masks_of_walkDone {s t : State} {d : BitVec 7} {w : Walk} (h : WalkDone s d w t) : t.strand.masks = s.strand.masks := by
  obtain ⟨-, hmasks, -⟩ := h
  exact hmasks

end Sys2Proof.Machine
end

section
open Sys2Proof Sys2Proof.Machine

/-- Refutes O30: in `twinCommands`, where two commands have one number, a VADD under k1 changes k2. -/
theorem not_vectorArithmeticCompletes : ¬ Obligations.VectorArithmeticCompletes := by
  rintro ⟨hbinary, -⟩
  obtain ⟨t, ht, hdone⟩ := hbinary _ (.head _) 0 0 0 false false true twinCommands twinCommands_useOk twinCommands_useOk twinCommands_useOk
    twinCommands_fresh twinCommands_maskFree
  exact emptyForms_change_masks (by decide) ht (masks_of_walkDone hdone)

/-- Refutes O31: in `twinCommands`, where two commands have one number, a VABS under k1 changes k2. -/
theorem not_vectorUnaryCompletes : ¬ Obligations.VectorUnaryCompletes := by
  rintro ⟨hunary, -⟩
  obtain ⟨t, ht, hdone⟩ := hunary _ (.head _) 0 0 false true twinCommands twinCommands_useOk twinCommands_useOk twinCommands_fresh
    twinCommands_maskFree
  exact emptyForms_change_masks (by decide) ht (masks_of_walkDone hdone)

/-- Refutes O35: in `twinCommands`, where two commands have one number, a VREDSUM under k1 changes k2. -/
theorem not_reductionsComplete : ¬ Obligations.ReductionsComplete := by
  rintro ⟨hreduce, -⟩
  obtain ⟨t, ht, -, hmasks, -⟩ := hreduce _ (.head _) 0 0 false true twinCommands twinCommands_useOk twinCommands_useOk twinCommands_fresh
    twinCommands_maskFree
  exact emptyForms_change_masks (by decide) ht hmasks

/-- Refutes O36: in `twinCommands`, where two commands have one number, a VSLIDE under k1 changes k2. -/
theorem not_elementMovesComplete : ¬ Obligations.ElementMovesComplete := by
  rintro ⟨⟨-, hslide, -⟩, -⟩
  obtain ⟨⟨t, ht, hdone⟩, -⟩ := hslide 0 0 0 false true twinCommands twinCommands_useOk twinCommands_useOk twinCommands_fresh
    twinCommands_maskFree
  exact emptyForms_change_masks (by decide) ht (masks_of_walkDone hdone)

end

section
/-! A word has one meaning (R61 to R76). Whatever a decoder accepts encodes to the same word: each format's packing takes a word's fields back to
the word, and the decoder's test of ranges is well-formedness itself. One lemma per major that has several instructions. The section turns off
Elab.async, since its many short proofs otherwise start more threads than the sandbox allows. -/

namespace Sys2Proof.Laws

set_option Elab.async false

/-- The instruction that a decoder's answer for `w` gives, if it gives one, is well-formed, and its word is `w`. -/
def Reencodes (w : BitVec 32) (r : Except Reject Instr) : Prop := ∀ i, r = .ok i → i.wf = true ∧ encode i = some w

theorem Reencodes.error {w : BitVec 32} {e : Reject} : Reencodes w (.error e) := nofun

variable {w : BitVec 32} {reserved bits range : Bool} {i : Instr}

/-- An answer behind the checks of R76: the range test has to be well-formedness, and the other two have to make the word the instruction's. -/
theorem Reencodes.of_checked {v : BitVec 32} (hword : encode i = some v) (hrange : range = i.wf)
    (hfields : reserved = true → bits = true → v = w) : Reencodes w (checked reserved bits range i) := by
  intro j hj
  unfold checked at hj
  split_ifs at hj with hreserved hbits hrange'
  cases hj
  exact ⟨hrange ▸ hrange', hfields hreserved hbits ▸ hword⟩

/-! ## One rule per format: the fields that choose the instruction are given, the others follow from the checks. -/

/-- A word whose reserved bits of SHI are zero is its fields of that form, packed. -/
theorem packS_of_fields (hres : shResF w = 0) : packS (opF w) (dF w) (aF w) (shSelF w) (amtF w) = w := by
  have hword : opF w ++ dF w ++ aF w ++ shSelF w ++ shResF w ++ amtF w = w := by
    ext i hi
    simp only [opF, dF, aF, shSelF, shResF, amtF, ← BitVec.getLsbD_eq_getElem, BitVec.getLsbD_append, BitVec.getLsbD_extractLsb']
    interval_cases i <;> simp
  rwa [hres] at hword

theorem Reencodes.formatR {op : BitVec 6} {d a b : BitVec 7} {fn : BitVec 5}
    (hword : encode i = some (packR op d a b fn)) (hrange : range = i.wf) (hop : (opF w).toNat = op.toNat) (hfn : (fnF w).toNat = fn.toNat)
    (hfields : reserved = true → bits = true → dF w = d ∧ aF w = a ∧ bF w = b := by simp +contextual) :
    Reencodes w (checked reserved bits range i) := by
  refine .of_checked hword hrange fun hr hb => ?_
  obtain ⟨rfl, rfl, rfl⟩ := hfields hr hb
  rw [← BitVec.eq_of_toNat_eq hop, ← BitVec.eq_of_toNat_eq hfn]
  exact packR_of_fields w

theorem Reencodes.formatI {op : BitVec 6} {d a : BitVec 7} {imm : BitVec 12}
    (hword : encode i = some (packI op d a imm)) (hrange : range = i.wf) (hop : (opF w).toNat = op.toNat)
    (hfields : reserved = true → bits = true → dF w = d ∧ aF w = a ∧ immF w = imm := by simp +contextual) :
    Reencodes w (checked reserved bits range i) := by
  refine .of_checked hword hrange fun hr hb => ?_
  obtain ⟨rfl, rfl, rfl⟩ := hfields hr hb
  rw [← BitVec.eq_of_toNat_eq hop]
  exact packI_of_fields w

theorem Reencodes.formatS {op : BitVec 6} {d a : BitVec 7} {sel : BitVec 2} {amt : BitVec 6}
    (hword : encode i = some (packS op d a sel amt)) (hrange : range = i.wf) (hop : (opF w).toNat = op.toNat) (hsel : (shSelF w).toNat = sel.toNat)
    (hfields : reserved = true → bits = true → shResF w = 0 ∧ dF w = d ∧ aF w = a ∧ amtF w = amt := by simp +contextual) :
    Reencodes w (checked reserved bits range i) := by
  refine .of_checked hword hrange fun hr hb => ?_
  obtain ⟨hres, rfl, rfl, rfl⟩ := hfields hr hb
  rw [← BitVec.eq_of_toNat_eq hop, ← BitVec.eq_of_toNat_eq hsel]
  exact packS_of_fields hres

theorem Reencodes.formatU {op : BitVec 6} {d : BitVec 7} {imm : BitVec 19}
    (hword : encode i = some (packU op d imm)) (hrange : range = i.wf) (hop : (opF w).toNat = op.toNat)
    (hfields : reserved = true → bits = true → dF w = d ∧ imm19F w = imm := by simp +contextual) :
    Reencodes w (checked reserved bits range i) := by
  refine .of_checked hword hrange fun hr hb => ?_
  obtain ⟨rfl, rfl⟩ := hfields hr hb
  rw [← BitVec.eq_of_toNat_eq hop]
  exact packU_of_fields w

theorem Reencodes.formatM {op : BitVec 6} {d a : BitVec 7} {sz : BitVec 3} {off : BitVec 9}
    (hword : encode i = some (packM op d a sz off)) (hrange : range = i.wf) (hop : (opF w).toNat = op.toNat) (hsz : (szF w).toNat = sz.toNat)
    (hfields : reserved = true → bits = true → dF w = d ∧ aF w = a ∧ off9F w = off := by simp +contextual) :
    Reencodes w (checked reserved bits range i) := by
  refine .of_checked hword hrange fun hr hb => ?_
  obtain ⟨rfl, rfl, rfl⟩ := hfields hr hb
  rw [← BitVec.eq_of_toNat_eq hop, ← BitVec.eq_of_toNat_eq hsz]
  exact packM_of_fields w

theorem Reencodes.formatA {op : BitVec 6} {d a : BitVec 7} {sz sc : BitVec 3} {off : BitVec 6}
    (hword : encode i = some (packA op d a sz sc off)) (hrange : range = i.wf) (hop : (opF w).toNat = op.toNat) (hsz : (szF w).toNat = sz.toNat)
    (hfields : reserved = true → bits = true → dF w = d ∧ aF w = a ∧ scF w = sc ∧ off6F w = off := by simp +contextual) :
    Reencodes w (checked reserved bits range i) := by
  refine .of_checked hword hrange fun hr hb => ?_
  obtain ⟨rfl, rfl, rfl, rfl⟩ := hfields hr hb
  rw [← BitVec.eq_of_toNat_eq hop, ← BitVec.eq_of_toNat_eq hsz]
  exact packA_of_fields w

theorem Reencodes.formatJ {op : BitVec 6} {off : BitVec 26}
    (hword : encode i = some (packJ op off)) (hrange : range = i.wf) (hop : (opF w).toNat = op.toNat)
    (hfields : reserved = true → bits = true → off26F w = off := by simp +contextual) :
    Reencodes w (checked reserved bits range i) := by
  refine .of_checked hword hrange fun hr hb => ?_
  obtain ⟨rfl⟩ := hfields hr hb
  rw [← BitVec.eq_of_toNat_eq hop]
  exact packJ_of_fields w

theorem Reencodes.formatV {op : BitVec 6} {d a b : BitVec 7} {ca cb mk : Bool} {fn : BitVec 2}
    (hword : encode i = some (packV op d a b ca cb mk fn)) (hrange : range = i.wf) (hop : (opF w).toNat = op.toNat) (hfn : (vfF w).toNat = fn.toNat)
    (hfields : reserved = true → bits = true → dF w = d ∧ aF w = a ∧ bF w = b ∧ caF w = ca ∧ cbF w = cb ∧ mkF w = mk := by simp +contextual) :
    Reencodes w (checked reserved bits range i) := by
  refine .of_checked hword hrange fun hr hb => ?_
  obtain ⟨rfl, rfl, rfl, rfl, rfl, rfl⟩ := hfields hr hb
  rw [← BitVec.eq_of_toNat_eq hop, ← BitVec.eq_of_toNat_eq hfn]
  exact packV_of_fields w

/-! ## One lemma per major that has several instructions -/

/-- The four functions of format V, and the four selectors of SHI. -/
theorem toNat_cases2 (x : BitVec 2) : x.toNat = 0 ∨ x.toNat = 1 ∨ x.toNat = 2 ∨ x.toNat = 3 := by
  have := x.isLt
  omega

theorem Reencodes.decode01 (hop : (opF w).toNat = 0x01) : Reencodes w (decode01 w) := by
  unfold Sys2Proof.decode01
  split
  iterate 21 next hf => exact .formatR rfl rfl hop hf
  exact .error

theorem Reencodes.decode02 (hop : (opF w).toNat = 0x02) : Reencodes w (decode02 w) := by
  unfold Sys2Proof.decode02
  split
  iterate 8 next hf => exact .formatR rfl rfl hop hf
  exact .error

theorem Reencodes.decode03 (hop : (opF w).toNat = 0x03) : Reencodes w (decode03 w) := by
  unfold Sys2Proof.decode03
  split
  iterate 8 next hf => exact .formatR rfl rfl hop hf
  exact .error

theorem Reencodes.decode0A (hop : (opF w).toNat = 0x0A) : Reencodes w (decode0A w) := by
  rcases toNat_cases2 (shSelF w) with hf | hf | hf | hf <;>
  · rw [Sys2Proof.decode0A, hf]
    exact .formatS rfl rfl hop hf

theorem Reencodes.decode0D (hop : (opF w).toNat = 0x0D) : Reencodes w (decode0D w) := by
  unfold Sys2Proof.decode0D
  split
  iterate 7 next hf => exact .formatM rfl rfl hop hf
  exact .error

theorem Reencodes.decode0E (hop : (opF w).toNat = 0x0E) : Reencodes w (decode0E w) := by
  unfold Sys2Proof.decode0E
  split
  iterate 4 next hf => exact .formatM rfl rfl hop hf
  exact .error

theorem Reencodes.decode0F (hop : (opF w).toNat = 0x0F) : Reencodes w (decode0F w) := by
  unfold Sys2Proof.decode0F
  split
  iterate 8 next hf => exact .formatA rfl rfl hop hf
  exact .error

theorem Reencodes.decode10 (hop : (opF w).toNat = 0x10) : Reencodes w (decode10 w) := by
  unfold Sys2Proof.decode10
  split
  iterate 24 next hf => exact .formatR rfl rfl hop hf
  exact .error

theorem Reencodes.decode1B (hop : (opF w).toNat = 0x1B) : Reencodes w (decode1B w) := by
  unfold Sys2Proof.decode1B
  split
  iterate 8 next hf => exact .formatR rfl rfl hop hf
  exact .error

theorem Reencodes.decode20 (hop : (opF w).toNat = 0x20) : Reencodes w (decode20 w) := by
  rcases toNat_cases2 (vfF w) with hf | hf | hf | hf <;>
  · rw [Sys2Proof.decode20, hf]
    exact .formatV rfl rfl hop hf

theorem Reencodes.decode21 (hop : (opF w).toNat = 0x21) : Reencodes w (decode21 w) := by
  rcases toNat_cases2 (vfF w) with hf | hf | hf | hf <;>
  · rw [Sys2Proof.decode21, hf]
    exact .formatV rfl rfl hop hf

theorem Reencodes.decode22 (hop : (opF w).toNat = 0x22) : Reencodes w (decode22 w) := by
  rcases toNat_cases2 (vfF w) with hf | hf | hf | hf <;>
  · rw [Sys2Proof.decode22, hf]
    exact .formatV rfl rfl hop hf

theorem Reencodes.decode23 (hop : (opF w).toNat = 0x23) : Reencodes w (decode23 w) := by
  rcases toNat_cases2 (vfF w) with hf | hf | hf | hf <;> rw [Sys2Proof.decode23, hf]
  · simp only
    split
    iterate 2 next hb => exact .formatV rfl rfl hop hf (by simp +contextual [← BitVec.toNat_inj, hb])
    exact .error
  all_goals exact .formatV rfl rfl hop hf

theorem Reencodes.decode24 (hop : (opF w).toNat = 0x24) : Reencodes w (decode24 w) := by
  rcases toNat_cases2 (vfF w) with hf | hf | hf | hf <;>
  · rw [Sys2Proof.decode24, hf]
    exact .formatV rfl rfl hop hf

theorem Reencodes.decode25 (hop : (opF w).toNat = 0x25) : Reencodes w (decode25 w) := by
  rcases toNat_cases2 (vfF w) with hf | hf | hf | hf <;>
  · rw [Sys2Proof.decode25, hf]
    exact .formatV rfl rfl hop hf

theorem Reencodes.decode26 (hop : (opF w).toNat = 0x26) : Reencodes w (decode26 w) := by
  rcases toNat_cases2 (vfF w) with hf | hf | hf | hf <;>
  · rw [Sys2Proof.decode26, hf]
    exact .formatV rfl rfl hop hf

theorem Reencodes.decode27 (hop : (opF w).toNat = 0x27) : Reencodes w (decode27 w) := by
  rcases toNat_cases2 (vfF w) with hf | hf | hf | hf <;>
  · rw [Sys2Proof.decode27, hf]
    exact .formatV rfl rfl hop hf

theorem Reencodes.decode28 (hop : (opF w).toNat = 0x28) : Reencodes w (decode28 w) := by
  rcases toNat_cases2 (vfF w) with hf | hf | hf | hf <;>
  · rw [Sys2Proof.decode28, hf]
    exact .formatV rfl rfl hop hf

theorem Reencodes.decode29 (hop : (opF w).toNat = 0x29) : Reencodes w (decode29 w) := by
  rcases toNat_cases2 (vfF w) with hf | hf | hf | hf <;>
  · rw [Sys2Proof.decode29, hf]
    exact .formatV rfl rfl hop hf

theorem Reencodes.decode2A (hop : (opF w).toNat = 0x2A) : Reencodes w (decode2A w) := by
  rcases toNat_cases2 (vfF w) with hf | hf | hf | hf <;>
  · rw [Sys2Proof.decode2A, hf]
    exact .formatV rfl rfl hop hf

theorem Reencodes.decode2B (hop : (opF w).toNat = 0x2B) : Reencodes w (decode2B w) := by
  rcases toNat_cases2 (vfF w) with hf | hf | hf | hf <;>
  · rw [Sys2Proof.decode2B, hf]
    exact .formatV rfl rfl hop hf

theorem Reencodes.decode2C (hop : (opF w).toNat = 0x2C) : Reencodes w (decode2C w) := by
  rcases toNat_cases2 (vfF w) with hf | hf | hf | hf <;> rw [Sys2Proof.decode2C, hf]
  case inr.inr.inr =>
    simp only
    split
    iterate 3 next hb => exact .formatV rfl rfl hop hf (by simp +contextual [← BitVec.toNat_inj, hb])
    exact .error
  all_goals exact .formatV rfl rfl hop hf

theorem Reencodes.decode2D (hop : (opF w).toNat = 0x2D) : Reencodes w (decode2D w) := by
  rcases toNat_cases2 (vfF w) with hf | hf | hf | hf <;>
  · rw [Sys2Proof.decode2D, hf]
    exact .formatV rfl rfl hop hf

theorem Reencodes.decode2E (hop : (opF w).toNat = 0x2E) : Reencodes w (decode2E w) := by
  rcases toNat_cases2 (vfF w) with hf | hf | hf | hf <;>
  · rw [Sys2Proof.decode2E, hf]
    exact .formatV rfl rfl hop hf

theorem Reencodes.decode30 (hop : (opF w).toNat = 0x30) : Reencodes w (decode30 w) := by
  rcases toNat_cases2 (vfF w) with hf | hf | hf | hf <;>
  · rw [Sys2Proof.decode30, hf]
    exact .formatV rfl rfl hop hf

theorem Reencodes.decode31 (hop : (opF w).toNat = 0x31) : Reencodes w (decode31 w) := by
  rcases toNat_cases2 (vfF w) with hf | hf | hf | hf <;>
  · rw [Sys2Proof.decode31, hf]
    exact .formatV rfl rfl hop hf

theorem Reencodes.decode32 (hop : (opF w).toNat = 0x32) : Reencodes w (decode32 w) := by
  rcases toNat_cases2 (vfF w) with hf | hf | hf | hf <;>
  · rw [Sys2Proof.decode32, hf]
    exact .formatV rfl rfl hop hf

theorem Reencodes.decode33 (hop : (opF w).toNat = 0x33) : Reencodes w (decode33 w) := by
  rcases toNat_cases2 (vfF w) with hf | hf | hf | hf <;>
  · rw [Sys2Proof.decode33, hf]
    exact .formatV rfl rfl hop hf

theorem Reencodes.decode34 (hop : (opF w).toNat = 0x34) : Reencodes w (decode34 w) := by
  rcases toNat_cases2 (vfF w) with hf | hf | hf | hf <;>
  · rw [Sys2Proof.decode34, hf]
    exact .formatV rfl rfl hop hf

theorem Reencodes.decode35 (hop : (opF w).toNat = 0x35) : Reencodes w (decode35 w) := by
  rcases toNat_cases2 (vfF w) with hf | hf | hf | hf <;>
  · rw [Sys2Proof.decode35, hf]
    exact .formatV rfl rfl hop hf

theorem Reencodes.decode36 (hop : (opF w).toNat = 0x36) : Reencodes w (decode36 w) := by
  rcases toNat_cases2 (vfF w) with hf | hf | hf | hf <;>
  · rw [Sys2Proof.decode36, hf]
    exact .formatV rfl rfl hop hf

theorem Reencodes.decode37 (hop : (opF w).toNat = 0x37) : Reencodes w (decode37 w) := by
  rcases toNat_cases2 (vfF w) with hf | hf | hf | hf <;>
  · rw [Sys2Proof.decode37, hf]
    exact .formatV rfl rfl hop hf

theorem Reencodes.decode38 (hop : (opF w).toNat = 0x38) : Reencodes w (decode38 w) := by
  rcases toNat_cases2 (vfF w) with hf | hf | hf | hf <;>
  · rw [Sys2Proof.decode38, hf]
    exact .formatV rfl rfl hop hf

theorem Reencodes.decode39 (hop : (opF w).toNat = 0x39) : Reencodes w (decode39 w) := by
  rcases toNat_cases2 (vfF w) with hf | hf | hf | hf <;>
  · rw [Sys2Proof.decode39, hf]
    exact .formatV rfl rfl hop hf

theorem Reencodes.decode3A (hop : (opF w).toNat = 0x3A) : Reencodes w (decode3A w) := by
  rcases toNat_cases2 (vfF w) with hf | hf | hf | hf <;>
  · rw [Sys2Proof.decode3A, hf]
    exact .formatV rfl rfl hop hf

theorem Reencodes.decode3C (hop : (opF w).toNat = 0x3C) : Reencodes w (decode3C w) := by
  rcases toNat_cases2 (vfF w) with hf | hf | hf | hf <;>
  · rw [Sys2Proof.decode3C, hf]
    exact .formatV rfl rfl hop hf

theorem Reencodes.decodeWord (w : BitVec 32) : Reencodes w (decodeWord w) := by
  unfold Sys2Proof.decodeWord
  split
  · next hop => exact .decode01 hop
  · next hop => exact .decode02 hop
  · next hop => exact .decode03 hop
  iterate 6 next hop => exact .formatI rfl rfl hop
  · next hop => exact .decode0A hop
  iterate 2 next hop => exact .formatU rfl rfl hop
  · next hop => exact .decode0D hop
  · next hop => exact .decode0E hop
  · next hop => exact .decode0F hop
  · next hop => exact .decode10 hop
  iterate 7 next hop => exact .formatI rfl rfl hop
  iterate 2 next hop => exact .formatJ rfl rfl hop
  · next hop => exact .formatI rfl rfl hop
  · next hop => exact .decode1B hop
  iterate 4 next hop => exact .formatI rfl rfl hop
  · next hop => exact .decode20 hop
  · next hop => exact .decode21 hop
  · next hop => exact .decode22 hop
  · next hop => exact .decode23 hop
  · next hop => exact .decode24 hop
  · next hop => exact .decode25 hop
  · next hop => exact .decode26 hop
  · next hop => exact .decode27 hop
  · next hop => exact .decode28 hop
  · next hop => exact .decode29 hop
  · next hop => exact .decode2A hop
  · next hop => exact .decode2B hop
  · next hop => exact .decode2C hop
  · next hop => exact .decode2D hop
  · next hop => exact .decode2E hop
  · next hop => exact .decode30 hop
  · next hop => exact .decode31 hop
  · next hop => exact .decode32 hop
  · next hop => exact .decode33 hop
  · next hop => exact .decode34 hop
  · next hop => exact .decode35 hop
  · next hop => exact .decode36 hop
  · next hop => exact .decode37 hop
  · next hop => exact .decode38 hop
  · next hop => exact .decode39 hop
  · next hop => exact .decode3A hop
  · next hop => exact .decode3C hop
  · exact .error

/-! ## The other direction -/

/-- A well-formed instruction's word decodes to it, by the lemma of its constructor. -/
theorem Encoding.all (i : Instr) : Encoding.Statement i := by
  cases i
  exacts [Encoding.add _ _ _, Encoding.sub _ _ _, Encoding.and _ _ _, Encoding.or _ _ _, Encoding.xor _ _ _, Encoding.andn _ _ _,
    Encoding.orn _ _ _, Encoding.xnor _ _ _, Encoding.sll _ _ _, Encoding.srl _ _ _, Encoding.sra _ _ _, Encoding.rol _ _ _,
    Encoding.ror _ _ _, Encoding.slt _ _ _, Encoding.sltu _ _ _, Encoding.seq _ _ _, Encoding.sne _ _ _, Encoding.min _ _ _,
    Encoding.max _ _ _, Encoding.minu _ _ _, Encoding.maxu _ _ _, Encoding.mul _ _ _, Encoding.mulh _ _ _, Encoding.mulhu _ _ _,
    Encoding.mulhsu _ _ _, Encoding.div _ _ _, Encoding.divu _ _ _, Encoding.rem _ _ _, Encoding.remu _ _ _, Encoding.clz _ _,
    Encoding.ctz _ _, Encoding.popc _ _, Encoding.brev _ _, Encoding.bswap _ _, Encoding.sextb _ _, Encoding.sexth _ _,
    Encoding.sextw _ _, Encoding.addi _ _ _, Encoding.andi _ _ _, Encoding.ori _ _ _, Encoding.xori _ _ _, Encoding.slti _ _ _,
    Encoding.sltui _ _ _, Encoding.slli _ _ _, Encoding.srli _ _ _, Encoding.srai _ _ _, Encoding.rori _ _ _, Encoding.lih _ _,
    Encoding.pcadd _ _, Encoding.ldb _ _ _, Encoding.ldh _ _ _, Encoding.ldw _ _ _, Encoding.ldd _ _ _, Encoding.ldbu _ _ _,
    Encoding.ldhu _ _ _, Encoding.ldwu _ _ _, Encoding.stb _ _ _, Encoding.sth _ _ _, Encoding.stw _ _ _, Encoding.std _ _ _,
    Encoding.ldab _ _ _ _, Encoding.ldah _ _ _ _, Encoding.ldaw _ _ _ _, Encoding.ldad _ _ _ _, Encoding.stlb _ _ _ _,
    Encoding.stlh _ _ _ _, Encoding.stlw _ _ _ _, Encoding.stld _ _ _ _, Encoding.amoadd _ _ _, Encoding.amoand _ _ _,
    Encoding.amoor _ _ _, Encoding.amoxor _ _ _, Encoding.amomin _ _ _, Encoding.amomax _ _ _, Encoding.amominu _ _ _,
    Encoding.amomaxu _ _ _, Encoding.amoswap _ _ _, Encoding.amocas _ _ _, Encoding.amofadd32 _ _ _, Encoding.amofadd64 _ _ _,
    Encoding.amoaddO _ _ _, Encoding.amoandO _ _ _, Encoding.amoorO _ _ _, Encoding.amoxorO _ _ _, Encoding.amominO _ _ _,
    Encoding.amomaxO _ _ _, Encoding.amominuO _ _ _, Encoding.amomaxuO _ _ _, Encoding.amoswapO _ _ _, Encoding.amocasO _ _ _,
    Encoding.amofadd32O _ _ _, Encoding.amofadd64O _ _ _, Encoding.beq _ _ _, Encoding.bne _ _ _, Encoding.blt _ _ _,
    Encoding.bge _ _ _, Encoding.bltu _ _ _, Encoding.bgeu _ _ _, Encoding.loopr _, Encoding.j _, Encoding.call _, Encoding.jr _ _ _,
    Encoding.trap _, Encoding.tret, Encoding.exit _, Encoding.fence _, Encoding.winb _, Encoding.rcpt _, Encoding.addrc _ _ _,
    Encoding.nop, Encoding.crd _ _, Encoding.cwr _ _, Encoding.cset _ _, Encoding.cclr _ _, Encoding.illegalInstruction _,
    Encoding.vadd _ _ _ _ _ _, Encoding.vsub _ _ _ _ _ _, Encoding.vmul _ _ _ _ _ _, Encoding.vdiv _ _ _ _ _ _,
    Encoding.vfma _ _ _ _ _ _, Encoding.vfms _ _ _ _ _ _, Encoding.vfnma _ _ _ _ _ _, Encoding.vfnms _ _ _ _ _ _,
    Encoding.vmin _ _ _ _ _ _, Encoding.vmax _ _ _ _ _ _, Encoding.vabs _ _ _ _, Encoding.vneg _ _ _ _, Encoding.vsqrt _ _ _ _,
    Encoding.vrsqrt _ _ _ _, Encoding.vrecip _ _ _ _, Encoding.vexp2 _ _ _ _, Encoding.vlog2 _ _ _ _, Encoding.vand _ _ _ _ _ _,
    Encoding.vor _ _ _ _ _ _, Encoding.vxor _ _ _ _ _ _, Encoding.vshift _ _ _ _ _ _, Encoding.vcmpeq _ _ _ _ _ _,
    Encoding.vcmplt _ _ _ _ _ _, Encoding.vcmple _ _ _ _ _ _, Encoding.vcmpne _ _ _ _ _ _, Encoding.vsel _ _ _ _ _,
    Encoding.vcvt _ _ _ _, Encoding.vcode _ _, Encoding.vbcast _ _ _ _, Encoding.vredsum _ _ _ _, Encoding.vredmax _ _ _ _,
    Encoding.vredmin _ _ _ _, Encoding.vscan _ _ _ _, Encoding.vgathr _ _ _ _ _ _, Encoding.vslide _ _ _ _ _, Encoding.vcomp _ _ _ _,
    Encoding.vexpd _ _ _ _, Encoding.vid _ _ _, Encoding.vrand _ _ _, Encoding.voffs _ _ _, Encoding.vlens _ _ _,
    Encoding.vadds _ _ _ _ _, Encoding.vmuls _ _ _ _ _, Encoding.vshls _ _ _ _ _, Encoding.vshrs _ _ _ _ _, Encoding.vands _ _ _ _ _,
    Encoding.vfmas _ _ _ _ _, Encoding.vmaxs _ _ _ _ _, Encoding.vmins _ _ _ _ _, Encoding.kand _ _ _, Encoding.kor _ _ _,
    Encoding.kxor _ _ _, Encoding.kcnt _ _, Encoding.knot _ _, Encoding.kfirst _ _, Encoding.setvl _ _ _, Encoding.getvl _,
    Encoding.vframe _, Encoding.setmask _, Encoding.vspill _ _, Encoding.vfill _ _, Encoding.vxch _ _ _ _ _, Encoding.vappend _ _,
    Encoding.vld _ _ _, Encoding.vst _ _ _, Encoding.vlds _ _ _ _, Encoding.vsts _ _ _ _, Encoding.vldc _ _, Encoding.vldcf _ _,
    Encoding.vstc _ _, Encoding.vpref _ _, Encoding.vgth _ _ _ _ _, Encoding.vsct _ _ _ _ _, Encoding.vgl _ _ _ _ _,
    Encoding.vsc _ _ _ _, Encoding.vamoadd _ _ _ _ _, Encoding.vamomin _ _ _ _ _, Encoding.vamomax _ _ _ _ _,
    Encoding.vamoxch _ _ _ _ _, Encoding.vamoand _ _ _ _ _, Encoding.vamoor _ _ _ _ _, Encoding.vamoxor _ _ _ _ _,
    Encoding.vamoo _ _ _ _ _, Encoding.cmdb _ _ _ _, Encoding.cwait _ _, Encoding.ctok _ _, Encoding.scbq _ _ _, Encoding.bar _,
    Encoding.bara _, Encoding.barw _, Encoding.bari _ _, Encoding.acq _, Encoding.rel _, Encoding.cflush _ _, Encoding.cinv _ _,
    Encoding.tshape _ _, Encoding.tzero _, Encoding.tmma _ _ _, Encoding.tlru _ _ _ _ _, Encoding.tmmal _ _ _, Encoding.tadd _ _,
    Encoding.trecomp _, Encoding.tdense _ _, Encoding.trank _ _, Encoding.tscale _, Encoding.tdup _ _, Encoding.tcvt _ _,
    Encoding.ewin _ _, Encoding.ersv _ _ _ _, Encoding.echk _ _ _ _ _, Encoding.eadv _ _, Encoding.issueSlot _ _ _,
    Encoding.levelBarrierRelease _ _ _, Encoding.copy _ _, Encoding.fill _ _, Encoding.scales _ _, Encoding.convert _ _,
    Encoding.hostCopy _ _, Encoding.exchFill _ _, Encoding.reduce _, Encoding.search _, Encoding.listRequest _ _ _,
    Encoding.distanceRequest _ _ _, Encoding.answer _ _ _, Encoding.engineCompletion _, Encoding.orderedAtomicArrival _,
    Encoding.orderedAtomicApply _ _ _, Encoding.dirtyFifoDrain _, Encoding.l1Writeback _ _, Encoding.relayout _ _ _ _ _,
    Encoding.stalledWriteResume _ _ _, Encoding.patrolScrub _ _ _, Encoding.pageMigration _ _ _ _, Encoding.trefiExpiry _ _,
    Encoding.refresh _ _, Encoding.selfRefreshEntry _ _, Encoding.selfRefreshExit _ _, Encoding.pchRetrain _ _ _,
    Encoding.preemption _, Encoding.restore _, Encoding.clusterDrain _ _ _, Encoding.clusterRetire _ _ _, Encoding.lgenWrite _ _,
    Encoding.trootWrite _ _, Encoding.tlbinvAll _, Encoding.tlbinvRange _ _, Encoding.gAppend _ _, Encoding.kernel _ _ _ _,
    Encoding.copyNode _ _, Encoding.convertNode _ _, Encoding.reduceNode _ _, Encoding.hostCopyNode _ _, Encoding.searchBatch _ _,
    Encoding.compress _ _, Encoding.decompress _ _, Encoding.signal _ _, Encoding.wait _ _, Encoding.join _ _, Encoding.nodeEnd _ _,
    Encoding.hostWrite _ _ _, Encoding.fabricRequest _ _ _ _, Encoding.flit _ _, Encoding.flitReplay _ _, Encoding.heartbeat _,
    Encoding.heartbeatTimeout _, Encoding.fatalErrorFlit _, Encoding.devFail _, Encoding.linkRecalibration _ _, Encoding.create _,
    Encoding.resize _, Encoding.destroy _, Encoding.release _, Encoding.resumeStrand _ _, Encoding.kill _ _, Encoding.fwLoad _,
    Encoding.fwSwitch _ _, Encoding.chrExp, Encoding.getCertificate _, Encoding.challenge _ _, Encoding.getMeasurements _,
    Encoding.srtBaseWrite _ _, Encoding.debugRead _ _ _, Encoding.registerWrite _ _, Encoding.thermalThrottle, Encoding.fatalShutdown,
    Encoding.powerUp, Encoding.coldReset, Encoding.warmReset, Encoding.fqHeadWrite _ _, Encoding.hostRead _ _ _,
    Encoding.pcieCompletion _, Encoding.hot _ _, Encoding.cont, Encoding.killedByTheHost _ _]

end Sys2Proof.Laws
end

section
open Sys2Proof Sys2Proof.Laws

/-- Settles O1, by the lemma of each constructor. -/
theorem decodeOfEncode : Obligations.DecodeOfEncode :=
  fun i w hwf hword => Encoding.all i hwf w hword

/-- Settles O2, by cases on the major. -/
theorem encodeOfDecode : Obligations.EncodeOfDecode :=
  Reencodes.decodeWord

/-- Settles O3, by evaluating the decoder on each word. -/
theorem workedWords : Obligations.WorkedWords :=
  ⟨rfl, rfl, rfl, rfl, rfl, rfl, rfl, rfl, rfl, rfl, rfl, rfl, rfl, rfl⟩

end

section
/-! A step in which nothing stands between the strand and its next instruction (R60, R77). -/

namespace Sys2Proof.Machine
open Sys2Proof.Claims

/-- A strand that can run has a turn that does something, and ends no wait. -/
theorem State.canGo_of_canRun (s : State) (h : s.strand.canRun = true) : s.canGo s.strand = true ∧ s.endOfWait = none := by
  simp only [Strand.canRun, Bool.and_eq_true, decide_eq_true_eq] at h
  simp_all [State.canGo, State.endOfWait]

/-- The turn of a strand that nothing holds back is its next instruction. -/
theorem runTurn_of_canRun {s : State} (hdown : s.down = false) (hhalted : s.halted = false) (hrun : s.strand.canRun = true)
    (hsave : s.saveReady = false) (hbreak : s.atBreak = false) (hwaits : s.fetchWaits = false) (hupsets : s.upsets = []) :
    runTurn s = runNext s.begins := by
  obtain ⟨hgo, hend⟩ := s.canGo_of_canRun hrun
  simp [runTurn, runReady, hdown, hhalted, hsave, hgo, hend, hbreak, hwaits, hupsets]

/-- A step with nothing on the agenda and nothing in the strand's way is its next instruction (R77). -/
theorem step_of_runs {s : State} (h : Runs s) : step s = runNext (turn s) := by
  obtain ⟨hagenda, hdown, hhalted, hrun, hsave, hbreak, hwaits, hupsets⟩ := h
  have hturn := runTurn_of_canRun (s := { s with ticks := s.ticks + 1 }) hdown hhalted hrun hsave hbreak hwaits hupsets
  unfold step
  split
  · next e => rw [hagenda] at e; cases e
  · exact hturn

end Sys2Proof.Machine
end

section
open Sys2Proof Sys2Proof.Machine

/-- Settles O4: a step in which the strand runs is `runNext`, which decodes what the fetch gives. -/
theorem stepRunsDecoded : Obligations.StepRunsDecoded := by
  refine ⟨fun s s1 w i hruns hfetch hw => ?_, fun s e rest hagenda => ?_⟩
  · rw [step_of_runs hruns, runNext, hfetch]
    simp only [hw]
  · simp only [step, hagenda]

/-- Settles O6: the same step, and a word without an instruction is run as the illegal one. -/
theorem illegalWordTraps : Obligations.IllegalWordTraps := by
  refine ⟨fun s s1 w r hruns hfetch hw => ?_, fun _ _ => rfl⟩
  rw [step_of_runs hruns, runNext, hfetch]
  simp only [hw]
  rfl

end

section
/-! Faults that come before any effect (R77, R108, R136, R174): the address that is no multiple of its size, the purse at or above VREGS, the
code that is not accepted. -/

namespace Sys2Proof.Machine
open Sys2Proof.Claims

/-! ## Which meaning an instruction has -/

theorem shiftLeft_ofInt64 (x : Int) (n : Nat) : BitVec.ofInt 64 x <<< n = BitVec.ofInt 64 (x * 2 ^ n) := by
  have htwo : BitVec.twoPow 64 n = BitVec.ofInt 64 (2 ^ n : Nat) := by
    rw [BitVec.ofInt_natCast]
    exact BitVec.eq_of_toNat_eq (by simp)
  rw [BitVec.shiftLeft_eq_mul_twoPow, htwo, ← BitVec.ofInt_mul, Nat.cast_pow]
  rfl

/-- The address of a load or store is that of R109. -/
theorem Strand.ea_eq (s : State) (a : BitVec 7) (off : BitVec 9) (lz : Nat) : s.strand.ea a off lz = eaSigned s a off lz := by
  rw [Strand.ea, BitVec.signExtend, shiftLeft_ofInt64]
  rfl

/-- The address of an LDA or STL is that of R112. -/
theorem Strand.eaScoped_eq (s : State) (a : BitVec 7) (off : BitVec 6) (lz : Nat) : s.strand.eaScoped a off lz = eaUnsigned s a off lz := by
  have hoff : off.setWidth 64 = BitVec.ofInt 64 off.toNat := by rw [BitVec.ofInt_natCast, BitVec.ofNat_toNat]
  have hshift : off.setWidth 64 <<< lz = BitVec.ofNat 64 (off.toNat * 2 ^ lz) := by
    rw [hoff, shiftLeft_ofInt64, ← BitVec.ofInt_natCast, Nat.cast_mul, Nat.cast_pow]
    rfl
  rw [Strand.eaScoped, hshift]
  rfl

theorem exec_ldRows : ∀ row ∈ ldRows, ∀ (d a : BitVec 7) (off : BitVec 9) (s : State),
    exec (row.1 d a off) s = runStep false (loadInto row.2.1 row.2.2 d a (eaSigned s a off row.2.1)) s := by
  simp only [← Strand.ea_eq, ldRows, List.forall_mem_cons]
  exact ⟨fun _ _ _ _ => rfl, fun _ _ _ _ => rfl, fun _ _ _ _ => rfl, fun _ _ _ _ => rfl, fun _ _ _ _ => rfl, fun _ _ _ _ => rfl,
    fun _ _ _ _ => rfl, List.forall_mem_nil _⟩

theorem exec_stRows : ∀ row ∈ stRows, ∀ (b a : BitVec 7) (off : BitVec 9) (s : State),
    exec (row.1 b a off) s = runStep false (storeFrom row.2 b a (eaSigned s a off row.2)) s := by
  simp only [← Strand.ea_eq, stRows, List.forall_mem_cons]
  exact ⟨fun _ _ _ _ => rfl, fun _ _ _ _ => rfl, fun _ _ _ _ => rfl, fun _ _ _ _ => rfl, List.forall_mem_nil _⟩

theorem exec_ldaRows : ∀ row ∈ ldaRows, ∀ (d a : BitVec 7) (sc : BitVec 3) (off : BitVec 6) (s : State),
    exec (row.1 d a sc off) s = runStep false (loadAcquireInto row.2 sc.toNat d a (eaUnsigned s a off row.2)) s := by
  simp only [← Strand.eaScoped_eq, ldaRows, List.forall_mem_cons]
  exact ⟨fun _ _ _ _ _ => rfl, fun _ _ _ _ _ => rfl, fun _ _ _ _ _ => rfl, fun _ _ _ _ _ => rfl, List.forall_mem_nil _⟩

theorem exec_stlRows : ∀ row ∈ stlRows, ∀ (b a : BitVec 7) (sc : BitVec 3) (off : BitVec 6) (s : State),
    exec (row.1 b a sc off) s = runStep false (storeReleaseFrom row.2 sc.toNat b a (eaUnsigned s a off row.2)) s := by
  simp only [← Strand.eaScoped_eq, stlRows, List.forall_mem_cons]
  exact ⟨fun _ _ _ _ _ => rfl, fun _ _ _ _ _ => rfl, fun _ _ _ _ _ => rfl, fun _ _ _ _ _ => rfl, List.forall_mem_nil _⟩

/-- An unordered AMO is its operation's event. -/
theorem exec_amoRows : ∀ row ∈ amoRows, ∀ (d a b : BitVec 7) (s : State), exec (row.1 d a b) s = runStep false (amo row.2.2.1 d a b) s := by
  simp only [amoRows, List.forall_mem_cons]
  exact ⟨fun _ _ _ _ => rfl, fun _ _ _ _ => rfl, fun _ _ _ _ => rfl, fun _ _ _ _ => rfl, fun _ _ _ _ => rfl, fun _ _ _ _ => rfl,
    fun _ _ _ _ => rfl, fun _ _ _ _ => rfl, fun _ _ _ _ => rfl, fun _ _ _ _ => rfl, fun _ _ _ _ => rfl, fun _ _ _ _ => rfl,
    List.forall_mem_nil _⟩

/-- An ordered AMO is issued, with the operation of the unordered one. -/
theorem exec_amoRows_ordered : ∀ row ∈ amoRows, ∀ (d a b : BitVec 7),
    amoOf (row.2.1 d a b) = some (row.2.2.1, d, a, b) ∧ ∀ s, exec (row.2.1 d a b) s = issueOrdered (row.2.1 d a b) s := by
  simp only [amoRows, List.forall_mem_cons]
  exact ⟨fun _ _ _ => ⟨rfl, fun _ => rfl⟩, fun _ _ _ => ⟨rfl, fun _ => rfl⟩, fun _ _ _ => ⟨rfl, fun _ => rfl⟩, fun _ _ _ => ⟨rfl, fun _ => rfl⟩,
    fun _ _ _ => ⟨rfl, fun _ => rfl⟩, fun _ _ _ => ⟨rfl, fun _ => rfl⟩, fun _ _ _ => ⟨rfl, fun _ => rfl⟩, fun _ _ _ => ⟨rfl, fun _ => rfl⟩,
    fun _ _ _ => ⟨rfl, fun _ => rfl⟩, fun _ _ _ => ⟨rfl, fun _ => rfl⟩, fun _ _ _ => ⟨rfl, fun _ => rfl⟩, fun _ _ _ => ⟨rfl, fun _ => rfl⟩,
    List.forall_mem_nil _⟩

/-- A two-source form is the binary walk over the kinds that its row gives. -/
theorem exec_vecBinaryRows : ∀ row ∈ vecBinaryRows, ∃ f, ∀ (d a b : BitVec 7) (ca cb mk : Bool) (s : State),
    exec (row.1 d a b ca cb mk) s = runStep true (vecBinary row.2.1 f d a b mk) s := by
  simp only [vecBinaryRows, List.forall_mem_cons]
  exact ⟨⟨_, fun _ _ _ _ _ _ _ => rfl⟩, ⟨_, fun _ _ _ _ _ _ _ => rfl⟩, ⟨_, fun _ _ _ _ _ _ _ => rfl⟩, ⟨_, fun _ _ _ _ _ _ _ => rfl⟩,
    ⟨_, fun _ _ _ _ _ _ _ => rfl⟩, ⟨_, fun _ _ _ _ _ _ _ => rfl⟩, ⟨_, fun _ _ _ _ _ _ _ => rfl⟩, ⟨_, fun _ _ _ _ _ _ _ => rfl⟩,
    ⟨_, fun _ _ _ _ _ _ _ => rfl⟩, ⟨_, fun _ _ _ _ _ _ _ => rfl⟩, List.forall_mem_nil _⟩

/-! ## Misaligned addresses (R108) -/

/-- MISALIGNED_DATA at an address, for a read (1) or a write (2). -/
def misaligned (acc : Nat) (va : Word) : Trap := { cause := 0x05, sub := 0, acc := acc, elem := 0, addr := va, resume := none }

theorem Acc.trap_misaligned (o : Acc) (va : Word) : o.trap 0x05 0 va.toNat = misaligned o.mode.acc va := by
  rw [Acc.trap, BitVec.ofNat_toNat, BitVec.setWidth_eq, misaligned]

/-- A meaning that checks its access first stops there, before anything else, when the address is no multiple of its size. -/
theorem M.accessFirst_misaligned {α : Type} {o : Acc} {va : Word} {z : Nat} {f : Strand → Xl → M α} {s : State} (h : va.toNat % z ≠ 0) :
    (do let t ← getS; let x ← accessCheck o va z; f t x : M α) s = .error (.trap (misaligned o.mode.acc va)) s := by
  rw [M.bind_ok (M.getS_run s), M.bind_error (accessCheck_misaligned h), Acc.trap_misaligned]

theorem amoEvent_misaligned {f : AmoOp} {k : AccessKind} {d a b : BitVec 7} {s : State} (h : (val s a).toNat % f.size ≠ 0) :
    amoEvent f k d a b s = .error (.trap (misaligned 2 (val s a))) s := by
  rw [amoEvent, M.bind_ok (M.getS_run s)]
  exact M.bind_error ((accessCheck_misaligned h).trans (by rw [Acc.trap_misaligned]; rfl))

theorem amo_misaligned {f : AmoOp} {d a b : BitVec 7} {s : State} (h : (val s a).toNat % f.size ≠ 0) :
    amo f d a b s = .error (.trap (misaligned 2 (val s a))) s :=
  M.bind_error (amoEvent_misaligned h)

theorem ordCheck_of_amoOf {i : Instr} {f : AmoOp} {d a b : BitVec 7} (hi : amoOf i = some (f, d, a, b)) (stream : Nat) :
    ordCheck i stream = do
      let va := ((← getS).reg a).val
      let _ ← accessCheck { f.acc (.ordered stream) with assay := false, poison := false } va f.size
      return va := by
  unfold ordCheck
  split
  · cases hi
  · rw [hi]

theorem ordVec_of_amoOf {i : Instr} {f : AmoOp} {d a b : BitVec 7} (hi : amoOf i = some (f, d, a, b)) : ordVec i = false := by
  unfold ordVec
  split
  · cases hi
  · rfl

theorem issueOrdered_misaligned {i : Instr} {f : AmoOp} {d a b : BitVec 7} {s : State} (hi : amoOf i = some (f, d, a, b))
    (h : (val s a).toNat % f.size ≠ 0) : issueOrdered i s = .next (s.takeTrap false s.strand.pc (misaligned 2 (val s a))) := by
  have hcheck : ordCheck i (ordStream s.strand.ctl.ordtag.val) s = .error (.trap (misaligned 2 (val s a))) s := by
    rw [ordCheck_of_amoOf hi, M.bind_ok (M.getS_run s)]
    exact M.bind_error ((accessCheck_misaligned h).trans (by rw [Acc.trap_misaligned]; rfl))
  simp only [issueOrdered, hcheck, ordVec_of_amoOf hi]

theorem amoSize_eq (f : AmoOp) : amoSize f = f.size := by cases f <;> rfl

/-! ## Purse operands (R77, R174) -/

theorem useRegs_outOfRange {fs : List (BitVec 7)} {s : State} {n : Nat}
    (h : ((fs.map (purseOf s)).filter fun k => decide (s.strand.vregs ≤ k)).min? = some n) :
    useRegs fs s = .error (.trap (plainTrap 0x02 (BitVec.ofNat 64 n))) s := by
  have hmin : ((fs.map s.strand.purseName).filter fun k => decide (s.strand.vregs ≤ k)).min? = some n := h
  rw [useRegs, M.bind_ok (M.getS_run s), hmin]
  rfl

theorem useRegs_ok {fs : List (BitVec 7)} {s : State} (h : ∀ f ∈ fs, purseOf s f < s.strand.vregs) : useRegs fs s = .ok () s := by
  have hnone : ((fs.map s.strand.purseName).filter fun k => decide (s.strand.vregs ≤ k)) = [] := by
    simpa [purseOf] using h
  rw [useRegs, M.bind_ok (M.getS_run s), hnone]
  rfl

theorem useCode_illegal {f : BitVec 7} {ok : Code → Bool} {s : State} (h : ((codeOf s f).vectorOk && ok (codeOf s f)) = false) :
    useCode f ok s = .error (.trap (plainTrap 0x03 ((s.strand.purse (purseOf s f)).tag.setWidth 64))) s := by
  rw [useCode, M.bind_ok (M.getS_run s)]
  change (if ((codeOf s f).vectorOk && ok (codeOf s f)) = true then pure (codeOf s f) else raise _ : M Code) s = _
  rw [h]
  rfl

theorem vecBinary_outOfRange {k : Code → Bool} {g : Code → Ex → Ex → Ex × Flags} {d a b : BitVec 7} {mk : Bool} {s : State} {n : Nat}
    (h : (([d, a, b].map (purseOf s)).filter fun k => decide (s.strand.vregs ≤ k)).min? = some n) :
    vecBinary k g d a b mk s = .error (.trap (plainTrap 0x02 (BitVec.ofNat 64 n))) s :=
  M.bind_error (M.bind_error (useRegs_outOfRange h))

theorem vecBinary_illegalCode {k : Code → Bool} {g : Code → Ex → Ex → Ex × Flags} {d a b : BitVec 7} {mk : Bool} {s : State}
    (hd : purseOf s d < s.strand.vregs) (ha : purseOf s a < s.strand.vregs) (hb : purseOf s b < s.strand.vregs)
    (h : ((codeOf s d).vectorOk && k (codeOf s d)) = false) :
    vecBinary k g d a b mk s = .error (.trap (plainTrap 0x03 ((s.strand.purse (purseOf s d)).tag.setWidth 64))) s := by
  have huse : useRegs [d, a, b] s = .ok () s := useRegs_ok (by simp [hd, ha, hb])
  exact M.bind_error ((M.bind_ok huse).trans (M.bind_error (useCode_illegal h)))

end Sys2Proof.Machine
end

section
open Sys2Proof Sys2Proof.Machine Sys2Proof.Claims

/-- Settles O19: every meaning begins with the check that faults. -/
theorem earlyTraps : Obligations.EarlyTraps := by
  refine ⟨⟨?_, ?_, ?_, ?_, ?_⟩, ?_⟩
  · intro row hrow d a off s h
    rw [exec_ldRows row hrow]
    exact runStep_trap (M.accessFirst_misaligned h)
  · intro row hrow b a off s h
    rw [exec_stRows row hrow]
    exact runStep_trap (M.accessFirst_misaligned h)
  · intro row hrow d a sc off s h
    rw [exec_ldaRows row hrow]
    exact runStep_trap (M.accessFirst_misaligned h)
  · intro row hrow b a sc off s h
    rw [exec_stlRows row hrow]
    exact runStep_trap (M.accessFirst_misaligned h)
  · intro row hrow d a b s h i hi
    rw [amoSize_eq] at h
    obtain ⟨hop, hexec⟩ := exec_amoRows_ordered row hrow d a b
    obtain rfl | rfl : i = row.1 d a b ∨ i = row.2.1 d a b := by simpa using hi
    · rw [exec_amoRows row hrow]
      exact runStep_trap (amo_misaligned h)
    · rw [hexec]
      exact issueOrdered_misaligned hop h
  · intro row hrow d a b ca cb mk s
    obtain ⟨f, hexec⟩ := exec_vecBinaryRows row hrow
    refine ⟨fun n h => ?_, fun hd ha hb h => ?_⟩
    · rw [hexec]
      exact runStep_trap (vecBinary_outOfRange h)
    · rw [hexec]
      exact runStep_trap (vecBinary_illegalCode hd ha hb h)

end

section
/-! Vector stores (R212 to R222), and why O40 does not hold of every state. It says of a predicated VST that no mask changes, under premises that
two commands of one number meet (as for O33 and O30, but with a code that VST accepts): there the store observes the chunk that its governing
mask k1 shows, finds the other command of that number, and stops it, which tells that command's chunk in k2. -/

namespace Sys2Proof.Machine
open Sys2Proof.Claims

/-- `twinCommands`, with FP32 in code register 0 (R42). -/
def twinStores : State :=
  twinCommands.mapStrand fun t => { t with ctl := { t.ctl with codes := t.ctl.codes.set 0 (.of 0x2000000000000000) } }

/-- VST v0 to s[0] under the governing mask: the source is empty. -/
def emptyStore : Instr := .vst 0 0 true

theorem twinStores_useOk : UseOk twinStores 0 fixedOrBlock := by
  unfold UseOk
  decide +kernel

theorem twinStores_fresh : Fresh twinStores := by
  unfold Fresh
  decide +kernel

theorem twinStores_maskFree : MaskFree twinStores true := by
  have hamr : twinStores.strand.amr = 1 := by decide +kernel
  have hbefore : ∀ c ∈ twinStores.cmds, c.phase = .performed := by decide +kernel
  have hafter : ∀ c ∈ (observed twinStores true).cmds, c.ca = 2 := by decide +kernel
  refine fun _ => ⟨fun c hc _ _ _ _ _ x y z h => ?_, fun c hc _ _ _ _ hca => ?_⟩
  · rw [hbefore c hc] at h
    cases h
  · rw [hafter c hc, hamr] at hca
    cases hca

/-- The store has no unit, since its source's fill is 0. -/
theorem emptyStore_units : (vstPlan twinStores none 0 0 true).n = 0 := by decide +kernel

/-- The store ends with the first command's chunk told in k2, though no field of it names k2. -/
theorem emptyStore_tells : firstBitOfK2 (exec emptyStore twinStores) = some true := by decide +kernel

theorem twinStores_k2 : (twinStores.strand.mask 2).bits.getLsbD 0 = false := by decide +kernel

end Sys2Proof.Machine
end

section
open Sys2Proof Sys2Proof.Machine Sys2Proof.Claims

/-- Refutes O40: in `twinStores`, where two commands have one number, a VST of no element under k1 changes k2. -/
theorem not_vectorStoresComplete : ¬ Obligations.VectorStoresComplete := by
  rintro ⟨hstore, -⟩
  have hloop : storeLoop (vstPlan twinStores none 0 0 true) (vstPlan twinStores none 0 0 true).n 0 (observed twinStores true) =
      .ok (0, none) (observed twinStores true) := by
    rw [emptyStore_units]
    rfl
  obtain ⟨t, ht, -, hmasks⟩ := hstore _ (.head _) 0 0 0 true twinStores _ 0 twinStores_useOk twinStores_fresh twinStores_maskFree hloop
  have htold : firstBitOfK2 (.next t) = some true := ht ▸ emptyStore_tells
  have hkept : t.strand.mask 2 = twinStores.strand.mask 2 := by rw [Strand.mask, Strand.mask, hmasks]
  rw [firstBitOfK2, hkept, twinStores_k2] at htold
  cases htold

end

section
/-! Scalar arithmetic on registers (R102, R103): the model's shared shapes are `wrote`, and each row's function is the model's. -/

namespace Sys2Proof.Machine
open Sys2Proof.Claims

/-! ## Tests and the words they choose -/

theorem ofBool_decide (p : Prop) [Decidable p] : ofBool (decide p) = if p then 1 else 0 := by
  by_cases h : p <;> simp [ofBool, h]

theorem ite_decide {α : Type} (p : Prop) [Decidable p] (x y : α) : (if decide p = true then x else y) = if p then x else y := by
  by_cases h : p <;> simp [h]

theorem ofBool_not_decide (p : Prop) [Decidable p] : ofBool (!decide p) = if ¬ p then 1 else 0 := by
  rw [← decide_not, ofBool_decide]

/-! ## Shapes -/

theorem binary_congr {f g : Word → Word → Word} (h : ∀ x y, f x y = g x y) (d a b : BitVec 7) (s : State) : binary f d a b s = binary g d a b s := by
  rw [funext fun x => funext (h x)]

/-- Each row of R102 is the shared shape over the row's function: the model's own but for the tests. -/
theorem exec_oprRows : ∀ row ∈ oprRows, ∀ (d a b : BitVec 7) (s : State), exec (row.2.1 d a b) s = binary row.2.2 d a b s := by
  simp only [oprRows, List.forall_mem_cons, List.not_mem_nil, IsEmpty.forall_iff, implies_true, and_true]
  refine ⟨fun _ _ _ _ => rfl, fun _ _ _ _ => rfl, fun _ _ _ _ => rfl, fun _ _ _ _ => rfl, fun _ _ _ _ => rfl, fun _ _ _ _ => rfl,
    fun _ _ _ _ => rfl, fun _ _ _ _ => rfl, fun _ _ _ _ => rfl, fun _ _ _ _ => rfl, fun _ _ _ _ => rfl, fun _ _ _ _ => rfl,
    fun _ _ _ _ => rfl, ?slt, ?sltu, ?seq, ?sne, ?min, ?max, ?minu, ?maxu⟩
  case slt => exact binary_congr (f := fun a b => ofBool (a.slt b)) fun _ _ => ofBool_decide _
  case sltu => exact binary_congr (f := fun a b => ofBool (a.ult b)) fun _ _ => ofBool_decide _
  case seq => exact binary_congr (f := fun a b => ofBool (a = b)) fun _ _ => ofBool_decide _
  case sne => exact binary_congr (f := fun a b => ofBool (!decide (a = b))) fun _ _ => ofBool_not_decide _
  case min => exact binary_congr (f := fun a b => if a.sle b then a else b) fun _ _ => ite_decide _ _ _
  case max => exact binary_congr (f := fun a b => if b.sle a then a else b) fun _ _ => ite_decide _ _ _
  case minu => exact binary_congr (f := fun a b => if a.ule b then a else b) fun _ _ => ite_decide _ _ _
  case maxu => exact binary_congr (f := fun a b => if b.ule a then a else b) fun _ _ => ite_decide _ _ _

theorem encode_oprRows : ∀ row ∈ oprRows, ∀ d a b : BitVec 7,
    (row.2.1 d a b).wf = true ∧ encode (row.2.1 d a b) = some (packR 0x01 d a b row.1) := by
  simp only [oprRows, List.forall_mem_cons, List.not_mem_nil, IsEmpty.forall_iff, implies_true, and_true]
  and_intros <;> exact fun _ _ _ => ⟨rfl, rfl⟩

/-- Raising no flag changes nothing, and raising one is the model's sticky write. -/
theorem raised_eq_sticky (s : State) (f : Flags) (t : Bool) : raised s (f.setWidth 64) t = s.mapStrand fun u => u.sticky f t := by
  have hz : f.setWidth 64 = (0 : Word) ↔ f = 0 := by
    constructor
    · intro h
      refine BitVec.eq_of_toNat_eq ?_
      have hn := congrArg BitVec.toNat h
      have hf := f.isLt
      rw [BitVec.toNat_setWidth] at hn
      change f.toNat = 0
      change f.toNat % 18446744073709551616 = 0 at hn
      omega
    · rintro rfl
      rfl
  by_cases h : f = 0
  · simp only [raised, h, if_true, Strand.sticky, Ctl.sticky]
    rfl
  · simp only [raised, hz, h, if_false, Strand.sticky, Ctl.sticky]

/-! ## Products and quotients (R103) -/

theorem mul_eq_ofInt (x y : Word) : x * y = BitVec.ofInt 64 (x.toInt * y.toInt) := by
  rw [BitVec.ofInt_mul, BitVec.ofInt_toInt, BitVec.ofInt_toInt]

theorem high_eq_fdiv (x : Int) : high x = BitVec.ofInt 64 (Int.fdiv x (2 ^ 64)) := by
  rw [high, Int.fdiv_eq_ediv_of_nonneg _ (by decide)]

theorem high_natCast (n : Nat) : high n = BitVec.ofNat 64 (n / 2 ^ 64) := by
  rw [high, ← BitVec.ofInt_natCast]
  norm_cast

/-- The one signed division that overflows, by the operands' signed values. -/
theorem overflows_iff (x y : Word) : (x = BitVec.intMin 64 ∧ y = BitVec.allOnes 64) ↔ (x.toInt = -2 ^ 63 ∧ y.toInt = -1) := by
  have hx : (BitVec.intMin 64).toInt = -2 ^ 63 := by decide
  have hy : (BitVec.allOnes 64).toInt = -1 := by decide
  rw [← hx, ← hy, BitVec.toInt_inj, BitVec.toInt_inj]

theorem divS_eq (x y : Word) : ((divS x y).1, (divS x y).2.setWidth 64) =
    if y = 0 then (BitVec.ofNat 64 (2 ^ 64 - 1), (2 : Word))
    else if x.toInt = -2 ^ 63 ∧ y.toInt = -1 then (BitVec.ofNat 64 (2 ^ 63), 4) else (BitVec.ofInt 64 (x.toInt.tdiv y.toInt), 0) := by
  simp only [divS, overflows_iff]
  split_ifs <;> rfl

theorem divU_eq (x y : Word) : ((divU x y).1, (divU x y).2.setWidth 64) =
    if y = 0 then (BitVec.ofNat 64 (2 ^ 64 - 1), (2 : Word)) else (BitVec.ofNat 64 (x.toNat / y.toNat), 0) := by
  have hq : x / y = BitVec.ofNat 64 (x.toNat / y.toNat) := BitVec.eq_of_toNat_eq (by
    rw [BitVec.toNat_udiv, BitVec.toNat_ofNat, Nat.mod_eq_of_lt (Nat.lt_of_le_of_lt (Nat.div_le_self _ _) x.isLt)])
  simp only [divU, hq]
  split_ifs <;> rfl

theorem remS_eq (x y : Word) : ((remS x y).1, (remS x y).2.setWidth 64) =
    if y = 0 then (x, (2 : Word))
    else if x.toInt = -2 ^ 63 ∧ y.toInt = -1 then (0, 4) else (BitVec.ofInt 64 (x.toInt - y.toInt * x.toInt.tdiv y.toInt), 0) := by
  simp only [remS, overflows_iff, Int.tmod_def]
  split_ifs <;> rfl

theorem remU_eq (x y : Word) : ((remU x y).1, (remU x y).2.setWidth 64) =
    if y = 0 then (x, (2 : Word)) else (BitVec.ofNat 64 (x.toNat % y.toNat), 0) := by
  have hr : x % y = BitVec.ofNat 64 (x.toNat % y.toNat) := BitVec.eq_of_toNat_eq (by
    rw [BitVec.toNat_umod, BitVec.toNat_ofNat, Nat.mod_eq_of_lt (Nat.lt_of_le_of_lt (Nat.mod_le _ _) x.isLt)])
  simp only [remU, hr]
  split_ifs <;> rfl

/-- The whole of a row of R103: its function, and the flag that it raises. -/
def flagged (g : Word → Word → Word × Word) (d a b : BitVec 7) (s : State) : Result :=
  .next (wrote (raised s (g (val s a) (val s b)).2 (tarn2 s a b)) d (g (val s a) (val s b)).1 (tarn2 s a b))

theorem flagged_of_binary {f : Word → Word → Word} {g : Word → Word → Word × Word} (h : ∀ x y, g x y = (f x y, 0)) (d a b : BitVec 7) (s : State) :
    binary f d a b s = flagged g d a b s := by
  simp only [flagged, h]
  rfl

theorem flagged_of_division {f : Word → Word → Word × Flags} {g : Word → Word → Word × Word}
    (h : ∀ x y, g x y = ((f x y).1, (f x y).2.setWidth 64)) (d a b : BitVec 7) (s : State) : division f d a b s = flagged g d a b s := by
  simp only [flagged, h, raised_eq_sticky]
  rfl

/-- Each row of R103 is its function with the flag that it raises. -/
theorem exec_opmRows : ∀ row ∈ opmRows, ∀ (d a b : BitVec 7) (s : State), exec (row.2.1 d a b) s = flagged row.2.2 d a b s := by
  simp only [opmRows, List.forall_mem_cons, List.not_mem_nil, IsEmpty.forall_iff, implies_true, and_true]
  refine ⟨?mul, ?mulh, ?mulhu, ?mulhsu, ?div, ?divu, ?rem, ?remu⟩
  case mul => exact flagged_of_binary (f := fun a b => a * b) fun x y => congrArg (·, 0) (mul_eq_ofInt x y).symm
  case mulh => exact flagged_of_binary (f := fun a b => high (a.toInt * b.toInt)) fun _ _ => congrArg (·, 0) (high_eq_fdiv _).symm
  case mulhu =>
    exact flagged_of_binary (f := fun a b => high (a.toNat * b.toNat)) fun x y => congrArg (·, 0) (by
      rw [← high_natCast, Nat.cast_mul])
  case mulhsu => exact flagged_of_binary (f := fun a b => high (a.toInt * b.toNat)) fun _ _ => congrArg (·, 0) (high_eq_fdiv _).symm
  case div => exact flagged_of_division (f := divS) fun x y => (divS_eq x y).symm
  case divu => exact flagged_of_division (f := divU) fun x y => (divU_eq x y).symm
  case rem => exact flagged_of_division (f := remS) fun x y => (remS_eq x y).symm
  case remu => exact flagged_of_division (f := remU) fun x y => (remU_eq x y).symm

theorem encode_opmRows : ∀ row ∈ opmRows, ∀ d a b : BitVec 7,
    (row.2.1 d a b).wf = true ∧ encode (row.2.1 d a b) = some (packR 0x02 d a b row.1) := by
  simp only [opmRows, List.forall_mem_cons, List.not_mem_nil, IsEmpty.forall_iff, implies_true, and_true]
  and_intros <;> exact fun _ _ _ => ⟨rfl, rfl⟩

end Sys2Proof.Machine
end

section
open Sys2Proof Sys2Proof.Machine Sys2Proof.Claims

/-- Settles O11: every row is the shared shape of two sources over the row's function. -/
theorem registerArithmetic : Obligations.RegisterArithmetic := by
  unfold Obligations.RegisterArithmetic
  intro row hrow d a b s
  obtain ⟨hwf, hword⟩ := encode_oprRows row hrow d a b
  exact ⟨Laws.Encoding.all _ hwf _ hword, exec_oprRows row hrow d a b s⟩

/-- Settles O12: products by the integers they stand for, quotients and remainders by the cases of their divisor. -/
theorem multiplyAndDivide : Obligations.MultiplyAndDivide := by
  unfold Obligations.MultiplyAndDivide
  intro row hrow d a b s
  obtain ⟨hwf, hword⟩ := encode_opmRows row hrow d a b
  exact ⟨Laws.Encoding.all _ hwf _ hword, exec_opmRows row hrow d a b s⟩

end

section
/-! Counts, rearrangements and immediate forms (R104 to R107): the model's functions described bit by bit. -/

namespace Sys2Proof.Machine
open Sys2Proof.Claims

/-! ## Counts of zeros and ones -/

theorem leadingZeros_spec (a : Word) : leadingZeros a ≤ 64 ∧ (∀ i < leadingZeros a, a.getLsbD (63 - i) = false) ∧
    (leadingZeros a < 64 → a.getLsbD (63 - leadingZeros a) = true) := by
  by_cases h : a = 0
  · subst h
    exact ⟨Nat.le_refl _, fun i _ => BitVec.getLsbD_zero, fun hlt => absurd hlt (Nat.lt_irrefl _)⟩
  · have hpos : a.toNat ≠ 0 := fun h0 => h (BitVec.eq_of_toNat_eq h0)
    have hlog : a.toNat.log2 < 64 := (Nat.log2_lt hpos).2 a.isLt
    simp only [leadingZeros, h, if_false, BitVec.getLsbD]
    refine ⟨by omega, fun i hi => ?_, fun _ => ?_⟩
    · exact Nat.testBit_lt_two_pow (Nat.lt_of_lt_of_le Nat.lt_log2_self (Nat.pow_le_pow_right (by decide) (by omega)))
    · rw [show 63 - (63 - a.toNat.log2) = a.toNat.log2 by omega, Nat.testBit_log2 hpos]

/-- Trailing zeros counted by halving: below the count every bit is clear, and the bit at the count is set. -/
theorem ctzAux_spec : ∀ fuel m : Nat, 0 < m → m < 2 ^ fuel →
    ctzAux fuel m < fuel ∧ (∀ i < ctzAux fuel m, m.testBit i = false) ∧ m.testBit (ctzAux fuel m) = true := by
  intro fuel
  induction fuel with
  | zero => intro m hpos hlt; omega
  | succ fuel ih =>
    intro m hpos hlt
    by_cases hodd : m % 2 = 1
    · simp [ctzAux, hodd]
    · obtain ⟨hfuel, hlow, hset⟩ := ih (m / 2) (by omega) (by rw [pow_succ] at hlt; omega)
      simp only [ctzAux, hodd, if_false, Nat.add_comm 1]
      refine ⟨by omega, fun i hi => ?_, by rw [Nat.testBit_succ, hset]⟩
      cases i with
      | zero => simpa using hodd
      | succ i => rw [Nat.testBit_succ, hlow i (by omega)]

theorem trailingZeros_spec (a : Word) : trailingZeros a ≤ 64 ∧ (∀ i < trailingZeros a, a.getLsbD i = false) ∧
    (trailingZeros a < 64 → a.getLsbD (trailingZeros a) = true) := by
  by_cases h : a = 0
  · subst h
    exact ⟨Nat.le_refl _, fun i _ => BitVec.getLsbD_zero, fun hlt => absurd hlt (Nat.lt_irrefl _)⟩
  · have hpos : a.toNat ≠ 0 := fun h0 => h (BitVec.eq_of_toNat_eq h0)
    have hlog : a.toNat.log2 < 64 := (Nat.log2_lt hpos).2 a.isLt
    obtain ⟨hfuel, hlow, hset⟩ := ctzAux_spec (a.toNat.log2 + 1) a.toNat (by omega) Nat.lt_log2_self
    simp only [trailingZeros, ctz, h, hpos, if_false]
    exact ⟨by omega, hlow, fun _ => hset⟩

theorem ones_le (a : Word) : ones a ≤ 64 :=
  Nat.le_trans (List.length_filter_le _ _) (by rw [List.length_range])

/-! ## Bytes reversed -/

theorem leNat_byte : ∀ (bs : List Byte) (i : Nat), leNat bs / 256 ^ i % 256 = (bs.getD i 0).toNat := by
  intro bs
  induction bs with
  | nil => intro i; simp [leNat]
  | cons b bs ih =>
    intro i
    have hb : b.toNat < 256 := b.isLt
    cases i with
    | zero => simp only [leNat, pow_zero, Nat.div_one, List.getD_cons_zero]; omega
    | succ i =>
      rw [pow_succ', ← Nat.div_div_eq_div_mul, show leNat (b :: bs) / 256 = leNat bs by simp only [leNat]; omega, ih, List.getD_cons_succ]

theorem leBytes_getElem? : ∀ (n v i : Nat), i < n → (leBytes n v)[i]? = some (BitVec.ofNat 8 (v / 256 ^ i)) := by
  intro n
  induction n with
  | zero => intro v i h; omega
  | succ n ih =>
    intro v i h
    cases i with
    | zero => simp [leBytes]
    | succ i => rw [leBytes, List.getElem?_cons_succ, ih _ _ (by omega), Nat.div_div_eq_div_mul, ← pow_succ']

theorem byteSwap_byte (a : Word) (i : Nat) (h : i < 8) : (byteSwap a).extractLsb' (8 * (7 - i)) 8 = a.extractLsb' (8 * i) 8 := by
  have hlt : leNat (leBytes 8 a.toNat).reverse < 2 ^ 64 := by simpa using leNat_lt (leBytes 8 a.toNat).reverse
  have hpow : ∀ j, 2 ^ (8 * j) = 256 ^ j := fun j => pow_mul 2 8 j
  have hget : (leBytes 8 a.toNat).reverse.getD (7 - i) 0 = BitVec.ofNat 8 (a.toNat / 256 ^ i) := by
    rw [List.getD_eq_getElem?_getD, List.getElem?_reverse (by rw [leBytes_length]; omega), leBytes_length,
      show 8 - 1 - (7 - i) = i by omega, leBytes_getElem? _ _ _ h, Option.getD_some]
  refine BitVec.eq_of_toNat_eq ?_
  rw [BitVec.extractLsb'_toNat, BitVec.extractLsb'_toNat, byteSwap, BitVec.toNat_ofNat, Nat.mod_eq_of_lt hlt, Nat.shiftRight_eq_div_pow,
    Nat.shiftRight_eq_div_pow, hpow, hpow]
  exact (leNat_byte _ _).trans (by rw [hget, BitVec.toNat_ofNat])

/-! ## The rows of R104 -/

theorem setWidth_eq_extractLsb' (x : Word) (n : Nat) : x.setWidth n = x.extractLsb' 0 n := by
  refine BitVec.eq_of_toNat_eq ?_
  rw [BitVec.toNat_setWidth, BitVec.extractLsb'_toNat, Nat.shiftRight_zero]

theorem toNat_ofNat_le (n : Nat) (h : n ≤ 64) : (BitVec.ofNat 64 n).toNat = n :=
  Nat.mod_eq_of_lt (by omega)

theorem exec_opuRows : ∀ row ∈ opuRows, ∀ (d a : BitVec 7) (s : State),
    ∃ r, row.2.2 (val s a) r ∧ exec (row.2.1 d a) s = .next (wrote s d r (tarn1 s a)) := by
  simp only [opuRows, List.forall_mem_cons, List.not_mem_nil, IsEmpty.forall_iff, implies_true, and_true]
  refine ⟨?clz, ?ctz, ?popc, ?brev, ?bswap, ?sextb, ?sexth, ?sextw⟩
  case clz =>
    refine fun d a s => ⟨BitVec.ofNat 64 (leadingZeros (val s a)), ?_, rfl⟩
    rw [toNat_ofNat_le _ (leadingZeros_spec _).1]
    exact leadingZeros_spec _
  case ctz =>
    refine fun d a s => ⟨BitVec.ofNat 64 (trailingZeros (val s a)), ?_, rfl⟩
    rw [toNat_ofNat_le _ (trailingZeros_spec _).1]
    exact trailingZeros_spec _
  case popc => exact fun d a s => ⟨BitVec.ofNat 64 (ones (val s a)), toNat_ofNat_le _ (ones_le _), rfl⟩
  case brev =>
    refine fun d a s => ⟨(val s a).reverse, fun i h => ?_, rfl⟩
    rw [BitVec.getLsbD_reverse, BitVec.getMsbD]
    simp [show 63 - i < 64 by omega, show 63 - (63 - i) = i by omega]
  case bswap => exact fun d a s => ⟨byteSwap (val s a), byteSwap_byte _, rfl⟩
  case sextb => exact fun d a s => ⟨((val s a).setWidth 8).signExtend 64, by rw [setWidth_eq_extractLsb'], rfl⟩
  case sexth => exact fun d a s => ⟨((val s a).setWidth 16).signExtend 64, by rw [setWidth_eq_extractLsb'], rfl⟩
  case sextw => exact fun d a s => ⟨((val s a).setWidth 32).signExtend 64, by rw [setWidth_eq_extractLsb'], rfl⟩

theorem encode_opuRows : ∀ row ∈ opuRows, ∀ d a : BitVec 7,
    (row.2.1 d a).wf = true ∧ encode (row.2.1 d a) = some (packR 0x03 d a 0 row.1) := by
  simp only [opuRows, List.forall_mem_cons, List.not_mem_nil, IsEmpty.forall_iff, implies_true, and_true]
  and_intros <;> exact fun _ _ => ⟨rfl, rfl⟩

/-- A word of major 0x03 whose field b is not zero encodes no instruction. -/
theorem decodeWord_03_reserved (w : BitVec 32) (hop : opF w = 0x03) (hb : bF w ≠ 0) : ∃ e, decodeWord w = .error e := by
  have hz : (bF w == 0) = false := by simpa using hb
  rw [Laws.decodeWord_03 w (by rw [hop]; rfl)]
  unfold decode03
  simp only [hz]
  split <;> exact ⟨_, rfl⟩

/-! ## The rows of R105 to R107 -/

theorem exec_immRows : ∀ row ∈ immRows, ∀ (d a : BitVec 7) (imm : BitVec 12) (s : State),
    exec (row.2.1 d a imm) s = .next (wrote s d (row.2.2 (val s a) (imm.signExtend 64)) (tarn1 s a)) := by
  simp only [immRows, List.forall_mem_cons, List.not_mem_nil, IsEmpty.forall_iff, implies_true, and_true, ← ofBool_decide]
  exact ⟨fun _ _ _ _ => rfl, fun _ _ _ _ => rfl, fun _ _ _ _ => rfl, fun _ _ _ _ => rfl, fun _ _ _ _ => rfl, fun _ _ _ _ => rfl⟩

theorem encode_immRows : ∀ row ∈ immRows, ∀ (d a : BitVec 7) (imm : BitVec 12),
    (row.2.1 d a imm).wf = true ∧ encode (row.2.1 d a imm) = some (packI row.1 d a imm) := by
  simp only [immRows, List.forall_mem_cons, List.not_mem_nil, IsEmpty.forall_iff, implies_true, and_true]
  and_intros <;> exact fun _ _ _ => ⟨rfl, rfl⟩

theorem exec_shiRows : ∀ row ∈ shiRows, ∀ (d a : BitVec 7) (m : BitVec 6) (s : State),
    exec (row.2.1 d a m) s = .next (wrote s d (row.2.2 (val s a) m.toNat) (tarn1 s a)) := by
  simp only [shiRows, List.forall_mem_cons, List.not_mem_nil, IsEmpty.forall_iff, implies_true, and_true]
  exact ⟨fun _ _ _ _ => rfl, fun _ _ _ _ => rfl, fun _ _ _ _ => rfl, fun _ _ _ _ => rfl⟩

theorem encode_shiRows : ∀ row ∈ shiRows, ∀ (d a : BitVec 7) (m : BitVec 6),
    (row.2.1 d a m).wf = true ∧ encode (row.2.1 d a m) = some (packS 0x0A d a row.1 m) := by
  simp only [shiRows, List.forall_mem_cons, List.not_mem_nil, IsEmpty.forall_iff, implies_true, and_true]
  and_intros <;> exact fun _ _ _ => ⟨rfl, rfl⟩

/-- A word of major 0x0A with imm12[9:6] not zero encodes no instruction. -/
theorem decodeWord_0A_reserved (w : BitVec 32) (hop : opF w = 0x0A) (hres : shResF w ≠ 0) : ∃ e, decodeWord w = .error e := by
  have hz : (shResF w == 0) = false := by simpa using hres
  rw [Laws.decodeWord_0A w (by rw [hop]; rfl)]
  unfold decode0A
  simp only [hz]
  split <;> exact ⟨_, rfl⟩

theorem upper_eq_ofInt (imm : BitVec 19) : upper imm = BitVec.ofInt 64 (imm.toInt * 2 ^ 12) := by
  rw [upper, ← shiftLeft_ofInt64]
  rfl

/-- An address and a large constant add mod 2^52. -/
theorem pc_add_upper (pc : BitVec 52) (imm : BitVec 19) :
    (pc + (upper imm).setWidth 52).setWidth 64 = BitVec.ofInt 64 ((pc.toNat + imm.toInt * 2 ^ 12) % 2 ^ 52) := by
  have hupper : ((upper imm).toNat : Int) = imm.toInt * 2 ^ 12 % 2 ^ 64 := by
    rw [upper_eq_ofInt, BitVec.toNat_ofInt, Int.toNat_of_nonneg (Int.emod_nonneg _ (by decide))]
    rfl
  refine BitVec.eq_of_toNat_eq ?_
  rw [BitVec.toNat_setWidth, BitVec.toNat_add, BitVec.toNat_setWidth, BitVec.toNat_ofInt]
  zify
  rw [Int.toNat_of_nonneg (Int.emod_nonneg _ (by decide)), hupper]
  omega

end Sys2Proof.Machine
end

section
open Sys2Proof Sys2Proof.Machine Sys2Proof.Claims

/-- Settles O13: each function of R104 bit by bit, and field b reserved. -/
theorem countsAndRearrangements : Obligations.CountsAndRearrangements := by
  unfold Obligations.CountsAndRearrangements
  intro row hrow d a s
  obtain ⟨hwf, hword⟩ := encode_opuRows row hrow d a
  refine ⟨Laws.Encoding.all _ hwf _ hword, fun b hb => ?_, exec_opuRows row hrow d a s⟩
  obtain ⟨hop, _, _, hfield, _⟩ := Laws.packR_fields 0x03 d a b row.1
  exact decodeWord_03_reserved _ hop (by rwa [hfield])

/-- Settles O14: the immediate forms are their rows' functions, and the large constants are computed mod 2^64 and mod 2^52. -/
theorem immediateForms : Obligations.ImmediateForms := by
  unfold Obligations.ImmediateForms
  refine ⟨fun row hrow d a imm s => ?_, ⟨fun row hrow d a m s => ?_, decodeWord_0A_reserved⟩, fun d imm s => ⟨?_, ?_, ?_, ?_⟩⟩
  · obtain ⟨hwf, hword⟩ := encode_immRows row hrow d a imm
    exact ⟨Laws.Encoding.all _ hwf _ hword, exec_immRows row hrow d a imm s⟩
  · obtain ⟨hwf, hword⟩ := encode_shiRows row hrow d a m
    exact ⟨Laws.Encoding.all _ hwf _ hword, exec_shiRows row hrow d a m s⟩
  · exact Laws.Encoding.all (.lih d imm) rfl _ rfl
  · exact Laws.Encoding.all (.pcadd d imm) rfl _ rfl
  · rw [← upper_eq_ofInt]
    rfl
  · rw [← pc_add_upper]
    rfl

end

section
/-! Conditional branches, and the trap of a tarnished deciding operand (R101, R120, R121). -/

namespace Sys2Proof.Machine
open Sys2Proof.Claims

variable {s : State}

/-- A tarnished deciding operand traps in a D context under the trap policy, before any effect (R101). -/
theorem decide_traps {b : Bool} (h : TrapsOnTarnish s) (hb : b = true) : decide_ b s = .error (.trap (plainTrap 0x08 0)) s := by
  obtain ⟨hd, hp⟩ := h
  rw [decide_, M.bind_ok (M.getS_run s), if_pos (by rw [hb, hd, hp]; rfl)]
  rfl

/-- The test of each row of R120, as the model writes it. -/
theorem exec_branchRows : ∀ row ∈ branchRows, ∀ (a b : BitVec 7) (off : BitVec 12) (s : State),
    exec (row.2.1 a b off) s = runM false (branch row.2.2 a b off) s := by
  simp only [branchRows, List.forall_mem_cons, List.not_mem_nil, IsEmpty.forall_iff, implies_true, and_true]
  refine ⟨?beq, ?bne, ?blt, ?bge, ?bltu, ?bgeu⟩
  case beq => exact fun _ _ _ _ => rfl
  case bne =>
    intro a b off s
    simp only [ne_eq, decide_not]
    rfl
  case blt => exact fun _ _ _ _ => rfl
  case bge => exact fun _ _ _ _ => rfl
  case bltu => exact fun _ _ _ _ => rfl
  case bgeu => exact fun _ _ _ _ => rfl

theorem encode_branchRows : ∀ row ∈ branchRows, ∀ (a b : BitVec 7) (off : BitVec 12),
    (row.2.1 a b off).wf = true ∧ encode (row.2.1 a b off) = some (packI row.1 a b off) := by
  simp only [branchRows, List.forall_mem_cons, List.not_mem_nil, IsEmpty.forall_iff, implies_true, and_true]
  and_intros <;> exact fun _ _ _ => ⟨rfl, rfl⟩

section
variable {f : Word → Word → Bool} {d a b : BitVec 7} {imm off : BitVec 12}

theorem branch_passes (h : ¬ (TrapsOnTarnish s ∧ tarn2 s a b = true)) :
    branch f a b off s = .ok () (goesTo s (if f (val s a) (val s b) then target s off.toInt else s.strand.pc + 4)) := by
  have hp : decide_ ((s.strand.reg a).tarn || (s.strand.reg b).tarn) s = .ok () s := decide_passes h
  rw [branch, M.bind_ok (M.getS_run s), M.bind_ok hp, M.modS_run, ← relative12_target]
  rfl

theorem branch_traps (h : TrapsOnTarnish s) (ht : tarn2 s a b = true) : branch f a b off s = .error (.trap (plainTrap 0x08 0)) s := by
  have hp : decide_ ((s.strand.reg a).tarn || (s.strand.reg b).tarn) s = .error (.trap (plainTrap 0x08 0)) s := decide_traps h ht
  rw [branch, M.bind_ok (M.getS_run s), M.bind_error hp]

theorem loopStep_traps (h : TrapsOnTarnish s) (ht : loopTarn s = true) : loopStep off s = .error (.trap (plainTrap 0x08 0)) s := by
  have hp : decide_ (s.strand.ctl.laps.tarn || s.windowTarn s.strand.depth) s = .error (.trap (plainTrap 0x08 0)) s := decide_traps h ht
  rw [loopStep, M.bind_ok (M.getS_run s), M.bind_ok (M.get_run s), M.bind_error hp]

theorem jumpRegister_traps (h : TrapsOnTarnish s) (ht : tarn1 s a = true) : jumpRegister d a imm s = .error (.trap (plainTrap 0x08 0)) s := by
  have hp : decide_ (s.strand.reg a).tarn s = .error (.trap (plainTrap 0x08 0)) s := decide_traps h ht
  rw [jumpRegister, M.bind_ok (M.getS_run s), M.bind_error hp]

end

end Sys2Proof.Machine
end

section
open Sys2Proof Sys2Proof.Machine Sys2Proof.Claims

/-- Settles O22: a branch is its check and one update of the pc; the check's trap comes before any effect. -/
theorem branchesComplete : Obligations.BranchesComplete := by
  unfold Obligations.BranchesComplete
  refine ⟨fun row hrow a b off s => ?_, fun row hrow a b off s h ht => ?_, fun off s h ht => runM_trap (loopStep_traps h ht),
    fun d a imm s h ht => runM_trap (jumpRegister_traps h ht)⟩
  · obtain ⟨hwf, hword⟩ := encode_branchRows row hrow a b off
    refine ⟨Laws.Encoding.all _ hwf _ hword, fun h => ?_⟩
    rw [exec_branchRows row hrow]
    exact runM_ok (branch_passes h)
  · rw [exec_branchRows row hrow]
    exact runM_trap (branch_traps h ht)

end

section
/-! What the memory system, the hub and the drain of a dirty FIFO leave alone (R111, R294, R308): the guest copies and what decides their scope, the
launches, and of commands all but the token words that stand in memory. One lemma per operation, each in the shape of the operation. -/

namespace Sys2Proof.Machine

/-- A command but for the word in memory in which its token stands. -/
def Cmd.untoken (c : Cmd) : Cmd := { c with tokKey := none }

/-- `u` has the guest copies, launches, ordered atomics and commands of `s`, but for tokens, and link 1 runs CXL as before. -/
structure State.KeepsTables (s u : State) : Prop where
  guests : u.guests = s.guests
  launches : u.launches = s.launches
  ordEntries : u.ordEntries = s.ordEntries
  cmds : u.cmds.map Cmd.untoken = s.cmds.map Cmd.untoken
  devst : u.reg64 (vfAddr 32 0x1000) = s.reg64 (vfAddr 32 0x1000)

namespace State.KeepsTables

variable {α : Type} {s u v : State}

/-- An update of fields that the frame does not speak of. -/
theorem of_fields {
    strand parked agenda fresh ticks resetAt coldAt mem tarn poison oldCode tlb assay resv escrow phases barriers cores nextCmd frozenQ stored
    ordStreams queries nodes held records hostHeld msix msixHeld chipUnits parity upsets flips l1Errors failures compressed locked
    stalled migrate retired badBands scrubs links failed devfail fw switched chron powered throttle down breaks halted goOn reply
    nonVolatile} (h : s.KeepsTables u) : s.KeepsTables ⟨
      strand, parked, agenda, fresh, ticks, resetAt, coldAt, mem, tarn, poison, u.dev, oldCode, tlb, u.guests, assay, resv, escrow,
      phases, barriers, cores, u.cmds, nextCmd, frozenQ, stored, ordStreams, u.ordEntries, queries, u.launches, nodes, held, records,
      hostHeld, msix, msixHeld, chipUnits, parity, upsets, flips, l1Errors, failures, compressed, locked, stalled, migrate,
      retired, badBands, scrubs, links, failed, devfail, fw, switched, chron, powered, throttle, down, breaks, halted, goOn,
      reply, nonVolatile⟩ := ⟨h.guests, h.launches, h.ordEntries, h.cmds, h.devst⟩

theorem refl (s : State) : s.KeepsTables s := ⟨rfl, rfl, rfl, rfl, rfl⟩

theorem trans (h : s.KeepsTables u) (h' : u.KeepsTables v) : s.KeepsTables v :=
  ⟨h'.guests.trans h.guests, h'.launches.trans h.launches, h'.ordEntries.trans h.ordEntries, h'.cmds.trans h.cmds, h'.devst.trans h.devst⟩

theorem ite {c : Prop} {_ : Decidable c} (h : s.KeepsTables u) (h' : s.KeepsTables v) : s.KeepsTables (if c then u else v) := by
  split <;> assumption

theorem fst_ite {c : Prop} {_ : Decidable c} {p q : State × α} (h : s.KeepsTables p.1) (h' : s.KeepsTables q.1) :
    s.KeepsTables (if c then p else q).1 := by
  split <;> assumption

theorem foldl {f : State → α → State} {l : List α} (h : s.KeepsTables u) (hf : ∀ v x, s.KeepsTables v → s.KeepsTables (f v x)) :
    s.KeepsTables (l.foldl f u) :=
  List.foldlRecOn l f h fun v hv x _ => hf v x hv

/-- The scope whose acquire drops a line's copies is as before. -/
theorem guestScope (h : s.KeepsTables u) (place k : Nat) (unc : Bool) : u.guestScope place k unc = s.guestScope place k unc := by
  unfold State.guestScope State.cxl
  rw [h.devst]

theorem setField {a lo n x} (ha : vfAddr 32 0x1000 ≠ a) (h : s.KeepsTables u) : s.KeepsTables (u.setField a lo n x) :=
  ⟨h.guests, h.launches, h.ordEntries, h.cmds, (State.reg64_setField_of_ne u lo n x ha).trans h.devst⟩

theorem setField_lt {a lo n x} (ha : a < vfBase) (h : s.KeepsTables u) : s.KeepsTables (u.setField a lo n x) :=
  h.setField (Nat.ne_of_gt (Nat.lt_of_lt_of_le ha (vfBase_le_vfAddr _ _)))

theorem request {k} (hk : k < hbmEnd) (h : s.KeepsTables u) : s.KeepsTables (u.request k) := by
  have hf {v : State} {lo n x} (hv : s.KeepsTables v) := hv.setField_lt (lo := lo) (n := n) (x := x) (refrec_lt hk)
  exact .ite (hf (.ite (hf h) h)) (.ite (hf h) h)

theorem putSector {line data} (h : s.KeepsTables u) : s.KeepsTables (u.putSector line data) := .of_fields h

theorem putUnit {unit data} (h : s.KeepsTables u) : s.KeepsTables (u.putUnit unit data) := .of_fields (h.foldl fun _ _ h => h.putSector)

theorem handleUnit {line} (hl : 64 * line < hbmEnd) (h : s.KeepsTables u) : s.KeepsTables (u.handleUnit line) := by
  unfold State.handleUnit
  extract_lets unit held data fails k s1
  have hk : k < hbmEnd := by
    have hi : (fails held).headD 0 < 8 := State.HubAccess.firstFailing_lt _
    simp only [k, unit, hbmEnd] at hl ⊢
    omega
  have h1 : s.KeepsTables s1 := h.foldl fun _ _ h => h.putSector
  exact .ite (.of_fields (h.putUnit.setField_lt (pcherr_lt hk))) (.of_fields (h1.setField_lt (pcherr_lt hk)))

theorem readSector {line} (hl : 64 * line < hbmEnd) (h : s.KeepsTables u) : s.KeepsTables (u.readSector line) :=
  .ite h (.ite (.of_fields h.putSector) (h.handleUnit hl))

theorem reachHbm {k whole} (h : s.KeepsTables u) : s.KeepsTables (u.reachHbm k whole) := by
  unfold State.reachHbm
  split
  · exact h
  · next hc =>
    have hk : k < hbmEnd := by
      simp only [Bool.not_eq_true', Bool.not_eq_false, Bool.and_eq_true, decide_eq_true_eq] at hc
      exact hc.1
    have hl : 64 * lineOf k < hbmEnd := by
      rw [lineOf]
      omega
    have hu : s.KeepsTables { u with fresh := u.fresh + 1 } := .of_fields h
    exact .ite hu (.ite (hu.request hk) ((hu.request hk).readSector hl))

theorem reachRange {k n write} (h : s.KeepsTables u) : s.KeepsTables (u.reachRange k n write) := .ite h (h.foldl fun _ _ h => h.reachHbm)

theorem writeCells {k n} (h : s.KeepsTables u) : s.KeepsTables (u.writeCells k n) := .ite h (.of_fields h)

theorem setMem {m} (h : s.KeepsTables u) : s.KeepsTables { u with mem := m } := .of_fields h

/-- A write may end that a token stands in memory, and changes nothing else of a command. -/
theorem noteStore {det k n} (h : s.KeepsTables u) : s.KeepsTables (u.noteStore det k n) := by
  refine ⟨h.guests, h.launches, h.ordEntries, Eq.trans ?_ h.cmds, h.devst⟩
  simp only [State.noteStore, List.map_map]
  refine List.map_congr_left fun c _ => ?_
  generalize (if n = 0 then [] else _) = ws
  simp only [Function.comp_apply]
  split
  · split <;> rfl
  · rfl

theorem breakLinks {by_ line} (h : s.KeepsTables u) : s.KeepsTables (u.breakLinks by_ line) := .of_fields h

theorem orTarn {line t} (h : s.KeepsTables u) : s.KeepsTables (u.orTarn line t) := .ite (.of_fields h) h

theorem homeStore {place k bs t} (h : s.KeepsTables u) : s.KeepsTables (u.homeStore place k bs t) :=
  h.setMem.writeCells.noteStore.orTarn.breakLinks

theorem touchTables {part va n a} (h : s.KeepsTables u) : s.KeepsTables (u.touchTables part va n a) := by
  induction n generalizing u a with
  | zero => exact h
  | succ n ih => exact .ite h (.ite h.reachHbm (ih h.reachHbm))

theorem touchWalk {part va} (h : s.KeepsTables u) : s.KeepsTables (u.touchWalk part va) := .ite h h.touchTables

theorem cacheLeaf {part va e addr} (h : s.KeepsTables u) : s.KeepsTables (u.cacheLeaf part va e addr) := .ite (.of_fields h) (.of_fields h)

theorem setAD {addr e a} (h : s.KeepsTables u) : s.KeepsTables (u.setAD addr e a) := .ite h h.setMem.writeCells

theorem useEntry {q e va a addr} (h : s.KeepsTables u) :
    s.KeepsTables (match u.useLeaf q e va a with
      | .error f => (u, Except.error f)
      | .ok x => ((u.setAD addr e a).cacheLeaf q.part va (e ||| a.marks) addr, Except.ok x)).1 := by
  split
  · exact h
  · exact h.setAD.cacheLeaf

theorem translateNow {q va a} (h : s.KeepsTables u) : s.KeepsTables (u.translateNow q va a).1 := by
  refine .fst_ite h (.fst_ite h ?_)
  dsimp only
  split
  · split
    · exact h
    · exact h.useEntry
  · have hu : s.KeepsTables { u with fresh := u.fresh + 1 } := .of_fields h
    split
    · exact hu.useEntry
    · split
      · exact hu
      · exact hu.useEntry

theorem translate {q va a} (h : s.KeepsTables u) : s.KeepsTables (u.translate q va a).1 := .translateNow (.ite h h.touchWalk)

theorem hubPut {part k bs} (h : s.KeepsTables u) : s.KeepsTables (u.hubPut part k bs) :=
  .ite (.of_fields h) (h.reachRange.setMem.writeCells.noteStore.foldl fun _ _ h => h.breakLinks)

theorem hubBytes {part n va bs} (h : s.KeepsTables u) : s.KeepsTables (u.hubBytes part n va bs) := by
  induction n generalizing u va bs with
  | zero => exact h
  | succ n ih =>
    cases bs with
    | nil => exact h
    | cons b bs =>
      refine ih ?_
      dsimp only
      split
      · exact h.translate.hubPut
      · exact h.translate

theorem hubWrite {part va bs} (h : s.KeepsTables u) : s.KeepsTables (u.hubWrite part va bs) := by
  refine h.hubBytes.foldl fun _ _ h => ?_
  split
  · exact .of_fields h
  · exact h

theorem interrupt {fn vec} (h : s.KeepsTables u) : s.KeepsTables (u.interrupt fn vec) := .ite (.of_fields h) (.of_fields h)

theorem chronicle {source part cause a0 a1} (h : s.KeepsTables u) : s.KeepsTables (u.chronicle source part cause a0 a1) := .ite h (.of_fields h)

theorem chronicleRecord {ring kind words place cmd} (h : s.KeepsTables u) : s.KeepsTables (u.chronicleRecord ring kind words place cmd) :=
  .ite h.chronicle (.ite h.chronicle h.chronicle)

/-- No ring's TAIL is DEVST. -/
theorem devst_ne_tail (ring : Nat) : vfAddr 32 0x1000 ≠ vfAddr ring 0x50 := by
  rw [vfAddr_eq, vfAddr_eq]
  omega

theorem enterRecord {ring words} (h : s.KeepsTables u) : s.KeepsTables (u.enterRecord ring words) :=
  have ht : s.KeepsTables _ := h.hubWrite.setField (devst_ne_tail ring)
  .ite ht.interrupt ht

theorem postRecord {ring kind words place cmd} (h : s.KeepsTables u) : s.KeepsTables (u.postRecord ring kind words place cmd).1 := by
  have hc {l} : s.KeepsTables { u.chronicleRecord ring kind words place cmd with records := l } := .of_fields h.chronicleRecord
  exact .ite hc hc.enterRecord

theorem loseWriteback {part k} (h : s.KeepsTables u) : s.KeepsTables (u.loseWriteback part k) :=
  have hb : s.KeepsTables (u.loseBlock k) := ⟨h.guests, h.launches, h.ordEntries, h.cmds, h.devst⟩
  hb.postRecord

/-! ## Draining -/

theorem drainOne {c} (h : s.KeepsTables u) : s.KeepsTables (u.drainOne c) := by
  unfold State.drainOne
  dsimp only
  split
  · exact h
  · next e es _ =>
    have hp : s.KeepsTables (u.setCore { u.core c with fifo := es }) := .of_fields h
    exact .ite h (.ite hp.loseWriteback hp.reachHbm.homeStore)

theorem drainN {c n} (h : s.KeepsTables u) : s.KeepsTables (u.drainN c n) := by
  induction n generalizing u with
  | zero => exact h
  | succ n ih => exact ih h.drainOne

theorem drainWhile {c p n} (h : s.KeepsTables u) : s.KeepsTables (u.drainWhile c p n) := by
  induction n generalizing u with
  | zero => exact h
  | succ n ih => exact .ite (ih h.drainOne) h

theorem drainLine {c line n} (h : s.KeepsTables u) : s.KeepsTables (u.drainLine c line n) := by
  induction n generalizing u with
  | zero => exact h
  | succ n ih => exact .ite (ih h.drainOne) h

theorem drainAll {c} (h : s.KeepsTables u) : s.KeepsTables (u.drainAll c) := h.drainN

end State.KeepsTables

end Sys2Proof.Machine
end

section
/-! Draining a dirty FIFO, and cache control (R111, R113, R240, R241, R294, R308): what a drain may change, which entries it leaves, and what an
acquire drops. -/

namespace Sys2Proof.Machine
open Sys2Proof.Claims

/-! ## HBM at rest -/

/-- A register outside the stored ones stands at its reset value. -/
theorem devGet_of_unlisted {l : List (Nat × Word)} {a : Nat} (h : ∀ r ∈ l, r.1 ≠ a) : devGet l a = devReset a := by
  induction l with
  | nil => rfl
  | cons r l ih =>
    obtain ⟨k, v⟩ := r
    have hne : a ≠ k := Ne.symm (h (k, v) List.mem_cons_self)
    rw [devGet, if_neg hne, ih fun r hr => h r (List.mem_cons_of_mem _ hr)]

/-- A pseudo-channel's refresh register lies among those of the stacks. -/
theorem stackBase_le_refrec (stack pch : Nat) : stackBase ≤ refrec stack pch := by
  simp only [refrec, stackCtl]
  omega

theorem refrec_lt_apertureTable {k : Nat} (h : k < hbmEnd) : refrec (pchOf k).1 (pchOf k).2 < apertureTable := by
  simp only [refrec, pchOf, stackCtl, hbmEnd, hbmDie, hbmBand, stackBase, apertureTable] at h ⊢
  omega

theorem State.flips_of_hbmQuiet {s : State} (h : s.hbmQuiet = true) : s.flips = [] := by
  simp only [State.hbmQuiet, Bool.and_eq_true, decide_eq_true_eq] at h
  exact h.1

/-- With HBM at rest no access to it shows. -/
theorem State.reachHbm_of_hbmQuiet {s : State} (h : s.hbmQuiet = true) (k : Nat) (whole : Bool) : s.reachHbm k whole = s := by
  refine if_pos ?_
  by_cases hk : k < hbmEnd
  · have hreg : s.reg64 (refrec (pchOf k).1 (pchOf k).2) = 0 := by
      simp only [State.hbmQuiet, Bool.and_eq_true, List.all_eq_true, Bool.or_eq_true, decide_eq_true_eq] at h
      have hlo := stackBase_le_refrec (pchOf k).1 (pchOf k).2
      have hhi := refrec_lt_apertureTable hk
      rw [State.reg64, devGet_of_unlisted fun r hr => by have := h.2 r hr; omega, devReset, if_neg]
      intro ⟨_, hlt, _⟩
      simp only [stackBase, ctlBase] at hlo hlt
      omega
    simp [State.pchStirs, State.selfRefresh, State.refreshRec, hreg, State.flips_of_hbmQuiet h, signed, getBits]
  · simp [hk]

/-! ## What a drain may change -/

/-- Bytes put elsewhere leave a byte alone. -/
theorem Mem.read_put_of_outside {m : List Host.Cell} {a : Nat} {bs : List Byte} {x : Nat} (h : Memory.wf m = true)
    (hx : x < a ∨ a + bs.length ≤ x) : Mem.read (Mem.put m a bs) x = Mem.read m x := by
  induction bs generalizing m a with
  | nil => rfl
  | cons b bs ih =>
    simp only [List.length_cons] at hx
    rw [Mem.put, ih (Memory.wf_write a b h) (by omega), Mem.read_write_of_ne b h (by omega)]

/-- No hardware failure is due, and no request to HBM would show. -/
structure State.AtRest (s : State) : Prop where
  upsets : s.upsets = []
  quiet : s.hbmQuiet = true

/-- What a drain of a core's FIFO changes when nothing in HBM shows: the bytes of its stores, and no register. -/
structure State.StoresDrained (core : Nat) (s u : State) : Prop where
  rest : u.AtRest
  dev : u.dev = s.dev
  mem : s.Canonical → ∀ k, (∀ e ∈ (s.core core).fifo, k < e.key ∨ e.key + e.data.length ≤ k) → Mem.read u.mem k = Mem.read s.mem k

/-- `u` comes from `s` by draining stores of one core. -/
structure State.CoreDrained (core : Nat) (s u : State) : Prop where
  drains : s.Drains u
  cmds : u.cmds.map Cmd.untoken = s.cmds.map Cmd.untoken
  cores : ∀ k, k ≠ core → u.core k = s.core k
  canonical : s.Canonical → u.Canonical
  stores : s.AtRest → s.StoresDrained core u

namespace State.CoreDrained

variable {core : Nat} {s u v : State}

theorem refl (core : Nat) (s : State) : s.CoreDrained core s :=
  ⟨.refl s, rfl, fun _ _ => rfl, id, fun h => ⟨h, rfl, fun _ _ _ => rfl⟩⟩

theorem trans (h : s.CoreDrained core u) (h' : u.CoreDrained core v) : s.CoreDrained core v := by
  refine ⟨h.drains.trans h'.drains, h'.cmds.trans h.cmds, fun k hk => (h'.cores k hk).trans (h.cores k hk), h'.canonical ∘ h.canonical, fun hr => ?_⟩
  obtain ⟨hrest, hdev, hmem⟩ := h.stores hr
  obtain ⟨hrest', hdev', hmem'⟩ := h'.stores hrest
  refine ⟨hrest', hdev'.trans hdev, fun hc k hk => ?_⟩
  exact (hmem' (h.canonical hc) k fun e he => hk e ((h.drains.fifo core).subset he)).trans (hmem hc k hk)

/-- The guest copies, and how many free choices have been drawn, are no part of it. -/
theorem setGuests {n : Nat} {l : List Guest} (h : s.CoreDrained core u) : s.CoreDrained core { u with fresh := n, guests := l } :=
  h.trans ⟨⟨rfl, rfl, fun _ => List.suffix_refl _⟩, rfl, fun _ _ => rfl, fun h => ⟨h.wf⟩, fun h => ⟨⟨h.upsets, h.quiet⟩, rfl, fun _ _ _ => rfl⟩⟩

theorem foldl {α : Type} {f : State → α → State} (hf : ∀ (u : State) x, u.CoreDrained core (f u x)) (l : List α) : s.CoreDrained core (l.foldl f s) :=
  List.foldlRecOn l f (refl core s) fun _ hv _ _ => hv.trans (hf _ _)

/-- A store that a drain performs, with nothing in HBM that would show. -/
theorem storesDrained_drainOne (h : s.AtRest) : s.StoresDrained core (s.drainOne core) := by
  cases he : (s.core core).fifo with
  | nil =>
    simp only [State.drainOne, he]
    exact (refl core s).stores h
  | cons e es =>
    simp only [State.drainOne, he]
    split
    · exact (refl core s).stores h
    · generalize hu : s.setCore { s.core core with fifo := es } = u
      have hups : u.upsets = [] := hu ▸ h.upsets
      have hq : u.hbmQuiet = true := hu ▸ h.quiet
      have hgone : u.metaGone e.key = false := by simp [State.metaGone, hups]
      have hcells (k n : Nat) (m : List Host.Cell) : ({ u with mem := m } : State).writeCells k n = { u with mem := m } :=
        if_pos (by simp [State.flips_of_hbmQuiet hq])
      simp only [hgone, Bool.false_eq_true, if_false, State.reachHbm_of_hbmQuiet hq]
      have hdev : (u.homeStore e.place e.key e.data e.tarn).dev = u.dev := State.dev_homeStore _ _ _ _ _
      have hflips : (u.homeStore e.place e.key e.data e.tarn).flips = u.flips := by
        simp only [State.homeStore, hcells]
        unfold State.orTarn
        split <;> rfl
      have hupsets : (u.homeStore e.place e.key e.data e.tarn).upsets = u.upsets := by
        simp only [State.homeStore, hcells]
        unfold State.orTarn
        split <;> rfl
      refine ⟨⟨hupsets.trans hups, ?_⟩, hdev.trans (by rw [← hu]; rfl), fun hc k hk => ?_⟩
      · rw [State.hbmQuiet, hflips, hdev]
        exact hq
      · have hm : u.mem = s.mem := by rw [← hu]; rfl
        rw [State.mem_homeStore, hm]
        exact Mem.read_put_of_outside hc.wf (hk e (he ▸ List.mem_cons_self))

theorem cores_drainOne (s : State) {core k : Nat} (hk : k ≠ core) : (s.drainOne core).core k = s.core k := by
  have hset (es : List FifoEntry) : (s.setCore { s.core core with fifo := es }).core k = s.core k :=
    State.core_setCore_of_ne s (by rw [s.core_core]; exact hk)
  unfold State.drainOne
  dsimp only
  split
  · rfl
  · split
    · rfl
    · split
      · rw [(State.KeepsContext.refl _).loseWriteback.core, hset]
      · rw [(State.KeepsContext.refl _).reachHbm.homeStore.core, hset]

theorem drainOne (core : Nat) (s : State) : s.CoreDrained core (s.drainOne core) :=
  ⟨.drainOne s core, (State.KeepsTables.refl s).drainOne.cmds, fun _ => cores_drainOne s, State.Canonical.drainOne, storesDrained_drainOne⟩

theorem drainN (core n : Nat) (s : State) : s.CoreDrained core (s.drainN core n) := by
  induction n generalizing s with
  | zero => exact refl core s
  | succ n ih => exact (drainOne core s).trans (ih _)

theorem drainAll (core : Nat) (s : State) : s.CoreDrained core (s.drainAll core) := drainN core _ s

theorem drainWhile (core : Nat) (p : FifoEntry → Bool) (n : Nat) (s : State) : s.CoreDrained core (s.drainWhile core p n) := by
  induction n generalizing s with
  | zero => exact refl core s
  | succ n ih =>
    unfold State.drainWhile
    split
    · exact (drainOne core s).trans (ih _)
    · exact refl core s

/-- What a drain leaves, as the claims about cache control say it. -/
theorem onlyDrained (h : s.CoreDrained core u) : OnlyDrained s u core := by
  refine ⟨h.drains.strand, h.cmds, h.cores, fun hups hq => ?_⟩
  obtain ⟨-, hdev, hmem⟩ := h.stores ⟨hups, hq⟩
  exact ⟨hdev, fun hi => hmem ⟨hi⟩⟩

end State.CoreDrained

/-! ## What a drain of lines leaves in the FIFO -/

/-- No store of a core's FIFO waits for a locked page. -/
theorem State.not_locked_of_drainBlocked {s : State} {core : Nat} (hb : s.drainBlocked core = false) :
    ∀ e ∈ (s.core core).fifo, s.locked.contains (e.key / 4096) = false := by
  intro e he
  by_cases hl : s.locked = []
  · simp [hl]
  · simp only [State.drainBlocked, hl, ne_eq, not_false_eq_true, decide_true, Bool.true_and, List.any_eq_false] at hb
    exact Bool.eq_false_of_not_eq_true (hb e he)

/-- Draining a line is draining while a store to it is left. -/
theorem State.drainLine_eq (s : State) (core line n : Nat) : s.drainLine core line n = s.drainWhile core (fun e => lineOf e.key = line) n := by
  induction n generalizing s with
  | zero => rfl
  | succ n ih => simp only [State.drainLine, State.drainWhile, ih]

/-- Draining while some store is left leaves none of them, where none waits for a locked page. -/
theorem State.fifo_drainWhile {core n : Nat} {p : FifoEntry → Bool} {s : State} (hn : (s.core core).fifo.length ≤ n)
    (hb : s.drainBlocked core = false) : ∀ e ∈ ((s.drainWhile core p n).core core).fifo, p e = false := by
  induction n generalizing s with
  | zero =>
    have hnil := List.eq_nil_of_length_eq_zero (Nat.le_zero.mp hn)
    simp [State.drainWhile, hnil]
  | succ n ih =>
    unfold State.drainWhile
    split
    · next hany =>
      cases he : (s.core core).fifo with
      | nil => simp [he] at hany
      | cons e es =>
        have hpop := State.fifo_drainOne he (State.not_locked_of_drainBlocked hb e (he ▸ List.mem_cons_self))
        refine ih ?_ ((State.Drains.drainOne s core).drainBlocked hb)
        rw [hpop]
        rw [he] at hn
        exact Nat.le_of_succ_le_succ hn
    · next hany => simpa using hany

/-- Where none of them is left, nothing drains. -/
theorem State.drainWhile_of_none {core : Nat} {p : FifoEntry → Bool} {s : State} (h : ∀ e ∈ (s.core core).fifo, p e = false) (n : Nat) :
    s.drainWhile core p n = s := by
  cases n with
  | zero => rfl
  | succ n => exact if_neg (by simpa using h)

/-- Draining a line leaves no store to it, where none waits for a locked page. -/
theorem State.fifo_drainLine {core line n : Nat} {s : State} (hn : (s.core core).fifo.length ≤ n) (hb : s.drainBlocked core = false) :
    ∀ e ∈ ((s.drainLine core line n).core core).fifo, lineOf e.key ≠ line := by
  rw [State.drainLine_eq]
  exact fun e he => of_decide_eq_false (State.fifo_drainWhile hn hb e he)

theorem State.CoreDrained.drainLine (core line n : Nat) (s : State) : s.CoreDrained core (s.drainLine core line n) := by
  rw [State.drainLine_eq]
  exact .drainWhile core _ n s

/-- Lines drained one after another leave no store to any of them. -/
theorem State.fifo_drainLines {core : Nat} {lines : List Nat} {s : State} (hb : s.drainBlocked core = false) :
    ∀ e ∈ ((lines.foldl (fun u l => u.drainLine core l (u.core core).fifo.length) s).core core).fifo, lineOf e.key ∉ lines := by
  induction lines generalizing s with
  | nil => simp
  | cons l ls ih =>
    have hd := (State.CoreDrained.drainLine core l (s.core core).fifo.length s).drains
    intro e he
    have hrest : (s.drainLine core l (s.core core).fifo.length).CoreDrained core
        (ls.foldl (fun u l => u.drainLine core l (u.core core).fifo.length) (s.drainLine core l (s.core core).fifo.length)) :=
      .foldl (fun u l => .drainLine core l _ u) ls
    have hfirst := State.fifo_drainLine (line := l) (Nat.le_refl _) hb e ((hrest.drains.fifo core).subset he)
    exact fun hmem => (List.mem_cons.mp hmem).elim hfirst (ih (hd.drainBlocked hb) e he)

/-! ## Cache control -/

theorem State.core_setGuests (u : State) (n : Nat) (l : List Guest) (core : Nat) : ({ u with fresh := n, guests := l } : State).core core = u.core core :=
  rfl

section
variable (s : State) (va n : Nat)

theorem State.coreDrained_flushRange : s.CoreDrained (coreOf s.strand.place) (s.flushRange va n) :=
  .foldl (fun u l => .drainLine _ l _ u) _

theorem State.guests_flushRange : (s.flushRange va n).guests = s.guests := by
  have hk : s.KeepsTables (s.flushRange va n) := (State.KeepsTables.refl s).foldl fun _ _ h => h.drainLine
  exact hk.guests

variable {s va n}

/-- A flush leaves no store to a line of its range. -/
theorem State.fifo_flushRange (hb : s.drainBlocked (coreOf s.strand.place) = false) :
    ∀ e ∈ ((s.flushRange va n).core (coreOf s.strand.place)).fifo, s.rangeTouches s.strand va n (lineOf e.key) = false := by
  intro e he
  have hout := State.fifo_drainLines hb e he
  have hin := ((s.coreDrained_flushRange va n).drains.fifo (coreOf s.strand.place)).subset he
  simpa [List.mem_filter, List.mem_map_of_mem (f := fun e : FifoEntry => lineOf e.key) hin] using hout

variable (s va n)

theorem State.coreDrained_invalidateRange : s.CoreDrained (coreOf s.strand.place) (s.invalidateRange va n) := by
  have h := s.coreDrained_flushRange va n
  unfold State.invalidateRange
  dsimp only
  split
  · exact h.setGuests
  · exact .setGuests (h.setGuests.trans (.drainAll _ _))

/-- An invalidation drops copies of the core, those of the range among them. -/
theorem State.guests_invalidateRange : ∃ keep : Guest → Bool, (s.invalidateRange va n).guests = s.guests.filter keep ∧
    (∀ g, keep g = true → g.core = coreOf s.strand.place → s.rangeTouches s.strand va n g.line = false) ∧
    ∀ g, g.core ≠ coreOf s.strand.place → keep g = true := by
  unfold State.invalidateRange
  dsimp only
  split
  · refine ⟨fun g => !(g.core = coreOf s.strand.place && s.rangeTouches s.strand va n g.line), ?_, fun g hg hc => ?_, fun g hg => ?_⟩
    · rw [← s.guests_flushRange va n]
    · simpa [hc] using hg
    · simp [hg]
  · refine ⟨fun g => decide (g.core ≠ coreOf s.strand.place) && !(g.core = coreOf s.strand.place && s.rangeTouches s.strand va n g.line),
      ?_, fun g hg hc => ?_, fun g hg => ?_⟩
    · rw [← s.guests_flushRange va n, ← List.filter_filter]
    · simp [hc] at hg
    · simp [hg]

variable {s va n}

theorem State.fifo_invalidateRange (hb : s.drainBlocked (coreOf s.strand.place) = false) :
    ∀ e ∈ ((s.invalidateRange va n).core (coreOf s.strand.place)).fifo, s.rangeTouches s.strand va n (lineOf e.key) = false := by
  unfold State.invalidateRange
  dsimp only
  split
  · exact State.fifo_flushRange hb
  · intro e he
    rw [State.core_setGuests] at he
    have hin := ((State.Drains.drainAll _ _).fifo _).subset he
    rw [State.core_setGuests] at hin
    exact State.fifo_flushRange hb e hin

end

/-- The copies that an acquire at package scope or wider leaves: other cores', and those of lines outside its scope (R113). -/
theorem State.mem_guests_acquireAt {s : State} {place scope : Nat} (hs : 4 ≤ scope) (g : Guest) : g ∈ (s.acquireAt place scope).guests ↔
    g ∈ s.guests ∧ (g.core ≠ coreOf place ∨ ∃ c, s.guestScope place (g.line * 64) false = some c ∧ scope < c) := by
  rw [State.acquireAt, if_neg (Nat.not_lt.mpr hs), List.mem_filter]
  refine and_congr_right fun _ => ?_
  cases hc : s.guestScope place (g.line * 64) false with
  | none => simp
  | some c => by_cases h : g.core = coreOf place <;> simp [h]

/-- An instruction that goes on to the next word. -/
theorem goesTo_next {s u : State} (h : s.Drains u) : u.mapStrand Strand.advance = goesTo u (s.strand.pc + 4) := by
  rw [goesTo, show s.strand.pc = u.strand.pc by rw [h.strand]]
  rfl

/-- A wait is a note that a breakpoint at the instruction has been passed. -/
theorem State.waits_eq (s : State) : s.waits = waiting s := by
  simp only [State.waits, waiting, List.contains_iff_mem]

end Sys2Proof.Machine
end

section
open Sys2Proof Sys2Proof.Machine Sys2Proof.Claims

/-- Settles O46: the four are drains of the core's FIFO and filters of its copies. -/
theorem cacheControlCompletes : Obligations.CacheControlCompletes := by
  unfold Obligations.CacheControlCompletes
  intro s
  refine ⟨fun hb => ⟨fun n hn => ?_, fun a b => ⟨?_, ?_⟩⟩, fun n => ?_, fun n hheld => ?_, fun a b hheld => ?_, fun a b hheld => ?_⟩
  · rw [← State.waits_eq]
    exact congrArg Host.Outcome.next (if_pos (by rw [State.releaseBlocked, hb, decide_eq_true hn]; rfl))
  · rw [← State.waits_eq]
    exact congrArg Host.Outcome.next (if_pos hb)
  · rw [← State.waits_eq]
    exact congrArg Host.Outcome.next (if_pos hb)
  · refine ⟨_, rfl, ?_, fun g => ?_⟩
    · unfold State.acquireAt
      split <;> rfl
    · by_cases hn : 4 ≤ n.toNat
      · refine (State.mem_guests_acquireAt hn g).trans (and_congr_right fun _ => ?_)
        simp only [hn, true_implies, not_and_or, not_forall, Nat.not_le, exists_prop]
      · have hacq : s.acquireAt s.strand.place n.toNat = s := if_pos (Nat.not_le.mp hn)
        simp [hacq, hn, State.mapStrand]
  · have hfree : s.releaseBlocked n.toNat = false := by
      simpa [State.releaseBlocked] using hheld
    refine ⟨?_, ?_, fun hn => ?_⟩
    · refine congrArg Host.Outcome.next ((if_neg (by rw [hfree]; exact Bool.false_ne_true)).trans (goesTo_next ?_))
      unfold State.releaseAt
      split
      · exact (State.Drains.drainAll s _).trans ⟨rfl, rfl, fun _ => List.suffix_refl _⟩
      · exact ⟨rfl, rfl, fun _ => List.suffix_refl _⟩
    · split
      · exact (State.CoreDrained.drainAll _ s).onlyDrained
      · exact (State.CoreDrained.refl _ s).onlyDrained
    · rw [if_pos hn]
      exact State.fifo_drainAll (Bool.eq_false_of_not_eq_true fun hb => hheld ⟨hn, hb⟩)
  · have hfree := Bool.eq_false_of_not_eq_true hheld
    have hd := s.coreDrained_flushRange (val s a).toNat (min (val s b).toNat (2 ^ 32))
    refine ⟨s.flushRange (val s a).toNat (min (val s b).toNat (2 ^ 32)), congrArg Host.Outcome.next ((if_neg hheld).trans (goesTo_next hd.drains)),
      hd.onlyDrained, State.guests_flushRange _ _ _, State.fifo_flushRange hfree⟩
  · have hfree := Bool.eq_false_of_not_eq_true hheld
    have hd := s.coreDrained_invalidateRange (val s a).toNat (min (val s b).toNat (2 ^ 32))
    obtain ⟨keep, hguests, hdrop, hstay⟩ := s.guests_invalidateRange (val s a).toNat (min (val s b).toNat (2 ^ 32))
    refine ⟨s.invalidateRange (val s a).toNat (min (val s b).toNat (2 ^ 32)), congrArg Host.Outcome.next ((if_neg hheld).trans (goesTo_next hd.drains)),
      hd.onlyDrained, State.fifo_invalidateRange hfree, ?_, ?_⟩
    · intro g hg
      rw [hguests, List.mem_filter] at hg
      exact ⟨hg.1, hdrop g hg.2⟩
    · intro g hg hc
      rw [hguests, List.mem_filter]
      exact ⟨hg, hstay g hc⟩

end

section
/-! System instructions (R111, R113, R124, R125, R127 to R130): a return from a handler, the receipt's quantities, and what a FENCE leaves. -/

namespace Sys2Proof.Machine
open Sys2Proof.Claims

variable {s : State}

/-- A return to a word-aligned address is one update of the strand (R125). -/
theorem exec_tret_aligned (h : s.strand.ctl.tpc.val.extractLsb' 0 2 = 0) : exec .tret s = .next (s.mapStrand Strand.leave) := by
  refine runM_ok ?_
  simp only [trapReturn, M.bind_ok (M.getS_run s), h, ne_eq, not_true_eq_false, if_false, M.modS_run]

theorem exec_tret_misaligned (h : s.strand.ctl.tpc.val.extractLsb' 0 2 ≠ 0) :
    exec .tret s = .next (s.takeTrap false s.strand.pc { plainTrap 0x04 s.strand.ctl.tpc.val with acc := 3 }) := by
  refine runM_trap (x := { plainTrap 0x04 s.strand.ctl.tpc.val with acc := 3 }) ?_
  simp only [trapReturn, M.bind_ok (M.getS_run s), h, ne_eq, not_false_eq_true, if_true]
  exact M.bind_error (M.raise_run _ s)

/-- The handler's return, with the codes that it goes back to (R146). -/
theorem Strand.leave_eq (s : State) : s.strand.leave = { s.strand with
    pc := s.strand.ctl.tpc.val.setWidth 52, st := { s.strand.st with tr := false, tarn := s.strand.ctl.tpc.tarn || s.strand.ctl.resume.tarn },
    armed := if s.strand.ctl.resume.val = 0 ∧ returnsWith s = none then none else some (s.strand.ctl.tpc.val.setWidth 52, s.strand.ctl.resume.val),
    residue := returnsWith s, outer := none } := by
  have hkept : s.strand.leaveResidue = returnsWith s := rfl
  simp only [Strand.leave, hkept, Bool.and_eq_true, decide_eq_true_eq, Option.isNone_iff_eq_none]

/-- The receipt's quantity of each selector (R129). -/
theorem receiptField_eq (w : Word) {n : Nat} (hn : n ≤ 6) : receiptField w n =
    ([w.toNat % 2 ^ 13, w.toNat / 2 ^ 13 % 2 ^ 17, w.toNat / 2 ^ 30 % 2 ^ 17, w.toNat / 2 ^ 47 % 2 ^ 17, w.toNat / 2 ^ 13 % 2 ^ 17 / 4,
      w.toNat / 2 ^ 30 % 2 ^ 17 / 4, w.toNat / 2 ^ 47 % 2 ^ 17 / 4]).getD n 0 := by
  match n, hn with
  | 0, _ => exact getBits_zero w 13
  | 1, _ | 2, _ | 3, _ | 4, _ | 5, _ | 6, _ => rfl

/-! ## FENCE (R111, R113, R127) -/

/-- A FENCE that waits for no locked page. -/
theorem exec_fence_free {n : BitVec 7} (h : ¬ (4 ≤ n.toNat ∧ s.drainBlocked (coreOf s.strand.place) = true)) :
    exec (.fence n) s = .next ((s.fence n.toNat).mapStrand Strand.advance) := by
  refine congrArg Host.Outcome.next (if_neg ?_)
  simpa [State.releaseBlocked] using h

/-- What the release of a scope drains. -/
def State.released (s : State) (scope : Nat) : State := if 4 ≤ scope then s.drainAll (coreOf s.strand.place) else s

theorem State.drains_released (s : State) (scope : Nat) : s.Drains (s.released scope) := by
  unfold State.released
  split
  · exact .drainAll s _
  · exact .refl s

theorem State.keepsTables_released (s : State) (scope : Nat) : s.KeepsTables (s.released scope) :=
  .ite (State.KeepsTables.refl s).drainAll (.refl s)

/-- Beyond what its release drains, a FENCE changes guest copies and what is known of replaced code. -/
theorem State.fence_eq (s : State) (scope : Nat) : s.fence scope =
    { s.released scope with guests := (s.fence scope).guests, oldCode := (s.fence scope).oldCode } := by
  unfold State.fence State.acquireAt
  split <;> rfl

/-- A FENCE drops the copies that the acquire of its scope drops. -/
theorem State.mem_guests_fence {scope : Nat} (hs : 4 ≤ scope) (g : Guest) : g ∈ (s.fence scope).guests ↔
    g ∈ s.guests ∧ (g.core ≠ coreOf s.strand.place ∨ ∃ c, s.guestScope s.strand.place (g.line * 64) false = some c ∧ scope < c) := by
  have hk := s.keepsTables_released scope
  have hscope (k : Nat) : (s.releaseAt s.strand.place scope).guestScope s.strand.place k false = s.guestScope s.strand.place k false :=
    hk.guestScope s.strand.place k false
  have hguests : (s.releaseAt s.strand.place scope).guests = s.guests := hk.guests
  rw [← hguests]
  simp only [← hscope]
  exact State.mem_guests_acquireAt hs g

theorem State.guests_fence_of_lt {scope : Nat} (hs : scope < 4) : (s.fence scope).guests = s.guests := by
  have hacq : (s.releaseAt s.strand.place scope).acquireAt s.strand.place scope = s.releaseAt s.strand.place scope := if_pos hs
  rw [State.fence, hacq, State.releaseAt, if_neg (Nat.not_le.mpr hs)]
  rfl

/-- After a FENCE the strand fetches its own earlier stores, and those whose release it has observed (R111). -/
theorem State.mem_fenced_codeFence {place scope : Nat} {e : OldCode} (he : e ∈ (s.codeFence place scope).oldCode)
    (h : e.writer = place ∨ ∃ o ∈ e.observed, o.1 = place ∧ o.2 ≤ scope) : place ∈ e.fenced := by
  obtain ⟨e0, -, rfl⟩ := List.mem_map.mp he
  split
  · exact List.mem_cons_self
  · next hc =>
    rw [if_neg hc] at h
    have hany : (decide (e0.writer = place) || e0.observed.any fun o => decide (o.1 = place) && decide (o.2 ≤ scope)) = true := by
      simpa using h
    simpa [hany] using hc

end Sys2Proof.Machine
end

section
open Sys2Proof Sys2Proof.Machine Sys2Proof.Claims

/-- Settles O27: each is one update of the strand, but for FENCE, which is a release, an acquire and the order of fetches. -/
theorem systemInstructions : Obligations.SystemInstructions := by
  unfold Obligations.SystemInstructions
  intro s
  refine ⟨fun n => rfl, fun h => ?_, exec_tret_misaligned, fun n => rfl, fun d => rfl, fun d a n hn => ?_, rfl, fun n hn hb => ?_, fun n h => ?_⟩
  · rw [exec_tret_aligned h, State.mapStrand, Strand.leave_eq]
    rfl
  · have hq := receiptField_eq s.strand.ctl.rc.val hn
    dsimp only
    rw [← hq]
    rfl
  · rw [← State.waits_eq]
    exact congrArg Host.Outcome.next (if_pos (by rw [State.releaseBlocked, hb, decide_eq_true hn]; rfl))
  · have hd := s.drains_released n.toNat
    have hstrand : (s.fence n.toNat).strand = { s.strand with links := (s.released n.toNat).strand.links } := by
      rw [State.fence_eq, ← hd.strand]
    have hgo : (s.fence n.toNat).mapStrand Strand.advance = goesTo (s.fence n.toNat) (s.strand.pc + 4) := by
      rw [goesTo, State.mapStrand, State.mapStrand, hstrand]
      rfl
    refine ⟨_, exec_fence_free h, hgo, ?mem, ?tarn, fun hn => ?fifo, fun hn => State.guests_fence_of_lt hn, fun hn => State.mem_guests_fence hn,
      fun e he hw => State.mem_fenced_codeFence he hw, ?pc, ?sregs, ?ctl, ?purses, ?masks, ?dev, ?launches⟩
    case mem => rw [State.mapStrand_mem, State.fence_eq]; rfl
    case tarn => rw [State.mapStrand_tarn, State.fence_eq]; rfl
    case dev => rw [State.mapStrand_dev, State.fence_eq]; rfl
    case launches => rw [State.mapStrand_launches, State.fence_eq]; rfl
    case fifo =>
      have hcore : (s.fence n.toNat).core (coreOf s.strand.place) = (s.drainAll (coreOf s.strand.place)).core (coreOf s.strand.place) := by
        rw [State.fence_eq, State.released, if_pos hn]
        rfl
      exact (congrArg CoreSt.fifo hcore).trans (State.fifo_drainAll (Bool.eq_false_of_not_eq_true fun hb => h ⟨hn, hb⟩))
    case pc => exact congrArg (·.pc + 4) hstrand
    case sregs => rw [State.mapStrand_strand, hstrand]; rfl
    case ctl => rw [State.mapStrand_strand, hstrand]; rfl
    case purses => rw [State.mapStrand_strand, hstrand]; rfl
    case masks => rw [State.mapStrand_strand, hstrand]; rfl

end

section
/-! Scalar loads and stores (R109, R110, R112, R113): an access that goes through gives the line's bytes or stores its own, and a release or an
acquire does in between what its scope asks. -/

namespace Sys2Proof.Machine
open Sys2Proof.Claims

variable {s s1 : State} {x : Xl} {va : Word} {z : Nat}

/-- Bytes sign-extended, or zero-extended. -/
theorem signExtBytes_eq_extended {lz v : Nat} (hv : v < 2 ^ (8 * 2 ^ lz)) (sx : Bool) :
    (if sx then signExtBytes (2 ^ lz) v else BitVec.ofNat 64 v) = extended sx lz v := by
  have hpow : 2 ^ (8 * 2 ^ lz) = 2 * 2 ^ (8 * 2 ^ lz - 1) := by
    have hpos : 0 < 2 ^ lz := Nat.two_pow_pos lz
    rw [← pow_succ', Nat.sub_add_cancel (by omega)]
  cases sx with
  | false => rfl
  | true =>
    simp only [signExtBytes, signed, extended, if_true, Bool.true_and, decide_eq_true_eq, Nat.mod_eq_of_lt hv]
    have hneg : 2 ^ (8 * 2 ^ lz) ≤ 2 * v ↔ 2 ^ (8 * 2 ^ lz - 1) ≤ v := by omega
    simp only [hneg]
    split
    · rw [sub_eq_add_neg, BitVec.ofInt_add, BitVec.ofInt_neg, BitVec.ofInt_natCast, BitVec.ofInt_natCast, BitVec.sub_eq_add_neg]
    · rw [BitVec.ofInt_natCast]

/-- A load's value has as many bytes as it reads. -/
theorem State.loadLine_lt (s : State) (t : Strand) (x : Xl) (va n : Nat) (seen : List (Nat × Nat)) :
    (s.loadLine t x va n seen).2.1 < 256 ^ n := by
  have hlt (f : Nat → Byte) : leNat ((List.range n).map f) < 256 ^ n := by simpa using leNat_lt ((List.range n).map f)
  unfold State.loadLine
  split
  · exact hlt _
  · exact hlt _

/-- The checks of an access that goes through leave the state and give the key and attribute. -/
theorem accessCheck_of_passes {o : Acc} (h : Passes s o va z s1 x) : accessCheck o va z s = .ok x s1 := by
  obtain ⟨ha, hc, hb, hd, hroom, hp⟩ := h
  have hr : (o.assay && s.noTagRoom s.strand x.key) = false := by
    by_cases ho : o.assay = true
    · rw [hroom ho, Bool.and_false]
    · rw [Bool.eq_false_of_not_eq_true ho, Bool.false_and]
  simp only [accessCheck, ha, ne_eq, not_true_eq_false, if_false, checkBytes]
  simp [bind, EStateM.bind, hc, hb, hd, hp, hr]

/-! ## Loads -/

/-- An instruction in steps whose last is a register write. -/
theorem runStep_wrote {vec : Bool} {m : M Unit} {u : State} {d : BitVec 7} {v : Word} {t : Bool}
    (h : m s = .ok () (u.mapStrand fun w => w.setReg d { val := v, tarn := t })) : runStep vec m s = .next (wrote u d v t) := runStep_ok h

theorem loadBytes_run (s : State) (x : Xl) (va : Word) (n : Nat) (seen : List (Nat × Nat)) : loadBytes x va n seen s =
    .ok (s.loadLine s.strand x va.toNat n seen).2 (s.loadLine s.strand x va.toNat n seen).1 := rfl

section
variable {lz : Nat} {sx : Bool} {d a : BitVec 7}

theorem exec_loadInto (h : Passes s .read va (2 ^ lz) s1 x) : let r := s1.loadLine s1.strand x va.toNat (2 ^ lz) []
    runStep false (loadInto lz sx d a va) s = .next (wrote r.1 d (extended sx lz r.2.1) (tarn1 s a || r.2.2)) := by
  intro r
  have hv : r.2.1 < 2 ^ (8 * 2 ^ lz) := by
    rw [pow_mul]
    exact s1.loadLine_lt s1.strand x va.toNat (2 ^ lz) []
  rw [← signExtBytes_eq_extended hv]
  refine runStep_wrote ?_
  rw [loadInto, M.bind_ok (M.getS_run s), M.bind_ok (accessCheck_of_passes h), M.bind_ok (loadBytes_run s1 x va (2 ^ lz) [])]
  rfl

variable {scope : Nat}

theorem loadAcquire_of_lt (h : scope < 4) (n : Nat) : loadAcquire x va n scope = loadBytes x va n [] := if_pos h

theorem exec_loadAcquireInto_of_lt (h : Passes s .read va (2 ^ lz) s1 x) (hs : scope < 4) :
    let r := s1.loadLine s1.strand x va.toNat (2 ^ lz) []
    runStep false (loadAcquireInto lz scope d a va) s = .next (wrote r.1 d (BitVec.ofNat 64 r.2.1) (tarn1 s a || r.2.2)) := by
  intro r
  refine runStep_wrote ?_
  rw [loadAcquireInto, M.bind_ok (M.getS_run s), M.bind_ok (accessCheck_of_passes h), loadAcquire_of_lt hs,
    M.bind_ok (loadBytes_run s1 x va (2 ^ lz) [])]
  rfl

/-- An acquire load of a line that is poisoned at its home. -/
theorem exec_loadAcquireInto_poisoned (h : Passes s .read va (2 ^ lz) s1 x) (hs : 4 ≤ scope)
    (hb : s1.drainBlocked (coreOf s1.strand.place) = false) (hp : s1.poison.contains (lineOf x.key) = true) :
    runStep false (loadAcquireInto lz scope d a va) s =
      .next (s1.takeTrap false s.strand.pc { cause := 0x0B, sub := 0, acc := 1, elem := 0, addr := va, resume := none }) := by
  have htrap : loadAcquire x va (2 ^ lz) scope s1 = .error (.trap (Acc.read.trap 0x0B 0 va.toNat)) s1 := by
    have hmem : lineOf x.key ∈ s1.poison := by simpa using hp
    simp [loadAcquire, Nat.not_lt.mpr hs, bind, EStateM.bind, hb, hmem]
  have haddr : Acc.read.trap 0x0B 0 va.toNat = { cause := 0x0B, sub := 0, acc := 1, elem := 0, addr := va, resume := none } := by
    rw [Acc.trap, BitVec.ofNat_toNat, BitVec.setWidth_eq]
    rfl
  rw [haddr] at htrap
  refine runStep_trap ?_
  rw [loadAcquireInto, M.bind_ok (M.getS_run s), M.bind_ok (accessCheck_of_passes h), M.bind_error htrap]

/-- An acquire load at package scope or wider reads the line at its home, observes what it has read and drops copies. -/
theorem exec_loadAcquireInto (h : Passes s .read va (2 ^ lz) s1 x) (hs : 4 ≤ scope)
    (hb : s1.drainBlocked (coreOf s1.strand.place) = false) (hp : s1.poison.contains (lineOf x.key) = false) :
    let r := s1.loadLine s1.strand { x with unc := true } va.toNat (2 ^ lz) []
    runStep false (loadAcquireInto lz scope d a va) s =
      .next (wrote ((r.1.observeAll (r.1.tokensRead s1.strand.launch x.key r.2.1) s1.strand.flat).acquireAt s1.strand.place scope) d
        (BitVec.ofNat 64 r.2.1) (tarn1 s a || r.2.2)) := by
  intro r
  have hload : loadAcquire x va (2 ^ lz) scope s1 = .ok r.2
      ((r.1.observeAll (r.1.tokensRead s1.strand.launch x.key r.2.1) s1.strand.flat).acquireAt s1.strand.place scope) := by
    have hmem : lineOf x.key ∉ s1.poison := by simpa using hp
    simp [loadAcquire, Nat.not_lt.mpr hs, bind, EStateM.bind, hb, hmem, r]
  refine runStep_wrote ?_
  rw [loadAcquireInto, M.bind_ok (M.getS_run s), M.bind_ok (accessCheck_of_passes h), M.bind_ok hload]
  rfl

end

/-! ## Stores -/

/-- A store that takes no TARNISH passes the policy's check. -/
theorem cleanCheck_passes {t : Bool} (h : CleanOk s va z t) : cleanCheck va.toNat z t s = .ok () s := by
  have hf : ¬ ((t && s.strand.trapPolicy && decide (cleanHit s.strand.clean va.toNat z ≠ [])) = true) := by
    rcases h with h | h | h <;> simp [h]
  rw [cleanCheck, M.bind_ok (M.getS_run s), if_neg hf, M.pure_run]

theorem storeBytes_run (s : State) (x : Xl) (va : Word) (n : Nat) (v : Word) (t : Bool) :
    storeBytes x va n v.toNat t s = .ok () (stored s x va n v t) := rfl

section
variable {lz : Nat} {b a : BitVec 7}

theorem exec_storeFrom (h : Passes s .write va (2 ^ lz) s1 x) (hc : CleanOk s1 va (2 ^ lz) (tarn2 s b a)) :
    runStep false (storeFrom lz b a va) s = .next ((stored s1 x va (2 ^ lz) (val s b) (tarn2 s b a)).mapStrand Strand.advance) := by
  have hclean : cleanCheck va.toNat (2 ^ lz) ((s.strand.reg b).tarn || (s.strand.reg a).tarn) s1 = .ok () s1 := cleanCheck_passes hc
  refine runStep_ok ?_
  rw [storeFrom, M.bind_ok (M.getS_run s), M.bind_ok (accessCheck_of_passes h), M.bind_ok hclean]
  exact storeBytes_run _ _ _ _ _ _

variable {scope : Nat}

theorem exec_storeReleaseFrom_held (h : Passes s .write va (2 ^ lz) s1 x) (hc : CleanOk s1 va (2 ^ lz) (tarn2 s b a))
    (hb : s1.releaseBlocked scope = true) : runStep false (storeReleaseFrom lz scope b a va) s = .next (waiting s) := by
  have hclean : cleanCheck va.toNat (2 ^ lz) ((s.strand.reg b).tarn || (s.strand.reg a).tarn) s1 = .ok () s1 := cleanCheck_passes hc
  have hwait : releaseHere scope s1 = .error .wait s1 := by
    simp [releaseHere, bind, EStateM.bind, hb]
  rw [← State.waits_eq]
  refine runStep_wait (t := s1) ?_
  rw [storeReleaseFrom, M.bind_ok (M.getS_run s), M.bind_ok (accessCheck_of_passes h), M.bind_ok hclean, M.bind_error hwait]

theorem exec_storeReleaseFrom (h : Passes s .write va (2 ^ lz) s1 x) (hc : CleanOk s1 va (2 ^ lz) (tarn2 s b a))
    (hb : s1.releaseBlocked scope = false) : runStep false (storeReleaseFrom lz scope b a va) s =
      .next ((stored (s1.releaseAt s1.strand.place scope) x va (2 ^ lz) (val s b) (tarn2 s b a)).mapStrand Strand.advance) := by
  have hclean : cleanCheck va.toNat (2 ^ lz) ((s.strand.reg b).tarn || (s.strand.reg a).tarn) s1 = .ok () s1 := cleanCheck_passes hc
  have hrelease : releaseHere scope s1 = .ok () (s1.releaseAt s1.strand.place scope) := by
    simp [releaseHere, bind, EStateM.bind, hb]
  refine runStep_ok ?_
  rw [storeReleaseFrom, M.bind_ok (M.getS_run s), M.bind_ok (accessCheck_of_passes h), M.bind_ok hclean, M.bind_ok hrelease]
  exact storeBytes_run _ _ _ _ _ _

end

end Sys2Proof.Machine
end

section
open Sys2Proof Sys2Proof.Machine Sys2Proof.Claims

/-- Settles O15: a load is its checks, the line's read and one register write; an LDA's scope decides what comes in between. -/
theorem loadsComplete : Obligations.LoadsComplete := by
  unfold Obligations.LoadsComplete
  refine ⟨fun row hrow d a off s s1 x h => ?_, fun row hrow d a sc off s s1 x h => ?_⟩
  · rw [exec_ldRows row hrow]
    exact exec_loadInto h
  · rw [exec_ldaRows row hrow]
    exact ⟨fun hs => exec_loadAcquireInto_of_lt h hs, fun hs hb hp => exec_loadAcquireInto_poisoned h hs hb hp,
      fun hs hb hp => exec_loadAcquireInto h hs hb hp⟩

/-- Settles O17: a store is its checks and the line's store; an STL releases in between, or waits to. -/
theorem storesComplete : Obligations.StoresComplete := by
  unfold Obligations.StoresComplete
  refine ⟨fun row hrow b a off s s1 x h hc => ?_, fun row hrow b a sc off s s1 x h hc => ?_⟩
  · rw [exec_stRows row hrow]
    exact exec_storeFrom h hc
  · rw [exec_stlRows row hrow]
    have hblocked : s1.releaseBlocked sc.toNat = true ↔ 4 ≤ sc.toNat ∧ s1.drainBlocked (coreOf s1.strand.place) = true := by
      rw [State.releaseBlocked, Bool.and_eq_true, decide_eq_true_eq]
    refine ⟨fun hheld => exec_storeReleaseFrom_held h hc (hblocked.mpr hheld), fun hfree => ?_⟩
    exact exec_storeReleaseFrom h hc (Bool.eq_false_of_not_eq_true fun hb => hfree (hblocked.mp hb))

end

section
/-! The checks of an access leave the acting strand alone but for its links, and a line handled at its home has no store waiting for it (R108, R111,
R114). -/

namespace Sys2Proof.Machine
open Sys2Proof.Claims

/-! ## The acting strand -/

/-- The acting strand is as it was but for the lines it links, and so are the ordered atomics that wait. -/
structure State.KeepsActor (s u : State) : Prop where
  strand : u.strand = { s.strand with links := u.strand.links }
  ordEntries : u.ordEntries = s.ordEntries

namespace State.KeepsActor

variable {s u v : State}

theorem refl (s : State) : s.KeepsActor s := ⟨rfl, rfl⟩

theorem trans (h : s.KeepsActor u) (h' : u.KeepsActor v) : s.KeepsActor v :=
  ⟨by rw [h'.strand, h.strand], h'.ordEntries.trans h.ordEntries⟩

theorem of_keepsContext (hc : s.KeepsContext u) (ht : s.KeepsTables u) : s.KeepsActor u := ⟨hc.strand, ht.ordEntries⟩

theorem of_drains (hd : s.Drains u) (ht : s.KeepsTables u) : s.KeepsActor u := ⟨hd.strand, ht.ordEntries⟩

theorem ite {c : Prop} {_ : Decidable c} (h : s.KeepsActor u) (h' : s.KeepsActor v) : s.KeepsActor (if c then u else v) := by
  split <;> assumption

theorem reg (h : s.KeepsActor u) (r : BitVec 7) : u.strand.reg r = s.strand.reg r := by
  rw [h.strand]
  rfl

theorem translate (s : State) (q : Party) (va : Nat) (a : Access) : s.KeepsActor (s.translate q va a).1 :=
  of_keepsContext (State.KeepsContext.refl s).translate (State.KeepsTables.refl s).translate

theorem reachHbm (s : State) (k : Nat) (whole : Bool) : s.KeepsActor (s.reachHbm k whole) :=
  of_keepsContext (State.KeepsContext.refl s).reachHbm (State.KeepsTables.refl s).reachHbm

theorem chronicle (s : State) (source part cause : Nat) (a0 a1 : Word) : s.KeepsActor (s.chronicle source part cause a0 a1) := .ite (.refl s) ⟨rfl, rfl⟩

theorem postRecord (s : State) (ring kind : Nat) (words : List Word) (place cmd : Option Nat) :
    s.KeepsActor (s.postRecord ring kind words place cmd).1 :=
  of_keepsContext (State.KeepsContext.refl s).postRecord (State.KeepsTables.refl s).postRecord

theorem meetL1 (s : State) (t : Strand) (k : Nat) : s.KeepsActor (s.meetL1 t k) := by
  refine .ite (refl s) (trans ?_ (chronicle _ _ _ _ _ _))
  split <;> exact ⟨rfl, rfl⟩

theorem useUpset (s : State) (unit : Nat) : s.KeepsActor (s.useUpset unit) := ⟨rfl, rfl⟩

theorem setAssay (s : State) (g : AssayTag) : s.KeepsActor (s.setAssay g) := ⟨rfl, rfl⟩

theorem meetTag (s : State) (t : Strand) (k : Nat) : s.KeepsActor (s.meetTag t k) := by
  unfold State.meetTag
  dsimp only
  split
  · exact refl s
  · exact ((useUpset s _).trans (setAssay _ _)).trans (postRecord _ _ _ _ _ _)

theorem meetUpsets (s : State) (t : Strand) (k : Nat) : s.KeepsActor (s.meetUpsets t k) := .ite (refl s) ((meetL1 s t k).trans (meetTag _ t k))

theorem settlePoison (s : State) (place k : Nat) (unc : Bool) : s.KeepsActor (s.settlePoison place k unc) := by
  unfold State.settlePoison
  dsimp only
  split
  · exact .ite (refl s) (.ite ⟨rfl, rfl⟩ ⟨rfl, rfl⟩)
  · exact refl s

theorem assayCheck {t : Strand} {va : Option Nat} {k n : Nat} {a : Access} {kind : AccessKind} {seen : List (Nat × Nat)}
    (h : s.assayCheck t va k n a kind seen = .ok u) : s.KeepsActor u := by
  unfold State.assayCheck at h
  split at h
  · cases h; exact refl s
  · split at h
    · cases h
    · dsimp only at h
      split at h
      · cases h
      · split at h
        · split at h
          · cases h
          · cases h; exact ⟨rfl, rfl⟩
        · cases h; exact ⟨rfl, rfl⟩

/-- The checks of R108 leave the acting strand alone. -/
theorem check (s : State) (t : Strand) (o : Acc) (va n : Nat) : s.KeepsActor (s.check t o va n).1 := by
  unfold State.check
  split
  · exact refl s
  · have htr := translate s t.party va o.mode
    split
    · next htr' => rw [htr'] at htr; exact htr
    · next s0 x htr' =>
      rw [htr'] at htr
      split
      · exact htr
      · have hmet : s.KeepsActor (s0.meetUpsets t x.key) := htr.trans (meetUpsets s0 t x.key)
        dsimp only
        split
        · exact hmet
        · next s2 hassay =>
          have hchecked : s.KeepsActor s2 := by
            split at hassay
            · exact hmet.trans (assayCheck hassay)
            · cases hassay; exact hmet
          have hreached : s.KeepsActor
              (if o.poison then (s2.reachHbm x.key (o.mode = .write && n = 64)).settlePoison t.place x.key x.unc else s2) :=
            .ite (hchecked.trans ((reachHbm s2 _ _).trans (settlePoison _ _ _ _))) hchecked
          generalize (if o.poison = true then _ else s2) = w at hreached ⊢
          split
          · exact hreached
          · split
            · exact hreached.trans ⟨rfl, rfl⟩
            · exact hreached

end State.KeepsActor

/-- An access passes its checks only at a target that it allows (R108, R118). -/
theorem State.target_of_check {s s1 : State} {t : Strand} {o : Acc} {va n : Nat} {x : Xl} (h : s.check t o va n = (s1, .ok x)) :
    o.target.ok x.key = true := by
  unfold State.check at h
  split at h
  · cases h
  · split at h
    · cases h
    · split at h
      · cases h
      · next ht =>
        dsimp only at h
        split at h
        · cases h
        · next s2 _ =>
          generalize (if o.poison = true then _ else s2) = w at h
          split at h
          · cases h
          · split at h
            · cases h
            · cases h; simpa using ht

section
variable {s s1 : State} {o : Acc} {va : Word} {z : Nat} {x : Xl}

theorem keepsActor_of_passes (h : Passes s o va z s1 x) : s.KeepsActor s1 := by
  have hk := State.KeepsActor.check s s.strand o va.toNat z
  rw [h.2.1] at hk
  exact hk

theorem canonical_of_passes (hi : s.Canonical) (h : Passes s o va z s1 x) : s1.Canonical := by
  have hk := Keeps.accessCheck (o := o) (va := va) (z := z) |>.run s hi
  rw [accessCheck_of_passes h] at hk
  exact hk

/-- An access that reads and writes is not let through while a store of its core waits for a locked page. -/
theorem drainBlocked_of_passes (h : Passes s o va z s1 x) (hm : o.mode = .both) (hctl : (regionOf x.key).isCtl = false) :
    s1.drainBlocked (coreOf s1.strand.place) = false := by
  obtain ⟨-, -, -, hd, -, -⟩ := h
  simp only [State.drainWaits, hctl, hm, Bool.false_eq_true, if_false, decide_true, Bool.or_true, Bool.true_or, Bool.and_true] at hd
  by_cases hl : s1.locked = []
  · simp [State.drainBlocked, hl]
  · simpa [hl] using hd

end

/-! ## A line at its home -/

/-- No store of the core to the line waits, nor one that must come before it behind link 1 (R111, R411). -/
structure HomeSettled (h : State) (x : Xl) : Prop where
  memory : (regionOf x.key).isCtl = false
  line : ∀ e ∈ (h.core (coreOf h.strand.place)).fifo, lineOf e.key ≠ lineOf x.key
  link : h.onCxl x.key = true → ∀ e ∈ (h.core (coreOf h.strand.place)).fifo, (h.onCxl e.key && decide (lineOf e.key ≠ lineOf x.key)) = false

theorem State.KeepsTables.onCxl {s u : State} (h : s.KeepsTables u) (k : Nat) : u.onCxl k = s.onCxl k := by
  unfold State.onCxl State.cxl
  rw [h.devst]

section
variable {s h : State} {x : Xl} {n : Nat}

theorem coreDrained_linkOrder (s : State) (place k : Nat) : s.CoreDrained (coreOf place) (s.linkOrder place k) := by
  unfold State.linkOrder
  split
  · exact .drainWhile _ _ _ s
  · exact .refl _ s

theorem keepsTables_linkOrder (s : State) (place k : Nat) : s.KeepsTables (s.linkOrder place k) :=
  .ite (State.KeepsTables.refl s).drainWhile (.refl s)

/-- Behind the order of a host link no store to another line there is left (R411). -/
theorem fifo_linkOrder {place k : Nat} (hb : s.drainBlocked (coreOf place) = false) (hk : s.onCxl k = true) :
    ∀ e ∈ ((s.linkOrder place k).core (coreOf place)).fifo, (s.onCxl e.key && decide (lineOf e.key ≠ lineOf k)) = false := by
  rw [State.linkOrder, if_pos hk]
  exact State.fifo_drainWhile (Nat.le_refl _) hb

/-- The state in which a line is handled at its home, the order of its link kept. -/
def linked (s : State) (x : Xl) : State := (s.linkOrder s.strand.place x.key).linkStore s.strand.place x.key

theorem linked_eq (s : State) (x : Xl) : linked s x = { s.linkOrder s.strand.place x.key with guests := (linked s x).guests } := by
  unfold linked State.linkStore
  split <;> rfl

theorem coreDrained_linked (s : State) (x : Xl) : s.CoreDrained (coreOf s.strand.place) (linked s x) := by
  rw [linked_eq]
  exact (coreDrained_linkOrder s _ _).setGuests

theorem core_linked (s : State) (x : Xl) (c : Nat) : (linked s x).core c = (s.linkOrder s.strand.place x.key).core c := by
  rw [linked_eq]
  rfl

/-- The state in which a line is at its home: what remains to change is guest copies and what is known of replaced code. -/
def homed (s : State) (x : Xl) : State :=
  (linked s x).drainLine (coreOf s.strand.place) (lineOf x.key) ((linked s x).core (coreOf s.strand.place)).fifo.length

theorem coreDrained_homed (s : State) (x : Xl) : s.CoreDrained (coreOf s.strand.place) (homed s x) :=
  (coreDrained_linked s x).trans (.drainLine _ _ _ _)

theorem atHome_eq (hh : atHome x n s = .ok () h) : h = { homed s x with guests := h.guests, oldCode := h.oldCode } := by
  cases hh
  rfl

theorem devst_homed (s : State) (x : Xl) : (homed s x).reg64 (vfAddr 32 0x1000) = s.reg64 (vfAddr 32 0x1000) := by
  have hl : (linked s x).reg64 (vfAddr 32 0x1000) = s.reg64 (vfAddr 32 0x1000) := by
    rw [linked_eq]
    exact (keepsTables_linkOrder s _ _).devst
  exact ((State.KeepsTables.refl (linked s x)).drainLine.devst).trans hl

theorem ordEntries_homed (s : State) (x : Xl) : (homed s x).ordEntries = s.ordEntries := by
  have hl : (linked s x).ordEntries = s.ordEntries := by
    rw [linked_eq]
    exact (keepsTables_linkOrder s _ _).ordEntries
  exact ((State.KeepsTables.refl (linked s x)).drainLine.ordEntries).trans hl

theorem keepsActor_atHome (hh : atHome x n s = .ok () h) : s.KeepsActor h := by
  rw [atHome_eq hh]
  exact ⟨(coreDrained_homed s x).drains.strand, ordEntries_homed s x⟩

/-- Handling a line at its home settles it, where no store of the core waits for a locked page. -/
theorem homeSettled_atHome (hh : atHome x n s = .ok () h) (hctl : (regionOf x.key).isCtl = false)
    (hb : s.drainBlocked (coreOf s.strand.place) = false) : HomeSettled h x := by
  have hplace : h.strand.place = s.strand.place := by rw [(keepsActor_atHome hh).strand]
  have hcore : h.core (coreOf h.strand.place) = (homed s x).core (coreOf s.strand.place) := by
    rw [hplace, atHome_eq hh]
    rfl
  have hcxl (k : Nat) : h.onCxl k = s.onCxl k := by
    unfold State.onCxl State.cxl
    rw [atHome_eq hh, ← devst_homed s x]
    rfl
  have hbl : (linked s x).drainBlocked (coreOf s.strand.place) = false := (coreDrained_linked s x).drains.drainBlocked hb
  refine ⟨hctl, ?_, fun hk => ?_⟩
  · rw [hcore]
    exact State.fifo_drainLine (Nat.le_refl _) hbl
  · simp only [hcore, hcxl] at hk ⊢
    intro e he
    have hin := ((State.CoreDrained.drainLine (coreOf s.strand.place) (lineOf x.key) _ (linked s x)).drains.fifo _).subset he
    rw [core_linked] at hin
    exact fifo_linkOrder hb hk e hin

/-! ## A store to a settled line -/

/-- The state in which a store to a settled line puts its bytes there, with the guest copies `l`. -/
def settledFor (h : State) (x : Xl) (n : Nat) (l : List Guest) : State :=
  { ({ h with guests := l } : State).rememberCode h.strand.place x.key n with parity := clearParity h.parity x.key n }

/-- Handling a settled line at its home once more drops guest copies, and that is all. -/
theorem lineHome_of_settled (hs : HomeSettled h x) : ∃ l, (linked h x).lineHome h.strand.place (lineOf x.key) = { h with guests := l } := by
  have hlink : h.linkOrder h.strand.place x.key = h := by
    unfold State.linkOrder
    split
    · next hk => exact State.drainWhile_of_none (hs.link hk) _
    · rfl
  have hlinked : linked h x = { h with guests := (linked h x).guests } := by
    rw [linked_eq h x, hlink]
  rw [hlinked, State.lineHome, State.drainLine_eq, State.drainWhile_of_none]
  · exact ⟨_, rfl⟩
  · exact fun e he => decide_eq_false (hs.line e he)

theorem storeLine_of_settled (hs : HomeSettled h x) (bs : List Byte) (t : Bool) :
    ∃ l, h.storeLine h.strand { x with unc := true } bs t = (settledFor h x bs.length l).homeStore h.strand.place x.key bs t := by
  obtain ⟨l, hl⟩ := lineHome_of_settled hs
  refine ⟨l, ?_⟩
  have hhome : ((h.linkOrder h.strand.place x.key).linkStore h.strand.place x.key).lineHome h.strand.place (lineOf x.key) = { h with guests := l } := hl
  simp only [State.storeLine, hs.memory, Bool.false_eq_true, if_false, if_true, hhome, State.guestScope]
  rfl

section
variable {va : Word} {z : Nat} {v : Word} {t : Bool}

/-- What a store of `z` bytes to a settled line leaves. -/
structure SettledStore (h u : State) (x : Xl) (z : Nat) (v : Word) (t : Bool) : Prop where
  mem : u.mem = Mem.writeLE h.mem x.key z v.toNat
  tarn : ∀ l, l ∈ u.tarn ↔ l ∈ h.tarn ∨ (l = lineOf x.key ∧ t = true)
  strand : ∃ l r, u.strand = (Strand.seen { h.strand with links := l } t).recordClean r
  ordEntries : u.ordEntries = h.ordEntries

theorem settledStore_stored (hs : HomeSettled h x) : SettledStore h (stored h { x with unc := true } va z v t) x z v t := by
  obtain ⟨l, hl⟩ := storeLine_of_settled hs (leBytes z v.toNat) t
  rw [leBytes_length] at hl
  have hready : (settledFor h x z l).strand = h.strand := rfl
  have hstrand := (State.KeepsContext.refl (settledFor h x z l)).homeStore (place := h.strand.place) (k := x.key) (bs := leBytes z v.toNat) (t := t) |>.strand
  have hord := (State.KeepsTables.refl (settledFor h x z l)).homeStore (place := h.strand.place) (k := x.key) (bs := leBytes z v.toNat) (t := t) |>.ordEntries
  rw [hready] at hstrand
  unfold stored
  rw [hl]
  refine ⟨?_, fun k => ?_, ?_, ?_⟩
  · rw [State.mapStrand_mem, State.mem_homeStore, Mem.put_leBytes]
    rfl
  · rw [State.mapStrand_tarn, State.tarn_homeStore]
    rfl
  · rw [State.mapStrand_strand, hstrand]
    exact ⟨_, _, rfl⟩
  · exact hord

end

end

end Sys2Proof.Machine
end

section
/-! Atomics (R114 to R116): the one event of an AMO, and what it leaves. -/

namespace Sys2Proof.Machine
open Sys2Proof.Claims

/-- The operation of each row of R115, with the flags that it raises. -/
theorem apply_amoRows : ∀ row ∈ amoRows, ∀ m o c : Word, row.2.2.1.apply m o c = (row.2.2.2 m o c, amoFlags row.2.2.1 m o) := by
  simp only [amoRows, List.forall_mem_cons, List.not_mem_nil, IsEmpty.forall_iff, implies_true, and_true]
  refine ⟨fun _ _ _ => rfl, fun _ _ _ => rfl, fun _ _ _ => rfl, fun _ _ _ => rfl, ?min, ?max, ?minu, ?maxu, fun _ _ _ => rfl, fun _ _ _ => rfl,
    fun _ _ _ => rfl, fun _ _ _ => rfl⟩
  case min => exact fun m o _ => congrArg (·, 0) (ite_decide (m.toInt ≤ o.toInt) m o)
  case max => exact fun m o _ => congrArg (·, 0) (ite_decide (o.toInt ≤ m.toInt) m o)
  case minu => exact fun m o _ => congrArg (·, 0) (ite_decide (m.toNat ≤ o.toNat) m o)
  case maxu => exact fun m o _ => congrArg (·, 0) (ite_decide (o.toNat ≤ m.toNat) m o)

theorem Strand.recordClean_ordtag (t : Strand) (l : List Nat) : (t.recordClean l).ctl.ordtag = t.ctl.ordtag := by
  unfold Strand.recordClean; split <;> rfl

theorem Strand.setReg_flags (t : Strand) (d : BitVec 7) (v : TWord) : (t.setReg d v).ctl.flags = t.ctl.flags := by
  unfold Strand.setReg; split <;> simp

theorem Strand.setReg_ordtag (t : Strand) (d : BitVec 7) (v : TWord) : (t.setReg d v).ctl.ordtag = t.ctl.ordtag := by
  unfold Strand.setReg; split <;> simp

section
variable {f : AmoOp} {g : Word → Word → Word → Word} {d a b : BitVec 7} {w src : Bool} {x : Xl} {h : State}

/-- The strand right after an AMO. -/
theorem strand_amoAfter (hs : HomeSettled h x) : ∃ l r, (amoAfter f g d a b w src x h).strand =
    (((Strand.seen { h.strand with links := l } w).recordClean r).sticky (amoFlags f (BitVec.ofNat 64 (Mem.readLE h.mem x.key (amoSize f))) (val h b))
      (src || h.tarn.contains (lineOf x.key))).setReg d
      { val := BitVec.ofNat 64 (Mem.readLE h.mem x.key (amoSize f)), tarn := w || h.tarn.contains (lineOf x.key) } := by
  obtain ⟨l, r, hstrand⟩ := (settledStore_stored (va := val h a) (z := amoSize f)
    (v := g (BitVec.ofNat 64 (Mem.readLE h.mem x.key (amoSize f))) (val h b) (val h d)) (t := w) hs).strand
  refine ⟨l, r, ?_⟩
  rw [amoAfter, State.mapStrand_strand, hstrand]

/-- What an AMO leaves of a line at its home. -/
theorem amoDone_amoAfter (hc : h.Canonical) (hs : HomeSettled h x) : AmoDone f g d b w x h (amoAfter f g d a b w src x h) := by
  obtain ⟨hmem, htarn, -, -⟩ := settledStore_stored (va := val h a) (z := amoSize f)
    (v := g (BitVec.ofNat 64 (Mem.readLE h.mem x.key (amoSize f))) (val h b) (val h d)) (t := w) hs
  obtain ⟨l, r, hstrand⟩ := strand_amoAfter (f := f) (g := g) (d := d) (a := a) (b := b) (w := w) (src := src) hs
  have hbase (i : BitVec 7) : (((Strand.seen { h.strand with links := l } w).recordClean r).sticky
      (amoFlags f (BitVec.ofNat 64 (Mem.readLE h.mem x.key (amoSize f))) (val h b)) (src || h.tarn.contains (lineOf x.key))).reg i = h.strand.reg i :=
    Strand.reg_congr (by simp) (by simp [Strand.recordClean_winb]) i
  refine ⟨?_, fun i hi => ?_, ?_, fun k hk => ?_, ?_, fun h32 h64 => ?_, ?_, ?_⟩
  · rw [hstrand, Strand.reg_setReg_self]
  · rw [hstrand, Strand.reg_setReg_of_ne _ _ hi, hbase]
  · rw [amoAfter, State.mapStrand_mem, hmem, Mem.readLE_writeLE_self _ _ _ hc.wf]
    rfl
  · rw [amoAfter, State.mapStrand_mem, hmem, Mem.read_writeLE_of_outside _ _ _ hc.wf hk]
  · rw [amoAfter, State.mapStrand_tarn, Bool.eq_iff_iff, List.contains_iff_mem, htarn, Bool.or_eq_true, List.contains_iff_mem]
    simp only [true_and, or_comm]
  · have hzero : amoFlags f (BitVec.ofNat 64 (Mem.readLE h.mem x.key (amoSize f))) (val h b) = 0 := by
      cases f with
      | fadd32 => exact absurd rfl h32
      | fadd64 => exact absurd rfl h64
      | _ => rfl
    rw [hstrand, Strand.setReg_flags, Strand.sticky_ctl, hzero, Ctl.sticky, if_pos rfl, Strand.recordClean_flags]
    simp
  · rw [hstrand]
    simp
  · rw [hstrand]
    simp

/-- What an AMO leaves is read off a state's registers, memory and marks. -/
theorem amoDone_congr {t u : State} (hd : AmoDone f g d b w x h u) (hreg : ∀ r, t.strand.reg r = u.strand.reg r) (hmem : t.mem = u.mem)
    (htarn : t.tarn = u.tarn) (hflags : t.strand.ctl.flags = u.strand.ctl.flags) (hpurses : t.strand.purses = u.strand.purses)
    (hmasks : t.strand.masks = u.strand.masks) : AmoDone f g d b w x h t := by
  simpa only [AmoDone, hreg, hmem, htarn, hflags, hpurses, hmasks] using hd

end

section
variable {f : AmoOp} {g : Word → Word → Word → Word} {kind : AccessKind} {d a b : BitVec 7} {s s1 h : State} {x : Xl}

/-- Tarnish of an AMO's sources. -/
def amoSrc (f : AmoOp) (d a b : BitVec 7) (s : State) : Bool := tarn2 s a b || (f = .cas && tarn1 s d)

/-- The one event of an AMO whose access goes through (R114, R115). -/
theorem amoEvent_run {w : Bool} (hw : (amoSrc f d a b s || decide (kind = .unordered)) = w)
    (hg : ∀ m o c, f.apply m o c = (g m o c, amoFlags f m o)) (hp : Passes s (f.acc kind) (val s a) (amoSize f) s1 x)
    (hc : CleanOk s1 (val s a) (amoSize f) w) (hh : atHome x (amoSize f) s1 = .ok () h) :
    amoEvent f kind d a b s = .ok (amoSrc f d a b s || h.tarn.contains (lineOf x.key)) (amoAfter f g d a b w (amoSrc f d a b s) x h) := by
  have hk : s.KeepsActor h := (keepsActor_of_passes hp).trans (keepsActor_atHome hh)
  have hval (r : BitVec 7) : (s.strand.reg r).val = val h r := by rw [val, hk.reg]
  have he : ((s.strand.reg a).tarn || (s.strand.reg b).tarn || (decide (f = .cas) && (s.strand.reg d).tarn) || decide (kind = .unordered)) = w := hw
  rw [amoSize_eq] at hp hc hh
  have hcheck : accessCheck (f.acc kind) (s.strand.reg a).val f.size s = .ok x s1 := accessCheck_of_passes hp
  have hclean : cleanCheck (s.strand.reg a).val.toNat f.size
      ((s.strand.reg a).tarn || (s.strand.reg b).tarn || (decide (f = .cas) && (s.strand.reg d).tarn) || decide (kind = .unordered)) s1 = .ok () s1 := by
    rw [he]
    exact cleanCheck_passes hc
  rw [amoEvent, M.bind_ok (M.getS_run s), M.bind_ok hcheck, M.bind_ok hclean, M.bind_ok hh, M.bind_ok (M.get_run h),
    M.bind_ok (storeBytes_run _ _ _ _ _ _), M.bind_ok (M.modS_run _ _), M.pure_run]
  simp only [he, hval, hg, amoAfter, amoSize_eq]
  rfl

/-- An unordered AMO is its one event, behind which the pc advances. -/
theorem exec_amo (hg : ∀ m o c, f.apply m o c = (g m o c, amoFlags f m o)) (hp : Passes s (f.acc .unordered) (val s a) (amoSize f) s1 x)
    (hc : CleanOk s1 (val s a) (amoSize f) true) (hh : atHome x (amoSize f) s1 = .ok () h) :
    runStep false (amo f d a b) s = .next ((amoAfter f g d a b true (amoSrc f d a b s) x h).mapStrand Strand.advance) := by
  have hw : (amoSrc f d a b s || decide (AccessKind.unordered = .unordered)) = true := by simp
  exact runStep_ok (by rw [amo, M.bind_ok (amoEvent_run hw hg hp hc hh)]; rfl)

end

/-- No AMO's target is a control block (R118). -/
theorem isCtl_of_amo {f : AmoOp} {kind : AccessKind} {k : Nat} (h : (f.acc kind).target.ok k = true) : (regionOf k).isCtl = false := by
  unfold AmoOp.acc Target.ok at h
  cases hr : regionOf k <;> cases kind <;> simp_all [Region.isCtl]

end Sys2Proof.Machine
end

section
open Sys2Proof Sys2Proof.Machine Sys2Proof.Claims

/-- Settles O20: the one event of an AMO, and its store to a line at its home. -/
theorem atomicsComplete : Obligations.AtomicsComplete := by
  unfold Obligations.AtomicsComplete
  intro row hrow d a b s s1 h x hi hp hc hh src t
  have hctl := isCtl_of_amo (State.target_of_check hp.2.1)
  have hsettled := homeSettled_atHome hh hctl (drainBlocked_of_passes hp rfl hctl)
  have hcanon : h.Canonical := by
    have hk := (Keeps.atHome (x := x) (n := amoSize row.2.2.1)).run s1 (canonical_of_passes ⟨hi⟩ hp)
    rw [hh] at hk
    exact hk
  have hpc : (amoAfter row.2.2.1 row.2.2.2 d a b true src x h).strand.pc = s.strand.pc := by
    obtain ⟨l, r, hstrand⟩ := strand_amoAfter (f := row.2.2.1) (g := row.2.2.2) (d := d) (a := a) (b := b) (w := true) (src := src) hsettled
    rw [hstrand, ((keepsActor_of_passes hp).trans (keepsActor_atHome hh)).strand]
    simp
  refine ⟨?_, amoDone_congr (amoDone_amoAfter hcanon hsettled) (fun _ => rfl) rfl rfl rfl rfl rfl⟩
  rw [exec_amoRows row hrow, exec_amo (apply_amoRows row hrow) hp hc hh]
  simp only [t, goesTo, ← hpc]
  rfl

end

section
/-! Ordered atomics (R117, R306, R307): one that its slice may perform on arrival is the event of the unordered one between two changes of ORDTAG and
of its stream's next tag. -/

namespace Sys2Proof.Machine
open Sys2Proof.Claims

/-! ## ORDTAG and the stream's next tag -/

theorem Strand.sticky_ordtag (t : Strand) (f : Flags) (b : Bool) : (t.sticky f b).ctl.ordtag = t.ctl.ordtag := by
  rw [Strand.sticky, Ctl.sticky]
  split <;> simp

/-- ORDTAG[31:0] advances by its step, and the rest of it stands (R117). -/
theorem ordtag_advanced (w : Word) : setBits w 0 32 ((ordTag w).toNat + ordStep w) = (w >>> 32 <<< 32) ||| (ordAdvanced w).setWidth 64 := by
  have hlow : ordAdvanced w = BitVec.ofNat 32 ((ordTag w).toNat + ordStep w) := by
    rw [BitVec.ofNat_add, BitVec.ofNat_toNat, BitVec.setWidth_eq]
    rfl
  refine BitVec.eq_of_getLsbD_eq fun i hi => ?_
  rw [getLsbD_setBits w _ i (by decide), hlow, BitVec.getLsbD_or, BitVec.getLsbD_shiftLeft, BitVec.getLsbD_ushiftRight, BitVec.getLsbD_setWidth,
    BitVec.getLsbD_ofNat]
  by_cases h : i < 32
  · simp [h, hi]
  · simp [h, hi, show 32 + (i - 32) = i by omega]

theorem ordtag_low (w : Word) : ((w >>> 32 <<< 32) ||| (ordAdvanced w).setWidth 64).extractLsb' 0 32 = ordAdvanced w := by
  refine BitVec.eq_of_getLsbD_eq fun i hi => ?_
  simp [hi, show i < 64 by omega]

theorem ordtag_high (w : Word) : ((w >>> 32 <<< 32) ||| (ordAdvanced w).setWidth 64).extractLsb' 32 32 = w.extractLsb' 32 32 := by
  refine BitVec.eq_of_getLsbD_eq fun i hi => ?_
  simp [hi, show 32 + i < 64 by omega]

section
variable {s : State} {e : OrdEntry}

theorem State.ordNext_setOrdNext (n : BitVec 32) : (s.setOrdNext e n).ordNext e = n := by
  have hnone : (s.ordStreams.filter fun x => !(x.launch = e.launch && x.die = e.die && x.slice = e.slice && x.stream = e.stream)).find?
      (fun x => x.launch = e.launch && x.die = e.die && x.slice = e.slice && x.stream = e.stream) = none := by
    rw [List.find?_eq_none]
    intro x hx
    have hout := (List.mem_filter.mp hx).2
    exact fun hin => by rw [hin] at hout; exact Bool.false_ne_true hout
  simp only [State.setOrdNext, State.ordNext, List.find?_append, hnone, Option.none_or]
  simp

/-- A stream without a state begins with tag 0. -/
theorem State.ordNext_of_none
    (h : (s.ordStreams.any fun x => x.launch = e.launch && x.die = e.die && x.slice = e.slice && x.stream = e.stream) = false) : s.ordNext e = 0 := by
  have hnone : s.ordStreams.find? (fun x => x.launch = e.launch && x.die = e.die && x.slice = e.slice && x.stream = e.stream) = none := by
    rw [List.find?_eq_none]
    exact List.any_eq_false.mp h
  simp [State.ordNext, hnone]

end

/-! ## On arrival -/

/-- ORDTAG as the atomic issues: advanced, with the tarnish `src` of its sources too. -/
def ordtagIssued (s : State) (src : Bool) : TWord :=
  { val := (s.strand.ctl.ordtag.val >>> 32 <<< 32) ||| (ordAdvanced s.strand.ctl.ordtag.val).setWidth 64, tarn := s.strand.ctl.ordtag.tarn || src }

/-- The atomic stands in the buffer, and its strand waits for it. -/
def ordWaiting (s : State) (i : Instr) (src : Bool) : State :=
  { ordHeld s i src with strand := { (ordHeld s i src).strand with run := .waitOrd } }

section
variable {s : State} {i : Instr} {src : Bool}

theorem ordHeld_ordEntries (h : s.ordEntries = []) : (ordHeld s i src).ordEntries = [ordEntry s i] := by
  unfold ordHeld
  dsimp only
  split <;> simp [h, State.setOrdNext]

theorem ordHeld_strand : (ordHeld s i src).strand =
    { s.strand with ctl := ({ s.strand.ctl with ordtag := ordtagIssued s src }).seen (s.strand.ctl.ordtag.tarn || src) } := by
  unfold ordHeld
  dsimp only
  split <;> rfl

theorem ordHeld_mem : (ordHeld s i src).mem = s.mem := by
  unfold ordHeld
  dsimp only
  split <;> rfl

theorem ordHeld_reg (r : BitVec 7) : (ordHeld s i src).strand.reg r = s.strand.reg r := by
  rw [ordHeld_strand]
  apply Strand.reg_congr
  · rfl
  · exact Ctl.seen_winb _ _

theorem ordHeld_ordtag : (ordHeld s i src).strand.ctl.ordtag = ordtagIssued s src := by
  rw [ordHeld_strand, Ctl.seen_ordtag]

theorem ordHeld_ordNext (h : s.ordNext (ordEntry s i) = (ordEntry s i).tag) : (ordHeld s i src).ordNext (ordEntry s i) = (ordEntry s i).tag := by
  unfold ordHeld
  dsimp only
  split
  · exact h
  · next hany =>
    rw [State.ordNext_setOrdNext, ← h, State.ordNext_of_none]
    exact Bool.eq_false_of_not_eq_true hany

/-- The atomic has issued, and the strand waits for it. -/
def ordSent (s : State) (src : Bool) : State :=
  { s with nextCmd := s.nextCmd + 1, strand := { s.strand.ordIssue src with run := .waitOrd } }

/-- The entry on its way to the slice. -/
def ordSending (s : State) (i : Instr) : OrdEntry := { ordEntry s i with inBuffer := false }

theorem ordIssue_eq (s : State) (src : Bool) : s.strand.ordIssue src =
    { s.strand with ctl := ({ s.strand.ctl with ordtag := ordtagIssued s src }).seen (s.strand.ctl.ordtag.tarn || src) } := by
  rw [Strand.ordIssue, ordtag_advanced]
  rfl

/-- The atomic has arrived at a slice that holds nothing: its stream has a state. -/
def ordArrived (s : State) (i : Instr) (src : Bool) : State :=
  if (ordSent s src).ordStreams.any
      (fun x => x.launch = (ordSending s i).launch && x.die = (ordSending s i).die && x.slice = (ordSending s i).slice && x.stream = (ordSending s i).stream)
  then ordSent s src else (ordSent s src).setOrdNext (ordSending s i) 0

theorem ordArrived_ordEntries (h : s.ordEntries = []) : (ordArrived s i src).ordEntries = [] := by
  unfold ordArrived
  split <;> exact h

theorem ordArrived_ordNext (h : s.ordNext (ordEntry s i) = (ordEntry s i).tag) :
    (ordArrived s i src).ordNext (ordSending s i) = (ordSending s i).tag := by
  unfold ordArrived
  split
  · exact h
  · next hany =>
    have hzero : s.ordNext (ordEntry s i) = 0 := State.ordNext_of_none (Bool.eq_false_of_not_eq_true hany)
    rw [State.ordNext_setOrdNext, ← hzero, h]
    rfl

/-- What the slice holds is what has arrived, put into the buffer. -/
theorem ordWaiting_eq : ordWaiting s i src = { ordArrived s i src with ordEntries := s.ordEntries ++ [ordEntry s i] } := by
  by_cases hany : (s.ordStreams.any fun x => x.launch = (ordEntry s i).launch && x.die = (ordEntry s i).die && x.slice = (ordEntry s i).slice &&
      x.stream = (ordEntry s i).stream) = true
  · have harrived : ordArrived s i src = ordSent s src := if_pos hany
    have hheld : ordHeld s i src = _ := if_pos hany
    rw [ordWaiting, harrived, hheld, ordSent, ordIssue_eq]
    rfl
  · have harrived : ordArrived s i src = (ordSent s src).setOrdNext (ordSending s i) 0 := if_neg hany
    have hheld : ordHeld s i src = _ := if_neg hany
    rw [ordWaiting, harrived, hheld, ordSent, ordIssue_eq]
    rfl

theorem holdOrd_ordArrived (h : s.ordEntries = []) : (ordArrived s i src).holdOrd (ordSending s i) true = ordWaiting s i src := by
  rw [ordWaiting_eq, State.holdOrd, ordArrived_ordEntries h, h]
  rfl

/-- The strand of an atomic that has issued does not stand suspended. -/
theorem ordHeldAt_ordSent (hheld : s.strand.ordHeld = false) : (ordSent s src).ordHeldAt (ordSending s i) = false := by
  have hat : (ordSent s src).strandAt s.strand.place = some (ordSent s src).strand := by
    simp [State.strandAt, State.strands, ordSent, Strand.ordIssue]
  have hplace : (ordSending s i).place = s.strand.place := rfl
  rw [State.ordHeldAt, hplace, hat]
  exact hheld

/-- An atomic that its slice may perform on arrival is performed as what the buffer holds. -/
theorem ordArrive_first (hf : OrdFirst s i) (hheld : s.strand.ordHeld = false) (addr : Word) :
    (ordSent s src).ordArrive (ordSending s i) addr = (ordWaiting s i src).drainOrd (ordSending s i) 64 := by
  obtain ⟨hempty, hfree, hnext⟩ := hf
  have hown : ((ordSent s src).ordStreams.find? fun x => x.die = (ordSending s i).die && x.slice = (ordSending s i).slice &&
      x.stream = (ordSending s i).stream && x.launch ≠ (ordSending s i).launch) = none := by
    rw [List.find?_eq_none]
    intro x hx
    simp only [Bool.and_eq_true, decide_eq_true_eq, not_and, not_not]
    exact fun ⟨⟨hdie, hslice⟩, hstream⟩ => hfree x hx hdie hslice hstream
  have hnext := ordArrived_ordNext (src := src) hnext
  unfold State.ordArrive
  rw [hown, ordHeldAt_ordSent hheld]
  simp only [Option.isSome_none, Bool.or_self, Bool.false_eq_true, if_false]
  change (let next := (ordArrived s i src).ordNext (ordSending s i)
    let others := (ordArrived s i src).ordEntries.filter fun x => x.id ≠ (ordSending s i).id && x.inBuffer
    if 2 ^ 31 ≤ ((ordSending s i).tag - next).toNat || others.any (fun x => (ordSending s i).sameStream x && x.tag = (ordSending s i).tag) then _
    else if (ordSending s i).tag = next then ((ordArrived s i src).holdOrd (ordSending s i) true).drainOrd (ordSending s i) 64
    else _) = _
  simp only [hnext, ordArrived_ordEntries hempty, holdOrd_ordArrived hempty]
  simp

/-! ## In the buffer -/

/-- The strand that waits is the one whose atomic has issued. -/
theorem ordWaiting_asReady (hrun : s.strand.run = .ready) (hsaved : s.strand.saved = none) :
    ({ ordWaiting s i src with strand := { (ordWaiting s i src).strand with run := .ready, saved := none } } : State) = ordHeld s i src := by
  have hself : ({ (ordHeld s i src).strand with run := .ready, saved := none } : Strand) = (ordHeld s i src).strand := by
    rw [ordHeld_strand, ← hrun, ← hsaved]
  exact congrArg (fun t => ({ ordHeld s i src with strand := t } : State)) hself

theorem strandAt_ordWaiting : (ordWaiting s i src).strandAt (ordEntry s i).place = some (ordWaiting s i src).strand := by
  have hplace : (ordWaiting s i src).strand.place = (ordEntry s i).place := by
    rw [ordWaiting, ordHeld_strand]
    rfl
  have hrun : (ordWaiting s i src).strand.run = .waitOrd := rfl
  unfold State.strandAt State.strands
  rw [List.find?_cons_of_pos]
  rw [hplace, hrun]
  simp

/-- The slice performs the atomic that its buffer holds. -/
theorem performOrd_ordWaiting {line : Bool} {v : State} (hrun : s.strand.run = .ready) (hsaved : s.strand.saved = none)
    (hheld : s.strand.ordHeld = false) (hev : ordEvent i (ordEntry s i).stream (ordHeld s i src) = .ok line v) :
    (ordWaiting s i src).performOrd (ordEntry s i) = (v.mapStrand (Strand.ordDone · line), .done) := by
  have hstrand : (ordWaiting s i src).strand = { (ordHeld s i src).strand with run := .waitOrd } := rfl
  rw [ordHeld_strand] at hstrand
  have hlaunch : (ordWaiting s i src).strand.launch = (ordEntry s i).launch := by rw [hstrand]; rfl
  have hplace : (ordWaiting s i src).strand.place = (ordEntry s i).place := by rw [hstrand]; rfl
  have hnot : (ordWaiting s i src).strand.ordHeld = false := by rw [hstrand]; exact hheld
  have hnone : (ordWaiting s i src).strand.saved = none := by rw [hstrand]; exact hsaved
  have hwait : (ordWaiting s i src).strand.run = .waitOrd := rfl
  have hlive : (ordWaiting s i src).strand.live = true := by rw [Strand.live, hwait]; rfl
  have hagain (u : State) : u.saveAgain (ordWaiting s i src).strand = u := if_neg (by rw [hnone]; exact Bool.false_ne_true)
  have hplace' : ((ordWaiting s i src).strand.place = (ordEntry s i).place && (ordWaiting s i src).strand.live) = true := by rw [hplace, hlive]; simp
  unfold State.performOrd
  rw [strandAt_ordWaiting]
  dsimp only
  rw [if_neg (not_not.mpr hlaunch), if_neg (by rw [hnot]; exact Bool.false_ne_true), if_neg (not_not.mpr hwait), State.actAs2, if_pos hplace',
    ordWaiting_asReady hrun hsaved, show (ordEntry s i).instr = i from rfl, hev]
  dsimp only
  rw [hagain]

/-- And with that the buffer is empty. -/
theorem drainOrd_ordWaiting {line : Bool} {v : State} (hempty : s.ordEntries = []) (hnext : s.ordNext (ordEntry s i) = (ordEntry s i).tag)
    (hrun : s.strand.run = .ready) (hsaved : s.strand.saved = none) (hheld : s.strand.ordHeld = false)
    (hev : ordEvent i (ordEntry s i).stream (ordHeld s i src) = .ok line v) (hv : v.ordEntries = [ordEntry s i]) :
    (ordWaiting s i src).drainOrd (ordSending s i) 64 =
      ({ v.mapStrand (Strand.ordDone · line) with ordEntries := [] } : State).setOrdNext (ordEntry s i) ((ordEntry s i).tag + 1) := by
  have hentries : (ordWaiting s i src).ordEntries = [ordEntry s i] := ordHeld_ordEntries hempty
  have htag : (ordWaiting s i src).ordNext (ordSending s i) = (ordEntry s i).tag := ordHeld_ordNext hnext
  have hsame : (ordSending s i).sameStream (ordEntry s i) = true := by simp [OrdEntry.sameStream, ordSending]
  have hbuffer : (ordEntry s i).inBuffer = true := rfl
  have hgone : ((v.mapStrand (Strand.ordDone · line)).ordEntries.filter fun x => decide (x.id ≠ (ordEntry s i).id)) = [] := by
    have hm : (v.mapStrand (Strand.ordDone · line)).ordEntries = v.ordEntries := rfl
    rw [hm, hv]
    simp
  rw [State.drainOrd, hentries, htag]
  simp only [List.find?_cons, hbuffer, hsame, decide_true, Bool.and_self, performOrd_ordWaiting hrun hsaved hheld hev, hgone]
  rfl

end

/-! ## The whole of an ordered AMO -/

section
variable {f : AmoOp} {g : Word → Word → Word → Word} {i : Instr} {d a b : BitVec 7} {s s1 : State} {x : Xl}

theorem ordEvent_of_amoOf (hi : amoOf i = some (f, d, a, b)) (stream : Nat) : ordEvent i stream = amoEvent f (.ordered stream) d a b := by
  unfold ordEvent
  split
  · cases hi
  · rw [hi]

theorem ordSrc_of_amoOf (hi : amoOf i = some (f, d, a, b)) (s : State) : s.ordSrc i = amoSrc f d a b s := by
  unfold State.ordSrc
  dsimp only
  split
  · cases hi
  · rw [hi]
    rfl

/-- An ordered AMO whose checks pass is sent to its slice. -/
theorem issueOrdered_run (hi : amoOf i = some (f, d, a, b))
    (hp : Passes s { f.acc (.ordered (getBits s.strand.ctl.ordtag.val 32 8)) with assay := false, poison := false } (val s a) (amoSize f) s1 x) :
    issueOrdered i s = .next ((ordSent s1 (amoSrc f d a b s)).ordArrive (ordSending s1 i) (val s a)) := by
  have hk := keepsActor_of_passes hp
  rw [amoSize_eq] at hp
  have hcheck : ordCheck i (ordStream s.strand.ctl.ordtag.val) s = .ok (val s a) s1 := by
    rw [ordCheck_of_amoOf hi, M.bind_ok (M.getS_run s)]
    exact M.bind_ok (accessCheck_of_passes hp)
  have hsrc : s1.ordSrc i = amoSrc f d a b s := by
    rw [ordSrc_of_amoOf hi]
    simp only [amoSrc, tarn1, tarn2, hk.reg]
  have htag : s1.strand.ctl.ordtag = s.strand.ctl.ordtag := by rw [hk.strand]
  rw [issueOrdered, hcheck]
  dsimp only
  rw [hsrc, ← htag]
  rfl

/-- An ordered AMO that its slice may perform on arrival is its one event (R117, R307). -/
theorem issueOrdered_first {w : Bool} {s2 h : State} {y : Xl} (hi : amoOf i = some (f, d, a, b))
    (hg : ∀ m o c, f.apply m o c = (g m o c, amoFlags f m o)) (hw : amoSrc f d a b s = w) (hcan : s.strand.canRun = true)
    (hheld : s1.strand.ordHeld = false)
    (hp : Passes s { f.acc (.ordered (getBits s.strand.ctl.ordtag.val 32 8)) with assay := false, poison := false } (val s a) (amoSize f) s1 x)
    (hf : OrdFirst s1 i) (hq : Passes (ordHeld s1 i w) (f.acc (.ordered (getBits s.strand.ctl.ordtag.val 32 8))) (val s a) (amoSize f) s2 y)
    (hc : CleanOk s2 (val s a) (amoSize f) w) (hh : atHome y (amoSize f) s2 = .ok () h) :
    issueOrdered i s = .next
      ((ordPerformed (amoAfter f g d a b w w y h) (ordEntry s1 i) (w || h.tarn.contains (lineOf y.key))).mapStrand Strand.advance) := by
  have hk := keepsActor_of_passes hp
  have hkq := (keepsActor_of_passes hq).trans (keepsActor_atHome hh)
  have hready : s1.strand.run = .ready ∧ s1.strand.saved = none := by
    rw [hk.strand]
    simp only [Strand.canRun, Bool.and_eq_true, decide_eq_true_eq, Option.isNone_iff_eq_none] at hcan
    exact hcan.1
  have hstream : getBits s.strand.ctl.ordtag.val 32 8 = (ordEntry s1 i).stream := by
    rw [show s.strand.ctl.ordtag = s1.strand.ctl.ordtag by rw [hk.strand]]
    rfl
  have hval : val (ordHeld s1 i w) a = val s a := by rw [val, val, ordHeld_reg, hk.reg]
  have hsrc : amoSrc f d a b (ordHeld s1 i w) = w := by
    rw [← hw]
    simp only [amoSrc, tarn1, tarn2, ordHeld_reg, hk.reg]
  rw [hstream, ← hval] at hq
  rw [← hval] at hc
  have hev : ordEvent i (ordEntry s1 i).stream (ordHeld s1 i w) = .ok (w || h.tarn.contains (lineOf y.key)) (amoAfter f g d a b w w y h) := by
    have hrun := amoEvent_run (w := w) (by rw [hsrc]; simp) hg hq hc hh
    rw [hsrc] at hrun
    rw [ordEvent_of_amoOf hi, hrun]
  have hctl := isCtl_of_amo (State.target_of_check hq.2.1)
  have hentries : (amoAfter f g d a b w w y h).ordEntries = [ordEntry s1 i] := by
    rw [← ordHeld_ordEntries (src := w) hf.1, ← hkq.ordEntries]
    exact (settledStore_stored (va := val h a) (homeSettled_atHome hh hctl (drainBlocked_of_passes hq rfl hctl))).ordEntries
  rw [issueOrdered_run hi hp, hw, ordArrive_first hf hheld, drainOrd_ordWaiting hf.1 hf.2.2 hready.1 hready.2 hheld hev hentries]
  rfl

end

end Sys2Proof.Machine
end

section
open Sys2Proof Sys2Proof.Machine Sys2Proof.Claims

/-- Settles O21: what has arrived is performed as the one event of the unordered form, between the changes of ORDTAG and of the stream's next tag. -/
theorem orderedAtomicsComplete : Obligations.OrderedAtomicsComplete := by
  unfold Obligations.OrderedAtomicsComplete
  intro row hrow d a b s s1 s2 h x y hinv hcan hheld i o src hp hf hq hc hh line t
  obtain ⟨hi, hexec⟩ := exec_amoRows_ordered row hrow d a b
  have hk := keepsActor_of_passes hp
  have hkq := (keepsActor_of_passes hq).trans (keepsActor_atHome hh)
  have hctl := isCtl_of_amo (State.target_of_check hq.2.1)
  have hsettled := homeSettled_atHome hh hctl (drainBlocked_of_passes hq rfl hctl)
  have hcanon : h.Canonical := by
    have hheld : (ordHeld s1 i src).Canonical := by
      refine ⟨?_⟩
      rw [ordHeld_mem]
      exact (canonical_of_passes ⟨hinv⟩ hp).wf
    have hrun := (Keeps.atHome (x := y) (n := amoSize row.2.2.1)).run s2 (canonical_of_passes hheld hq)
    rw [hh] at hrun
    exact hrun
  have hrun : s.strand.run = .ready := by
    simp only [Strand.canRun, Bool.and_eq_true, decide_eq_true_eq] at hcan
    exact hcan.1.1
  obtain ⟨l, r, hstrand⟩ := strand_amoAfter (f := row.2.2.1) (g := row.2.2.2) (d := d) (a := a) (b := b) (w := src) (src := src) hsettled
  have hpc : (amoAfter row.2.2.1 row.2.2.2 d a b src src y h).strand.pc = s.strand.pc := by
    rw [hstrand, hkq.strand, ordHeld_strand, hk.strand]
    simp
  have hordtag : (amoAfter row.2.2.1 row.2.2.2 d a b src src y h).strand.ctl.ordtag = ordtagIssued s src := by
    rw [hstrand, Strand.setReg_ordtag, Strand.sticky_ordtag, Strand.recordClean_ordtag, Strand.seen_ctl, Ctl.seen_ordtag, hkq.strand]
    dsimp only
    rw [ordHeld_ordtag, ordtagIssued, hk.strand]
    rfl
  have hready : (amoAfter row.2.2.1 row.2.2.2 d a b src src y h).strand.run = .ready := by
    rw [hstrand, hkq.strand, ordHeld_strand, hk.strand]
    simpa using hrun
  have htag : t.strand.ctl.ordtag = { ordtagIssued s src with tarn := (ordtagIssued s src).tarn || (src || line) } := by
    rw [← hordtag]
    rfl
  refine ⟨?_, amoDone_congr (amoDone_amoAfter hcanon hsettled) (fun _ => rfl) rfl rfl rfl rfl rfl, hready, ?_, ?_, ?_, rfl, State.ordNext_setOrdNext _⟩
  · rw [hexec, issueOrdered_first hi (apply_amoRows row hrow) rfl hcan hheld hp hf hq hc hh]
    simp only [t, goesTo, ← hpc]
    rfl
  · rw [htag]
    exact ordtag_low _
  · rw [htag]
    exact ordtag_high _
  · rw [htag]
    simp only [ordtagIssued, Bool.or_assoc, Bool.or_self_left]

end

section
/-! What the checks of an access change when no failure of the hardware waits and no bit of HBM has flipped: refresh registers, copies and caches, and
the A and D bits of leaf entries (R108, R302, R349, R350). -/

namespace Sys2Proof.Machine
open Sys2Proof.Claims

/-- The register is no refresh register of a pseudo-channel. -/
def NoRefrec (a : Nat) : Prop := ∀ stack < 8, ∀ pch < 128, a ≠ refrec stack pch

/-- No pseudo-channel is in self-refresh, and none owes a refresh. -/
def State.RefreshIdle (s : State) : Prop := ∀ stack < 8, ∀ pch < 128, s.selfRefresh stack pch = false ∧ s.refreshRec stack pch ≠ -8

theorem pchOf_lt {k : Nat} (h : k < hbmEnd) : (pchOf k).1 < 8 ∧ (pchOf k).2 < 128 := by
  simp only [pchOf, hbmEnd, hbmDie, hbmBand] at h ⊢
  omega

/-- A descriptor's registers lie past the stacks' control blocks. -/
theorem noRefrec_descAddr (part off : Nat) : NoRefrec (descAddr part off) := by
  intro stack hs pch hp
  simp only [refrec, stackCtl, stackBase, descAddr, descBase]
  omega

/-! ## Requests to HBM -/

/-- `u` is `s` after requests to pseudo-channels, while no bit of HBM has flipped. -/
structure State.Requests (s u : State) : Prop where
  rest : u = { s with dev := u.dev, fresh := u.fresh }
  regs : ∀ a, NoRefrec a → u.reg64 a = s.reg64 a
  idle : s.RefreshIdle → u.dev = s.dev

namespace State.Requests

variable {s u : State}

theorem refl (s : State) : s.Requests s := ⟨rfl, fun _ _ => rfl, fun _ => rfl⟩

theorem ite {c : Prop} {_ : Decidable c} {v : State} (h : s.Requests u) (h' : s.Requests v) : s.Requests (if c then u else v) := by
  split <;> assumption

theorem flips (h : s.Requests u) : u.flips = s.flips := by rw [h.rest]
theorem mem (h : s.Requests u) : u.mem = s.mem := by rw [h.rest]
theorem poison (h : s.Requests u) : u.poison = s.poison := by rw [h.rest]
theorem tlb (h : s.Requests u) : u.tlb = s.tlb := by rw [h.rest]
theorem compressed (h : s.Requests u) : u.compressed = s.compressed := by rw [h.rest]

theorem refreshIdle (h : s.Requests u) (hs : s.RefreshIdle) : u.RefreshIdle := by
  intro stack hstack pch hpch
  rw [State.selfRefresh, State.refreshRec, State.reg64, h.idle hs]
  exact hs stack hstack pch hpch

theorem tick (h : s.Requests u) : s.Requests { u with fresh := u.fresh + 1 } :=
  ⟨congrArg (fun v : State => { v with fresh := u.fresh + 1 }) h.rest, h.regs, h.idle⟩

/-- A field of a refresh register is written because its pseudo-channel is not idle. -/
theorem setField {stack pch lo n v : Nat} (h : s.Requests u) (hstack : stack < 8) (hpch : pch < 128) (hbusy : ¬ u.RefreshIdle) :
    s.Requests (u.setField (refrec stack pch) lo n v) where
  rest := congrArg (fun w : State => { w with dev := (u.setField (refrec stack pch) lo n v).dev }) h.rest
  regs a ha := (State.reg64_setField_of_ne u lo n v (ha stack hstack pch hpch)).trans (h.regs a ha)
  idle hs := absurd (h.refreshIdle hs) hbusy

theorem request {k : Nat} (hk : k < hbmEnd) (h : s.Requests u) : s.Requests (u.request k) := by
  obtain ⟨hstack, hpch⟩ := pchOf_lt hk
  have hawake : s.Requests (if u.selfRefresh (pchOf k).1 (pchOf k).2 then u.setField (refrec (pchOf k).1 (pchOf k).2) 10 1 0 else u) := by
    split
    · next hself => exact h.setField hstack hpch fun hidle => Bool.false_ne_true ((hidle _ hstack _ hpch).1.symm.trans hself)
    · exact h
  unfold State.request
  dsimp only
  generalize (if u.selfRefresh (pchOf k).1 (pchOf k).2 then u.setField (refrec (pchOf k).1 (pchOf k).2) 10 1 0 else u) = v at hawake ⊢
  split
  · next howed => exact hawake.setField hstack hpch fun hidle => (hidle _ hstack _ hpch).2 howed
  · exact hawake

/-- Without flipped bits a read of a sector passes its CRC check. -/
theorem readSector {line : Nat} (hf : u.flips = []) : u.readSector line = u := by
  unfold State.readSector
  rw [hf]
  rfl

theorem reachHbm {k : Nat} {whole : Bool} (hf : s.flips = []) (h : s.Requests u) : s.Requests (u.reachHbm k whole) := by
  unfold State.reachHbm
  split
  · exact h
  · next hc =>
    have hk : k < hbmEnd := by
      simp only [Bool.not_eq_true', Bool.not_eq_false, Bool.and_eq_true, decide_eq_true_eq] at hc
      exact hc.1
    have hr := h.tick.request hk
    refine .ite h.tick (.ite hr ?_)
    rw [readSector (hr.flips.trans hf)]
    exact hr

theorem touchTables {part va n a : Nat} (hf : s.flips = []) (h : s.Requests u) : s.Requests (u.touchTables part va n a) := by
  induction n generalizing u a with
  | zero => exact h
  | succ n ih => exact .ite h (.ite (h.reachHbm hf) (ih (h.reachHbm hf)))

theorem touchWalk {part va : Nat} (hf : s.flips = []) (h : s.Requests u) : s.Requests (u.touchWalk part va) := .ite h (h.touchTables hf)

/-- The walk of the page tables stands. -/
theorem inBands (h : s.Requests u) (part k : Nat) : u.inBands part k = s.inBands part k := by
  simp only [State.inBands, State.ownsBand, h.regs _ (noRefrec_descAddr _ _)]

theorem badLeaf (h : s.Requests u) (l : Nat) (e : Word) : u.badLeaf l e = s.badLeaf l e := by
  unfold State.badLeaf
  rw [h.compressed]

theorem walkFrom (h : s.Requests u) (part va n t : Nat) : u.walkFrom part va n t = s.walkFrom part va n t := by
  induction n generalizing t with
  | zero => rfl
  | succ n ih => simp only [State.walkFrom, h.inBands, h.mem, h.poison, h.badLeaf, ih]

theorem walk (h : s.Requests u) (part va : Nat) : u.walk part va = s.walk part va := by
  simp only [State.walk, h.regs _ (noRefrec_descAddr _ _), h.walkFrom]

end State.Requests

/-! ## Leaf entries -/

/-- The byte lies in no leaf entry that a translation may use: not in the one that the walk ends in, and in none of the partition's that a
translation cache has. -/
def State.OutsideLeaves (s : State) (part va k : Nat) : Prop :=
  (∀ l e w, s.walk part va = .ok (l, w, e) → k < e ∨ e + 8 ≤ k) ∧ ∀ x ∈ s.tlb, x.part = part → k < x.addr ∨ x.addr + 8 ≤ k

/-- `u` is `s` after a translation of an address for a partition, with what a check of the access does to copies of lines and to assay tags. -/
structure State.Checked (part va : Nat) (s u : State) : Prop where
  rest : u = { s with dev := u.dev, fresh := u.fresh, mem := u.mem, tlb := u.tlb, guests := u.guests, assay := u.assay }
  regs : ∀ a, NoRefrec a → u.reg64 a = s.reg64 a
  idle : s.RefreshIdle → u.dev = s.dev
  bytes : ∀ k, s.OutsideLeaves part va k → Mem.read u.mem k = Mem.read s.mem k

namespace State.Checked

variable {s u v : State} {part va : Nat}

theorem of_requests (h : s.Requests u) : s.Checked part va u :=
  ⟨by rw [h.rest], h.regs, h.idle, fun _ _ => by rw [h.mem]⟩

theorem refl (s : State) : s.Checked part va s := of_requests (.refl s)

theorem ite {c : Prop} {_ : Decidable c} (h : s.Checked part va u) (h' : s.Checked part va v) : s.Checked part va (if c then u else v) := by
  split <;> assumption

theorem flips (h : s.Checked part va u) : u.flips = s.flips := by rw [h.rest]
theorem upsets (h : s.Checked part va u) : u.upsets = s.upsets := by rw [h.rest]

/-- Copies of lines, caches, assay tags and the count of free choices are no data. -/
theorem of_copies (h : s.Checked part va u) (hv : v = { u with fresh := v.fresh, tlb := v.tlb, guests := v.guests, assay := v.assay }) :
    s.Checked part va v where
  rest := by rw [hv, h.rest]
  regs a ha := by rw [hv]; exact h.regs a ha
  idle hs := by rw [hv]; exact h.idle hs
  bytes k hk := by rw [hv]; exact h.bytes k hk

/-- Requests come behind a translation. -/
theorem requests (h : s.Checked part va u) (hr : u.Requests v) : s.Checked part va v where
  rest := by rw [hr.rest, h.rest]
  regs a ha := (hr.regs a ha).trans (h.regs a ha)
  idle hs := by
    have hu : u.RefreshIdle := by
      intro stack hstack pch hpch
      rw [State.selfRefresh, State.refreshRec, State.reg64, h.idle hs]
      exact hs stack hstack pch hpch
    exact (hr.idle hu).trans (h.idle hs)
  bytes k hk := by rw [hr.mem, h.bytes k hk]

theorem writeCells {k n : Nat} (hf : u.flips = []) : u.writeCells k n = u := if_pos (by rw [hf]; rfl)

/-- A and D bits are set in a leaf entry. -/
theorem setAD {addr : Nat} {e : Word} {a : Access} (hf : s.flips = []) (hw : Memory.wf u.mem = true) (h : s.Checked part va u)
    (haddr : ∀ k, s.OutsideLeaves part va k → k < addr ∨ addr + 8 ≤ k) : s.Checked part va (u.setAD addr e a) := by
  unfold State.setAD
  refine .ite h ?_
  rw [writeCells]
  · exact ⟨congrArg (fun w : State => { w with mem := Mem.writeLE u.mem addr 8 (BitVec.ofNat 64 (Mem.readLE u.mem addr 8) ||| a.marks).toNat }) h.rest,
      h.regs, h.idle, fun k hk => (Mem.read_writeLE_of_outside _ _ _ hw (haddr k hk)).trans (h.bytes k hk)⟩
  · exact h.flips.trans hf

theorem cacheLeaf {addr : Nat} {e : Word} (h : s.Checked part va u) : s.Checked part va (u.cacheLeaf part va e addr) := by
  unfold State.cacheLeaf
  exact .ite (h.of_copies rfl) (h.of_copies rfl)

theorem translateNow {q : Party} {a : Access} (hf : s.flips = []) (hw : Memory.wf s.mem = true) : s.Checked q.part va (s.translateNow q va a).1 := by
  unfold State.translateNow
  split
  · exact refl s
  · split
    · exact refl s
    · extract_lets w fresh use walked
      have huse {u : State} {e : Word} {addr : Nat} (hu : s.Checked q.part va u) (hm : u.mem = s.mem)
          (haddr : ∀ k, s.OutsideLeaves q.part va k → k < addr ∨ addr + 8 ≤ k) : s.Checked q.part va (use u e addr).1 := by
        simp only [use]
        split
        · exact hu
        · exact (hu.setAD hf (hm ▸ hw) haddr).cacheLeaf
      have hwalked {u : State} (hu : s.Checked q.part va u) (hm : u.mem = s.mem) : s.Checked q.part va (walked u).1 := by
        have hwalk : s.walk q.part va = w := rfl
        clear_value w
        simp only [walked]
        split
        · exact hu
        · exact huse hu hm fun k hk => hk.1 _ _ _ hwalk
      split
      · exact hwalked (refl s) rfl
      · next stale hstale =>
        have htick : s.Checked q.part va { s with fresh := s.fresh + 1 } := .of_copies (refl s) rfl
        split
        · next t ht =>
          have hmem : t ∈ s.staleLeaves q.part va fresh := List.mem_of_getElem? ht
          obtain ⟨hin, hp⟩ := List.mem_filter.mp hmem
          simp only [Bool.and_eq_true, decide_eq_true_eq] at hp
          exact huse htick rfl fun k hk => hk.2 t hin hp.1.1.1
        · exact hwalked htick rfl

/-- A walk reads the tables before the address is translated by them. -/
theorem after_requests (hr : s.Requests u) (h : u.Checked part va v) : s.Checked part va v where
  rest := by rw [h.rest, hr.rest]
  regs a ha := (h.regs a ha).trans (hr.regs a ha)
  idle hs := (h.idle (hr.refreshIdle hs)).trans (hr.idle hs)
  bytes k hk := by
    rw [h.bytes k, hr.mem]
    rw [State.OutsideLeaves, hr.walk, hr.tlb]
    exact hk

theorem translate {q : Party} {a : Access} (hf : s.flips = []) (hw : Memory.wf s.mem = true) : s.Checked q.part va (s.translate q va a).1 := by
  have hr : s.Requests (if q.part = 32 || decide (0xFFC0000000000 ≤ va) then s else s.touchWalk q.part va) :=
    .ite (.refl s) ((State.Requests.refl s).touchWalk hf)
  exact after_requests hr (translateNow (hr.flips.trans hf) (hr.mem ▸ hw))

/-! ## The checks -/

/-- No hardware failure waits to be met. -/
theorem meetUpsets {t : Strand} {k : Nat} (hu : u.upsets = []) : u.meetUpsets t k = u := if_pos (by rw [hu]; rfl)

theorem metaLost {o : Acc} {k : Nat} (hu : u.upsets = []) : u.metaLost o k = false := by
  simp [State.metaLost, State.metaGone, hu]

theorem settlePoison {place k : Nat} {unc : Bool} (h : s.Checked part va u) : s.Checked part va (u.settlePoison place k unc) := by
  unfold State.settlePoison
  dsimp only
  split
  · exact .ite h (.ite (h.of_copies rfl) (h.of_copies rfl))
  · exact h

theorem assayCheck {t : Strand} {at_ : Option Nat} {k n : Nat} {a : Access} {kind : AccessKind} {seen : List (Nat × Nat)}
    (h : s.Checked part va u) (hv : u.assayCheck t at_ k n a kind seen = .ok v) : s.Checked part va v := by
  unfold State.assayCheck at hv
  split at hv
  · cases hv; exact h
  · split at hv
    · cases hv
    · dsimp only at hv
      split at hv
      · cases hv
      · split at hv
        · split at hv
          · cases hv
          · cases hv; exact h.of_copies rfl
        · cases hv; exact h.of_copies rfl

theorem check {t : Strand} {o : Acc} {n : Nat} (hu : s.upsets = []) (hf : s.flips = []) (hw : Memory.wf s.mem = true) :
    s.Checked t.part va (s.check t o va n).1 := by
  unfold State.check
  split
  · exact refl s
  · have htr : s.Checked t.part va (s.translate t.party va o.mode).1 := translate (q := t.party) hf hw
    split
    · next heq => rw [heq] at htr; exact htr
    · next s0 x heq =>
      rw [heq] at htr
      dsimp only at htr ⊢
      rw [meetUpsets (htr.upsets.trans hu)]
      split
      · exact htr
      · split
        · exact htr
        · next s2 hassay =>
          have hchecked : s.Checked t.part va s2 := by
            split at hassay
            · exact htr.assayCheck hassay
            · cases hassay; exact htr
          have hreached : s.Checked t.part va
              (if o.poison then (s2.reachHbm x.key (o.mode = .write && n = 64)).settlePoison t.place x.key x.unc else s2) :=
            .ite (settlePoison (hchecked.requests ((State.Requests.refl s2).reachHbm (hchecked.flips.trans hf)))) hchecked
          generalize (if o.poison = true then _ else s2) = w at hreached ⊢
          rw [metaLost (hreached.upsets.trans hu)]
          split
          · exact hreached
          · exact hreached

end State.Checked

end Sys2Proof.Machine
end

section
open Sys2Proof Sys2Proof.Machine Sys2Proof.Claims

/-- Settles O18: the checks are a translation, requests to HBM, and what they do to copies and assay tags. -/
theorem checksChangeNoData : Obligations.ChecksChangeNoData := by
  unfold Obligations.ChecksChangeNoData
  intro s s1 o va n r hinv hupsets hflips hcheck
  have h : s.Checked s.strand.part va s1 := by
    have hc := State.Checked.check (t := s.strand) (o := o) (va := va) (n := n) hupsets hflips hinv
    rw [hcheck] at hc
    exact hc
  refine ⟨?_, ?_, ?_, ?_, ?_, h.regs, h.idle, fun k hwalk htlb => h.bytes k ⟨hwalk, htlb⟩⟩ <;> rw [h.rest]

end

section
/-! The end of a strand (R126): what its barriers do when it is gone leaves the ended strand and its launch's list alone. -/

namespace Sys2Proof.Machine
open Sys2Proof.Claims

/-! ## An ended strand -/

/-- The acting strand, once it has ended, is as it was but for the lines it links, and so are the launches. -/
structure State.KeepsEnded (s u : State) : Prop where
  strand : s.strand.run = .ended → u.strand = { s.strand with links := u.strand.links }
  launches : u.launches = s.launches

namespace State.KeepsEnded

variable {α : Type} {s u v : State}

theorem refl (s : State) : s.KeepsEnded s := ⟨fun _ => rfl, rfl⟩

theorem run (h : s.KeepsEnded u) (hs : s.strand.run = .ended) : u.strand.run = .ended := by
  rw [h.strand hs]
  exact hs

theorem trans (h : s.KeepsEnded u) (h' : u.KeepsEnded v) : s.KeepsEnded v :=
  ⟨fun hs => by rw [h'.strand (h.run hs), h.strand hs], h'.launches.trans h.launches⟩

theorem ite {c : Prop} {_ : Decidable c} (h : s.KeepsEnded u) (h' : s.KeepsEnded v) : s.KeepsEnded (if c then u else v) := by
  split <;> assumption

theorem foldl {f : State → α → State} {l : List α} (hf : ∀ (v : State) x, v.KeepsEnded (f v x)) : s.KeepsEnded (l.foldl f s) :=
  List.foldlRecOn (motive := s.KeepsEnded) l f (refl s) fun v hv x _ => hv.trans (hf v x)

theorem of_drains (hd : s.Drains u) (ht : s.KeepsTables u) : s.KeepsEnded u := ⟨fun _ => hd.strand, ht.launches⟩

theorem of_keepsContext (hc : s.KeepsContext u) (ht : s.KeepsTables u) : s.KeepsEnded u := ⟨fun _ => hc.strand, ht.launches⟩

theorem updateAt (s : State) (place : Nat) (f : Strand → Strand) : s.KeepsEnded (s.updateAt place f) := by
  refine ⟨fun hs => ?_, rfl⟩
  have hend : (s.updateAt place f).strand = s.strand := if_neg (by simp [hs])
  rw [hend]

theorem setBarrier (s : State) (b : Barrier) : s.KeepsEnded (s.setBarrier b) := ⟨fun _ => rfl, rfl⟩

theorem drainAll (s : State) (core : Nat) : s.KeepsEnded (s.drainAll core) :=
  of_drains (State.Drains.drainAll s core) (State.KeepsTables.refl s).drainAll

theorem postRecord (s : State) (ring kind : Nat) (words : List Word) (place cmd : Option Nat) :
    s.KeepsEnded (s.postRecord ring kind words place cmd).1 :=
  of_keepsContext (State.KeepsContext.refl s).postRecord (State.KeepsTables.refl s).postRecord

theorem hubWrite (s : State) (part va : Nat) (bs : List Byte) : s.KeepsEnded (s.hubWrite part va bs) :=
  of_keepsContext (State.KeepsContext.refl s).hubWrite (State.KeepsTables.refl s).hubWrite

/-! ## Observation -/

theorem recordWrite (s : State) (c : Cmd) (phys : Bool) (lo len : Nat) : s.KeepsEnded (s.recordWrite c phys lo len).1 := by
  unfold State.recordWrite
  split
  · exact refl s
  · refine List.foldlRecOn (motive := fun p : State × Option Nat => s.KeepsEnded p.1) _ _ (refl s) fun p hp i _ => ?_
    dsimp only
    split
    · exact hp
    · split
      · exact hp
      · split
        · exact hp.trans ⟨fun _ => rfl, rfl⟩
        · exact hp

theorem observe (s : State) (cmd flat : Nat) : s.KeepsEnded (s.observe cmd flat) := by
  unfold State.observe
  split
  · exact refl s
  · next c _ =>
    extract_lets s1 s2 s3 s4
    have h2 : s.KeepsEnded s2 := by
      have h1 : s.KeepsEnded s1 := ⟨fun _ => rfl, rfl⟩
      simp only [s2]
      split
      · exact h1
      · exact h1.trans ⟨fun _ => rfl, rfl⟩
    refine .ite h2 ?_
    have h3 : s.KeepsEnded s3.1 := h2.trans (recordWrite s2 c _ _ _)
    have h4 : s.KeepsEnded s4.1 := by
      simp only [s4]
      split
      · exact h3.trans (recordWrite _ _ _ _ _)
      · exact h3
    clear_value s4
    split
    · exact h4
    · exact h4.trans ⟨fun _ => rfl, rfl⟩

theorem observeAll (s : State) (cmds : List Nat) (flat : Nat) : s.KeepsEnded (s.observeAll cmds flat) := foldl fun v c => observe v c flat

theorem observeIssuer (s : State) (cmd : Nat) : s.KeepsEnded (s.observeIssuer cmd) := by
  unfold State.observeIssuer
  split
  · exact observe _ _ _
  · exact refl s

/-! ## Completion of a barrier -/

theorem releaseAt (s : State) (place scope : Nat) : s.KeepsEnded (s.releaseAt place scope) :=
  trans (.ite (drainAll s _) (refl s)) ⟨fun _ => rfl, rfl⟩

theorem acquireAt (s : State) (place scope : Nat) : s.KeepsEnded (s.acquireAt place scope) := .ite (refl s) ⟨fun _ => rfl, rfl⟩

theorem codeJoin (s : State) (places : List Nat) (scope : Nat) : s.KeepsEnded (s.codeJoin places scope) := ⟨fun _ => rfl, rfl⟩

theorem releaseInstance (s : State) (b : Barrier) (counted : List Nat) (scope : Nat) : s.KeepsEnded (s.releaseInstance b counted scope) := by
  unfold State.releaseInstance
  extract_lets members s0 s1 s2
  have h0 : s.KeepsEnded s0 := .ite (foldl observeIssuer) (refl s)
  have h1 : s.KeepsEnded s1 := h0.trans (foldl fun v t => (observeAll v counted t.flat).trans (releaseAt _ _ _))
  have h2 : s.KeepsEnded s2 := (h1.trans (codeJoin _ _ _)).trans (foldl fun v t => (acquireAt v _ _).trans (updateAt _ _ _))
  exact h2.trans (setBarrier _ _)

theorem advancePhases (s : State) (l : Launch) (n group : Nat) : s.KeepsEnded (s.advancePhases l n group) := by
  unfold State.advancePhases
  extract_lets top s1
  have h1 : s.KeepsEnded s1 := .ite (refl s) (foldl fun _ _ => foldl fun _ _ => ⟨fun _ => rfl, rfl⟩)
  clear_value s1
  split
  · exact .ite (h1.trans ⟨fun _ => rfl, rfl⟩) h1
  · exact h1

theorem suspendAt (s : State) (place cause elem route : Nat) : s.KeepsEnded (s.suspendAt place cause elem route) := by
  unfold State.suspendAt
  split
  · exact refl s
  · exact (postRecord s _ _ _ _ _).trans (updateAt _ _ _)

theorem completeGroup (s : State) (l : Launch) (n group bar : Nat) : s.KeepsEnded (s.completeGroup l n group bar) := by
  unfold State.completeGroup
  extract_lets insts waiting scope counted places s1
  refine .ite (foldl fun v t => suspendAt v _ _ _ _) ?_
  have h1 : s.KeepsEnded s1 := foldl fun v b => releaseInstance v _ _ _
  exact trans (.ite h1 (h1.trans (codeJoin _ _ _))) (advancePhases _ _ _ _)

theorem evalBarrier (s : State) (b : Barrier) : s.KeepsEnded (s.evalBarrier b) := by
  unfold State.evalBarrier
  refine .ite (refl s) ?_
  dsimp only
  split
  · exact releaseInstance _ _ _ _
  · split
    · exact releaseInstance _ _ _ _
    · exact .ite (completeGroup _ _ _ _ _) (refl s)

end State.KeepsEnded

/-! ## The end -/

section
variable {s : State} {t : Strand} {l : Launch}

/-- The strand that ends, as it is left. -/
def Strand.asEnded (t : Strand) : Strand := { t with run := .ended, arrivals := [], links := [], borrowed := [] }

theorem State.strandAt_self (h : s.strand.run = .ready) : s.strandAt s.strand.place = some s.strand := by
  unfold State.strandAt State.strands
  rw [List.find?_cons_of_pos]
  rw [h]
  simp

theorem State.updateAt_self (h : s.strand.run = .ready) (f : Strand → Strand) : (s.updateAt s.strand.place f).strand = f s.strand :=
  if_pos (by rw [h]; simp)

/-- The acting strand ends: it is left as it was but for what the end takes away, and its launch lists it. -/
theorem State.endStrand_self (h : s.strand.run = .ready) (status : TWord) (kill : Option Word) :
    (∃ k, (s.endStrand s.strand.place status kill).strand = { s.strand.asEnded with links := k }) ∧
    ∀ l ∈ s.launches, l.id = s.strand.launch →
      ∃ m ∈ (s.endStrand s.strand.place status kill).launches, m.id = l.id ∧ (s.strand.flat, kill) ∈ m.ended := by
  unfold State.endStrand
  rw [State.strandAt_self h]
  dsimp -zeta only
  split
  · next hnone =>
    refine ⟨⟨_, State.updateAt_self h _⟩, fun l hl hid => ?_⟩
    exact absurd hid (by simpa using List.find?_eq_none.mp hnone l hl)
  · next l hsome =>
    extract_lets l1 entry s1 s2 bars had s3
    have hkeep : s3.KeepsEnded (bars.foldl (fun u b =>
        let i := u.barrier (coreOf s.strand.place) b (s.ownerOf s.strand b)
        let i1 := { i with gone := i.gone + 1, arr := if had.contains b then i.arr - 1 else i.arr }
        (u.setBarrier i1).evalBarrier i1) s3) :=
      .foldl fun v b => (State.KeepsEnded.setBarrier v _).trans (State.KeepsEnded.evalBarrier _ _)
    have hcontext : s1.KeepsContext s2 := .ite (.refl s1) (State.KeepsContext.refl s1).hubWrite
    have htables : s1.KeepsTables s2 := .ite (.refl s1) (State.KeepsTables.refl s1).hubWrite
    have hrun : s2.strand.run = .ready := by
      rw [hcontext.strand]
      exact h
    have hplace : s2.strand.place = s.strand.place := by rw [hcontext.strand]; rfl
    have hstrand : s3.strand = s.strand.asEnded := by
      have hself : (s2.updateAt s2.strand.place Strand.asEnded).strand = s2.strand.asEnded := State.updateAt_self hrun _
      rw [hplace] at hself
      rw [show s3.strand = s2.strand.asEnded from hself, hcontext.strand]
      rfl
    have hlaunches : s3.launches = s.launches.map fun x => if x.id = l1.id then l1 else x := htables.launches
    have hid : l.id = s.strand.launch := by simpa using List.find?_some hsome
    have hend := hkeep.strand (by rw [hstrand]; rfl)
    rw [hstrand] at hend
    refine ⟨⟨_, hend⟩, fun x hx hxid => ⟨l1, ?_, hid.trans hxid.symm, List.mem_append_right _ (List.mem_singleton_self _)⟩⟩
    rw [hkeep.launches, hlaunches]
    exact List.mem_map.mpr ⟨x, hx, if_pos (hxid.trans hid.symm)⟩

end

/-! ## EXIT -/

section
variable {s : State} {a : BitVec 7}

/-- No trap is owed to the acting strand on a command. -/
def State.OwesNone (s : State) : Prop :=
  ∀ c ∈ s.cmds, c.place = s.strand.place → c.launch = s.strand.launch → c.node = none → ∀ u v w, c.phase ≠ .owes u v w

theorem takeOwed_none (h : s.OwesNone) (waitsOn : Cmd → Bool) : takeOwed waitsOn s = .ok () s := by
  rw [takeOwed, M.bind_ok (M.get_run s)]
  generalize hfind : s.cmds.find? _ = o
  cases o with
  | none => rfl
  | some c =>
    have hp := List.find?_some hfind
    simp only [Bool.and_eq_true, decide_eq_true_eq, Option.isNone_iff_eq_none] at hp
    obtain ⟨⟨⟨⟨hplace, hlaunch⟩, hnode⟩, -⟩, howes⟩ := hp
    split at howes
    · next hphase => exact absurd hphase (h c (List.mem_of_find?_eq_some hfind) hplace hlaunch hnode _ _ _)
    · cases howes

/-- A command of the acting strand still works. -/
def State.exitBusy (s : State) : Bool :=
  s.cmds.any fun c => c.place = s.strand.place && c.launch = s.strand.launch && c.node.isNone && c.busy

theorem State.exitBusy_iff :
    s.exitBusy = true ↔ ∃ c ∈ s.cmds, c.place = s.strand.place ∧ c.launch = s.strand.launch ∧ c.node = none ∧ c.busy = true := by
  simp only [State.exitBusy, List.any_eq_true, Bool.and_eq_true, decide_eq_true_eq, Option.isNone_iff_eq_none, and_assoc]

/-- EXIT with no trap owed: it waits for a command that works, then for a locked page, and then ends the strand (R126). -/
theorem exitStrand_run (h : s.OwesNone) : exitStrand a s =
    if s.exitBusy then .error .wait s
    else if s.drainBlocked (coreOf s.strand.place) || s.statusLocked s.strand then .error .wait s
    else .ok () ((s.drainAll (coreOf s.strand.place)).endStrand s.strand.place (s.strand.reg a) none) := by
  rw [exitStrand, M.bind_ok (takeOwed_none h _), M.bind_ok (M.get_run s), State.exitBusy]
  dsimp only
  split
  · rfl
  · split <;> rfl

theorem exec_exit_waits (h : s.OwesNone) (hw : s.exitBusy = true ∨ s.drainBlocked (coreOf s.strand.place) = true ∨ s.statusLocked s.strand = true) :
    exec (.exit a) s = .next (waiting s) := by
  have hrun : exitStrand a s = .error .wait s := by
    rw [exitStrand_run h]
    split
    · rfl
    · next hbusy => rw [if_pos (by simpa using hw.resolve_left hbusy)]
  exact (runM_wait hrun).trans (congrArg _ s.waits_eq)

theorem exec_exit_ends (h : s.OwesNone) (hbusy : s.exitBusy = false) (hdrain : s.drainBlocked (coreOf s.strand.place) = false)
    (hstatus : s.statusLocked s.strand = false) :
    exec (.exit a) s = .next ((s.drainAll (coreOf s.strand.place)).endStrand s.strand.place (s.strand.reg a) none) :=
  runM_ok (by rw [exitStrand_run h, hbusy, hdrain, hstatus]; rfl)

end

end Sys2Proof.Machine
end

section
open Sys2Proof Sys2Proof.Machine Sys2Proof.Claims

/-- Settles O28: the drained stores leave the strand and the launches, and so do the barriers that the end completes. -/
theorem exitEndsTheStrand : Obligations.ExitEndsTheStrand := by
  unfold Obligations.ExitEndsTheStrand
  intro a s hready howes
  refine ⟨fun hw => exec_exit_waits howes (hw.imp_left State.exitBusy_iff.mpr), fun hfree hdrain hstatus => ?_⟩
  have hbusy : s.exitBusy = false := by
    rw [Bool.eq_false_iff, ne_eq, State.exitBusy_iff]
    rintro ⟨c, hc, hplace, hlaunch, hnode, hb⟩
    exact Bool.false_ne_true ((hfree c hc hplace hlaunch hnode).symm.trans hb)
  have hends := exec_exit_ends (a := a) howes hbusy hdrain hstatus
  have hd := State.Drains.drainAll s (coreOf s.strand.place)
  have hrun : (s.drainAll (coreOf s.strand.place)).strand.run = .ready := by
    rw [hd.strand]
    exact hready
  have hplace : (s.drainAll (coreOf s.strand.place)).strand.place = s.strand.place := by rw [hd.strand]
  obtain ⟨⟨k, hstrand⟩, hlist⟩ := State.endStrand_self hrun (s.strand.reg a) none
  rw [hplace] at hstrand hlist
  refine ⟨hends, _, hends, ?_, ?_, ?_, fun l hl hid => ?_⟩
  · rw [hstrand]
    rfl
  · rw [hstrand, hd.strand]
    rfl
  · rw [hstrand, hd.strand]
    rfl
  · have hflat : (s.drainAll (coreOf s.strand.place)).strand.flat = s.strand.flat := by rw [hd.strand]
    rw [← hflat]
    refine hlist l ?_ ?_
    · rw [(State.KeepsTables.refl s).drainAll.launches]
      exact hl
    · rw [hid, hd.strand]

end

section
/-! Device links (R407, R427) and the news of a failed device (R429). -/

namespace Sys2Proof.Machine
open Sys2Proof.Claims

/-! ## One link -/

section
variable (l : Link)

/-- Packets are sent in order while the replay buffer has room, and the others wait (R407). -/
theorem Link.send_eq (ps : List (List Byte)) : l.send ps = linkSent l l.replay ps := by
  induction ps generalizing l with
  | nil => simp [Link.send, linkSent]
  | cons p ps ih =>
    unfold Link.send
    split
    · next hfull => simp [linkSent, Nat.sub_eq_zero_of_le hfull]
    · next hroom =>
      have hsucc : 1024 - l.replay.length = (1024 - (l.replay.length + 1)) + 1 := by omega
      have hnext (n : Nat) : l.next + 1#12 + BitVec.ofNat 12 n = l.next + BitVec.ofNat 12 (n + 1) := by
        rw [Nat.add_comm n, BitVec.ofNat_add, BitVec.add_assoc]
      rw [ih, linkSent, linkSent, hsucc]
      simp [List.mapIdx_cons, hnext]

theorem Link.acknowledge_eq (ack : BitVec 12) : l.acknowledge ack = linkSent l (unreceived l ack) l.waiting := by
  rw [Link.acknowledge, Link.send_eq]
  rfl

@[simp] theorem linkSent_id (kept ps : List (List Byte)) : (linkSent l kept ps).id = l.id := rfl

end

/-! ## The links of the device -/

section
variable (s : State)

theorem State.link_setLink_self (x : Link) : (s.setLink x).link x.id = x := by
  unfold State.setLink State.link
  dsimp only
  split
  · next hany =>
    obtain ⟨y, hy, hid⟩ := List.any_eq_true.mp hany
    have hsome : ((s.links.map fun y => if y.id = x.id then x else y).find? (·.id = x.id)).isSome := by
      rw [List.find?_isSome]
      exact ⟨x, List.mem_map.mpr ⟨y, hy, if_pos (by simpa using hid)⟩, by simp⟩
    obtain ⟨z, hz⟩ := Option.isSome_iff_exists.mp hsome
    obtain ⟨y, -, rfl⟩ := List.mem_map.mp (List.mem_of_find?_eq_some hz)
    have hzid := List.find?_some hz
    rw [hz, Option.getD_some]
    split
    · rfl
    · next hne =>
      rw [if_neg hne] at hzid
      exact absurd (of_decide_eq_true hzid) hne
  · next hnone =>
    rw [List.find?_append, List.find?_eq_none.mpr]
    · simp
    · simpa using hnone

theorem State.link_setLink_of_ne (x : Link) {k : Nat} (h : k ≠ x.id) : (s.setLink x).link k = s.link k := by
  have hmap (l : List Link) : (l.map fun y => if y.id = x.id then x else y).find? (·.id = k) = l.find? (·.id = k) := by
    induction l with
    | nil => rfl
    | cons y ys ih =>
      rw [List.map_cons, List.find?_cons, List.find?_cons, ih]
      by_cases hy : y.id = x.id
      · simp [hy, Ne.symm h]
      · simp [hy]
  unfold State.setLink State.link
  dsimp only
  split
  · rw [hmap]
  · rw [List.find?_append, List.find?_cons_of_neg (by simpa using Ne.symm h)]
    simp

theorem State.link_id (k : Nat) : (s.link k).id = k := by
  unfold State.link
  cases h : s.links.find? (·.id = k) with
  | none => rfl
  | some l => simpa using List.find?_some h

/-- A packet sent over one link, behind what waits there. -/
def State.sendOn (s : State) (packet : Nat → Nat → Byte) (i : Nat) : State :=
  s.setLink ((s.link i).send ((s.link i).waiting ++ [(List.range 248).map (packet i)]))

theorem State.link_sendOn (packet : Nat → Nat → Byte) (i k : Nat) : (s.sendOn packet i).link k =
    if k = i then linkSent (s.link k) (s.link k).replay ((s.link k).waiting ++ [(List.range 248).map (packet k)]) else s.link k := by
  unfold State.sendOn
  rw [Link.send_eq]
  split
  · next h =>
    subst h
    have hself := s.link_setLink_self (linkSent (s.link k) (s.link k).replay ((s.link k).waiting ++ [(List.range 248).map (packet k)]))
    rwa [linkSent_id, State.link_id] at hself
  · next h => exact State.link_setLink_of_ne s _ (by rwa [linkSent_id, State.link_id])

/-- Each link of those a packet is sent over carries it once, and nothing but the links changes. -/
theorem State.sendOn_range (packet : Nat → Nat → Byte) (n : Nat) :
    let t := (List.range n).foldl (State.sendOn · packet) s
    t = { s with links := t.links } ∧ ∀ k, t.link k =
      if k < n then linkSent (s.link k) (s.link k).replay ((s.link k).waiting ++ [(List.range 248).map (packet k)]) else s.link k := by
  induction n with
  | zero => exact ⟨rfl, fun k => rfl⟩
  | succ n ih =>
    rw [List.range_succ, List.foldl_append]
    obtain ⟨hrest, hlink⟩ := ih
    generalize (List.range n).foldl (State.sendOn · packet) s = u at hrest hlink
    refine ⟨congrArg (fun v : State => { v with links := (u.sendOn packet n).links }) hrest, fun k => ?_⟩
    rw [List.foldl_cons, List.foldl_nil, State.link_sendOn, hlink]
    by_cases hk : k = n
    · simp [hk]
    · have hlt : k < n + 1 ↔ k < n := by omega
      simp [hk, hlt]

/-- A packet flooded over all 16 links. -/
theorem State.flood_eq (packet : Nat → Nat → Byte) :
    s.flood packet = { s with links := (s.flood packet).links } ∧ ∀ k < 16, (s.flood packet).link k =
      linkSent (s.link k) (s.link k).replay ((s.link k).waiting ++ [(List.range 248).map (packet k)]) := by
  obtain ⟨hrest, hlink⟩ := s.sendOn_range packet 16
  exact ⟨hrest, fun k hk => (hlink k).trans (if_pos hk)⟩

end

/-! ## News of a failed device -/

section
variable {s : State} {dev : Nat}

theorem State.learnFailed_known (h : dev ∈ s.failed) : s.learnFailed dev = s := if_pos (List.contains_iff_mem.mpr h)

/-- The first news is noted and flooded (R429). -/
theorem State.learnFailed_first (h : dev ∉ s.failed) :
    s.learnFailed dev = { s with failed := (s.learnFailed dev).failed, links := (s.learnFailed dev).links } ∧
    (∀ d, d ∈ (s.learnFailed dev).failed ↔ d ∈ s.failed ∨ d = dev) ∧
    ∀ k < 16, (s.learnFailed dev).link k =
      linkSent (s.link k) (s.link k).replay ((s.link k).waiting ++ [(List.range 248).map (Config.devfailByte k dev)]) := by
  have hfirst : s.learnFailed dev = ({ s with failed := setInsert dev s.failed } : State).flood fun link i => Config.devfailByte link dev i :=
    if_neg (by rwa [List.contains_iff_mem])
  obtain ⟨hrest, hlink⟩ := State.flood_eq { s with failed := setInsert dev s.failed } fun link i => Config.devfailByte link dev i
  rw [hfirst]
  have hfailed : (({ s with failed := setInsert dev s.failed } : State).flood fun link i => Config.devfailByte link dev i).failed =
      setInsert dev s.failed := by rw [hrest]
  refine ⟨?_, fun d => ?_, hlink⟩
  · rw [hfailed]
    exact hrest
  · rw [hfailed, mem_setInsert, or_comm]

theorem State.mem_failed_learnFailed : dev ∈ (s.learnFailed dev).failed := by
  by_cases h : dev ∈ s.failed
  · rwa [State.learnFailed_known h]
  · exact ((State.learnFailed_first h).2.1 dev).mpr (.inr rfl)

end

/-! ## Events of a link -/

section
variable {s : State} {link : Nat}

theorem exec_flit_received (h : link < 16) {data : List (BitVec 8)} (hok : flitOk data = true) (hseq : flitSeq data = (s.link link).good + 1) :
    exec (.flit link data) s = .next (s.setLink (linkSent
      { s.link link with good := (s.link link).good + 1, received := (s.link link).received ++ [(data.drop 4).take 248] }
      (unreceived (s.link link) (flitAck data)) (s.link link).waiting)) := by
  refine congrArg Host.Outcome.next ((if_neg (by simp [hok, hseq, h])).trans ?_)
  rw [Link.acknowledge_eq]
  rfl

theorem exec_flit_discarded {data : List (BitVec 8)} (h : flitOk data = false ∨ flitSeq data ≠ (s.link link).good + 1) :
    exec (.flit link data) s = .next s := by
  refine congrArg Host.Outcome.next (if_pos ?_)
  rcases h with h | h
  · simp [h]
  · rw [Bool.or_eq_true, decide_eq_true_eq]
    exact .inr h

theorem exec_flitReplay (h : link < 16) (seq : BitVec 12) :
    exec (.flitReplay link seq) s = .next (s.setLink (linkSent (s.link link) (unreceived (s.link link) seq) (s.link link).waiting)) := by
  refine congrArg Host.Outcome.next ((if_neg (by omega)).trans ?_)
  rw [Link.acknowledge_eq]

theorem exec_heartbeat_sent (h : link < 16) (hroom : (s.link link).replay.length < 1024) : exec (.heartbeat link) s =
    .next (s.setLink (linkSent { s.link link with beats := (s.link link).beats + 1 } (s.link link).replay
      ((s.link link).waiting ++ [(List.range 248).map (Config.heartbeatByte link)]))) := by
  refine congrArg Host.Outcome.next ((if_neg (by simp [h, hroom])).trans ?_)
  rw [Link.send_eq]

theorem exec_heartbeat_full (hfull : 1024 ≤ (s.link link).replay.length) : exec (.heartbeat link) s = .next s :=
  congrArg Host.Outcome.next (if_pos (by simp [hfull]))

theorem exec_linkRecalibration (h : link < 16) (lane : Option Nat) :
    exec (.linkRecalibration link lane) s = .next (s.setLink { s.link link with recal := lane }) :=
  congrArg Host.Outcome.next (if_neg (by omega))

end

end Sys2Proof.Machine
end

section
/-! The host's requests through a function (R405, R421), and those of other devices (R396). -/

namespace Sys2Proof.Machine
open Sys2Proof.Claims

/-! ## Accesses to HBM -/

theorem noRefrec_of_outside {a : Nat} (h : a < stackBase ∨ apertureTable ≤ a) : NoRefrec a := by
  intro stack hs pch hp
  simp only [refrec, stackCtl, stackBase, apertureTable] at h ⊢
  omega

theorem State.Requests.reachRange {s u : State} {k n : Nat} {write : Bool} (hf : s.flips = []) (h : s.Requests u) :
    s.Requests (u.reachRange k n write) :=
  .ite h (List.foldlRecOn (motive := s.Requests) _ _ h fun _ hv _ _ => hv.reachHbm hf)

theorem State.Requests.onlyStacks {s u : State} (h : s.Requests u) : OnlyStacks s u :=
  ⟨h.rest, fun a ha => h.regs a (noRefrec_of_outside ha)⟩

/-- What a read from outside leaves before it answers. -/
theorem requests_outside {s : State} (hf : s.flips = []) (k n : Nat) : s.Requests (if (regionOf k).isCtl then s else s.reachRange k n false) :=
  .ite (.refl s) ((State.Requests.refl s).reachRange hf)

/-! ## Bytes written from outside -/

/-- The bytes of a write from outside stand in memory, and its lines are marked: `u` is `s` after a write of `bs` at `k` that tarnishes when `t` holds. -/
structure State.PutOutside (k : Nat) (bs : List Byte) (t : Bool) (s u : State) : Prop where
  mem : u.mem = Mem.put s.mem k bs
  sregs : u.strand.sregs = s.strand.sregs
  regs : ∀ a, NoRefrec a → u.reg64 a = s.reg64 a
  tarn : ∀ l, l ∈ u.tarn ↔ l ∈ s.tarn ∨ (t = true ∧ l ∈ linesOf k bs.length)
  clean : t = false → u.tarn = s.tarn
  poison : ∀ l, l ∈ u.poison ↔ l ∈ s.poison ∧ ¬ (l ∈ linesOf k bs.length ∧ k ≤ l * 64 ∧ l * 64 + 64 ≤ k + bs.length)

/-- Lines of a write of `n` bytes at `k` are marked one by one, and links to them break. -/
def State.markLines (s : State) (k n : Nat) (t : Bool) (ls : List Nat) : State := ls.foldl (fun u l => (u.markHost k n l t).breakLinks none l) s

section
variable (s : State) (k n : Nat) (t : Bool) (ls : List Nat)

theorem State.markLines_cons (l : Nat) : s.markLines k n t (l :: ls) = ((s.markHost k n l t).breakLinks none l).markLines k n t ls := rfl

theorem State.markLines_mem : (s.markLines k n t ls).mem = s.mem := by
  induction ls generalizing s with
  | nil => rfl
  | cons l ls ih => exact (ih _).trans rfl

theorem State.markLines_dev : (s.markLines k n t ls).dev = s.dev := by
  induction ls generalizing s with
  | nil => rfl
  | cons l ls ih => exact (ih _).trans rfl

theorem State.markLines_sregs : (s.markLines k n t ls).strand.sregs = s.strand.sregs := by
  induction ls generalizing s with
  | nil => rfl
  | cons l ls ih =>
    refine (ih _).trans ?_
    simp only [State.breakLinks]
    split <;> rfl

theorem State.mem_markLines_tarn (x : Nat) : x ∈ (s.markLines k n t ls).tarn ↔ x ∈ s.tarn ∨ (t = true ∧ x ∈ ls) := by
  induction ls generalizing s with
  | nil => simp [State.markLines]
  | cons l ls ih =>
    have hline : x ∈ ((s.markHost k n l t).breakLinks none l).tarn ↔ x ∈ s.tarn ∨ (t = true ∧ x = l) := by
      change x ∈ (if t then setInsert l s.tarn else s.tarn) ↔ _
      split
      · next h => simp [mem_setInsert, h, or_comm]
      · next h => simp [h]
    rw [State.markLines_cons, ih, hline, List.mem_cons]
    tauto

theorem State.markLines_tarn_clean : (s.markLines k n false ls).tarn = s.tarn := by
  induction ls generalizing s with
  | nil => rfl
  | cons l ls ih => exact (ih _).trans rfl

theorem State.mem_markLines_poison (x : Nat) :
    x ∈ (s.markLines k n t ls).poison ↔ x ∈ s.poison ∧ ¬ (x ∈ ls ∧ k ≤ x * 64 ∧ x * 64 + 64 ≤ k + n) := by
  induction ls generalizing s with
  | nil => simp [State.markLines]
  | cons l ls ih =>
    have hline : x ∈ ((s.markHost k n l t).breakLinks none l).poison ↔ x ∈ s.poison ∧ ¬ (x = l ∧ k ≤ x * 64 ∧ x * 64 + 64 ≤ k + n) := by
      change x ∈ (if decide (k ≤ l * 64) && decide (l * 64 + 64 ≤ k + n) then setErase l s.poison else s.poison) ↔ _
      split
      · next h =>
        rw [Bool.and_eq_true, decide_eq_true_eq, decide_eq_true_eq] at h
        simp only [setErase, List.mem_filter, decide_eq_true_eq]
        exact and_congr_right fun _ => ⟨fun hne hw => hne hw.1, fun hw heq => hw ⟨heq, heq ▸ h⟩⟩
      · next h =>
        rw [Bool.and_eq_true, decide_eq_true_eq, decide_eq_true_eq] at h
        exact ⟨fun hx => ⟨hx, fun hw => h (hw.1 ▸ hw.2)⟩, And.left⟩
    rw [State.markLines_cons, ih, hline, List.mem_cons]
    tauto

end

theorem State.noteStore_none_zero (s : State) (k : Nat) : s.noteStore none k 0 = s := by
  have hcmds : (s.noteStore none k 0).cmds = s.cmds := by
    refine (List.map_congr_left fun c _ => ?_).trans (List.map_id s.cmds)
    dsimp only [id]
    split <;> simp
  have hstored : (s.noteStore none k 0).stored = s.stored :=
    List.foldlRecOn (motive := (· = s.stored)) _ _ rfl fun old hold l _ => hold
  calc s.noteStore none k 0 = { s with cmds := (s.noteStore none k 0).cmds, stored := (s.noteStore none k 0).stored } := rfl
    _ = s := by rw [hcmds, hstored]

section
variable {s : State} {k : Nat} {bs : List Byte} {t : Bool}

theorem State.outsidePut_nil : s.outsidePut k [] t = s := by
  have hreach : s.reachRange k 0 true = s := rfl
  have hcells : s.writeCells k 0 = s := if_pos (by simp)
  simp only [State.outsidePut, List.length_nil, hreach, Mem.put, hcells, State.noteStore_none_zero]
  rfl

theorem State.putOutside_outsidePut (hf : s.flips = []) : s.PutOutside k bs t (s.outsidePut k bs t) := by
  have hr : s.Requests (s.reachRange k bs.length true) := (State.Requests.refl s).reachRange hf
  generalize hu : s.reachRange k bs.length true = u at hr
  have hcells : ({ u with mem := Mem.put u.mem k bs } : State).writeCells k bs.length = { u with mem := Mem.put u.mem k bs } :=
    State.Checked.writeCells (hr.flips.trans hf)
  have hput : s.outsidePut k bs t = (({ u with mem := Mem.put u.mem k bs } : State).noteStore none k bs.length).markLines k bs.length t (linesOf k bs.length) := by
    rw [← hcells, ← hu]
    rfl
  have htarn : u.tarn = s.tarn := by rw [hr.rest]
  have hsregs : u.strand.sregs = s.strand.sregs := by rw [hr.rest]
  rw [hput]
  refine ⟨?_, ?_, fun a ha => ?_, fun l => ?_, ?_, fun l => ?_⟩
  · rw [State.markLines_mem]
    exact congrArg (Mem.put · k bs) hr.mem
  · rw [State.markLines_sregs]
    exact hsregs
  · rw [State.reg64, State.markLines_dev]
    exact hr.regs a ha
  · rw [State.mem_markLines_tarn, ← htarn]
    rfl
  · rintro rfl
    rw [State.markLines_tarn_clean]
    exact htarn
  · rw [State.mem_markLines_poison, ← hr.poison]
    rfl

theorem State.metaGone_of_sound (hu : s.upsets = []) (k : Nat) : s.metaGone k = false := by simp [State.metaGone, hu]

/-- Without lost metadata the bytes are put as they are. -/
theorem State.outsideStore_of_sound (hu : s.upsets = []) : s.outsideStore k bs t = s.outsidePut k bs t := by
  refine if_pos ?_
  simp [State.metaGone_of_sound hu]

/-- Bytes within one block, not covering it, whose metadata is lost: none is written, and the block is lost (R296). -/
theorem State.outsideStore_of_metaGone (hm : s.metaGone k = true) (hn : 0 < bs.length) (hpart : bs.length < 256) (hblock : k % 256 + bs.length ≤ 256) :
    s.outsideStore k bs t = s.loseBlock (k / 256 * 256) := by
  have hlast : (k + bs.length - 1) / 256 = k / 256 := by omega
  have hgone : s.metaGone (k / 256 * 256) = true := by
    have hpage : k / 256 * 256 / 4096 = k / 4096 := by omega
    rwa [State.metaGone, hpage, Nat.mul_div_cancel _ (by decide : 0 < 256)]
  unfold State.outsideStore
  extract_lets ends lo hi
  have hends : ends = [k / 256] := by
    simp only [ends, hlast]
    rw [List.eraseDups_cons]
    simp [hgone]
    omega
  have hlo : lo = k + bs.length := by
    simp only [lo, hends, List.contains_cons, BEq.rfl, Bool.true_or, if_true]
    omega
  have hhi : hi = k + bs.length := by
    simp only [hi, hends, hlast, hlo, List.contains_cons, BEq.rfl, Bool.true_or, if_true]
    omega
  rw [hends, hlo, hhi, Nat.sub_self, List.take_zero, State.outsidePut_nil]
  exact if_neg (by simp [List.length_pos_iff.mp hn])

end

/-! ## Which bytes a request reaches -/

section
variable {s : State} {part addr n : Nat}

theorem all_reached_iff : ((List.range n).all fun i => s.hostReaches part (addr + i)) = true ↔ ∀ i < n, s.hostReaches part (addr + i) = true := by
  simp only [List.all_eq_true, List.mem_range]

theorem not_all_reached (h : ∃ i < n, s.hostReaches part (addr + i) = false) :
    ((List.range n).all fun i => s.hostReaches part (addr + i)) = false := by
  obtain ⟨i, hi, hout⟩ := h
  rw [Bool.eq_false_iff, ne_eq, all_reached_iff]
  exact fun hall => Bool.false_ne_true (hout.symm.trans (hall i hi))

theorem descBase_le_of_desc {k p : Nat} : regionOf k = .desc p → descBase ≤ k := by
  unfold regionOf
  repeat' refine iteInduction (motive := (· = Region.desc p → descBase ≤ k)) (fun _ => ?_) (fun _ => ?_)
  all_goals intro h; cases h
  assumption

theorem lt_ctlBase_of_hbm {k d : Nat} : regionOf k = .hbm d → k < ctlBase := by
  unfold regionOf
  repeat' refine iteInduction (motive := (· = Region.hbm d → k < ctlBase)) (fun _ => ?_) (fun _ => ?_)
  all_goals intro h; cases h
  exact Nat.lt_trans ‹k < hbmEnd› (by decide)

theorem lt_ctlBase_of_chip {k d : Nat} : regionOf k = .chip d → k < ctlBase := by
  unfold regionOf
  repeat' refine iteInduction (motive := (· = Region.chip d → k < ctlBase)) (fun _ => ?_) (fun _ => ?_)
  all_goals intro h; cases h
  exact Nat.lt_of_not_le ‹¬ ctlBase ≤ k›

/-- A request reaches memory in HBM and in the chip scratchpads, below every control block. -/
theorem lt_ctlBase_of_memory {k : Nat} (hctl : (regionOf k).isCtl = false) (h : s.hostReaches part k = true) : k < ctlBase := by
  unfold State.hostReaches at h
  cases hr : regionOf k with
  | hbm d => exact lt_ctlBase_of_hbm hr
  | chip d => exact lt_ctlBase_of_chip hr
  | _ => simp_all [Region.isCtl]

/-- A request to memory does not run on into a descriptor: nothing lies between them (R298). -/
theorem regWaits_of_memory (hctl : (regionOf addr).isCtl = false) (hall : ∀ i < n, s.hostReaches part (addr + i) = true) : s.regWaits addr n = false := by
  rw [State.regWaits, Bool.and_eq_false_iff]
  refine .inr (List.any_eq_false.mpr fun i hi => ?_)
  have hlt := List.mem_range.mp hi
  split
  · next p hdesc =>
    have hstart : addr < ctlBase := lt_ctlBase_of_memory hctl (hall 0 (by omega))
    have hend := descBase_le_of_desc hdesc
    have hgap : s.hostReaches part (addr + (ctlBase - 1 - addr)) = false := by
      rw [show addr + (ctlBase - 1 - addr) = ctlBase - 1 by omega]
      rfl
    have hin : ctlBase - 1 - addr < n := by
      simp only [ctlBase, descBase] at hstart hend ⊢
      omega
    exact absurd (hgap.symm.trans (hall _ hin)) Bool.false_ne_true
  · exact Bool.false_ne_true

end

/-! ## Requests of the host -/

section
variable {s : State} {part addr n : Nat} {data : List (BitVec 8)}

/-- A VF that is not frozen, or the PF, is served. -/
theorem served (hpart : part ≤ 32) (hstate : part ≠ 32 → s.partState part ≠ 3) :
    ¬ ((decide (32 < part) || s.partState part = 3 && part ≠ 32) = true) := by
  rw [Bool.or_eq_true, decide_eq_true_eq, Bool.and_eq_true, decide_eq_true_eq, decide_eq_true_eq]
  rintro (h32 | ⟨hfrozen, hvf⟩)
  · omega
  · exact hstate hvf hfrozen

theorem not_unreached (hall : ∀ i < n, s.hostReaches part (addr + i) = true) :
    ¬ ((!(List.range n).all fun i => s.hostReaches part (addr + i)) = true) := by
  rw [all_reached_iff.mpr hall]
  exact Bool.false_ne_true

theorem unreached (h : ∃ i < n, s.hostReaches part (addr + i) = false) :
    (!(List.range n).all fun i => s.hostReaches part (addr + i)) = true := by
  rw [not_all_reached h]
  rfl

theorem exec_hostWrite_frozen (hp : part < 32) (h : s.partState part = 3) : exec (.hostWrite part addr data) s = .next s :=
  if_pos (by simp [h, show part ≠ 32 by omega])

theorem exec_hostWrite_outside (hp : part < 32) (hstate : s.partState part ≠ 3) (h : ∃ i < data.length, s.hostReaches part (addr + i) = false) :
    exec (.hostWrite part addr data) s = .next (s.vfViolation part addr) :=
  (if_neg (served hp.le fun _ => hstate)).trans (if_pos (unreached h))

theorem exec_hostWrite_waits (hp : part ≤ 32) (hstate : part ≠ 32 → s.partState part ≠ 3) (hall : ∀ i < data.length, s.hostReaches part (addr + i) = true)
    (h : (s.rangeLocked addr data.length || s.regWaits addr data.length) = true) : exec (.hostWrite part addr data) s = .next s :=
  (if_neg (served hp hstate)).trans ((if_neg (not_unreached hall)).trans (if_pos h))

/-- A write that waits for nothing goes to registers or to memory. -/
theorem exec_hostWrite (h : HostMay s part addr data.length) (hregs : s.regWaits addr data.length = false) : exec (.hostWrite part addr data) s =
    if (regionOf addr).isCtl then .next (s.outsideRegs (part = 32) addr data) else .next (s.outsideStore addr data (s.kernelPending part)) := by
  obtain ⟨hp, hstate, hall, hlocked⟩ := h
  exact (if_neg (served hp hstate)).trans ((if_neg (not_unreached hall)).trans (if_neg (by rw [hlocked, hregs]; exact Bool.false_ne_true)))

theorem exec_hostRead_frozen (hp : part < 32) (h : s.partState part = 3) : exec (.hostRead part addr n) s = .next { s with reply := [] } :=
  (if_neg (by omega)).trans (if_pos (by simp [h, show part ≠ 32 by omega]))

/-- A read by a function that is served. -/
theorem exec_hostRead_served (hp : part ≤ 32) (hstate : part ≠ 32 → s.partState part ≠ 3) : exec (.hostRead part addr n) s =
    if !(List.range n).all (fun i => s.hostReaches part (addr + i)) then .next { s.vfViolation part addr with reply := [] }
    else if s.rangeLocked addr n then .next s else .next (s.outsideRead addr n) :=
  (if_neg (by omega)).trans (if_neg fun h => served hp hstate (by rw [h, Bool.or_true]))

theorem exec_hostRead (h : HostMay s part addr n) : exec (.hostRead part addr n) s = .next (s.outsideRead addr n) := by
  obtain ⟨hp, hstate, hall, hlocked⟩ := h
  rw [exec_hostRead_served hp hstate, if_neg (not_unreached hall), if_neg (by rw [hlocked]; exact Bool.false_ne_true)]

end

/-! ## Requests of other devices -/

section
variable {s : State} {part addr op : Nat} {data : List (BitVec 8)}

theorem exec_fabricRequest_refused (h : ∃ i < requestLen op data, s.hostReaches part (addr + i) = false) :
    exec (.fabricRequest part addr op data) s = .next { s with reply := [] } :=
  if_pos (by rw [not_all_reached h]; simp)

/-- No refusal where every byte is reached. -/
theorem not_refused (hp : part < 32) (hop : op ≤ 13) (hall : ∀ i < requestLen op data, s.hostReaches part (addr + i) = true) :
    ¬ ((decide (32 ≤ part) || decide (13 < op) || !(List.range (requestLen op data)).all fun i => s.hostReaches part (addr + i)) = true) := by
  rw [all_reached_iff.mpr hall]
  simp
  omega

theorem exec_fabricRequest_waits (hp : part < 32) (hop : op ≤ 13) (hall : ∀ i < requestLen op data, s.hostReaches part (addr + i) = true)
    (h : (s.rangeLocked addr (requestLen op data) || (op = 1 && s.regWaits addr (requestLen op data))) = true) :
    exec (.fabricRequest part addr op data) s = .next s :=
  (if_neg (not_refused hp hop hall)).trans (if_pos h)

theorem exec_fabricRequest_read (hp : part < 32) (hall : ∀ i < data.length, s.hostReaches part (addr + i) = true)
    (hlocked : s.rangeLocked addr data.length = false) : exec (.fabricRequest part addr 0 data) s = .next (s.outsideRead addr data.length) :=
  (if_neg (not_refused (op := 0) hp (by decide) hall)).trans (if_neg (by rw [show requestLen 0 data = data.length from rfl, hlocked]; simp))

theorem exec_fabricRequest_write (hp : part < 32) (hall : ∀ i < data.length, s.hostReaches part (addr + i) = true)
    (hlocked : s.rangeLocked addr data.length = false) (hregs : s.regWaits addr data.length = false) : exec (.fabricRequest part addr 1 data) s =
    .next { (if (regionOf addr).isCtl then s.outsideRegs false addr data else s.outsideStore addr data false) with reply := [] } :=
  (if_neg (not_refused (op := 1) hp (by decide) hall)).trans (if_neg (by rw [show requestLen 1 data = data.length from rfl, hlocked, hregs]; simp))

theorem exec_fabricRequest_amo {f : AmoOp} (hf : requestAmo op = some f) (hp : part < 32) (hop : op ≤ 13)
    (hall : ∀ i < requestLen op data, s.hostReaches part (addr + i) = true) (hlocked : s.rangeLocked addr (requestLen op data) = false) :
    let u := if (regionOf addr).isCtl then s else s.reachRange addr (requestLen op data) false
    exec (.fabricRequest part addr op data) s = .next
      (if (regionOf addr).isCtl || decide (addr % f.size ≠ 0) || u.poison.contains (lineOf addr) then { u with reply := [] } else u.outsideAmo f addr data) := by
  have hone : op ≠ 1 := by
    rintro rfl
    cases hf
  refine (if_neg (not_refused hp hop hall)).trans ((if_neg (by rw [hlocked]; simp [hone])).trans ?_)
  cases op with
  | zero => cases hf
  | succ m =>
    rw [hf]
    rfl

/-- The one event of an atomic from outside (R115, R316). -/
theorem outsideAmo_sound {u : State} {f : AmoOp} {g : Word → Word → Word → Word} (hg : ∀ m o c, f.apply m o c = (g m o c, amoFlags f m o))
    (hu : u.upsets = []) (hf : u.flips = []) : let z := amoSize f
    let m := Mem.readLE u.mem addr z
    let o := BitVec.ofNat 64 (leNat ((if f = .cas then data.drop 8 else data).take z))
    (u.outsideAmo f addr data).reply = (leBytes z m).map some ∧ lineOf addr ∈ (u.outsideAmo f addr data).tarn ∧
      (u.outsideAmo f addr data).mem = Mem.put u.mem addr (leBytes z (g (BitVec.ofNat 64 m) o (BitVec.ofNat 64 (leNat (data.take 8)))).toNat) := by
  intro z m o
  have hput := State.putOutside_outsidePut (k := addr)
    (bs := leBytes z (g (BitVec.ofNat 64 m) o (BitVec.ofNat 64 (leNat (data.take 8)))).toNat) (t := true) hf
  have hstored : u.outsideAmo f addr data =
      { u.outsidePut addr (leBytes z (g (BitVec.ofNat 64 m) o (BitVec.ofNat 64 (leNat (data.take 8)))).toNat) true with reply := (leBytes z m).map some } := by
    simp only [State.outsideAmo, ← amoSize_eq, hg, State.outsideStore_of_sound hu]
    rfl
  have hz : 0 < z := by
    simp only [z, amoSize]
    split <;> decide
  have hline : lineOf addr ∈ linesOf addr z := by
    rw [linesOf, if_neg (by omega)]
    exact List.mem_map.mpr ⟨0, List.mem_range.mpr (Nat.succ_pos _), rfl⟩
  rw [hstored]
  refine ⟨rfl, (hput.tarn _).mpr (.inr ⟨rfl, ?_⟩), hput.mem⟩
  rwa [leBytes_length]

end

end Sys2Proof.Machine
end

section
open Sys2Proof Sys2Proof.Machine Sys2Proof.Claims

/-- Settles O59: requests are served, refused or held back by what they reach, a write from outside puts its bytes and marks its lines, and a link sends
in order while it has room. -/
theorem hostAndFabricComplete : Obligations.HostAndFabricComplete := by
  unfold Obligations.HostAndFabricComplete
  refine ⟨fun part addr data s => ⟨fun h hregs => ?_, fun h hregs => ⟨fun hctl => ?_, fun hctl hgone hpos hpart hblock => ?_, fun hctl hu hf => ?_⟩,
      exec_hostWrite_frozen, exec_hostWrite_outside, fun hp hstate hall hlocked => exec_hostWrite_waits hp hstate hall (by rw [hlocked, Bool.true_or])⟩,
    fun part addr len s => ⟨fun h => ⟨exec_hostRead h, fun hf => (requests_outside hf addr len).onlyStacks⟩, fun hp hstate hall hlocked => ?_,
      exec_hostRead_frozen, fun hp hstate hout => ?_⟩,
    fun part addr op data s hp hop => ⟨exec_fabricRequest_refused, fun hall hlocked => exec_fabricRequest_waits hp hop hall (by rw [hlocked, Bool.true_or]),
      fun hall hlocked => ?_⟩,
    fun link s hlink => ⟨fun data hok hseq => exec_flit_received hlink hok hseq, fun data h => exec_flit_discarded h, exec_flitReplay hlink,
      exec_heartbeat_sent hlink, exec_heartbeat_full, exec_linkRecalibration hlink, fun x hx => hx ▸ s.link_setLink_self x⟩,
    fun seq ack p hlen => ⟨flitOk_makeFlit seq ack p hlen, flitSeq_makeFlit seq ack p, flitAck_makeFlit seq ack p⟩,
    fun dev s => ⟨fun hknown i hi => ?_, fun hnew i hi => ?_, s.learnFailed dev, _, rfl, rfl, State.mem_failed_learnFailed,
      fun hswitch => if_pos hswitch, fun hswitch => ?_⟩⟩
  -- HOST_WRITE
  · obtain ⟨hp, hstate, hall, -⟩ := h
    exact exec_hostWrite_waits hp hstate hall (by rw [hregs, Bool.or_true])
  · rw [exec_hostWrite h hregs, if_pos hctl]
  · rw [exec_hostWrite h hregs, if_neg (Bool.eq_false_iff.mp hctl), State.outsideStore_of_metaGone hgone hpos hpart hblock]
  · have hput := State.putOutside_outsidePut (k := addr) (bs := data) (t := s.kernelPending part) hf
    refine ⟨_, ?_, hput.mem, hput.sregs, fun a ha => hput.regs a (noRefrec_of_outside ha), hput.tarn, hput.poison⟩
    rw [exec_hostWrite h hregs, if_neg (Bool.eq_false_iff.mp hctl), State.outsideStore_of_sound hu]
  -- HOST_READ
  · rw [exec_hostRead_served hp hstate, if_neg (not_unreached hall), if_pos hlocked]
  · rw [exec_hostRead_served hp.le fun _ => hstate, if_pos (unreached hout)]
  -- FABRIC_REQUEST
  · dsimp only
    refine ⟨?_, fun hf => (requests_outside hf addr _).onlyStacks, ?_, ?_, ?_, fun row hrow hamo => ⟨fun hbad => ?_, fun hctl halign hpoison hu hf => ?_⟩⟩
    · rintro rfl
      exact exec_fabricRequest_read hp hall hlocked
    · rintro rfl hregs
      exact exec_fabricRequest_waits hp hop hall (by rw [show requestLen 1 data = data.length from rfl, hregs]; simp)
    · rintro rfl hctl hu hf
      have hput := State.putOutside_outsidePut (k := addr) (bs := data) (t := false) hf
      refine ⟨{ s.outsidePut addr data false with reply := [] }, ?_, hput.mem, hput.clean rfl, rfl⟩
      rw [exec_fabricRequest_write hp hall hlocked (regWaits_of_memory hctl hall), if_neg (Bool.eq_false_iff.mp hctl), State.outsideStore_of_sound hu]
    · rintro rfl hregs hctl
      rw [exec_fabricRequest_write hp hall hlocked hregs, if_pos hctl]
    · rw [exec_fabricRequest_amo hamo hp hop hall hlocked]
      refine congrArg Host.Outcome.next (if_pos ?_)
      rw [amoSize_eq] at hbad
      simpa only [Bool.or_eq_true, decide_eq_true_eq, or_assoc] using hbad
    · obtain ⟨hreply, hline, hmem⟩ := outsideAmo_sound (addr := addr) (data := data) (apply_amoRows row hrow) hu hf
      refine ⟨_, ?_, hreply, hline, hmem⟩
      rw [exec_fabricRequest_amo hamo hp hop hall hlocked]
      refine congrArg Host.Outcome.next (if_neg ?_)
      rw [amoSize_eq] at halign
      rw [hpoison, hctl, halign]
      decide
  -- a failed device
  · have hsame := State.learnFailed_known hknown
    rcases List.mem_pair.mp hi with rfl | rfl <;> exact congrArg Host.Outcome.next hsame
  · have hnews : exec i s = .next (s.learnFailed dev) := by
      rcases List.mem_pair.mp hi with rfl | rfl <;> rfl
    exact ⟨_, hnews, State.learnFailed_first hnew⟩
  · exact if_neg (Bool.eq_false_iff.mp hswitch)

end

section
/-! Vector atomics (R223 to R226), and why O42 does not hold of every state. It says of a predicated VAMO that no mask changes, under premises that
two commands of one number meet (as for O33 and O40, but with an integer code): there the VAMO observes the chunk that its governing mask k1
shows, finds the other command of that number, and stops it, which tells that command's chunk in k2. -/

namespace Sys2Proof.Machine
open Sys2Proof.Claims

/-- `twinCommands`, with signed INT32 in code register 0 (R42), which a VAMO takes for its data and its indexes alike. -/
def twinAtomics : State :=
  twinCommands.mapStrand fun t => { t with ctl := { t.ctl with codes := t.ctl.codes.set 0 (.of 0x9200000000000000) } }

/-- VAMOADD v0, s[0], v0 under the governing mask: data and indexes are empty. -/
def emptyAtomic : Instr := .vamoadd 0 0 0 false true

theorem twinAtomics_useOk_data : UseOk twinAtomics 0 (VamoOp.codeOk .add) := by
  unfold UseOk
  decide +kernel

theorem twinAtomics_useOk_index : UseOk twinAtomics 0 integerCode := by
  unfold UseOk
  decide +kernel

theorem twinAtomics_fresh : Fresh twinAtomics := by
  unfold Fresh
  decide +kernel

theorem twinAtomics_maskFree : MaskFree twinAtomics true := by
  have hamr : twinAtomics.strand.amr = 1 := by decide +kernel
  have hbefore : ∀ c ∈ twinAtomics.cmds, c.phase = .performed := by decide +kernel
  have hafter : ∀ c ∈ (observed twinAtomics true).cmds, c.ca = 2 := by decide +kernel
  refine fun _ => ⟨fun c hc _ _ _ _ _ x y z h => ?_, fun c hc _ _ _ _ hca => ?_⟩
  · rw [hbefore c hc] at h
    cases h
  · rw [hafter c hc, hamr] at hca
    cases hca

/-- The VAMO has no active element, since its data's fill is 0. -/
theorem emptyAtomic_targets : (vamoPlanOf twinAtomics 0 0 0 true).at_ = [] := by decide +kernel

/-- The VAMO ends with the first command's chunk told in k2, though no field of it names k2. -/
theorem emptyAtomic_tells : firstBitOfK2 (exec emptyAtomic twinAtomics) = some true := by decide +kernel

theorem twinAtomics_k2 : (twinAtomics.strand.mask 2).bits.getLsbD 0 = false := by decide +kernel

end Sys2Proof.Machine
end

section
open Sys2Proof Sys2Proof.Machine Sys2Proof.Claims

/-- Refutes O42: in `twinAtomics`, where two commands have one number, a VAMOADD of no element under k1 changes k2. -/
theorem not_vectorAtomicsComplete : ¬ Obligations.VectorAtomicsComplete := by
  rintro ⟨⟨hvamo, -⟩, -⟩
  have hcheck {o : Acc} {z : Nat} {b : Bool} {u : State} : checkTargets o z b (vamoPlanOf twinAtomics 0 0 0 true).at_ u = .ok [] u := by
    rw [emptyAtomic_targets]
    rfl
  obtain ⟨t, ht, ⟨-, -, -, -, -, -, -, hmasks⟩, -⟩ := hvamo _ (.head _) 0 0 0 false true twinAtomics _ _ _ _ twinAtomics_useOk_data
    twinAtomics_useOk_index twinAtomics_fresh twinAtomics_maskFree hcheck rfl
  have htold : firstBitOfK2 (.next t) = some true := ht ▸ emptyAtomic_tells
  have hkept : t.strand.mask 2 = twinAtomics.strand.mask 2 := by rw [Strand.mask, Strand.mask, hmasks]
  rw [firstBitOfK2, hkept, twinAtomics_k2] at htold
  cases htold

end

section
/-! Taking a trap (R135 to R145): what a stop with a record leaves of the strand, and an unusable TVEC. -/

namespace Sys2Proof.Machine
open Sys2Proof.Claims

theorem Strand.stopResidue_eq_stopKeeps (s : State) (x : Trap) : s.strand.stopResidue x = stopKeeps s x := by
  cases h : x.resume <;> simp [Strand.stopResidue, stopKeeps, h]

theorem Strand.tvecOk_iff (t : Strand) : t.tvecOk = true ↔ t.ctl.tvec.val ≠ 0 ∧ t.ctl.tvec.val.extractLsb' 0 2 = 0 := by
  simp [Strand.tvecOk]

/-- A trap routed Own with STATUS.TR = 0 and an unusable TVEC suspends the strand and writes the trap registers (R140). -/
theorem State.takeTrap_unusable {s : State} {vec : Bool} {next : Addr} {x : Trap} (h : x.cause < 0x10) (hr : s.strand.st.tr = false)
    (hv : s.strand.tvecOk = false) : s.takeTrap vec next x = (s.stopStrand 1 true vec x).mapStrand fun t =>
      { t with ctl := t.ctl.trapRegs (next.setWidth 64) (causeWord x 1 true vec) x } := by
  simp [State.takeTrap, routeOf, h, hr, hv]

/-- A strand as a stop leaves it (R142): it runs no more, the restart point stands with the codes that the stop kept, and the rest is as before but
for the links that the record's write may break. -/
structure StoppedFrom (s : State) (x : Trap) (run : Run) (t : Strand) : Prop where
  run : t.run = run
  ctl : t.ctl = s.strand.ctl
  st : t.st = s.strand.st
  sregs : t.sregs = s.strand.sregs
  purses : t.purses = s.strand.purses
  masks : t.masks = s.strand.masks
  pc : t.pc = s.strand.pc
  point : PointStands s x t

theorem State.stopStrand_stops (s : State) (route : Nat) (nest vec : Bool) (x : Trap) :
    ∃ q, StoppedFrom s x (if route = 2 then .frozen q else .suspended q) (s.stopStrand route nest vec x).strand := by
  have hpost := ((State.KeepsContext.refl s).postRecord (ring := s.strand.part) (kind := 0)
    (words := s.strand.faultWords s.strand.word (causeWord x route nest vec) x) (place := some s.strand.place) (cmd := none)).strand
  have hstopped {u : State} {q : Nat} (hu : u.strand = { s.strand with links := u.strand.links }) :
      StoppedFrom s x (if route = 2 then .frozen q else .suspended q)
        { u.strand with run := if route = 2 then .frozen q else .suspended q, armed := x.resume.map fun p => (u.strand.pc, p),
                        residue := u.strand.stopResidue x } := by
    have hkeep := Strand.stopResidue_eq_stopKeeps s x
    rw [hu]
    exact ⟨rfl, rfl, rfl, rfl, rfl, rfl, rfl, rfl, hkeep⟩
  exact ⟨_, hstopped hpost⟩

/-- The control registers do not matter to what else a suspension leaves. -/
theorem StoppedFrom.withCtl {s : State} {x : Trap} {q : Nat} {t : Strand} (h : StoppedFrom s x (.suspended q) t) (c : Ctl) :
    let u : Strand := { t with ctl := c }
    (∃ q, u.run = .suspended q) ∧ u.st = s.strand.st ∧ u.sregs = s.strand.sregs ∧ u.purses = s.strand.purses ∧ u.masks = s.strand.masks ∧
      u.pc = s.strand.pc ∧ PointStands s x u ∧ u.ctl = c := by
  obtain ⟨hrun, _, hst, hsregs, hpurses, hmasks, hpc, harmed, hresidue⟩ := h
  exact ⟨⟨q, hrun⟩, hst, hsregs, hpurses, hmasks, hpc, ⟨harmed, hresidue⟩, rfl⟩

end Sys2Proof.Machine
end

section
open Sys2Proof Sys2Proof.Machine Sys2Proof.Claims

/-- Settles O25: a usable handler is entered, and nothing but the strand changes. -/
theorem handlerEntry : Obligations.HandlerEntry := by
  intro s vec next x hown hr hne halign
  rw [State.takeTrap_own hown hr ((Strand.tvecOk_iff _).mpr ⟨hne, halign⟩)]
  have hword : causeWord x 0 false vec = BitVec.ofNat 64 (x.sub * 2 ^ 16 + (if vec then 2 ^ 12 else 0) + x.acc * 2 ^ 10 + x.cause) := by
    simp only [causeWord, Nat.zero_mul, Nat.add_zero, Bool.false_eq_true, if_false]
  have hkeep := Strand.stopResidue_eq_stopKeeps s x
  simp only [State.mapStrand, Strand.enter, Ctl.trapRegs, hword, hkeep]

/-- Settles O26: each route is a stop with a record, which keeps the strand's registers; an unusable TVEC writes the trap registers besides. -/
theorem suspendedTraps : Obligations.SuspendedTraps := by
  refine fun s vec next x => ⟨fun h => ?_, fun h hr => ?_, fun h hr hv => ?_⟩
  · rw [State.takeTrap_stop (by omega)]
    obtain ⟨q, hrun, hctl, hst, hsregs, hpurses, hmasks, hpc, hpoint⟩ := s.stopStrand_stops (routeOf x.cause) false vec x
    generalize s.stopStrand (routeOf x.cause) false vec x = u at *
    have : ¬ x.cause < 0x10 := by omega
    have hroute : routeOf x.cause = 2 ↔ ¬ x.cause < 0x20 := by
      by_cases hlt : x.cause < 0x20 <;> simp [routeOf, this, hlt]
    refine ⟨⟨q, hrun.trans ?_⟩, hctl, hst, hsregs, hpurses, hmasks, hpc, hpoint⟩
    simp only [hroute, ite_not]
  · rw [State.takeTrap_nested h hr]
    obtain ⟨q, hrun, hctl, hst, hsregs, hpurses, hmasks, hpc, hpoint⟩ := s.stopStrand_stops 1 true vec x
    exact ⟨⟨q, hrun⟩, hctl, hst, hsregs, hpurses, hmasks, hpc, hpoint⟩
  · have hbad : s.strand.tvecOk = false := by
      rw [← Bool.not_eq_true, Strand.tvecOk_iff]
      tauto
    obtain ⟨q, hstop⟩ := s.stopStrand_stops 1 true vec x
    have hword : causeWord x 1 true vec =
        BitVec.ofNat 64 (x.sub * 2 ^ 16 + 2 ^ 14 + 2 ^ 13 + (if vec then 2 ^ 12 else 0) + x.acc * 2 ^ 10 + x.cause) := by
      simp only [causeWord, Nat.one_mul, if_true]
    rw [State.takeTrap_unusable h hr hbad, State.mapStrand_strand, hstop.ctl, hword]
    exact hstop.withCtl _

end

section
/-! Vector loads and element-precise stops (R143, R144, R212 to R221), and why O39 and O41 do not hold of every state. Both say of a predicated
form that no mask changes, under premises that two commands of one number meet (as for O33 and O42): there the form observes the chunk that its
governing mask k1 shows, finds the other command of that number, and stops it, which tells that command's chunk in k2. -/

namespace Sys2Proof.Machine
open Sys2Proof.Claims

/-! ## A load of no element -/

/-- VGTH v0, s[0], v0 under the governing mask, in `twinAtomics`: its indexes, in v0 too, are empty. -/
def emptyGather : Instr := .vgth 0 0 0 false true

theorem twinAtomics_useOk_fixed : UseOk twinAtomics 0 fixedCode := by
  unfold UseOk
  decide +kernel

theorem emptyGather_units : (gatherPlan twinAtomics false 0 0 0 true).n = 0 := by decide +kernel

/-- The load ends with the first command's chunk told in k2, though no field of it names k2. -/
theorem emptyGather_tells : firstBitOfK2 (exec emptyGather twinAtomics) = some true := by decide +kernel

/-! ## A load that faults at its first element -/

/-- `twinAtomics` with a handler at address 4, and s[1] an address that is no multiple of four. -/
def twinHandlers : State :=
  twinAtomics.mapStrand fun t => { t with ctl := { t.ctl with tvec := .of 4 }, sregs := t.sregs.set 1 (.of 1) }

/-- VLD v0, s[1] under the governing mask: its first element is misaligned (R108). -/
def misalignedLoad : Instr := .vld 0 1 true

theorem twinHandlers_useOk : UseOk twinHandlers 0 fixedOrBlock := by
  unfold UseOk
  decide +kernel

theorem twinHandlers_fresh : Fresh twinHandlers := by
  unfold Fresh
  decide +kernel

theorem twinHandlers_maskFree : MaskFree twinHandlers true := by
  have hamr : twinHandlers.strand.amr = 1 := by decide +kernel
  have hbefore : ∀ c ∈ twinHandlers.cmds, c.phase = .performed := by decide +kernel
  have hafter : ∀ c ∈ (observed twinHandlers true).cmds, c.ca = 2 := by decide +kernel
  refine fun _ => ⟨fun c hc _ _ _ _ _ x y z h => ?_, fun c hc _ _ _ _ hca => ?_⟩
  · rw [hbefore c hc] at h
    cases h
  · rw [hafter c hc, hamr] at hca
    cases hca

/-- The cause of the fault that has ended a load's loop. -/
def loopCause : EStateM.Result Stop State (LoadState × Option Trap) → Option Nat
  | .ok (_, some x) _ => some x.cause
  | _ => none

theorem misalignedLoad_faults :
    let p := vldPlan twinHandlers none 0 1 true
    loopCause (loadLoop p twinHandlers.strand.room p.n (loadStart (tarn1 twinHandlers 1 || false) p.gov) (observed twinHandlers true)) =
      some 0x05 := by decide +kernel

theorem loop_of_loopCause {r : EStateM.Result Stop State (LoadState × Option Trap)} {n : Nat} (h : loopCause r = some n) :
    ∃ st x s1, r = .ok (st, some x) s1 ∧ x.cause = n := by
  match r with
  | .ok (st, some x) s1 => exact ⟨st, x, s1, rfl, Option.some.inj h⟩
  | .ok (_, none) _ => cases h
  | .error _ _ => cases h

/-- The load stops with the first command's chunk told in k2, though no field of it names k2. -/
theorem misalignedLoad_tells : firstBitOfK2 (exec misalignedLoad twinHandlers) = some true := by decide +kernel

theorem twinHandlers_k2 : (twinHandlers.strand.mask 2).bits.getLsbD 0 = false := by decide +kernel

/-- A form that ends with bit 0 of k2 told, where it was 0, has changed the masks. -/
theorem masks_ne_of_tells {i : Instr} {s t : State} (hk : (s.strand.mask 2).bits.getLsbD 0 = false)
    (htells : firstBitOfK2 (exec i s) = some true) (ht : exec i s = .next t) : t.strand.masks ≠ s.strand.masks := by
  intro hmasks
  have hkept : t.strand.mask 2 = s.strand.mask 2 := by rw [Strand.mask, Strand.mask, hmasks]
  rw [ht, firstBitOfK2, hkept, hk] at htells
  cases htells

end Sys2Proof.Machine
end

section
open Sys2Proof Sys2Proof.Machine Sys2Proof.Claims

/-- Refutes O39: in `twinAtomics`, where two commands have one number, a VGTH of no element under k1 changes k2. -/
theorem not_vectorLoadsComplete : ¬ Obligations.VectorLoadsComplete := by
  rintro ⟨-, hgather, -⟩
  have hloop {room : Room} {st : LoadState} {u : State} : loadLoop (gatherPlan twinAtomics false 0 0 0 true) room
      (gatherPlan twinAtomics false 0 0 0 true).n st u = .ok (st, none) u := by
    rw [emptyGather_units]
    rfl
  obtain ⟨t, ht, -, -, -, -, -, hmasks, -⟩ := hgather false 0 0 0 false true twinAtomics _ _ twinAtomics_useOk_fixed twinAtomics_useOk_index
    twinAtomics_fresh twinAtomics_maskFree hloop
  exact masks_ne_of_tells twinAtomics_k2 emptyGather_tells ht hmasks

/-- Refutes O41: in `twinHandlers`, where two commands have one number, a VLD that stops at its misaligned first element changes k2. -/
theorem not_elementPreciseStops : ¬ Obligations.ElementPreciseStops := by
  rintro ⟨hload, -⟩
  obtain ⟨st, x, s1, hloop, hcause⟩ := loop_of_loopCause misalignedLoad_faults
  have htaken : TakenOwn twinHandlers x := ⟨by rw [hcause]; decide, by decide +kernel, by decide +kernel⟩
  obtain ⟨t, ht, hstopped, -⟩ := hload _ (.head _) 0 1 0 true twinHandlers s1 st x twinHandlers_useOk twinHandlers_fresh
    twinHandlers_maskFree htaken hloop
  obtain ⟨-, -, -, -, -, -, -, -, -, -, hmasks⟩ := hstopped
  exact masks_ne_of_tells twinHandlers_k2 misalignedLoad_tells ht hmasks

end

section
/-! Pre-emption (R147), and why O54 does not hold of every state. The claim names the pc of the strand found at the place, `savedAs`, for every live strand
there; the model's save keeps of each its own. In a run no two live strands stand at one place, but O54 does not ask for that. -/

namespace Sys2Proof.Machine
open Sys2Proof.Claims

/-- A strand that waits and may be saved as it stands is saved. -/
theorem exec_preemption_of_waiting {s : State} {place : Nat} {u : Strand} (hu : s.strandAt place = some u) (hs : s.savable u = true)
    (hrun : u.run ≠ .ready) : exec (.preemption place) s = .next (s.save u) := by
  have hsave : s.preempt place = s.save u := by simp only [State.preempt, hu, hs, hrun, if_true, if_false]
  exact congrArg Host.Outcome.next hsave

/-- What breaking links leaves of a strand: where it stands, how it runs, and its pc. -/
def Strand.whereabouts (t : Strand) : Nat × Run × Addr := (t.place, t.run, t.pc)

theorem State.whereabouts_breakLinks (s : State) (by_ : Option Nat) (line : Nat) :
    (s.breakLinks by_ line).parked.map Strand.whereabouts = s.parked.map Strand.whereabouts := by
  simp only [State.breakLinks, List.map_map]
  refine List.map_congr_left fun t _ => ?_
  simp only [Function.comp_apply]
  split <;> rfl

theorem State.parked_writeCells (s : State) (k n : Nat) : (s.writeCells k n).parked = s.parked := by
  unfold State.writeCells
  split <;> rfl

/-- An engine's store breaks links of the parked strands and does nothing else to them (R221). -/
theorem State.whereabouts_engineStore (s : State) (det : Option Nat) (k : Nat) (bs : List Byte) (t p : Bool) :
    (s.engineStore det k bs t p).parked.map Strand.whereabouts = s.parked.map Strand.whereabouts := by
  refine List.foldlRecOn (motive := fun u : State => u.parked.map Strand.whereabouts = s.parked.map Strand.whereabouts) _ _ ?_
    fun u hu l _ => (State.whereabouts_breakLinks (u.markLine k bs.length l t p) none l).trans hu
  exact congrArg (List.map Strand.whereabouts) (State.parked_writeCells _ _ _)

theorem State.whereabouts_writeImage (s : State) (t : Strand) :
    (s.writeImage t).parked.map Strand.whereabouts = s.parked.map Strand.whereabouts :=
  List.foldlRecOn (motive := fun u : State => u.parked.map Strand.whereabouts = s.parked.map Strand.whereabouts) _ _ rfl
    fun u hu _ _ => (State.whereabouts_engineStore u _ _ _ _ _).trans hu

/-- A strand at place 0 that waits for an ordered atomic, its pc 0; and one like it whose pc is 4. -/
def firstWaiting : Strand := { Strand.reset with run := .waitOrd }
def secondWaiting : Strand := { firstWaiting with pc := 4 }

def twinStrands : State := { State.reset with strand := firstWaiting, parked := [secondWaiting] }

theorem twinStrands_strandAt : twinStrands.strandAt 0 = some firstWaiting := rfl

theorem twinStrands_savable : twinStrands.savable firstWaiting = true := rfl

theorem firstWaiting_at : firstWaiting.place = 0 ∧ firstWaiting.pc = 0 := by decide

theorem firstWaiting_run : firstWaiting.run ≠ .ready := nofun

/-- The image written, the parked strand stands as before. -/
theorem twinStrands_parked : ∃ v, (twinStrands.writeImage firstWaiting).parked = [v] ∧ v.place = 0 ∧ v.run = .waitOrd ∧ v.pc = 4 := by
  obtain ⟨v, hparked, hv⟩ := List.map_eq_singleton_iff.mp (twinStrands.whereabouts_writeImage firstWaiting)
  have hsecond : secondWaiting.whereabouts = (0, .waitOrd, 4) := rfl
  exact ⟨v, hparked, by simpa [Strand.whereabouts] using hv.trans hsecond⟩

/-- The save keeps of the parked strand its own pc. -/
theorem twinStrands_save : (twinStrands.save firstWaiting).parked.map (·.saved) = [some 4] := by
  obtain ⟨v, hparked, hplace, hrun, hpc⟩ := twinStrands_parked
  simp [State.save, State.updateAt, hparked, hplace, hrun, hpc, firstWaiting_at.1]

/-- The claim names the other's. -/
theorem twinStrands_savedAs : (savedAs twinStrands firstWaiting).parked.map (·.saved) = [some 0] := by
  obtain ⟨v, hparked, hplace, hrun, -⟩ := twinStrands_parked
  simp [savedAs, State.updateAt, hparked, hplace, hrun, firstWaiting_at]

end Sys2Proof.Machine
end

section
open Sys2Proof Sys2Proof.Machine Sys2Proof.Claims

/-- Refutes O54: in `twinStrands`, where two live strands stand at one place, the pre-emption keeps of the second its own pc. -/
theorem not_contextsAreSavedAndMoved : ¬ Obligations.ContextsAreSavedAndMoved := by
  rintro ⟨hpreempt, -⟩
  obtain ⟨hsavable, -⟩ := hpreempt 0 twinStrands
  obtain ⟨hwaiting, -⟩ := hsavable firstWaiting twinStrands_strandAt twinStrands_savable
  have hclaim := hwaiting firstWaiting_run
  rw [exec_preemption_of_waiting twinStrands_strandAt twinStrands_savable firstWaiting_run] at hclaim
  have hsame := Host.Outcome.next.inj hclaim
  have hpcs := twinStrands_save
  rw [hsame, twinStrands_savedAs] at hpcs
  exact absurd hpcs (by decide)

end

section
/-! What the hub, the drains, the observations and the barriers leave alone (R411, R413, R417): the partitions' descriptors, the frozen queues, and
that a command number is dropped. One lemma per operation, each in the shape of the operation. -/

namespace Sys2Proof.Machine

/-- Every command of the number has been dropped. -/
def State.Dropped (s : State) (id : Nat) : Prop := ∀ c ∈ s.cmds, c.id = id → c.phase = .dropped

/-- `u` has the descriptors and the frozen queues of `s`, and what is dropped in `s` is dropped in it. -/
structure State.KeepsDescriptors (s u : State) : Prop where
  desc : ∀ a, descBase ≤ a → a < vfBase → u.reg64 a = s.reg64 a
  frozenQ : u.frozenQ = s.frozenQ
  dropped : ∀ id, s.Dropped id → u.Dropped id

theorem refrec_lt_descBase {k : Nat} (h : k < hbmEnd) : refrec (pchOf k).1 (pchOf k).2 < descBase := by
  simp only [refrec, pchOf, stackCtl, hbmEnd, hbmDie, hbmBand, stackBase, descBase] at h ⊢
  omega

theorem pcherr_lt_descBase {k : Nat} (h : k < hbmEnd) : pcherr (pchOf k).1 (pchOf k).2 < descBase := by
  simp only [pcherr, pchOf, stackCtl, hbmEnd, hbmDie, hbmBand, stackBase, descBase] at h ⊢
  omega

namespace State.KeepsDescriptors

variable {α : Type} {s u v : State}

/-- An update of fields that the frame does not speak of. -/
theorem of_fields {
    strand parked agenda fresh ticks resetAt coldAt mem tarn poison oldCode tlb guests assay resv escrow phases barriers cores nextCmd stored
    ordStreams ordEntries queries launches nodes held records hostHeld msix msixHeld chipUnits parity upsets flips l1Errors failures compressed
    locked stalled migrate retired badBands scrubs links failed devfail fw switched chron powered throttle down breaks halted goOn reply
    nonVolatile} (h : s.KeepsDescriptors u) : s.KeepsDescriptors ⟨
      strand, parked, agenda, fresh, ticks, resetAt, coldAt, mem, tarn, poison, u.dev, oldCode, tlb, guests, assay, resv, escrow,
      phases, barriers, cores, u.cmds, nextCmd, u.frozenQ, stored, ordStreams, ordEntries, queries, launches, nodes, held, records,
      hostHeld, msix, msixHeld, chipUnits, parity, upsets, flips, l1Errors, failures, compressed, locked, stalled, migrate,
      retired, badBands, scrubs, links, failed, devfail, fw, switched, chron, powered, throttle, down, breaks, halted, goOn,
      reply, nonVolatile⟩ := ⟨h.desc, h.frozenQ, h.dropped⟩

theorem refl (s : State) : s.KeepsDescriptors s := ⟨fun _ _ _ => rfl, rfl, fun _ => id⟩

theorem trans (h : s.KeepsDescriptors u) (h' : u.KeepsDescriptors v) : s.KeepsDescriptors v :=
  ⟨fun a ha ha' => (h'.desc a ha ha').trans (h.desc a ha ha'), h'.frozenQ.trans h.frozenQ, fun id hid => h'.dropped id (h.dropped id hid)⟩

theorem ite {c : Prop} {_ : Decidable c} (h : s.KeepsDescriptors u) (h' : s.KeepsDescriptors v) : s.KeepsDescriptors (if c then u else v) := by
  split <;> assumption

theorem fst_ite {c : Prop} {_ : Decidable c} {p q : State × α} (h : s.KeepsDescriptors p.1) (h' : s.KeepsDescriptors q.1) :
    s.KeepsDescriptors (if c then p else q).1 := by
  split <;> assumption

theorem of_fst {p : State × α} {r : α} (h : s.KeepsDescriptors p.1) (e : p = (v, r)) : s.KeepsDescriptors v := by
  rwa [e] at h

theorem foldl {f : State → α → State} {l : List α} (h : s.KeepsDescriptors u)
    (hf : ∀ v, ∀ x ∈ l, s.KeepsDescriptors v → s.KeepsDescriptors (f v x)) : s.KeepsDescriptors (l.foldl f u) :=
  List.foldlRecOn l f h fun v hv x hx => hf v x hx hv

/-- Commands changed in place keep their numbers, and those whose number is dropped their phases. -/
theorem mapCmds {f : Cmd → Cmd} (h : s.KeepsDescriptors u) (hdev : v.dev = u.dev) (hq : v.frozenQ = u.frozenQ) (hv : v.cmds = u.cmds.map f)
    (hf : ∀ c, (f c).id = c.id ∧ (s.Dropped c.id → c.phase = .dropped → (f c).phase = .dropped)) : s.KeepsDescriptors v := by
  refine ⟨fun a ha ha' => ?_, hq.trans h.frozenQ, fun id hid x hx hxid => ?_⟩
  · rw [← h.desc a ha ha', State.reg64, State.reg64, hdev]
  · rw [hv] at hx
    obtain ⟨c, hc, rfl⟩ := List.mem_map.mp hx
    rw [(hf c).1] at hxid
    exact (hf c).2 (hxid ▸ hid) (h.dropped id hid c hc hxid)

/-! ## Registers outside the descriptors -/

theorem setReg64_lt {a w} (ha : a < descBase) (h : s.KeepsDescriptors u) : s.KeepsDescriptors (u.setReg64 a w) :=
  ⟨fun b hb hb' => (State.reg64_setReg64_of_ne u w (Nat.ne_of_gt (Nat.lt_of_lt_of_le ha hb))).trans (h.desc b hb hb'), h.frozenQ, h.dropped⟩

theorem setReg64_vf {part off w} (h : s.KeepsDescriptors u) : s.KeepsDescriptors (u.setReg64 (vfAddr part off) w) :=
  ⟨fun b hb hb' => (State.reg64_setReg64_of_ne u w (Nat.ne_of_lt (Nat.lt_of_lt_of_le hb' (vfBase_le_vfAddr part off)))).trans (h.desc b hb hb'),
    h.frozenQ, h.dropped⟩

theorem setField_lt {a lo n x} (ha : a < descBase) (h : s.KeepsDescriptors u) : s.KeepsDescriptors (u.setField a lo n x) := h.setReg64_lt ha

theorem setField_vf {part off lo n x} (h : s.KeepsDescriptors u) : s.KeepsDescriptors (u.setField (vfAddr part off) lo n x) := h.setReg64_vf

/-! ## Memory -/

theorem request {k} (hk : k < hbmEnd) (h : s.KeepsDescriptors u) : s.KeepsDescriptors (u.request k) := by
  have hf {v : State} {lo n x} (hv : s.KeepsDescriptors v) := hv.setField_lt (lo := lo) (n := n) (x := x) (refrec_lt_descBase hk)
  exact .ite (hf (.ite (hf h) h)) (.ite (hf h) h)

theorem putSector {line data} (h : s.KeepsDescriptors u) : s.KeepsDescriptors (u.putSector line data) := .of_fields h

theorem putUnit {unit data} (h : s.KeepsDescriptors u) : s.KeepsDescriptors (u.putUnit unit data) := .of_fields (h.foldl fun _ _ _ h => h.putSector)

theorem handleUnit {line} (hl : 64 * line < hbmEnd) (h : s.KeepsDescriptors u) : s.KeepsDescriptors (u.handleUnit line) := by
  unfold State.handleUnit
  extract_lets unit held data fails k s1
  have hk : k < hbmEnd := by
    have hi : (fails held).headD 0 < 8 := State.HubAccess.firstFailing_lt _
    simp only [k, unit, hbmEnd] at hl ⊢
    omega
  have h1 : s.KeepsDescriptors s1 := h.foldl fun _ _ _ h => h.putSector
  exact .ite (.of_fields (h.putUnit.setField_lt (pcherr_lt_descBase hk))) (.of_fields (h1.setField_lt (pcherr_lt_descBase hk)))

theorem readSector {line} (hl : 64 * line < hbmEnd) (h : s.KeepsDescriptors u) : s.KeepsDescriptors (u.readSector line) :=
  .ite h (.ite (.of_fields h.putSector) (h.handleUnit hl))

theorem reachHbm {k whole} (h : s.KeepsDescriptors u) : s.KeepsDescriptors (u.reachHbm k whole) := by
  unfold State.reachHbm
  split
  · exact h
  · next hc =>
    have hk : k < hbmEnd := by
      simp only [Bool.not_eq_true', Bool.not_eq_false, Bool.and_eq_true, decide_eq_true_eq] at hc
      exact hc.1
    have hl : 64 * lineOf k < hbmEnd := by
      rw [lineOf]
      omega
    have hu : s.KeepsDescriptors { u with fresh := u.fresh + 1 } := .of_fields h
    exact .ite hu (.ite (hu.request hk) ((hu.request hk).readSector hl))

theorem reachRange {k n write} (h : s.KeepsDescriptors u) : s.KeepsDescriptors (u.reachRange k n write) :=
  .ite h (h.foldl fun _ _ _ h => h.reachHbm)

theorem writeCells {k n} (h : s.KeepsDescriptors u) : s.KeepsDescriptors (u.writeCells k n) := .ite h (.of_fields h)

theorem setMem {m} (h : s.KeepsDescriptors u) : s.KeepsDescriptors { u with mem := m } := .of_fields h

/-- A write may end that a token stands in memory, and changes nothing else of a command. -/
theorem noteStore {det k n} (h : s.KeepsDescriptors u) : s.KeepsDescriptors (u.noteStore det k n) := by
  refine h.mapCmds rfl rfl rfl fun c => ?_
  generalize (if n = 0 then [] else _) = ws
  split
  · split
    · exact ⟨rfl, fun _ hp => hp⟩
    · exact ⟨rfl, fun _ hp => hp⟩
  · exact ⟨rfl, fun _ hp => hp⟩

theorem breakLinks {by_ line} (h : s.KeepsDescriptors u) : s.KeepsDescriptors (u.breakLinks by_ line) := .of_fields h

theorem orTarn {line t} (h : s.KeepsDescriptors u) : s.KeepsDescriptors (u.orTarn line t) := .ite (.of_fields h) h

theorem homeStore {place k bs t} (h : s.KeepsDescriptors u) : s.KeepsDescriptors (u.homeStore place k bs t) :=
  h.setMem.writeCells.noteStore.orTarn.breakLinks

theorem touchTables {part va n a} (h : s.KeepsDescriptors u) : s.KeepsDescriptors (u.touchTables part va n a) := by
  induction n generalizing u a with
  | zero => exact h
  | succ n ih => exact .ite h (.ite h.reachHbm (ih h.reachHbm))

theorem touchWalk {part va} (h : s.KeepsDescriptors u) : s.KeepsDescriptors (u.touchWalk part va) := .ite h h.touchTables

theorem cacheLeaf {part va e addr} (h : s.KeepsDescriptors u) : s.KeepsDescriptors (u.cacheLeaf part va e addr) := .ite (.of_fields h) (.of_fields h)

theorem setAD {addr e a} (h : s.KeepsDescriptors u) : s.KeepsDescriptors (u.setAD addr e a) := .ite h h.setMem.writeCells

theorem useEntry {q e va a addr} (h : s.KeepsDescriptors u) :
    s.KeepsDescriptors (match u.useLeaf q e va a with
      | .error f => (u, Except.error f)
      | .ok x => ((u.setAD addr e a).cacheLeaf q.part va (e ||| a.marks) addr, Except.ok x)).1 := by
  split
  · exact h
  · exact h.setAD.cacheLeaf

theorem translateNow {q va a} (h : s.KeepsDescriptors u) : s.KeepsDescriptors (u.translateNow q va a).1 := by
  refine .fst_ite h (.fst_ite h ?_)
  dsimp only
  split
  · split
    · exact h
    · exact h.useEntry
  · have hu : s.KeepsDescriptors { u with fresh := u.fresh + 1 } := .of_fields h
    split
    · exact hu.useEntry
    · split
      · exact hu
      · exact hu.useEntry

theorem translate {q va a} (h : s.KeepsDescriptors u) : s.KeepsDescriptors (u.translate q va a).1 := .translateNow (.ite h h.touchWalk)

/-! ## The hub and its records -/

theorem hubTouch {part va n} (h : s.KeepsDescriptors u) : s.KeepsDescriptors (u.hubTouch part va n) := by
  refine h.foldl fun _ _ _ h => ?_
  dsimp only
  split
  · next e => exact .reachRange (.of_fst h.translate e)
  · next e => exact .of_fst h.translate e

theorem hubPut {part k bs} (h : s.KeepsDescriptors u) : s.KeepsDescriptors (u.hubPut part k bs) :=
  .ite (.of_fields h) (h.reachRange.setMem.writeCells.noteStore.foldl fun _ _ _ h => h.breakLinks)

theorem hubBytes {part n va bs} (h : s.KeepsDescriptors u) : s.KeepsDescriptors (u.hubBytes part n va bs) := by
  induction n generalizing u va bs with
  | zero => exact h
  | succ n ih =>
    cases bs with
    | nil => exact h
    | cons b bs =>
      refine ih ?_
      dsimp only
      split
      · exact h.translate.hubPut
      · exact h.translate

theorem hubWrite {part va bs} (h : s.KeepsDescriptors u) : s.KeepsDescriptors (u.hubWrite part va bs) := by
  refine h.hubBytes.foldl fun _ _ _ h => ?_
  split
  · exact .of_fields h
  · exact h

theorem interrupt {fn vec} (h : s.KeepsDescriptors u) : s.KeepsDescriptors (u.interrupt fn vec) := .ite (.of_fields h) (.of_fields h)

theorem chronicle {source part cause a0 a1} (h : s.KeepsDescriptors u) : s.KeepsDescriptors (u.chronicle source part cause a0 a1) :=
  .ite h (.of_fields h)

theorem chronicleRecord {ring kind words place cmd} (h : s.KeepsDescriptors u) : s.KeepsDescriptors (u.chronicleRecord ring kind words place cmd) :=
  .ite h.chronicle (.ite h.chronicle h.chronicle)

theorem enterRecord {ring words} (h : s.KeepsDescriptors u) : s.KeepsDescriptors (u.enterRecord ring words) :=
  .ite h.hubWrite.setField_vf.interrupt h.hubWrite.setField_vf

theorem postRecord {ring kind words place cmd} (h : s.KeepsDescriptors u) : s.KeepsDescriptors (u.postRecord ring kind words place cmd).1 := by
  have hc {l} : s.KeepsDescriptors { u.chronicleRecord ring kind words place cmd with records := l } := .of_fields h.chronicleRecord
  exact .ite hc hc.enterRecord

theorem flushRecords {ring n} (h : s.KeepsDescriptors u) : s.KeepsDescriptors (u.flushRecords ring n) := by
  induction n generalizing u with
  | zero => exact h
  | succ n ih =>
    unfold State.flushRecords
    split
    · exact h
    · exact .ite h (ih (.of_fields h.enterRecord))

theorem clearRecord {ring seq} (h : s.KeepsDescriptors u) : s.KeepsDescriptors (u.clearRecord ring seq) := .of_fields h

theorem updateAt {place f} (h : s.KeepsDescriptors u) : s.KeepsDescriptors (u.updateAt place f) := .of_fields h

theorem suspendAt {place cause elem route} (h : s.KeepsDescriptors u) : s.KeepsDescriptors (u.suspendAt place cause elem route) := by
  unfold State.suspendAt
  split
  · exact h
  · exact h.postRecord.updateAt

/-! ## The graph's registers -/

theorem graphError {part code index} (h : s.KeepsDescriptors u) : s.KeepsDescriptors (u.graphError part code index) := .ite h h.setReg64_vf

theorem appendNode {part i} (h : s.KeepsDescriptors u) : s.KeepsDescriptors (u.appendNode part i) := by
  unfold State.appendNode
  extract_lets t bytes dep held s1
  have h1 : s.KeepsDescriptors s1 := .ite h.hubTouch.graphError h.hubTouch
  exact .of_fields h1

theorem gappend {part tail} (h : s.KeepsDescriptors u) : s.KeepsDescriptors (u.gappend part tail) :=
  .ite h.graphError (.ite h.setField_vf (.setReg64_vf (h.foldl fun _ _ _ h => h.appendNode)))

theorem appendHeld {part} (h : s.KeepsDescriptors u) : s.KeepsDescriptors (u.appendHeld part) := .ite h h.setField_vf.gappend

theorem replayHost {part} (h : s.KeepsDescriptors u) : s.KeepsDescriptors (u.replayHost part) := by
  have hsent {x y z} : s.KeepsDescriptors { u with hostHeld := x, msix := y, msixHeld := z } := .of_fields h
  exact hsent.foldl fun _ _ _ h => h.setMem.noteStore.breakLinks

/-! ## Dirty FIFOs -/

theorem setCore {c} (h : s.KeepsDescriptors u) : s.KeepsDescriptors (u.setCore c) := .of_fields h

theorem loseWriteback {part k} (h : s.KeepsDescriptors u) : s.KeepsDescriptors (u.loseWriteback part k) :=
  have hb : s.KeepsDescriptors (u.loseBlock k) := ⟨h.desc, h.frozenQ, h.dropped⟩
  hb.postRecord

theorem drainOne {core} (h : s.KeepsDescriptors u) : s.KeepsDescriptors (u.drainOne core) := by
  unfold State.drainOne
  dsimp only
  split
  · exact h
  · exact .ite h (.ite h.setCore.loseWriteback h.setCore.reachHbm.homeStore)

theorem drainN {core n} (h : s.KeepsDescriptors u) : s.KeepsDescriptors (u.drainN core n) := by
  induction n generalizing u with
  | zero => exact h
  | succ n ih => exact ih h.drainOne

theorem drainAll {core} (h : s.KeepsDescriptors u) : s.KeepsDescriptors (u.drainAll core) := h.drainN

theorem releaseAt {place scope} (h : s.KeepsDescriptors u) : s.KeepsDescriptors (u.releaseAt place scope) :=
  have hd : s.KeepsDescriptors (if 4 ≤ scope then u.drainAll (coreOf place) else u) := .ite h.drainAll h
  .of_fields hd

theorem acquireAt {place scope} (h : s.KeepsDescriptors u) : s.KeepsDescriptors (u.acquireAt place scope) := .ite h (.of_fields h)

/-! ## Observing a command that is not dropped -/

theorem recordWrite {c phys lo len} (h : s.KeepsDescriptors u) : s.KeepsDescriptors (u.recordWrite c phys lo len).1 := by
  unfold State.recordWrite
  split
  · exact h
  · refine List.foldlRecOn (motive := fun p : State × Option Nat => s.KeepsDescriptors p.1) _ _ h fun _ h1 _ _ => .fst_ite h1 ?_
    dsimp only
    split
    · exact h1
    · split <;> exact ⟨h1.desc, h1.frozenQ, h1.dropped⟩

theorem observe {cmd flat} (hc : ¬ s.Dropped cmd) (h : s.KeepsDescriptors u) : s.KeepsDescriptors (u.observe cmd flat) := by
  unfold State.observe
  split
  · exact h
  · extract_lets s1 s2 s3 s4
    have h1 : s.KeepsDescriptors s1 := h.mapCmds rfl rfl rfl fun x => by
      split
      · exact ⟨rfl, fun _ hp => hp⟩
      · exact ⟨rfl, fun _ hp => hp⟩
    have h2 : s.KeepsDescriptors s2 := by
      dsimp only [s2]
      split
      · exact h1
      · exact .of_fields h1
    have h4 : s.KeepsDescriptors s4.1 := by
      dsimp only [s4]
      split
      · exact h2.recordWrite.recordWrite
      · exact h2.recordWrite
    refine .ite h2 ?_
    split
    · exact h4
    · refine h4.mapCmds rfl rfl rfl fun x => ?_
      split
      · next hx => exact ⟨rfl, fun hd => absurd (hx ▸ hd) hc⟩
      · exact ⟨rfl, fun _ hp => hp⟩

theorem observeAll {cmds flat} (hc : ∀ c ∈ cmds, ¬ s.Dropped c) (h : s.KeepsDescriptors u) : s.KeepsDescriptors (u.observeAll cmds flat) :=
  h.foldl fun _ c hm h => h.observe (hc c hm)

theorem observeIssuer {cmd} (hc : ¬ s.Dropped cmd) (h : s.KeepsDescriptors u) : s.KeepsDescriptors (u.observeIssuer cmd) := by
  unfold State.observeIssuer
  split
  · exact h.observe hc
  · exact h

/-- What a barrier's round counts has been performed, so that it is not dropped. -/
theorem not_dropped_of_countedBy {core bar owner cmd} (h : s.KeepsDescriptors u) (hc : cmd ∈ u.countedBy core bar owner) : ¬ s.Dropped cmd := by
  intro hd
  obtain ⟨c, hm, rfl⟩ := List.mem_map.mp hc
  obtain ⟨hmem, hp⟩ := List.mem_filter.mp hm
  rw [h.dropped _ hd c hmem rfl, Bool.and_false] at hp
  cases hp

/-! ## Barriers -/

theorem setBarrier {b} (h : s.KeepsDescriptors u) : s.KeepsDescriptors (u.setBarrier b) := .of_fields h

theorem codeJoin {places scope} (h : s.KeepsDescriptors u) : s.KeepsDescriptors (u.codeJoin places scope) := .of_fields h

theorem releaseInstance {b counted scope} (hc : ∀ c ∈ counted, ¬ s.Dropped c) (h : s.KeepsDescriptors u) :
    s.KeepsDescriptors (u.releaseInstance b counted scope) :=
  .setBarrier (.foldl (.codeJoin (.foldl (.ite (h.foldl fun _ c hm h1 => h1.observeIssuer (hc c hm)) h)
    fun _ _ _ h1 => (h1.observeAll hc).releaseAt)) fun _ _ _ h1 => h1.acquireAt.updateAt)

theorem advancePhases {l n group} (h : s.KeepsDescriptors u) : s.KeepsDescriptors (u.advancePhases l n group) := by
  unfold State.advancePhases
  extract_lets top s1
  have h1 : s.KeepsDescriptors s1 := .ite h (h.foldl fun _ _ _ h => h.foldl fun _ _ _ h => ⟨h.desc, h.frozenQ, h.dropped⟩)
  split
  · exact .ite (.of_fields h1) h1
  · exact h1

theorem completeGroup {l n group bar} (h : s.KeepsDescriptors u) : s.KeepsDescriptors (u.completeGroup l n group bar) := by
  have hc (l : List Barrier) : ∀ c ∈ l.flatMap fun b => u.countedBy b.core b.bar b.owner, ¬ s.Dropped c := by
    intro c hm
    obtain ⟨b, -, hb⟩ := List.mem_flatMap.mp hm
    exact h.not_dropped_of_countedBy hb
  exact .ite (h.foldl fun _ _ _ h1 => h1.suspendAt) (.advancePhases (.ite (h.foldl fun _ _ _ h1 => h1.releaseInstance (hc _))
    (.codeJoin (h.foldl fun _ _ _ h1 => h1.releaseInstance (hc _)))))

theorem evalBarrier {b} (h : s.KeepsDescriptors u) : s.KeepsDescriptors (u.evalBarrier b) := by
  refine .ite h ?_
  have hc := fun c (hm : c ∈ u.countedBy b.core b.bar b.owner) => h.not_dropped_of_countedBy hm
  dsimp only
  split
  · exact h.releaseInstance hc
  · split
    · exact h.releaseInstance hc
    · exact .ite h.completeGroup h

theorem lowerPend {c n} (h : s.KeepsDescriptors u) : s.KeepsDescriptors (u.lowerPend c n) := h.setBarrier.evalBarrier

/-! ## Stopping a command -/

theorem tellChunks {c is} (h : s.KeepsDescriptors u) : s.KeepsDescriptors (u.tellChunks c is) := by
  refine .updateAt (h.mapCmds rfl rfl rfl fun x => ?_)
  split
  · exact ⟨rfl, fun _ hp => hp⟩
  · exact ⟨rfl, fun _ hp => hp⟩

theorem markNode {part node state nerr} (h : s.KeepsDescriptors u) : s.KeepsDescriptors (u.markNode part node state nerr) := by
  unfold State.markNode
  split
  · exact h
  · split
    · exact .of_fields h
    · exact h

end State.KeepsDescriptors

/-- A command dropped in place: every one of its number is. -/
theorem State.dropped_setCmd (s : State) {c : Cmd} (hc : c.phase = .dropped) : (s.setCmd c).Dropped c.id := by
  intro x hx hid
  obtain ⟨y, -, rfl⟩ := List.mem_map.mp hx
  split
  · exact hc
  · next hne =>
    rw [if_neg hne] at hid
    exact absurd hid hne

theorem State.KeepsDescriptors.setCmd {s u : State} {c : Cmd} (hc : c.phase = .dropped) (h : s.KeepsDescriptors u) : s.KeepsDescriptors (u.setCmd c) := by
  refine h.mapCmds rfl rfl rfl fun x => ?_
  split
  · next hx => exact ⟨hx.symm, fun _ _ => hc⟩
  · exact ⟨rfl, fun _ hp => hp⟩

/-- A command that stops is dropped for good. -/
theorem State.stopCmd_drops (s : State) (c : Cmd) : s.KeepsDescriptors (s.stopCmd c .dropped) ∧ (s.stopCmd c .dropped).Dropped c.id := by
  unfold State.stopCmd
  extract_lets told s0 s1 k s2
  have h0 : s.KeepsDescriptors s0 := .setCmd rfl (.ite (.refl s) (State.KeepsDescriptors.refl s).tellChunks)
  have hd : s0.Dropped c.id := State.dropped_setCmd _ rfl
  have h1 : s0.KeepsDescriptors s1 := .of_fields (.refl s0)
  have h2 : s0.KeepsDescriptors s2 := .ite h1.setCore h1
  have h3 {p : Prop} {_ : Decidable p} : s0.KeepsDescriptors (if p then s2.lowerPend c (c.byteCount - c.landed) else s2) := .ite h2.lowerPend h2
  exact ⟨h0.trans h3, h3.dropped _ hd⟩

end Sys2Proof.Machine
end

section
/-! The words of a descriptor (R413): what the end of a PCMD leaves of them, and what NEXT puts into them (R414, R417, R427). -/

namespace Sys2Proof.Machine

theorem descAddr_ne (part : Nat) {o p : Nat} (h : o ≠ p) : descAddr part o ≠ descAddr part p := by
  simp only [descAddr]
  omega

theorem State.KeepsDescriptors.word {s u : State} {part off : Nat} (h : s.KeepsDescriptors u) (hp : part < 32) (ho : off < 0x100) :
    u.reg64 (descAddr part off) = s.reg64 (descAddr part off) := by
  obtain ⟨_, _, _, _, _, _, _, _⟩ := mapBounds
  refine h.desc _ ?_ ?_ <;> simp only [descAddr] <;> omega

/-- A cluster's control block is no word of a descriptor. -/
theorem clusterCtl_ne_descAddr {cluster : Nat} (hc : cluster < 32) (part off : Nat) : clusterCtl cluster ≠ descAddr part off := by
  simp only [clusterCtl, ctlBase, descAddr, descBase]
  omega

variable {s u : State} {part : Nat}

/-! ## PCMD -/

/-- A command in progress is one of a partition, which is busy. -/
theorem State.busy_of_pcmd {n : Nat} (h : s.pcmd part = n) (hn : n ≠ 0) :
    part < 32 ∧ (s.reg64 (descAddr part 0)).getLsbD 18 = true ∧ getBits (s.reg64 (descAddr part 0x78)) 0 3 = n := by
  unfold State.pcmd at h
  split at h
  · next hc =>
    rw [Bool.and_eq_true, decide_eq_true_eq] at hc
    exact ⟨hc.1, hc.2, h⟩
  · exact absurd h.symm hn

theorem State.pcmd_of_busy (hp : part < 32) (hbusy : (s.reg64 (descAddr part 0)).getLsbD 18 = true) :
    s.pcmd part = getBits (s.reg64 (descAddr part 0x78)) 0 3 := by
  simp only [State.pcmd, hp, hbusy, decide_true, Bool.and_true, if_true]

theorem State.lt_of_asked {op : Nat} (h : s.asked part op = true) : part < 32 := by
  simp only [State.asked, Bool.and_eq_true, decide_eq_true_eq] at h
  exact h.1.1.1

/-- `u` is `s` with a PCMD of the partition ended: of the descriptor only BUSY and PCMD differ. -/
structure State.EndsPcmd (part : Nat) (s u : State) : Prop where
  rest : u = { s with dev := u.dev }
  bits : ∀ i, i ≠ 18 → (u.reg64 (descAddr part 0)).getLsbD i = (s.reg64 (descAddr part 0)).getLsbD i
  regs : ∀ a, a ≠ descAddr part 0 → a ≠ descAddr part 0x78 → u.reg64 a = s.reg64 a

namespace State.EndsPcmd

theorem endPcmd (s : State) (part : Nat) : State.EndsPcmd part s (s.endPcmd part) := by
  have hne : descAddr part 0 ≠ descAddr part 0x78 := descAddr_ne part (by decide)
  refine ⟨rfl, fun i hi => ?_, fun a h0 h78 => ?_⟩
  · have hout : ¬ (18 ≤ i ∧ i < 18 + 1) := by omega
    rw [State.endPcmd, State.reg64_setReg64_of_ne _ _ hne, State.reg64_setField_self, getLsbD_setBits _ _ _ (by decide)]
    simp [hout]
  · rw [State.endPcmd, State.reg64_setReg64_of_ne _ _ h78, State.reg64_setField_of_ne _ _ _ _ h0]

theorem setPcmd (s : State) (part : Nat) (w : Word) : State.EndsPcmd part s (s.setReg64 (descAddr part 0x78) w) :=
  ⟨rfl, fun _ _ => by rw [State.reg64_setReg64_of_ne _ _ (descAddr_ne part (by decide))], fun _ _ h78 => State.reg64_setReg64_of_ne _ _ h78⟩

theorem endResize (s : State) (part : Nat) : State.EndsPcmd part s (s.endResize part) := by
  unfold State.endResize
  extract_lets beside
  split
  · exact endPcmd s part
  · exact setPcmd s part _

theorem endOp (s : State) (part op : Nat) : State.EndsPcmd part s (s.endOp part op) := by
  unfold State.endOp
  split
  · exact endPcmd s part
  · exact setPcmd s part _

theorem partState (h : State.EndsPcmd part s u) : u.partState part = s.partState part :=
  getBits_congr fun i hi => h.bits _ (by omega)

theorem cur (h : State.EndsPcmd part s u) {o : Nat} (h0 : o ≠ 0) (h78 : o ≠ 0x78) : u.cur part o = s.cur part o :=
  h.regs _ (descAddr_ne part h0) (descAddr_ne part h78)

end State.EndsPcmd

theorem State.pcmd_endPcmd (s : State) (part : Nat) : (s.endPcmd part).pcmd part = 0 := by
  have hclear : ((s.endPcmd part).reg64 (descAddr part 0)).getLsbD 18 = false := by
    rw [State.endPcmd, State.reg64_setReg64_of_ne _ _ (descAddr_ne part (by decide)), State.reg64_setField_self, getLsbD_setBits _ _ _ (by decide)]
    rfl
  simp only [State.pcmd, hclear, Bool.and_false, Bool.false_eq_true, if_false]

/-- What was taken beside a RESIZE is in progress alone once that has ended (R431). -/
theorem State.pcmd_endResize (hp : part < 32) (hbusy : (s.reg64 (descAddr part 0)).getLsbD 18 = true) :
    (s.endResize part).pcmd part = getBits (s.reg64 (descAddr part 0x78)) 3 3 := by
  have hlt : getBits (s.reg64 (descAddr part 0x78)) 3 3 < 8 := Nat.mod_lt _ (by decide)
  unfold State.endResize
  extract_lets beside
  split
  · next h => exact (State.pcmd_endPcmd s part).trans h.symm
  · have hne : descAddr part 0 ≠ descAddr part 0x78 := descAddr_ne part (by decide)
    rw [State.pcmd_of_busy hp (by rwa [State.reg64_setReg64_of_ne _ _ hne]), State.reg64_setReg64_self, getBits_zero, BitVec.toNat_ofNat]
    omega

/-! ## Memory and units that pass to a partition or away -/

/-- `u` has the registers of `s`, and the bands that have failed. -/
structure State.KeepsRegisters (s u : State) : Prop where
  dev : u.dev = s.dev
  badBands : u.badBands = s.badBands

namespace State.KeepsRegisters

variable {α : Type}

theorem refl (s : State) : s.KeepsRegisters s := ⟨rfl, rfl⟩

theorem foldl {f : State → α → State} {l : List α} (h : s.KeepsRegisters u) (hf : ∀ v x, s.KeepsRegisters v → s.KeepsRegisters (f v x)) :
    s.KeepsRegisters (l.foldl f u) :=
  List.foldlRecOn l f h fun v hv x _ => hf v x hv

theorem zeroRange {k n} (h : s.KeepsRegisters u) : s.KeepsRegisters (u.zeroRange k n) := ⟨h.dev, h.badBands⟩

theorem setBarriers {l} (h : s.KeepsRegisters u) : s.KeepsRegisters { u with barriers := l } := ⟨h.dev, h.badBands⟩

theorem zeroCluster {cluster} (h : s.KeepsRegisters u) : s.KeepsRegisters (u.zeroCluster cluster) := by
  refine .setBarriers (.foldl h.zeroRange fun _ _ h => ?_)
  exact h.zeroRange.zeroRange.zeroRange

theorem zeroUnit {d i} (h : s.KeepsRegisters u) : s.KeepsRegisters (u.zeroUnit d i) := h.zeroRange

theorem growUnits {d n} (h : s.KeepsRegisters u) : s.KeepsRegisters (u.growUnits part d n) :=
  have hlist {l} : s.KeepsRegisters { u with chipUnits := l } := ⟨h.dev, h.badBands⟩
  hlist.foldl fun _ _ h => h.zeroUnit

theorem shrinkUnits {d n} (h : s.KeepsRegisters u) : s.KeepsRegisters (u.shrinkUnits part d n) :=
  have hlist {l} : s.KeepsRegisters { u with chipUnits := l } := ⟨h.dev, h.badBands⟩
  hlist.foldl fun _ _ h => h.zeroUnit

theorem reg64 (h : s.KeepsRegisters u) (a : Nat) : u.reg64 a = s.reg64 a := by
  rw [State.reg64, State.reg64, h.dev]

end State.KeepsRegisters

/-! ## NEXT -/

/-- Bits of a word given by a predicate on their numbers. -/
theorem getLsbD_sum_two_pow (p : Nat → Bool) (i : Nat) :
    (BitVec.ofNat 64 (((List.range 64).filter p).map (2 ^ ·)).sum).getLsbD i = (decide (i < 64) && p i) := by
  have hsorted : ((List.range 64).filter p).SortedLT := List.Pairwise.sortedLT (List.pairwise_lt_range.filter p)
  rw [BitVec.getLsbD_ofNat, Bool.eq_iff_iff, Bool.and_eq_true, ← Nat.mem_bitIndices, Nat.bitIndices_sum_map_two_pow hsorted]
  simp +contextual

theorem State.nextLeft_congr {o : Nat} (hn : u.nextDesc part o = s.nextDesc part o) (hc : u.cur part o = s.cur part o)
    (hs : ∀ c < 32, u.clusterState c = s.clusterState c) (hb : u.badBands = s.badBands) : u.nextLeft part o = s.nextLeft part o := by
  have hgone : (fun c => decide (c < 32) && decide (u.clusterState c = 2)) = fun c => decide (c < 32) && decide (s.clusterState c = 2) := by
    funext c
    by_cases h : c < 32
    · rw [hs c h]
    · simp [h]
  simp only [State.nextLeft, hgone, hn, hc, hb]

theorem State.KeepsRegisters.nextLeft (h : s.KeepsRegisters u) (o : Nat) : u.nextLeft part o = s.nextLeft part o :=
  State.nextLeft_congr (h.reg64 _) (h.reg64 _) (fun _ _ => congrArg (getBits · 4 2) (h.reg64 _)) h.badBands

/-- NEXT stands where it names no cluster that has been retired and takes no band that has failed (R427). -/
theorem State.nextLeft_eq_nextDesc {o : Nat} (hc : ∀ k < 32, (s.nextDesc part 0x08).getLsbD k = true → s.clusterState k ≠ 2)
    (hb : ∀ b < 64, (s.nextDesc part 0x10).getLsbD b = true → b ∈ s.badBands → (s.cur part 0x10).getLsbD b = true) :
    s.nextLeft part o = s.nextDesc part o := by
  have hmask {w gone : Word} (h : ∀ i < 64, w.getLsbD i = true → gone.getLsbD i = false) : w &&& ~~~gone = w := by
    refine BitVec.eq_of_getLsbD_eq fun i hi => ?_
    rw [BitVec.getLsbD_and, BitVec.getLsbD_not, decide_eq_true hi, Bool.true_and]
    cases hw : w.getLsbD i with
    | false => rfl
    | true => rw [h i hi hw, Bool.not_false, Bool.and_true]
  unfold State.nextLeft
  split
  · refine hmask fun i hi hbit => ?_
    rw [getLsbD_sum_two_pow]
    by_cases h : i < 32
    · simp [hc i h hbit]
    · simp [h]
  · refine hmask fun i hi hbit => ?_
    have hkept := hb i hi hbit
    rw [getLsbD_sum_two_pow, decide_eq_true hi, Bool.true_and]
    by_cases hbad : i ∈ s.badBands
    · rw [hkept hbad, Bool.not_true, Bool.and_false]
    · simp [hbad]
  · rfl

/-! ## Several words -/

/-- Words of a descriptor are written in order, each with a value that may look at the state so far. -/
def State.setWords (s : State) (part : Nat) (f : State → Nat → Word) (l : List Nat) : State :=
  l.foldl (fun u o => u.setReg64 (descAddr part o) (f u o)) s

section
variable {f : State → Nat → Word} {l : List Nat}

theorem State.reg64_setWords_of_notMem {a : Nat} (h : ∀ o ∈ l, a ≠ descAddr part o) : (s.setWords part f l).reg64 a = s.reg64 a :=
  List.foldlRecOn (motive := fun u : State => u.reg64 a = s.reg64 a) l _ rfl fun _ hu o ho => (State.reg64_setReg64_of_ne _ _ (h o ho)).trans hu

/-- Where no word's value looks at the other words, each takes the value that it has to begin with. -/
theorem State.reg64_setWords {o : Nat} (hl : l.Nodup) (ho : o ∈ l)
    (hf : ∀ (u : State) (w : Word), ∀ p ∈ l, p ≠ o → f (u.setReg64 (descAddr part p) w) o = f u o) :
    (s.setWords part f l).reg64 (descAddr part o) = f s o := by
  induction l generalizing s with
  | nil => cases ho
  | cons p l ih =>
    obtain ⟨hp, hl⟩ := List.nodup_cons.mp hl
    by_cases heq : o = p
    · subst heq
      have hrest : ∀ q ∈ l, descAddr part o ≠ descAddr part q := fun q hq => descAddr_ne part fun he => hp (he ▸ hq)
      exact (State.reg64_setWords_of_notMem hrest).trans (State.reg64_setReg64_self _ _ _)
    · have hin : o ∈ l := (List.mem_cons.mp ho).resolve_left heq
      exact (ih hl hin fun u w q hq => hf u w q (List.mem_cons_of_mem _ hq)).trans (hf s _ p List.mem_cons_self (Ne.symm heq))

end

/-- Offsets of the words that NEXT has too. -/
def nextOffsets : List Nat := [0x08, 0x10, 0x18, 0x20, 0x28]

theorem nextOffsets_pos {o : Nat} (ho : o ∈ nextOffsets) : o ≠ 0 ∧ o < 0x78 := by
  revert o
  decide

/-- A word of NEXT's does not look at another word. -/
theorem State.nextLeft_setReg64 {o p : Nat} (w : Word) (hp : p ∈ nextOffsets) (hne : p ≠ o) :
    (s.setReg64 (descAddr part p) w).nextLeft part o = s.nextLeft part o := by
  obtain ⟨-, hlt⟩ := nextOffsets_pos hp
  have hne' : 0x80 + o ≠ p := by omega
  exact State.nextLeft_congr (State.reg64_setReg64_of_ne _ _ (descAddr_ne part hne')) (State.reg64_setReg64_of_ne _ _ (descAddr_ne part (Ne.symm hne)))
    (fun c hc => congrArg (getBits · 4 2) (State.reg64_setReg64_of_ne _ _ (clusterCtl_ne_descAddr hc part p))) rfl

/-! ## The descriptor takes NEXT -/

/-- The words of NEXT, in the descriptor. -/
def State.nextWords (s : State) (part : Nat) : State := s.setWords part (fun u o => u.nextLeft part o) nextOffsets

theorem State.takeNext_eq (s : State) (part : Nat) : s.takeNext part =
    ((s.nextWords part).setField (descAddr part 0) 0 7 (getBits ((s.nextWords part).nextDesc part 0) 0 7)).setPartState part
      (if (s.nextWords part).partState part = 3 then 3 else 1) := rfl

theorem State.reg64_nextWords_of_ne {o : Nat} (h : o ∉ nextOffsets) : (s.nextWords part).reg64 (descAddr part o) = s.reg64 (descAddr part o) :=
  State.reg64_setWords_of_notMem fun _ hp => descAddr_ne part fun he => h (he ▸ hp)

theorem State.reg64_takeNext {a : Nat} (h : a ≠ descAddr part 0) : (s.takeNext part).reg64 a = (s.nextWords part).reg64 a := by
  rw [State.takeNext_eq, State.setPartState, State.reg64_setField_of_ne _ _ _ _ h, State.reg64_setField_of_ne _ _ _ _ h]

theorem State.cur_takeNext {o : Nat} (ho : o ∈ nextOffsets) : (s.takeNext part).cur part o = s.nextLeft part o :=
  (State.reg64_takeNext (descAddr_ne part (nextOffsets_pos ho).1)).trans
    (State.reg64_setWords (by decide) ho fun _ w _ hp hne => State.nextLeft_setReg64 w hp hne)

theorem State.pcmdWord_takeNext : (s.takeNext part).reg64 (descAddr part 0x78) = s.reg64 (descAddr part 0x78) :=
  (State.reg64_takeNext (descAddr_ne part (by decide))).trans (State.reg64_nextWords_of_ne (by decide))

theorem State.partState_takeNext : (s.takeNext part).partState part = if s.partState part = 3 then 3 else 1 := by
  have hstate : (s.nextWords part).partState part = s.partState part := congrArg (getBits · 16 2) (State.reg64_nextWords_of_ne (by decide))
  rw [State.takeNext_eq, State.partState, State.setPartState, State.reg64_setField_self, getBits_setBits_self _ _ (by decide), hstate]
  split <;> rfl

theorem State.busy_takeNext : ((s.takeNext part).reg64 (descAddr part 0)).getLsbD 18 = (s.reg64 (descAddr part 0)).getLsbD 18 := by
  rw [State.takeNext_eq, State.setPartState, State.reg64_setField_self, getLsbD_setBits _ _ _ (by decide), State.reg64_setField_self,
    getLsbD_setBits _ _ _ (by decide), State.reg64_nextWords_of_ne (by decide)]
  rfl

/-! ## CREATE (R414) -/

/-- The clusters and the units that NEXT names have passed to the partition. -/
theorem State.keepsRegisters_passed (s : State) (part : Nat) (l : List Nat) :
    s.KeepsRegisters ((List.range 4).foldl (fun u d => u.growUnits part d (u.nextUnits part d)) (l.foldl State.zeroCluster s)) :=
  .foldl (.foldl (.refl s) fun _ _ h => h.zeroCluster) fun _ _ h => h.growUnits

theorem State.createPart_eq (s : State) (part : Nat) : ∃ u, s.KeepsRegisters u ∧ s.createPart part = (u.takeNext part).endPcmd part :=
  ⟨_, s.keepsRegisters_passed part _, rfl⟩

/-- NEXT may become the descriptor, so that it names nothing that is gone. -/
theorem State.nextLeft_of_nextOk {o : Nat} (h : s.nextOk part = true) : s.nextLeft part o = s.nextDesc part o := by
  simp only [State.nextOk, Bool.and_eq_true, List.all_eq_true, List.mem_range, Bool.not_eq_true', Bool.and_eq_false_iff, decide_eq_true_eq] at h
  obtain ⟨⟨-, hclusters⟩, hbands⟩ := h
  refine State.nextLeft_eq_nextDesc (fun k hk hbit => hclusters k ?_) fun b hb hbit hbad => absurd hbad ?_
  · exact List.mem_filter.mpr ⟨List.mem_range.mpr hk, hbit⟩
  · simpa [hbit] using hbands b hb

/-- A PCMD is refused: PERR is set, and what stood beside it goes on (R413). -/
theorem State.refusePcmd_sets (hp : part < 32) (hbusy : (s.reg64 (descAddr part 0)).getLsbD 18 = true) :
    ((s.refusePcmd part).reg64 (descAddr part 0)).getLsbD 19 = true ∧
      (s.refusePcmd part).pcmd part = getBits (s.reg64 (descAddr part 0x78)) 3 3 ∧
      (s.refusePcmd part).partState part = s.partState part ∧ s.refusePcmd part = { s with dev := (s.refusePcmd part).dev } := by
  have hends := State.EndsPcmd.endResize (s.setField (descAddr part 0) 19 1 1) part
  have hword := State.reg64_setField_self s (descAddr part 0) 19 1 1
  refine ⟨?_, ?_, ?_, hends.rest⟩
  · rw [State.refusePcmd, hends.bits 19 (by decide), hword, getLsbD_setBits _ _ _ (by decide)]
    rfl
  · have hbusy' : ((s.setField (descAddr part 0) 19 1 1).reg64 (descAddr part 0)).getLsbD 18 = true := by
      rw [hword, getLsbD_setBits _ _ _ (by decide)]
      exact hbusy
    rw [State.refusePcmd, State.pcmd_endResize hp hbusy', State.reg64_setField_of_ne _ _ _ _ (descAddr_ne part (by decide))]
  · rw [State.refusePcmd, hends.partState, State.partState, hword, getBits_setBits_of_disjoint _ _ (by decide) (by decide)]
    rfl

theorem State.createPart_takes (h0 : s.partState part = 0) (hok : s.nextOk part = true) :
    (s.createPart part).partState part = 1 ∧ (s.createPart part).pcmd part = 0 ∧
      ∀ o ∈ nextOffsets, (s.createPart part).cur part o = s.nextDesc part o := by
  obtain ⟨u, hu, he⟩ := s.createPart_eq part
  have hends := State.EndsPcmd.endPcmd (u.takeNext part) part
  have hstate : u.partState part = 0 := (congrArg (getBits · 16 2) (hu.reg64 _)).trans h0
  rw [he]
  refine ⟨?_, State.pcmd_endPcmd _ part, fun o ho => ?_⟩
  · rw [hends.partState, State.partState_takeNext, hstate]
    rfl
  · obtain ⟨hpos, hlt⟩ := nextOffsets_pos ho
    rw [hends.cur hpos (Nat.ne_of_lt hlt), State.cur_takeNext ho, hu.nextLeft, State.nextLeft_of_nextOk hok]

/-! ## RESIZE (R417) -/

/-- Offsets of the words that a RESIZE adds to. -/
def addedOffsets : List Nat := [0x08, 0x10, 0x18, 0x20]

/-- What NEXT adds is in the words, and the units of a die grow in word 0x28. -/
def State.addedWords (s : State) (part : Nat) : State :=
  (List.range 4).foldl (fun u d => u.setField (descAddr part 0x28) (8 * d) 7 (max (u.units part d) (u.nextUnits part d)))
    (s.setWords part (fun u o => u.cur part o ||| u.nextDesc part o) addedOffsets)

theorem State.reg64_addedWords {a : Nat} (h : a ≠ descAddr part 0x28) :
    (s.addedWords part).reg64 a = (s.setWords part (fun u o => u.cur part o ||| u.nextDesc part o) addedOffsets).reg64 a :=
  List.foldlRecOn (motive := fun u : State => u.reg64 a = _) _ _ rfl fun _ hu _ _ => (State.reg64_setField_of_ne _ _ _ _ h).trans hu

theorem State.reg64_addedWords_of_ne {o : Nat} (h : o ∉ nextOffsets) : (s.addedWords part).reg64 (descAddr part o) = s.reg64 (descAddr part o) := by
  have hunits : descAddr part o ≠ descAddr part 0x28 := descAddr_ne part fun he => h (he ▸ by decide)
  refine (State.reg64_addedWords hunits).trans (State.reg64_setWords_of_notMem fun p hp => descAddr_ne part fun he => h ?_)
  subst he
  exact List.mem_of_mem_dropLast (l := nextOffsets) hp

theorem State.addNext_eq (s : State) (part : Nat) : ∃ u n, s.KeepsRegisters u ∧
    s.addNext part = ((u.addedWords part).setField (descAddr part 0) 0 7 n).beginResize part :=
  ⟨_, _, s.keepsRegisters_passed part _, rfl⟩

/-- STATE and BUSY stand when the count of the descriptor changes. -/
theorem State.count_keeps (s : State) (part n : Nat) : (s.setField (descAddr part 0) 0 7 n).partState part = s.partState part ∧
    ((s.setField (descAddr part 0) 0 7 n).reg64 (descAddr part 0)).getLsbD 18 = (s.reg64 (descAddr part 0)).getLsbD 18 := by
  rw [State.partState, State.reg64_setField_self, getBits_setBits_of_disjoint _ _ (by decide) (by decide), getLsbD_setBits _ _ _ (by decide)]
  exact ⟨rfl, rfl⟩

theorem State.reg64_beginResize {a : Nat} (h0 : a ≠ descAddr part 0) (h78 : a ≠ descAddr part 0x78) : (s.beginResize part).reg64 a = s.reg64 a := by
  rw [State.beginResize, State.reg64_setField_of_ne _ _ _ _ h78, State.setPartState, State.reg64_setField_of_ne _ _ _ _ h0]

theorem State.partState_beginResize : (s.beginResize part).partState part = if s.partState part = 3 then 3 else 2 := by
  rw [State.beginResize, State.partState, State.reg64_setField_of_ne _ _ _ _ (descAddr_ne part (by decide)), State.setPartState,
    State.reg64_setField_self, getBits_setBits_self _ _ (by decide)]
  split <;> rfl

theorem State.resizing_beginResize (hbusy : (s.reg64 (descAddr part 0)).getLsbD 18 = true) (h2 : getBits (s.reg64 (descAddr part 0x78)) 0 3 = 2) :
    (s.beginResize part).resizing part = true := by
  have hne : descAddr part 0 ≠ descAddr part 0x78 := descAddr_ne part (by decide)
  have hword0 : ((s.beginResize part).reg64 (descAddr part 0)).getLsbD 18 = true := by
    rw [State.beginResize, State.reg64_setField_of_ne _ _ _ _ hne, State.setPartState, State.reg64_setField_self, getLsbD_setBits _ _ _ (by decide)]
    exact hbusy
  have hword78 : (s.beginResize part).reg64 (descAddr part 0x78) = setBits (s.reg64 (descAddr part 0x78)) 6 1 1 := by
    rw [State.beginResize, State.reg64_setField_self, State.setPartState, State.reg64_setField_of_ne _ _ _ _ (Ne.symm hne)]
  have hmark : (setBits (s.reg64 (descAddr part 0x78)) 6 1 1).getLsbD 6 = true := by
    rw [getLsbD_setBits _ _ _ (by decide)]
    rfl
  rw [State.resizing, hword0, hword78, getBits_setBits_of_disjoint _ _ (by decide) (by decide), h2, hmark]
  rfl

theorem State.addNext_adds (h2 : s.pcmd part = 2) : (s.addNext part).partState part = (if s.partState part = 3 then 3 else 2) ∧
    (s.addNext part).resizing part = true ∧ ∀ o ∈ addedOffsets, (s.addNext part).cur part o = s.cur part o ||| s.nextDesc part o := by
  obtain ⟨-, hbusy, htwo⟩ := State.busy_of_pcmd h2 (by decide)
  obtain ⟨u, n, hu, he⟩ := s.addNext_eq part
  obtain ⟨hstate, hbit⟩ := (u.addedWords part).count_keeps part n
  have hword0 : (u.addedWords part).reg64 (descAddr part 0) = s.reg64 (descAddr part 0) := (State.reg64_addedWords_of_ne (by decide)).trans (hu.reg64 _)
  have hword78 : (u.addedWords part).reg64 (descAddr part 0x78) = s.reg64 (descAddr part 0x78) :=
    (State.reg64_addedWords_of_ne (by decide)).trans (hu.reg64 _)
  rw [he]
  refine ⟨?_, State.resizing_beginResize ?_ ?_, fun o ho => ?_⟩
  · rw [State.partState_beginResize, hstate, State.partState, hword0]
    rfl
  · rw [hbit, hword0, hbusy]
  · rw [State.reg64_setField_of_ne _ _ _ _ (descAddr_ne part (by decide)), hword78, htwo]
  · have hoff : o ≠ 0 ∧ o ≠ 0x78 ∧ o ≠ 0x28 := by
      revert o
      decide
    obtain ⟨h0, h78, h28⟩ := hoff
    have hown (v : State) (w : Word) : ∀ p ∈ addedOffsets, p ≠ o →
        (v.setReg64 (descAddr part p) w).cur part o ||| (v.setReg64 (descAddr part p) w).nextDesc part o = v.cur part o ||| v.nextDesc part o := by
      intro p hp hne
      have hnext : 0x80 + o ≠ p := by
        have hlt := (nextOffsets_pos (List.mem_of_mem_dropLast (l := nextOffsets) hp)).2
        omega
      simp only [State.cur, State.nextDesc, State.reg64_setReg64_of_ne _ _ (descAddr_ne part hnext),
        State.reg64_setReg64_of_ne _ _ (descAddr_ne part (Ne.symm hne))]
    rw [State.cur, State.reg64_beginResize (descAddr_ne part h0) (descAddr_ne part h78), State.reg64_setField_of_ne _ _ _ _ (descAddr_ne part h0),
      State.reg64_addedWords (descAddr_ne part h28), State.reg64_setWords (by decide) ho hown]
    simp only [State.cur, State.nextDesc, hu.reg64]

/-- A RESIZE that removes no cluster and has nothing left in a band that it removes is done in one round: NEXT is the descriptor, and a record tells of
it. -/
theorem State.workResize_of_done (hc : s.cur part 0x08 &&& ~~~(s.nextDesc part 0x08) = 0) (hb : s.partMeets part (s.inLostBand part) = false) :
    ∃ u, s.KeepsRegisters u ∧ ((u.takeNext part).endResize part).KeepsDescriptors (s.workResize part) := by
  have hdone : s.resizeDone part = true := by
    rw [State.resizeDone, hc, hb]
    rfl
  have hnone : clustersOf 0 = [] := by decide
  unfold State.workResize
  extract_lets s1 s2 s3
  have hs1 : s1 = s := by
    simp only [s1, hc, hnone, List.foldl_nil]
  rw [if_pos (by rw [hs1]; exact hdone)]
  refine ⟨s2, ?_, (State.KeepsDescriptors.refl s3).postRecord⟩
  exact .foldl (hs1 ▸ .refl s) fun _ _ h => h.shrinkUnits

theorem State.workResize_takes (h2 : s.pcmd part = 2) (hc : s.cur part 0x08 &&& ~~~(s.nextDesc part 0x08) = 0)
    (hb : s.partMeets part (s.inLostBand part) = false) :
    (s.workResize part).pcmd part = getBits (s.reg64 (descAddr part 0x78)) 3 3 ∧
      (s.workResize part).partState part = (if s.partState part = 3 then 3 else 1) ∧
      ∀ o ∈ nextOffsets, (s.workResize part).cur part o = s.nextLeft part o := by
  obtain ⟨hp, hbusy, -⟩ := State.busy_of_pcmd h2 (by decide)
  obtain ⟨u, hu, hkeeps⟩ := State.workResize_of_done hc hb
  have hends := State.EndsPcmd.endResize (u.takeNext part) part
  have hword0 := hkeeps.word hp (show 0 < 0x100 by decide)
  refine ⟨?_, ?_, fun o ho => ?_⟩
  · have hbusy' : ((u.takeNext part).reg64 (descAddr part 0)).getLsbD 18 = true := by rw [State.busy_takeNext, hu.reg64, hbusy]
    have hpcmd := State.pcmd_endResize hp hbusy'
    rw [State.pcmdWord_takeNext, hu.reg64] at hpcmd
    rw [← hpcmd, State.pcmd, State.pcmd, hword0, hkeeps.word hp (by decide)]
  · rw [State.partState, hword0]
    refine hends.partState.trans ?_
    rw [State.partState_takeNext, State.partState, hu.reg64]
    rfl
  · obtain ⟨hpos, hlt⟩ := nextOffsets_pos ho
    rw [State.cur, hkeeps.word hp (by omega)]
    exact (hends.cur hpos (Nat.ne_of_lt hlt)).trans ((State.cur_takeNext ho).trans (hu.nextLeft o))

/-! ## DESTROY (R417) -/

/-- The words of the descriptor are 0 and the nodes gone, before STATE and PCMD fall. -/
theorem State.destroyPart_eq (s : State) (part : Nat) : ∃ u : State,
    (∀ o ∈ nextOffsets, u.reg64 (descAddr part o) = 0) ∧ (∀ n ∈ u.nodes, n.part ≠ part) ∧
    s.destroyPart part = ((u.setField (descAddr part 0) 0 7 0).setPartState part 0).endPcmd part := by
  unfold State.destroyPart
  extract_lets s1 s2 s3 s4 s5
  have hzero : ∀ o ∈ nextOffsets, s4.reg64 (descAddr part o) = 0 := fun o ho =>
    State.reg64_setWords (f := fun _ _ => 0) (by decide) ho fun _ _ _ _ _ => rfl
  clear_value s4
  refine ⟨s5, hzero, fun n hn => ?_, rfl⟩
  simpa using (List.mem_filter.mp hn).2

theorem State.destroyPart_ends (s : State) (part : Nat) :
    (s.destroyPart part).partState part = 0 ∧ (s.destroyPart part).pcmd part = 0 ∧ (∀ n ∈ (s.destroyPart part).nodes, n.part ≠ part) ∧
      ∀ o ∈ nextOffsets, (s.destroyPart part).cur part o = 0 := by
  obtain ⟨u, hzero, hnodes, he⟩ := s.destroyPart_eq part
  have hends := State.EndsPcmd.endPcmd ((u.setField (descAddr part 0) 0 7 0).setPartState part 0) part
  rw [he]
  refine ⟨?_, State.pcmd_endPcmd _ part, hnodes, fun o ho => ?_⟩
  · rw [hends.partState, State.partState, State.setPartState, State.reg64_setField_self, getBits_setBits_self _ _ (by decide), Nat.zero_mod]
  · obtain ⟨hpos, hlt⟩ := nextOffsets_pos ho
    rw [hends.cur hpos (Nat.ne_of_lt hlt), State.cur, State.setPartState, State.reg64_setField_of_ne _ _ _ _ (descAddr_ne part hpos),
      State.reg64_setField_of_ne _ _ _ _ (descAddr_ne part hpos), hzero o ho]

end Sys2Proof.Machine
end

section
/-! RELEASE (R421, R422), and FACT on a record that stands (R420). -/

namespace Sys2Proof.Machine
open Sys2Proof.Claims

variable {s u : State} {part : Nat}

/-! ## The strand at a place -/

/-- The strand is one that `strandAt` finds at a place, and the change that `updateAt` makes of it. -/
def Strand.standsAt (place : Nat) (t : Strand) : Bool := t.place = place && t.run ≠ .vacant && t.run ≠ .ended
def Strand.changeAt (place : Nat) (f : Strand → Strand) (t : Strand) : Strand := if t.standsAt place then f t else t

theorem State.standsAt_of_strandAt {place : Nat} {t : Strand} (h : s.strandAt place = some t) : t.standsAt place = true :=
  List.find?_some (p := Strand.standsAt place) h

theorem State.place_of_strandAt {place : Nat} {t : Strand} (h : s.strandAt place = some t) : t.place = place := by
  have hstands := State.standsAt_of_strandAt h
  simp only [Strand.standsAt, Bool.and_eq_true, decide_eq_true_eq] at hstands
  exact hstands.1.1

/-- A change that leaves strands standing where they are reaches the strand at its place. -/
theorem State.strandAt_updateAt {place : Nat} {t : Strand} {f : Strand → Strand} (h : s.strandAt place = some t)
    (hf : ∀ x, x.standsAt place = true → (f x).standsAt place = true) : (s.updateAt place f).strandAt place = some (f t) := by
  have hstands : Strand.standsAt place ∘ Strand.changeAt place f = Strand.standsAt place := by
    funext x
    rw [Function.comp_apply, Strand.changeAt]
    split
    · next hx => rw [hx, hf x hx]
    · rfl
  have hfind : s.strands.find? (Strand.standsAt place) = some t := h
  have hmap : (s.updateAt place f).strandAt place = (s.strands.map (Strand.changeAt place f)).find? (Strand.standsAt place) := rfl
  rw [hmap, List.find?_map, hstands, hfind, Option.map_some, Strand.changeAt, if_pos (State.standsAt_of_strandAt h)]

theorem Strand.standsAt_resumeAt {t : Strand} {place : Nat} (point : Word) (h : t.standsAt place = true) : (t.resumeAt point).standsAt place = true := by
  simp only [Strand.standsAt, Bool.and_eq_true, decide_eq_true_eq] at h ⊢
  obtain ⟨⟨hplace, -⟩, -⟩ := h
  unfold Strand.resumeAt
  split
  · split
    · exact ⟨⟨hplace, nofun⟩, nofun⟩
    · exact ⟨⟨hplace, nofun⟩, nofun⟩
  · split
    · exact ⟨⟨hplace, nofun⟩, nofun⟩
    · exact ⟨⟨hplace, nofun⟩, nofun⟩

/-! ## RELEASE -/

theorem exec_release (h : s.asked part 4 = true) : exec (.release part) s = .next (s.releasePart part) := congrArg Host.Outcome.next (if_pos h)

/-- A VF that is not frozen needs no thaw. -/
theorem State.thawVf_of_ne (h : s.partState part ≠ 3) : s.thawVf part = s := if_pos h

/-- A frozen VF that is thawed is active, or goes on resizing. -/
theorem State.partState_thawVf (hp : part < 32) (h : s.partState part = 3) :
    (s.thawVf part).partState part = if s.resizing part then 2 else 1 := by
  have hkeeps : (s.setPartState part (if s.resizing part then 2 else 1)).KeepsDescriptors (s.thawVf part) := by
    unfold State.thawVf
    rw [if_neg (not_not_intro h)]
    exact (State.KeepsDescriptors.refl _).replayHost.appendHeld.flushRecords
  rw [State.partState, hkeeps.word hp (by decide), State.setPartState, State.reg64_setField_self, getBits_setBits_self _ _ (by decide)]
  split <;> rfl

/-- The restart point of the record by which a strand of a partition is frozen. -/
def State.frozenPoint (s : State) (part seq : Nat) : Word :=
  match s.records.find? fun r => r.ring = part && r.seq = seq && r.pending with | some r => r.words.getD 5 0 | none => 0

theorem State.thaw_frozen {t : Strand} {q : Nat} (h : t.run = .frozen q) :
    s.thaw t = (s.clearRecord t.part q).updateAt t.place (Strand.resumeAt · (s.frozenPoint t.part q)) := by
  unfold State.thaw
  split
  · next seq hrun =>
    cases h.symm.trans hrun
    rfl
  · next hrun => exact absurd h (hrun q)

/-- The command that has frozen its queue is dropped, and the queue is not frozen any more. -/
theorem State.thawQueue_of_froze {c : Cmd} (h : s.froze c = true) :
    ∃ v, s.KeepsDescriptors v ∧ v.Dropped c.id ∧ s.thawQueue c = { v with frozenQ := setErase c.queue v.frozenQ } := by
  unfold State.thawQueue
  split
  · next seq _ =>
    rw [if_pos h]
    obtain ⟨hkeeps, hdropped⟩ := (s.clearRecord c.part seq).stopCmd_drops c
    have hmark := (State.KeepsDescriptors.refl ((s.clearRecord c.part seq).stopCmd c .dropped)).markNode
      (part := c.part) (node := c.node) (state := 2) (nerr := 5)
    exact ⟨_, ((State.KeepsDescriptors.refl s).clearRecord.trans hkeeps).trans hmark, hmark.dropped _ hdropped, rfl⟩
  · next hphase =>
    unfold State.froze at h
    split at h
    · next q hq => exact absurd hq (hphase q)
    · cases h

/-- Without a strand or a command of the partition only its VF is thawed. -/
theorem State.releasePart_of_idle (hmine : (s.strands.filter fun t => t.live && decide (t.part = part)) = [])
    (hcmds : (s.cmds.filter fun c => c.part = part) = []) : s.releasePart part = (s.thawVf part).endOp part 4 := by
  simp only [State.releasePart, hmine, List.foldl_nil, hcmds]

/-- A lone frozen strand of the partition goes on as RESUME-STRAND would have it. -/
theorem State.strandAt_releasePart {t : Strand} {q : Nat} (hmine : (s.strands.filter fun t => t.live && decide (t.part = part)) = [t])
    (hcmds : (s.cmds.filter fun c => c.part = part) = []) (hvf : s.partState part ≠ 3) (hat : s.strandAt t.place = some t)
    (hrun : t.run = .frozen q) : (s.releasePart part).strandAt t.place = some (t.resumeAt (s.frozenPoint part q)) := by
  have hpart : t.part = part := by
    have hin : t ∈ s.strands.filter fun t => t.live && decide (t.part = part) := hmine ▸ List.mem_singleton_self t
    simpa using (Bool.and_eq_true_iff.mp (List.mem_filter.mp hin).2).2
  have hrelease : s.releasePart part =
      ((s.clearRecord part q).updateAt t.place (Strand.resumeAt · (s.frozenPoint part q))).endOp part 4 := by
    simp only [State.releasePart, hmine, List.foldl_cons, List.foldl_nil, State.thaw_frozen hrun, hpart]
    have hcmds' : (((s.clearRecord part q).updateAt t.place (Strand.resumeAt · (s.frozenPoint part q))).cmds.filter fun c => c.part = part) = [] := hcmds
    rw [hcmds', List.foldl_nil, State.thawVf_of_ne]
    exact hvf
  rw [hrelease, (State.EndsPcmd.endOp _ part 4).rest]
  exact State.strandAt_updateAt (s := s.clearRecord part q) hat fun x hx => Strand.standsAt_resumeAt _ hx

/-- A lone command of the partition that has frozen its queue is dropped, and the queue accepts commands again. -/
theorem State.frozenQ_releasePart {c : Cmd} (hp : part < 32) (hmine : (s.strands.filter fun t => t.live && decide (t.part = part)) = [])
    (hcmds : (s.cmds.filter fun c => c.part = part) = [c]) (hvf : s.partState part ≠ 3) (hfroze : s.froze c = true) :
    (s.releasePart part).frozenQ = setErase c.queue s.frozenQ ∧ (s.releasePart part).Dropped c.id := by
  obtain ⟨v, hkeeps, hdropped, hthaw⟩ := State.thawQueue_of_froze hfroze
  have hstate : v.partState part ≠ 3 := by
    rw [State.partState, hkeeps.word hp (by decide)]
    exact hvf
  have hrelease : s.releasePart part = ({ v with frozenQ := setErase c.queue v.frozenQ } : State).endOp part 4 := by
    simp only [State.releasePart, hmine, List.foldl_nil, hcmds, List.foldl_cons, hthaw]
    rw [State.thawVf_of_ne]
    exact hstate
  rw [hrelease, (State.EndsPcmd.endOp _ part 4).rest]
  exact ⟨congrArg (setErase c.queue) hkeeps.frozenQ, hdropped⟩

/-! ## FACT -/

theorem exec_resumeStrand (hp : part < 32) (seq : Nat) (s : State) : exec (.resumeStrand part seq) s = .next (s.factResume part seq) :=
  congrArg Host.Outcome.next (if_pos hp)

theorem exec_kill (hp : part < 32) (seq : Nat) (s : State) : exec (.kill part seq) s = .next (s.factKill part seq) :=
  congrArg Host.Outcome.next (if_pos hp)

section
variable {seq : Nat} (hp : part < 32)
include hp

theorem fact_without_record (h : standing s part seq = none) :
    exec (.resumeStrand part seq) s = .next (s.setReg64 (vfAddr part 0x60) 1) ∧ exec (.kill part seq) s = .next (s.setReg64 (vfAddr part 0x60) 1) := by
  have hnone : s.pendingRecord part seq = none := h
  rw [exec_resumeStrand hp, exec_kill hp, State.factResume, State.factKill, hnone]
  exact ⟨rfl, rfl⟩

variable {r : Record} (h : standing s part seq = some r)
include h

theorem fact_suspended {p : Nat} {t : Strand} (hk : r.kind = 0) (hplace : r.place = some p) (ht : s.strandAt p = some t) (hrun : t.run = .suspended seq) :
    exec (.resumeStrand part seq) s = .next ((acted s part seq).updateAt p fun x => x.resumeAt (r.words.getD 5 0)) ∧
      exec (.kill part seq) s = .next (((acted s part seq).drainAll (coreOf p)).endStrand p .zero (some (r.words.getD 2 0))) := by
  have hsome : s.pendingRecord part seq = some r := h
  rw [exec_resumeStrand hp, exec_kill hp]
  simp only [State.factResume, State.factKill, hsome, hk, hplace, Option.bind_some, ht, hrun, if_true, State.place_of_strandAt ht]
  exact ⟨rfl, rfl⟩

theorem fact_not_suspended {p : Nat} {t : Strand} (hk : r.kind = 0) (hplace : r.place = some p) (ht : s.strandAt p = some t) (hrun : t.run ≠ .suspended seq) :
    exec (.resumeStrand part seq) s = .next (s.setReg64 (vfAddr part 0x60) 1) ∧ exec (.kill part seq) s = .next (s.setReg64 (vfAddr part 0x60) 1) := by
  have hsome : s.pendingRecord part seq = some r := h
  rw [exec_resumeStrand hp, exec_kill hp]
  simp only [State.factResume, State.factKill, hsome, hk, hplace, Option.bind_some, ht, hrun, if_true, if_false]
  exact ⟨rfl, rfl⟩

theorem fact_stopped {c : Cmd} (hk : r.kind = 1) (hc : (s.cmds.find? fun c => some c.id = r.cmd && c.phase = .faulted seq) = some c) :
    exec (.resumeStrand part seq) s = .next ((acted s part seq).setCmd c.resumed) ∧
      exec (.kill part seq) s = .next (((acted s part seq).stopCmd c .dropped).markNode part c.node 2 5) := by
  have hsome : s.pendingRecord part seq = some r := h
  rw [exec_resumeStrand hp, exec_kill hp]
  simp only [State.factResume, State.factKill, hsome, hk, hc, if_true, if_neg Nat.one_ne_zero]
  exact ⟨rfl, rfl⟩

theorem fact_other_kind (h0 : r.kind ≠ 0) (h1 : r.kind ≠ 1) :
    exec (.resumeStrand part seq) s = .next (s.setReg64 (vfAddr part 0x60) 1) ∧ exec (.kill part seq) s = .next (s.setReg64 (vfAddr part 0x60) 1) := by
  have hsome : s.pendingRecord part seq = some r := h
  rw [exec_resumeStrand hp, exec_kill hp]
  simp only [State.factResume, State.factKill, hsome, h0, h1, if_false]
  exact ⟨rfl, rfl⟩

end

end Sys2Proof.Machine
end

section
/-! The partition commands' conditions (R413, R414, R417, R431): which of their effects a state meets. -/

namespace Sys2Proof.Machine
open Sys2Proof.Claims

variable {s : State} {part : Nat}

theorem exec_create_refused (h1 : s.pcmd part = 1) (h : s.partState part ≠ 0 ∨ s.nextOk part = false) :
    exec (.create part) s = .next (s.refusePcmd part) := by
  have hrefuse : (s.partState part ≠ 0 || !s.nextOk part) = true := by simpa using h
  exact congrArg Host.Outcome.next ((if_neg (not_not_intro h1)).trans (if_pos hrefuse))

theorem exec_create (h1 : s.pcmd part = 1) (h0 : s.partState part = 0) (hok : s.nextOk part = true) :
    exec (.create part) s = .next (s.createPart part) := by
  have hgo : ¬ (s.partState part ≠ 0 || !s.nextOk part) = true := by simp [h0, hok]
  exact congrArg Host.Outcome.next ((if_neg (not_not_intro h1)).trans (if_neg hgo))

section
variable (h2 : s.pcmd part = 2)
include h2

theorem exec_resize_refused (hr : s.resizing part = false) (h : s.partState part = 0 ∨ s.nextOk part = false) :
    exec (.resize part) s = .next (s.refusePcmd part) := by
  have hrefuse : (s.partState part = 0 || !s.nextOk part) = true := by simpa using h
  exact congrArg Host.Outcome.next ((if_neg (not_not_intro h2)).trans ((if_neg (by rw [hr]; exact Bool.false_ne_true)).trans (if_pos hrefuse)))

theorem exec_resize_begins (hr : s.resizing part = false) (h0 : s.partState part ≠ 0) (hok : s.nextOk part = true) :
    exec (.resize part) s = .next ((s.addNext part).workResize part) := by
  have hgo : ¬ (s.partState part = 0 || !s.nextOk part) = true := by simp [h0, hok]
  exact congrArg Host.Outcome.next ((if_neg (not_not_intro h2)).trans ((if_neg (by rw [hr]; exact Bool.false_ne_true)).trans (if_neg hgo)))

theorem exec_resize_goes_on (hr : s.resizing part = true) : exec (.resize part) s = .next (s.workResize part) :=
  congrArg Host.Outcome.next ((if_neg (not_not_intro h2)).trans (if_pos hr))

end

section
variable (h3 : s.asked part 3 = true)
include h3

theorem exec_destroy_refused (h0 : s.partState part = 0) : exec (.destroy part) s = .next (s.refusePcmd part) := by
  have hgo : ¬ (!s.asked part 3) = true := by simp [h3]
  exact congrArg Host.Outcome.next ((if_neg hgo).trans (if_pos h0))

theorem exec_destroy (h0 : s.partState part ≠ 0) : exec (.destroy part) s = .next (s.destroyPart part) := by
  have hgo : ¬ (!s.asked part 3) = true := by simp [h3]
  exact congrArg Host.Outcome.next ((if_neg hgo).trans (if_neg h0))

end

/-- No command of the kind is in progress: nothing changes. -/
theorem exec_partitionCommand_idle (part : Nat) (s : State) :
    (s.pcmd part ≠ 1 → exec (.create part) s = .next s) ∧ (s.pcmd part ≠ 2 → exec (.resize part) s = .next s) ∧
      (s.asked part 3 = false → exec (.destroy part) s = .next s) ∧ (s.asked part 4 = false → exec (.release part) s = .next s) := by
  refine ⟨fun h => congrArg _ (if_pos h), fun h => congrArg _ (if_pos h), fun h => congrArg _ (if_pos ?_), fun h => congrArg _ (if_neg ?_)⟩
  · rw [h]
    rfl
  · rw [h]
    exact Bool.false_ne_true

end Sys2Proof.Machine
end

section
open Sys2Proof Sys2Proof.Machine Sys2Proof.Claims

/-- Settles O58, command by command: what each makes of the descriptor's words, and what its records, drains and barriers leave of them. -/
theorem partitionCommandsComplete : Obligations.PartitionCommandsComplete := by
  unfold Obligations.PartitionCommandsComplete
  refine ⟨exec_partitionCommand_idle, fun part s h1 => ⟨fun h => ?_, fun h0 hok => ?_⟩,
    fun part s h2 => ⟨exec_resize_refused h2, fun hr h0 hok => ?_, fun hr => ⟨?_, ?_⟩⟩,
    fun part s h3 => ⟨exec_destroy_refused h3, fun h0 => ?_⟩, fun part s h4 => ?_, fun part seq s hp h => fact_without_record hp h,
    fun part seq s r hp h => ⟨fun p t => fact_suspended hp h, fun p t => fact_not_suspended hp h, fun c => fact_stopped hp h, fact_other_kind hp h⟩⟩
  · obtain ⟨hp, hbusy, -⟩ := State.busy_of_pcmd h1 (by decide)
    exact ⟨_, exec_create_refused h1 h, State.refusePcmd_sets hp hbusy⟩
  · exact ⟨_, exec_create h1 h0 hok, rfl, State.createPart_takes h0 hok⟩
  · exact ⟨exec_resize_begins h2 hr h0 hok, State.addNext_adds h2⟩
  · exact exec_resize_goes_on h2 hr
  · intro hc hb
    obtain ⟨hpcmd, hstate, hwords⟩ := State.workResize_takes h2 hc hb
    exact ⟨_, exec_resize_goes_on h2 hr, hpcmd, hstate, hwords,
      fun hclusters hbands o ho => (hwords o ho).trans (State.nextLeft_eq_nextDesc hclusters hbands)⟩
  · exact ⟨_, exec_destroy h3 h0, State.destroyPart_ends s part⟩
  · have hp := State.lt_of_asked h4
    refine ⟨exec_release h4, fun hm hc hvf => ?_, fun h hm hc => ?_, fun hvf hc t q hm hat hrun => State.strandAt_releasePart hm hc hvf hat hrun,
      fun hvf hm c hc hfroze => State.frozenQ_releasePart hp hm hc hvf hfroze⟩
    · rw [State.releasePart_of_idle hm hc, State.thawVf_of_ne hvf]
    · rw [State.releasePart_of_idle hm hc, (State.EndsPcmd.endOp _ part 4).partState, State.partState_thawVf hp h]

end

section
/-! Vector-scalar forms (R186), and why O32 does not hold of every state: as for the forms between purses (O30), two commands of one number let a
form under the governing mask change another mask than its own. -/

namespace Sys2Proof.Machine
open Sys2Proof.Claims

/-- VADDS v0, v0, s[0] under k1 ends with the first command's chunk told in k2. -/
theorem scalarAdd_tells : firstBitOfK2 (exec (.vadds 0 0 0 false true) twinCommands) = some true := by decide +kernel

end Sys2Proof.Machine
end

section
open Sys2Proof Sys2Proof.Machine Sys2Proof.Claims

/-- Refutes O32: in `twinCommands`, where two commands have one number, a VADDS under k1 changes k2. -/
theorem not_vectorScalarCompletes : ¬ Obligations.VectorScalarCompletes := by
  rintro ⟨hscalar, -⟩
  obtain ⟨t, ht, hdone⟩ := hscalar _ (.head _) 0 0 0 false true twinCommands twinCommands_useOk twinCommands_useOk twinCommands_fresh
    twinCommands_maskFree
  exact masks_ne_of_tells twinCommands_k2 scalarAdd_tells ht (masks_of_walkDone hdone)

end

section
/-! BARI on a barrier that joins a level of a live launch (R238), and why O45 does not hold of every state. The claim takes a PROTECTION without a
restart point; the model keeps a point that stands armed for the instruction with every trap before an effect (R145). O45 does not ask that none
is armed. -/

namespace Sys2Proof.Machine
open Sys2Proof.Claims

/-- A launch whose level 0 has two members and joins at barrier 0. -/
def twoMemberLaunch : Launch := { oneStrandLaunch with levels := [2] }

/-- A strand of `twoMemberLaunch` at pc 0, with a restart point armed for its instruction there. -/
def armedMember : State :=
  { State.reset with strand := { governedByOnes with pc := 0, armed := some (0, 5) }, launches := [twoMemberLaunch] }

/-- The restart point that stands armed for the acting strand in the state an outcome gives. -/
def armedOf : Result → Option (Addr × Word)
  | .next t => t.strand.armed
  | _ => none

theorem armedMember_joins :
    ∃ l ∈ armedMember.launches, (∃ lev, l.levelOf 0 = some lev) ∧ ∃ m ∈ l.strands, coreOf m.2 = coreOf armedMember.strand.place :=
  ⟨twoMemberLaunch, .head _, ⟨0, by decide⟩, (0, 0), .head _, by decide⟩

/-- The PROTECTION of the BARI leaves the point armed for the resume. -/
theorem bari_keepsArmed : armedOf (exec (.bari 0 0) armedMember) = some (0, 5) := by decide +kernel

/-- A PROTECTION without a restart point leaves none. -/
theorem protection_disarms :
    (armedMember.takeTrap true armedMember.strand.pc { plainTrap 0x11 0 with sub := 1 }).strand.armed = none := by decide +kernel

end Sys2Proof.Machine
end

section
open Sys2Proof Sys2Proof.Machine Sys2Proof.Claims

/-- Refutes O45: in `armedMember`, a BARI that takes PROTECTION keeps the armed restart point, where the claim's trap drops it. -/
theorem not_barriersComplete : ¬ Obligations.BarriersComplete := by
  rintro ⟨hforms, -⟩
  obtain ⟨-, -, hbari⟩ := hforms 0 armedMember
  have htrap := (hbari 0).2 armedMember_joins
  have hkept := bari_keepsArmed
  rw [htrap] at hkept
  exact absurd (hkept.symm.trans protection_disarms) nofun

end

section
/-! VAPPEND to a queue word among the device registers, and why O43 does not hold of every state. In a D context the append's accesses are plain
(R209), and a strand of the physical function may aim them at a fault ring's registers, whose FQBASE, FQHEAD and FQTAIL then pass for base,
capacity and head, and FACT for the tail. The new tail is a write to FACT, a RESUME-STRAND (R142). It wakes a strand that was suspended while it
waited at a barrier behind that wait (R288), and the append then advances the pc once more. O43 does not ask that the strand is one that runs. -/

namespace Sys2Proof.Machine
open Sys2Proof.Claims

/-- A posted record of VF 0's fault ring that stops the strand at place 0. -/
def pendingFault : Record :=
  { ring := 0, seq := 0, kind := 0, words := [], place := some 0, cmd := none, posted := true, pending := true }

/-- A strand of the physical function in a D context, suspended while it waited at barrier 0, whose s[1] is the address of VF 0's FQBASE and whose
k1 selects index 0. -/
def suspendedAtBarrier : Strand :=
  { governedByOnes with
    part := 32, run := .suspended 0, barHeld := some 0, st := { Strand.reset.st with d := true },
    sregs := Strand.reset.sregs.set 1 (.of 0x20040000040), masks := Strand.reset.masks.set 1 { bits := 1, tarn := false } }

/-- The strand's record is pending, and FQHEAD, the queue word's capacity, is 1. -/
def faultRingQueue : State :=
  { State.reset with strand := suspendedAtBarrier, dev := [(0x20040000048, 1)], records := [pendingFault] }

/-- The pc of the acting strand in the state that an outcome gives. -/
def pcOf : Result → Option Addr
  | .next t => some t.strand.pc
  | _ => none

/-- The append advances the strand that its own store has advanced already. -/
theorem append_advancesTwice : pcOf (exec (.vappend 1 1) faultRingQueue) = some 8 := by decide +kernel

theorem faultRingQueue_fresh : Fresh faultRingQueue := by
  unfold Fresh
  decide +kernel

theorem faultRingQueue_indexes : (List.range 4096).filter (fun j => (maskOf faultRingQueue 1).bits.getLsbD j) = [0] := by decide +kernel

/-- A run ends with a value and a state that meet a test. -/
def okWith {α : Type} (r : EStateM.Result Stop State α) (test : α → State → Bool) : Bool :=
  match r with
  | .ok v t => test v t
  | .error _ _ => false

theorem exists_of_okWith {α : Type} {r : EStateM.Result Stop State α} {test : α → State → Bool} (h : okWith r test = true) :
    ∃ v t, r = .ok v t ∧ test v t = true := by
  match r with
  | .ok v t => exact ⟨v, t, rfl, h⟩
  | .error _ _ => cases h

/-- The queue word's fields: base 0, capacity 1, and head, tail, MARK, IBASE and barrier 0. -/
def ringWord : List Byte := leBytes 8 0 ++ leBytes 8 1 ++ leBytes 48 0

/-- VAPPEND's steps on the queue of `faultRingQueue`, one after the other: all go through. -/
theorem append_goesThrough : ∃ ws s1 hs s2 s3 es s4 eh s5 s6 s7,
    checkWordsAligned (appendAcc true) (val faultRingQueue 1) faultRingQueue = .ok ws s1 ∧ homeWords 8 ws s1 = .ok hs s2 ∧
    loadWords hs 64 s2 = .ok (ringWord, false) s3 ∧ checkEntries (appendAcc true) 0 1 0 1 s3 = .ok es s4 ∧ homeWords 4 es s4 = .ok eh s5 ∧
    storeEntries false 0 eh [0] s5 = .ok () s6 ∧ storeWords false ((hs.drop 3).take 1) (leBytes 8 1) s6 = .ok () s7 := by
  obtain ⟨ws, s1, hws, hrest⟩ := exists_of_okWith (r := checkWordsAligned (appendAcc true) (val faultRingQueue 1) faultRingQueue)
    (test := fun ws s1 => okWith (homeWords 8 ws s1) fun hs s2 => okWith (loadWords hs 64 s2) fun r s3 => decide (r = (ringWord, false)) &&
      okWith (checkEntries (appendAcc true) 0 1 0 1 s3) fun es s4 => okWith (homeWords 4 es s4) fun eh s5 =>
        okWith (storeEntries false 0 eh [0] s5) fun _ s6 => okWith (storeWords false ((hs.drop 3).take 1) (leBytes 8 1) s6) fun _ _ => true)
    (by decide +kernel)
  obtain ⟨hs, s2, hhs, hrest⟩ := exists_of_okWith hrest
  obtain ⟨r, s3, hr, hrest⟩ := exists_of_okWith hrest
  obtain ⟨hval, hrest⟩ := Bool.and_eq_true_iff.mp hrest
  obtain ⟨es, s4, hes, hrest⟩ := exists_of_okWith hrest
  obtain ⟨eh, s5, heh, hrest⟩ := exists_of_okWith hrest
  obtain ⟨_, s6, hentries, hrest⟩ := exists_of_okWith hrest
  obtain ⟨_, s7, htail, -⟩ := exists_of_okWith hrest
  exact ⟨ws, s1, hs, s2, s3, es, s4, eh, s5, s6, s7, hws, hhs, of_decide_eq_true hval ▸ hr, hes, heh, hentries, htail⟩

/-- No clean range stops untarnished entries (R110). -/
theorem cleanEntries_untarnished (s : State) : ∀ l : List (Xl × Word), cleanEntries false l s = .ok () s
  | [] => rfl
  | _ :: l => cleanEntries_untarnished s l

end Sys2Proof.Machine
end

section
open Sys2Proof Sys2Proof.Machine Sys2Proof.Claims

/-- Refutes O43: in `faultRingQueue`, a VAPPEND with room, whose store of the tail resumes its own strand, ends 8 bytes on, and not at pc + 4. -/
theorem not_spillsAndAppendsComplete : ¬ Obligations.SpillsAndAppendsComplete := by
  rintro ⟨-, -, happend, -⟩
  obtain ⟨ws, s1, hs, s2, s3, es, s4, eh, s5, s6, s7, hws, hhs, hload, hes, heh, hentries, htail⟩ := append_goesThrough
  obtain ⟨-, hroom⟩ := happend 1 1 faultRingQueue s1 s2 s3 ws hs ringWord false faultRingQueue_fresh hws hhs hload (by decide)
  rw [faultRingQueue_indexes] at hroom
  have hends := (hroom (by decide) (by decide) (by decide) s4 s5 s6 s7 s7 es eh hes heh (cleanEntries_untarnished s5 eh) (.inl (by decide))
    hentries htail).1 (by decide)
  have hpc := append_advancesTwice
  rw [hends] at hpc
  exact absurd hpc (show some (4 : Addr) ≠ some 8 by decide)

end

section
/-! Mask logic (R202), SETVL and its group (R203, R204) and VCODE (R190): what each form's meaning does to the acting strand. -/

namespace Sys2Proof.Machine
open Sys2Proof.Claims

/-! ## Masks -/

/-- What a mask reads after a write: k0 is ones always, and a write changes the mask that it names (R30). -/
theorem Strand.mask_setMask (t : Strand) (d : BitVec 7) (m : KMask) (hd : d.toNat < 16) (k : Nat) :
    (t.setMask d.toNat m).mask k = if k = d.toNat ∧ d.toNat ≠ 0 then m else t.mask k := by
  by_cases h0 : d.toNat = 0
  · simp [Strand.setMask, h0]
  · by_cases hk : k = d.toNat
    · subst hk
      simp [Strand.setMask, Strand.mask, h0, Vector.getD, hd]
    · simp [Strand.setMask, Strand.mask, h0, hk, Vector.getD, Ne.symm hk]

/-- A write of a mask changes the masks and TARN.SEEN. -/
theorem Strand.setMask_frame (t : Strand) (n : Nat) (m : KMask) :
    ∃ u, t.setMask n m = { t with masks := (t.setMask n m).masks, ctl := t.ctl.seen u } := by
  by_cases h0 : n = 0
  · exact ⟨false, by simp [Strand.setMask, h0, Ctl.seen]⟩
  · exact ⟨m.tarn, by simp [Strand.setMask, h0]⟩

/-- The trailing zeros of a bit vector that is not 0 end at its lowest one. -/
theorem ctzAux_getLsbD {n : Nat} {k : BitVec n} (h0 : k ≠ 0) : ctzAux n k.toNat < n ∧ (∀ i < ctzAux n k.toNat, k.getLsbD i = false) ∧
    k.getLsbD (ctzAux n k.toNat) = true :=
  ctzAux_spec n k.toNat (Nat.pos_of_ne_zero fun h => h0 (BitVec.eq_of_toNat_eq (by simpa using h))) k.isLt

/-- The lowest index of a one, 4,096 where there is none (R202). -/
theorem maskFirst_spec (k : MaskBits) : maskFirst k ≤ 4096 ∧ (∀ i < maskFirst k, k.getLsbD i = false) ∧
    (maskFirst k < 4096 → k.getLsbD (maskFirst k) = true) := by
  by_cases h0 : k = 0
  · subst h0
    simp [maskFirst]
  · obtain ⟨hlt, hlow, hset⟩ := ctzAux_getLsbD h0
    rw [maskFirst, if_neg h0]
    exact ⟨hlt.le, hlow, fun _ => hset⟩

theorem runStep_maskBinary (f : MaskBits → MaskBits → MaskBits) (d a b : BitVec 7) (s : State) :
    runStep true (maskBinary f d a b) s = .next (s.mapStrand fun t =>
      (t.setMask d.toNat { bits := f (maskOf s a).bits (maskOf s b).bits, tarn := (maskOf s a).tarn || (maskOf s b).tarn }).advance) :=
  runStep_ok (M.modify_run _ s)

theorem exec_maskRows {row : (BitVec 7 → BitVec 7 → BitVec 7 → Instr) × (MaskBits → MaskBits → MaskBits)} (hrow : row ∈ maskRows)
    (d a b : BitVec 7) (s : State) : exec (row.1 d a b) s = .next (s.mapStrand fun t =>
      (t.setMask d.toNat { bits := row.2 (maskOf s a).bits (maskOf s b).bits, tarn := (maskOf s a).tarn || (maskOf s b).tarn }).advance) := by
  simp only [maskRows, List.mem_cons, List.not_mem_nil, or_false] at hrow
  rcases hrow with rfl | rfl | rfl <;> exact runStep_maskBinary _ d a b s

/-- KNOT's second source is k0, which is untarnished. -/
theorem exec_knot (d a : BitVec 7) (s : State) : exec (.knot d a) s = .next (s.mapStrand fun t =>
    (t.setMask d.toNat { bits := ~~~(maskOf s a).bits, tarn := (maskOf s a).tarn }).advance) := by
  have hk0 : (maskOf s 0).tarn = false := rfl
  have hrun := runStep_maskBinary (fun p _ => ~~~p) d a 0 s
  rw [hk0, Bool.or_false] at hrun
  exact hrun

/-- What KCNT and KFIRST write (R202). -/
theorem runStep_maskToScalar (f : MaskBits → Nat) (d a : BitVec 7) (s : State) :
    runStep true (maskToScalar f d a) s = .next (wrote s d (BitVec.ofNat 64 (f (maskOf s a).bits)) (maskOf s a).tarn) :=
  runStep_wrote (M.modify_run _ s)

/-- A register write that depends on the acting strand alone, as GETVL's and VFRAME's (R204). -/
theorem runStep_setReg (f : Strand → Word) (d : BitVec 7) (s : State) :
    runStep true (modS fun t => t.setReg d (.of (f t))) s = .next (wrote s d (f s.strand) false) :=
  runStep_wrote (M.modS_run _ s)

theorem exec_setmask (n : BitVec 7) (s : State) : exec (.setmask n) s = .next ((goesTo s (s.strand.pc + 4)).mapStrand fun u =>
    { u with ctl := { u.ctl with amr := { val := n.setWidth 64, tarn := false } } }) := by
  change runStep true (modS fun t => { t with ctl := { t.ctl with amr := .of (n.setWidth 64) } }) s = _
  rw [runStep_ok (M.modS_run _ s)]
  rfl

/-! ## VCODE -/

theorem Strand.purseName_lt (t : Strand) (f : BitVec 7) : t.purseName f < 128 := by
  have hf := f.isLt
  unfold Strand.purseName
  split <;> omega

theorem Strand.purse_placePurse {t : Strand} {n : Nat} (hn : n < 128) (p : Purse) (k : Nat) :
    (t.placePurse n p).purse k = if k = n then p else t.purse k := by
  by_cases hk : k = n
  · subst hk
    simp [Strand.purse, Strand.placePurse, Vector.getD, hn]
  · simp [Strand.purse, Strand.placePurse, Vector.getD, hk, Ne.symm hk]

/-- The strand with a purse's tag changed (R190). -/
def retagged (s : State) (d n : BitVec 7) : State :=
  s.mapStrand fun t => (t.placePurse (purseOf s d) { t.purse (purseOf s d) with tag := n.setWidth 3 }).advance

theorem exec_vcode {d : BitVec 7} {s : State} (h : purseOf s d < s.strand.vregs) (n : BitVec 7) :
    exec (.vcode d n) s = .next (retagged s d n) := by
  have huse : useRegs [d] s = .ok () s := useRegs_ok (by simpa using h)
  have hrun : setTag d n s = .ok () (s.mapStrand fun t => t.placePurse (purseOf s d) { t.purse (purseOf s d) with tag := n.setWidth 3 }) :=
    (M.bind_ok huse).trans (M.modS_run _ s)
  exact runStep_ok hrun

theorem purse_retagged (s : State) (d n : BitVec 7) (k : Nat) : (retagged s d n).strand.purse k =
    if k = purseOf s d then { s.strand.purse k with tag := n.setWidth 3 } else s.strand.purse k := by
  have hput := Strand.purse_placePurse (t := s.strand) (s.strand.purseName_lt d) { s.strand.purse (purseOf s d) with tag := n.setWidth 3 } k
  by_cases hk : k = purseOf s d
  · subst hk
    exact hput
  · rw [if_neg hk]
    exact hput.trans (if_neg hk)

theorem exec_vcode_outOfRange {d : BitVec 7} {s : State} (h : s.strand.vregs ≤ purseOf s d) (n : BitVec 7) :
    exec (.vcode d n) s = .next (s.takeTrap true s.strand.pc { plainTrap 0x02 (BitVec.ofNat 64 (purseOf s d)) with resume := s.strand.armedHere }) :=
  runStep_trap (M.bind_error (useRegs_outOfRange (by simp [h])))

/-! ## SETVL -/

/-- The test by which SETVL waits: the strand leaves the core of its segment 0, and commands or stores of it are at work there (log 50). -/
theorem leaves_iff (s : State) : (s.strand.shifts && (s.cmdsAtWork s.strand || s.drainBlocked (coreOf s.strand.place))) = true ↔
    s.strand.shifts = true ∧ (s.cmdsAtWork s.strand = true ∨ s.drainBlocked (coreOf s.strand.place) = true) := by
  rw [Bool.and_eq_true, Bool.or_eq_true]

theorem exec_setvl_waits {s : State} (h : s.strand.shifts = true ∧ (s.cmdsAtWork s.strand = true ∨ s.drainBlocked (coreOf s.strand.place) = true))
    (d a b : BitVec 7) : exec (.setvl d a b) s = .next (waiting s) := by
  have hwait : setVl d a b s = .error .wait s := by
    rw [setVl, M.bind_ok (M.get_run s), (leaves_iff s).mpr h]
    rfl
  exact (runStep_wait hwait).trans (congrArg Host.Outcome.next s.waits_eq)

theorem exec_setvl_grants {s : State} (h : ¬ (s.strand.shifts = true ∧ (s.cmdsAtWork s.strand = true ∨ s.drainBlocked (coreOf s.strand.place) = true)))
    (d a b : BitVec 7) : exec (.setvl d a b) s = .next (wrote (s.setvl (val s a).toNat (val s b).toNat (tarn2 s a b)) d
      (BitVec.ofNat 64 (s.setvl (val s a).toNat (val s b).toNat (tarn2 s a b)).strand.grant) (tarn2 s a b)) := by
  refine runStep_wrote ?_
  rw [setVl, M.bind_ok (M.get_run s), Bool.eq_false_iff.mpr fun hc => h ((leaves_iff s).mp hc)]
  rfl

end Sys2Proof.Machine
end

section
open Sys2Proof Sys2Proof.Machine Sys2Proof.Claims

/-- Settles O37, form by form. -/
theorem masksAndGrantsComplete : Obligations.MasksAndGrantsComplete := by
  unfold Obligations.MasksAndGrantsComplete
  refine fun s => ⟨fun row hrow d a b => exec_maskRows hrow d a b s, fun d a => exec_knot d a s,
    fun d m t hd => ⟨t.mask_setMask d m hd, t.setMask_frame d.toNat m⟩, fun d a => ⟨_, runStep_maskToScalar maskOnes d a s, rfl⟩,
    fun d a => ⟨_, runStep_maskToScalar maskFirst d a s, maskFirst_spec _⟩,
    fun d => ⟨runStep_setReg (fun t => BitVec.ofNat 64 t.grant) d s, runStep_setReg (fun t => BitVec.ofNat 64 t.frame) d s⟩,
    fun n => exec_setmask n s, ?vcode,
    fun d n h => exec_vcode_outOfRange h n, fun d a b => ⟨fun h => exec_setvl_waits h d a b, fun h => exec_setvl_grants h d a b⟩⟩
  case vcode => exact fun d n h => ⟨_, exec_vcode h n, rfl, purse_retagged s d n, rfl, rfl⟩

end

section
/-! Engines at work (R230 to R233, R304, R355 to R361, R406): the events, and what an engine's work leaves of PEND. -/

namespace Sys2Proof.Machine
open Sys2Proof.Claims

/-! ## A command at work -/

/-- What a command has written leaves PEND of its barrier (R167, R229). -/
theorem State.fallPend_eq (u : State) (c : Cmd) : u.fallPend c.id c.landed = pendFallen u c := by
  unfold State.fallPend pendFallen
  cases u.cmd? c.id with
  | none => rfl
  | some x =>
    simp only [Bool.and_eq_true, decide_eq_true_eq, Option.isNone_iff_eq_none, and_assoc]
    rfl

/-- An engine's work on a command ends in a phase, or stops. -/
theorem State.work_worked (s : State) (c : Cmd) (m : Cmd → E CmdPhase) : Worked s c m (.next (s.work c m)) := by
  refine ⟨fun ph s1 h => ?_, fun x s1 h => ?_⟩
  · rw [State.work, h]
    exact congrArg Host.Outcome.next (State.fallPend_eq (inPhase s1 c ph) c)
  · rw [State.work, h]
    exact congrArg (fun u : State => Host.Outcome.next (u.engineStop c.id x)) (State.fallPend_eq s1 c)

/-! ## Copy engines -/

/-- The event of a copy engine's OP works on its next command, if it may start (R304). -/
theorem State.copyEvent_ready {s : State} {die eng op : Nat} {c : Cmd} (h : CopyReady s die eng c) (hop : c.op = op) (m : Cmd → E CmdPhase) :
    s.copyEvent die eng op m = s.work c m := by
  obtain ⟨hdie, heng, hfrozen, hnext, hstart⟩ := h
  have hhere : (4 ≤ die || 4 ≤ eng || s.frozenQ.contains (4 * die + eng)) = false := by
    simp only [hfrozen, Bool.or_false, Bool.or_eq_false_iff, decide_eq_false_iff_not]
    omega
  simp only [State.copyEvent, hhere, hnext, hop, hstart, decide_true, Bool.and_true, Bool.false_eq_true, if_false, if_true]

/-- Each event of a copy engine is the work of its OP. -/
theorem exec_copyRows {row : (Nat → Nat → Instr) × Nat × (Cmd → E CmdPhase)} (hrow : row ∈ copyRows) (die eng : Nat) (s : State) :
    exec (row.1 die eng) s = .next (s.copyEvent die eng row.2.1 row.2.2) := by
  simp only [copyRows, List.mem_cons, List.not_mem_nil, or_false] at hrow
  rcases hrow with rfl | rfl | rfl | rfl | rfl | rfl <;> rfl

/-! ## The phase in which the work of a copy engine ends -/

/-- Every end of an engine's work other than a stop is in phase `p`. -/
def EndsIn (p : CmdPhase) (m : E CmdPhase) : Prop := ∀ s ph t, m s = .ok ph t → ph = p

namespace EndsIn

variable {p : CmdPhase} {α : Type}

theorem pure : EndsIn p (Pure.pure p) := fun _ _ _ h => by
  cases h
  rfl

theorem bind {m : E α} {f : α → E CmdPhase} (h : ∀ a, EndsIn p (f a)) : EndsIn p (m >>= f) := fun s ph t hrun => by
  change EStateM.bind m f s = _ at hrun
  unfold EStateM.bind at hrun
  split at hrun
  · next a u _ => exact h a u ph t hrun
  · cases hrun

theorem ite {c : Prop} {_ : Decidable c} {m n : E CmdPhase} (h : EndsIn p m) (h' : EndsIn p n) : EndsIn p (if c then m else n) := by
  split <;> assumption

end EndsIn

theorem performCopy_ends (c : Cmd) : EndsIn .performed (performCopy c) := .bind fun _ => .bind fun _ => .pure

theorem performConvert_ends (c : Cmd) : EndsIn .performed (performConvert c) := by
  refine .bind fun _ => .bind fun s => ?_
  change EndsIn .performed (match s.cmd? c.id with | none => _ | some _ => _)
  cases s.cmd? c.id with
  | none => exact .pure
  | some x => exact .bind fun _ => .pure

theorem performHostCopy_ends (c : Cmd) : EndsIn .awaitHost (performHostCopy c) :=
  .ite .pure (.bind fun _ => .ite .pure (.bind fun _ => .pure))

/-- A HOSTCOPY waits for the host; the others have been performed. -/
theorem copyRows_end {row : (Nat → Nat → Instr) × Nat × (Cmd → E CmdPhase)} (hrow : row ∈ copyRows) (c : Cmd) :
    EndsIn (if row.2.1 = 5 then .awaitHost else .performed) (row.2.2 c) := by
  simp only [copyRows, List.mem_cons, List.not_mem_nil, or_false] at hrow
  rcases hrow with rfl | rfl | rfl | rfl | rfl | rfl
  · exact performCopy_ends c
  · exact performCopy_ends c
  · exact performCopy_ends c
  · exact performConvert_ends c
  · exact performHostCopy_ends c
  · exact performCopy_ends c

/-! ## REDUCE -/

/-- An engine of a queue works on a command that has met fewer than two failures (R361). -/
theorem State.workOn_worked {s : State} {queue : Nat} {c : Cmd} (h : c.fails + s.upsetOf (1024 + queue) < 2) (m : Cmd → E CmdPhase) :
    Worked ((s.clearUpset (1024 + queue)).updateCmd c.id fun x => { x with fails := c.fails + s.upsetOf (1024 + queue) }) c m
      (.next (s.workOn queue c m)) := by
  have hmet : ¬ 2 ≤ c.fails + s.upsetOf (1024 + queue) := by omega
  simp only [State.workOn, hmet, if_false]
  exact State.work_worked _ c m

/-- A second failure of the command stops it with MACHINE_CHECK owed (R361). -/
theorem State.workOn_failed {s : State} {queue : Nat} {c : Cmd} (h : 2 ≤ c.fails + s.upsetOf (1024 + queue)) (m : Cmd → E CmdPhase) :
    s.workOn queue c m = ((((s.clearUpset (1024 + queue)).updateCmd c.id fun x => { x with fails := c.fails + s.upsetOf (1024 + queue) }).chronicle
      (2 ^ 14 + queue % 8) c.part 0x18 0 0).stopOwing c 0x18 0 0) := by
  simp only [State.workOn, h, if_true]

theorem exec_reduce {stack : Nat} {s : State} {c : Cmd} (hstack : stack < 8) (hfrozen : s.frozenQ.contains (16 + stack) = false)
    (hnext : s.nextQueued (16 + stack) = some c) (hhead : ∀ o ∈ s.cmds, o.queue = 16 + stack → o.id < c.id → ∀ n, o.phase ≠ .faulted n) :
    exec (.reduce stack) s = .next (s.workOn c.queue c performReduce) := by
  have hfirst : (s.cmds.any fun o => o.queue = 16 + stack && decide (o.id < c.id) && (match o.phase with | .faulted _ => true | _ => false)) = false := by
    rw [List.any_eq_false]
    intro o ho hbusy
    simp only [Bool.and_eq_true, decide_eq_true_eq] at hbusy
    obtain ⟨⟨hqueue, hid⟩, hphase⟩ := hbusy
    split at hphase
    · next n hn => exact hhead o ho hqueue hid n hn
    · cases hphase
  change execReduce stack s = _
  simp only [execReduce, hfrozen, hnext, Bool.or_false, decide_eq_true_eq, Nat.not_le.mpr hstack, if_false]
  exact if_neg (Bool.eq_false_iff.mp hfirst)

/-- PCIE_COMPLETION performs the rest of a HOSTCOPY that waits for the host (R406). -/
theorem exec_pcieCompletion {s : State} {cmd : Nat} {c : Cmd} (hc : s.cmd? cmd = some c) (hphase : c.phase = .awaitHost)
    (hfrozen : s.frozenQ.contains c.queue = false) : exec (.pcieCompletion cmd) s = .next (s.work c performCompletion) := by
  change execPcieCompletion cmd s = _
  simp only [execPcieCompletion, hc, hphase, hfrozen, decide_true, Bool.not_false, Bool.and_true, if_true]

/-! ## Completions (R229) -/

theorem State.signalled_eq {s : State} {c : Cmd} (h : c.node = none) : s.signalled c = signalledAt s c := by
  simp only [State.signalled, h, Option.isNone_none, if_true]
  rfl

theorem State.complete_barrier {s : State} {c : Cmd} (hck : c.ck = 0) (hnode : c.node = none) :
    s.complete c = signalledAt ((s.setBarrier (s.barrier (coreOf c.place) c.ca c.group)).evalBarrier (s.barrier (coreOf c.place) c.ca c.group)) c := by
  rw [← State.signalled_eq hnode]
  simp only [State.complete, hck, hnode]
  rfl

theorem State.complete_chunks {s : State} {c : Cmd} (hck : c.ck = 1) (hnode : c.node = none) :
    s.complete c = signalledAt (chunksTold s c c.untold) c := by
  rw [← State.signalled_eq hnode]
  simp only [State.complete, hck, hnode]
  rfl

theorem State.complete_token {s t : State} {c : Cmd} (hck : c.ck = 2) (hnode : c.node = none) (h : writeToken c s = .ok () t) :
    s.complete c = signalledAt t c := by
  rw [← State.signalled_eq hnode]
  simp only [State.complete, hck, hnode, h]
  rfl

theorem State.complete_tokenStops {s t : State} {c : Cmd} {x : EngStop} (hck : c.ck = 2) (hnode : c.node = none)
    (h : writeToken c s = .error x t) : s.complete c = t.engineStop c.id x := by
  simp only [State.complete, hck, hnode, h]
  rfl

theorem State.canSignal_iff (s : State) (c : Cmd) :
    s.canSignal c = true ↔ c.phase = .performed ∧ s.inOrder c = true ∧ s.frozenQ.contains c.queue = false := by
  simp only [State.canSignal, Bool.and_eq_true, decide_eq_true_eq, Bool.not_eq_true', and_assoc]

theorem Cmd.isOpen_of {c : Cmd} (hs : c.phase ≠ .signalled) (hd : c.phase ≠ .dropped) : c.isOpen = true := by
  unfold Cmd.isOpen
  split
  · next h => exact absurd h hs
  · next h => exact absurd h hd
  · rfl

/-- A command that can signal signals, unless chunks are left to tell before its last. -/
theorem exec_completion_signals {s : State} {cmd : Nat} {c : Cmd} (hc : s.cmd? cmd = some c)
    (hmay : c.phase = .performed ∧ s.inOrder c = true ∧ s.frozenQ.contains c.queue = false) (hlast : c.ck = 1 → c.untold.length ≤ 1) :
    exec (.engineCompletion cmd) s = .next (s.complete c) := by
  have hsignal := (s.canSignal_iff c).mpr hmay
  change execEngineCompletion cmd s = _
  by_cases hck : c.ck = 1
  · simp only [execEngineCompletion, hc, hsignal, hlast hck, decide_true, Bool.and_true, Bool.not_true, Bool.and_false, Bool.false_eq_true, if_false,
      if_true]
  · simp only [execEngineCompletion, hc, hsignal, hck, decide_false, Bool.false_and, Bool.false_eq_true, if_false, if_true]

/-- One of the chunks that can be told is told. -/
theorem State.nextChunk_mem {s : State} {c : Cmd} (h : c.tellable ≠ []) : s.nextChunk c ∈ c.tellable := by
  have hlt : Config.pick s.fresh % c.tellable.length < c.tellable.length := Nat.mod_lt _ (List.length_pos_iff.mpr h)
  rw [State.nextChunk, List.getD_eq_getElem?_getD, List.getElem?_eq_getElem hlt, Option.getD_some]
  exact List.getElem_mem hlt

theorem exec_completion_tells {s : State} {cmd : Nat} {c : Cmd} (hc : s.cmd? cmd = some c) (hnode : c.node = none) (hck : c.ck = 1)
    (hfrozen : s.frozenQ.contains c.queue = false) (hopen : c.isOpen = true) (htell : c.tellable ≠ [])
    (hleft : ¬ ((c.phase = .performed ∧ s.inOrder c = true ∧ s.frozenQ.contains c.queue = false) ∧ c.untold.length ≤ 1)) :
    exec (.engineCompletion cmd) s = .next (chunksTold { s with fresh := s.fresh + 1 } c [s.nextChunk c]) := by
  have hmore : (s.canSignal c && decide (c.untold.length ≤ 1)) = false := by
    rw [Bool.eq_false_iff]
    intro h
    rw [Bool.and_eq_true, s.canSignal_iff c, decide_eq_true_eq] at h
    exact hleft h
  change execEngineCompletion cmd s = _
  simp only [execEngineCompletion, hc, hnode, hck, hfrozen, hopen, hmore, Option.isNone_none, decide_true, Bool.and_true, Bool.not_false,
    htell, ne_eq, not_false_eq_true, if_true]
  rfl

end Sys2Proof.Machine
end

section
/-! A physical FILL or COPY within one line of HBM (R230, R232): its one read and its one write go through. -/

namespace Sys2Proof.Machine
open Sys2Proof.Claims

/-! ## Engine steps -/

theorem E.bind_ok {α β : Type} {m : E α} {f : α → E β} {s t : State} {a : α} (h : m s = .ok a t) : (m >>= f) s = f a t := by
  simp only [bind, EStateM.bind, h]

theorem E.get_run (s : State) : (get : E State) s = .ok s s := rfl
theorem E.modify_run (f : State → State) (s : State) : (modify f : E PUnit) s = .ok ⟨⟩ (f s) := rfl

/-- A byte of HBM that a physical command reaches: it is the partition's, its page is not locked, no store waits in the core's FIFO, and no bit has
flipped. -/
structure Reachable (s : State) (c : Cmd) (k : Nat) : Prop where
  inHbm : k < hbmEnd
  owned : s.inRanges c.part k = true
  unlocked : s.locked.contains (k / 4096) = false
  noStores : (s.core (coreOf c.place)).fifo = []
  noFlips : s.flips = []

theorem regionOf_hbm {k : Nat} (h : k < hbmEnd) : regionOf k = .hbm (k / hbmDie) := by
  rw [regionOf, if_pos h]

theorem inRanges_of_requests {s u : State} (h : s.Requests u) {part k : Nat} (hk : k < hbmEnd) : u.inRanges part k = s.inRanges part k := by
  simp only [State.inRanges, regionOf_hbm hk, State.ownsBand, h.regs _ (noRefrec_descAddr _ _)]

theorem Reachable.of_requests {s u : State} {c : Cmd} {k : Nat} (h : Reachable s c k) (hu : s.Requests u) : Reachable u c k where
  inHbm := h.inHbm
  owned := (inRanges_of_requests hu h.inHbm).trans h.owned
  unlocked := by rw [hu.rest]; exact h.unlocked
  noStores := by rw [hu.rest]; exact h.noStores
  noFlips := hu.flips.trans h.noFlips

/-- A physical address of HBM in the partition's ranges is its own key (R230, R415). -/
theorem engineXlate_phys {s : State} {c : Cmd} {k : Nat} (h : Reachable s c k) {a : Access} (ha : a = .read ∨ a = .write) :
    s.engineXlate c true k a = (s, .ok { key := k, unc := true }) := by
  have hk : ¬ 2 ^ 48 ≤ k := by
    have := h.inHbm
    simp only [hbmEnd] at this
    omega
  have hpage : s.pageInRanges c.part 0x3C k = true := by
    simp only [State.pageInRanges, regionOf_hbm h.inHbm, Region.unit, if_true]
    exact h.owned
  have hleaf : s.leafCheck { part := c.part, sup := true, place := c.place } 0x3C k a = .ok k := by
    have hbits : s.pageInRanges c.part (60#64) k = true := hpage
    rcases ha with rfl | rfl <;> simp [State.leafCheck, hbits, regionOf_hbm h.inHbm, Access.writes]
  simp only [State.engineXlate, if_true, hk, if_false, hleaf]
  rfl

/-- No register of a partition's descriptor lies in a line of HBM. -/
theorem regWaits_hbm (s : State) {k : Nat} (h : k < hbmEnd) : s.regWaits k (64 - k % 64) = false := by
  refine Bool.and_eq_false_imp.mpr fun _ => List.any_eq_false.mpr fun i hi => ?_
  have hline : k + i < hbmEnd := by
    have := List.mem_range.mp hi
    simp only [hbmEnd] at h ⊢
    omega
  rw [regionOf_hbm hline]
  exact Bool.false_ne_true

theorem engineReach_phys {s : State} {c : Cmd} {k : Nat} (h : Reachable s c k) {a : Access} (ha : a = .read ∨ a = .write) :
    ∃ u, engineReach c true k a s = .ok { key := k, unc := true } u ∧ s.Requests u := by
  refine ⟨s.reachHbm k (a = .write), ?_, (State.Requests.refl s).reachHbm h.noFlips⟩
  have hlocked : k / 4096 ∉ s.locked := by simpa using h.unlocked
  rw [engineReach, E.bind_ok (E.get_run s), engineXlate_phys h ha]
  simp [hlocked, regionOf_hbm h.inHbm, regWaits_hbm s h.inHbm, h.noStores, State.drainLine]
  rfl

/-- The bytes of one line of HBM lie in HBM, and in that line. -/
theorem regionOf_line {k n i : Nat} (h : k < hbmEnd) (hline : k % 64 + n ≤ 64) (hi : i < n) : regionOf (k + i) = .hbm ((k + i) / hbmDie) := by
  refine regionOf_hbm ?_
  simp only [hbmEnd] at h ⊢
  omega

theorem lineOf_add {k n i : Nat} (hline : k % 64 + n ≤ 64) (hi : i < n) : lineOf (k + i) = lineOf k := by
  simp only [lineOf]
  omega

theorem badWord_hbm (s : State) (a : Access) {k : Nat} {d : Nat} (h : regionOf k = .hbm d) (n : Nat) : s.badWord a k n = none := by
  simp [State.badWord, h]

/-- Outside a D context no tag is wanted and no assay rule checked (R311, R312). -/
theorem engineTagRoom_plain {s : State} {c : Cmd} (hdet : c.det = false) (k : Nat) : engineTagRoom c k s = .ok () s := by
  have hroom : s.noTagRoom (s.actor c) k = false := by simp [State.noTagRoom, State.actor, hdet]
  rw [engineTagRoom, E.bind_ok (E.get_run s), hroom]
  rfl

theorem engineAssayCheck_plain {s : State} {c : Cmd} (hdet : c.det = false) (phys : Bool) (va k n : Nat) :
    engineAssayCheck c phys va k n s = .ok () s := by
  have hok : s.engineAssay c (if phys then none else some va) k n = .ok s := by
    simp only [State.engineAssay, hdet, Bool.not_false, Bool.true_or, if_true]
  rw [engineAssayCheck, E.bind_ok (E.get_run s), hok]
  exact E.bind_ok (engineTagRoom_plain hdet k)

/-- `n` bytes of a line from a key on, each with the line's tarnish. -/
def lineBytes (s : State) (k n : Nat) : List (Byte × Bool × Bool) :=
  (List.range n).map fun i => (Mem.read s.mem (k + i), s.tarn.contains (lineOf k), false)

theorem length_lineBytes (s : State) (k n : Nat) : (lineBytes s k n).length = n := by rw [lineBytes, List.length_map, List.length_range]

theorem bytes_lineBytes (s : State) (k n : Nat) : (lineBytes s k n).map (·.1) = Mem.bytes s.mem k n := by
  rw [lineBytes, List.map_map]
  rfl

/-- An engine reads a line of HBM without poison. -/
theorem engineRead_phys {s : State} {c : Cmd} {k n : Nat} (h : Reachable s c k) (hdet : c.det = false) (hline : k % 64 + n ≤ 64)
    (hpoison : s.poison.contains (lineOf k) = false) :
    ∃ u, engineRead c true k n s = .ok (lineBytes s k n) u ∧ s.Requests u := by
  obtain ⟨u, hreach, hu⟩ := engineReach_phys h (a := .read) (.inl rfl)
  have hgood : ∀ i < n, (u.poison.contains (lineOf (k + i)) || (u.badWord .read (k + i) 1).isSome) = false := by
    intro i hi
    rw [lineOf_add hline hi, hu.poison, hpoison, badWord_hbm u .read (regionOf_line h.inHbm hline hi)]
    rfl
  have hnone : ((List.range n).any fun i => u.poison.contains (lineOf (k + i)) || (u.badWord .read (k + i) 1).isSome) = false :=
    List.any_eq_false.mpr fun i hi => Bool.eq_false_iff.mp (hgood i (List.mem_range.mp hi))
  refine ⟨u, ?_, hu⟩
  rw [engineRead, E.bind_ok hreach]
  simp only [regionOf_hbm h.inHbm, Region.isCtl, Bool.false_eq_true, if_false]
  rw [E.bind_ok (engineAssayCheck_plain hdet true k k n), E.bind_ok (E.get_run u)]
  rw [E.bind_ok (E.modify_run _ u)]
  simp only [hnone, Bool.false_eq_true, if_false]
  rw [E.bind_ok (E.modify_run _ u)]
  simp only [badWord_hbm u .read (regionOf_hbm h.inHbm), Option.isSome_none, Bool.false_eq_true, if_false]
  rw [E.bind_ok (E.get_run u)]
  refine congrArg (fun l => EStateM.Result.ok l u) (List.map_congr_left fun i hi => ?_)
  rw [hgood i (List.mem_range.mp hi), hu.rest]

/-! ## The write -/

/-- A change of commands that keeps all but whether a token still stands. -/
def KeepsCommands (s u : State) : Prop := ∃ f : Cmd → Cmd, (∀ x, f x = { x with tokKey := (f x).tokKey }) ∧ u.cmds = s.cmds.map f

theorem State.engineStore_mem (s : State) (det : Option Nat) (k : Nat) (bs : List Byte) (t p : Bool) :
    (s.engineStore det k bs t p).mem = Mem.put s.mem k bs := by
  refine List.foldlRecOn (motive := fun u : State => u.mem = Mem.put s.mem k bs) _ _ ?_ fun u hu l _ => hu
  unfold State.writeCells
  split <;> rfl

theorem State.cmds_writeCells (s : State) (k n : Nat) : (s.writeCells k n).cmds = s.cmds := by
  unfold State.writeCells
  split <;> rfl

theorem State.engineStore_cmds (s : State) (det : Option Nat) (k : Nat) (bs : List Byte) (t p : Bool) :
    KeepsCommands s (s.engineStore det k bs t p) := by
  refine List.foldlRecOn (motive := fun u : State => KeepsCommands s u) _ _ ?_ fun u hu l _ => hu
  refine ⟨_, ?_, congrArg (List.map _) (State.cmds_writeCells _ _ _)⟩
  intro x
  generalize (if bs.length = 0 then [] else _) = ws
  split
  · split <;> rfl
  · rfl

theorem mergeBytes_nil (old : List Byte) (k f : Nat) (bs : List Byte) : mergeBytes [] old k f bs = bs := by
  refine List.ext_getElem (by simp [mergeBytes]) fun i hi hi' => ?_
  simp [mergeBytes, hi']

/-- A physical write in HBM with no rival, outside a D context, puts the bytes (R232, R233). -/
theorem engineWriteAt_phys {s : State} {c : Cmd} {k : Nat} {data : List (Byte × Bool × Bool)} (hk : k < hbmEnd) (hdet : c.det = false)
    (hop : c.op ≠ 3) (hgone : s.metaGone k = false) (hrivals : s.rivals c k data.length = []) (va : Nat) :
    ∃ u, engineWriteAt c true va k data s = .ok () u ∧ u.mem = Mem.put s.mem k (data.map (·.1)) ∧ KeepsCommands s u := by
  have hrivals' : s.rivals c k (data.map (·.1)).length = [] := by rwa [List.length_map]
  refine ⟨_, ?_, State.engineStore_mem s none k (data.map (·.1)) (c.tarn || data.any (·.2.1)) (data.any (·.2.2)), State.engineStore_cmds ..⟩
  rw [engineWriteAt]
  simp only [regionOf_hbm hk, Region.isCtl, Bool.false_eq_true, if_false]
  rw [E.bind_ok (E.get_run s)]
  simp only [hgone, Bool.false_and, Bool.false_eq_true, if_false]
  rw [E.bind_ok (E.get_run s)]
  simp only [hrivals']
  rw [E.bind_ok (engineTagRoom_plain hdet k)]
  simp only [Bool.not_true, Bool.and_false, Bool.false_and, Bool.false_eq_true, if_false, hop, hdet, mergeBytes_nil, if_true, ne_eq,
    not_true_eq_false, decide_false, Bool.or_false]
  rfl

/-! ## The loops -/

/-- A command as the loops find it: `c`, but for the source that has been read into `snap`. -/
theorem readSource_done {id : Nat} {s : State} {c : Cmd} (hc : s.cmd? id = some c) (h : c.sourceLen ≤ c.snap.length) (n : Nat) :
    readSource id n s = .ok () s := by
  cases n with
  | zero => rfl
  | succ n =>
    rw [readSource, E.bind_ok (E.get_run s), hc]
    simp only [h, if_true]
    rfl

theorem writeDest_done {id total : Nat} {qs : List (Nat × Bool × Bool)} {s : State} {c : Cmd} (hc : s.cmd? id = some c) (h : total ≤ c.done)
    (n : Nat) : writeDest id total qs n s = .ok () s := by
  cases n with
  | zero => rfl
  | succ n =>
    rw [writeDest, E.bind_ok (E.get_run s), hc]
    simp only [h, if_true]
    rfl

theorem cmd?_updateCmd {s : State} {id : Nat} {c : Cmd} (hc : s.cmd? id = some c) {f : Cmd → Cmd} (hf : ∀ x, (f x).id = x.id) :
    (s.updateCmd id f).cmd? id = some (f c) := by
  have hid : c.id = id := by simpa using List.find?_some hc
  have hsame : (fun x : Cmd => decide (x.id = id)) ∘ (fun x => if x.id = id then f x else x) = fun x => decide (x.id = id) := by
    funext x
    by_cases hx : x.id = id <;> simp [hx, hf]
  rw [State.cmd?, State.updateCmd, List.find?_map, hsame, show s.cmds.find? (fun x => decide (x.id = id)) = some c from hc, Option.map_some,
    if_pos hid]

theorem KeepsCommands.cmd? {s u : State} (h : KeepsCommands s u) {id : Nat} {c : Cmd} (hc : s.cmd? id = some c) :
    ∃ y, u.cmd? id = some { c with tokKey := y } := by
  obtain ⟨f, hf, hcmds⟩ := h
  have hsame : (fun x : Cmd => decide (x.id = id)) ∘ f = fun x => decide (x.id = id) := by
    funext x
    rw [Function.comp_apply, hf x]
  refine ⟨(f c).tokKey, ?_⟩
  rw [State.cmd?, hcmds, List.find?_map, hsame, show s.cmds.find? (fun x => decide (x.id = id)) = some c from hc, Option.map_some, ← hf c]

/-- Who races with a command, and what they have written, does not depend on how far it has come (R233). -/
theorem rivals_updateCmd (s : State) (id : Nat) {f : Cmd → Cmd} (hf : ∀ x, (f x).id = x.id ∧ (f x).racing = x.racing ∧ (f x).wrote = x.wrote)
    (c : Cmd) (k n : Nat) : (s.updateCmd id f).rivals (f c) k n = s.rivals c k n := by
  have hg (x : Cmd) : (if x.id = id then f x else x).id = x.id ∧ (if x.id = id then f x else x).racing = x.racing ∧
      (if x.id = id then f x else x).wrote = x.wrote := by
    split
    · exact hf x
    · exact ⟨rfl, rfl, rfl⟩
  simp only [State.rivals, State.updateCmd, List.filter_map, List.flatMap_map, Function.comp_def, hg, hf c]

/-- A physical command outside a D context that has written nothing yet and whose destination is in one line of HBM: nothing keeps its write. -/
structure WritesLine (s : State) (c : Cmd) : Prop where
  found : s.cmd? c.id = some c
  reach : Reachable s c (c.dword 16)
  phys : c.phys = true
  plain : c.det = false
  atStart : c.done = 0
  some_ : 0 < c.dword 24
  line : c.dword 16 % 64 + c.dword 24 ≤ 64
  alone : s.rivals c (c.dword 16) (c.dword 24) = []
  kept : s.metaGone (c.dword 16) = false

theorem WritesLine.of_oneLine {s : State} {c : Cmd} (h : OneLine s c) : WritesLine s c := by
  obtain ⟨hfound, hflips, hphys, hdet, hdone, -, hpos, hline, hend, howned, hlocked, hfifo, hrivals, hgone⟩ := h
  exact ⟨hfound, ⟨by omega, howned, hlocked, hfifo, hflips⟩, hphys, hdet, hdone, hpos, hline, hrivals, hgone⟩

theorem WritesLine.of_requests {s u : State} {c : Cmd} (h : WritesLine s c) (hu : s.Requests u) : WritesLine u c where
  found := by rw [hu.rest]; exact h.found
  reach := h.reach.of_requests hu
  phys := h.phys
  plain := h.plain
  atStart := h.atStart
  some_ := h.some_
  line := h.line
  alone := by rw [hu.rest]; exact h.alone
  kept := by rw [hu.rest]; exact h.kept

/-- The source that a command has read does not bear on its write's way. -/
theorem WritesLine.snap {s : State} {c : Cmd} (h : WritesLine s c) (bs : List (Byte × Bool × Bool)) :
    WritesLine (s.updateCmd c.id fun x => { x with snap := x.snap ++ bs }) { c with snap := c.snap ++ bs } where
  found := cmd?_updateCmd h.found fun _ => rfl
  reach := ⟨h.reach.inHbm, h.reach.owned, h.reach.unlocked, h.reach.noStores, h.reach.noFlips⟩
  phys := h.phys
  plain := h.plain
  atStart := h.atStart
  some_ := h.some_
  line := h.line
  alone := (rivals_updateCmd s c.id (f := fun x => { x with snap := x.snap ++ bs }) (fun _ => ⟨rfl, rfl, rfl⟩) c _ _).trans h.alone
  kept := h.kept

/-- A destination in one line is written in one piece. -/
theorem writeDest_line {s : State} {c : Cmd} (h : WritesLine s c) (hop : c.op = 1 ∨ c.op = 2) (n : Nat) :
    ∃ u x, writeDest c.id (c.dword 24) [] (n + 1) s = .ok () u ∧ u.cmd? c.id = some x ∧
      u.mem = Mem.put s.mem (c.dword 16) ((c.image [] 0 (Mem.bytes s.mem (c.dword 16) (c.dword 24))).map (·.1)) := by
  obtain ⟨v, hreach, hv⟩ := engineReach_phys h.reach (a := .write) (.inr rfl)
  have hw := h.of_requests hv
  have hlen : (c.image [] 0 (Mem.bytes v.mem (c.dword 16) (c.dword 24))).length = c.dword 24 := by simp [Cmd.image, Mem.bytes]
  have halone : v.rivals c (c.dword 16) (c.image [] 0 (Mem.bytes v.mem (c.dword 16) (c.dword 24))).length = [] := by
    rw [hlen]
    exact hw.alone
  obtain ⟨w, hwrite, hmem, hcmds⟩ := engineWriteAt_phys h.reach.inHbm h.plain (by omega) hw.kept halone (c.dword 16)
  obtain ⟨y, hy⟩ := hcmds.cmd? hw.found
  have hdone := cmd?_updateCmd hy (f := fun x => { x with done := x.done + c.dword 24, wrote := x.wrote ++ [(c.dword 16, c.dword 24)] }) fun _ => rfl
  refine ⟨_, _, ?_, hdone, hmem.trans (by rw [hv.mem])⟩
  have haddr : (c.destAt + 0) % 2 ^ 64 = c.dword 16 := by
    have := h.reach.inHbm
    simp only [Cmd.destAt, hbmEnd] at this ⊢
    rw [if_neg (by omega)]
    omega
  have hall : min (lineRoom (c.dword 16)) (c.dword 24 - 0) = c.dword 24 := by
    have := h.line
    simp only [lineRoom]
    omega
  have hdest : engineDest c (c.dword 16) s = .ok { key := c.dword 16, unc := true } v := by
    rw [engineDest, if_neg (by omega), h.phys]
    exact hreach
  rw [writeDest, E.bind_ok (E.get_run s), h.found]
  simp only [h.atStart, Nat.not_le.mpr h.some_, if_false, haddr, hall]
  rw [E.bind_ok hdest, E.bind_ok (E.get_run v), h.phys]
  exact (E.bind_ok hwrite).trans ((E.bind_ok (E.modify_run _ w)).trans (writeDest_done hdone (Nat.le_add_left _ _) n))

/-- A source in one line, without poison, is read in one piece (R230). -/
theorem readSource_line {s : State} {c : Cmd} (h : WritesLine s c) (hop : c.op = 1) (hsnap : c.snap = []) (hsrc : SourceLine s c) (n : Nat) :
    ∃ u, readSource c.id (n + 1) s = .ok () (u.updateCmd c.id fun x => { x with snap := x.snap ++ lineBytes s (c.dword 8) (c.dword 24) }) ∧ s.Requests u := by
  obtain ⟨hline, hend, howned, hlocked, hpoison⟩ := hsrc
  have hpos := h.some_
  have hreach : Reachable s c (c.dword 8) := ⟨by omega, howned, hlocked, h.reach.noStores, h.reach.noFlips⟩
  obtain ⟨u, hread, hu⟩ := engineRead_phys hreach h.plain hline hpoison
  refine ⟨u, ?_, hu⟩
  have hlen : c.sourceLen = c.dword 24 := by rw [Cmd.sourceLen, if_neg (by omega)]
  have haddr : (c.dword 8 + 0) % 2 ^ 64 = c.dword 8 := by
    have := hreach.inHbm
    simp only [hbmEnd] at this
    omega
  have hall : min (lineRoom (c.dword 8)) (c.dword 24 - 0) = c.dword 24 := by
    simp only [lineRoom]
    omega
  rw [readSource, E.bind_ok (E.get_run s), h.found]
  simp only [hsnap, hlen, List.length_nil, Nat.not_le.mpr hpos, if_false, haddr, hall, h.phys]
  refine (E.bind_ok hread).trans ((E.bind_ok (E.modify_run _ u)).trans ?_)
  have hfull : c.sourceLen ≤ (c.snap ++ lineBytes s (c.dword 8) (c.dword 24)).length := by
    rw [hlen, hsnap, List.nil_append, length_lineBytes]
  exact readSource_done ((h.of_requests hu).snap (lineBytes s (c.dword 8) (c.dword 24))).found hfull n

/-- What a FILL of one line leaves (R230). -/
theorem performCopy_fill {s : State} {c : Cmd} (h : OneLine s c) (hop : c.op = 2) : ∃ u x, performCopy c s = .ok .performed u ∧
    u.cmd? c.id = some x ∧
      u.mem = Mem.put s.mem (c.dword 16) ((List.range (c.dword 24)).map fun i => BitVec.ofNat 8 (c.byte (32 + i % 8))) := by
  obtain ⟨n, hn⟩ := Nat.exists_eq_succ_of_ne_zero (Nat.pos_iff_ne_zero.mp (WritesLine.of_oneLine h).some_)
  obtain ⟨u, x, hwrite, hx, hmem⟩ := writeDest_line (WritesLine.of_oneLine h) (.inr hop) n
  have himage : (c.image [] 0 (Mem.bytes s.mem (c.dword 16) (c.dword 24))).map (·.1) =
      (List.range (c.dword 24)).map fun i => BitVec.ofNat 8 (c.byte (32 + i % 8)) := by
    simp [Cmd.image, hop, Mem.bytes]
  have hread : readSource c.id c.sourceLen s = .ok () s := readSource_done (WritesLine.of_oneLine h).found (by simp [Cmd.sourceLen, hop]) _
  refine ⟨u, x, ?_, hx, hmem.trans (by rw [himage])⟩
  rw [← Nat.succ_eq_add_one, ← hn] at hwrite
  exact (E.bind_ok hread).trans (E.bind_ok hwrite)

/-- The bytes that a COPY writes are those that it has read. -/
theorem image_copy {c : Cmd} (hop : c.op = 1) (old : List Byte) (h : old.length = c.snap.length) : c.image [] 0 old = c.snap := by
  refine List.ext_getElem (by simp [Cmd.image, h]) fun i hi hi' => ?_
  simp [Cmd.image, Cmd.sourceOf, hop, hi']

/-- What a COPY of one line leaves (R230). -/
theorem performCopy_copy {s : State} {c : Cmd} (h : OneLine s c) (hop : c.op = 1) (hsrc : SourceLine s c) :
    ∃ u x, performCopy c s = .ok .performed u ∧ u.cmd? c.id = some x ∧
      u.mem = Mem.put s.mem (c.dword 16) (Mem.bytes s.mem (c.dword 8) (c.dword 24)) := by
  have hsnap : c.snap = [] := by
    obtain ⟨-, -, -, -, -, hsnap, -⟩ := h
    exact hsnap
  have hw := WritesLine.of_oneLine h
  obtain ⟨n, hn⟩ := Nat.exists_eq_succ_of_ne_zero (Nat.pos_iff_ne_zero.mp hw.some_)
  obtain ⟨v, hread, hv⟩ := readSource_line hw hop hsnap hsrc n
  obtain ⟨u, x, hwrite, hx, hmem⟩ := writeDest_line ((hw.of_requests hv).snap (lineBytes s (c.dword 8) (c.dword 24))) (.inl hop) n
  have himage : (Cmd.image { c with snap := c.snap ++ lineBytes s (c.dword 8) (c.dword 24) } [] 0
      (Mem.bytes v.mem (c.dword 16) (c.dword 24))).map (·.1) = Mem.bytes s.mem (c.dword 8) (c.dword 24) := by
    rw [image_copy (c := { c with snap := c.snap ++ lineBytes s (c.dword 8) (c.dword 24) }) hop _
      (by simp [hsnap, length_lineBytes, Mem.bytes]), hsnap, List.nil_append, bytes_lineBytes]
  have hlen : c.sourceLen = n + 1 := by rw [Cmd.sourceLen, if_neg (by omega), hn]
  refine ⟨u, x, ?_, hx, hmem.trans ((congrArg (Mem.put _ _) himage).trans (by rw [← hv.mem]; rfl))⟩
  rw [← hlen] at hread
  refine (E.bind_ok hread).trans (E.bind_ok (a := ()) ?_)
  rw [← Nat.succ_eq_add_one, ← hn] at hwrite
  exact hwrite

/-- A work that goes through ends its command in its phase, and what it wrote leaves PEND. -/
theorem State.work_ok {s u : State} {c x : Cmd} {m : Cmd → E CmdPhase} {ph : CmdPhase} (h : m c s = .ok ph u) (hx : u.cmd? c.id = some x) :
    s.work c m = pendFallen (inPhase u c ph) c ∧ ((inPhase u c ph).cmd? c.id).map (·.phase) = some ph := by
  refine ⟨?_, ?_⟩
  · rw [State.work, h]
    exact State.fallPend_eq (inPhase u c ph) c
  · exact congrArg (Option.map (·.phase)) (cmd?_updateCmd hx (f := fun x => { x with phase := ph }) fun _ => rfl)

end Sys2Proof.Machine
end

section
open Sys2Proof Sys2Proof.Machine Sys2Proof.Claims

/-- Settles O51: each event is the engine's work on the command it takes up, a line's FILL or COPY followed through its loops. -/
theorem enginesPerform : Obligations.EnginesPerform := by
  unfold Obligations.EnginesPerform
  refine ⟨fun row hrow die eng s c hready hop => ⟨⟨_, exec_copyRows hrow die eng s, ?_⟩, fun ph s1 => copyRows_end hrow c s ph s1⟩,
    fun die eng s c hready hline => ⟨fun hop => ?_, fun hop hsrc => ?_⟩,
    fun stack s c hstack hfrozen hnext hhead => ⟨fun hn => ⟨_, exec_reduce hstack hfrozen hnext hhead, State.workOn_worked hn performReduce⟩,
      fun hn => ?_⟩,
    fun cmd s c hc hphase hfrozen => ?_, fun cmd s c hc hnode => ⟨fun hmay hck => ?_, fun hmay hck hlast => ?_,
      fun hck hfrozen hs hd htell hleft => ?_, fun hmay hck => ⟨fun t ht => ?_, fun x t ht => ?_⟩⟩⟩
  · rw [State.copyEvent_ready hready hop]
    exact s.work_worked c row.2.2
  · obtain ⟨u, x, hrun, hx, hmem⟩ := performCopy_fill hline hop
    obtain ⟨hwork, hphase⟩ := State.work_ok hrun hx
    refine ⟨_, ?_, hphase, hmem⟩
    rw [← hwork, ← State.copyEvent_ready hready hop]
    rfl
  · obtain ⟨u, x, hrun, hx, hmem⟩ := performCopy_copy hline hop hsrc
    obtain ⟨hwork, hphase⟩ := State.work_ok hrun hx
    refine ⟨_, ?_, hphase, hmem⟩
    rw [← hwork, ← State.copyEvent_ready hready hop]
    rfl
  · rw [exec_reduce hstack hfrozen hnext hhead, State.workOn_failed hn]
  · exact ⟨_, exec_pcieCompletion hc hphase hfrozen, s.work_worked c performCompletion⟩
  · rw [exec_completion_signals hc hmay (by omega), State.complete_barrier hck hnode]
  · rw [exec_completion_signals hc hmay fun _ => hlast, State.complete_chunks hck hnode]
  · obtain ⟨huntold, hlanded⟩ := List.mem_filter.mp (State.nextChunk_mem (s := s) htell)
    exact ⟨_, huntold, of_decide_eq_true hlanded, exec_completion_tells hc hnode hck hfrozen (Cmd.isOpen_of hs hd) htell hleft⟩
  · rw [exec_completion_signals hc hmay (by omega), State.complete_token hck hnode ht]
  · rw [exec_completion_signals hc hmay (by omega), State.complete_tokenStops hck hnode ht]

end

section
/-! SEARCH and its requests (R362, R369, R370), ordered atomics at their slice (R306, R307), and the dirty FIFO (R308). -/

namespace Sys2Proof.Machine
open Sys2Proof.Claims

/-! ## SEARCH -/

/-- The unit number of a stack's search engine, by its queue and by its stack (log 26). -/
theorem searchUnit (stack : Nat) : 1024 + (24 + stack) = 1048 + stack := by omega

/-- A query that waits for nothing goes on. -/
theorem exec_search_resumes {stack : Nat} {s : State} {c : Cmd} (hstack : stack < 8) (hfrozen : s.frozenQ.contains (24 + stack) = false)
    (hc : s.resumable stack = some c) : exec (.search stack) s = .next (s.workOn (24 + stack) c fun c => runQuery c.id c.searchFuel) := by
  have hqueue : c.queue = 24 + stack := by
    have hpick := List.find?_some hc
    simp only [Bool.and_eq_true, decide_eq_true_eq] at hpick
    obtain ⟨⟨⟨hqueue, -⟩, -⟩, -⟩ := hpick
    exact hqueue
  change execSearch stack s = _
  simp only [execSearch, hfrozen, hc, Bool.or_false, decide_eq_true_eq, Nat.not_le.mpr hstack, if_false]
  rw [State.workQuery, State.workChecked, hqueue]

/-- A query in a context of a stack before its first step. -/
def freshQuery (stack ctx id : Nat) : Query :=
  { stack := stack, ctx := ctx, cmd := id, desc := none, vec := none, cands := [], best := [], seen := [], expanded := 0, popped := none, rest := none,
    status := none, reqs := [], tarn := false }

/-- The next command of a search queue starts in a free context while the SRAM suffices (R362). -/
theorem exec_search_starts {stack : Nat} {s : State} {c : Cmd} (hstack : stack < 8) (hfrozen : s.frozenQ.contains (24 + stack) = false)
    (hidle : s.resumable stack = none) (hnext : s.nextQueued (24 + stack) = some c) (hfree : s.freeContexts stack ≠ [])
    (hsram : s.sramUsed stack + c.sram ≤ 4 * 2 ^ 20) : ∃ ctx ∈ s.freeContexts stack,
      exec (.search stack) s = .next (((inPhase { s with fresh := s.fresh + 1, queries := s.queries ++ [freshQuery stack ctx c.id] } c .running).trace
        { c := c, q := freshQuery stack ctx c.id, g := .read [] } 1 0 stack c.entry 0).workQuery { c with phase := .running }) := by
  obtain ⟨k, ks, hks⟩ := List.exists_cons_of_ne_nil hfree
  have hpick : Config.pick s.fresh % (ks.length + 1) < (k :: ks).length := Nat.mod_lt _ (Nat.succ_pos _)
  refine ⟨(k :: ks).getD (Config.pick s.fresh % (ks.length + 1)) k, ?_, ?_⟩
  · rw [hks, List.getD_eq_getElem?_getD, List.getElem?_eq_getElem hpick, Option.getD_some]
    exact List.getElem_mem hpick
  · change execSearch stack s = _
    simp only [execSearch, hfrozen, hidle, hnext, hks, Bool.or_false, decide_eq_true_eq, Nat.not_le.mpr hstack, Nat.not_lt.mpr hsram, if_false]
    rfl

/-! ## Requests and answers -/

/-- A request's work: the stack reads what the query asks for, and the answer is kept (R370). -/
def serving (c : Cmd) (q : Query) (g : Graph) (va node : Nat) (isList : Bool) : E CmdPhase := do
  let a ← serveRead c g (q.vec.getD []) va isList
  modify fun u => u.updateQuery c.id fun q => { q with reqs := q.reqs.map fun (x : SearchReq) =>
    if x.node = node && x.isList = isList then { x with answer := some a } else x }
  return .running

theorem State.serve_found {s : State} {c : Cmd} {q : Query} {r : SearchReq} {bs : List Byte} {node va st : Nat} {isList : Bool}
    (hdesc : q.desc = some bs) (hr : (q.reqs.find? fun x => x.node = node && x.isList = isList && x.answer.isNone) = some r)
    (hnode : (Graph.read bs).find node = some (va, st)) :
    s.serve c q node isList = s.workOn (24 + r.stack) c fun c => serving c q (.read bs) va node isList := by
  simp only [State.serve, hr, hdesc, hnode]
  rfl

/-- A request's event is the work of the stack that holds the node. -/
theorem exec_request {row : (Nat → Nat → Nat → Instr) × Bool} (hrow : row ∈ [(Instr.listRequest, true), (Instr.distanceRequest, false)])
    {stack ctx : Nat} {s : State} {c : Cmd} {q : Query} (hq : s.inContext stack ctx = some (c, q)) (node : Nat) :
    exec (row.1 stack ctx node) s = .next (s.serve c q node row.2) := by
  simp only [List.mem_cons, List.not_mem_nil, or_false] at hrow
  rcases hrow with rfl | rfl
  · change execListRequest stack ctx node s = _
    simp only [execListRequest, hq]
  · change execDistanceRequest stack ctx node s = _
    simp only [execDistanceRequest, hq]

theorem serving_ok {c : Cmd} {q : Query} {g : Graph} {va node : Nat} {isList : Bool} {s t : State} {a : Bool × List Nat}
    (h : serveRead c g (q.vec.getD []) va isList s = .ok a t) : serving c q g va node isList s = .ok .running
      (t.updateQuery c.id fun q => { q with reqs := q.reqs.map fun (x : SearchReq) =>
        if x.node = node && x.isList = isList then { x with answer := some a } else x }) :=
  (E.bind_ok h).trans rfl

theorem E.bind_error {α β : Type} {m : E α} {f : α → E β} {s t : State} {e : EngStop} (h : m s = .error e t) : (m >>= f) s = .error e t := by
  simp only [bind, EStateM.bind, h]

/-- A frozen search queue's queries stand still (R373, R421). -/
theorem exec_answer_frozen {stack : Nat} {s : State} (hfrozen : s.frozenQ.contains (24 + stack) = true) (ctx node : Nat) :
    exec (.answer stack ctx node) s = .next s := by
  have hnone : ((s.inContext stack ctx).filter fun _ => !s.frozenQ.contains (24 + stack)) = none := by
    rw [hfrozen]
    cases s.inContext stack ctx <;> rfl
  change execAnswer stack ctx node s = _
  rw [execAnswer, hnone]

/-- An answer that has been served arrives (R370). -/
theorem exec_answer {stack ctx node : Nat} {s : State} {c : Cmd} {q : Query} {r : SearchReq} (hfrozen : s.frozenQ.contains (24 + stack) = false)
    (hq : s.inContext stack ctx = some (c, q)) (hr : (q.reqs.find? fun x => x.node = node && x.answer.isSome && !x.arrived) = some r) :
    let q1 : Query := { q with reqs := q.reqs.map fun (x : SearchReq) => if x.node = node && x.isList = r.isList then { x with arrived := true } else x }
    let d := match r.answer with | some (_, x :: _) => if r.isList then 0 else x | _ => 0
    let u := (s.updateQuery c.id fun _ => q1).trace { c := c, q := q1, g := .read (q.desc.getD []) } 5 (if r.isList then 1 else 0) r.stack node d
    exec (.answer stack ctx node) s = .next (if q1.reqs.all (·.arrived) then u.workQuery c else u) := by
  intro q1 d u
  change execAnswer stack ctx node s = _
  simp only [execAnswer, hfrozen, hq, Bool.not_false, Option.filter_some, if_true, hr]
  rfl

/-! ## Ordered atomics at their slice -/

/-- What performing an entry needs: its strand stands at its place and is not suspended there (R307). -/
theorem State.ordHeldAt_of_done {s u : State} {e : OrdEntry} (h : s.performOrd e = (u, .done)) : s.ordHeldAt e = false := by
  unfold State.performOrd at h
  unfold State.ordHeldAt
  dsimp only at h
  split at h
  · cases h
  · next t ht =>
    rw [ht]
    dsimp only
    by_contra hheld
    rw [Bool.not_eq_false] at hheld
    split at h
    · cases h
    · cases h

/-- The buffer holds one entry, which has its stream's next tag: it is performed, and NEXT rises (R307). -/
theorem State.drainOrd_single {s u : State} {e : OrdEntry} (hentries : s.ordEntries = [{ e with inBuffer := true }]) (htag : e.tag = s.ordNext e)
    (hdone : s.performOrd { e with inBuffer := true } = (u, .done)) (hgone : ∀ x ∈ u.ordEntries, x.id = e.id) :
    s.drainOrd e 64 = ({ u with ordEntries := [] } : State).setOrdNext e (e.tag + 1) := by
  have hfind : s.ordEntries.find? (fun x => x.inBuffer && e.sameStream x && decide (x.tag = s.ordNext e)) = some { e with inBuffer := true } := by
    simp [hentries, ← htag, OrdEntry.sameStream]
  have hnone : u.ordEntries.filter (·.id ≠ e.id) = [] := List.filter_eq_nil_iff.mpr fun x hx => by simp [hgone x hx]
  rw [State.drainOrd, hfind]
  simp only [hdone, hnone]
  rfl

/-- An entry alone in the buffer that arrives with its stream's next tag is performed at once (R306, R307). -/
theorem State.ordArrive_next {s : State} {e : OrdEntry} (hentries : s.ordEntries = [e]) (htag : e.tag = s.ordNext e)
    (hstream : ∃ x ∈ s.ordStreams, x.launch = e.launch ∧ x.die = e.die ∧ x.slice = e.slice ∧ x.stream = e.stream)
    (hown : ∀ x ∈ s.ordStreams, x.die = e.die → x.slice = e.slice → x.stream = e.stream → x.launch = e.launch)
    (hheld : s.ordHeldAt e = false) (addr : Word) :
    s.ordArrive e addr = ({ s with ordEntries := [{ e with inBuffer := true }] } : State).drainOrd e 64 := by
  have hfree : s.ordStreams.find? (fun x => x.die = e.die && x.slice = e.slice && x.stream = e.stream && x.launch ≠ e.launch) = none := by
    refine List.find?_eq_none.mpr fun x hx hother => ?_
    simp only [Bool.and_eq_true, decide_eq_true_eq] at hother
    obtain ⟨⟨⟨hdie, hslice⟩, hid⟩, hlaunch⟩ := hother
    exact hlaunch (hown x hx hdie hslice hid)
  have htaken : (s.ordStreams.any fun x => x.launch = e.launch && x.die = e.die && x.slice = e.slice && x.stream = e.stream) = true := by
    obtain ⟨x, hx, hlaunch, hdie, hslice, hid⟩ := hstream
    exact List.any_eq_true.mpr ⟨x, hx, by simp [hlaunch, hdie, hslice, hid]⟩
  have hhold : s.holdOrd e true = { s with ordEntries := [{ e with inBuffer := true }] } := by
    simp [State.holdOrd, hentries]
  simp only [State.ordArrive, hfree, Option.isSome_none, hheld, Bool.or_false, Bool.false_eq_true, if_false, htaken, if_true, ← htag, hhold]
  simp [hentries]

section
variable {s u : State} {e : OrdEntry} (hentries : s.ordEntries = [e]) (htag : e.tag = s.ordNext e)
  (hdone : ({ s with ordEntries := [{ e with inBuffer := true }] } : State).performOrd { e with inBuffer := true } = (u, .done))
  (hgone : ∀ x ∈ u.ordEntries, x.id = e.id)
include hentries htag hdone hgone

/-- An atomic that arrives with its stream's next tag completes. -/
theorem exec_orderedAtomicArrival (hbuffer : e.inBuffer = false)
    (hstream : ∃ x ∈ s.ordStreams, x.launch = e.launch ∧ x.die = e.die ∧ x.slice = e.slice ∧ x.stream = e.stream)
    (hown : ∀ x ∈ s.ordStreams, x.die = e.die → x.slice = e.slice → x.stream = e.stream → x.launch = e.launch) :
    exec (.orderedAtomicArrival e.id) s = .next (({ u with ordEntries := [] } : State).setOrdNext e (e.tag + 1)) := by
  have hfind : s.ordEntries.find? (fun x => x.id = e.id && !x.inBuffer) = some e := by simp [hentries, hbuffer]
  have hready := State.ordHeldAt_of_done hdone
  have hheld : s.ordHeldAt e = false := hready
  have happly := State.drainOrd_single (s := { s with ordEntries := [{ e with inBuffer := true }] }) rfl htag hdone hgone
  change execOrderedAtomicArrival e.id s = _
  rw [execOrderedAtomicArrival, hfind]
  dsimp only
  rw [State.ordArrive_next hentries htag hstream hown hheld, happly]

/-- So does one that stands in the buffer with it. -/
theorem exec_orderedAtomicApply (hbuffer : e.inBuffer = true) :
    exec (.orderedAtomicApply e.die e.slice e.stream) s = .next (({ u with ordEntries := [] } : State).setOrdNext e (e.tag + 1)) := by
  have hfind : s.ordEntries.find? (fun x => x.die = e.die && x.slice = e.slice && x.stream = e.stream && x.inBuffer) = some e := by
    simp [hentries, hbuffer]
  have hsame : ({ e with inBuffer := true } : OrdEntry) = e := by rw [← hbuffer]
  have happly := State.drainOrd_single (s := { s with ordEntries := [{ e with inBuffer := true }] }) rfl htag hdone hgone
  rw [hsame, ← hentries] at happly
  change execOrderedAtomicApply e.die e.slice e.stream s = _
  rw [execOrderedAtomicApply, hfind]
  dsimp only
  rw [happly]

end

/-! ## The dirty FIFO -/

theorem exec_dirtyFifoDrain_home {core : Nat} {s : State} {e : FifoEntry} {es : List FifoEntry} (he : (s.core core).fifo = e :: es)
    (hlocked : e.key / 4096 ∉ s.locked) (hgone : (s.setCore { s.core core with fifo := es }).metaGone e.key = false) :
    exec (.dirtyFifoDrain core) s =
      .next (((s.setCore { s.core core with fifo := es }).reachHbm e.key false).homeStore e.place e.key e.data e.tarn) := by
  change Host.Outcome.next (s.drainOne core) = _
  simp only [State.drainOne, he, List.contains_iff_mem, hlocked, hgone, if_false, Bool.false_eq_true]

/-- A write-back that meets lost metadata: its line lies in the entry's block and page (R296). -/
theorem exec_dirtyFifoDrain_lost {core : Nat} {s : State} {e : FifoEntry} {es : List FifoEntry} (he : (s.core core).fifo = e :: es)
    (hlocked : e.key / 4096 ∉ s.locked) (hgone : (s.setCore { s.core core with fifo := es }).metaGone e.key = true) :
    let u := s.setCore { s.core core with fifo := es }
    let v := (u.useUpset (metaUnit (e.key / 256))).poisonBlock (lineOf e.key * 64)
    exec (.dirtyFifoDrain core) s = .next (({ v with migrate := setInsert (e.key / 4096) v.migrate } : State).postRecord ((u.ownerPart e.key).getD 32) 3
      [0, BitVec.ofNat 64 (lineOf e.key * 64)] none none).1 := by
  intro u v
  have hblock : lineOf e.key * 64 / 256 = e.key / 256 := by
    simp only [lineOf]
    omega
  have hpage : lineOf e.key * 64 / 4096 = e.key / 4096 := by
    simp only [lineOf]
    omega
  change Host.Outcome.next (s.drainOne core) = _
  simp only [State.drainOne, he, List.contains_iff_mem, hlocked, hgone, if_false, if_true, State.loseWriteback, State.loseBlock, hblock, hpage]
  rfl

theorem exec_dirtyFifoDrain_locked {core : Nat} {s : State} {e : FifoEntry} {es : List FifoEntry} (he : (s.core core).fifo = e :: es)
    (hlocked : e.key / 4096 ∈ s.locked) : exec (.dirtyFifoDrain core) s = .next s := by
  change Host.Outcome.next (s.drainOne core) = _
  simp only [State.drainOne, he, List.contains_iff_mem, hlocked, if_true]

end Sys2Proof.Machine
end

section
/-! The escapement (R160, R161): which slot wins, what the grant does to the ages, and whose turn it is. -/

namespace Sys2Proof.Machine
open Sys2Proof.Claims

/-! ## The winner -/

/-- The eldest of a list of slots is one of them, and none is older. -/
theorem eldest_spec (ages : List Nat) : ∀ {l : List Nat} {i : Nat}, eldest ages l = some i → i ∈ l ∧ ∀ j ∈ l, ages.getD j 0 ≤ ages.getD i 0
  | [], _, h => by cases h
  | k :: ks, i, h => by
    unfold eldest at h
    split at h
    · next hnone =>
      cases h
      cases ks with
      | nil => simp
      | cons x xs =>
        unfold eldest at hnone
        split at hnone
        · cases hnone
        · split at hnone <;> cases hnone
    · next j hj =>
      obtain ⟨hmem, hold⟩ := eldest_spec ages hj
      split at h
      · next hle =>
        cases h
        refine ⟨.head _, fun x hx => ?_⟩
        rcases List.mem_cons.mp hx with rfl | hx
        · exact Nat.le_refl _
        · exact (hold x hx).trans hle
      · next hgt =>
        cases h
        refine ⟨.tail _ hmem, fun x hx => ?_⟩
        rcases List.mem_cons.mp hx with rfl | hx
        · omega
        · exact hold x hx

theorem eldest_eq_none {ages : List Nat} : ∀ {l : List Nat}, eldest ages l = none → l = []
  | [], _ => rfl
  | k :: ks, h => by
    unfold eldest at h
    split at h
    · cases h
    · split at h <;> cases h

/-- Every slot of a core has its turn. -/
theorem mem_slotOrder {last i : Nat} (h : i < 4) : i ∈ slotOrder last := by
  simp only [slotOrder, List.mem_cons, List.not_mem_nil, or_false]
  omega

section
variable {c : CoreSt} {ready : List Nat} {chain : Option Nat}

/-- The ready slots, in turn. -/
def CoreSt.inTurn (c : CoreSt) (ready : List Nat) : List Nat := (slotOrder c.last).filter ready.contains

theorem CoreSt.mem_inTurn (hready : ∀ i ∈ ready, i < 4) {i : Nat} : i ∈ c.inTurn ready ↔ i ∈ ready := by
  rw [CoreSt.inTurn, List.mem_filter, List.contains_iff_mem]
  exact ⟨fun h => h.2, fun h => ⟨mem_slotOrder (hready i h), h⟩⟩

/-- How the winner is found: the eldest ready slot of age 9 or more, else the chain consumer, else the first in turn (R160, R161). -/
theorem CoreSt.winner_cases {w : Nat} (h : c.winner ready chain = some w) :
    eldest c.ages ((c.inTurn ready).filter fun i => decide (9 ≤ c.ages.getD i 0)) = some w ∨
    ((c.inTurn ready).filter (fun i => decide (9 ≤ c.ages.getD i 0)) = [] ∧
      (chain.filter ready.contains = some w ∨ chain.filter ready.contains = none ∧ (c.inTurn ready).head? = some w)) := by
  unfold CoreSt.winner at h
  dsimp only at h
  split at h
  · next i hi => exact .inl (hi.trans h)
  · next hi =>
    refine .inr ⟨eldest_eq_none hi, ?_⟩
    split at h
    · next i hi => exact .inl (hi.trans h)
    · next hi => exact .inr ⟨hi, h⟩

theorem CoreSt.winner_isSome (hready : ∀ i ∈ ready, i < 4) (h : ready ≠ []) : ∃ w, c.winner ready chain = some w := by
  obtain ⟨i, hi⟩ := List.exists_mem_of_ne_nil _ h
  unfold CoreSt.winner
  dsimp only
  split
  · exact ⟨_, rfl⟩
  · split
    · exact ⟨_, rfl⟩
    · have hturn := List.ne_nil_of_mem ((c.mem_inTurn hready).mpr hi)
      exact ⟨_, List.head?_eq_some_head hturn⟩

theorem CoreSt.winner_nil : c.winner [] chain = none := by
  have hturn : (slotOrder c.last).filter ([] : List Nat).contains = [] := List.filter_eq_nil_iff.mpr fun _ _ => Bool.false_ne_true
  have hchain : chain.filter ([] : List Nat).contains = none := by cases chain <;> rfl
  rw [CoreSt.winner, hturn, hchain]
  rfl

variable {w : Nat}

theorem CoreSt.winner_mem (hready : ∀ i ∈ ready, i < 4) (h : c.winner ready chain = some w) : w ∈ ready := by
  rcases CoreSt.winner_cases h with hold | ⟨-, hchain | ⟨-, hturn⟩⟩
  · exact (c.mem_inTurn hready).mp (List.mem_of_mem_filter (eldest_spec _ hold).1)
  · obtain ⟨-, hin⟩ := Option.filter_eq_some_iff.mp hchain
    exact List.contains_iff_mem.mp hin
  · exact (c.mem_inTurn hready).mp (List.mem_of_mem_head? hturn)

/-- A ready slot of age 9 or more wins, and no younger one before it. -/
theorem CoreSt.winner_old (hready : ∀ i ∈ ready, i < 4) (h : c.winner ready chain = some w) {i : Nat} (hi : i ∈ ready)
    (hage : 9 ≤ c.ages.getD i 0) : 9 ≤ c.ages.getD w 0 ∧ c.ages.getD i 0 ≤ c.ages.getD w 0 := by
  have hmem : i ∈ (c.inTurn ready).filter fun i => decide (9 ≤ c.ages.getD i 0) :=
    List.mem_filter.mpr ⟨(c.mem_inTurn hready).mpr hi, decide_eq_true hage⟩
  rcases CoreSt.winner_cases h with hold | ⟨hnone, -⟩
  · obtain ⟨hw, holdest⟩ := eldest_spec _ hold
    exact ⟨of_decide_eq_true (List.mem_filter.mp hw).2, holdest i hmem⟩
  · rw [hnone] at hmem
    cases hmem

/-- While no ready slot is of age 9, no slot is found old. -/
theorem CoreSt.winner_young (hready : ∀ i ∈ ready, i < 4) (h : c.winner ready chain = some w) (hyoung : ∀ i ∈ ready, c.ages.getD i 0 < 9) :
    chain.filter ready.contains = some w ∨ chain.filter ready.contains = none ∧ (c.inTurn ready).head? = some w := by
  rcases CoreSt.winner_cases h with hold | ⟨-, hrest⟩
  · obtain ⟨hw, hage⟩ := List.mem_filter.mp (eldest_spec _ hold).1
    have := hyoung w ((c.mem_inTurn hready).mp hw)
    have := of_decide_eq_true hage
    omega
  · exact hrest

/-- Then the chain consumer wins, if it is ready (R161). -/
theorem CoreSt.winner_chain (hready : ∀ i ∈ ready, i < 4) (h : c.winner ready chain = some w) (hyoung : ∀ i ∈ ready, c.ages.getD i 0 < 9)
    {k : Nat} (hk : k ∈ ready) (hchain : chain = some k) : w = k := by
  have hfilter : chain.filter ready.contains = some k := Option.filter_eq_some_iff.mpr ⟨hchain, List.contains_iff_mem.mpr hk⟩
  rcases CoreSt.winner_young hready h hyoung with hw | ⟨hnone, -⟩
  · exact Option.some.inj (hw.symm.trans hfilter)
  · rw [hfilter] at hnone
    cases hnone

/-- Else the first in turn. -/
theorem CoreSt.winner_turn (hready : ∀ i ∈ ready, i < 4) (h : c.winner ready chain = some w) (hyoung : ∀ i ∈ ready, c.ages.getD i 0 < 9)
    (hchain : ∀ k ∈ ready, chain ≠ some k) : w = (c.inTurn ready).headD 0 := by
  rcases CoreSt.winner_young hready h hyoung with hw | ⟨-, hturn⟩
  · obtain ⟨hsome, hin⟩ := Option.filter_eq_some_iff.mp hw
    exact absurd hsome (hchain w (List.contains_iff_mem.mp hin))
  · rw [List.headD_eq_head?_getD, hturn, Option.getD_some]

end

/-! ## The grant -/

theorem CoreSt.grantSlot_some {c : CoreSt} {ready : List Nat} {chain : Option Nat} {w : Nat} (h : c.winner ready chain = some w) :
    c.grantSlot ready chain =
      { c with ages := (List.range 4).map fun i => if i = w || !ready.contains i then 0 else c.ages.getD i 0 + 1, last := w } := by
  rw [CoreSt.grantSlot, h]

theorem CoreSt.grantSlot_none {c : CoreSt} {ready : List Nat} {chain : Option Nat} (h : c.winner ready chain = none) :
    c.grantSlot ready chain = { c with ages := [0, 0, 0, 0] } := by
  rw [CoreSt.grantSlot, h]

/-- A grant changes ages and the last winner. -/
theorem CoreSt.grantSlot_frame (c : CoreSt) (ready : List Nat) (chain : Option Nat) : (c.grantSlot ready chain).core = c.core ∧
    (c.grantSlot ready chain).fifo = c.fifo ∧ (c.grantSlot ready chain).score = c.score := by
  unfold CoreSt.grantSlot
  split <;> exact ⟨rfl, rfl, rfl⟩

/-! ## The turn -/

theorem State.giveTurn_spec {s : State} {p : Strand → Bool} {x : Strand} (hx : x ∈ s.parked) (hp : p x = true) :
    ∃ t as bs, p t = true ∧ s.parked = as ++ t :: bs ∧ s.giveTurn p = { s with strand := t, parked := as ++ bs ++ [s.strand] } := by
  obtain ⟨t, ht⟩ := Option.isSome_iff_exists.mp (List.find?_isSome.mpr ⟨x, hx, hp⟩)
  obtain ⟨htp, as, bs, hparked, has⟩ := List.find?_eq_some_iff_append.mp ht
  refine ⟨t, as, bs, htp, hparked, ?_⟩
  rw [State.giveTurn, ht]
  dsimp only
  rw [hparked, List.eraseP_append_right _ (fun a ha => by simpa using has a ha), List.eraseP_cons_of_pos htp]

/-- The strand of a slot acts next, and every strand stays. -/
theorem State.actIn_spec {s : State} {place : Nat} (h : ∃ x ∈ s.strands, (x.canRun && x.places.contains place) = true) :
    let u := s.actIn place
    u = { s with strand := u.strand, parked := u.parked } ∧ (∀ x, x ∈ u.strands ↔ x ∈ s.strands) ∧ u.strand.canRun = true ∧
      place ∈ u.strand.places := by
  intro u
  by_cases hs : (s.strand.canRun && s.strand.places.contains place) = true
  · have hu : u = s := if_pos hs
    rw [Bool.and_eq_true, List.contains_iff_mem] at hs
    rw [hu]
    exact ⟨rfl, fun _ => Iff.rfl, hs.1, hs.2⟩
  · obtain ⟨x, hx, hp⟩ := h
    have hparked : x ∈ s.parked := by
      rcases List.mem_cons.mp hx with rfl | hx
      · exact absurd hp hs
      · exact hx
    obtain ⟨t, as, bs, ht, hsplit, hgive⟩ := State.giveTurn_spec (p := fun t => t.canRun && t.places.contains place) hparked hp
    have hu : u = { s with strand := t, parked := as ++ bs ++ [s.strand] } := (if_neg hs).trans hgive
    rw [Bool.and_eq_true, List.contains_iff_mem] at ht
    rw [hu]
    refine ⟨rfl, fun y => ?_, ht.1, ht.2⟩
    simp only [State.strands, hsplit, List.mem_cons, List.mem_append, List.not_mem_nil, or_false]
    tauto

/-! ## Lines filled early -/

/-- `u` is `s` in which a core may have filled a line of another die early (R360, R384). -/
structure RanAhead (s u : State) (core : Nat) : Prop where
  rest : u = { s with guests := u.guests, fresh := u.fresh, oldCode := u.oldCode }
  code : u.oldCode = s.oldCode ∨ ∃ line, u.oldCode = (s.codeFill core line).oldCode
  kept : ∀ g ∈ s.guests, g ∈ u.guests
  filled : ∀ g ∈ u.guests, g ∈ s.guests ∨
    (g = s.fillLine core g.line ∧ s.guestScope (4 * core) (g.line * 64) false = some 4 ∧ s.guest core g.line = none)

theorem State.fillEarly_cases (s : State) (core line : Nat) : s.fillEarly (4 * core) line = s ∨
    s.fillEarly (4 * core) line = { s.codeFill core line with guests := s.fillLine core line :: s.guests } ∧
      s.guestScope (4 * core) (line * 64) false = some 4 ∧ s.guest core line = none := by
  have hcore : coreOf (4 * core) = core := by
    simp only [coreOf]
    omega
  unfold State.fillEarly
  rw [hcore]
  split
  · next hscope hguest => exact .inr ⟨rfl, hscope, hguest⟩
  · exact .inl rfl

theorem State.runAhead_spec (s : State) (core : Nat) : RanAhead s (s.runAhead core) core := by
  have htick : RanAhead s { s with fresh := s.fresh + 2 } core := ⟨rfl, .inl rfl, fun _ h => h, fun _ h => .inl h⟩
  unfold State.runAhead
  dsimp only
  split
  · exact htick
  · rcases State.fillEarly_cases { s with fresh := s.fresh + 2 } core (Config.pick (s.fresh + 1)) with h | ⟨h, hscope, hguest⟩
    · rw [h]
      exact htick
    · rw [h]
      refine ⟨rfl, .inr ⟨_, rfl⟩, fun g hg => .tail _ hg, fun g hg => ?_⟩
      rcases List.mem_cons.mp hg with rfl | hg
      · exact .inr ⟨rfl, hscope, hguest⟩
      · exact .inl hg

end Sys2Proof.Machine
end

section
/-! ISSUE_SLOT as a whole (R160, R161, R360). -/

namespace Sys2Proof.Machine
open Sys2Proof.Claims

/-- The core's issue slot has been granted, and a line perhaps filled early: what every issue slot leaves, whoever acts next. -/
structure Granted (s t : State) (core : Nat) (k : CoreSt) : Prop where
  rest : t = { s with cores := t.cores, strand := t.strand, parked := t.parked, guests := t.guests, fresh := t.fresh, oldCode := t.oldCode }
  ahead : RanAhead s { s with guests := t.guests, fresh := t.fresh, oldCode := t.oldCode } core
  self : t.core core = k
  others : ∀ c, c ≠ core → t.core c = s.core c

/-- The slot's grant before the winner's turn. -/
def granting (s : State) (core : Nat) (ready : List Nat) (chain : Option Nat) : State :=
  (s.runAhead core).setCore ((s.core core).grantSlot ready chain)

theorem granting_strand (s : State) (core : Nat) (ready : List Nat) (chain : Option Nat) : (granting s core ready chain).strand = s.strand := by
  change (s.runAhead core).strand = _
  rw [(s.runAhead_spec core).rest]

theorem granting_parked (s : State) (core : Nat) (ready : List Nat) (chain : Option Nat) : (granting s core ready chain).parked = s.parked := by
  change (s.runAhead core).parked = _
  rw [(s.runAhead_spec core).rest]

theorem granting_strands (s : State) (core : Nat) (ready : List Nat) (chain : Option Nat) : (granting s core ready chain).strands = s.strands := by
  rw [State.strands, granting_strand, granting_parked]
  rfl

theorem granting_granted (s : State) (core : Nat) (ready : List Nat) (chain : Option Nat) :
    Granted s (granting s core ready chain) core ((s.core core).grantSlot ready chain) := by
  have hahead := s.runAhead_spec core
  obtain ⟨hcore, -, -⟩ := (s.core core).grantSlot_frame ready chain
  rw [s.core_core core] at hcore
  have hrest : granting s core ready chain = { s with
      cores := (granting s core ready chain).cores, guests := (s.runAhead core).guests, fresh := (s.runAhead core).fresh,
      oldCode := (s.runAhead core).oldCode } :=
    congrArg (fun u : State => { u with cores := (granting s core ready chain).cores }) hahead.rest
  have hcores (c : Nat) : (s.runAhead core).core c = s.core c := by
    rw [hahead.rest]
    rfl
  refine ⟨by rw [granting_strand, granting_parked]; exact hrest, ⟨rfl, hahead.code, hahead.kept, hahead.filled⟩, ?_, fun c hc => ?_⟩
  · have hself := State.core_setCore_self (s.runAhead core) ((s.core core).grantSlot ready chain)
    rwa [hcore] at hself
  · exact (State.core_setCore_of_ne _ (by rwa [hcore])).trans (hcores c)

theorem Granted.turn {s u t : State} {core : Nat} {k : CoreSt} (h : Granted s u core k) (ht : t = { u with strand := t.strand, parked := t.parked }) :
    Granted s t core k := by
  have hcores : t.cores = u.cores := by rw [ht]
  have hguests : t.guests = u.guests := by rw [ht]
  have hfresh : t.fresh = u.fresh := by rw [ht]
  have hcode : t.oldCode = u.oldCode := by rw [ht]
  refine ⟨?_, ?_, ?_, fun c hc => ?_⟩
  · rw [hcores, hguests, hfresh, hcode]
    exact ht.trans (congrArg (fun v : State => { v with strand := t.strand, parked := t.parked }) h.rest)
  · rw [hguests, hfresh, hcode]
    exact h.ahead
  · rw [State.core, hcores]
    exact h.self
  · rw [State.core, hcores]
    exact h.others c hc

theorem contenders_lt {s : State} {core : Nat} {ready : BitVec 4} {i : Nat} (h : i ∈ contenders s core ready) : i < 4 :=
  List.mem_range.mp (List.mem_of_mem_filter h)

/-- A contending slot has a strand that can execute. -/
theorem contenders_canRun {s : State} {core : Nat} {ready : BitVec 4} {i : Nat} (h : i ∈ contenders s core ready) :
    ∃ x ∈ s.strands, (x.canRun && x.places.contains (4 * core + i)) = true := by
  obtain ⟨-, hready⟩ := List.mem_filter.mp h
  rw [Bool.and_eq_true, List.any_eq_true] at hready
  exact hready.2

/-- The ages after a slot's grant to `w`. -/
theorem ages_grantSlot {c : CoreSt} {ready : List Nat} {chain : Option Nat} {w : Nat} (h : c.winner ready chain = some w) {i : Nat} (hi : i < 4) :
    (c.grantSlot ready chain).ages.getD i 0 = if i ∈ ready ∧ i ≠ w then c.ages.getD i 0 + 1 else 0 := by
  have hget : (c.grantSlot ready chain).ages.getD i 0 = if i = w || !ready.contains i then 0 else c.ages.getD i 0 + 1 := by
    rw [CoreSt.grantSlot_some h]
    simp [hi]
  rw [hget]
  by_cases hw : i = w <;> by_cases hr : i ∈ ready <;> simp [hw, hr]

theorem exec_issueSlot {core : Nat} (hcore : core < 256) (ready : BitVec 4) (chain : Option Nat) (s : State) :
    exec (.issueSlot core ready chain) s = .next (s.issueTo core (contenders s core ready) chain) := by
  change execIssueSlot core ready chain s = _
  rw [execIssueSlot, if_neg (by omega)]
  rfl

theorem State.issueTo_none {s : State} {core : Nat} {ready : List Nat} {chain : Option Nat} (h : (s.core core).winner ready chain = none) :
    s.issueTo core ready chain = granting s core ready chain := by
  simp only [State.issueTo, h]
  rfl

theorem State.issueTo_some {s : State} {core : Nat} {ready : List Nat} {chain : Option Nat} {w : Nat}
    (h : (s.core core).winner ready chain = some w) : s.issueTo core ready chain = (granting s core ready chain).actIn (4 * core + w) := by
  simp only [State.issueTo, h]
  rfl

/-- Without a contender the acting strand stays, and every age is 0. -/
theorem issueTo_idle (s : State) (core : Nat) (chain : Option Nat) : let t := s.issueTo core [] chain
    Granted s t core ((s.core core).grantSlot [] chain) ∧ t.strand = s.strand ∧ (∀ u, u ∈ t.strands ↔ u ∈ s.strands) ∧
      ∀ i < 4, ageOf t core i = 0 := by
  intro t
  have hnone : (s.core core).winner [] chain = none := CoreSt.winner_nil
  have ht : t = granting s core [] chain := State.issueTo_none hnone
  have hgranted : Granted s t core ((s.core core).grantSlot [] chain) := ht ▸ granting_granted s core [] chain
  refine ⟨hgranted, by rw [ht, granting_strand], fun u => by rw [ht, granting_strands], fun i hi => ?_⟩
  · rw [ageOf, hgranted.self, CoreSt.grantSlot_none hnone]
    simp only [List.getD_eq_getElem?_getD]
    interval_cases i <;> rfl

/-- With one, the winner's strand acts next. -/
theorem issueTo_wins {s : State} {core : Nat} {ready : BitVec 4} {chain : Option Nat} {w : Nat}
    (h : (s.core core).winner (contenders s core ready) chain = some w) : let t := s.issueTo core (contenders s core ready) chain
    Granted s t core ((s.core core).grantSlot (contenders s core ready) chain) ∧ (∀ u, u ∈ t.strands ↔ u ∈ s.strands) ∧ t.strand.canRun = true ∧
      4 * core + w ∈ t.strand.places := by
  intro t
  obtain ⟨hrest, hmem, hcan, hplace⟩ := State.actIn_spec (s := granting s core (contenders s core ready) chain) (place := 4 * core + w)
    (by rw [granting_strands]; exact contenders_canRun (CoreSt.winner_mem (fun _ => contenders_lt) h))
  rw [← State.issueTo_some h] at hrest hmem hcan hplace
  exact ⟨(granting_granted s core _ chain).turn hrest, fun u => (hmem u).trans (by rw [granting_strands]), hcan, hplace⟩

end Sys2Proof.Machine
end

section
open Sys2Proof Sys2Proof.Machine Sys2Proof.Claims

/-- Settles O52, event by event: a search engine's work, the request's and the answer's part in it, the atomic that has its turn, and the slot's grant. -/
theorem searchAndSliceSteps : Obligations.SearchAndSliceSteps := by
  unfold Obligations.SearchAndSliceSteps
  refine ⟨fun stack s c hstack hfrozen hc => ?resumes, fun stack s c hstack hfrozen hidle hnext hfree hsram => ?starts,
    fun row hrow stack ctx node va st s c q r bs hq hdesc hr hnode => ?request, fun stack ctx node s hfrozen => exec_answer_frozen hfrozen ctx node,
    fun stack ctx node s c q r hfrozen hq hr => exec_answer hfrozen hq hr, fun e s s1 hentries htag hstream hown => ?ordered,
    fun launch level group s l hl hlevel hready => ?release, fun core ready chain s hcore => ?slot, fun core s e es he => ?drain⟩
  case resumes =>
    intro n hn
    have hworked := State.workOn_worked (s := s) (queue := 24 + stack) (c := c) (by rw [searchUnit]; exact hn)
      fun c => runQuery c.id c.searchFuel
    rw [searchUnit] at hworked
    exact ⟨_, exec_search_resumes hstack hfrozen hc, hworked⟩
  case starts =>
    obtain ⟨ctx, hctx, hstarts⟩ := exec_search_starts hstack hfrozen hidle hnext hfree hsram
    exact ⟨freshQuery stack ctx c.id, rfl, rfl, hctx, rfl, rfl, rfl, hstarts⟩
  case request =>
    intro n hn s0
    have hworked := State.workOn_worked (s := s) (queue := 24 + r.stack) (c := c) (by rw [searchUnit]; exact hn)
      fun c => serving c q (.read bs) va node row.2
    rw [searchUnit] at hworked
    obtain ⟨hok, hstop⟩ := hworked
    rw [exec_request hrow hq, State.serve_found hdesc hr hnode]
    exact ⟨fun a t ha => hok _ _ (serving_ok ha), fun x t hx => hstop x t (E.bind_error hx)⟩
  case ordered =>
    intro h hdone hgone t
    exact ⟨State.ordNext_setOrdNext _, fun hbuffer => exec_orderedAtomicArrival hentries htag hdone hgone hbuffer hstream hown,
      fun hbuffer => exec_orderedAtomicApply hentries htag hdone hgone hbuffer⟩
  case release =>
    change execLevelBarrierRelease launch level group s = _
    simp only [execLevelBarrierRelease, hl, hlevel, hready, decide_true, Bool.and_true, if_true]
  case slot =>
    intro r
    have hlt : ∀ i ∈ r, i < 4 := fun _ => contenders_lt
    obtain ⟨-, hfifo, hscore⟩ := (s.core core).grantSlot_frame r chain
    refine ⟨_, exec_issueSlot hcore ready chain s, ?_⟩
    by_cases hr : r = []
    · obtain ⟨⟨hrest, ⟨-, hcode, hkept, hfilled⟩, hself, hothers⟩, hstrand, hstrands, hages⟩ := issueTo_idle s core chain
      rw [show contenders s core ready = [] from hr]
      rw [hr] at hfifo hscore
      exact ⟨hrest, hcode, hstrands, hkept, hfilled, hothers, by rw [hself, hfifo], by rw [hself, hscore], fun _ => ⟨hstrand, hages⟩,
        fun hne => absurd hr hne⟩
    · obtain ⟨w, hw⟩ := CoreSt.winner_isSome (c := s.core core) (chain := chain) hlt hr
      obtain ⟨⟨hrest, ⟨-, hcode, hkept, hfilled⟩, hself, hothers⟩, hstrands, hcan, hplace⟩ := issueTo_wins hw
      have hlast : ((s.issueTo core r chain).core core).last = w := by rw [hself, CoreSt.grantSlot_some hw]
      refine ⟨hrest, hcode, hstrands, hkept, hfilled, hothers, by rw [hself, hfifo], by rw [hself, hscore], fun h => absurd h hr, fun _ => ?_⟩
      rw [hlast]
      exact ⟨CoreSt.winner_mem hlt hw, hcan, hplace, fun i hi => by rw [ageOf, hself, ages_grantSlot hw hi]; rfl,
        fun i hi hage => CoreSt.winner_old hlt hw hi hage, fun hyoung k hk hchain => CoreSt.winner_chain hlt hw hyoung hk hchain,
        fun hyoung hchain => CoreSt.winner_turn hlt hw hyoung hchain⟩
  case drain =>
    exact ⟨fun hl hgone => exec_dirtyFifoDrain_home he hl hgone, fun hl hgone => exec_dirtyFifoDrain_lost he hl hgone,
      fun hl => exec_dirtyFifoDrain_locked he hl⟩

end

section
/-! The negotiation of R153 on one core, and what it gives a strand of one segment and of several (R352). -/

namespace Sys2Proof.Machine
open Sys2Proof.Claims

/-! ## The grant out of a share -/

/-- Purses asked for, from 1 to 128. -/
def pursesAsked (b : Nat) : Nat := max 1 (min 128 b)

/-- `g` of R153 out of a share: the request, or the greatest step of 512 that fits, 512 where none does. -/
def grantBelow (a b share : Nat) : Nat :=
  if grantAsked a * pursesAsked b ≤ share then grantAsked a else max 512 (share / pursesAsked b / 512 * 512)

theorem grantAsked_spec (a : Nat) : grantAsked a % 512 = 0 ∧ 512 ≤ grantAsked a ∧ grantAsked a ≤ 65536 := by
  simp only [grantAsked]
  omega

theorem pursesAsked_spec (b : Nat) : 1 ≤ pursesAsked b ∧ pursesAsked b ≤ 128 := by
  simp only [pursesAsked]
  omega

/-- It is the grant that R153 describes. -/
theorem grantOf_grantBelow (a b share : Nat) : GrantOf a b share (grantBelow a b share) := by
  obtain ⟨hmod, hleast, -⟩ := grantAsked_spec a
  obtain ⟨hpurses, -⟩ := pursesAsked_spec b
  change grantBelow a b share % 512 = 0 ∧ 512 ≤ grantBelow a b share ∧ grantBelow a b share ≤ grantAsked a ∧
    (grantBelow a b share = 512 ∨ grantBelow a b share * pursesAsked b ≤ share) ∧
    ∀ k, k % 512 = 0 → grantBelow a b share < k → k ≤ grantAsked a → share < k * pursesAsked b
  unfold grantBelow
  split
  · next hfits => exact ⟨hmod, hleast, Nat.le_refl _, .inr hfits, fun k _ hlt hle => by omega⟩
  · next hover =>
    have hbelow : share / pursesAsked b < grantAsked a := (Nat.div_lt_iff_lt_mul hpurses).mpr (Nat.lt_of_not_le hover)
    refine ⟨by omega, by omega, by omega, ?_, fun k hk hlt _ => (Nat.div_lt_iff_lt_mul hpurses).mp (by omega)⟩
    by_cases hstep : share / pursesAsked b / 512 * 512 ≤ 512
    · exact .inl (by omega)
    · refine .inr ?_
      calc max 512 (share / pursesAsked b / 512 * 512) * pursesAsked b ≤ share / pursesAsked b * pursesAsked b :=
            Nat.mul_le_mul_right _ (by omega)
        _ ≤ share := Nat.div_mul_le_self _ _

theorem grantBelow_bounds (a b share : Nat) : grantBelow a b share % 512 = 0 ∧ 512 ≤ grantBelow a b share ∧ grantBelow a b share ≤ 65536 := by
  obtain ⟨hmod, hleast, hmost, -⟩ := grantOf_grantBelow a b share
  exact ⟨hmod, hleast, by omega⟩

/-! ## Negotiation on one core -/

section
variable (s : State) (t : Strand) (core a b : Nat)

/-- What is the strand's without borrowing (R153): three banks, and in a D context its reserve. -/
def ownShare (t : Strand) : Nat := 3 * bankBits + bankBits * (if t.st.d then t.reserve else 0)

/-- Banks that the request needs beyond them. -/
def banksShort (t : Strand) (a b : Nat) : Nat := (grantAsked a * pursesAsked b - ownShare t + bankBits - 1) / bankBits

/-- The banks borrowed, by their numbers on the core (R153). -/
def State.lent : List Nat := (if t.st.d then [] else s.borrowable core).take (banksShort t a b)

theorem State.negotiate_eq : s.negotiate t core a b =
    (grantBelow a b (ownShare t + bankBits * (s.lent t core a b).length), ownShare t + bankBits * (s.lent t core a b).length,
      (s.lent t core a b).map (core * 24 + ·)) := rfl

theorem banksShort_le : banksShort t a b ≤ 32 := by
  obtain ⟨-, -, hgrant⟩ := grantAsked_spec a
  obtain ⟨-, hpurses⟩ := pursesAsked_spec b
  have hask : grantAsked a * pursesAsked b ≤ 65536 * 128 := Nat.mul_le_mul hgrant hpurses
  simp only [banksShort, bankBits]
  omega

theorem State.length_lent_le : (s.lent t core a b).length ≤ banksShort t a b := List.length_take_le _ _

variable {t}

theorem State.lent_of_d (h : t.st.d = true) : s.lent t core a b = [] := by
  rw [State.lent, if_pos h, List.take_nil]

/-- In a D context every core gives the same (R153). -/
theorem State.negotiate_of_d (h : t.st.d = true) : (s.negotiate t core a b).1 = grantBelow a b (ownShare t) ∧
    (s.negotiate t core a b).2.1 = ownShare t := by
  rw [State.negotiate_eq, s.lent_of_d core a b h]
  exact ⟨rfl, rfl⟩

variable (t)

theorem State.negotiate_bounds : (s.negotiate t core a b).1 % 512 = 0 ∧ 512 ≤ (s.negotiate t core a b).1 ∧ (s.negotiate t core a b).1 ≤ 65536 ∧
    786432 ≤ (s.negotiate t core a b).2.1 := by
  obtain ⟨hmod, hge, hle⟩ := grantBelow_bounds a b (ownShare t + bankBits * (s.lent t core a b).length)
  rw [State.negotiate_eq]
  refine ⟨hmod, hge, hle, ?_⟩
  change 786432 ≤ ownShare t + _
  simp only [ownShare, bankBits]
  omega

end

end Sys2Proof.Machine
end

section
/-! What a SETVL gives a strand (R153, R352), over the cores that it stands on. -/

namespace Sys2Proof.Machine
open Sys2Proof.Claims

theorem Strand.places_ne_nil (t : Strand) : t.places ≠ [] := by
  unfold Strand.places
  split
  · exact List.cons_ne_nil _ _
  · assumption

theorem minOf_mem {d : Nat} {l : List Nat} (h : l ≠ []) : minOf d l ∈ l := by
  obtain ⟨x, hx⟩ := Option.ne_none_iff_exists'.mp fun hnone => h (List.min?_eq_none_iff.mp hnone)
  rw [minOf, hx, Option.getD_some]
  exact List.min?_mem hx

/-- The least of equal numbers. -/
theorem minOf_const {d c : Nat} {l : List Nat} (h : l ≠ []) (hc : ∀ x ∈ l, x = c) : minOf d l = c := hc _ (minOf_mem h)

section
variable (s : State) (t : Strand) (a b : Nat)

/-- SHARE is that of the core of segment 0. -/
theorem State.setvlGrant_share : ∃ p ∈ t.places, (s.setvlGrant t a b).2.1 = ownShare t + bankBits * (s.lent t (coreOf p) a b).length ∧
    (t.segs = [] → p = t.place) := by
  obtain ⟨p, ps, hp⟩ := List.exists_cons_of_ne_nil t.places_ne_nil
  refine ⟨p, hp ▸ .head _, ?_, fun hsegs => ?_⟩
  · simp only [State.setvlGrant, hp, List.map_cons, List.headD_cons, State.negotiate_eq]
    split <;> rfl
  · rw [Strand.places, if_pos hsegs] at hp
    exact (List.cons.inj hp).1.symm

theorem State.setvlGrant_banks : (s.setvlGrant t a b).2.2.2 = t.places.flatMap fun p => (s.lent t (coreOf p) a b).map (coreOf p * 24 + ·) := by
  have hbanks : (t.places.map fun p => s.negotiate t (coreOf p) a b).flatMap (·.2.2) =
      t.places.flatMap fun p => (s.lent t (coreOf p) a b).map (coreOf p * 24 + ·) := List.flatMap_map ..
  unfold State.setvlGrant
  dsimp only
  split <;> exact hbanks

variable {t}

/-- A strand of one segment (R153). -/
theorem State.setvlGrant_plain (h : ¬ (t.st.span = true ∧ t.segs ≠ [])) : (s.setvlGrant t a b).1 = grantBelow a b (s.setvlGrant t a b).2.1 ∧
    (s.setvlGrant t a b).2.2.1 = min 128 ((s.setvlGrant t a b).2.1 / (s.setvlGrant t a b).1) := by
  obtain ⟨p, ps, hp⟩ := List.exists_cons_of_ne_nil t.places_ne_nil
  have hplain : (t.st.span && decide (t.segs ≠ [])) = false := by
    rw [Bool.eq_false_iff]
    intro hspan
    rw [Bool.and_eq_true, decide_eq_true_eq] at hspan
    exact h hspan
  simp only [State.setvlGrant, hp, List.map_cons, List.headD_cons, State.negotiate_eq, hplain, Bool.false_eq_true, if_false]
  exact ⟨trivial, trivial⟩

/-- A span strand of `n` segments (R352): the least grant that its cores give and its segments can take, and the least of their purses. -/
theorem State.setvlGrant_segments (h : t.st.span = true ∧ t.segs ≠ []) :
    let rs := t.segs.map fun p => s.negotiate t (coreOf p) a b
    let g := min (minOf 512 (rs.map (·.1))) (512 * (128 / t.segs.length))
    (s.setvlGrant t a b).1 = t.segs.length * g ∧ (s.setvlGrant t a b).2.2.1 = minOf 128 (rs.map fun r => min 128 (r.2.1 / g)) := by
  obtain ⟨hspan, hsegs⟩ := h
  have hplaces : t.places = t.segs := if_neg hsegs
  have hspans : (t.st.span && decide (t.segs ≠ [])) = true := by rw [hspan, decide_eq_true hsegs, Bool.and_true]
  simp only [State.setvlGrant, hplaces, hspans, if_true]
  exact ⟨trivial, trivial⟩

/-! ### Its bounds -/

section
variable (t)

theorem State.setvlGrant_grant_le : (s.setvlGrant t a b).1 ≤ 65536 := by
  by_cases h : t.st.span = true ∧ t.segs ≠ []
  · rw [(s.setvlGrant_segments a b h).1]
    calc t.segs.length * min _ (512 * (128 / t.segs.length)) ≤ t.segs.length * (512 * (128 / t.segs.length)) :=
          Nat.mul_le_mul_left _ (Nat.min_le_right _ _)
      _ = 512 * (t.segs.length * (128 / t.segs.length)) := Nat.mul_left_comm _ _ _
      _ ≤ 512 * 128 := Nat.mul_le_mul_left _ (Nat.mul_div_le _ _)
  · rw [(s.setvlGrant_plain a b h).1]
    exact (grantBelow_bounds a b _).2.2

theorem State.setvlGrant_share_lt (h : t.reserve ≤ 12) : (s.setvlGrant t a b).2.1 < 2 ^ 64 := by
  obtain ⟨p, -, hshare, -⟩ := s.setvlGrant_share t a b
  have hown : ownShare t ≤ 15 * bankBits := by
    unfold ownShare
    split <;> simp only [bankBits] <;> omega
  have hlent := (s.length_lent_le t (coreOf p) a b).trans (banksShort_le t a b)
  rw [hshare]
  simp only [bankBits] at hown ⊢
  omega

theorem State.setvlGrant_vregs_le : (s.setvlGrant t a b).2.2.1 ≤ 128 := by
  by_cases h : t.st.span = true ∧ t.segs ≠ []
  · rw [(s.setvlGrant_segments a b h).2]
    obtain ⟨r, -, hleast⟩ := List.mem_map.mp (minOf_mem (d := 128) (l := (t.segs.map fun p => s.negotiate t (coreOf p) a b).map fun r =>
      min 128 (r.2.1 / min (minOf 512 ((t.segs.map fun p => s.negotiate t (coreOf p) a b).map (·.1))) (512 * (128 / t.segs.length))))
      (by simpa using h.2))
    rw [← hleast]
    exact Nat.min_le_left _ _
  · rw [(s.setvlGrant_plain a b h).2]
    exact Nat.min_le_left _ _

end

/-! ### A span strand of at most 8 segments -/

theorem State.setvlGrant_span (h : t.st.span = true ∧ t.segs ≠ []) (hn : t.segs.length ≤ 8) : ∃ g, g % 512 = 0 ∧ 512 ≤ g ∧
    g ≤ 512 * (128 / t.segs.length) ∧ (s.setvlGrant t a b).1 = t.segs.length * g ∧ 1 ≤ (s.setvlGrant t a b).2.2.1 ∧
    (s.setvlGrant t a b).2.2.1 ≤ 128 ∧ (t.st.d = true → (s.setvlGrant t a b).2.2.1 = min 128 ((s.setvlGrant t a b).2.1 / g) ∧
      g = min (grantBelow a b (s.setvlGrant t a b).2.1) (512 * (128 / t.segs.length))) := by
  obtain ⟨hgrant, hvregs⟩ := s.setvlGrant_segments a b h
  obtain ⟨q, -, hshare, -⟩ := s.setvlGrant_share t a b
  obtain ⟨-, hsegs⟩ := h
  have hpos : 0 < t.segs.length := List.length_pos_iff.mpr hsegs
  have hpurses : 16 ≤ 128 / t.segs.length := (Nat.le_div_iff_mul_le hpos).mpr (by omega)
  -- what the cores give, the least grant among it
  have hrs : ∀ r ∈ t.segs.map (fun p => s.negotiate t (coreOf p) a b), r.1 % 512 = 0 ∧ 512 ≤ r.1 ∧ r.1 ≤ 65536 ∧ 786432 ≤ r.2.1 := by
    intro r hr
    obtain ⟨p, -, rfl⟩ := List.mem_map.mp hr
    exact s.negotiate_bounds t (coreOf p) a b
  have hrsd : t.st.d = true → ∀ r ∈ t.segs.map (fun p => s.negotiate t (coreOf p) a b), r.1 = grantBelow a b (ownShare t) ∧ r.2.1 = ownShare t := by
    intro hd r hr
    obtain ⟨p, -, rfl⟩ := List.mem_map.mp hr
    exact s.negotiate_of_d (coreOf p) a b hd
  have hne : t.segs.map (fun p => s.negotiate t (coreOf p) a b) ≠ [] := by simpa using hsegs
  generalize t.segs.map (fun p => s.negotiate t (coreOf p) a b) = rs at hgrant hvregs hrs hrsd hne
  obtain ⟨r, hr, hleast⟩ := List.mem_map.mp (minOf_mem (d := 512) (l := rs.map (·.1)) (by simpa using hne))
  obtain ⟨hmod, hge, hle, -⟩ := hrs r hr
  have hg : min (minOf 512 (rs.map (·.1))) (512 * (128 / t.segs.length)) % 512 = 0 ∧ 512 ≤ min (minOf 512 (rs.map (·.1))) (512 * (128 / t.segs.length)) ∧
      min (minOf 512 (rs.map (·.1))) (512 * (128 / t.segs.length)) ≤ 65536 := by
    rw [← hleast]
    omega
  refine ⟨_, hg.1, hg.2.1, Nat.min_le_right _ _, hgrant, ?_, s.setvlGrant_vregs_le t a b, fun hd => ⟨?_, ?_⟩⟩
  · obtain ⟨x, hx, hmin⟩ := List.mem_map.mp (minOf_mem (d := 128)
      (l := rs.map fun r => min 128 (r.2.1 / min (minOf 512 (rs.map (·.1))) (512 * (128 / t.segs.length)))) (by simpa using hne))
    obtain ⟨-, -, -, hshareLeast⟩ := hrs x hx
    rw [hvregs, ← hmin]
    exact Nat.le_min.mpr ⟨by omega, (Nat.le_div_iff_mul_le (by omega)).mpr (by omega)⟩
  · rw [hvregs, hshare, s.lent_of_d _ a b hd]
    refine minOf_const (by simpa using hne) fun x hx => ?_
    obtain ⟨y, hy, rfl⟩ := List.mem_map.mp hx
    rw [(hrsd hd y hy).2]
    rfl
  · rw [hshare, s.lent_of_d _ a b hd, minOf_const (c := grantBelow a b (ownShare t)) (by simpa using hne)]
    · rfl
    · intro x hx
      obtain ⟨y, hy, rfl⟩ := List.mem_map.mp hx
      exact (hrsd hd y hy).1

end

end Sys2Proof.Machine
end

section
/-! SETVL before its grant: what the hub has prepared is installed, borrowed banks go back, and groups outside HOME are released (R149, R155, R158,
R159, R352). -/

namespace Sys2Proof.Machine
open Sys2Proof.Claims

/-! ## The steps of `State.setvl` -/

/-- What the hub has prepared becomes the strand's (R149, R155). -/
def Strand.install (t : Strand) : Strand :=
  if t.st.rgp then
    { t with segs := t.prepSegs.getD t.segs, ctl := { t.ctl with lanes := match t.prepLanes with | some l => .of l | none => t.ctl.lanes },
             prepSegs := none, prepLanes := none, st := { t.st with rgp := false } }
  else t

/-- The place of the strand's new segment 0 (R352). -/
def Strand.nextPlace (t : Strand) : Nat := (t.prepSegs.getD []).headD t.place

/-- The strand has moved, its new segments and lanes are installed, and it has borrowed nothing. -/
def State.moved (s : State) : State :=
  ((if s.strand.shifts then s.shiftPlace s.strand.nextPlace else s).mapStrand Strand.install).mapStrand fun t => { t with borrowed := [] }

/-- HELD is HOME. -/
def Strand.holdHome (t : Strand) : Strand :=
  { t with ctl := { t.ctl with lanes := { t.ctl.lanes with val := setBits t.ctl.lanes.val 0 8 t.home } } }

/-- The machine as the strand asks: the groups outside HOME have been released. -/
def State.asking (s : State) : State :=
  if s.moved.strand.st.d then s.moved
  else (s.moved.powerOffPending (coreOf s.moved.strand.place) (s.moved.strand.heldGroups &&& (255 - s.moved.strand.home))).mapStrand Strand.holdHome

/-- The grant `r` is the strand's (R153, R155). -/
def Strand.take (t : Strand) (r : Nat × Nat × Nat × List Nat) (lanes : Word) (src : Bool) : Strand :=
  let u := if decide (t.grant = r.1) && decide (t.ctl.share.val.toNat = r.2.1) then t else t.emptyPurses
  { u with borrowed := r.2.2.2, ctl := ({ u.ctl with
      grant := { val := BitVec.ofNat 64 r.1, tarn := src }, share := { val := BitVec.ofNat 64 r.2.1, tarn := src },
      vregs := { val := BitVec.ofNat 64 r.2.2.1, tarn := src }, lanes := { val := lanes, tarn := src } }).seen src }

/-- The grant that SETVL gives (R153, R352). -/
def State.grantFor (s : State) (a b : Nat) : Nat × Nat × Nat × List Nat := s.asking.setvlGrant s.asking.strand a b

/-- LANES after SETVL (R158). -/
def State.lanesFor (s : State) : Word := if s.asking.strand.st.d then s.asking.strand.ctl.lanes.val else s.asking.lanesAfter s.asking.strand

theorem State.setvl_eq (s : State) (a b : Nat) (src : Bool) :
    s.setvl a b src = s.asking.mapStrand fun t => t.take (s.grantFor a b) s.lanesFor src := rfl

/-! ## What they leave of the strand -/

/-- `y` is `x` but for where it stands, its segments and lanes, what it has borrowed and linked, and STATUS.RGP. -/
structure Readied (x y : Strand) : Prop where
  run : y.run = x.run
  reserve : y.reserve = x.reserve
  sregs : y.sregs = x.sregs
  masks : y.masks = x.masks
  purses : y.purses = x.purses
  lvid : y.lvid = x.lvid
  lvcnt : y.lvcnt = x.lvcnt
  ctl : y.ctl = { x.ctl with lanes := y.ctl.lanes }
  st : y.st = { x.st with rgp := y.st.rgp }

theorem Readied.refl (x : Strand) : Readied x x := ⟨rfl, rfl, rfl, rfl, rfl, rfl, rfl, rfl, rfl⟩

theorem Readied.trans {x y z : Strand} (h : Readied x y) (h' : Readied y z) : Readied x z where
  run := h'.run.trans h.run
  reserve := h'.reserve.trans h.reserve
  sregs := h'.sregs.trans h.sregs
  masks := h'.masks.trans h.masks
  purses := h'.purses.trans h.purses
  lvid := h'.lvid.trans h.lvid
  lvcnt := h'.lvcnt.trans h.lvcnt
  ctl := by rw [h'.ctl, h.ctl]
  st := by rw [h'.st, h.st]

theorem State.strand_shiftBarrier (s : State) (t : Strand) (core bar : Nat) : (s.shiftBarrier t core bar).strand = s.strand := by
  unfold State.shiftBarrier
  split <;> rfl

theorem State.strand_shiftPlace (s : State) (q : Nat) :
    (s.shiftPlace q).strand = { s.strand with place := q, links := (s.shiftPlace q).strand.links } := by
  unfold State.shiftPlace
  dsimp only
  split
  · next hq => rw [hq]
  · split
    · rfl
    · have hdrained := (State.Drains.drainAll s (coreOf s.strand.place)).strand
      have hbarriers : ((List.range 64).foldl (fun u b => u.shiftBarrier s.strand (coreOf q) b) (s.drainAll (coreOf s.strand.place))).strand =
          (s.drainAll (coreOf s.strand.place)).strand :=
        List.foldlRecOn (motive := fun u : State => u.strand = (s.drainAll (coreOf s.strand.place)).strand) _ _ rfl
          fun u hu b _ => (u.strand_shiftBarrier s.strand (coreOf q) b).trans hu
      rw [hbarriers, hdrained]

theorem State.shiftPlace_readied (s : State) (q : Nat) : Readied s.strand (s.shiftPlace q).strand ∧ (s.shiftPlace q).strand.place = q := by
  rw [s.strand_shiftPlace q]
  exact ⟨⟨rfl, rfl, rfl, rfl, rfl, rfl, rfl, rfl, rfl⟩, rfl⟩

theorem Strand.install_readied (t : Strand) : Readied t t.install ∧ t.install.place = t.place ∧ t.install.st.rgp = false := by
  unfold Strand.install
  split
  · exact ⟨⟨rfl, rfl, rfl, rfl, rfl, rfl, rfl, rfl, rfl⟩, rfl, rfl⟩
  · next h => exact ⟨.refl t, rfl, Bool.eq_false_of_not_eq_true h⟩

/-- Where the strand goes on (R352). -/
def Strand.goesTo (t : Strand) : Nat := if t.shifts then t.nextPlace else t.place

/-- A strand that is ready for its grant: it has borrowed nothing, and the hub has nothing for it. -/
structure ReadyForGrant (x y : Strand) : Prop extends Readied x y where
  place : y.place = x.goesTo
  rgp : y.st.rgp = false
  borrowed : y.borrowed = []

theorem State.moved_ready (s : State) : ReadyForGrant s.strand s.moved.strand := by
  have hshift : Readied s.strand (if s.strand.shifts then s.shiftPlace s.strand.nextPlace else s).strand ∧
      (if s.strand.shifts then s.shiftPlace s.strand.nextPlace else s).strand.place = s.strand.goesTo := by
    unfold Strand.goesTo
    split
    · exact s.shiftPlace_readied _
    · exact ⟨.refl _, rfl⟩
  obtain ⟨hmoved, hplace⟩ := hshift
  obtain ⟨hinstalled, hsame, hrgp⟩ := (if s.strand.shifts then s.shiftPlace s.strand.nextPlace else s).strand.install_readied
  have h := hmoved.trans hinstalled
  exact ⟨⟨h.run, h.reserve, h.sregs, h.masks, h.purses, h.lvid, h.lvcnt, h.ctl, h.st⟩, hsame.trans hplace, hrgp, rfl⟩

/-! ## Groups that power off -/

/-- Clearing a range leaves the bytes outside it. -/
theorem Mem.read_clear_of_outside {m : List Host.Cell} {lo n k : Nat} (h : Memory.wf m = true) (hk : k < lo ∨ lo + n ≤ k) :
    Mem.read (Mem.clear m lo n) k = Mem.read m k := by
  suffices haux : ∀ x, Mem.wfFrom x m = true → Mem.read (Mem.clear m lo n) k = Mem.read m k from haux none h
  induction m with
  | nil => exact fun _ _ => rfl
  | cons c m ih =>
    obtain ⟨a, v⟩ := c
    intro x hx
    have htail : Mem.wfFrom (some a) m = true := by
      simp only [Mem.wfFrom, Bool.and_eq_true] at hx
      exact hx.2
    have hrest := ih (Mem.wf_of_wfFrom htail) (some a) htail
    by_cases hin : lo ≤ a ∧ a < lo + n
    · have hclear : Mem.clear ((a, v) :: m) lo n = Mem.clear m lo n := by simp [Mem.clear, hin]
      rw [hclear, hrest]
      rcases Nat.lt_or_gt_of_ne (show k ≠ a by omega) with hlt | hgt
      · rw [Mem.read_cons_of_lt hlt, Mem.read_of_wfFrom htail rfl (Nat.le_of_lt hlt)]
      · rw [Mem.read_cons_of_gt hgt]
    · have hclear : Mem.clear ((a, v) :: m) lo n = (a, v) :: Mem.clear m lo n := by
        simp only [Mem.clear]
        rw [List.filter_cons_of_pos (by simp; omega)]
      rw [hclear, Mem.read, Mem.read, hrest]

/-- `u` is `s` with groups of a core powered off: device registers of groups, and what is kept of their bytes (R159). -/
structure PoweredOff (core : Nat) (s u : State) : Prop where
  strand : u.strand = s.strand
  canonical : s.Inv → u.Inv
  bytes : s.Inv → ∀ k, k < laneKey core 0 ∨ laneKey core 0x40000 ≤ k → Mem.read u.mem k = Mem.read s.mem k

/-- The bytes of a group lie in the core's lane slices. -/
theorem State.read_zeroGroup {s : State} (hs : s.Inv) {core g k : Nat} (hg : g < 8)
    (hk : k < laneKey core 0 ∨ laneKey core 0x40000 ≤ k) : Mem.read (s.zeroGroup core g).mem k = Mem.read s.mem k := by
  have hlane : k < laneKey core (g * 0x8000) ∨ laneKey core (g * 0x8000) + 0x8000 ≤ k := by
    simp only [laneKey] at hk ⊢
    omega
  exact Mem.read_clear_of_outside hs hlane

theorem State.inv_zeroGroup {s : State} (hs : s.Inv) (core g : Nat) : (s.zeroGroup core g).Inv := Memory.wf_clear _ _ hs

theorem PoweredOff.zeroGroup {s u : State} {core : Nat} (h : PoweredOff core s u) {g : Nat} (hg : g < 8) (a : Nat) (v : Word) :
    PoweredOff core s ((u.setReg64 a v).zeroGroup core g) where
  strand := h.strand
  canonical hs := State.inv_zeroGroup (s := u.setReg64 a v) (h.canonical hs) core g
  bytes hs k hk := (State.read_zeroGroup (s := u.setReg64 a v) (h.canonical hs) hg hk).trans (h.bytes hs k hk)

theorem State.powerOffPending_spec (s : State) (core freed : Nat) : PoweredOff core s (s.powerOffPending core freed) := by
  unfold State.powerOffPending
  refine List.foldlRecOn (motive := PoweredOff core s) _ _ ⟨rfl, id, fun _ _ _ => rfl⟩ fun u hu g hg => ?_
  dsimp only
  split
  · exact hu.zeroGroup (List.mem_range.mp hg) _ _
  · exact hu

theorem State.asking_ready (s : State) : ReadyForGrant s.strand s.asking.strand := by
  have hmoved := s.moved_ready
  unfold State.asking
  split
  · exact hmoved
  · have hstrand := (State.powerOffPending_spec s.moved (coreOf s.moved.strand.place) (s.moved.strand.heldGroups &&& (255 - s.moved.strand.home))).strand
    have hheld (t : Strand) (h : ReadyForGrant s.strand t) : ReadyForGrant s.strand t.holdHome :=
      ⟨⟨h.run, h.reserve, h.sregs, h.masks, h.purses, h.lvid, h.lvcnt, by rw [Strand.holdHome, h.ctl], h.st⟩, h.place, h.rgp, h.borrowed⟩
    exact hheld _ (by rw [hstrand]; exact hmoved)

/-- SETVL of a strand that stays changes no byte outside its core's lane slices (R159). -/
theorem State.asking_bytes {s : State} (hs : s.Inv) (hstay : s.strand.shifts = false) {k : Nat}
    (hk : k < laneKey (coreOf s.strand.place) 0 ∨ laneKey (coreOf s.strand.place) 0x40000 ≤ k) : Mem.read s.asking.mem k = Mem.read s.mem k := by
  have hplace : s.moved.strand.place = s.strand.place := by rw [s.moved_ready.place, Strand.goesTo, hstay, if_neg Bool.false_ne_true]
  have hmem : s.moved.mem = s.mem := by
    unfold State.moved
    rw [hstay]
    rfl
  unfold State.asking
  split
  · rw [hmem]
  · have hoff := State.powerOffPending_spec s.moved (coreOf s.moved.strand.place) (s.moved.strand.heldGroups &&& (255 - s.moved.strand.home))
    refine (hoff.bytes ?_ k (by rw [hplace]; exact hk)).trans (by rw [hmem])
    rw [State.Inv, hmem]
    exact hs

end Sys2Proof.Machine
end

section
/-! Borrowing (R153): a request that got fewer banks than it needs has left none to borrow. -/

namespace Sys2Proof.Machine
open Sys2Proof.Claims

/-! ## The lists of R153 -/

/-- Banks to borrow on a core, out of the banks `slots` of its slots without a strand and its L1's, down to 4 beside `reserved` ones. -/
def lendable (slots : List Nat) (reserved : Nat) (taken : Nat → Bool) : List Nat :=
  slots.filter (fun b => !taken b) ++
    ((List.range 12).filter fun b => !taken b).take (12 - reserved - ((List.range 12).filter taken).length - 4)

/-- Once all of them are taken, none is left. -/
theorem lendable_taken {slots : List Nat} {reserved : Nat} {taken now : Nat → Bool} (hstill : ∀ b, taken b = true → now b = true)
    (hall : ∀ b ∈ lendable slots reserved taken, now b = true) : lendable slots reserved now = [] := by
  have hfree {b : Nat} (h : (!now b) = true) : (!taken b) = true := by
    by_contra htaken
    rw [hstill b (by simpa using htaken)] at h
    cases h
  have hslots : slots.filter (fun b => !now b) = [] := by
    refine List.filter_eq_nil_iff.mpr fun b hb hnow => ?_
    rw [hall b (List.mem_append_left _ (List.mem_filter.mpr ⟨hb, hfree hnow⟩))] at hnow
    cases hnow
  -- of the L1's banks that were free, those behind the taken ones are left
  have hleft : ((List.range 12).filter fun b => !now b).length ≤
      ((List.range 12).filter fun b => !taken b).length - (12 - reserved - ((List.range 12).filter taken).length - 4) := by
    generalize hk : 12 - reserved - ((List.range 12).filter taken).length - 4 = k at *
    have hsub : (List.range 12).filter (fun b => !now b) = ((List.range 12).filter fun b => !taken b).filter fun b => !now b := by
      rw [List.filter_filter]
      refine List.filter_congr fun b _ => ?_
      by_cases hb : (!now b) = true
      · rw [hb, hfree hb]
        rfl
      · rw [Bool.eq_false_of_not_eq_true hb, Bool.false_and]
    have hgone : (((List.range 12).filter fun b => !taken b).take k).filter (fun b => !now b) = [] := by
      refine List.filter_eq_nil_iff.mpr fun b hb hnow => ?_
      rw [hall b (List.mem_append_right _ (by rw [hk]; exact hb))] at hnow
      cases hnow
    rw [hsub, ← List.length_drop]
    conv_lhs => rw [← List.take_append_drop k ((List.range 12).filter fun b => !taken b)]
    rw [List.filter_append, hgone, List.nil_append]
    exact List.length_filter_le _ _
  have hbefore := List.length_eq_length_filter_add taken (l := List.range 12)
  have hafter := List.length_eq_length_filter_add now (l := List.range 12)
  rw [List.length_range] at hbefore hafter
  rw [lendable, hslots, List.nil_append, List.take_eq_nil_iff]
  by_cases hnone : (List.range 12).filter (fun b => !now b) = []
  · exact .inr hnone
  · have := List.length_pos_iff.mpr hnone
    exact .inl (by omega)

/-! ## Borrowable banks -/

/-- The three banks of each slot of a core in which no strand lives. -/
def State.emptySlotBanks (s : State) (core : Nat) : List Nat :=
  ((List.range 4).filter fun i =>
    !(((s.onCore core).flatMap fun t => (t.places.filter fun p => coreOf p = core).map (· % 4)).contains i)).flatMap
    fun i => (List.range 3).map fun k => 12 + 3 * i + k

theorem State.borrowable_eq (s : State) (core : Nat) :
    s.borrowable core = lendable (s.emptySlotBanks core) ((s.onCore core).map (·.reserve)).sum (s.bankTaken core) := rfl

section
variable {s : State} {t : Strand} (hlive : t.live = s.strand.live) (hplaces : t.places = s.strand.places)
include hlive hplaces

/-- The strands on a core, where the acting one has changed in what neither its life nor its places show. -/
theorem State.onCore_strand {α : Type} (core : Nat) (f : Strand → α) (hf : f t = f s.strand) :
    (({ s with strand := t } : State).onCore core).map f = (s.onCore core).map f := by
  simp only [State.onCore, State.strands, List.filter_cons, hlive, hplaces]
  split
  · rw [List.map_cons, List.map_cons, hf]
  · rfl

theorem State.emptySlotBanks_strand (core : Nat) : ({ s with strand := t } : State).emptySlotBanks core = s.emptySlotBanks core := by
  simp only [State.emptySlotBanks, List.flatMap_def,
    State.onCore_strand hlive hplaces core (fun t => (t.places.filter fun p => coreOf p = core).map (· % 4)) (by rw [hplaces])]

/-- A strand that has taken every borrowable bank of a core leaves none there. -/
theorem State.borrowable_of_all {core : Nat} (hreserve : t.reserve = s.strand.reserve) (hnone : s.strand.borrowed = []) (hlives : t.live = true)
    (hall : ∀ b ∈ s.borrowable core, core * 24 + b ∈ t.borrowed) : ({ s with strand := t } : State).borrowable core = [] := by
  have htaken (b : Nat) : ({ s with strand := t } : State).bankTaken core b = (t.borrowed.contains (core * 24 + b) || s.bankTaken core b) := by
    simp [State.bankTaken, State.strands, hlives, hnone]
  rw [State.borrowable_eq, State.emptySlotBanks_strand hlive hplaces, State.onCore_strand hlive hplaces core (·.reserve) hreserve]
  refine lendable_taken (taken := s.bankTaken core) (fun b hb => ?_) fun b hb => ?_
  · rw [htaken, hb, Bool.or_true]
  · rw [htaken, List.contains_iff_mem.mpr (hall b hb), Bool.true_or]

end

end Sys2Proof.Machine
end

section
/-! SETVL as a whole (R153 to R155, R158, R352): the strand takes its grant. -/

namespace Sys2Proof.Machine
open Sys2Proof.Claims

/-! ## The grant taken -/

section
variable (y : Strand) (r : Nat × Nat × Nat × List Nat) (lanes : Word) (src : Bool)

/-- What taking a grant leaves of the strand. -/
theorem Strand.take_kept : let t := y.take r lanes src
    t.run = y.run ∧ t.place = y.place ∧ t.segs = y.segs ∧ t.reserve = y.reserve ∧ t.st = y.st ∧ t.sregs = y.sregs ∧ t.masks = y.masks ∧
      t.lvid = y.lvid ∧ t.lvcnt = y.lvcnt ∧ t.borrowed = r.2.2.2 := by
  intro t
  unfold t Strand.take
  dsimp only
  split <;> exact ⟨rfl, rfl, rfl, rfl, rfl, rfl, rfl, rfl, rfl, rfl⟩

theorem Strand.take_ctl : ∃ w, (y.take r lanes src).ctl = { y.ctl with
    grant := { val := BitVec.ofNat 64 r.1, tarn := src }, share := { val := BitVec.ofNat 64 r.2.1, tarn := src },
    vregs := { val := BitVec.ofNat 64 r.2.2.1, tarn := src }, lanes := { val := lanes, tarn := src }, tarnr := w } := by
  have hseen (c : Ctl) : c.seen src = { c with tarnr := (c.seen src).tarnr } := by
    unfold Ctl.seen
    split <;> rfl
  unfold Strand.take
  dsimp only
  split
  · exact ⟨_, hseen _⟩
  · exact ⟨_, hseen _⟩

theorem Strand.take_grant (h : r.1 < 2 ^ 64) : (y.take r lanes src).grant = r.1 := by
  obtain ⟨w, hctl⟩ := y.take_ctl r lanes src
  rw [Strand.grant, hctl]
  exact (BitVec.toNat_ofNat _ 64).trans (Nat.mod_eq_of_lt h)

theorem Strand.take_share (h : r.2.1 < 2 ^ 64) : (y.take r lanes src).ctl.share.val.toNat = r.2.1 := by
  obtain ⟨w, hctl⟩ := y.take_ctl r lanes src
  rw [hctl]
  exact (BitVec.toNat_ofNat _ 64).trans (Nat.mod_eq_of_lt h)

theorem Strand.take_vregs (h : r.2.2.1 < 2 ^ 64) : (y.take r lanes src).vregs = r.2.2.1 := by
  obtain ⟨w, hctl⟩ := y.take_ctl r lanes src
  rw [Strand.vregs, hctl]
  exact (BitVec.toNat_ofNat _ 64).trans (Nat.mod_eq_of_lt h)

/-- A grant or share that changes empties every purse, its tag kept (R155). -/
theorem Strand.take_empties (h : r.1 ≠ y.grant ∨ r.2.1 ≠ y.ctl.share.val.toNat) {k : Nat} (hk : k < 128) :
    (y.take r lanes src).purse k = { bits := 0, fill := 0, tag := (y.purse k).tag, tarn := false, hdr0 := 0, hdr1 := 0 } := by
  have hchanged : (decide (y.grant = r.1) && decide (y.ctl.share.val.toNat = r.2.1)) = false := by
    rw [Bool.and_eq_false_iff, decide_eq_false_iff_not, decide_eq_false_iff_not]
    exact h.imp (fun h => Ne.symm h) fun h => Ne.symm h
  simp only [Strand.take, hchanged, Bool.false_eq_true, if_false, Strand.purse, Strand.emptyPurses, Vector.getD]
  simp [hk, Purse.empty]

theorem Strand.take_keeps (hgrant : r.1 = y.grant) (hshare : r.2.1 = y.ctl.share.val.toNat) : (y.take r lanes src).purses = y.purses := by
  have hsame : (decide (y.grant = r.1) && decide (y.ctl.share.val.toNat = r.2.1)) = true := by
    rw [hgrant, hshare, decide_eq_true rfl, decide_eq_true rfl]
    rfl
  simp only [Strand.take, hsame, if_true]

end

/-- Control registers other than STATUS, GRANT, SHARE, LANES, VREGS, STRANDID and TARN read as they did. -/
theorem Strand.ctlRead_of_ctl {x t : Strand} {g sh l v w : TWord}
    (hctl : t.ctl = { x.ctl with grant := g, share := sh, vregs := v, lanes := l, tarnr := w }) (hlvid : t.lvid = x.lvid)
    (hlvcnt : t.lvcnt = x.lvcnt) (c : Word) {n : Nat} (hn : n ∉ [0x000, 0x020, 0x021, 0x022, 0x023, 0x030, 0x032]) :
    t.ctlRead c n = x.ctlRead c n := by
  simp only [List.mem_cons, List.not_mem_nil, or_false, not_or] at hn
  obtain ⟨h00, h20, h21, h22, h23, h30, h32⟩ := hn
  unfold Strand.ctlRead
  rw [hctl, hlvid, hlvcnt]
  split <;> trivial

end Sys2Proof.Machine
end

section
/-! SETVL's next state, clause by clause. -/

namespace Sys2Proof.Machine
open Sys2Proof.Claims

section
variable (s : State) (a b : Nat) (src : Bool)

theorem State.strand_setvl : (s.setvl a b src).strand = s.asking.strand.take (s.grantFor a b) s.lanesFor src := rfl

theorem State.mem_setvl : (s.setvl a b src).mem = s.asking.mem := rfl

/-! ## The three values -/

theorem State.setvl_grant : (s.setvl a b src).strand.grant = (s.grantFor a b).1 :=
  Strand.take_grant _ _ _ _ ((s.asking.setvlGrant_grant_le s.asking.strand a b).trans_lt (by decide))

theorem State.setvl_vregs : (s.setvl a b src).strand.vregs = (s.grantFor a b).2.2.1 :=
  Strand.take_vregs _ _ _ _ ((s.asking.setvlGrant_vregs_le s.asking.strand a b).trans_lt (by decide))

theorem State.setvl_share (h : s.strand.reserve ≤ 12) : (s.setvl a b src).strand.ctl.share.val.toNat = (s.grantFor a b).2.1 :=
  Strand.take_share _ _ _ _ (s.asking.setvlGrant_share_lt s.asking.strand a b (s.asking_ready.reserve ▸ h))

theorem State.setvl_borrowed : (s.setvl a b src).strand.borrowed = (s.grantFor a b).2.2.2 := by
  obtain ⟨-, -, -, -, -, -, -, -, -, hborrowed⟩ := s.asking.strand.take_kept (s.grantFor a b) s.lanesFor src
  exact hborrowed

/-! ## Where the strand stands, and its context -/

theorem State.setvl_place : (s.setvl a b src).strand.place = s.asking.strand.place ∧ (s.setvl a b src).strand.segs = s.asking.strand.segs := by
  obtain ⟨-, hplace, hsegs, -⟩ := s.asking.strand.take_kept (s.grantFor a b) s.lanesFor src
  exact ⟨hplace, hsegs⟩

theorem State.setvl_st : (s.setvl a b src).strand.st = s.asking.strand.st := by
  obtain ⟨-, -, -, -, hst, -⟩ := s.asking.strand.take_kept (s.grantFor a b) s.lanesFor src
  exact hst

theorem State.setvl_spans : ((s.setvl a b src).strand.st.span = true ∧ (s.setvl a b src).strand.segs ≠ []) ↔
    (s.asking.strand.st.span = true ∧ s.asking.strand.segs ≠ []) := by
  rw [State.setvl_st, (s.setvl_place a b src).2]

theorem State.asking_d : s.asking.strand.st.d = s.strand.st.d := by rw [s.asking_ready.st]

theorem State.asking_status : s.asking.strand.st = { s.strand.st with rgp := false } := by rw [s.asking_ready.st, s.asking_ready.rgp]

/-- Its own share: in a D context what R153 says of the reserve, in an F context three banks. -/
theorem State.ownShare_asking : (s.strand.st.d = true → ownShare s.asking.strand = shareOf s) ∧
    (s.strand.st.d = false → ownShare s.asking.strand = 786432) := by
  unfold ownShare shareOf
  rw [s.asking_d, s.asking_ready.reserve]
  refine ⟨fun hd => ?_, fun hf => ?_⟩
  · rw [hd]
    simp only [bankBits, if_true]
  · rw [hf]
    simp only [bankBits, Bool.false_eq_true, if_false]

/-! ## D and F contexts -/

variable {s}

theorem State.grantFor_of_d (hd : s.strand.st.d = true) : (s.grantFor a b).2.1 = shareOf s ∧ (s.grantFor a b).2.2.2 = [] := by
  have hlent (core : Nat) : s.asking.lent s.asking.strand core a b = [] := State.lent_of_d _ _ _ _ (s.asking_d.trans hd)
  obtain ⟨p, -, hshare, -⟩ := s.asking.setvlGrant_share s.asking.strand a b
  rw [State.grantFor, hshare, State.setvlGrant_banks, hlent, s.ownShare_asking.1 hd]
  simp [hlent]

/-- Of one segment and in an F context, the strand borrows on its one core. -/
theorem State.grantFor_of_f (hf : s.strand.st.d = false) (hsegs : s.asking.strand.segs = []) :
    let lent := (s.asking.borrowable (coreOf s.asking.strand.place)).take (banksAsked a b)
    (s.grantFor a b).2.1 = 786432 + 262144 * lent.length ∧
      (s.grantFor a b).2.2.2 = lent.map (coreOf s.asking.strand.place * 24 + ·) := by
  have hshort : banksShort s.asking.strand a b = banksAsked a b := by
    rw [banksShort, s.ownShare_asking.2 hf]
    simp only [bankBits, grantAsked, pursesAsked, banksAsked]
    omega
  have hlent : s.asking.lent s.asking.strand (coreOf s.asking.strand.place) a b =
      (s.asking.borrowable (coreOf s.asking.strand.place)).take (banksAsked a b) := by
    rw [State.lent, s.asking_d, hf, hshort, if_neg Bool.false_ne_true]
  obtain ⟨p, -, hshare, hp⟩ := s.asking.setvlGrant_share s.asking.strand a b
  have hplaces : s.asking.strand.places = [s.asking.strand.place] := if_pos hsegs
  rw [hp hsegs, hlent, s.ownShare_asking.2 hf] at hshare
  refine ⟨hshare, ?_⟩
  rw [State.grantFor, State.setvlGrant_banks, hplaces, List.flatMap_singleton, hlent]

/-- An F context that got fewer banks than it asked for has left none to borrow (R153). -/
theorem State.borrowable_setvl (hlive : s.strand.live = true) (hf : s.strand.st.d = false) (hsegs : s.asking.strand.segs = [])
    (hfew : (s.setvl a b src).strand.borrowed.length < banksAsked a b) :
    (s.setvl a b src).borrowable (coreOf (s.setvl a b src).strand.place) = [] := by
  obtain ⟨-, hbanks⟩ := State.grantFor_of_f a b hf hsegs
  obtain ⟨hplace, hsegsSame⟩ := s.setvl_place a b src
  obtain ⟨hrun, -, -, hreserve, -⟩ := s.asking.strand.take_kept (s.grantFor a b) s.lanesFor src
  rw [State.setvl_borrowed, hbanks, List.length_map, List.length_take] at hfew
  have htake : (s.asking.borrowable (coreOf s.asking.strand.place)).take (banksAsked a b) = s.asking.borrowable (coreOf s.asking.strand.place) :=
    List.take_of_length_le (by omega)
  have hsame : (s.setvl a b src).strand.live = s.asking.strand.live := by rw [Strand.live, Strand.live, State.strand_setvl, hrun]
  have haskingLive : s.asking.strand.live = s.strand.live := by rw [Strand.live, Strand.live, s.asking_ready.run]
  rw [hplace]
  refine State.borrowable_of_all (s := s.asking) (t := (s.setvl a b src).strand) hsame ?_ hreserve s.asking_ready.borrowed
    (hsame.trans (haskingLive.trans hlive)) fun k hk => ?_
  · rw [Strand.places, Strand.places, hplace, hsegsSame]
  · rw [State.setvl_borrowed, hbanks, htake]
    exact List.mem_map_of_mem hk

end

/-! ## One segment, and the same request in two D contexts -/

section
variable {s : State} {a b : Nat} {src : Bool}

theorem State.setvl_plain (hreserve : s.strand.reserve ≤ 12)
    (h : ¬ ((s.setvl a b src).strand.st.span = true ∧ (s.setvl a b src).strand.segs ≠ [])) :
    (s.setvl a b src).strand.grant = grantBelow a b (s.setvl a b src).strand.ctl.share.val.toNat ∧
      (s.setvl a b src).strand.vregs = min 128 ((s.setvl a b src).strand.ctl.share.val.toNat / (s.setvl a b src).strand.grant) := by
  rw [State.setvl_grant, State.setvl_vregs, State.setvl_share _ _ _ _ hreserve]
  exact s.asking.setvlGrant_plain a b ((s.setvl_spans a b src).not.mp h)

theorem State.setvl_share_of_d (hreserve : s.strand.reserve ≤ 12) (hd : s.strand.st.d = true) :
    (s.setvl a b src).strand.ctl.share.val.toNat = shareOf s := by
  rw [State.setvl_share _ _ _ _ hreserve]
  exact (State.grantFor_of_d a b hd).1

end

end Sys2Proof.Machine
end

section
open Sys2Proof Sys2Proof.Machine Sys2Proof.Claims

/-- Settles O38: SETVL readies the strand, negotiates on its cores, and gives it the grant. -/
theorem grantNegotiation : Obligations.GrantNegotiation := by
  unfold Obligations.GrantNegotiation
  intro s a b src hreserve hlive u t share spans
  have hready := s.asking_ready
  have hspans : spans ↔ s.asking.strand.st.span = true ∧ s.asking.strand.segs ≠ [] := s.setvl_spans a b src
  have hgrant : t.grant = (s.grantFor a b).1 := s.setvl_grant a b src
  have hshare : share = (s.grantFor a b).2.1 := s.setvl_share a b src hreserve
  have hvregs : t.vregs = (s.grantFor a b).2.2.1 := s.setvl_vregs a b src
  have hsegs : t.segs = s.asking.strand.segs := (s.setvl_place a b src).2
  obtain ⟨-, hplace, -, -, hst, hsregs, hmasks, hlvid, hlvcnt, -⟩ := s.asking.strand.take_kept (s.grantFor a b) s.lanesFor src
  have hgrantBefore : s.asking.strand.grant = s.strand.grant := by rw [Strand.grant, hready.ctl, Strand.grant]
  have hshareBefore : s.asking.strand.ctl.share = s.strand.ctl.share := by rw [hready.ctl]
  have hpurse (k : Nat) : s.asking.strand.purse k = s.strand.purse k := by rw [Strand.purse, hready.purses, Strand.purse]
  refine ⟨fun h => ?_, fun hd => ⟨State.setvl_share_of_d hreserve hd, ?_⟩, fun hf hone => ?_, fun v _ hvd hd hsame hplain => ?_, fun h hn => ?_,
    fun hchanged k hk => ?_, fun hgrantSame hshareSame => ?_, hst.trans s.asking_status, hsregs.trans hready.sregs, hmasks.trans hready.masks,
    hplace.trans hready.place, fun n hn => ?_, fun hinv hstay k hk => State.asking_bytes hinv hstay hk⟩
  · obtain ⟨hformula, hpurses⟩ := State.setvl_plain hreserve h
    exact ⟨hformula ▸ grantOf_grantBelow a b share, hpurses⟩
  · exact (s.setvl_borrowed a b src).trans (State.grantFor_of_d a b hd).2
  · have hasking : s.asking.strand.segs = [] := hsegs.symm.trans hone
    obtain ⟨hshareF, hbanks⟩ := State.grantFor_of_f a b hf hasking
    have hlength : t.borrowed.length = ((s.asking.borrowable (coreOf s.asking.strand.place)).take (banksAsked a b)).length := by
      rw [s.setvl_borrowed a b src, hbanks, List.length_map]
    refine ⟨?_, hlength.trans_le (List.length_take_le _ _), State.borrowable_setvl a b src hlive hf hasking⟩
    rw [hshare, hshareF, hlength]
  · intro w hplainV
    obtain ⟨hformula, hpurses⟩ := State.setvl_plain hreserve hplain
    obtain ⟨hformulaV, hpursesV⟩ := State.setvl_plain (hsame ▸ hreserve) hplainV
    have hshares : w.ctl.share.val.toNat = share := by
      calc w.ctl.share.val.toNat = shareOf v := State.setvl_share_of_d (hsame ▸ hreserve) hvd
        _ = shareOf s := by rw [shareOf, shareOf, hsame]
        _ = share := (State.setvl_share_of_d hreserve hd).symm
    have hgrants : w.grant = t.grant := by
      calc w.grant = grantBelow a b w.ctl.share.val.toNat := hformulaV
        _ = grantBelow a b share := by rw [hshares]
        _ = t.grant := hformula.symm
    refine ⟨hgrants, ?_, hshares⟩
    calc w.vregs = min 128 (w.ctl.share.val.toNat / w.grant) := hpursesV
      _ = min 128 (share / t.grant) := by rw [hshares, hgrants]
      _ = t.vregs := hpurses.symm
  · rw [hsegs] at hn ⊢
    rw [hgrant, hvregs, hshare]
    obtain ⟨g, hmod, hleast, hmost, hg, hone, hall, hsegmentsD⟩ := s.asking.setvlGrant_span a b (hspans.mp h) hn
    refine ⟨g, hmod, hleast, hmost, hg, hone, hall, fun hd => ?_⟩
    obtain ⟨hpurses, hsegment⟩ := hsegmentsD (s.asking_d.trans hd)
    exact ⟨hpurses, _, grantOf_grantBelow a b _, hsegment⟩
  · have hempty := s.asking.strand.take_empties (s.grantFor a b) s.lanesFor src
      (by rw [hgrantBefore, hshareBefore, ← hgrant, ← hshare]; exact hchanged) hk
    rw [← hpurse k]
    exact hempty
  · have hkept := s.asking.strand.take_keeps (s.grantFor a b) s.lanesFor src
      (by rw [hgrantBefore, ← hgrant, hgrantSame]) (by rw [hshareBefore, ← hshare, hshareSame])
    exact hkept.trans hready.purses
  · obtain ⟨w, hctl⟩ := s.asking.strand.take_ctl (s.grantFor a b) s.lanesFor src
    exact Strand.ctlRead_of_ctl (hctl.trans (by rw [hready.ctl])) (hlvid.trans hready.lvid) (hlvcnt.trans hready.lvcnt) _ hn

end
